-- ==== Sys2Proof/Word.lean ====
section
/-! DEFINITION. The word types of the FQ3232 and the media-time value (R9, R41). -/
namespace Sys2Proof

/-- An octet. -/
abbrev Byte := BitVec 8
/-- A 16-bit word (R9). -/
abbrev Word := BitVec 16
/-- A 32-bit long, stored and named high word first (R9). -/
abbrev Long := BitVec 32
/-- A 72-bit accumulator value, Q9.63 (R135, R228). -/
abbrev Acc := BitVec 72

/-- A MEDIATIME value (R41): a count of base periods and a 16-bit phase. -/
structure MT where
  count : BitVec 64
  phase : BitVec 16
  deriving DecidableEq, Repr

/-- mt 0, phase 0; also what an object reports for "none". -/
def MT.zero : MT := ⟨0, 0⟩

end Sys2Proof
end

