-- ==== Sys2Proof/Syntax.lean ====
section
/-! DEFINITION. The commands of the block: one constructor per row of spec/opcode_table.json, with its operands. -/
namespace Sys2Proof

/-- What every engine word carries beside its operands (R151, R183): the engine it issues on, GN and GS. -/
structure Issue where
  eng : Fin 32
  gn : Bool
  gs : Fin 8
  deriving DecidableEq, Repr

/-- Addressing modes 0 to 4 of R187; mode 4 names Dx and its scale code SC (1, 2, 4, 8). -/
inductive AMode where
  | ind | postInc | postMod | preDec
  | index (x : Fin 16) (sc : Fin 4)
  deriving DecidableEq, Repr

/-- A memory operand of a long-format word (R187). -/
structure MemOp where
  an : Fin 8
  mode : AMode
  deriving DecidableEq, Repr

/-- Operands of a two-source ALU word (R203): word or long, the second source a register or the immediate field. -/
inductive AluArgs where
  | wordReg (d a b : Fin 16)
  | wordImm (d a : Fin 16) (field : BitVec 8)
  | longReg (d a b : Fin 8)
  | longImm (d a : Fin 8) (field : BitVec 10)
  deriving DecidableEq, Repr

/-- Operands of NEG, ABS and NOT (R203). -/
inductive UnArgs where
  | word (d a : Fin 16)
  | long (d a : Fin 8)
  deriving DecidableEq, Repr

/-- Operands of a compare (R205): the guard written and the two sources. -/
inductive CmpArgs where
  | wordReg (g : Fin 8) (a b : Fin 16)
  | wordImm (g : Fin 8) (a : Fin 16) (field : BitVec 9)
  | longReg (g : Fin 8) (a b : Fin 8)
  | longImm (g : Fin 8) (a : Fin 8) (field : BitVec 10)
  deriving DecidableEq, Repr

/-- Destination of ASTL (R211). -/
inductive AstlDest where
  | reg (d : Fin 8)
  | mem (m : MemOp)
  deriving DecidableEq, Repr

/-- What an atomic acts on (R216): the crossing RAM at (An), or descriptor DDk indexed by Lx. -/
inductive AtomArgs where
  | cross (an : Fin 8)
  | line (k : Fin 16) (x : Fin 8)
  deriving DecidableEq, Repr

/-- The four addressing modes a pair slot may use (R218). -/
inductive SMode where
  | ind | postInc | postMod | preDec
  deriving DecidableEq, Repr

/-- A pair slot (R218), slot opcodes 0x0 to 0xF in order. -/
inductive Slot where
  | snop
  | ldl (d an : Fin 8) (m : SMode)
  | stl (src an : Fin 8) (m : SMode)
  | ld (d : Fin 16) (an : Fin 8) (m : SMode)
  | st (src : Fin 16) (an : Fin 8) (m : SMode)
  | mac (n : Fin 4) (a b : Fin 8)
  | msu (n : Fin 4) (a b : Fin 8)
  | mul (p : Fin 2) (a b : Fin 8)
  | cmac (q : Bool) (a b : Fin 8)
  | cmsu (q : Bool) (a b : Fin 8)
  | movl (d : Fin 8) (src : Fin 12)
  | addl (d a b : Fin 8)
  | subl (d a b : Fin 8)
  | mov (d src : Fin 16)
  | astl (d : Fin 8) (n : Fin 4)
  | aclr (n : Fin 4)
  deriving DecidableEq, Repr

/-- The session and sequence number of a management request (R440, R455). -/
structure Req where
  sess : Fin 16
  seq : Word
  deriving DecidableEq, Repr

/-- The three request interfaces (R459, R466). -/
inductive Iface where
  | ethernet | hq | grove
  deriving DecidableEq, Repr

/-- An endpoint (R423): kind 1 to 4, unit and first index, as written in a request. -/
structure Endpoint where
  kind : Byte
  unit : Byte
  first : Word
  deriving DecidableEq, Repr

/-- What is known of one inbound frame when it completes (R316, R318, R323, R325, R333). `slots` are the slot contents,
msb first at bit 31; `edge` is its frame edge e and `period` the time from there to the next frame edge, both to the unit of 1/65,536
base period; `bits` counts a SAP's bit clocks. For an AES3 receiver `preambles` says that its preambles are valid and in order, and
the last three fields are the subframes A and B with a parity error, with a coding violation, and their V bits. -/
structure InFrame where
  slots : List Long
  edge : MT
  period : Nat
  bits : Nat
  preambles : Bool
  parity : List Bool
  coding : List Bool
  vbits : List Bool
  deriving DecidableEq, Repr

/-- What a device on a stream's route learns with an outcome: L, MARGIN and PROTECT of its definition, and the base-period boundary from
which the admitted shares hold (R422, R424, R426). -/
structure StreamTerms where
  latency : Word
  margin : Byte
  protect : Bool
  effective : BitVec 64
  deriving DecidableEq, Repr

/-- A route that the Root has found in place of a lost one (R427): its hops, this device's own link on it, and its boundary. -/
structure NewRoute where
  hops : Byte
  link : BitVec 2
  effective : BitVec 64
  deriving DecidableEq, Repr

/-- A management cell (R381). -/
structure Cell where
  kind : Byte
  flags : Byte
  hops : Byte
  reserved : Byte
  dest : Word
  src : Word
  msgId : Word
  frag : Word
  payload : List Byte
  deriving DecidableEq, Repr

/-- The header blocks of a frame (R373) and the fields of its SOF (R370). -/
structure FrameHdr where
  device : BitVec 12
  link : BitVec 2
  low : Bool
  compat : Byte
  hold : Bool
  joined : Bool
  epoch : Long
  mtCount : BitVec 64
  claim : Long
  claimHops : Byte
  residual : Long
  arrival : Long
  anchorMt : BitVec 64
  anchorTai : BitVec 64
  taiValid : Bool
  taiUtc : Word
  nextRate : BitVec 2
  rateTarget : BitVec 64
  deriving DecidableEq, Repr

/-- A bulk unit (R386); LENGTH is the payload's length. -/
structure BulkUnit where
  seq : Word
  channel : Byte
  last : Bool
  ack : Word
  payload : List Byte
  deriving DecidableEq, Repr

/-- One audio slot of a frame (R375, R376). -/
structure LinkSlot where
  slot : Nat
  sample : Long
  valid : Bool
  deriving DecidableEq, Repr

/-- The copy of one segment that a path received (R368, R371, R391): its place in the frame, its blocks that are no data blocks by sync
header and first octet, whether its CRC is right, and the FRAME and segment that its check block names. -/
structure SegCopy where
  seg : Nat
  odd : List (BitVec 2 × Byte)
  crcGood : Bool
  frame : BitVec 12
  name : BitVec 6
  deriving DecidableEq, Repr

/-- A frame as both paths deliver it: the content of the segments that are taken, the copies of each path, and its blocks between the
segments other than its own SOF and IDLE; `uA`, `uB` are u of R395 on each path, and RESIDUAL and ARRIVAL of path B's header, in ps. -/
structure RxFrame where
  hdr : FrameHdr
  cells : List Cell
  bulk : BulkUnit
  slots : List LinkSlot
  segsA : List SegCopy
  segsB : List SegCopy
  strayA : List (BitVec 2 × Byte)
  strayB : List (BitVec 2 × Byte)
  uA : Long
  uB : Long
  resB : Long
  arrB : Long
  deriving DecidableEq, Repr

/-- Which edge of a reference came, and when: of VREF_H instead of VREF_V (R102), and its time in ps after the start of the media-time
unit in which it arrives. -/
structure EdgePos where
  line : Bool
  subPs : Long
  deriving DecidableEq, Repr

/-- A request that reaches a delay-line bank's shared slot (R243): the ECLK cycle of the slot in which it arrives, the requester
(0 the control core, 1 to 4 the bulk channel of KL0 to KL3), and one access of up to 64 bits: the first word, how many words of its
row it reads, or the words it writes. -/
structure SlotRequest where
  cycle : Fin 4
  who : Fin 5
  addr : Fin 524288
  words : Fin 4
  write : Option (List Word)
  deriving DecidableEq, Repr

/-- A bank's shared slot, with the requests that have arrived since the slot before it. -/
structure SharedSlot where
  bank : Fin 32
  arrivals : List SlotRequest
  deriving DecidableEq, Repr

/-- What a request that reaches port B of a crossing block asks (R256): nothing arrives, a read, or a write. -/
inductive PortBReq where
  | none | read
  | write (v : Word)
  deriving DecidableEq, Repr

/-- A defect that March C− meets (R264): the SECDED unit of the region, its check bits included, and the cells of it that stay 0 and
those that stay 1 whatever is written. -/
structure CellDefect where
  unit : Nat
  low : BitVec 72
  high : BitVec 72
  deriving DecidableEq, Repr

/-- The commands. Operand names follow the spec; a management request starts with its `Req`, an engine word with its
`Issue`. Quantities the hardware measures (an edge's deviation, a temperature, a frame's content) are operands. -/
inductive Instr where
  -- engine words: control (R194)
  | nop (w : Issue)
  | endFrame (w : Issue)
  | halt (w : Issue)
  | trap (w : Issue) (k : Fin 16)
  | rpt (w : Issue) (n : Nat)
  | rptx (w : Issue) (d : Fin 16)
  | blk (w : Issue) (field : BitVec 9) (len : Nat)
  | immExt (w : Issue) (ext : BitVec 21)
  | call (w : Issue) (addr : BitVec 14)
  | ret (w : Issue)
  | callm (w : Issue) (addr : BitVec 14) (mask : Word)
  | retm (w : Issue) (mask : Word)
  | br (w : Issue) (addr : BitVec 14)
  | brc (w : Issue) (cc : Fin 4) (d : Fin 16) (addr : BitVec 14)
  -- moves, loads and stores (R201)
  | mov (w : Issue) (d src : Fin 46)
  | movl (w : Issue) (d : Fin 8) (src : Fin 12)
  | ldi (w : Issue) (d : Fin 46) (imm : Word)
  | ldil (w : Issue) (d : Fin 8) (field : BitVec 18)
  | movp (w : Issue) (d : Fin 8) (p : Fin 2) (low : Bool)
  | ld (w : Issue) (d : Fin 46) (m : MemOp)
  | st (w : Issue) (src : Fin 46) (m : MemOp)
  | ldl (w : Issue) (d : Fin 8) (m : MemOp)
  | stl (w : Issue) (src : Fin 12) (m : MemOp)
  | pairWord (w : Issue) (h l : Slot)
  -- arithmetic and logic (R203)
  | add (w : Issue) (a : AluArgs)
  | addc (w : Issue) (a : AluArgs)
  | sub (w : Issue) (a : AluArgs)
  | subc (w : Issue) (a : AluArgs)
  | neg (w : Issue) (a : UnArgs)
  | abs (w : Issue) (a : UnArgs)
  | min (w : Issue) (a : AluArgs)
  | max (w : Issue) (a : AluArgs)
  | and (w : Issue) (a : AluArgs)
  | or (w : Issue) (a : AluArgs)
  | xor (w : Issue) (a : AluArgs)
  | not (w : Issue) (a : UnArgs)
  | shl (w : Issue) (a : AluArgs)
  | shr (w : Issue) (a : AluArgs)
  | asr (w : Issue) (a : AluArgs)
  | rol (w : Issue) (a : AluArgs)
  -- compares and guard logic (R205)
  | cmpeq (w : Issue) (a : CmpArgs)
  | cmpne (w : Issue) (a : CmpArgs)
  | cmplt (w : Issue) (a : CmpArgs)
  | cmple (w : Issue) (a : CmpArgs)
  | cmpltu (w : Issue) (a : CmpArgs)
  | cmpleu (w : Issue) (a : CmpArgs)
  | gset (w : Issue) (d : Fin 8)
  | gclr (w : Issue) (d : Fin 8)
  | gand (w : Issue) (d a b : Fin 8)
  | gor (w : Issue) (d a b : Fin 8)
  | gxor (w : Issue) (d a b : Fin 8)
  | gnot (w : Issue) (d a : Fin 8)
  -- multiply and accumulate (R206, R208, R209, R211)
  | mul (w : Issue) (p : Fin 2) (a b : Fin 12)
  | mac (w : Issue) (n : Fin 4) (a b : Fin 12)
  | msu (w : Issue) (n : Fin 4) (a b : Fin 12)
  | macs (w : Issue) (n : Fin 4) (a b : Fin 12)
  | cmul (w : Issue) (j q : Bool) (a b : Fin 8)
  | cmac (w : Issue) (j q : Bool) (a b : Fin 8)
  | cmsu (w : Issue) (j q : Bool) (a b : Fin 8)
  | aclr (w : Issue) (n : Fin 4)
  | ashf (w : Issue) (n : Fin 4) (amount : BitVec 6)
  | arnd (w : Issue) (n : Fin 4) (rm : Fin 4)
  | anrm (w : Issue) (n : Fin 4) (d : Fin 16)
  | acmp (w : Issue) (g : Fin 8) (a b : Fin 4) (cc : Fin 4)
  | asat (w : Issue) (n : Fin 4)
  | astl (w : Issue) (dst : AstlDest) (n : Fin 4) (rm : Fin 4)
  -- bit and packed-digit operations (R212, R213)
  | bfx (w : Issue) (d src : Fin 8) (pos wid : Nat) (sign : Bool)
  | bfi (w : Issue) (d src : Fin 8) (pos wid : Nat)
  | clz (w : Issue) (d : Fin 16) (src : Fin 8)
  | cls (w : Issue) (d : Fin 16) (src : Fin 8)
  | bperm (w : Issue) (d src : Fin 8) (sel : BitVec 8)
  | padd (w : Issue) (d a b : Fin 16) (ci : Bool)
  | psub (w : Issue) (d a b : Fin 16) (ci : Bool)
  | dadj (w : Issue) (d src : Fin 16) (ci : Bool)
  | pcmp (w : Issue) (g : Fin 8) (a b : Fin 16) (cc : Fin 4)
  -- delay-line and atomic words (R214, R216)
  | dwr (w : Issue) (k : Fin 16) (src : Fin 12)
  | drd (w : Issue) (t : Fin 4) (k : Fin 16) (x : Fin 8)
  | drl (w : Issue) (t : Fin 4) (k : Fin 16) (x : Fin 8)
  | drf (w : Issue) (t : Fin 4) (k : Fin 16) (x : Fin 8)
  | aadd (w : Issue) (t : Fin 4) (at' : AtomArgs) (src : Fin 8)
  | aswp (w : Issue) (t : Fin 4) (at' : AtomArgs) (src : Fin 8)
  -- sequencing of engines and media time
  | resultLand (e : Fin 32)
  | frameBoundary (e : Fin 32)
  | frameEnd (e : Fin 32)
  | scheduleLock
  | hostServiceInterrupt (e : Fin 32)
  | debugBreakTaken (e : Fin 32)
  | basePeriodBoundary
  | routerWindow (win : Fin 8)
  | baseRateArm (r : Req) (target : MT)
  -- clocks
  | refEdge (entry : Fin 8) (posDev freqDev : Int) (edge : EdgePos)
  | refStopped (entry : Fin 8)
  | refQualified (entry : Fin 8)
  | mcpllLocked
  | mcpllUnlock (ppb : Long)
  | todMessage (line : List Byte) (sincePpsMs untilPpsMs : Nat)
  | syncIn (mclk : Nat)
  | ecpllLoss
  | eclkTrip (absolute : Bool)
  | ecpllFallback
  | ecpllLock
  | eclkRestored
  | ecpllCeilingRecal (word : Long)
  | ecpllBandStore (band : Word) (temp : Word)
  | research (r : Req) (b32 b44 b48 : Word) (temp : Word)
  | eclkGapSubstitute (ep : Endpoint)
  | xoLost
  | scpllUnlock
  | lkpllUnlock
  -- engine commands and the loader
  | enterSapling (r : Req) (e : Fin 32)
  | start (r : Req) (e : Fin 32)
  | exitSapling (r : Req) (e : Fin 32)
  | release (r : Req) (e : Fin 32)
  | hsr (r : Req) (e : Fin 32)
  | imageLoad (r : Req) (e : Fin 32) (image : List Byte)
  | loadComplete (e : Fin 32)
  | clearStandby (r : Req) (e : Fin 32) (v : Byte)
  | ovfClear (r : Req) (e : Fin 32) (v : Byte)
  -- exchange routes
  | routeAdd (r : Req) (entry : Nat) (cls : Byte) (channels : Word) (src dst : Endpoint) (target : MT)
  | routeRemove (r : Req) (entry : Nat) (target : MT)
  | routeCancel (r : Req) (entry : Nat) (target : MT)
  -- memories
  | dlsLease (r : Req) (bank kind id flags : Byte) (startAt endAt : MT)
  | dlsLeaseCancel (r : Req) (bank kind id flags : Byte) (startAt endAt : MT)
  | zeroFillComplete (bank : Fin 32)
  | sharedSlotAccess (slot : SharedSlot)
  | portBAccess (block : Fin 32) (link : Bool) (word : Fin 1024) (request : PortBReq) (sameCycle : Bool)
  | crossAtomic (r : Req) (addr : Word) (op reserved : Byte) (operand : Long) (sameCycle : Bool)
  | collClear (r : Req) (mask : Long)
  | patrolRegionStart
  | patrolRedirect
  | patrolTestDone (defects : List CellDefect)
  | patrolRelease
  | restartPass (r : Req)
  | patrolAbort (r : Req)
  | patrolEnable (r : Req) (v : Byte)
  -- coefficient pages, commit groups and grafts
  | pageWrite (r : Req) (e : Fin 32) (p : Fin 128) (first : Nat) (values : List Word)
  | pageLevel (r : Req) (e : Fin 32) (p : Fin 128) (v : Byte)
  | levellingComplete (e : Fin 32) (p : Fin 128)
  | glideAbortFinish (r : Req) (e : Fin 32) (p : Fin 128)
  | glideAbortRevert (r : Req) (e : Fin 32) (p : Fin 128)
  | glideAbortEffect (e : Fin 32) (p : Fin 128)
  | glideComplete (e : Fin 32) (p : Fin 128)
  | addPage (r : Req) (g : Nat) (page : Word)
  | removePage (r : Req) (g : Nat) (page : Word)
  | scope (r : Req) (g : Nat) (v : Word)
  | addMember (r : Req) (g : Nat) (device : Word)
  | arm (r : Req) (g : Nat) (target : MT)
  | cancel (r : Req) (g : Nat) (v : Byte)
  | groupRelease (r : Req) (g : Nat) (v : Byte)
  | graftArm (r : Req) (engine curve group : Byte) (fade : Word) (target : MT)
  | graftCancel (r : Req) (engine curve group : Byte) (fade : Word) (target : MT)
  | abortFinish (r : Req) (engine curve group : Byte) (fade : Word) (target : MT)
  | abortRevert (r : Req) (engine curve group : Byte) (fade : Word) (target : MT)
  | graftAbortEffect (e : Fin 32)
  | fadeComplete (e : Fin 32)
  | prepare (src : BitVec 12) (msgId : Word) (g : Nat) (target : MT) (epoch : Long)
  | prepAck (src : BitVec 12) (g : Nat) (target : MT) (code : Word)
  | ackDeadline (g : Nat)
  -- ports: codes 0x00 to 0x0F SAPn, 0x10 to 0x17 AEn
  | portEnable (r : Req) (port : Fin 24) (v : Byte)
  | portInboundFrame (port : Fin 24) (f : InFrame)
  | portOutboundFrame (port : Fin 24) (edge : MT)
  | portQualified (port : Fin 24)
  | portAlign (port : Fin 24) (edgeIn edgeOut : Nat) (fill : Word) (spread : Bool)
  | groupAlignTimeout (g : Fin 8)
  | alignRecheck (port : Fin 24) (ok : Bool)
  | portClockLost (port : Fin 24) (criterion : Nat)
  | aesRxLock (port : Fin 8)
  | aesBlockCapture (port : Fin 8) (csA csB uA uB : List Byte) (vSeen : BitVec 2)
  | aesTxUpdate (port : Fin 8)
  | portStart (r : Req) (port : Fin 24) (dir first count : Byte) (gain : Word) (target : MT)
  | portStop (r : Req) (port : Fin 24) (dir first count : Byte) (gain : Word) (target : MT)
  | mute (r : Req) (port : Fin 24) (dir first count : Byte) (gain : Word) (target : MT)
  | unmute (r : Req) (port : Fin 24) (dir first count : Byte) (gain : Word) (target : MT)
  | gain (r : Req) (port : Fin 24) (dir first count : Byte) (gain : Word) (target : MT)
  | portCancel (r : Req) (port : Fin 24) (dir first count : Byte) (gain : Word) (target : MT)
  | zeroCrossing (port : Fin 24) (out : Bool) (ch : Fin 32)
  | zcTimeout (port : Fin 24) (out : Bool) (ch : Fin 32)
  | portRampEnd (port : Fin 24) (out : Bool) (ch : Fin 32)
  | captureBindingApply (port : Fin 24)
  -- rate bridges
  | rbEnable (r : Req) (b : Fin 16) (v : Byte)
  | bridgeLocked (b : Fin 16) (egress : Bool) (ratio portMhz : Long)
  | bridgeSlip (b : Fin 16) (egress : Bool)
  | bridgeUnlock (b : Fin 16) (egress : Bool) (portLost : Bool)
  -- links
  | linkFrameSend (l : Fin 4) (pathB : Bool) (residual : Long)
  | linkFrameReceive (l : Fin 4) (f : RxFrame)
  | messageReassemblyTimeout (src : BitVec 12) (msgId : Word)
  | cdrLock (l : Fin 4) (pathB : Bool)
  | blockLock (l : Fin 4) (pathB : Bool)
  | adaptDone (l : Fin 4) (pathB : Bool) (eq : List Byte)
  | frameLock (l : Fin 4) (pathB : Bool)
  | measureDone (l : Fin 4) (pathB : Bool) (peer : BitVec 12) (peerLink : BitVec 2) (peerPathB : Bool) (delayPs : Long) (offsetPs : Long)
  | trainingTimeout (l : Fin 4) (pathB : Bool)
  | pathDown (l : Fin 4) (pathB : Bool) (criterion : Nat)
  | delayFaultClear (l : Fin 4) (pathB : Bool)
  | retrain (r : Req) (l : Fin 4) (v : Word)
  | linkRateChange (l : Fin 4) (low : Bool)
  -- groves
  | linkJoin (l : Fin 4) (peerGrove : Long) (proof nonces : List Byte) (peer : BitVec 12) (compat : Byte)
  | joinReauth (l : Fin 4) (proof nonces : List Byte)
  | groveIdWrite (r : Req) (numbered : Bool) (v : Long)
  | rootLost
  | rootIncumbency
  | handover (r : Req) (reserved : Byte) (dwell : Word) (target : MT)
  | roundTrip (r : Req) (reserved : Byte) (dwell : Word) (target : MT)
  | drillCancel (r : Req) (reserved : Byte) (dwell : Word) (target : MT)
  | drillDwellEnd
  | drillNoTakeover
  | linkStateRecord
  | epochAnnounce (epoch : Long) (device : BitVec 12) (target : BitVec 64)
  | epochAdvance
  | adopt (r : Req)
  | adoptEffect
  | timeStep (upstream : BitVec 64) (offsetNs : Int)
  | sourceDef (r : Req) (e : Nat) (cls channels : Byte) (latency : Word) (margin flags : Byte) (src : Endpoint) (reserved : BitVec 48)
  | subscribe (r : Req) (e : Nat) (stream : Long) (dst : Endpoint)
  | subscribeResult (e : Nat) (code : Word) (failDevice : Word) (hops altHops : Byte) (terms : StreamTerms) (cls chans : Byte) (link altLink : BitVec 2)
  | streamStart (r : Req) (e : Nat) (reserved : Byte) (target : MT)
  | streamStop (r : Req) (e : Nat) (reserved : Byte) (target : MT)
  | streamCancel (r : Req) (e : Nat) (reserved : Byte) (target : MT)
  | streamRelease (r : Req) (e : Nat) (v : Byte)
  | reroute (e : Nat) (route : Option NewRoute)
  | playoutBankFree (bank : Fin 32)
  | configRecordSend
  | replaceOffer (l : Fin 4) (compat : Byte) (rightPosition : Bool) (serialLow : Long)
  | confirm (r : Req) (device : Word)
  | replaceTransferDone (good : Bool) (grove : Long) (device : BitVec 12)
  -- management requests
  | request (i : Iface) (r : Req) (body : List Byte)
  | read (r : Req) (obj : Word) (elem : Byte) (count : Nat)
  | write (r : Req) (obj : Word) (elem : Byte) (count : Nat) (data : List Byte)
  | domainOpen (r : Req) (obj : Word) (elem : Byte) (total : Nat) (digest : List Byte)
  | domainData (r : Req) (obj : Word) (elem : Byte) (offset : Nat) (data : List Byte)
  | domainClose (r : Req) (obj : Word) (elem : Byte)
  | domainRead (r : Req) (obj : Word) (elem : Byte) (offset length : Nat)
  | domainIdleTimeout (sess : Fin 16)
  | hello (i : Iface) (address : Long) (port : Word) (role keyIndex : Byte) (cn : List Byte)
  | prove (i : Iface) (sess : Fin 16) (proof : List Byte)
  | proveTimeout (sess : Fin 16)
  | lockoutEnd (i : Iface)
  | bye (i : Iface) (sess : Fin 16)
  | sessionIdleTimeout (sess : Fin 16)
  | sessionsClose (r : Req) (k : Byte)
  | relayLapse (target : BitVec 12) (sess : Byte)
  | udpDatagram (srcAddr : Long) (srcPort : Word) (packet : List Byte)
  | put (message : List Byte)
  | get (complete : Bool)
  | status
  -- events
  | eventRaise (code unit : Word) (arg : Long)
  | eventRateLimitEnd (code unit : Word)
  | eventPush (sess : Fin 16)
  | eventLogRead (r : Req)
  -- configuration store and keys
  | save (r : Req)
  | saveComplete (ok : Bool)
  | eraseStore (r : Req)
  | keyInstall (r : Req) (set index : Byte) (reserved : BitVec 40) (material : List Byte)
  | keyDelete (r : Req) (set index : Byte) (reserved : BitVec 40) (material : List Byte)
  -- power, reset, boot and firmware
  | quiet (r : Req)
  | run (r : Req)
  | dormant (r : Req)
  | powerTransition
  | wakePin (gpio : Fin 14) (falling : Bool)
  | wakeComplete
  | reset (r : Req)
  | por
  | brownout
  | resetN (high : Bool)
  | boot (straps : BitVec 2) (failed : Long) (bootMs : Long) (slotA slotB : Bool)
  | vcoreRaise
  | vcoreLower
  | slackLimit (monitor : Fin 16)
  | fwImageWrite (r : Req) (image : List Byte)
  | fwWriteComplete (ok : Bool)
  | activate (r : Req)
  | fwConfirm (r : Req)
  | discard (r : Req)
  | trialTimeout
  | advance (r : Req) (target reserved : Byte) (serial : BitVec 64)
  | tamper
  | vmonTrip (sram : Bool)
  | cmonTrip (mhz : Long)
  | tmonTrip (tj : Word)
  | tjWarning (tj : Word)
  | lockstep (cycle : Long)
  | ccRestart
  -- JTAG and the debug port
  | breakEng (unit : Byte) (addr : BitVec 24) (count : Byte)
  | step (unit : Byte) (addr : BitVec 24) (count : Byte)
  | resume (unit : Byte) (addr : BitVec 24) (count : Byte)
  | setBreak (unit : Byte) (addr : BitVec 24) (count : Byte)
  | readData (unit : Byte) (addr : BitVec 24) (count : Byte)
  | writeData (unit : Byte) (addr : BitVec 24) (count : Byte)
  | readReg (unit : Byte) (addr : BitVec 24) (count : Byte)
  | writeReg (unit : Byte) (addr : BitVec 24) (count : Byte)
  | readProg (unit : Byte) (addr : BitVec 24) (count : Byte)
  | readDls (unit : Byte) (addr : BitVec 24) (count : Byte)
  | writeDls (unit : Byte) (addr : BitVec 24) (count : Byte)
  | dbgData (valid : Bool) (data : Long)
  | dbgChallenge
  | dbgResponse (sig : List Byte)
  | extest (selected : Bool)
  | idcode
  | samplePreload
  | clamp (selected : Bool)
  | bypass (tdi : Bool)
  -- injection
  | injectEnable (r : Req) (v : Byte)
  | injectLapse
  | oneShot (r : Req) (code : Word) (reserved : Byte) (unit : Word) (arg : Long) (period count : Word)
  | periodic (r : Req) (code : Word) (reserved : Byte) (unit : Word) (arg : Long) (period count : Word)
  | injectCancel (r : Req) (code : Word)
  | cancelAll (r : Req) (v : Byte)
  | injectionFire (code : Word)
  -- rows added at the table's end
  | scpllRelock
  | scpllRelockTimeout
  | lkpllRelock
  | tjWarningRearm
  | trialDictionaryTimeout
  | dbgNonceReissue
  deriving DecidableEq, Repr

end Sys2Proof
end

