-- ==== Sys2Proof/Decode.lean ====
section
/-! DEFINITION. Reading the words: the command a table word spells (the table gives no row bits), and the engine-word
decoder that the loader and the run-time checks use (R183 to R219, R221). -/
namespace Sys2Proof

/-- No row of spec/opcode_table.json carries bits, so no word spells a command. -/
def decodeTableWord (_nbits _w : Nat) : Option Instr := none

/-- The operations of DBG_CMD (R495). -/
inductive DebugOp where
  | breakEng | step | resume | setBreak | readData | writeData | readReg | writeReg | readProg | readDls | writeDls
  deriving DecidableEq, Repr

/-- OP of DBG_CMD (R495). -/
def decodeDebugOp (op : Byte) : Option DebugOp :=
  match op.toNat with
  | 0x01 => some .breakEng
  | 0x02 => some .step
  | 0x03 => some .resume
  | 0x04 => some .setBreak
  | 0x10 => some .readData
  | 0x11 => some .writeData
  | 0x12 => some .readReg
  | 0x13 => some .writeReg
  | 0x14 => some .readProg
  | 0x20 => some .readDls
  | 0x21 => some .writeDls
  | _ => none

/-- A value of DBG_CMD: OP in [47:40], UNIT in [39:32], ADDR in [31:8] and COUNT − 1 in [7:0] (R495). -/
def decodeDebug (w : BitVec 48) : Option (DebugOp × Byte × BitVec 24 × Byte) :=
  (decodeDebugOp (w.extractLsb' 40 8)).map (fun op => (op, w.extractLsb' 32 8, w.extractLsb' 8 24, w.extractLsb' 0 8))

/-- Bits `lo` to `lo + n - 1` of a word. -/
def bitsAt (w : BitVec 32) (lo n : Nat) : Nat := w.toNat / 2 ^ lo % 2 ^ n

/-- A register code, none from `n` up: reserved (R185, R186). -/
def codeIn (n : Nat) (v : Nat) : Option (Fin n) := if h : v < n then some ⟨v, h⟩ else none

/-- Addressing modes (R187): X and SC are 0 unless MODE = 4; 5 to 7 are reserved. -/
def decodeMem (an mode x sc : Nat) : Option MemOp :=
  let a : Fin 8 := Fin.ofNat 8 an
  if mode = 4 then some ⟨a, .index (Fin.ofNat 16 x) (Fin.ofNat 4 sc)⟩
  else if x ≠ 0 || sc ≠ 0 then none
  else match mode with
    | 0 => some ⟨a, .ind⟩
    | 1 => some ⟨a, .postInc⟩
    | 2 => some ⟨a, .postMod⟩
    | 3 => some ⟨a, .preDec⟩
    | _ => none

/-- Slot addressing modes (R218). -/
def decodeSMode : Nat → SMode
  | 0 => .ind
  | 1 => .postInc
  | 2 => .postMod
  | _ => .preDec

/-- A 14-bit slot (R218). -/
def decodeSlot (w : BitVec 32) (lo : Nat) : Option Slot :=
  let f (a n : Nat) : Nat := bitsAt w (lo + a) n
  let r3 (a : Nat) : Fin 8 := Fin.ofNat 8 (f a 3)
  let r4 (a : Nat) : Fin 16 := Fin.ofNat 16 (f a 4)
  match f 10 4 with
  | 0x0 => if f 0 10 = 0 then some .snop else none
  | 0x1 => if f 0 2 = 0 then some (.ldl (r3 7) (r3 4) (decodeSMode (f 2 2))) else none
  | 0x2 => if f 0 2 = 0 then some (.stl (r3 7) (r3 4) (decodeSMode (f 2 2))) else none
  | 0x3 => if f 0 1 = 0 then some (.ld (r4 6) (r3 3) (decodeSMode (f 1 2))) else none
  | 0x4 => if f 0 1 = 0 then some (.st (r4 6) (r3 3) (decodeSMode (f 1 2))) else none
  | 0x5 => if f 0 2 = 0 then some (.mac (Fin.ofNat 4 (f 8 2)) (r3 5) (r3 2)) else none
  | 0x6 => if f 0 2 = 0 then some (.msu (Fin.ofNat 4 (f 8 2)) (r3 5) (r3 2)) else none
  | 0x7 => if f 0 3 = 0 then some (.mul (Fin.ofNat 2 (f 9 1)) (r3 6) (r3 3)) else none
  | 0x8 => if f 0 3 = 0 then some (.cmac (f 9 1 == 1) (r3 6) (r3 3)) else none
  | 0x9 => if f 0 3 = 0 then some (.cmsu (f 9 1 == 1) (r3 6) (r3 3)) else none
  | 0xA => if f 0 3 = 0 then (codeIn 12 (f 3 4)).map (fun c => .movl (r3 7) c) else none
  | 0xB => if f 0 1 = 0 then some (.addl (r3 7) (r3 4) (r3 1)) else none
  | 0xC => if f 0 1 = 0 then some (.subl (r3 7) (r3 4) (r3 1)) else none
  | 0xD => if f 0 2 = 0 then some (.mov (r4 6) (r4 2)) else none
  | 0xE => if f 0 5 = 0 then some (.astl (r3 7) (Fin.ofNat 4 (f 5 2))) else none
  | _ => if f 0 8 = 0 then some (.aclr (Fin.ofNat 4 (f 8 2))) else none

/-- The two-source ALU word of a minor code; shifts and rotates take only a short immediate (R203, R204). -/
def decodeAlu (i : Issue) (minor : Nat) (a : AluArgs) (shiftOk : Bool) : Option Instr :=
  match minor with
  | 0x0 => some (.add i a)
  | 0x1 => some (.addc i a)
  | 0x2 => some (.sub i a)
  | 0x3 => some (.subc i a)
  | 0x6 => some (.min i a)
  | 0x7 => some (.max i a)
  | 0x8 => some (.and i a)
  | 0x9 => some (.or i a)
  | 0xA => some (.xor i a)
  | 0xC => if shiftOk then some (.shl i a) else none
  | 0xD => if shiftOk then some (.shr i a) else none
  | 0xE => if shiftOk then some (.asr i a) else none
  | 0xF => if shiftOk then some (.rol i a) else none
  | _ => none

/-- NEG, ABS and NOT: the fields from I downward are 0 (R203). -/
def decodeUn (i : Issue) (minor : Nat) (a : UnArgs) : Option Instr :=
  match minor with
  | 0x4 => some (.neg i a)
  | 0x5 => some (.abs i a)
  | 0xB => some (.not i a)
  | _ => none

/-- A compare of a condition code (R205). -/
def decodeCmp (i : Issue) (cond : Nat) (a : CmpArgs) : Option Instr :=
  match cond with
  | 0 => some (.cmpeq i a)
  | 1 => some (.cmpne i a)
  | 2 => some (.cmplt i a)
  | 3 => some (.cmple i a)
  | 4 => some (.cmpltu i a)
  | 5 => some (.cmpleu i a)
  | _ => none

/-- A long word of major opcodes 0x00 to 0x11: control, moves, loads and stores (R194, R201). -/
def decodeLow (i : Issue) (op : Nat) (w : BitVec 32) : Option Instr :=
  let f := bitsAt w
  match op with
  | 0x00 =>
    match f 17 4 with
    | 0 => if f 0 17 = 0 then some (.nop i) else none
    | 1 => if f 0 17 = 0 then some (.endFrame i) else none
    | 2 => if f 0 17 = 0 then some (.halt i) else none
    | 3 => if f 4 13 = 0 then some (.trap i (Fin.ofNat 16 (f 0 4))) else none
    | _ => none
  | 0x01 =>
    if f 20 1 = 0 then (if f 12 8 = 0 then some (.rpt i (f 0 12 + 1)) else none)
    else if f 4 16 = 0 then some (.rptx i (Fin.ofNat 16 (f 0 4))) else none
  | 0x02 => some (.blk i (BitVec.ofNat 9 (f 12 9)) (f 0 12 + 1))
  | 0x03 => some (.immExt i (BitVec.ofNat 21 (f 0 21)))
  | 0x04 => if f 14 7 = 0 then some (.call i (BitVec.ofNat 14 (f 0 14))) else none
  | 0x05 =>
    if f 20 1 = 0 then (if f 0 20 = 0 then some (.ret i) else none)
    else if f 16 4 = 0 then some (.retm i (BitVec.ofNat 16 (f 0 16))) else none
  | 0x06 => if f 14 7 = 0 then some (.br i (BitVec.ofNat 14 (f 0 14))) else none
  | 0x07 =>
    if f 14 1 = 0 then some (.brc i (Fin.ofNat 4 (f 19 2)) (Fin.ofNat 16 (f 15 4)) (BitVec.ofNat 14 (f 0 14))) else none
  | 0x08 =>
    if f 0 9 = 0 then (codeIn 46 (f 15 6)).bind (fun d => (codeIn 46 (f 9 6)).map (fun s => .mov i d s)) else none
  | 0x09 => if f 0 14 = 0 then (codeIn 12 (f 14 4)).map (fun s => .movl i (Fin.ofNat 8 (f 18 3)) s) else none
  | 0x0A | 0x0B =>
    (codeIn 46 (f 15 6)).map (fun d => .ldi i d (BitVec.ofNat 16 ((op - 0x0A) * 32768 + f 0 15)))
  | 0x0C => some (.ldil i (Fin.ofNat 8 (f 18 3)) (BitVec.ofNat 18 (f 0 18)))
  | 0x0D => if f 0 16 = 0 then some (.movp i (Fin.ofNat 8 (f 18 3)) (Fin.ofNat 2 (f 17 1)) (f 16 1 == 1)) else none
  | 0x0E =>
    if f 0 3 = 0 then
      (codeIn 46 (f 15 6)).bind (fun d => (decodeMem (f 12 3) (f 9 3) (f 5 4) (f 3 2)).map (fun m => .ld i d m))
    else none
  | 0x0F =>
    if f 0 3 = 0 then
      (codeIn 46 (f 15 6)).bind (fun d => (decodeMem (f 12 3) (f 9 3) (f 5 4) (f 3 2)).map (fun m => .st i d m))
    else none
  | 0x10 =>
    if f 0 6 = 0 then (decodeMem (f 15 3) (f 12 3) (f 8 4) (f 6 2)).map (fun m => .ldl i (Fin.ofNat 8 (f 18 3)) m)
    else none
  | 0x11 =>
    if f 0 5 = 0 then
      (codeIn 12 (f 17 4)).bind (fun s => (decodeMem (f 14 3) (f 11 3) (f 7 4) (f 5 2)).map (fun m => .stl i s m))
    else none
  | _ => none

/-- A long word of major opcodes 0x12 to 0x1D: arithmetic, compares, accumulators, bits, delay lines and atomics
(R203 to R216). -/
def decodeHigh (i : Issue) (op : Nat) (w : BitVec 32) : Option Instr :=
  let f := bitsAt w
  let r3 (a : Nat) : Fin 8 := Fin.ofNat 8 (f a 3)
  let r4 (a : Nat) : Fin 16 := Fin.ofNat 16 (f a 4)
  let n2 (a : Nat) : Fin 4 := Fin.ofNat 4 (f a 2)
  match op with
  | 0x12 =>
    let m := f 17 4
    if m = 4 || m = 5 || m = 0xB then (if f 0 9 = 0 then decodeUn i m (.word (r4 13) (r4 9)) else none)
    else if f 8 1 = 0 then
      (if f 0 4 = 0 then decodeAlu i m (.wordReg (r4 13) (r4 9) (r4 4)) true else none)
    else decodeAlu i m (.wordImm (r4 13) (r4 9) (BitVec.ofNat 8 (f 0 8))) (f 4 4 == 0)
  | 0x13 =>
    let m := f 17 4
    if m = 4 || m = 5 || m = 0xB then (if f 0 11 = 0 then decodeUn i m (.long (r3 14) (r3 11)) else none)
    else if f 10 1 = 0 then
      (if f 0 7 = 0 then decodeAlu i m (.longReg (r3 14) (r3 11) (r3 7)) true else none)
    else decodeAlu i m (.longImm (r3 14) (r3 11) (BitVec.ofNat 10 (f 0 10))) (f 5 5 == 0)
  | 0x14 =>
    if f 20 1 = 0 then
      if f 9 1 = 0 then (if f 0 5 = 0 then decodeCmp i (f 17 3) (.wordReg (r3 14) (r4 10) (r4 5)) else none)
      else decodeCmp i (f 17 3) (.wordImm (r3 14) (r4 10) (BitVec.ofNat 9 (f 0 9)))
    else if f 10 1 = 0 then (if f 0 7 = 0 then decodeCmp i (f 17 3) (.longReg (r3 14) (r3 11) (r3 7)) else none)
    else decodeCmp i (f 17 3) (.longImm (r3 14) (r3 11) (BitVec.ofNat 10 (f 0 10)))
  | 0x15 =>
    match f 18 3 with
    | 0 => if f 0 15 = 0 then some (.gset i (r3 15)) else none
    | 1 => if f 0 15 = 0 then some (.gclr i (r3 15)) else none
    | 2 => if f 0 9 = 0 then some (.gand i (r3 15) (r3 12) (r3 9)) else none
    | 3 => if f 0 9 = 0 then some (.gor i (r3 15) (r3 12) (r3 9)) else none
    | 4 => if f 0 9 = 0 then some (.gxor i (r3 15) (r3 12) (r3 9)) else none
    | 5 => if f 0 12 = 0 then some (.gnot i (r3 15) (r3 12)) else none
    | _ => none
  | 0x16 =>
    if f 0 8 = 0 then
      (codeIn 12 (f 12 4)).bind (fun a => (codeIn 12 (f 8 4)).bind (fun b =>
        match f 18 3 with
        | 0 => if f 17 1 = 0 then some (.mul i (Fin.ofNat 2 (f 16 1)) a b) else none
        | 1 => some (.mac i (n2 16) a b)
        | 2 => some (.msu i (n2 16) a b)
        | 3 => some (.macs i (n2 16) a b)
        | _ => none))
    else none
  | 0x17 =>
    if f 0 10 = 0 then
      match f 18 3 with
      | 0 => some (.cmul i (f 17 1 == 1) (f 16 1 == 1) (r3 13) (r3 10))
      | 1 => some (.cmac i (f 17 1 == 1) (f 16 1 == 1) (r3 13) (r3 10))
      | 2 => some (.cmsu i (f 17 1 == 1) (f 16 1 == 1) (r3 13) (r3 10))
      | _ => none
    else none
  | 0x18 =>
    match f 17 4 with
    | 0 => if f 0 15 = 0 then some (.aclr i (n2 15)) else none
    | 1 => if f 0 9 = 0 then some (.ashf i (n2 15) (BitVec.ofNat 6 (f 9 6))) else none
    | 2 => if f 0 13 = 0 then some (.arnd i (n2 15) (n2 13)) else none
    | 3 => if f 0 11 = 0 then some (.anrm i (n2 15) (r4 11)) else none
    | 4 => if f 0 8 = 0 && f 8 2 ≠ 3 then some (.acmp i (r3 10) (n2 15) (n2 13) (n2 8)) else none
    | 5 => if f 0 15 = 0 then some (.asat i (n2 15)) else none
    | _ => none
  | 0x19 =>
    if f 20 1 = 1 then (if f 0 13 = 0 then some (.astl i (.reg (r3 13)) (n2 18) (n2 16)) else none)
    else if f 0 4 = 0 then
      (decodeMem (f 13 3) (f 10 3) (f 6 4) (f 4 2)).map (fun m => .astl i (.mem m) (n2 18) (n2 16))
    else none
  | 0x1A =>
    match f 18 3 with
    | 0 =>
      if f 0 1 = 0 && f 7 5 + f 2 5 + 1 ≤ 32 then some (.bfx i (r3 15) (r3 12) (f 7 5) (f 2 5 + 1) (f 1 1 == 1)) else none
    | 1 => if f 0 2 = 0 && f 7 5 + f 2 5 + 1 ≤ 32 then some (.bfi i (r3 15) (r3 12) (f 7 5) (f 2 5 + 1)) else none
    | 2 => if f 0 11 = 0 then some (.clz i (r4 14) (r3 11)) else none
    | 3 => if f 0 11 = 0 then some (.cls i (r4 14) (r3 11)) else none
    | 4 => if f 0 4 = 0 then some (.bperm i (r3 15) (r3 12) (BitVec.ofNat 8 (f 4 8))) else none
    | _ => none
  | 0x1B =>
    match f 18 3 with
    | 0 => if f 0 5 = 0 then some (.padd i (r4 13) (r4 9) (r4 5) (f 17 1 == 1)) else none
    | 1 => if f 0 5 = 0 then some (.psub i (r4 13) (r4 9) (r4 5) (f 17 1 == 1)) else none
    | 2 => if f 0 9 = 0 then some (.dadj i (r4 13) (r4 9) (f 17 1 == 1)) else none
    | 3 =>
      if f 0 5 = 0 && (f 16 2 ≠ 3 || f 5 4 = 0) then some (.pcmp i (r3 13) (r4 9) (r4 5) (n2 16)) else none
    | _ => none
  | 0x1C =>
    match f 18 3 with
    | 0 => if f 0 10 = 0 then (codeIn 12 (f 10 4)).map (fun s => .dwr i (r4 14) s) else none
    | 1 => if f 0 9 = 0 then some (.drd i (n2 16) (r4 12) (r3 9)) else none
    | 2 => if f 0 9 = 0 then some (.drl i (n2 16) (r4 12) (r3 9)) else none
    | 3 => if f 0 9 = 0 then some (.drf i (n2 16) (r4 12) (r3 9)) else none
    | _ => none
  | 0x1D =>
    let at' : Option AtomArgs :=
      if f 19 1 = 0 then (if f 0 11 = 0 then some (.cross (r3 11)) else none)
      else if f 0 7 = 0 then some (.line (r4 10) (r3 7)) else none
    at'.map (fun a => if f 20 1 = 0 then .aadd i (n2 17) a (r3 14) else .aswp i (n2 17) a (r3 14))
  | _ => none

/-- The engine word that 32 bits spell on engine `e`; none for an undefined encoding (R183, R184, R193, R221, R225). A
BLK whose field is 0 and the bits of an IMM are judged with the word that follows. -/
def decodeEngWord (e : Fin 32) (w : BitVec 32) : Option Instr :=
  let f := bitsAt w
  if f 31 1 = 1 then
    let i : Issue := ⟨e, f 30 1 == 1, Fin.ofNat 8 (f 28 2)⟩
    (decodeSlot w 14).bind (fun h => (decodeSlot w 0).bind (fun l =>
      let array : Slot → Bool := fun s => match s with
        | .mac .. | .msu .. | .mul .. | .cmac .. | .cmsu .. => true
        | _ => false
      if array h && array l then none else some (.pairWord i h l)))
  else
    let i : Issue := ⟨e, f 30 1 == 1, Fin.ofNat 8 (f 27 3)⟩
    let op := f 21 6
    if op < 0x12 then decodeLow i op w
    else if op < 0x1E then decodeHigh i op w
    else if op < 0x30 then none
    else some (.callm i (BitVec.ofNat 14 ((op - 0x30) * 1024 + f 16 5 * 32)) (BitVec.ofNat 16 (f 0 16)))

end Sys2Proof
end

