-- ==== Sys2Proof/Config.lean ====
section
/-! DEFINITION. What one part or one facility fixes, and the free values: constants without a body, so that nothing
can be proved about which value they take. -/
namespace Sys2Proof

/-- A number as `n` octets, the most significant first. -/
def Config.octets (n v : Nat) : List Byte := (List.range n).map (fun i => BitVec.ofNat 8 (v / 256 ^ (n - 1 - i)))

/-- HMAC-SHA-256 of a message under a key (R440, R451, R405): a published function the spec names and does not write out. -/
opaque Config.hmacValue (key msg : List Byte) : BitVec 256
def Config.hmac (key msg : List Byte) : List Byte := Config.octets 32 (Config.hmacValue key msg).toNat

/-- SHA-256 of an octet string (R445, R485, R492). -/
opaque Config.sha256Value (msg : List Byte) : BitVec 256
def Config.sha256 (msg : List Byte) : List Byte := Config.octets 32 (Config.sha256Value msg).toNat

/-- ECDSA P-256 verification of a signature `r ‖ s` over a SHA-256 digest under a public key `x ‖ y` (R173, R485, R492). -/
opaque Config.ecdsaVerify (key digest sig : List Byte) : Bool

/-- Whether a 64-octet string is a point of the P-256 curve (R469, check 2). -/
opaque Config.onCurve (key : List Byte) : Bool

/-- AES key unwrap (RFC 3394) of wrapped octets under a key-encryption key; none when the integrity check fails (R469). -/
opaque Config.unwrapKey (kek wrapped : List Byte) : Option (List Byte)

/-- The Ferrok firmware key whose digest is fused at manufacture (R485). -/
opaque Config.firmwareKey : List Byte

/-- The one-time-programmable device secret, and the ECDSA P-256 identity private key that each boot derives from it (R270): the spec
gives neither the secret nor the derivation. -/
opaque Config.deviceSecret : List Byte
opaque Config.identityKey (secret : List Byte) : List Byte

/-- Key sets that the crypto unit wraps to a neighbour's identity key, and their opening with the identity private key of the part they were
wrapped to (R428, R429, R469): the spec gives neither the wrapping nor how an identity key is read; the n-th one read in a run. -/
opaque Config.sealKeys (identity keys : List Byte) : List Byte
opaque Config.openKeys (identity keys : List Byte) : Option (List Byte)
opaque Config.peerIdentity : Nat → List Byte

/-- DEV_IDENT.SERIAL, unique per part (R464). -/
opaque Config.serial : BitVec 64

/-- MGMT_NET.MAC_ADDR, set at the factory (R466). -/
opaque Config.macAddr : BitVec 48

/-- A value the spec leaves undefined: the n-th one drawn in a run. -/
opaque Config.freeWord : Nat → Word

/-- A 32-bit value the spec leaves undefined. -/
opaque Config.freeLong : Nat → Long

/-- A device nonce of `n` octets, 16 of R451 or 32 of R492: the k-th drawn in a run. -/
opaque Config.freeBits : Nat → BitVec 256
def Config.freeNonce (n k : Nat) : List Byte := Config.octets n (Config.freeBits k).toNat

/-- TOTAL of a DOMAIN_READ that reads nothing, by object and element: the spec gives the value of no element that may be read
(notes/assumptions/173). -/
opaque Config.unreadTotal (obj : Word) (el : Byte) : Long

/-- A sample out of a rate bridge's converter (R357, R362), of the estimated port rate in µHz, the media-side rate in Hz, and the input
samples that its filter spans with their distances from its centre in 1/65,536 base period: the filter is not given by the spec. -/
opaque Config.convertedSample (est mediaHz : Nat) (taps : List (Int × Long)) : Long

/-- The next estimate of a port's rate in µHz, of the one before and the rate that a frame's period shows (R353, R356): `track` is none at
20 Hz, else TRACK_BW in tenths of 1 Hz and the time since the lock, up to 1 s. The estimator's filter is not given by the spec. -/
opaque Config.rateEstimate (track : Option (Nat × Nat)) (est seen : Nat) : Nat

/-- The word in ppb against nominal that MCPLL's digital loop filter asks for at a bandwidth in tenths of 1 Hz, given the reference's
frequency, the present word and the phase error in ps (R90, R96): the spec gives no filter. -/
opaque Config.loopWord (tenthHz : Nat) (refPpb ntoPpb phasePs : Int) : Int

/-- The same for a BUFFER entry, given the port's fill less BUF_TARGET in 1/256 frame (R112). -/
opaque Config.bufferWord (tenthHz : Nat) (fill ntoPpb : Int) : Int

/-- HOPS of a cell as its originator sends it (R381): the spec gives no value. -/
opaque Config.firstHops : Byte

/-- The hop count to a device in the route table (R302), which the spec leaves
to the control core's link-state records. -/
opaque Config.routeHops : Nat → Nat

/-- The 32-bit JTAG device identification of R494, whose content the spec does not give. -/
opaque Config.idcode : Long

/-- The boundary register's captured content (R494), described outside the spec: one word per capture. -/
opaque Config.boundaryCapture : Nat → Long

end Sys2Proof
end

