-- ==== Sys2Proof/Machine/State.lean ====
section
/-! DEFINITION. The state of the FQ3232: every register, RAM, FIFO, buffer, counter, mode and pin the spec names, and the
queue of waiting commands. Plain data; a field's default is its value at reset. -/
namespace Sys2Proof.Machine

/-! ## Sample engines (chapters 04, 05, 07, 08) -/

/-- One landing write of an issued word (R146, R149). Flags that are not sticky land like registers; the sticky ones are
ORed in afterwards. -/
inductive Act where
  /-- word register by its code of R185, already adjusted for LK -/
  | word (code : Nat) (v : Word)
  /-- a program's write of ST (R137: sticky bits are cleared by writing 1) -/
  | stWrite (v : Word)
  | acc (n : Nat) (v : Acc)
  | prod (n : Nat) (v : BitVec 64)
  | tap (n : Nat) (v : Long)
  | guard (n : Nat) (v : Bool)
  | flagC (v : Bool)
  /-- DC and HC2 to HC0 (R213) -/
  | flagD (dc : Bool) (hc : BitVec 3)
  | setSat
  | setPcf
  /-- AOVn of ST and ESTAT.OVF (R138) -/
  | setAov (n : Nat)
  /-- the read and write of an atomic (R217): AADD or ASWP of `operand` on the crossing RAM word address -/
  | atomCross (swap : Bool) (addr : Nat) (operand : Long) (tapReg : Nat)
  /-- the same on a DLS bank's word offset -/
  | atomDls (swap : Bool) (bank : Nat) (addr : Nat) (operand : Long) (tapReg : Nat)
  deriving DecidableEq, Repr

/-- A result in flight: it lands in cycle `due`; `iss` is the cycle it issued in; `mac` names the accumulator a
MAC-class result forwards (R150). -/
structure Flight where
  due : Nat
  iss : Nat
  mac : Option Nat
  act : Act
  deriving DecidableEq, Repr

/-- An active block loop (R158): the counter is LCk for the k-th frame from the outermost. -/
structure LoopFrame where
  first : Nat
  last : Nat
  depth : Nat
  deriving DecidableEq, Repr

/-- A transfer waiting for its delay slot (R161, R162): what follows the slot. -/
inductive Xfer where
  /-- CALL and CALLM: target, return address, mask, and the lowest word of the save area -/
  | call (target ret : Nat) (mask low : Word)
  /-- RET and RETM: target, mask, the lowest word of the save area, whether INH is cleared (R166) -/
  | ret (target : Nat) (mask low : Word) (inh : Bool)
  /-- BR, and a taken BRC -/
  | branch (target : Nat)
  /-- a transfer word whose guard or condition is false: after the slot, `w` + 1 cycles without an issue (R151, R198) -/
  | fallThrough (w : Nat)
  deriving DecidableEq, Repr

/-- A delay descriptor (R250). -/
structure Desc where
  packed3 : Bool := false
  bank : Nat := 0
  base : Nat := 0
  len : Nat := 0
  head : Nat := 0
  deriving DecidableEq, Repr

/-- What each run of an engine has of its own (R135, R297): registers, EMODE, descriptors and where its issue stands. -/
structure Ctx where
  /-- word registers by code of R185: D, A, M, B, N, LC, LK, ST; A7 starts at 0x8000 -/
  regs : Tbl Word := [(0x17, 0x8000)]
  acs : Tbl Acc := []
  prods : Tbl (BitVec 64) := []
  taps : Tbl Long := []
  /-- G7 to G0; G0 reads 1 whatever is stored (R135, R136) -/
  guards : Byte := 1
  emode : Word := 0
  descs : Tbl Desc := []
  pc : Nat := 0
  cycle : Nat := 0
  loops : List LoopFrame := []
  /-- calls whose delay slot is a body's last word: return address and loops active (the check waits for the return) -/
  defer : List (Nat × Nat) := []
  /-- iterations of the word at `pc` still to issue under RPT or RPTX (R156, R197) -/
  rpt : Option Nat := none
  xfer : Option Xfer := none
  imm : Option (BitVec 21) := none
  inflight : List Flight := []
  /-- exchange-output buffers: the one behind 0xA800 now, and the other (R17), by word 0–2047 -/
  outCur : Tbl Word := []
  outAlt : Tbl Word := []
  deriving DecidableEq, Repr

/-- Coefficient page states (R276), codes 0 to 5. -/
inductive PageState where
  | clean | dirty | armed | bound | gliding | levelling
  deriving DecidableEq, Repr

/-- A coefficient page (R239, R276, R307). -/
structure Page where
  copy0 : Tbl Word := []
  copy1 : Tbl Word := []
  /-- the copy in view -/
  view1 : Bool := false
  state : PageState := .clean
  glideFrames : Word := 0
  glideForm : Nat := 0
  /-- the host has written the shadow copy since the page was last levelled (R276) -/
  dirty : Bool := false
  group : Byte := 0
  /-- flip target T, and N and the form taken at the arm (R284, R286) -/
  glideStart : MT := MT.zero
  glideN : Nat := 0
  glideLong : Bool := false
  /-- an accepted abort: its boundary, and whether it reverts (R287) -/
  abort : Option (MT × Bool) := none
  /-- levelling goes on after the page was armed again, or bound when the glide ends -/
  bindAfter : Bool := false
  deriving DecidableEq, Repr

/-- A parsed program image in a bank (R173). -/
structure ProgBank where
  id : Long := 0
  sapling : Bool := false
  flagsAccm : Bool := false
  flagsRnd : Nat := 0
  paced : Bool := false
  rateClass : Nat := 0
  family : Nat := 0
  entry : Nat := 0
  words : Tbl Long := []
  codeWords : Nat := 0
  /-- initial data by local address -/
  data : Tbl Word := []
  /-- pages carried: page number ↦ (KEEP, words) -/
  pages : List (Nat × Bool × List Word) := []
  /-- state map: start, length, shared -/
  map : List (Nat × Nat × Bool) := []
  descs : Tbl Desc := []
  banksReq : Nat := 0
  cost : Nat := 0
  callDepth : Nat := 0
  loopDepth : Nat := 0
  /-- the image's octets, as the store records them (R488) -/
  raw : List Byte := []
  deriving DecidableEq, Repr

/-- Engine states (R179), codes 0 to 6. -/
inductive EngState where
  | idle | run | sapling | halted | quarantined | gated | debug
  deriving DecidableEq, Repr

/-- Where an engine stands in its frame (R54). -/
inductive Stage where
  /-- no frame runs: before the next boundary -/
  | none
  /-- words issue -/
  | program
  /-- END, a fault or the deadline has ended issue -/
  | ended
  deriving DecidableEq, Repr

/-- A linear fade to zero or ramp to full gain (R546): its length and the samples done, and the exact gain num / den
that it began at. -/
structure Fader where
  up : Bool
  len : Nat
  done : Nat
  num : Nat
  den : Nat
  deriving DecidableEq, Repr

/-- An armed graft (R288, R289). -/
structure GraftArm where
  curve : Nat
  group : Nat
  fade : Nat
  target : MT
  locked : Bool
  deriving DecidableEq, Repr

/-- A running double-run fade (R296 to R301). -/
structure Fade where
  start : MT
  frames : Nat
  curve : Nat
  /-- frames of the fade begun -/
  done : Nat
  abort : Option (MT × Bool)
  /-- the new run faulted in this frame (R300) -/
  newFaulted : Bool
  oldFaulted : Bool
  /-- the old run's published values of the previous frame -/
  oldPub : Tbl Word
  deriving DecidableEq, Repr

/-- A sample engine. -/
structure Engine where
  state : EngState := .idle
  haltPc : Word := 0
  /-- HALTED was entered by a break or a step (R495) -/
  haltByDebug : Bool := false
  /-- a PACED run halted by a step with its frame over: its next word issues at its next frame boundary (R164, R166) -/
  atEnd : Bool := false
  /-- a Sapling program is running (between START and HALT) -/
  running : Bool := false
  /-- the state it had before GATED (R179, R479) -/
  before : EngState := .idle
  stage : Stage := .none
  ctx : Ctx := {}
  /-- the other run's context during a double-run fade; ctx is the run that issues -/
  alt : Ctx := {}
  /-- which run issues in a fade frame: false = old, true = new (R296) -/
  newRun : Bool := false
  /-- ESTAT.OVF, HSR, PFLT, INH (R142) -/
  ovf : Bool := false
  hsrPend : Bool := false
  /-- HSR raised the ESTAT bit and waits as an interrupt (R166) -/
  hsrWait : Bool := false
  pflt : Bool := false
  inh : Bool := false
  ira : Word := 0
  faultCause : Nat := 0
  faultArg : Nat := 0
  faultRun : Nat := 0
  faultPc : Word := 0
  faultAddr : Word := 0
  /-- the running frame has faulted -/
  faulted : Bool := false
  frameCtr : Long := 0
  ctrLatch : Word := 0
  mtFrame : MT := MT.zero
  /-- exchange-input buffers: the one the program reads, and the idle one (R17), by word 0–2047 -/
  inCur : Tbl Word := []
  inAlt : Tbl Word := []
  /-- outputs published at the last boundary, and those of the frame before it (R170) -/
  pub : Tbl Word := []
  /-- fade or ramp of the published outputs (R38, R171, R476) -/
  outFade : Option Fader := none
  /-- outputs that the coming boundary publishes, and whether the next frame has been prepared (R54) -/
  nextPub : Option (Tbl Word) := none
  prepared : Bool := false
  /-- the boundary at which the exchange buffers last swapped -/
  boundaryAt : Option MT := none
  localRam : Tbl Word := []
  pages : Tbl Page := []
  active : ProgBank := {}
  standby : ProgBank := {}
  standbyState : Nat := 0
  /-- the physical bank that is active: bit 14 of a program location in LAST_LOC (R262) -/
  actBank : Bool := false
  loadResult : Word := 0
  /-- the image being loaded, and its target bank -/
  loading : Option ProgBank := none
  bank0 : Byte := 0xFF
  bank1 : Byte := 0xFF
  bank2 : Byte := 0xFF
  bank3 : Byte := 0xFF
  faultCount : Long := 0
  faultOvf : Bool := false
  lastCause : Nat := 0
  lastPc : Word := 0
  lastFrame : Long := 0
  quarCount : Long := 0
  quarOvf : Bool := false
  stAtEnd : Word := 0
  releaseReq : Bool := false
  graft : Option GraftArm := none
  fade : Option Fade := none
  graftResult : Nat := 0
  breakReq : Bool := false
  stepReq : Bool := false
  /-- the SET_BREAK address issued in the running frame (R495) -/
  breakHit : Bool := false
  breakAddr : Option Nat := none
  /-- engine-detector injections waiting for the next frame (R515): low byte of the code, and trap number -/
  injFaults : List (Nat × Nat) := []
  /-- logic powered (R475) -/
  powered : Bool := false
  selfTestFailed : Bool := false
  deriving DecidableEq, Repr

/-! ## Media time, schedule table, clocks (chapters 02, 03) -/

/-- What a scheduled action does at its target (R64). -/
inductive SchedAct where
  /-- group `g`'s pages on engine `e` -/
  | commit (g e : Nat)
  | graft (e : Nat)
  | routeAdd (r : Nat)
  | routeRemove (r : Nat)
  /-- kind 0 releases; the END of a CAPTURE lease -/
  | lease (bank kind id : Nat) (zero : Bool) (endAt : Option MT)
  /-- code of R336 (1 START to 5 GAIN) on channels first to first + count − 1 -/
  | port (port : Nat) (out : Bool) (op : Nat) (gain : Word) (first count : Nat)
  | streamStart (e : Nat)
  | streamStop (e : Nat)
  | baseRate (next : Nat)
  | drill (dwell : Option Nat)
  deriving DecidableEq, Repr

/-- An entry of the sequencer's schedule table (R64, R75). -/
structure Sched where
  target : MT
  act : SchedAct
  locked : Bool
  deriving DecidableEq, Repr

/-- MCPLL states (R96), codes 0 to 3. -/
inductive Mcpll where
  | freerun | acquire | locked | holdover
  deriving DecidableEq, Repr

/-- ECPLL states (R131), codes 0 to 4. -/
inductive Ecpll where
  | off | search | acquire | verify | locked
  deriving DecidableEq, Repr

/-- Reference states (R131), codes 0 to 6. -/
inductive RefState where
  | empty | stopped | qualifying | qualified | disqGlitch | disqRate | ignored
  deriving DecidableEq, Repr

/-- The monitor of one reference entry (R101, R104, R105, R112). -/
structure RefMon where
  state : RefState := .empty
  /-- stamps of the glitches in the last 64 expected periods, newest first -/
  glitches : List MT := []
  /-- consecutive periods beyond the pull range -/
  rateRun : Nat := 0
  /-- consecutive conforming edges since requalifying began; of a BUFFER entry, 1 while its fill is in range -/
  conforming : Nat := 0
  /-- when requalifying began: its first conforming edge, or the fill's coming into range -/
  since : MT := MT.zero
  /-- the latest edge that was no glitch -/
  lastEdge : Option MT := none
  /-- a video reference's sequence origin, a count; while it is sought, the VREF_V edges looked at since the entry qualified and
  the one nearest a base-period boundary so far: its distance in units of 10⁻¹² base period, and that boundary's count (R101) -/
  origin : Option Nat := none
  tried : Nat := 0
  nearest : Option (Nat × Nat) := none
  /-- the latest measurement of its phase, in ps, and of its frequency against nominal, in ppb -/
  phasePs : Int := 0
  freqPpb : Int := 0
  deriving DecidableEq, Repr

/-- Persistent clock settings (R131, R133). -/
structure ClockCfg where
  entries : Tbl Word := [(0, 0x05FF), (1, 0x0100)]
  requalMs : Word := 1000
  revert : Bool := true
  wckMult : Nat := 0
  wckOffset : Long := 0
  vidRate : Nat := 2
  vidLines : Word := 0
  vidOffset : Long := 0
  ppsEdge : Nat := 0
  ppsOffset : Long := 0
  todBaud : Nat := 0
  darsMult : Nat := 0
  darsOffset : Long := 0
  bufTarget : Word := 4
  bandwidth : Nat := 1
  pull : Nat := 0
  slewPpm : Word := 10
  holdAvgS : Word := 30
  ecpllMode : Nat := 0
  mclkOut : Tbl Nat := []
  wckMode : Nat := 0
  wckDuty : Nat := 0
  syncMode : Nat := 0
  ppsMode : Nat := 0
  deriving DecidableEq, Repr

/-- A playout ring (R425): bank, first word, words, and the first base period whose samples it takes. -/
structure Ring where
  bank : Nat
  first : Nat
  words : Nat
  since : MT
  deriving DecidableEq, Repr

/-- What admission stages for a base-period boundary (R28, R377, R425, R427). -/
inductive StageAct where
  /-- slots of a link, outbound or inbound, mapped to a stream entry -/
  | map (link : Nat) (out : Bool) (entry : Nat) (slots : List Nat)
  | unmap (link : Nat) (out : Bool) (slots : List Nat)
  /-- a FREE bank leased as PLAYOUT to a link -/
  | playout (bank link : Nat)
  /-- the new route of a stream's primary or alternate copy at its receiver: arrival link and its slots, hops, ring; with no slots the
  copy keeps those it has on the link -/
  | switch (entry : Nat) (alt : Bool) (link hops : Nat) (slots : List Nat) (ring : Option Ring)
  deriving DecidableEq, Repr

/-- An entry of the staged tables: its boundary and what it changes. -/
structure Staged where
  target : MT
  act : StageAct
  deriving DecidableEq, Repr

/-- Media time, the schedule table and the clock chain. -/
structure Clocks where
  mt : MT := MT.zero
  /-- BASE_RATE.CURRENT and NEXT (R86) -/
  rate : Nat := 2
  next : Nat := 2
  rateTarget : Option MT := none
  taiValid : Bool := false
  anchorMt : MT := MT.zero
  anchorTai : BitVec 64 := 0
  taiUtc : Word := 0
  sched : List Sched := []
  /-- the staged tables of slot maps, playout banks and routes, in order of their boundaries (R28, R377) -/
  staged : List Staged := []
  lateCount : Long := 0
  lateOvf : Bool := false
  mcpll : Mcpll := .freerun
  /-- index of the active REF_SELECT entry -/
  active : Option Nat := none
  refs : Tbl RefMon := []
  /-- the phase difference still to be removed, in ps: how far the reference's alignment instant lies after MCLK's (R109, R110) -/
  phasePs : Int := 0
  /-- the active reference's frequency against nominal, ppb, as its latest edge gave it -/
  refPpb : Int := 0
  /-- mt at which HOLDOVER was entered, behind HOLDOVER_S, and the word that HOLDOVER keeps, ppb (R108) -/
  holdAt : MT := MT.zero
  holdPpb : Int := 0
  /-- MCLK frequency against nominal, ppb, that MCPLL's NTO word holds (R98, R108) -/
  ntoPpb : Int := 0
  /-- ACQUIRE: the frequency error has not yet been below 1 ppm, so the bandwidth is 10 Hz (R96) -/
  coarse : Bool := false
  /-- since when the phase error has been at most 100 ns, and the edges of the reference since then (R96) -/
  nearSince : Option MT := none
  acqEdges : Nat := 0
  /-- since when the frequency error to the reference has exceeded 60 ppm (R97) -/
  offSince : Option MT := none
  /-- NTO words by base period, newest first, in runs: length, and the word if MCPLL was LOCKED (R108) -/
  hist : List (Nat × Option Int) := []
  switchCount : Long := 0
  switchOvf : Bool := false
  forceHold : Bool := false
  /-- consecutive TOD messages each labelling the next edge, and the last TAI second labelled (R105, R113) -/
  todRun : Nat := 0
  todLast : Option (BitVec 64) := none
  /-- a label for the coming PPS edge has arrived since the last edge -/
  todFresh : Bool := false
  todErr : Long := 0
  todErrOvf : Bool := false
  ecpll : Ecpll := .off
  gateOpen : Bool := false
  ceiling : Long := 0
  /-- ECPLL's NTO tuning word, never above CEILING (R118) -/
  ecWord : Long := 0
  bands : Tbl Word := []
  bandTemps : Tbl Word := []
  gapCount : Long := 0
  gapOvf : Bool := false
  lastGap : Long := 0
  /-- mt at which the running gap began -/
  gapStart : Option MT := none
  tripCount : Long := 0
  tripOvf : Bool := false
  /-- the gate has reopened and frames wait for the restart boundary (R78) -/
  restart : Bool := false
  wckPhase : Nat := 0
  /-- origin of the divider of MCLK_OUTn, in MCLK cycles after the base-period boundary (R126, R127) -/
  outPhase : Tbl Nat := []
  /-- a family hop's target has come and the gate has not reopened (R128) -/
  hopping : Bool := false
  /-- CLKOUT_CFG written and waiting for the next boundary (R133) -/
  clkoutApplied : ClockCfg := {}
  /-- count at which the last pulse of PPS_OUT began (R129) -/
  ppsLast : Option (BitVec 64) := none
  scpllLock : Bool := false
  lkpllLock : Bool := false
  xoFreq : Nat := 0
  xoLost : Bool := false
  deriving DecidableEq, Repr

/-! ## Exchange router and memories (chapters 01, 07) -/

/-- Route entry states (R33), codes 0 to 3. -/
inductive RouteState where
  | free | armed | active | removing
  deriving DecidableEq, Repr

/-- An exchange route (R29, R33). -/
structure Route where
  state : RouteState := .free
  source : Long := 0
  dest : Long := 0
  channels : Nat := 0
  cls : Nat := 3
  moves : Nat := 0
  target : Option MT := none
  result : Word := 0
  /-- target of the ADD applied: the first stamp carried (R32) -/
  since : MT := MT.zero
  deriving DecidableEq, Repr

/-- A request waiting on a bank's shared slot (R243): requester number, first word offset, words of the row to read, or the words to
write. -/
structure SharedReq where
  who : Nat
  addr : Nat
  words : Nat
  write : Option (List Word)
  deriving DecidableEq, Repr

/-- A DLS bank (R240 to R249, R273). -/
structure Bank where
  kind : Nat := 0
  id : Nat := 0
  leaseEnd : Option MT := none
  zeroPending : Bool := false
  mem : Tbl Word := []
  waits : Tbl Long := []
  waitOvf : Byte := 0
  queue : List SharedReq := []
  /-- the boundary from which a PLAYOUT bank without a ring may return to FREE (R425) -/
  emptySince : Option MT := none
  deriving DecidableEq, Repr

/-- A port-A access of a crossing block in the engine's latest cycle (R257). -/
structure PortA where
  word : Nat
  /-- value before the cycle, and the value written if any -/
  before : Word
  wrote : Option Word
  atomic : Bool
  deriving DecidableEq, Repr

/-- A port-B access that waits (R256): its word, the value it writes if it does, and the request it is a word of (R259). -/
structure PortB where
  word : Nat
  write : Option Word
  tag : Option Nat
  deriving DecidableEq, Repr

/-- A crossing-RAM block (R256 to R260, R273). -/
structure Cross where
  mem : Tbl Word := []
  flag : Bool := false
  count : Long := 0
  ovf : Bool := false
  portA : List PortA := []
  /-- port-B accesses that wait, oldest first: the control core's, and the link management channel's (R256) -/
  waitCc : List PortB := []
  waitLink : List PortB := []
  /-- the control core was served last (R256: turns), and the request that the last access was a word of -/
  lastCc : Bool := false
  lastTag : Option Nat := none
  /-- the word that port B last returned -/
  readB : Word := 0
  deriving DecidableEq, Repr

/-- Patrol states (R273), codes 0 to 4. -/
inductive PatrolState where
  | idle | copy | test | restore | paused
  deriving DecidableEq, Repr

/-- Patrol (R263 to R269). -/
structure Patrol where
  state : PatrolState := .idle
  region : Nat := 0
  passes : Long := 0
  passOvf : Bool := false
  lastEnd : MT := MT.zero
  lastResult : Nat := 0
  /-- the region was copied and accesses go to the buffer -/
  redirected : Bool := false
  /-- an abort, a restart, a pause or a control-core pause waits for the region's release -/
  abortReq : Bool := false
  restartReq : Bool := false
  pauseReq : Bool := false
  /-- mt at which the last region of the pass started (R268) -/
  cutoff : Option MT := none
  /-- accesses that the running step of a delay-line region has still to make through the shared slot (R264) -/
  left : Nat := 0
  /-- what the region's own cells hold, by SECDED unit, while accesses go to the buffer; the tables of the memories hold what an
  access sees, the buffer's contents then (R264) -/
  cells : Tbl (BitVec 72) := []
  deriving DecidableEq, Repr

/-- Repair record, kept in boot flash (R266, R267): regions remapped (to a spare number), regions left failing, counts. -/
structure Repair where
  remaps : Tbl Nat := []
  skipped : List Nat := []
  remapCount : Long := 0
  unrepaired : Long := 0
  deriving DecidableEq, Repr

/-- The memories shared across the device and their bookkeeping. -/
structure Mem where
  banks : Tbl Bank := []
  cross : Tbl Cross := []
  /-- ECC marks by location in the form of LAST_LOC (R262): 1 correctable, 2 uncorrectable -/
  ecc : Tbl Nat := []
  corr : Tbl Long := []
  uncorr : Tbl Long := []
  eccOvf : Word := 0
  lastLoc : Long := 0
  patrol : Patrol := {}
  /-- what a shared slot last returned to each requester: the words, or none for INTEGRITY (R261) -/
  sharedOut : Tbl (Option (List Word)) := []
  deriving DecidableEq, Repr

/-! ## Commit groups (chapter 08) -/

/-- Commit-group states (R308), codes 0 to 4. -/
inductive GroupState where
  | empty | opened | preparing | armed | locked
  deriving DecidableEq, Repr

/-- A commit group (R280 to R283, R302 to R308). -/
structure Group where
  state : GroupState := .empty
  /-- pages as engine × 128 + page -/
  pages : List Nat := []
  grove : Bool := false
  target : Option MT := none
  lastResult : Nat := 0
  lastMt : MT := MT.zero
  failMember : Word := 0xFFFF
  failCode : Word := 0
  members : List Nat := []
  grafts : List Nat := []
  /-- members that have acknowledged OK (R304), and whether this device coordinates -/
  acked : List Nat := []
  coordinating : Bool := false
  coordinator : Option Nat := none
  epoch : Long := 0
  /-- a coordinator's acknowledgement deadline A (R302) -/
  deadline : MT := MT.zero
  /-- coordinators and targets of the PREPAREs judged (R303) -/
  prepares : List (Nat × MT) := []
  /-- the latest CANCEL that found nothing to disarm: its coordinator, target and stamp (R72) -/
  cancelled : Option (Nat × MT × MT) := none
  deriving DecidableEq, Repr

/-! ## Ports and rate bridges (chapters 09, 10) -/

/-- Persistent settings of a port (R346, R347, R348). -/
structure PortCfg where
  enable : Bool := false
  format : Nat := 0
  slots : Nat := 2
  slotWidth : Nat := 2
  dataWidth : Nat := 1
  rate : Nat := 0
  nominalHz : Long := 48000
  bclkDir : Nat := 0
  fsDir : Nat := 0
  bclkEdge : Nat := 0
  fsPol : Nat := 0
  dataDelay : Nat := 1
  fsWidth : Nat := 0
  unused : Nat := 0
  txRound : Nat := 0
  fillSet : Nat := 1
  group : Nat := 0
  directions : Nat := 3
  txClock : Nat := 0
  rxWord : Nat := 0
  txWord : Nat := 0
  vMode : Nat := 0
  txCsCrcc : Nat := 0
  zcTimeoutMs : Word := 50
  startMutedIn : Long := 0
  startMutedOut : Long := 0
  capRing : Byte := 0xFF
  capForm : Nat := 0
  capMask : Long := 0
  txCsA : BitVec 192 := 0x01#192 <<< 184
  txCsB : BitVec 192 := 0x01#192 <<< 184
  txUA : BitVec 192 := 0
  txUB : BitVec 192 := 0
  deriving DecidableEq, Repr

/-- A port action whose target has come (R337 to R339). -/
structure ChanAct where
  op : Nat
  gain : Word
  /-- taken by a later action: it ramps, it does not wait (R339) -/
  forced : Bool
  /-- start of its wait and ZC_TIMEOUT_MS as it stood then (R338) -/
  since : MT
  limitMs : Nat
  deriving DecidableEq, Repr

/-- A running gain ramp (R338). -/
structure Ramp where
  gOld : Word
  gNew : Word
  k : Nat
  len : Nat
  stop : Bool
  deriving DecidableEq, Repr

/-- One channel of a port in one direction. -/
structure Chan where
  gain : Word := 0x4000
  muted : Bool := false
  stopped : Bool := false
  /-- the channel's latest two samples before gain, as R337 tests them, and the stamp or edge of the latest -/
  prev : Long := 0
  last : Long := 0
  lastAt : Option MT := none
  /-- inbound: the latest sample that a frame brought without error, and the stamps since it (R326, R334); outbound: the latest
  sample the router delivered (R123) -/
  good : Long := 0
  ago : Nat := 0
  /-- the latest sample after gain -/
  sent : Long := 0
  /-- base periods since the router last delivered, and the fade of a channel that receives nothing while ECLK is gated (R123) -/
  starved : Nat := 0
  starve : Option Fader := none
  /-- pending actions, in target order -/
  acts : List ChanAct := []
  ramp : Option Ramp := none
  /-- of a FOREIGN port: actions that wait for the port frame from which they apply, with the mt of that frame's edge (R358) -/
  await : List (MT × Nat × Word) := []
  /-- of a FOREIGN port: armed inbound actions that have begun ahead of their target, with OP (R358) -/
  begun : List (MT × Nat) := []
  deriving DecidableEq, Repr

/-- A stamped inbound frame in its FIFO (R324 to R326); a channel in `hold` gives its previous sample again (R318). -/
structure InEntry where
  stamp : MT
  samples : List Long
  hold : List Bool
  deriving DecidableEq, Repr

/-- Outbound samples of one stamp after gain: none = the slot follows UNUSED; `under` says that the router delivered nothing to a
fed port (R326). -/
structure OutEntry where
  stamp : MT
  under : Bool
  /-- the router delivered samples for the stamp (R326) -/
  came : Bool
  samples : List (Option Long)
  deriving DecidableEq, Repr

/-- A subframe as an AES3 transmitter sends it: its preamble (0 X, 1 Y, 2 Z) and time slots 4 to 31, of which slot 4 is bit 0
(R317, R320). -/
structure SubFrame where
  preamble : Nat
  bits : BitVec 28
  deriving DecidableEq, Repr

/-- A change of capture binding that waits for its boundary (R341). -/
structure CapChange where
  at' : MT
  ring : Byte
  form : Nat
  mask : Long
  deriving DecidableEq, Repr

/-- Samples of one stamp as the router reads them. -/
structure Ready where
  stamp : MT
  real : Bool
  samples : List Long
  deriving DecidableEq, Repr

/-- Port states (R345), codes 0 to 4. -/
inductive PortState where
  | off | acquire | run | clockLost | alignFault
  deriving DecidableEq, Repr

/-- A SAP (0 to 15) or an AES3 port (16 to 23). -/
structure Port where
  state : PortState := .off
  inDelay : Long := 0
  outDelay : Long := 0
  /-- D_in and D_out as fixed at alignment, in units of 1/65,536 base period, and the boundary of the alignment (R324) -/
  dIn : Nat := 0
  dOut : Nat := 0
  alignedAt : MT := MT.zero
  fill : Word := 0
  /-- edge of the latest frame on the wire, and s − e of the latest stamped one (R325, R342) -/
  lastEdge : Option MT := none
  measIn : Nat := 0
  /-- counters by element number 0x05 to 0x0A, and OVF -/
  counts : Tbl Long := []
  ovf : Word := 0
  timeouts : Long := 0
  consistent : Nat := 0
  /-- mt at which the port qualified, and whether its group aligns without those still qualifying (R330) -/
  qualAt : Option MT := none
  groupGo : Bool := false
  /-- inconsistent frames among the last 64, newest first (R333) -/
  window : List Bool := []
  /-- stamped inbound frames, oldest first (R324, R326) -/
  inFifo : List InEntry := []
  /-- the samples of the latest stamps after gain, as the router reads them -/
  inReady : List Ready := []
  /-- the last stamp whose samples were taken, real or substituted -/
  lastStamp : Option MT := none
  /-- outbound samples by stamp as the router delivered them: channel ↦ sample -/
  outFifo : List (MT × Tbl Long) := []
  /-- the same after gain, and the last stamps gained and sent -/
  outReady : List OutEntry := []
  outDone : Option MT := none
  outSent : Option MT := none
  /-- what the last outbound frame carried -/
  lastOut : List (Option Long) := []
  chIn : Tbl Chan := []
  chOut : Tbl Chan := []
  /-- the loss fade is in force on the inbound channels (R334); the ramps in of both directions (R335) -/
  fading : Bool := false
  rampIn : Option Fader := none
  rampOut : Option Fader := none
  /-- what the last outbound frame drove: none is high impedance (R316) -/
  wire : List (Option Long) := []
  /-- V bits sent, and an AES3 port's subframes (R320) -/
  wireV : List Bool := []
  wireSub : List SubFrame := []
  /-- frames sent of the running AES3 block: 0 when the next frame opens one -/
  txFrame : Nat := 0
  /-- capture binding in force (R341): ring, packed-3, mask; and the changes that wait -/
  capRing : Byte := 0xFF
  capForm : Nat := 0
  capMask : Long := 0
  capNext : List CapChange := []
  /-- an AES3 receiver: locked; frames in a row with valid preambles and without, and frames since it locked, up to a block
  (R318, R319, R333) -/
  aesLocked : Bool := false
  aesRun : Nat := 0
  aesMiss : Nat := 0
  /-- the period of its latest frame, in units of 1/65,536 base period (R318) -/
  aesPeriod : Nat := 0
  aesBlock : Nat := 0
  csA : BitVec 192 := 0
  csB : BitVec 192 := 0
  uA : BitVec 192 := 0
  uB : BitVec 192 := 0
  rxFlags : Word := 0
  blocks : Long := 0
  /-- channel-status and user octets now transmitted (R320) -/
  sendCsA : BitVec 192 := 0x01#192 <<< 184
  sendCsB : BitVec 192 := 0x01#192 <<< 184
  sendUA : BitVec 192 := 0
  sendUB : BitVec 192 := 0
  /-- an injected parity error: the channel that repeats in the next frame (R318, R516) -/
  holdNext : Option Nat := none
  /-- the rate estimator of a FOREIGN port (R353): f_port in µHz, 0 before its first frame; the mt at which its sides locked -/
  est : Nat := 0
  estLocked : Option MT := none
  deriving DecidableEq, Repr

/-- Persistent settings of a rate bridge (R364). -/
structure RbCfg where
  enable : Bool := false
  split : Nat := 16
  inPort : Byte := 0xFF
  inFirst : Nat := 0
  inClass : Nat := 3
  outPort : Byte := 0xFF
  outFirst : Nat := 0
  outClass : Nat := 3
  trackBw : Nat := 1
  deriving DecidableEq, Repr

/-- Bridge-side states (R355), codes 0 to 3. -/
inductive SideState where
  | off | unlocked | acquire | locked
  deriving DecidableEq, Repr

/-- An endpoint of the router without a port channel's marks: an egress bridge channel or an outbound link slot (R123): the last
sample delivered to it, the base periods since, and its fade while ECLK is gated. -/
structure EndPoint where
  last : Long := 0
  starved : Nat := 0
  starve : Option Fader := none
  deriving DecidableEq, Repr

/-- One side of a rate bridge (R355 to R361). -/
structure Side where
  state : SideState := .off
  /-- mt at which ACQUIRE began (R356) -/
  acqAt : MT := MT.zero
  /-- G as fixed at the lock (R357): in ns, and in units of 1/65,536 base period -/
  delayNs : Long := 0
  delay : Nat := 0
  relocks : Long := 0
  unlocks : Long := 0
  ovf : Word := 0
  /-- the converter's FIFO fill in 1/256 input sample: the model's own free value within the bounds of R357 and R359 -/
  fill : Word := 0
  /-- its fade to zero or ramp to full gain (R356, R360) -/
  fader : Option Fader := none
  /-- ACQUIRE follows the end of the fade (R359), or the reopening of ECLK's gate (R360) -/
  slipping : Bool := false
  hopping : Bool := false
  /-- what entered the converter, by port frame edge (ingress) or media stamp (egress): channel of the bridge ↦ sample -/
  hist : List (MT × Tbl Long) := []
  /-- the last converted sample of each channel, by channel of the bridge -/
  last : Tbl Long := []
  /-- an ingress side's converted samples by stamp -/
  ready : List Ready := []
  /-- the channels of an egress side as endpoints of the router (R123) -/
  ends : Tbl EndPoint := []
  deriving DecidableEq, Repr

/-- A rate bridge. -/
structure Bridge where
  ingress : Side := {}
  egress : Side := {}
  deriving DecidableEq, Repr

/-! ## Links (chapter 11) -/

/-- Persistent settings of a link (R401). -/
structure LinkCfg where
  enable : Bool := true
  paths : Nat := 3
  asymPs : Long := 0
  txPre : Nat := 2
  txPost : Nat := 4
  txSwing : Nat := 1
  deriving DecidableEq, Repr

/-- Path states (R401), codes 0 to 8. -/
inductive PathState where
  | off | signal | block | adapt | frame | measure | up | delayFault | crossed
  deriving DecidableEq, Repr

/-- One path of a link (R388 to R390, R401). -/
structure Path where
  state : PathState := .off
  delayPs : Long := 0
  offsetPs : Long := 0
  residual : Long := 0
  counts : Tbl Long := []
  ovf : Word := 0
  eq : BitVec 64 := 0
  low : Bool := false
  /-- transmit settings in force since the last training (R402): pre, post, swing -/
  txSet : Nat × Nat × Nat := (2, 4, 1)
  /-- SOF DEVICE and LINK seen (R390) -/
  peer : Option (BitVec 12 × BitVec 2) := none
  /-- last 16 delay and offset measurements, newest first (R395) -/
  meas : List (Long × Long) := []
  /-- u of the peer's latest frame, which the next frame reports (R373); 0x8000_0000 = none -/
  lastU : Long := 0x80000000
  /-- the own base period in which that frame came, and the last two frames sent with their residuals, newest first (R369, R395) -/
  uFrame : Option (BitVec 64) := none
  sentRes : List (BitVec 64 × Long) := []
  /-- consecutive frames that fail the condition of R379 in UP, or that meet it in DELAY_FAULT -/
  slow : Nat := 0
  /-- mt at which the path entered its state, and whether it came to SIGNAL from UP (R388) -/
  enteredAt : MT := MT.zero
  fromUp : Bool := false
  /-- base periods since an SOF arrived, and which of the last 64 frames had a segment with a failed CRC, newest first (R389) -/
  noSof : Nat := 0
  crcWin : List Bool := []
  /-- training at low rate failed: the path stays at full rate (R399) -/
  stays : Bool := false
  deriving DecidableEq, Repr

/-- What a receiver holds of one inbound slot (R392): the sample it presents, the last valid one, and for a channel that
has lost samples the base periods since and its fade or ramp. -/
structure RxSlot where
  sample : Long := 0
  valid : Bool := false
  good : Long := 0
  lost : Nat := 0
  fader : Option Fader := none
  deriving DecidableEq, Repr

/-- A message under reassembly (R449). -/
structure Reasm where
  src : BitVec 12
  msgId : Word
  parts : List (Nat × List Byte)
  total : Option Nat
  /-- mt of its first cell -/
  since : MT
  deriving DecidableEq, Repr

/-- The frame last sent on a link (R369 to R386). -/
structure TxFrame where
  hdr : FrameHdr
  cells : List Cell
  bulk : BulkUnit
  slots : List LinkSlot
  deriving DecidableEq, Repr

/-- A link. -/
structure Link where
  peerDev : Word := 0xFFFF
  peerLink : Byte := 0xFF
  counts : Tbl Long := []
  ovf : Word := 0
  pathA : Path := {}
  pathB : Path := {}
  /-- outbound slots of this period's frame and of the next: slot ↦ (sample the router delivered, valid) -/
  tx : Tbl (Long × Bool) := []
  txNext : Tbl (Long × Bool) := []
  /-- the outbound slots as endpoints of the router (R123) -/
  txEnds : Tbl EndPoint := []
  /-- inbound slots as the receiver holds them, and those with the current period's stamp as the router reads them -/
  rx : Tbl RxSlot := []
  rxNow : Tbl (Long × Bool) := []
  /-- slot maps in force (R377): slot ↦ stream entry + 1 -/
  txMap : Tbl Nat := []
  rxMap : Tbl Nat := []
  /-- outbound cells with their priority 1 to 4, in queue order (R384) -/
  outCells : List (Nat × Cell) := []
  bulkSeq : Word := 0
  bulkAck : Word := 0
  bulkRx : Word := 0
  bulkOut : List BulkUnit := []
  /-- octets of the configuration record that arrives in units of channel 0; none once a unit of it was lost (R387, R428) -/
  bulkIn : Option (List Byte) := some []
  /-- the same of a transfer on another channel, by channel (R386) -/
  bulkParts : Tbl (Option (List Byte)) := []
  /-- join code of LINK_JOIN (R430) -/
  join : Nat := 0
  joinDone : Bool := false
  /-- what the peer's latest header said -/
  rxHdr : Option FrameHdr := none
  /-- base periods since a valid SOF (R409) -/
  silent : Nat := 99
  /-- consecutive frames with a higher incumbent claim (R412) -/
  higherRun : Nat := 0
  sent : Option TxFrame := none
  lowWanted : Bool := false
  /-- the peer asks for low rate: it is in DORMANT (R398, R399) -/
  lowPeer : Bool := false
  /-- base periods with neither path UP, at most 2 (R396) -/
  noPath : Nat := 0
  /-- identity of the peer as the join's challenge saw it -/
  peerGrove : Long := 0
  deriving DecidableEq, Repr

/-! ## Grove and streams (chapter 12) -/

/-- Root-claim roles (R430), codes 0 to 4. -/
inductive Role where
  | member | standby | claiming | root | withheld
  deriving DecidableEq, Repr

/-- Stream states (R431), codes 0 to 6. -/
inductive StreamState where
  | free | defined | pending | admitted | running | rerouting | held
  deriving DecidableEq, Repr

/-- A source definition (R422). -/
structure SourceDef where
  cls : Nat := 0
  channels : Nat := 0
  latency : Nat := 0
  margin : Nat := 0
  protect : Bool := false
  source : Long := 0
  deriving DecidableEq, Repr

/-- One link in a member's record: its peer, its state as LINK_STATUS codes it, its free slots (R419). -/
structure LsLink where
  peer : Nat
  state : Nat
  freeOut : Nat
  freeIn : Nat
  deriving DecidableEq, Repr

/-- A link-state record (R419), and the mt at which it arrived. -/
structure LsRecord where
  priority : Nat
  compat : Byte
  epoch : Long
  links : List LsLink
  moves : Nat
  /-- its epoch tag, which the model's own layout adds -/
  tag : Long
  heardAt : MT
  deriving DecidableEq, Repr

/-- A stream entry (R431). -/
structure Stream where
  state : StreamState := .free
  source : Bool := false
  transit : Bool := false
  receiver : Bool := false
  id : Long := 0
  sdef : SourceDef := {}
  dest : Long := 0
  result : Word := 0
  failDevice : Word := 0xFFFF
  hops : Byte := 0
  altHops : Byte := 0xFF
  ringPeriods : Word := 0
  /-- the playout rings of the primary and the alternate copy, and the links on which they arrive or leave -/
  ring : Option Ring := none
  altRing : Option Ring := none
  link : Option Nat := none
  altLink : Option Nat := none
  /-- the devices of either route in order, where this device found it as Root (R420) -/
  via : List Nat := []
  altVia : List Nat := []
  /-- presented samples by stamp, as the router reads them -/
  ready : List Ready := []
  /-- the substitute that a receiver gives of its own at each position of a base period's samples: for an uncorrectable row of a ring
  (R261), and while the member is HELD (R416) -/
  subs : Tbl RxSlot := []
  subst : Long := 0
  substOvf : Bool := false
  /-- the stamp from which the samples presented have come as 0 without validity: the stream has stopped (R426) -/
  quietFrom : Option MT := none
  /-- targets of the START applied and of a STOP applied (R426) -/
  startedAt : Option MT := none
  stoppedAt : Option MT := none
  /-- routers' effective boundary of a new route or late subscription -/
  effectiveAt : Option MT := none
  deriving DecidableEq, Repr

/-- A stream entry that has been freed and carries audio until the staged boundary that ends it (R28). -/
structure Leaving where
  entry : Nat
  stream : Stream
  ends : MT
  deriving DecidableEq, Repr

/-- What the device knows and does as a member of its grove (chapter 12). -/
structure Grove where
  role : Role := .member
  heard : Long := 0
  heardHops : Byte := 0xFF
  upstream : Option Nat := none
  handovers : Long := 0
  handoverOvf : Bool := false
  lastStepPs : Long := 0
  /-- base periods without a Root frame, and how many had passed when the latest came (R411, R416) -/
  noRoot : Nat := 0
  rootGap : Nat := 0
  /-- base periods of unopposed claiming (R411) -/
  claimRun : Nat := 0
  drillState : Nat := 0
  drillResult : Nat := 0
  drillMt : MT := MT.zero
  drillNewRoot : Word := 0xFFFF
  drillDwell : Option Nat := none
  /-- when the running withholding began, and this device's incumbency (R414) -/
  withheldAt : MT := MT.zero
  rootSince : MT := MT.zero
  /-- DWELL_S as a withholding Root has told it, and whether this one has told its own (R414) -/
  drillAsked : Option Nat := none
  drillTold : Bool := false
  /-- it has heard a claim over a joined link since its identity was set: the grove steers it (R111, R410) -/
  follows : Bool := false
  state : Nat := 0
  holdCause : Nat := 0
  rootDevice : Word := 0xFFFF
  /-- the latest link-state record of every member, by device number (R419) -/
  records : Tbl (Option LsRecord) := []
  timeErrNs : BitVec 64 := 0
  /-- the upstream's count less this device's, as its latest header gave it (R417) -/
  countErr : Int := 0
  /-- the epoch that the upstream reported once time was aligned: the member becomes JOINED at the coming boundary (R406) -/
  aligned : Option Long := none
  epochTag : Long := 0
  /-- after a rejoin the tag is still to be compared with the Root's, when its record comes (R416) -/
  tagDue : Bool := false
  /-- joins for the first time since ID, number or restoration: takes the grove's epoch (R406) -/
  firstJoin : Bool := true
  /-- an announced epoch advance: epoch, kind, origin, target (R416) -/
  announced : List (Long × Nat × Nat × BitVec 64) := []
  adoptAt : Option MT := none
  rootEpoch : Long := 0
  /-- the control core has reported a change to the Root -/
  changeReported : Bool := false
  /-- the report has left for the Root -/
  reportSent : Bool := false
  /-- (SRC, MSG_ID, FRAG) of the last 256 broadcast cells (R384) -/
  seen : List (Nat × Nat × Nat) := []
  /-- the forwarding table of link hardware (R384): the link + 1 named for a device -/
  fwd : Tbl Nat := []
  reasm : List Reasm := []
  /-- with the arrival stamps of their segments (R382, R383) -/
  delivered : List (Cell × MT) := []
  /-- whole messages that have arrived over the grove, with their source; 4,096 stands for one that came in bulk units -/
  arrived : List (Nat × List Byte) := []
  offerState : Nat := 0
  offerDevice : Word := 0xFFFF
  holds : Byte := 0
  /-- the device numbers of the records held, by link -/
  holdsDev : Tbl Nat := []
  /-- the records held, by link, in boot flash; and the record that a replacement has been sent (R428, R429) -/
  held : Tbl (List Byte) := []
  incoming : List Byte := []
  /-- the links on which an offer stands: of a holder its own, of a replacement those it has been made (R429) -/
  offers : List Nat := []
  nextMsgId : Word := 0
  /-- samples of a time-step fade done (R417) -/
  stepFade : Option Nat := none
  deriving DecidableEq, Repr

/-! ## Management (chapter 13) -/

/-- A reply (R444). -/
structure Reply where
  sess : Nat
  seq : Word
  op : Nat
  count : Nat
  status : Word
  failIndex : Byte
  arrival : MT
  data : List Byte
  deriving DecidableEq, Repr

/-- A message handed to an interface (R441). -/
inductive OutMsg where
  | reply (r : Reply)
  | event (sess : Nat) (records : List (BitVec 192))
  | challenge (sess : Nat) (dn : List Byte) (device : Word) (serial : BitVec 64)
  | welcome (sess : Nat) (proof : List Byte) (idleS : Word)
  | refuse (sess : Nat) (seq : Word) (status : Word)
  | relayed (message : List Byte)
  | arp | icmpEcho (payload : List Byte)
  deriving DecidableEq, Repr

/-- An open DOMAIN transfer (R445, R446). -/
structure Transfer where
  obj : Word
  elem : Byte
  total : Nat
  digest : List Byte
  /-- octets placed so far, by offset -/
  octets : Tbl (Option Byte)
  /-- mt of its latest operation (R446) -/
  lastAt : MT
  deriving DecidableEq, Repr

/-- A session (R451 to R455, R466, R467). -/
structure Session where
  /-- 0 free, 1 in opening, 2 open -/
  phase : Nat := 0
  iface : Iface := .ethernet
  address : Long := 0
  port : Word := 0
  role : Nat := 0
  keyIndex : Byte := 0
  keyless : Bool := false
  cn : List Byte := []
  dn : List Byte := []
  sessKey : List Byte := []
  /-- H, and whether a request has executed -/
  high : Option Word := none
  cache : List Reply := []
  transfer : Option Transfer := none
  oldAtomic : Long := 0
  cursor : Option Long := none
  mask : Word := 0
  pushedTo : Long := 0
  deriving DecidableEq, Repr

/-- A relay entry (R450). -/
structure Relay where
  target : BitVec 12
  sess : Byte
  iface : Iface
  /-- the host behind it -/
  address : Long
  port : Word
  /-- mt of its latest traffic -/
  lastAt : MT
  deriving DecidableEq, Repr

/-- Persistent management settings (R466). -/
structure MgmtCfg where
  idleS : Word := 300
  netEnable : Bool := true
  address : Long := 0
  mask : Long := 0xFFFF0000
  gateway : Long := 0
  udpPort : Word := 4770
  hqEnable : Bool := true
  deriving DecidableEq, Repr

/-- Life-cycle states (R468), codes 0 to 4. -/
inductive Life where
  | blank | provisioned | deployed | returned | ended
  deriving DecidableEq, Repr

/-- What an accepted write does once its reply has been sent (R454, R466, R480, R487, R490). -/
inductive After where
  | close (sess : Nat)
  | mgmt (cfg : MgmtCfg)
  | reset
  /-- the control core restarts into the new firmware, or back into the previous image -/
  | activate
  | revert
  | advance (target : Life)
  deriving DecidableEq, Repr

/-- The management side of the control core. -/
structure Mgmt where
  sessions : Tbl Session := []
  /-- by session, mt of CHALLENGE, and once open of the latest REQUEST; time during a restart is not counted (R451, R454) -/
  heardAt : Tbl MT := []
  /-- request queues, oldest first (R459) -/
  qEth : List (Req × List Byte) := []
  qHq : List (Req × List Byte) := []
  qGrove : List (Req × List Byte) := []
  /-- interface served last, for the rotation -/
  lastServed : Iface := .grove
  /-- arrival stamp of the request executed last (R70, R458) -/
  lastStamp : Option MT := none
  /-- messages handed to Ethernet with the address and port they go to, the octets of those HQ holds for GET, and of those for the grove
  with the device they go to -/
  outEth : List (Long × Word × OutMsg) := []
  outHq : List (List Byte) := []
  outGrove : List (Nat × List Byte) := []
  /-- messages in the 2 KiB inbound FIFO of HQ, oldest first; STATUS.DISCARD; the octet that STATUS last returned, and the octets that GET
  did (R448) -/
  hqIn : List (List Byte) := []
  hqDiscard : Bool := false
  hqStatus : Byte := 0
  hqGot : List Byte := []
  /-- MGMT_NET.LINK: 0 down, 1 to 3 its rate (R466) -/
  netLink : BitVec 2 := 0
  relays : List Relay := []
  authFail : Long := 0
  authOvf : Bool := false
  /-- failed PROVEs in the last 60 s by interface, and interfaces in lockout with its start (R453) -/
  fails : Tbl (List MT) := []
  lockout : List (Nat × MT) := []
  /-- REQUESTS, BUSY and DROPPED by element number 0 to 8, and OVF -/
  stats : Tbl Long := []
  statsOvf : Word := 0
  activeAddr : Long := 0
  /-- what waits for the reply of the request in execution -/
  after : List After := []
  deriving DecidableEq, Repr

/-! ## Events, injection, life cycle, power, firmware, debug (chapters 13 to 15) -/

/-- An event record (R461). -/
structure Event where
  code : Word
  unit : Word
  seq : Long
  mt : MT
  arg : Long
  injected : Bool
  lostBefore : Bool
  deriving DecidableEq, Repr

/-- The rate limiter of one detector and unit (R502). -/
structure Limit where
  key : Nat
  count : Nat
  lastMt : MT
  allInj : Bool
  /-- mt at which this second began -/
  since : MT
  deriving DecidableEq, Repr

/-- An armed injection (R513). -/
structure Inj where
  periodic : Bool
  unit : Word
  arg : Long
  period : Word
  /-- firings still to come; none = until cancelled -/
  left : Option Nat
  fireAt : MT
  deriving DecidableEq, Repr

/-- Events, counters and injection. -/
structure Events where
  log : List Event := []
  hwq : List Event := []
  hwOvf : Nat := 0
  nextSeq : Long := 0
  lostBefore : Bool := false
  lost : Long := 0
  lostOvf : Bool := false
  /-- DET_COUNT by code (R510: bit 31 = overflow) -/
  det : Tbl Long := []
  limits : List Limit := []
  injOn : Bool := false
  /-- mt at which INJECT_ENABLE.ENABLE clears itself, by the LAPSE_S in force at its write (R512) -/
  injUntil : MT := MT.zero
  lapseS : Word := 3600
  fired : Long := 0
  suppressed : Long := 0
  inj : Tbl (Option Inj) := []
  mismatches : Long := 0
  /-- mt of the non-injected mismatches within the last 3,600 s (R509) -/
  window : List MT := []
  lastMismatch : MT := MT.zero
  deriving DecidableEq, Repr

/-- Device states (R464), codes 0 to 5. -/
inductive DevState where
  | booting | sapling | run | quiet | dormant | fault
  deriving DecidableEq, Repr

/-- Fuses, kept through every reset (R481). -/
structure Fuses where
  life : Life := .blank
  tamperCount : Nat := 0
  rollbackMin : Long := 0
  deriving DecidableEq, Repr

/-- Persistent settings of power, firmware and debug (R500). -/
structure PowerCfg where
  wakeGpio : Byte := 0xFF
  wakeEdge : Nat := 0
  trialS : Word := 600
  debugPermit : Bool := true
  deriving DecidableEq, Repr

/-- Heartwood (R270 to R272, R273). Keys by set × 32 + index, set 1 to 5 of R469. -/
structure Heartwood where
  state : Nat := 0
  wipeCount : Long := 0
  lastCause : Nat := 0
  keys : Tbl (List Byte) := []
  /-- the ECDSA P-256 identity private key -/
  identity : List Byte := []
  deriving DecidableEq, Repr

/-- Firmware update states (R498), codes 0 to 4. -/
inductive FwState where
  | idle | writing | ready | trial | failed
  deriving DecidableEq, Repr

/-- A firmware slot (R484, R485), with the octets of the image that an update or recovery wrote into it; none: the one it left the factory
with. -/
structure FwSlot where
  image : List Byte := []
  valid : Bool := false
  version : Long := 0
  compat : Byte := 1
  rollback : Long := 0
  deriving DecidableEq, Repr

/-- Power, reset, firmware and monitors. -/
structure Power where
  dev : DevState := .booting
  req : Nat := 2
  /-- a requested transition waiting for its boundary: state code (5: DORMANT once the outputs have faded) and boundary -/
  pendingTo : Option (Nat × MT) := none
  /-- the ports and bridges as they stood when DORMANT powered them off: what their elements report meanwhile (R477) -/
  offPorts : Tbl Port := []
  offBridges : Tbl Bridge := []
  /-- mt of the latest entry to QUIET, whose output fade runs for 64 samples (R37) -/
  quietAt : MT := MT.zero
  /-- the state to return to at the end of a wake, and the wake's start -/
  wake : Option (Nat × MT) := none
  /-- when a wake enables the ports (R478), and when SCLK's divider last changed (R506) -/
  portsDue : Option MT := none
  dividerAt : Option MT := none
  vcoreMv : Word := 780
  vcoreBefore : Word := 780
  tjC : Word := 0
  /-- the highest temperature measured since reset -/
  tjMaxC : Option Word := none
  slackEvents : Long := 0
  resetCause : Nat := 0
  resetCount : Long := 0
  bootMs : Long := 0
  engFail : Long := 0
  loadFail : Long := 0
  storeUsed : Nat := 0
  fwSlotB : Bool := false
  fwFallback : Bool := false
  fwPreferredB : Bool := false
  slotA : FwSlot := { valid := true }
  slotB : FwSlot := { valid := true }
  fwState : FwState := .idle
  fwIncoming : Option FwSlot := none
  fwResult : Word := 0
  compatChange : Bool := false
  trialMismatches : Nat := 0
  /-- mt at which the trial began (R487), and at which the running restart of the control core began -/
  trialAt : MT := MT.zero
  ccAt : MT := MT.zero
  /-- voltage of the I/O banks A to D in mV, as the power manager has measured it since power-on: its thresholds and drivers follow it (R522);
  0: not yet measured -/
  bankMv : Tbl Nat := []
  /-- the part is held in reset: by brown-out, by RESET_N, or by either or boundary scan -/
  brown : Bool := false
  rstLow : Bool := false
  held : Bool := false
  /-- the boot ROM found no firmware and waits for an image (R485) -/
  recovery : Bool := false
  faultCause : Nat := 0
  faultMt : MT := MT.zero
  /-- the AON register behind FAULT_INFO.LAST_CAUSE (R504) -/
  aonCause : Nat := 0
  lastFaultCause : Nat := 0
  tjArmed : Bool := true
  saving : Bool := false
  saveResult : Word := 0
  saveCount : Long := 0
  /-- control-core restart in progress: cause of CC_RESTART's ARG (R508) -/
  ccDown : Option Nat := none
  deriving DecidableEq, Repr

/-- A debug transfer in progress (R495, R497). -/
structure DbgXfer where
  write : Bool
  /-- values still to be collected, or the write still open: op, unit, next address, transfers left, words held -/
  op : Nat
  unit : Nat
  addr : Nat
  left : Nat
  values : List Long
  part : List Long
  deriving DecidableEq, Repr

/-- The JTAG debug port (R492 to R497). -/
structure Debug where
  unlocked : Bool := false
  unlockCount : Long := 0
  nonce : Option (List Byte) := none
  nonceUsed : Bool := false
  /-- mt of the failed response that used it up (R492) -/
  failAt : MT := MT.zero
  error : Nat := 0
  xfer : Option DbgXfer := none
  dataOut : BitVec 33 := 0
  boundary : Long := 0
  /-- what PRELOAD left in the boundary register's output cells, which EXTEST and CLAMP drive (R492) -/
  preload : Long := 0
  tdo : Bool := false
  idOut : Long := 0
  scanHold : Bool := false
  /-- the instruction register (R494); IDCODE after a reset of the TAP (R536) -/
  ir : BitVec 5 := 0x01
  deriving DecidableEq, Repr

/-- Everything a CONFIG_SAVE records (R438, R488). -/
structure Persist where
  clocks : ClockCfg := {}
  /-- CLASS by engine and POLICY by engine -/
  engClass : Tbl Nat := []
  engPolicy : Tbl Nat := []
  ports : Tbl PortCfg := []
  bridges : Tbl RbCfg := []
  links : Tbl LinkCfg := []
  priority : Nat := 0
  groveId : Long := 0
  deviceNumber : Nat := 0
  /-- SOURCE_DEF by entry, and admitted subscriptions by entry -/
  sources : Tbl SourceDef := []
  subs : Tbl (Long × Long) := []
  patrolOn : Bool := true
  patrolHours : Word := 24
  mgmt : MgmtCfg := {}
  power : PowerCfg := {}
  deriving DecidableEq, Repr

/-- One copy of the configuration store (R488). -/
structure Store where
  valid : Bool := false
  epoch : Long := 0
  cfg : Persist := {}
  routes : Tbl Route := []
  leases : List (Nat × Nat) := []
  images : Tbl ProgBank := []
  deriving DecidableEq, Repr

/-- Boot flash, kept through every reset (R481, R484). -/
structure Flash where
  storeA : Store := {}
  storeB : Store := {}
  currentB : Bool := false
  /-- the copy being written -/
  writing : Option Store := none
  savedEpoch : Long := 0
  repair : Repair := {}
  /-- the key record (R272) with the life-cycle state and tamper count it was wrapped under -/
  keyRecord : Tbl (List Byte) := []
  keyLife : Life := .blank
  keyTamper : Nat := 0
  wipeCount : Long := 0
  deriving DecidableEq, Repr

/-- The state of one FQ3232. -/
structure State where
  /-- commands waiting, first in, first out -/
  pending : List Instr
  clocks : Clocks
  engines : Tbl Engine
  routes : Tbl Route
  /-- removed routes with their REMOVE target, while samples stamped before it are still to be carried (R32) -/
  tails : List (Route × MT)
  mem : Mem
  groups : Tbl Group
  ports : Tbl Port
  bridges : Tbl Bridge
  links : Tbl Link
  grove : Grove
  streams : Tbl Stream
  /-- freed entries that carry audio until their boundary (R28) -/
  leaving : List Leaving
  mgmt : Mgmt
  events : Events
  heart : Heartwood
  power : Power
  jtag : Debug
  fuses : Fuses
  flash : Flash
  cfg : Persist
  /-- CONFIG_EPOCH -/
  epoch : Long
  /-- the model's own: how many free values have been drawn -/
  fresh : Nat
  deriving DecidableEq, Repr

/-- The machine right after reset (R437, R476, R480): BOOTING, every element at its default, nothing stored. -/
def State.reset : State where
  pending := []
  clocks := {}
  engines := []
  routes := []
  tails := []
  mem := {}
  groups := []
  ports := []
  bridges := []
  links := []
  grove := {}
  streams := []
  leaving := []
  mgmt := {}
  events := {}
  heart := {}
  power := {}
  jtag := {}
  fuses := {}
  flash := {}
  cfg := {}
  epoch := 0
  fresh := 0

/-- The reasons a step faults. No command of this block faults: its own errors are replies, events and registers. -/
inductive Fault where
  /-- raised by no command; kept so that the type has a name to give. Safe. -/
  | none
  deriving DecidableEq, Repr

/-- The reasons a command is refused. -/
inductive Refusal where
  /-- raised by exec for a command that has no meaning yet; safe, since it only stops. -/
  | notModelled (mnemonic : String)
  deriving DecidableEq, Repr

end Sys2Proof.Machine
end

