-- ==== Sys2Proof/Machine/Ops.lean ====
section
/-! DEFINITION. Named operations shared by the meanings: access to the unit tables, saturating counters, media time,
the schedule table, events and the management reply. -/
namespace Sys2Proof.Machine

/-- What a step answers. -/
abbrev Outc := Host.Outcome State Fault Refusal

/-! ## Octets -/

/-- The low `n` octets of a number, big-endian (R435). -/
def be : Nat → Nat → List Byte
  | 0, _ => []
  | n + 1, v => be n (v / 256) ++ [BitVec.ofNat 8 v]

/-- The number a big-endian octet string spells (R435). -/
def beNat (l : List Byte) : Nat := l.foldl (fun a b => a * 256 + b.toNat) 0

/-- Octets `i` to `i + n - 1`, read as a big-endian number. -/
def beAt (l : List Byte) (i n : Nat) : Nat := beNat ((l.drop i).take n)

/-- A MEDIATIME as 10 octets (R435). -/
def mtBytes (t : MT) : List Byte := be 8 t.count.toNat ++ be 2 t.phase.toNat

/-- The MEDIATIME that 10 octets from `i` spell. -/
def mtAt (l : List Byte) (i : Nat) : MT := ⟨BitVec.ofNat 64 (beAt l i 8), BitVec.ofNat 16 (beAt l (i + 8) 2)⟩

/-- One bit of a Nat mask. -/
def bitOf (b : Bool) : Nat := if b then 1 else 0

/-- The mask with bit `k` set for each `k < n` that satisfies `p`. -/
def maskOf (n : Nat) (p : Nat → Bool) : Nat :=
  (List.range n).foldl (fun a k => a + bitOf (p k) * 2 ^ k) 0

/-! ## Unit tables -/

def eng (s : State) (n : Nat) : Engine := tget {} s.engines n
def setEng (s : State) (n : Nat) (e : Engine) : State := { s with engines := tset {} s.engines n e }
def modEng (s : State) (n : Nat) (f : Engine → Engine) : State := setEng s n (f (eng s n))

def route (s : State) (r : Nat) : Route := tget {} s.routes r
def setRoute (s : State) (r : Nat) (v : Route) : State := { s with routes := tset {} s.routes r v }

def group (s : State) (g : Nat) : Group := tget {} s.groups g
def setGroup (s : State) (g : Nat) (v : Group) : State := { s with groups := tset {} s.groups g v }

def port (s : State) (p : Nat) : Port := tget {} s.ports p
def setPort (s : State) (p : Nat) (v : Port) : State := { s with ports := tset {} s.ports p v }

def bridge (s : State) (b : Nat) : Bridge := tget {} s.bridges b
def setBridge (s : State) (b : Nat) (v : Bridge) : State := { s with bridges := tset {} s.bridges b v }

def link (s : State) (l : Nat) : Link := tget {} s.links l
def setLink (s : State) (l : Nat) (v : Link) : State := { s with links := tset {} s.links l v }

def stream (s : State) (e : Nat) : Stream := tget {} s.streams e
def setStream (s : State) (e : Nat) (v : Stream) : State := { s with streams := tset {} s.streams e v }

/-- An entry of the stream table whose route is admitted. -/
def admittedStream (x : Stream) : Bool :=
  decide (x.state = .admitted) || decide (x.state = .running) || decide (x.state = .rerouting) || decide (x.state = .held)

/-- One that holds an admitted subscription. -/
def holdsStream (x : Stream) : Bool := x.receiver && admittedStream x

/-- Entry `e` as the audio plane has it: one that was freed still, until the boundary that ends it (R28). -/
def playing (s : State) (e : Nat) : Stream :=
  match s.leaving.find? (fun x => decide (x.entry = e)) with
  | some x => x.stream
  | none => stream s e

def setPlaying (s : State) (e : Nat) (v : Stream) : State :=
  if s.leaving.any (fun x => decide (x.entry = e)) then
    { s with leaving := s.leaving.map (fun x => if x.entry = e then { x with stream := v } else x) }
  else setStream s e v

/-- The streams that the audio plane has, by entry. -/
def plays (s : State) : Tbl Stream :=
  s.streams.filter (fun kv => s.leaving.all (fun x => decide (x.entry ≠ kv.1))) ++ s.leaving.map (fun x => (x.entry, x.stream))

def bank (s : State) (b : Nat) : Bank := tget {} s.mem.banks b
def setBank (s : State) (b : Nat) (v : Bank) : State := { s with mem := { s.mem with banks := tset {} s.mem.banks b v } }

def cross (s : State) (b : Nat) : Cross := tget {} s.mem.cross b
def setCross (s : State) (b : Nat) (v : Cross) : State := { s with mem := { s.mem with cross := tset {} s.mem.cross b v } }

def session (s : State) (k : Nat) : Session := tget {} s.mgmt.sessions k
def setSession (s : State) (k : Nat) (v : Session) : State :=
  { s with mgmt := { s.mgmt with sessions := tset {} s.mgmt.sessions k v } }

def portCfg (s : State) (p : Nat) : PortCfg := tget {} s.cfg.ports p
def setPortCfg (s : State) (p : Nat) (v : PortCfg) : State := { s with cfg := { s.cfg with ports := tset {} s.cfg.ports p v } }
def rbCfg (s : State) (b : Nat) : RbCfg := tget {} s.cfg.bridges b
def setRbCfg (s : State) (b : Nat) (v : RbCfg) : State := { s with cfg := { s.cfg with bridges := tset {} s.cfg.bridges b v } }
def linkCfg (s : State) (l : Nat) : LinkCfg := tget {} s.cfg.links l
def setLinkCfg (s : State) (l : Nat) (v : LinkCfg) : State := { s with cfg := { s.cfg with links := tset {} s.cfg.links l v } }
/-- ENG_RATE.CLASS (R180), default 3. -/
def engClass (s : State) (n : Nat) : Nat := tget 3 s.cfg.engClass n
/-- ENG_FAULT_POLICY.POLICY (R180). -/
def engPolicy (s : State) (n : Nat) : Nat := tget 0 s.cfg.engPolicy n

/-! ## Free values -/

/-- Draw the next free value's number. -/
def draw (s : State) : Nat × State := (s.fresh, { s with fresh := s.fresh + 1 })

/-! ## Saturating counters (R510) -/

/-- A 32-bit saturating counter one higher, and whether it has reached its maximum. -/
def satInc (c : Long) : Long × Bool :=
  if c.toNat + 1 ≥ 0xFFFFFFFF then (0xFFFFFFFF, true) else (c + 1, false)

/-- A counter written "bit 31 = overflow", one higher. -/
def satInc31 (c : Long) : Long :=
  if c.toNat ≥ 0x80000000 then 0xFFFFFFFF else if c.toNat + 1 ≥ 0x7FFFFFFF then 0xFFFFFFFF else c + 1

/-- Counter `k` of a counter table one higher, with its bit in an overflow word. -/
def bump (t : Tbl Long) (ovf : Word) (k bit : Nat) : Tbl Long × Word :=
  let (v, o) := satInc (tget 0 t k)
  (tset 0 t k v, if o then ovf ||| BitVec.ofNat 16 (2 ^ bit) else ovf)

/-! ## Media time (R41 to R45, R50, R51, R69 to R74) -/

/-- A MEDIATIME as one number of 1/65,536 base periods (R41, R42). -/
def mtNat (t : MT) : Nat := t.count.toNat * 65536 + t.phase.toNat

/-- The MEDIATIME of a number of 1/65,536 base periods, count modulo 2⁶⁴ (R43). -/
def mtOf (n : Nat) : MT := ⟨BitVec.ofNat 64 (n / 65536), BitVec.ofNat 16 n⟩

/-- `t` plus `n` units of 1/65,536 base period. -/
def mtPlus (t : MT) (n : Nat) : MT := mtOf (mtNat t + n)

/-- `t` less `n` units of 1/65,536 base period. -/
def mtMinus (t : MT) (n : Nat) : MT := mtOf ((mtNat t + 2 ^ 80 - n) % 2 ^ 80)

/-- Counts from `now` to `t`, modulo 2⁶⁴ (R44). -/
def countTo (now t : MT) : Nat := (t.count - now.count).toNat

/-- R44: `t` lies in the future of `now`. -/
def inFuture (now t : MT) : Bool :=
  let d := countTo now t
  (decide (1 ≤ d) && decide (d ≤ 2 ^ 63)) || (decide (d = 0) && decide (now.phase.toNat < t.phase.toNat))

/-- `t` is now or past. -/
def isDue (now t : MT) : Bool := !inFuture now t

/-- R69 to R73: an arm or cancel with arrival stamp `now` for target `t` is in time: at or before t − 4. -/
def inTime (now t : MT) : Bool :=
  let d := countTo now t
  inFuture now t && (decide (5 ≤ d) || (decide (d = 4) && decide (now.phase.toNat ≤ t.phase.toNat)))

/-- Units of 1/65,536 base period from `a` to `b`, where `b` is not before `a`. -/
def mtDiff (a b : MT) : Nat := (mtNat b + 2 ^ 80 - mtNat a) % 2 ^ 80

/-- A base-period boundary (R41). -/
def isPeriod (t : MT) : Bool := decide (t.phase = 0)

/-- A frame of class code `c` in 1/65,536 base periods (R50). -/
def frameUnits (c : Nat) : Nat := 8192 * 2 ^ c

/-- The usable cycles U of class code `c` (R50). -/
def usable (c : Nat) : Nat := 2560 * 2 ^ c - 128

/-- R50, R51: `t` is a frame boundary of class code `c`. -/
def isBoundary (c : Nat) (t : MT) : Bool := decide (mtNat t % frameUnits c = 0)

/-- The first frame boundary of class `c` at or after `t`. -/
def boundaryFrom (c : Nat) (t : MT) : MT :=
  let f := frameUnits c
  mtOf ((mtNat t + f - 1) / f * f)

/-- The first base-period boundary at or after `t`. -/
def periodFrom (t : MT) : MT := boundaryFrom 3 t

/-- Samples per second of a base-rate code (R86). -/
def rateHz (c : Nat) : Nat := if c = 0 then 32000 else if c = 1 then 44100 else 48000

/-- Units of 1/65,536 base period in `n` milliseconds. -/
def msUnits (s : State) (n : Nat) : Nat := n * rateHz s.clocks.rate * 65536 / 1000

/-- mt now: the arrival stamp of what is executed (R70). -/
def now (s : State) : MT := s.clocks.mt

/-- `ms` milliseconds have passed since `t`. -/
def passed (s : State) (t : MT) (ms : Nat) : Bool := decide (msUnits s ms ≤ mtDiff t (now s))

/-! ## Fades and ramps (R546) -/

/-- The gain a fade or ramp has reached, as an exact fraction. -/
def faderGain (f : Fader) : Nat × Nat :=
  if f.up then (f.num * f.len + (f.den - f.num) * f.done, f.den * f.len)
  else (f.num * (f.len - f.done), f.den * f.len)

/-- One sample further; it stops at its length. -/
def faderStep (f : Fader) : Fader := { f with done := min f.len (f.done + 1) }

/-- The gain now in force; none = full gain. -/
def gainOf : Option Fader → Nat × Nat
  | none => (1, 1)
  | some f => faderGain f

/-- Two gains at once. -/
def gain2 (a b : Nat × Nat) : Nat × Nat := (a.1 * b.1, a.2 * b.2)

/-- A fade to zero from the gain in force. -/
def fadeDown (f : Option Fader) (len : Nat) : Fader := ⟨false, len, 0, (gainOf f).1, (gainOf f).2⟩

/-- A ramp to full gain from the gain in force. -/
def rampUp (f : Option Fader) (len : Nat) : Fader := ⟨true, len, 0, (gainOf f).1, (gainOf f).2⟩

/-- A ramp to full gain from zero. -/
def rampFromZero (len : Nat) : Fader := ⟨true, len, 0, 0, 1⟩

/-- One sample further; a ramp that has reached full gain is over. -/
def faderNext : Option Fader → Option Fader
  | none => none
  | some f => let g := faderStep f; if g.up && decide (g.len ≤ g.done) then none else some g

/-! ## The schedule table (R64 to R67, R75) -/

/-- Two actions change the same item (R67). -/
def sameItem : SchedAct → SchedAct → Bool
  | .commit g e, .commit g' e' => decide (g = g') && decide (e = e')
  | .graft e, .graft e' => decide (e = e')
  | .routeAdd r, .routeAdd r' => decide (r = r')
  | .routeAdd r, .routeRemove r' => decide (r = r')
  | .routeRemove r, .routeAdd r' => decide (r = r')
  | .routeRemove r, .routeRemove r' => decide (r = r')
  | .lease b _ _ _ _, .lease b' _ _ _ _ => decide (b = b')
  | .port p o _ _ f n, .port p' o' _ _ f' n' =>
    decide (p = p') && (o == o') && decide (f < f' + n') && decide (f' < f + n)
  | .streamStart e, .streamStart e' => decide (e = e')
  | .streamStart e, .streamStop e' => decide (e = e')
  | .streamStop e, .streamStart e' => decide (e = e')
  | .streamStop e, .streamStop e' => decide (e = e')
  | .baseRate _, .baseRate _ => true
  | .drill _, .drill _ => true
  | _, _ => false

/-- Another pending action changes the same item at the same target (R67). -/
def schedTaken (s : State) (t : MT) (a : SchedAct) : Bool :=
  s.clocks.sched.any (fun x => decide (x.target = t) && sameItem x.act a)

/-- The table has room for `n` more actions (R25). -/
def schedRoom (s : State) (n : Nat) : Bool := decide (s.clocks.sched.length + n ≤ 1024)

/-- Add pending actions, in order of arming. -/
def schedAdd (s : State) (t : MT) (acts : List SchedAct) : State :=
  { s with clocks := { s.clocks with sched := s.clocks.sched ++ acts.map (fun a => ⟨t, a, false⟩) } }

/-- Remove the pending actions that satisfy `p`. -/
def schedDrop (s : State) (p : Sched → Bool) : State :=
  { s with clocks := { s.clocks with sched := s.clocks.sched.filter (fun x => !p x) } }

/-- R65: `t` is a frame boundary of engine `n`. -/
def engBoundary (s : State) (n : Nat) (t : MT) : Bool := isBoundary (engClass s n) t

/-! ## Events (R461, R501 to R503) -/

/-- Detectors marked "R" in R503. -/
def rateLimited (code : Nat) : Bool :=
  [0x100E, 0x3001, 0x4004, 0x4005, 0x4006, 0x4007, 0x4008, 0x4009, 0x5006, 0x5007, 0x6003].contains code

/-- The control core runs and can log: no restart, no reset, no stop by FAULT causes 1, 2 and 5 (R34, R504). -/
def coreUp (s : State) : Bool :=
  s.power.ccDown.isNone && !s.power.held && decide (s.power.dev ≠ .booting) &&
    !(decide (s.power.dev = .fault) && [1, 2, 5].contains s.power.faultCause)

/-- Of the detections of one cycle, `x` comes after `v`: by ascending code, then by ascending UNIT (R501). Before media time runs every
record has MT 0, and none is of another's cycle. -/
def laterInCycle (v x : Event) : Bool :=
  decide (x.mt = v.mt) && decide (v.mt ≠ MT.zero) && !x.lostBefore &&
    (decide (v.code.toNat < x.code.toNat) || (decide (v.code = x.code) && decide (v.unit.toNat < x.unit.toNat)))

/-- Put one record into the log of the latest 1,024 (R462), giving it the next EVENT_SEQ, or the place in its cycle that its code and UNIT
give it (R501). -/
def logRecord (s : State) (v : Event) : State :=
  let ev := s.events
  let lost := ev.lostBefore || v.lostBefore
  let later := if lost then [] else (ev.log.reverse.takeWhile (laterInCycle v)).reverse
  let r := { v with seq := ev.nextSeq - BitVec.ofNat 32 later.length, lostBefore := lost }
  { s with events := { ev with
      log := (ev.log.take (ev.log.length - later.length) ++ r :: later.map (fun x => { x with seq := x.seq + 1 })).drop (ev.log.length + 1 - 1024)
      nextSeq := ev.nextSeq + 1
      lostBefore := false } }

/-- Hold one record in the 256-entry hardware queue, or count it lost (R34, R462). -/
def queueRecord (s : State) (v : Event) : State :=
  let ev := s.events
  if ev.hwq.length < 256 then { s with events := { ev with hwq := ev.hwq ++ [v] } }
  else
    let (l, o) := satInc ev.lost
    { s with events := { ev with hwOvf := ev.hwOvf + 1, lost := l, lostOvf := ev.lostOvf || o, lostBefore := true } }

/-- Raise one record: to the log where the control core runs, else to the hardware queue. -/
def record (s : State) (code unit : Nat) (arg : Long) (t : MT) (inj : Bool) : State :=
  let v : Event := ⟨BitVec.ofNat 16 code, BitVec.ofNat 16 unit, 0, t, arg, inj, false⟩
  if coreUp s then logRecord s v else queueRecord s v

/-- DET_COUNT of a code one higher (R501). -/
def countDet (s : State) (code : Nat) : State :=
  { s with events := { s.events with det := tset 0 s.events.det code (satInc31 (tget 0 s.events.det code)) } }

/-- One detection of media time `t` (R501, R502): its count, and its record unless the detector's second is running. -/
def detectWhen (s : State) (t : MT) (code unit : Nat) (arg : Long) (inj : Bool) : State :=
  let s := countDet s code
  if rateLimited code then
    let key := code * 65536 + unit
    match s.events.limits.find? (fun l => decide (l.key = key)) with
    | some l =>
      let l' : Limit := ⟨key, l.count + 1, t, (l.allInj || decide (l.count = 0)) && inj, l.since⟩
      { s with events := { s.events with limits := s.events.limits.map (fun x => if x.key = key then l' else x) } }
    | none =>
      record { s with events := { s.events with limits := s.events.limits ++ [⟨key, 0, t, true, t⟩] } } code unit arg t inj
  else record s code unit arg t inj

/-- One detection, now. -/
def detectAs (s : State) (code unit : Nat) (arg : Long) (inj : Bool) : State := detectWhen s (now s) code unit arg inj

/-- A firing that finds the unit in the detector's reaction counts in SUPPRESSED, and does nothing else (R517). -/
def suppress (s : State) : State := { s with events := { s.events with suppressed := satInc31 s.events.suppressed } }

/-- A detection of the hardware's own. -/
def detect (s : State) (code unit : Nat) (arg : Long) : State := detectAs s code unit arg false

/-- The device-wide UNIT (R461). -/
def devUnit : Nat := 0xFFFF

/-- Records held in the hardware queue reach the log, then EVENT_LOST if any was lost (R462, R503). -/
def drainQueue (s : State) : State :=
  let held := s.events.hwq
  let n := s.events.hwOvf
  let s := { s with events := { s.events with hwq := [], hwOvf := 0, lostBefore := false } }
  let s := held.foldl logRecord s
  if n = 0 then s
  else detect { s with events := { s.events with lostBefore := true } } 0x6009 devUnit (BitVec.ofNat 32 n)

/-! ## Error codes (R463) -/

def eOK : Word := 0
def eNoObject : Word := 1
def eNoElement : Word := 2
def eDenied : Word := 3
def eNotAuth : Word := 4
def eType : Word := 5
def eRange : Word := 6
def eState : Word := 7
def eBusy : Word := 8
def eLate : Word := 9
def eStale : Word := 10
def eCapacity : Word := 11
def eEpoch : Word := 12
def eIntegrity : Word := 13
def eCost : Word := 14
def eIllegal : Word := 15
def eLength : Word := 16
def eConflict : Word := 17
def eInject : Word := 18

/-! ## Time passes -/

/-- The media-time counter runs: the part is out of reset and has its crystal. -/
def timeRuns (s : State) : Bool :=
  !s.power.held && !(decide (s.power.dev = .fault) && decide (s.power.faultCause = 1))

/-- Media time one phase unit later; the phase does not pass the base period, whose boundary is a command of its own. -/
def idleTime (t : MT) : MT := if t.phase = 0xFFFF then t else ⟨t.count, t.phase + 1⟩

/-- One phase unit of media time passes, where the counter runs. -/
def timePasses (s : State) : State := if timeRuns s then { s with clocks := { s.clocks with mt := idleTime s.clocks.mt } } else s

/-! ## Management replies (R444, R455 to R458) -/

/-- The dictionary is present at all (R439): messages are not discarded. -/
def dictPresent (s : State) : Bool := coreUp s

/-- R439: FAULT admits identity, state, event and security objects only. -/
def dictAdmits (s : State) (obj : Nat) : Bool :=
  if s.power.dev = .fault then
    decide (obj ≤ 0x01FF) || (decide (0x1100 ≤ obj) && decide (obj ≤ 0x12FF))
  else true

/-- A message with its header (R440). -/
def kmpMessage (target kind sess seq : Nat) (body : List Byte) : List Byte :=
  [1] ++ be 1 kind ++ be 1 sess ++ [0] ++ be 2 seq ++ be 2 body.length ++ be 2 target ++ [0, 0] ++ body

/-- The MAC that follows a message's octets (R440). -/
def macOf (key m : List Byte) : List Byte := (Config.hmac key m).take 16

/-- The octets of a message with its TARGET (R440, R441, R444, R451, R462). -/
def msgOctets (s : State) (target : Nat) (m : OutMsg) : List Byte :=
  let sealed (k : Nat) (x : List Byte) : List Byte := x ++ macOf (session s k).sessKey x
  match m with
  | .reply r => sealed r.sess (kmpMessage target 2 r.sess r.seq.toNat
      (be 1 r.op ++ be 1 r.count ++ be 2 r.status.toNat ++ [r.failIndex, 0] ++ mtBytes r.arrival ++ r.data))
  | .event k rs => sealed k (kmpMessage target 3 k 0 (be 1 rs.length ++ be 3 0 ++ rs.flatMap (fun v => be 24 v.toNat)))
  | .challenge k dn device serial => kmpMessage target 0x11 k 0 (dn ++ be 2 device.toNat ++ be 8 serial.toNat)
  | .welcome k proof idleS => sealed k (kmpMessage target 0x13 k 0 (proof ++ be 2 idleS.toNat))
  | .refuse k seq st => kmpMessage target 0x15 k seq.toNat (be 2 st.toNat)
  | .relayed x => x
  | .arp | .icmpEcho _ => []

/-- Hand a message to an interface, for a host at an address and port. On HQ its TARGET names nobody else; on the grove it is the device of
the host (R449). -/
def sendTo (s : State) (i : Iface) (address : Long) (port : Word) (m : OutMsg) : State :=
  let g := s.mgmt
  { s with mgmt := match i with
      | .ethernet => { g with outEth := g.outEth ++ [(address, port, m)] }
      | .hq => { g with outHq := g.outHq ++ [msgOctets s 0xFFFF m] }
      | .grove => { g with outGrove := g.outGrove ++ [(address.toNat, msgOctets s address.toNat m)] } }

/-- Hand a message to the host of session `k`. -/
def sendOn (s : State) (k : Nat) (m : OutMsg) : State :=
  let x := session s k
  sendTo s x.iface x.address x.port m

/-- Interface number 0 to 2, as MGMT_STATS numbers its elements. -/
def ifaceNo : Iface → Nat
  | .ethernet => 0
  | .hq => 1
  | .grove => 2

/-- A MGMT_STATS counter of an interface one higher: `base` 0 REQUESTS, 3 BUSY, 6 DROPPED (R466). -/
def countStat (s : State) (base : Nat) (i : Iface) : State :=
  let k := base + ifaceNo i
  let (t, o) := bump s.mgmt.stats s.mgmt.statsOvf k k
  { s with mgmt := { s.mgmt with stats := t, statsOvf := o } }

/-- The interface's request queue (R459). -/
def queueOf (g : Mgmt) : Iface → List (Req × List Byte)
  | .ethernet => g.qEth
  | .hq => g.qHq
  | .grove => g.qGrove

def setQueue (g : Mgmt) (i : Iface) (q : List (Req × List Byte)) : Mgmt :=
  match i with
  | .ethernet => { g with qEth := q }
  | .hq => { g with qHq := q }
  | .grove => { g with qGrove := q }

/-- CHALLENGE of a session has been sent, or a REQUEST has arrived: its time begins (again) now (R451, R454). -/
def heardHost (s : State) (k : Nat) : State :=
  { s with mgmt := { s.mgmt with heardAt := tset MT.zero s.mgmt.heardAt k (now s) } }

/-- The mt from which a session's time counts. -/
def heardFrom (s : State) (k : Nat) : MT := tget MT.zero s.mgmt.heardAt k

/-- Execution takes the request from the head of its interface's queue (R459); one that waited nowhere has just arrived. Its arrival stamp is
now (R70, R458). -/
def dequeue (s : State) (i : Iface) (r : Req) : State :=
  let q := queueOf s.mgmt i
  { s with mgmt := { setQueue s.mgmt i (if q.head?.any (fun x => decide (x.1 = r)) then q.drop 1 else q) with
      lastServed := i, lastStamp := some (now s)
      heardAt := if q.any (fun x => decide (x.1 = r)) then s.mgmt.heardAt else (heardHost s r.sess.val).mgmt.heardAt } }

/-- No two requests carry the same arrival stamp (R458): one whose turn comes in the phase unit of the last is executed in the next.
DESIGN CHOICE (notes/assumptions/170): not past the last phase unit of a base period, whose end is a command. -/
def freshStamp (s : State) : State := if s.mgmt.lastStamp = some (now s) then timePasses s else s

/-- REFUSE of a request that names a session which is not open, and so no host that is known: the address, and the interface where the
command names none, are free values (DESIGN CHOICE, notes/assumptions/171). -/
def refuseUnbound (s : State) (i : Option Iface) (r : Req) : State :=
  let (n, s) := draw s
  let any : Iface := match (Config.freeWord (n + 1)).toNat % 3 with
    | 0 => .ethernet
    | 1 => .hq
    | _ => .grove
  sendTo { s with fresh := n + 3 } (i.getD any) (Config.freeLong n) (Config.freeWord (n + 2)) (.refuse r.sess.val r.seq eNotAuth)

/-- A reply of an executed request: SCHED.LATE_COUNT counts a TOO_LATE (R86); the reply is cached among the session's 32
latest, H becomes its SEQ (R455), and it goes to the session's interface. -/
def sendReply (s : State) (r : Req) (op count : Nat) (st : Word) (fail : Byte) (data : List Byte) : State :=
  let k := r.sess.val
  let ss := session s k
  let rep : Reply := ⟨k, r.seq, op, count, st, fail, now s, data⟩
  let s := if st = eLate then
      let (c, o) := satInc s.clocks.lateCount
      { s with clocks := { s.clocks with lateCount := c, lateOvf := s.clocks.lateOvf || o } }
    else s
  let s := countStat s 0 ss.iface
  let s := setSession s k { session s k with high := some r.seq, cache := (rep :: (session s k).cache).take 32 }
  sendOn s k (.reply rep)

/-- What a command of one element needs before its own checks: its object, the least role, whether its fields lie in
range (R456 step 8), whether an RWI unit is idle (step 9), and whether a keyless session may write it (R491). -/
structure Gate where
  obj : Nat
  role : Nat
  range : Bool := true
  idle : Bool := true
  keyless : Bool := false
  deriving DecidableEq, Repr

/-- Outside BLANK and RETURNED a keyless session writes KEYS.INSTALL and LIFECYCLE.ADVANCE only (R491). -/
def keylessBars (s : State) (r : Req) : Bool :=
  (session s r.sess.val).keyless && decide (s.fuses.life ≠ .blank) && decide (s.fuses.life ≠ .returned)

/-- R456 steps 5, 8 and 9 for one element; none = passed. -/
def gateFails (s : State) (r : Req) (g : Gate) : Option Word :=
  if (session s r.sess.val).role < g.role || (!g.keyless && keylessBars s r) then some eDenied
  else if !g.range then some eRange
  else if !dictAdmits s g.obj || !g.idle then some eState
  else none

/-- An executed request (R455 to R458): `body` is step 10 and the effect. A failure changes nothing but the reply.
Absent dictionary: the message is discarded. A session that is not open: REFUSE NOT_AUTHENTICATED. `onFail` is the data of
a reply that reports a failure (R444). -/
def runRequest (s : State) (r : Req) (op count : Nat) (gate : State → Option (Word × Byte))
    (body : State → Except Word (State × List Byte)) (onFail : State → List Byte := fun _ => []) : State :=
  if !dictPresent s then s
  else
    let ss := session s r.sess.val
    if ss.phase ≠ 2 then refuseUnbound s none r
    else
      let s := dequeue (freshStamp s) ss.iface r
      match gate s with
      | some (c, i) => sendReply s r op count c i (onFail s)
      | none =>
        match body s with
        | .error c => sendReply s r op count c 0 (onFail s)
        | .ok (s', d) => sendReply s' r op count eOK 0xFF d

/-- A command written to one element. -/
def writeCmd (s : State) (r : Req) (g : Gate) (body : State → Except Word State) : State :=
  runRequest s r 2 1 (fun s => (gateFails s r g).map (·, 0))
    (fun s => match body s with
      | .error c => .error c
      | .ok s' => .ok (s', []))

/-- A DOMAIN_CLOSE whose octets have all arrived, passing on to the element's own checks (R444 to R446): RECEIVED is in the
reply either way. -/
def closeCmd (s : State) (r : Req) (g : Gate) (received : Nat) (body : State → Except Word State) : State :=
  runRequest s r 5 1 (fun s => (gateFails s r g).map (·, 0))
    (fun s => match body s with
      | .error c => .error c
      | .ok s' => .ok (s', be 4 received)) (fun _ => be 4 received)

/-- Roles (R451). -/
def operator : Nat := 1
def engineer : Nat := 2
def custodian : Nat := 3

/-- The device has joined a grove: some link's join is complete. -/
def joinedGrove (s : State) : Bool := s.links.any (fun kv => kv.2.joinDone)

/-- The device is in no grove (R404). -/
def alone (s : State) : Bool := decide (s.cfg.groveId = 0)

/-- Compatibility level of the firmware that runs (R464, R485). -/
def ownCompat (s : State) : Byte := (if s.power.fwSlotB then s.power.slotB else s.power.slotA).compat

/-- A link that passed the checks 1 to 4 of R405. -/
def joined (s : State) (l : Nat) : Bool := !alone s && decide ((link s l).join = 4)

/-- The peer's latest header has this device's compatibility level: a link whose levels differ takes no slots (R6, R415). -/
def levelEqual (s : State) (l : Nat) : Bool := (link s l).rxHdr.all (fun h => decide (h.compat = ownCompat s))

/-- A change to a persistent value: CONFIG_EPOCH advances at once on a device that is alone (R438); on a member it
goes to the Root, which advances the grove's (R416). -/
def bumpEpoch (s : State) : State :=
  if joinedGrove s then { s with grove := { s.grove with changeReported := true } }
  else { s with epoch := s.epoch + 1 }

def setClocks (s : State) (f : Clocks → Clocks) : State := { s with clocks := f s.clocks }
def setMgmt (s : State) (f : Mgmt → Mgmt) : State := { s with mgmt := f s.mgmt }

/-- A command's meaning that always goes on. -/
def ok (s : State) : Outc := .next s

end Sys2Proof.Machine
end

