-- ==== Sys2Proof/Machine/Flags.lean ====
section
/-! DEFINITION. The status register ST, the carries and the exact arithmetic behind the flags (R137, R138, R203, R204,
R210, R226 to R235). -/
namespace Sys2Proof.Machine

/-! ## ST (R137) -/

/-- ST after a program writes `v`: the sticky bits [5:0] are cleared by 1, [10:6] are written, the rest reads 0. -/
def stWritten (st v : Word) : Word := (st &&& 0x003F &&& ~~~ v) ||| (v &&& 0x07C0)

def stC (st : Word) : Bool := st.getLsbD 6
def stDC (st : Word) : Bool := st.getLsbD 7

/-- ST with bit `k` set to `b`. -/
def stSet (st : Word) (k : Nat) (b : Bool) : Word :=
  if b then st ||| BitVec.ofNat 16 (2 ^ k) else st &&& ~~~ BitVec.ofNat 16 (2 ^ k)

/-- ST with HC and DC written (R213). -/
def stDigits (st : Word) (dc : Bool) (hc : BitVec 3) : Word :=
  stSet ((st &&& 0xF8FF) ||| (hc.setWidth 16 <<< 8)) 7 dc

/-! ## Integer ALU (R203, R204) -/

/-- a + b + c in `n` bits, with the carry out. -/
def addC {n : Nat} (a b : BitVec n) (c : Bool) : BitVec n × Bool :=
  let t := a.toNat + b.toNat + c.toNat
  (BitVec.ofNat n t, decide (2 ^ n ≤ t))

/-- a − b − c in `n` bits, with the borrow. -/
def subC {n : Nat} (a b : BitVec n) (c : Bool) : BitVec n × Bool :=
  (a - b - BitVec.ofNat n c.toNat, decide (a.toNat < b.toNat + c.toNat))

/-- −a, with the most negative value saturating and setting SAT. -/
def negSat {n : Nat} (a : BitVec n) : BitVec n × Bool :=
  if a = BitVec.intMin n then (~~~ BitVec.intMin n, true) else (- a, false)

/-- |a|, likewise. -/
def absSat {n : Nat} (a : BitVec n) : BitVec n × Bool := if a.toInt < 0 then negSat a else (a, false)

def minS {n : Nat} (a b : BitVec n) : BitVec n := if b.slt a then b else a
def maxS {n : Nat} (a b : BitVec n) : BitVec n := if a.slt b then b else a

/-- Shifts by an unsigned amount; at n or more SHL and SHR give 0 and ASR gives copies of the sign. -/
def shlV {n : Nat} (a : BitVec n) (s : Nat) : BitVec n := a <<< s
def shrV {n : Nat} (a : BitVec n) (s : Nat) : BitVec n := a >>> s
def asrV {n : Nat} (a : BitVec n) (s : Nat) : BitVec n := a.sshiftRight s
def rolV {n : Nat} (a : BitVec n) (s : Nat) : BitVec n := a.rotateLeft (s % n)

/-! ## Rounding -/

/-- num / den to the nearest integer, ties to even (R255, R546); den is positive. -/
def roundEven (num : Int) (den : Nat) : Int :=
  let q := num.fdiv den
  let r := num - q * den
  if 2 * r < den then q else if (den : Int) < 2 * r then q + 1 else if q % 2 = 0 then q else q + 1

/-- Saturate an integer to a signed 32-bit value. -/
def sat32 (v : Int) : Long :=
  if v > 2147483647 then 0x7FFFFFFF else if v < -2147483648 then 0x80000000 else BitVec.ofInt 32 v

/-- A Q1.31 sample times an exact gain num / den, rounded once and saturated (R546). -/
def scale (x : Long) (num : Int) (den : Nat) : Long := sat32 (roundEven (x.toInt * num) den)

/-! ## Accumulators (R226 to R235) -/

def accMax : Int := 2 ^ 71 - 1
def accMin : Int := -(2 ^ 71)

/-- R230: fit an exact result to 72 bits under EMODE.ACCM; whether it left the range. -/
def fit72 (accm : Bool) (v : Int) : Acc × Bool :=
  if v > accMax then (if accm then BitVec.ofInt 72 v else BitVec.ofInt 72 accMax, true)
  else if v < accMin then (if accm then BitVec.ofInt 72 v else BitVec.ofInt 72 accMin, true)
  else (BitVec.ofInt 72 v, false)

/-- A signed × signed product placed in units of 2⁻⁶³ (R207, R226). -/
def prodSS (a b : Long) : Int := 2 * (a.toInt * b.toInt)
/-- A signed × unsigned product, not doubled (R207). -/
def prodSU (a b : Long) : Int := a.toInt * (b.toNat : Int)

/-- P from a MUL: only (−1) × (−1) does not fit and becomes the largest Q1.63 (R207). -/
def prodP (a b : Long) : BitVec 64 :=
  let v := prodSS a b
  if v > 9223372036854775807 then 0x7FFFFFFFFFFFFFFF else BitVec.ofInt 64 v

/-- Real and imaginary parts of a complex product in accumulator units (R208, R227). -/
def prodC (a b : Long) (j : Bool) : Int × Int :=
  let ar := (a.extractLsb' 16 16).toInt
  let ai := (a.extractLsb' 0 16).toInt
  let br := (b.extractLsb' 16 16).toInt
  let bi := (b.extractLsb' 0 16).toInt
  let u : Int := 2 * 2 ^ 32
  if j then (u * (ar * br + ai * bi), u * (ai * br - ar * bi))
  else (u * (ar * br - ai * bi), u * (ar * bi + ai * br))

/-- Bits [71:32] of a value rounded at bit 32 under mode `rm` 0 to 2 (R210), exactly. -/
def round32 (v : Int) (rm : Nat) : Int :=
  let q := v.fdiv (2 ^ 32)
  let low := v - q * 2 ^ 32
  match rm with
  | 0 => q
  | 1 => if low ≥ 2 ^ 31 then q + 1 else q
  | _ => if low > 2 ^ 31 then q + 1 else if low = 2 ^ 31 then (if q % 2 = 0 then q else q + 1) else q

/-- ARND (R209, R233): the result and whether it left the range. -/
def arndV (accm : Bool) (a : Acc) (rm : Nat) : Acc × Bool :=
  let q := round32 a.toInt rm
  if q > 2 ^ 39 - 1 then (if accm then 0x800000000000000000#72 else 0x7FFFFFFFFF00000000#72, true)
  else (BitVec.ofInt 72 (q * 2 ^ 32), false)

/-- ASTL (R211, R233): the stored long and whether saturation changed it. -/
def astlV (a : Acc) (rm : Nat) : Long × Bool :=
  let q := round32 a.toInt rm
  (sat32 q, decide (q > 2147483647) || decide (q < -2147483648))

/-- ASAT (R209, R233). -/
def asatV (a : Acc) : Acc × Bool :=
  let v := a.toInt
  if v > 2147483647 * 2 ^ 32 then (0x007FFFFFFF00000000#72, true)
  else if v < -(2147483648 * 2 ^ 32) then (0xFF8000000000000000#72, true)
  else (a, false)

/-- ASHF (R209, R234): the shift of `s` from −32 to 31. -/
def ashfV (accm : Bool) (a : Acc) (s : Int) : Acc × Bool :=
  if s ≤ 0 then (BitVec.ofInt 72 (a.toInt.fdiv (2 ^ (-s).toNat)), false)
  else
    let v := a.toInt * 2 ^ s.toNat
    if v > accMax || v < accMin then
      (if accm then BitVec.ofInt 72 v else if a.toInt < 0 then BitVec.ofInt 72 accMin else BitVec.ofInt 72 accMax, true)
    else (BitVec.ofInt 72 v, false)

/-- Redundant sign bits of a value of `n` bits below its top bit. -/
def clsN {n : Nat} (a : BitVec n) : Nat → Nat → Nat
  | 0, acc => acc
  | k + 1, acc => if a.getLsbD k = a.msb then clsN a k (acc + 1) else acc

/-- ANRM (R209, R235): the normalised value and the left shift applied. Bits [71:63] become equal and bit 62 differs. -/
def anrmV (a : Acc) : Acc × Word :=
  if a = 0 then (0, 64)
  else
    let sh : Int := (clsN a 71 0 : Int) - 8
    let sh := if sh > 62 then 62 else sh
    if sh < 0 then (BitVec.ofInt 72 (a.toInt.fdiv (2 ^ (-sh).toNat)), BitVec.ofInt 16 sh)
    else (BitVec.ofInt 72 (a.toInt * 2 ^ sh.toNat), BitVec.ofInt 16 sh)

/-! ## Bits and digits (R212, R213) -/

/-- Leading zeros of the low `k` bits, counted from bit k − 1. -/
def clzN {n : Nat} (a : BitVec n) : Nat → Nat
  | 0 => 0
  | k + 1 => if a.getLsbD k then 0 else clzN a k + 1

/-- Packed addition, subtraction or adjustment, digit by digit. -/
inductive DigitOp where
  | padd | psub | dadj
  deriving DecidableEq, Repr

/-- The digit loop of R213 from digit `i` on, `k` digits left: result digits, HC bits and the last carry. -/
def digits (op : DigitOp) (a b : Nat) : Nat → Nat → Nat → Nat × Nat × Nat
  | 0, _, c => (0, 0, c)
  | k + 1, i, c =>
    let x := a / 16 ^ i % 16
    let y := b / 16 ^ i % 16
    let (d, c') : Nat × Nat :=
      match op with
      | .psub => if x < y + c then ((x + 26 - (y + c)) % 16, 1) else (x - y - c, 0)
      | .padd => if x + y + c ≥ 10 then ((x + y + c - 10) % 16, 1) else (x + y + c, 0)
      | .dadj => if x + c ≥ 10 then ((x + c - 10) % 16, 1) else (x + c, 0)
    let (r, h, l) := digits op a b k (i + 1) c'
    (d * 16 ^ i + r, (if i < 3 then c' * 2 ^ i else 0) + h, l)

/-- The packed word, HC and DC. -/
def packedV (op : DigitOp) (a b : Word) (c : Bool) : Word × BitVec 3 × Bool :=
  let (r, h, l) := digits op a.toNat b.toNat 4 0 c.toNat
  (BitVec.ofNat 16 r, BitVec.ofNat 3 h, l == 1)

/-- Every digit is 9 or less. -/
def bcdValid (a : Word) : Bool := (List.range 4).all (fun i => decide (a.toNat / 16 ^ i % 16 ≤ 9))

end Sys2Proof.Machine
end

