-- ==== Sys2Proof/WellFormed.lean ====
section
/-! DEFINITION. Well-formed commands: an engine word that some defined encoding spells (R221), and operands that fit the
fields the spec gives them. -/
namespace Sys2Proof

/-- A shift or rotate amount given as an immediate lies in 0 to n − 1 (R204). -/
def AluArgs.shiftOk : AluArgs → Bool
  | .wordImm _ _ f => decide (f.toNat < 16)
  | .longImm _ _ f => decide (f.toNat < 32)
  | _ => true

/-- A slot that uses the multiplier array: slot codes 0x5 to 0x9 (R225). -/
def Slot.usesArray : Slot → Bool
  | .mac .. | .msu .. | .mul .. | .cmac .. | .cmsu .. => true
  | _ => false

/-- An operand that is a commit-group number (R308). -/
def groupOk (g : Nat) : Bool := decide (1 ≤ g) && decide (g ≤ 255)

/-- The well-formedness of a command. The limits of a management request's values are not here: the device checks those
itself and answers an error code. -/
def Instr.wf : Instr → Bool
  | .pairWord w h l => decide (w.gs.val < 4) && !(h.usesArray && l.usesArray)
  | .rpt _ n => decide (1 ≤ n) && decide (n ≤ 4096)
  | .blk _ _ len => decide (1 ≤ len) && decide (len ≤ 4096)
  | .callm _ a _ => decide (a.toNat % 32 = 0)
  | .shl _ a | .shr _ a | .asr _ a | .rol _ a => a.shiftOk
  | .acmp _ _ _ _ cc => decide (cc.val < 3)
  | .bfx _ _ _ pos wid _ => decide (1 ≤ wid) && decide (pos + wid ≤ 32)
  | .bfi _ _ _ pos wid => decide (1 ≤ wid) && decide (pos + wid ≤ 32)
  | .pcmp _ _ _ b cc => decide (cc.val < 3) || decide (b.val = 0)
  | .routeAdd _ r .. | .routeRemove _ r .. | .routeCancel _ r .. => decide (r < 8192)
  | .addPage _ g _ | .removePage _ g _ | .scope _ g _ | .addMember _ g _ | .arm _ g _ | .cancel _ g _
  | .groupRelease _ g _ => groupOk g
  | .pageWrite _ _ _ first vs => decide (1 ≤ vs.length) && decide (first + vs.length ≤ 64)
  | .sourceDef _ e .. | .subscribe _ e .. | .streamStart _ e .. | .streamStop _ e .. | .streamCancel _ e ..
  | .streamRelease _ e _ | .subscribeResult e .. | .reroute e _ => decide (e < 8192)
  | .keyInstall _ _ _ _ m | .keyDelete _ _ _ _ m => decide (m.length = 64)
  | .domainOpen _ _ _ _ d => decide (d.length = 32)
  | .domainData _ _ _ _ d => decide (1 ≤ d.length) && decide (d.length ≤ 1024)
  | .hello _ _ _ _ _ cn => decide (cn.length = 16)
  | .prove _ _ p => decide (p.length = 32)
  | .relayLapse _ k => decide (k.toNat < 16)
  | .adaptDone _ _ eq => decide (eq.length = 8)
  | _ => true

end Sys2Proof
end

