-- ==== Sys2Proof/Machine/Operands.lean ====
section
/-! DEFINITION. Operand forms of the engine words: registers, addressing, immediates, the data space, delay lines
(R135 to R145, R185 to R192, R250 to R255). -/
namespace Sys2Proof.Machine

/-! ## Registers (R135, R136, R185, R186) -/

def codeLC : Nat := 0x28
def codeLK : Nat := 0x2C
def codeST : Nat := 0x2D
def codeA (n : Nat) : Nat := 0x10 + n
def codeM (n : Nat) : Nat := 0x18 + n
def codeB (n : Nat) : Nat := 0x20 + n
def codeN (n : Nat) : Nat := 0x24 + n

/-- The word register of a code of R185. -/
def rW (c : Ctx) (code : Nat) : Word := tget 0 c.regs code
/-- Write a word register; LK keeps bits [13:0] only (R136), ST its defined bits (R137). -/
def wW (c : Ctx) (code : Nat) (v : Word) : Ctx :=
  let v := if code = codeLK then v &&& 0x3FFF else if code = codeST then v &&& 0x07FF else v
  { c with regs := tset 0 c.regs code v }

/-- Ln = D(2n+1):D(2n), or a tap for codes 8 to 11 (R135, R186). -/
def rL (c : Ctx) (code : Nat) : Long :=
  if code < 8 then rW c (2 * code + 1) ++ rW c (2 * code) else tget 0 c.taps (code - 8)
/-- Write Ln. -/
def wL (c : Ctx) (n : Nat) (v : Long) : Ctx :=
  wW (wW c (2 * n + 1) (v.extractLsb' 16 16)) (2 * n) (v.extractLsb' 0 16)

def st (c : Ctx) : Word := rW c codeST
def acc (c : Ctx) (n : Nat) : Acc := tget 0 c.acs n
/-- A guard; G0 always reads 1 (R135). -/
def guard (c : Ctx) (n : Nat) : Bool := if n = 0 then true else c.guards.getLsbD n
/-- Write a guard; a write to G0 is discarded (R136). -/
def wG (c : Ctx) (n : Nat) (b : Bool) : Ctx :=
  if n = 0 then c
  else { c with guards := if b then c.guards ||| BitVec.ofNat 8 (2 ^ n) else c.guards &&& ~~~ BitVec.ofNat 8 (2 ^ n) }

/-- The guard condition of a word (R151). -/
def guardHolds (c : Ctx) (w : Issue) : Bool := guard c w.gs.val != w.gn

/-- EMODE fields (R144). -/
def accm (c : Ctx) : Bool := c.emode.getLsbD 0
def rndMode (c : Ctx) : Nat := c.emode.toNat / 2 % 4
/-- The rounding mode named by rm, 3 = EMODE.RND (R210). -/
def roundingOf (c : Ctx) (rm : Nat) : Nat := if rm = 3 then rndMode c else rm

/-- The accumulator as a MAC-class word reads it: the latest MAC-class result issued 1 or 2 cycles earlier (R150). -/
def accMac (c : Ctx) (n : Nat) : Acc :=
  c.inflight.foldl (fun v f => if f.mac = some n && decide (c.cycle ≤ f.iss + 2) then
    (match f.act with
      | .acc _ x => x
      | _ => v) else v) (acc c n)

/-! ## Immediates (R191, R192) -/

/-- Extend an `n`-bit value to an Int, signed or not. -/
def extInt (n v : Nat) (signed : Bool) : Int := if signed && decide (2 ^ (n - 1) ≤ v) then (v : Int) - 2 ^ n else v

/-- The operand of an `f`-bit field with an optional IMM extension, extended to `w` bits. -/
def immOf (f w : Nat) (signed : Bool) (ext : Option (BitVec 21)) (field : Nat) : BitVec w :=
  match ext with
  | none => BitVec.ofInt w (extInt f field signed)
  | some e =>
    let v := e.toNat * 2 ^ f + field
    if f + 21 < w then BitVec.ofInt w (extInt (f + 21) v signed) else BitVec.ofNat w v

/-- IMM bits at positions at or above w − f are 0 (R191). -/
def immBitsOk (f w : Nat) : Option (BitVec 21) → Bool
  | none => true
  | some e => decide (e.toNat < 2 ^ (w - f))

/-- Whether an IMM prefix may stand before a word, with its bits in range (R191, R192). -/
def immFits (e : Option (BitVec 21)) : Instr → Bool
  | .add _ a | .addc _ a | .sub _ a | .subc _ a | .min _ a | .max _ a | .and _ a | .or _ a | .xor _ a =>
    match a with
    | .wordImm .. => immBitsOk 8 16 e
    | .longImm .. => true
    | _ => e.isNone
  | .cmpeq _ a | .cmpne _ a | .cmplt _ a | .cmple _ a | .cmpltu _ a | .cmpleu _ a =>
    match a with
    | .wordImm .. => immBitsOk 9 16 e
    | .longImm .. => true
    | _ => e.isNone
  | .ldil .. => immBitsOk 18 32 e
  | .blk _ field _ => immBitsOk 9 16 e && decide (immOf 9 16 false e field.toNat ≠ 0)
  | _ => e.isNone

/-- The encoding of a word, together with its IMM prefix, is defined (R221, R225). -/
def wordDefined (i : Instr) (e : Option (BitVec 21)) : Bool := i.wf && immFits e i

/-! ## Addressing (R187, R188) -/

/-- Fold an unwrapped sum into the circular buffer of A0 to A3. -/
def fold (c : Ctx) (n : Nat) (x : Int) : Word :=
  let len := rW c (codeN n)
  if n < 4 && decide (len ≠ 0) then
    let b := rW c (codeB n)
    BitVec.ofInt 16 (b.toNat + (x - b.toNat).emod len.toNat)
  else BitVec.ofInt 16 x

/-- Effective address and An afterwards, for an access of `sz` words. -/
def effAddr (c : Ctx) (m : MemOp) (sz : Nat) : Word × Option Word :=
  let n := m.an.val
  let a : Int := (rW c (codeA n)).toNat
  match m.mode with
  | .ind => (rW c (codeA n), none)
  | .postInc => (rW c (codeA n), some (fold c n (a + sz)))
  | .postMod => (rW c (codeA n), some (fold c n (a + (rW c (codeM n)).toInt)))
  | .preDec => let v := fold c n (a - sz); (v, some v)
  | .index x sc => (fold c n (a + (rW c x.val).toInt * 2 ^ sc.val), none)

/-- A slot's mode as an addressing mode. -/
def smodeFull : SMode → AMode
  | .ind => .ind
  | .postInc => .postInc
  | .postMod => .postMod
  | .preDec => .preDec

/-! ## Engine modes and control registers (R140 to R145) -/

/-- Sapling mode: ENG_STATE SAPLING or HALTED, gated or not (R164, R179). -/
def saplMode (e : Engine) : Bool :=
  match e.state with
  | .sapling | .halted => true
  | .gated => decide (e.before = .sapling) || decide (e.before = .halted)
  | _ => false

/-- FREE Sapling: not paced (R144, R164). -/
def freeRun (e : Engine) : Bool := saplMode e && !e.ctx.emode.getLsbD 4

/-- ESTAT (R142). -/
def estat (e : Engine) : Word :=
  BitVec.ofNat 16 (bitOf e.inh * 128 + bitOf e.pflt * 64 + bitOf (e.fade.isSome && e.newRun) * 32 +
    bitOf e.fade.isSome * 16 + bitOf (saplMode e) * 8 + bitOf e.hsrPend * 4 + bitOf e.ovf)

/-- EFAULT (R143). -/
def efault (e : Engine) : Word := BitVec.ofNat 16 (e.faultCause * 4096 + e.faultArg * 256 + e.faultRun * 16)

/-- FEAT0 to FEAT3 (R222). -/
def feat (n k : Nat) : Word :=
  match k with
  | 0 => BitVec.ofNat 16 (0x0100 + n)
  | 1 => 0x003F
  | 2 => 0x1020
  | _ => 0

/-- A control register as a program reads it; none = unmapped (R141). -/
def readCtl (e : Engine) (n : Nat) (a : Nat) : Option Word :=
  match a with
  | 0xF000 => some (estat e)
  | 0xF001 => some (efault e)
  | 0xF002 => some (e.faultPc &&& 0x3FFF)
  | 0xF003 => some e.faultAddr
  | 0xF004 => some e.ctx.emode
  | 0xF008 => some (feat n 0)
  | 0xF009 => some (feat n 1)
  | 0xF00A => some (feat n 2)
  | 0xF00B => some (feat n 3)
  | 0xF00C => some e.ctrLatch
  | 0xF00D => some (e.frameCtr.extractLsb' 0 16)
  | 0xF010 => some (e.mtFrame.count.extractLsb' 48 16)
  | 0xF011 => some (e.mtFrame.count.extractLsb' 32 16)
  | 0xF012 => some (e.mtFrame.count.extractLsb' 16 16)
  | 0xF013 => some (e.mtFrame.count.extractLsb' 0 16)
  | 0xF014 => some e.mtFrame.phase
  | 0xF018 => some (e.ira &&& 0x3FFF)
  | _ => none

/-! ## Coefficient pages (R239, R284, R285, R297) -/

def page (e : Engine) (p : Nat) : Page := tget {} e.pages p
def setPage (e : Engine) (p : Nat) (v : Page) : Engine := { e with pages := tset {} e.pages p v }
/-- The copy in view, and the other. -/
def viewCopy (p : Page) : Tbl Word := if p.view1 then p.copy1 else p.copy0
def otherCopy (p : Page) : Tbl Word := if p.view1 then p.copy0 else p.copy1
def setOther (p : Page) (t : Tbl Word) : Page := if p.view1 then { p with copy0 := t } else { p with copy1 := t }

/-- k of the frame whose MT_FRAME is `t` (R284); 0 outside the glide. -/
def glideK (p : Page) (cls : Nat) (t : MT) : Nat :=
  if p.state = .gliding && !inFuture t p.glideStart then
    let k := mtDiff p.glideStart t / frameUnits cls + 1
    if k ≤ p.glideN then k else 0
  else 0

/-- old + trunc((new − old) × k / N), signed (R284, R285). -/
def glided (old new : Int) (k n : Nat) : Int := old + ((new - old) * k).tdiv n

/-- A word of a page as the running program reads it in the frame that starts at `t`; `oldRun` is the old run of a fade
that reads the old copy of a replaced page. -/
def pageWord (p : Page) (cls : Nat) (t : MT) (oldRun : Bool) (i : Nat) : Word :=
  let v := viewCopy p
  let o := otherCopy p
  if oldRun then tget 0 o i
  else
    let k := glideK p cls t
    if k = 0 then tget 0 v i
    else if p.glideLong then
      let hi := i / 2 * 2
      let old : Long := tget 0 o hi ++ tget 0 o (hi + 1)
      let new : Long := tget 0 v hi ++ tget 0 v (hi + 1)
      let r : Long := BitVec.ofInt 32 (glided old.toInt new.toInt k p.glideN)
      if i = hi then r.extractLsb' 16 16 else r.extractLsb' 0 16
    else BitVec.ofInt 16 (glided (tget 0 o i).toInt (tget 0 v i).toInt k p.glideN)

/-- A page the active image replaced at its graft: carried without KEEP (R291, R292). -/
def replaced (b : ProgBank) (p : Nat) : Bool := b.pages.any (fun x => decide (x.1 = p) && !x.2.1)

/-- The running program reads the old copy of page `p`: the old run of a fade (R297). -/
def readsOld (e : Engine) (p : Nat) : Bool := e.fade.isSome && !e.newRun && replaced e.active p

/-! ## The data space (R140, R141) -/

/-- A word as the program of engine `n` reads it; none = unmapped, an ACCESS fault. -/
def peekWord (s : State) (n : Nat) (addr : Word) : Option Word :=
  let e := eng s n
  let a := addr.toNat
  if a < 0x8000 then some (tget 0 e.localRam a)
  else if a < 0xA000 then
    let p := (a - 0x8000) / 64
    some (pageWord (page e p) (engClass s n) e.mtFrame (readsOld e p) ((a - 0x8000) % 64))
  else if a < 0xA800 then some (tget 0 e.inCur (a - 0xA000))
  else if a < 0xB000 then some (tget 0 e.ctx.outCur (a - 0xA800))
  else if a < 0xB400 then some (tget 0 (cross s n).mem (a - 0xB000))
  else if a < 0xF000 then none
  else readCtl e n a

/-- Whether a program of engine `n` may write a word there (R140, R141, R144). -/
def canWrite (e : Engine) (addr : Word) : Bool :=
  let a := addr.toNat
  decide (a < 0x8000) || (decide (0xA800 ≤ a) && decide (a < 0xB400)) || decide (a = 0xF000) ||
    (decide (a = 0xF004) && saplMode e)

/-- A write of RND = 3 to EMODE is discarded with an access fault (R144). -/
def writeOk (e : Engine) (addr v : Word) : Bool :=
  canWrite e addr && !(decide (addr = 0xF004) && decide (v.toNat / 2 % 4 = 3))

/-! ## ECC locations (R261, R262) -/

/-- A location in the form of LAST_LOC; a DLS unit is the 64-bit row. -/
def locOf (kind unit word : Nat) : Nat := kind * 2 ^ 29 + unit * 2 ^ 24 + word
def dlsLoc (word : Nat) : Nat := locOf 5 0 (word / 4 * 4)

/-- The locations of a coefficient word as the running program reads it: of a glided one, both copies of the word, or of its long
(R284, R285). -/
def pageLocs (s : State) (n : Nat) (off : Nat) : List Nat :=
  let e := eng s n
  let p := off / 64
  let q := page e p
  let old := readsOld e p
  let at' (c1 : Bool) (i : Nat) : Nat := locOf 3 n ((if c1 then 0x2000 else 0) + i)
  if old || decide (glideK q (engClass s n) e.mtFrame = 0) then [at' (q.view1 != old) off]
  else
    let is := if q.glideLong then [off / 2 * 2, off / 2 * 2 + 1] else [off]
    is.flatMap (fun i => [at' q.view1 i, at' (!q.view1) i])

/-- The ECC locations behind a data-space word. -/
def eccLocs (s : State) (n : Nat) (addr : Word) : List Nat :=
  let a := addr.toNat
  if a < 0x8000 then [locOf 2 n a]
  else if a < 0xA000 then pageLocs s n (a - 0x8000)
  else if 0xB000 ≤ a && a < 0xB400 then [locOf 4 n (a - 0xB000)]
  else []

def eccMark (s : State) (loc : Nat) : Nat := tget 0 s.mem.ecc loc

/-- The first uncorrectable location behind a data-space word. -/
def badLoc (s : State) (n : Nat) (addr : Word) : Option Nat := (eccLocs s n addr).find? (fun l => decide (eccMark s l = 2))

/-- A word whose reading returns an uncorrectable word. -/
def wordBad (s : State) (n : Nat) (addr : Word) : Bool := (badLoc s n addr).isSome

/-! ## Results of a word -/

/-- A fault of R169: its cause, EFAULT.ARG and EFAULT_ADDR. -/
structure Flt where
  cause : Nat
  arg : Nat := 0
  addr : Word := 0
  /-- the uncorrectable location of a DATA_ECC fault -/
  loc : Nat := 0
  deriving DecidableEq, Repr

/-- What a word does when it issues: landing writes with their latency and forwarding mark, stores of its issue cycle,
the data-space and DLS words it read, and a delay-line write. -/
structure Eff where
  acts : List (Nat × Option Nat × Act) := []
  stores : List (Word × Word) := []
  loads : List Word := []
  dls : List Nat := []
  dwr : Option (Nat × Long) := none
  deriving DecidableEq, Repr

/-- A landing write of latency `lat`. -/
def landing (lat : Nat) (a : Act) : Nat × Option Nat × Act := (lat, none, a)

/-- The word writes of Ln with a latency. -/
def longActs (lat n : Nat) (v : Long) : List (Nat × Option Nat × Act) :=
  [landing lat (.word (2 * n + 1) (v.extractLsb' 16 16)), landing lat (.word (2 * n) (v.extractLsb' 0 16))]

/-- A word-register write: ST is written as a program writes it (R137, R185). -/
def wordAct (lat code : Nat) (v : Word) : Nat × Option Nat × Act :=
  landing lat (if code = codeST then .stWrite v else .word code v)

/-- The update of An by an addressing mode. -/
def addrAct (n : Nat) : Option Word → List (Nat × Option Nat × Act)
  | none => []
  | some v => [landing 1 (.word (codeA n) v)]

/-- Load a word (R140, R220). -/
def loadWord (s : State) (n : Nat) (a : Word) : Except Flt Word :=
  match peekWord s n a with
  | none => .error { cause := 2, addr := a }
  | some v => match badLoc s n a with
    | some l => .error { cause := 4, loc := l }
    | none => .ok v

/-- An ACCESS fault of either word of a long access reports the access's address (R141). -/
def ofAccess (a : Word) (f : Flt) : Flt := if f.cause = 2 then { f with addr := a } else f

/-- Load a long at an even address (R189). -/
def loadLong (s : State) (n : Nat) (a : Word) : Except Flt Long :=
  if a.getLsbD 0 then .error { cause := 2, addr := a }
  else match loadWord s n a with
    | .error f => .error f
    | .ok h => match loadWord s n (a + 1) with
      | .error f => .error (ofAccess a f)
      | .ok l => .ok (h ++ l)

/-- Store a word (R140, R220). -/
def storeOne (s : State) (n : Nat) (a v : Word) : Except Flt (List (Word × Word)) :=
  if writeOk (eng s n) a v then .ok [(a, v)] else .error { cause := 2, addr := a }

/-- Store a long at an even address (R189). -/
def storeLong (s : State) (n : Nat) (a : Word) (v : Long) : Except Flt (List (Word × Word)) :=
  if a.getLsbD 0 then .error { cause := 2, addr := a }
  else match storeOne s n a (v.extractLsb' 16 16) with
    | .error f => .error f
    | .ok h => match storeOne s n (a + 1) (v.extractLsb' 0 16) with
      | .error f => .error (ofAccess a f)
      | .ok l => .ok (h ++ l)

/-! ## Delay lines (R214, R215, R250 to R255) -/

def desc (e : Engine) (k : Nat) : Desc := tget {} e.ctx.descs k

/-- ENG_BANKS.BANK0 to BANK3. -/
def bankNo (e : Engine) (i : Nat) : Byte :=
  match i with
  | 0 => e.bank0
  | 1 => e.bank1
  | 2 => e.bank2
  | _ => e.bank3

/-- The bank of a descriptor, or the ACCESS fault of R215 with ARG = k. -/
def lineBank (e : Engine) (k least : Nat) : Except Flt Nat :=
  let d := desc e k
  let b := bankNo e d.bank
  if d.len < least || decide (b = 0xFF) then .error { cause := 2, arg := k } else .ok b.toNat

/-- The words of slot `j` (R252), as offsets within the bank. -/
def slotWords (d : Desc) (j : Nat) : List Nat :=
  if d.packed3 then
    let p := d.base + 3 * (j / 2)
    if j % 2 = 0 then [p, p + 1] else [p + 1, p + 2]
  else [d.base + 2 * j, d.base + 2 * j + 1]

/-- The sample in slot `j`. -/
def slotRead (m : Tbl Word) (d : Desc) (j : Nat) : Long :=
  if d.packed3 then
    let p := d.base + 3 * (j / 2)
    if j % 2 = 0 then tget 0 m p ++ (tget 0 m (p + 1) &&& 0xFF00)
    else ((tget 0 m (p + 1)).extractLsb' 0 8 ++ tget 0 m (p + 2)) ++ 0x00#8
  else tget 0 m (d.base + 2 * j) ++ tget 0 m (d.base + 2 * j + 1)

/-- Write bits [31:8] of a sample into slot `j`. -/
def slotWrite (m : Tbl Word) (d : Desc) (j : Nat) (v : Long) : Tbl Word :=
  if d.packed3 then
    let p := d.base + 3 * (j / 2)
    let mid := tget 0 m (p + 1)
    if j % 2 = 0 then
      tset 0 (tset 0 m p (v.extractLsb' 16 16)) (p + 1) (v.extractLsb' 8 8 ++ mid.extractLsb' 0 8)
    else
      tset 0 (tset 0 m (p + 1) (mid.extractLsb' 8 8 ++ v.extractLsb' 24 8)) (p + 2) (v.extractLsb' 8 16)
  else
    tset 0 (tset 0 m (d.base + 2 * j) (v.extractLsb' 16 16)) (d.base + 2 * j + 1) (v.extractLsb' 8 8 ++ 0x00#8)

/-- The slot of x[j] (R253). -/
def slotOf (d : Desc) (j : Nat) : Nat := (d.head + d.len - j % d.len) % d.len

/-- DLS word addresses of a slot of bank `b`. -/
def slotAddrs (b : Nat) (d : Desc) (j : Nat) : List Nat := (slotWords d j).map (fun w => b * 0x80000 + w)

/-- A 64-bit row that is uncorrectable. -/
def rowBad (s : State) (w : Nat) : Bool := decide (eccMark s (dlsLoc w) = 2)

/-- Which taps a delay-line read takes: DRD, DRL or DRF. -/
inductive TapKind where
  | drd | drl | drf
  deriving DecidableEq, Repr

/-- The least length a tap kind needs (R215). -/
def tapLeast : TapKind → Nat
  | .drd => 1
  | .drl => 2
  | .drf => 4

/-- Delay i and fraction f (in 1/65,536) after the limits of R214. -/
def tapDelay (k : TapKind) (len : Nat) (v : Long) : Nat × Nat :=
  match k with
  | .drd => (min (v.toNat % 2 ^ 24) (len - 1), 0)
  | .drl => if v.toNat > (len - 2) * 65536 then (len - 2, 0) else (v.toNat / 65536, v.toNat % 65536)
  | .drf =>
    if v.toNat > (len - 3) * 65536 then (len - 3, 0)
    else if v.toNat < 65536 then (1, 0)
    else (v.toNat / 65536, v.toNat % 65536)

/-- The delays whose samples a tap reads. -/
def tapTaps (k : TapKind) (i : Nat) : List Nat :=
  match k with
  | .drd => [i]
  | .drl => [i, i + 1]
  | .drf => [i - 1, i, i + 1, i + 2]

/-- The value of a tap (R255), rounded once, ties to even; DRF saturates. -/
def tapValue (k : TapKind) (f : Nat) (x : List Long) : Long :=
  let v (j : Nat) : Int := (x.getD j 0).toInt
  let f : Int := f
  match k with
  | .drd => x.getD 0 0
  | .drl => sat32 (roundEven ((65536 - f) * v 0 + f * v 1) 65536)
  | .drf =>
    let u : Int := 65536
    let w0 := -(f * f * f) + 2 * f * f * u - f * u * u
    let w1 := 3 * f * f * f - 5 * f * f * u + 2 * u * u * u
    let w2 := -(3 * f * f * f) + 4 * f * f * u + f * u * u
    let w3 := f * f * f - f * f * u
    sat32 (roundEven (w0 * v 0 + w1 * v 1 + w2 * v 2 + w3 * v 3) (2 * 65536 ^ 3))

end Sys2Proof.Machine
end

