-- ==== Sys2Proof/Machine/Engine.lean ====
section
/-! DEFINITION. How an engine word issues: stores, landing results, precise faults, repeats, loops, delay slots and
transfers (R146 to R172, R190, R195 to R199, R548). -/
namespace Sys2Proof.Machine

/-! ## Routes of an engine (R29, R548) -/

/-- Fields of an endpoint long (R423): kind, unit, first index. -/
def epKind (v : Long) : Nat := v.toNat / 2 ^ 24
def epUnit (v : Long) : Nat := v.toNat / 2 ^ 16 % 256
def epFirst (v : Long) : Nat := v.toNat % 65536

/-- A route that carries samples now: ACTIVE, or REMOVING until its target. -/
def routeLive (r : Route) : Bool := decide (r.state = .active) || decide (r.state = .removing)

/-- A route carried by mirrored writes: engine to engine, both of class m ≥ 1 (R30). -/
def mirrored (s : State) (r : Route) : Bool :=
  decide (epKind r.source = 1) && decide (epKind r.dest = 1) && decide (engClass s (epUnit r.source) ≤ 3) &&
    decide (engClass s (epUnit r.dest) ≤ 3)

/-- Write a long of an engine's idle input buffer. -/
def putIn (s : State) (d idx : Nat) (v : Long) : State :=
  modEng s d (fun e => { e with inAlt := tset 0 (tset 0 e.inAlt (2 * idx) (v.extractLsb' 16 16)) (2 * idx + 1) (v.extractLsb' 0 16) })

/-- A long of an exchange buffer. -/
def bufLong (t : Tbl Word) (idx : Nat) : Long := tget 0 t (2 * idx) ++ tget 0 t (2 * idx + 1)

/-- Copy a value to the idle input buffer of every engine that a live mirrored route of output long `idx` feeds (R548). -/
def mirrorOut (s : State) (n idx : Nat) (v : Long) : State :=
  s.routes.foldl (fun s kv =>
    let r := kv.2
    if routeLive r && mirrored s r && decide (epUnit r.source = n) && decide (epFirst r.source ≤ idx) &&
        decide (idx < epFirst r.source + r.channels) then
      putIn s (epUnit r.dest) (epFirst r.dest + (idx - epFirst r.source)) v
    else s) s

/-! ## Fade gains (R298) -/

/-- ⌊π · 2¹¹²⌋. -/
def piFix : Int := 16312081666030376401667486162748272

/-- Σ of the sine series from a term on, in units of 2⁻¹¹². -/
def sinSeries (x2 : Int) : Nat → Nat → Int → Int
  | 0, _, _ => 0
  | f + 1, k, term => term - sinSeries x2 f (k + 2) ((term * x2).fdiv (2 ^ 112) / ((k + 1) * (k + 2)))

/-- g_new of frame `i` of a fade of `n` frames, in units of 2⁻³². -/
def gainNew (curve i n : Nat) : Int :=
  if curve = 0 then roundEven ((i + 1) * 2 ^ 32) (n + 1)
  else
    let x := (piFix * (i + 1)) / (2 * (n + 1))
    roundEven (sinSeries ((x * x).fdiv (2 ^ 112)) 24 1 x) (2 ^ 80)

/-- g_old × o + g_new × n, rounded once and saturated. -/
def crossfade (g : Int) (o n : Long) : Long := sat32 (roundEven ((2 ^ 32 - g) * o.toInt + g * n.toInt) (2 ^ 32))

/-- The fade frame index of the running frame. -/
def fadeIndex (s : State) (n : Nat) (f : Fade) : Nat := mtDiff f.start (eng s n).mtFrame / frameUnits (engClass s n)

/-- The value mirrored for output long `idx` when the issuing run has stored it (R299, R548). -/
def mirrorValue (s : State) (n idx : Nat) : Long :=
  let e := eng s n
  let own := bufLong e.ctx.outCur idx
  match e.fade with
  | none => own
  | some f =>
    let g := gainNew f.curve (fadeIndex s n f) f.frames
    if e.newRun then crossfade g (bufLong e.alt.outCur idx) own
    else crossfade g own (bufLong e.alt.outAlt idx)

/-! ## Stores (R140, R141, R147) -/

/-- An ECC mark cleared by a write of the whole unit (R261). -/
def clearMark (s : State) (loc : Nat) : State := { s with mem := { s.mem with ecc := tset 0 s.mem.ecc loc 0 } }

/-- Location of word `i` of a copy of a page (R262). -/
def pageLoc (e p : Nat) (copy1 : Bool) (i : Nat) : Nat := locOf 3 e (bitOf copy1 * 0x2000 + 64 * p + i)

/-- A write of a copy's words clears their ECC marks. -/
def clearPage (s : State) (e p : Nat) (copy1 : Bool) (i n : Nat) : State :=
  (List.range n).foldl (fun s k => clearMark s (pageLoc e p copy1 (i + k))) s

/-- A write to words of a delay-line bank clears the marks of the 64-bit rows that it covers whole (R261). -/
def clearRows (s : State) (b : Nat) (words : List Nat) : State :=
  (words.filter (fun w => decide (w % 4 = 0) && [1, 2, 3].all (fun k => words.contains (w + k)))).foldl (fun s w =>
    clearMark s (dlsLoc (b * 0x80000 + w))) s

/-- Record a port-A access of a crossing block (R257). -/
def portAcc (s : State) (b word : Nat) (before : Word) (wrote : Option Word) (atomic : Bool) : State :=
  let c := cross s b
  setCross s b { c with portA := c.portA ++ [⟨word, before, wrote, atomic⟩] }

/-- Store one data-space word that `writeOk` admits. -/
def storeWord (s : State) (n : Nat) (addr v : Word) : State :=
  let a := addr.toNat
  if a < 0x8000 then
    modEng (clearMark s (locOf 2 n a)) n (fun e => { e with localRam := tset 0 e.localRam a v })
  else if a < 0xB000 then
    modEng s n (fun e => { e with ctx := { e.ctx with outCur := tset 0 e.ctx.outCur (a - 0xA800) v } })
  else if a < 0xB400 then
    let w := a - 0xB000
    let s := portAcc (clearMark s (locOf 4 n w)) n w (tget 0 (cross s n).mem w) (some v) false
    setCross s n { cross s n with mem := tset 0 (cross s n).mem w v }
  else if a = 0xF000 then
    modEng s n (fun e => { e with
      ovf := e.ovf && !v.getLsbD 0
      hsrPend := e.hsrPend && !v.getLsbD 2
      hsrWait := e.hsrWait && !v.getLsbD 2 })
  else modEng s n (fun e => { e with ctx := { e.ctx with emode := v &&& 0x1F } })

/-- Store words, then mirror each exchange-output long written (R548). -/
def storeAll (s : State) (n : Nat) (ws : List (Word × Word)) : State :=
  let s := ws.foldl (fun s p => storeWord s n p.1 p.2) s
  ws.foldl (fun s p =>
    let a := p.1.toNat
    if 0xA800 ≤ a && a < 0xB000 then
      let idx := (a - 0xA800) / 2
      mirrorOut s n idx (mirrorValue s n idx)
    else s) s

/-! ## ECC (R261, R262) -/

/-- An ECC detection at a location: MEM_ECC counts it by kind, LAST_LOC keeps the latest uncorrectable one. -/
def eccDetect (s : State) (bad : Bool) (loc : Nat) (inj : Bool := false) : State :=
  let kind := loc / 2 ^ 29
  let k := kind - 1
  let m := s.mem
  let s :=
    if bad then
      let (t, o) := bump m.uncorr m.eccOvf k (5 + k)
      { s with mem := { m with uncorr := t, eccOvf := o, lastLoc := BitVec.ofNat 32 loc } }
    else
      let (t, o) := bump m.corr m.eccOvf k k
      { s with mem := { m with corr := t, eccOvf := o } }
  detectAs s (if bad then 0x3002 else 0x3001) kind (BitVec.ofNat 32 loc) inj

/-- Reading a location: a marked one is detected. -/
def eccRead (s : State) (loc : Nat) : State :=
  match eccMark s loc with
  | 0 => s
  | 1 => eccDetect s false loc
  | _ => eccDetect s true loc

/-! ## Landing (R146, R149, R217, R232) -/

/-- Sticky sets land after every other write of their cycle. -/
def sticky : Act → Bool
  | .setSat | .setPcf | .setAov _ => true
  | _ => false

/-- Change the running context of an engine. -/
def modCtx (s : State) (n : Nat) (f : Ctx → Ctx) : State := modEng s n (fun e => { e with ctx := f e.ctx })

/-- An atomic's result on a long: the new value (R216). -/
def atomNew (swap : Bool) (old operand : Long) : Long := if swap then operand else old + operand

/-- The old long of an atomic lands in a tap at latency 8: three cycles after its read and write. -/
def tapFlight (f : Flight) (reg : Nat) (old : Long) (c : Ctx) : Ctx :=
  { c with inflight := c.inflight ++ [⟨f.due + 3, f.iss, none, .tap reg old⟩] }

/-- One landing write takes effect. -/
def applyAct (s : State) (n : Nat) (f : Flight) : State :=
  match f.act with
  | .word code v => modCtx s n (fun c => wW c code v)
  | .stWrite v => modCtx s n (fun c => wW c codeST (stWritten (st c) v))
  | .acc k v => modCtx s n (fun c => { c with acs := tset 0 c.acs k v })
  | .prod k v => modCtx s n (fun c => { c with prods := tset 0 c.prods k v })
  | .tap k v => modCtx s n (fun c => { c with taps := tset 0 c.taps k v })
  | .guard k v => modCtx s n (fun c => wG c k v)
  | .flagC v => modCtx s n (fun c => wW c codeST (stSet (st c) 6 v))
  | .flagD dc hc => modCtx s n (fun c => wW c codeST (stDigits (st c) dc hc))
  | .setSat => modCtx s n (fun c => wW c codeST (stSet (st c) 4 true))
  | .setPcf => modCtx s n (fun c => wW c codeST (stSet (st c) 5 true))
  | .setAov k =>
    let s := modCtx s n (fun c => wW c codeST (stSet (st c) k true))
    if (eng s n).ovf then s
    else detect (modEng s n (fun e => { e with ovf := true })) 0x2012 n ((st (eng s n).ctx).setWidth 32)
  | .atomCross swap a op reg =>
    let m := (cross s n).mem
    let old : Long := tget 0 m a ++ tget 0 m (a + 1)
    let new := atomNew swap old op
    let hi := new.extractLsb' 16 16
    let lo := new.extractLsb' 0 16
    let s := [a, a + 1].foldl (fun s w => clearMark (eccRead s (locOf 4 n w)) (locOf 4 n w)) s
    let s := portAcc (portAcc s n a (tget 0 m a) (some hi) true) n (a + 1) (tget 0 m (a + 1)) (some lo) true
    let s := setCross s n { cross s n with mem := tset 0 (tset 0 m a hi) (a + 1) lo }
    modCtx s n (tapFlight f reg old)
  | .atomDls swap b a op reg =>
    let bk := bank s b
    let old : Long := tget 0 bk.mem a ++ tget 0 bk.mem (a + 1)
    let new := atomNew swap old op
    let s := setBank s b { bk with mem := tset 0 (tset 0 bk.mem a (new.extractLsb' 16 16)) (a + 1) (new.extractLsb' 0 16) }
    modCtx s n (tapFlight f reg old)

/-- Landing order: by cycle, sticky sets last. -/
def flightKey (f : Flight) : Nat := 2 * f.due + bitOf (sticky f.act)

/-- `f` lands before `g`: of two of one cycle the one of the earlier-issued word, so that the later-issued word's prevails (R149). -/
def landsFirst (f g : Flight) : Bool :=
  decide (flightKey f < flightKey g) || (decide (flightKey f = flightKey g) && decide (f.iss < g.iss))

/-- The next flight to land no later than cycle `c`. -/
def nextFlight (c : Nat) (l : List Flight) : Option Flight :=
  l.foldl (fun m f =>
    if c < f.due then m
    else match m with
      | none => some f
      | some g => if landsFirst f g then some f else some g) none

/-- Remove the first occurrence. -/
def dropFlight (f : Flight) : List Flight → List Flight
  | [] => []
  | g :: l => if g = f then l else g :: dropFlight f l

/-- Land every result due in cycle `c` or earlier. -/
def landFuel : Nat → State → Nat → Nat → State
  | 0, s, _, _ => s
  | k + 1, s, n, c =>
    match nextFlight c (eng s n).ctx.inflight with
    | none => s
    | some f => landFuel k (applyAct (modCtx s n (fun x => { x with inflight := dropFlight f x.inflight })) n f) n c

/-- Land every result due in cycle `c` or earlier; an atomic adds one landing, so twice the list suffices. -/
def landUpTo (s : State) (n c : Nat) : State := landFuel (2 * (eng s n).ctx.inflight.length) s n c

/-- Land everything in flight. -/
def landAll (s : State) (n : Nat) : State :=
  landUpTo s n ((eng s n).ctx.inflight.foldl (fun m f => max m (f.due + 3)) 0)

/-- Results still in flight are discarded (R54, R55). -/
def discard (s : State) (n : Nat) : State := modCtx s n (fun c => { c with inflight := [] })

/-! ## Register moves of CALLM and RETM (R162) -/

/-- Words moved by a CALLM or RETM mask (R162). -/
def movedRegs (mask : Word) : List Nat :=
  (List.range 8).flatMap (fun k => if mask.getLsbD k then [2 * k + 1, 2 * k] else []) ++
  (List.range 7).flatMap (fun k => if mask.getLsbD (8 + k) then [codeA k] else []) ++
  (if mask.getLsbD 15 then [codeLK] else [])

/-- Words whose reading detects a correctable error, once for each SECDED unit of an access (R262), and the latch of R145. -/
def noteLoads (s : State) (n : Nat) (f : Eff) : State :=
  let s := f.loads.foldl (fun s a =>
    let s := (eccLocs s n a).foldl eccRead s
    let v := a.toNat
    if 0xB000 ≤ v && v < 0xB400 then portAcc s n (v - 0xB000) (tget 0 (cross s n).mem (v - 0xB000)) none false
    else if v = 0xF00D then modEng s n (fun e => { e with ctrLatch := e.frameCtr.extractLsb' 16 16 })
    else s) s
  ((f.dls.map dlsLoc).eraseDups).foldl eccRead s

/-- The saves of a CALLM, highest address first, one per cycle from `t` (pre-decrement). -/
def saveRegs (s : State) (n : Nat) : List (Nat × Word) → Nat → State
  | [], _ => s
  | (code, a) :: l, t =>
    let s := landUpTo s n (t - 1)
    saveRegs (storeAll s n [(a, rW (eng s n).ctx code)]) n l (t + 1)

/-- The restores of a RETM issued in cycle `iss`, lowest address first, one per cycle from `t` (post-increment). Each is a write
that the RETM issued: among the results of its cycle it lands as such (R149, R162). -/
def restoreRegs (s : State) (n iss : Nat) : List (Nat × Word) → Nat → State
  | [], _ => s
  | (code, a) :: l, t =>
    let s := noteLoads (landUpTo s n (t - 1)) n { loads := [a] }
    let v := (peekWord s n a).getD 0
    let s := modCtx s n (fun c => { c with inflight := c.inflight ++ [⟨t, iss, none, .word code v⟩] })
    restoreRegs (landUpTo s n t) n iss l (t + 1)

/-- Addresses of the save area with their registers, ascending from the lowest word (R162). -/
def saveArea (mask : Word) (low : Word) : List (Nat × Word) :=
  (movedRegs mask).zipIdx.map (fun p => (p.1, low + BitVec.ofNat 16 p.2))

/-- The moves, one per cycle after cycle `t`, that fall before cycle U: a frame's deadline cuts the rest off (R168). -/
def beforeU (s : State) (n t : Nat) (l : List (Nat × Word)) : List (Nat × Word) :=
  if freeRun (eng s n) then l else l.take (usable (engClass s n) - 1 - t)

/-- The register moves of a CALLM or RETM whose delay slot issued in cycle `t` (R162, R168). -/
def moveRegs (s : State) (n t : Nat) : Option Xfer → State
  | some (.call _ _ mask low) => saveRegs s n (beforeU s n t (saveArea mask low).reverse) (t + 1)
  | some (.ret _ mask low _) => restoreRegs s n (t - 1) (beforeU s n t (saveArea mask low)) (t + 1)
  | _ => s

/-! ## Faults (R169 to R172, R300) -/

/-- A run's pipeline, loops and transfers at the start of a run. -/
def freshRun (c : Ctx) (entry : Nat) : Ctx :=
  { c with pc := entry, cycle := 0, loops := [], defer := [], rpt := none, xfer := none, imm := none, inflight := [] }

/-- Within a fade frame the old run has ended: the new program's ENTRY issues in cycle C_old (R296). -/
def switchRun (s : State) (n : Nat) : State :=
  let s := landUpTo s n ((eng s n).standby.cost - 1)
  modEng s n (fun e => { e with
    ctx := { freshRun e.alt e.active.entry with cycle := e.standby.cost }
    alt := { e.ctx with inflight := [] }
    newRun := true
    stage := match e.fade with
      | some fd => if fd.newFaulted then .ended else .program
      | none => .program })

/-- FREE and PACED Sapling: the engine stops in HALTED with results landed. -/
def haltAt (s : State) (n pc : Nat) (dbg : Bool := false) : State :=
  modEng (landAll s n) n (fun e => { e with state := .halted, haltByDebug := dbg, running := false, stage := .ended, stepReq := false, atEnd := false, haltPc := BitVec.ofNat 16 pc })

/-- A debug step of a PACED Sapling run whose frame is over: it halts, and its next word to issue is the one at ENTRY in its next frame
(R164, R166). -/
def stepOver (s : State) (n : Nat) : State :=
  let e := eng s n
  if e.stepReq && saplMode e && !e.inh then modEng (haltAt s n e.active.entry true) n (fun e => { e with atEnd := true, ctx := { e.ctx with pc := e.active.entry } })
  else s

/-- A precise fault of the word at the program counter; an earlier CALLM or RETM whose delay slot it is still moves its
registers (R169). DESIGN CHOICE (notes/assumptions/129): in PACED Sapling mode EFAULT.RUN stays. -/
def engFault (s : State) (n : Nat) (f : Flt) (inj : Bool := false) : State :=
  let s := moveRegs s n (eng s n).ctx.cycle (eng s n).ctx.xfer
  let e := eng s n
  let pc := e.ctx.pc
  let (fc, fo) := satInc e.faultCount
  let s := modEng s n (fun e => { e with
    faultCause := f.cause, faultArg := f.arg, faultAddr := f.addr, faultPc := BitVec.ofNat 16 pc
    faultCount := fc, faultOvf := e.faultOvf || fo
    lastCause := f.cause, lastPc := BitVec.ofNat 16 pc, lastFrame := e.frameCtr })
  let low : Word := if f.addr = 0 then BitVec.ofNat 16 f.arg else f.addr
  match e.fade with
  | some fd =>
    if e.newRun then
      detectAs (modEng s n (fun e => { e with stage := .ended, fade := some { fd with newFaulted := true } })) 0x2014 n
        (BitVec.ofNat 32 f.cause) inj
    else
      let s := detectAs s (0x2000 + f.cause) n (BitVec.ofNat 16 pc ++ low) inj
      switchRun (modEng s n (fun e => { e with faulted := true, faultRun := min 4 (e.faultRun + 1), fade := some { fd with oldFaulted := true } })) n
  | none =>
    let s := detectAs s (0x2000 + f.cause) n (BitVec.ofNat 16 pc ++ low) inj
    if freeRun e then haltAt s n pc
    else stepOver (modEng s n (fun e => { e with
      faulted := true, stage := .ended
      faultRun := if saplMode e then e.faultRun else min 4 (e.faultRun + 1) })) n

/-! ## Sequencing (R156 to R166) -/

/-- R158, R159: after word `a`, the innermost body that ends there is tested, then the next outer one. -/
def loopCheck (c : Ctx) (a : Nat) : List LoopFrame → Ctx
  | [] => { c with loops := [] }
  | l :: rest =>
    if l.last = a then
      let v := rW c (codeLC + l.depth)
      if v.toNat ≤ 1 then loopCheck c a rest
      else { wW c (codeLC + l.depth) (v - 1) with loops := l :: rest, pc := l.first }
    else { c with loops := l :: rest }

/-- The program counter moves past word `a`; body ends are tested. -/
def pastWord (c : Ctx) (a : Nat) : Ctx := loopCheck { c with pc := (a + 1) % 0x4000 } a c.loops

/-- The program counter arrives at `t` by a call, return or branch; a return makes the check its call's slot left open. -/
def arrive (c : Ctx) (t : Nat) : Ctx :=
  let c := { c with pc := t }
  match c.defer with
  | d :: ds => if d.1 = t && d.2 = c.loops.length then loopCheck { c with defer := ds } (t - 1) c.loops else c
  | [] => c

/-- What follows a delay slot that has issued in cycle `t` at word `a` (R162, R165, R166, R198). -/
def transfer (s : State) (n a t : Nat) (x : Xfer) : State :=
  let s := moveRegs (modCtx s n (fun c => { c with xfer := none })) n t (some x)
  match x with
  | .call target ret mask _ =>
    let w := (movedRegs mask).length
    modCtx s n (fun c =>
      let c := if (c.loops.head?.map (·.last)) = some a then { c with defer := (ret, c.loops.length) :: c.defer } else c
      { arrive c target with cycle := t + w + 2 })
  | .ret target mask _ inh =>
    let w := (movedRegs mask).length
    let s := modCtx s n (fun c => { arrive (pastWord c a) target with cycle := t + w + 2 })
    if inh then modEng s n (fun e => { e with inh := false }) else s
  | .branch target =>
    modCtx s n (fun c =>
      let c := pastWord c a
      let out := match c.loops with
        | [] => false
        | l :: _ => target < l.first || l.last < target
      let c := if out then { c with loops := [], defer := [] } else c
      { arrive c target with cycle := t + 2 })
  | .fallThrough w => modCtx s n (fun c => { pastWord c a with cycle := t + w + 2 })

/-- No delay slot, prefix, repeat or loop is open (R166). -/
def interruptible (c : Ctx) : Bool := c.xfer.isNone && c.imm.isNone && c.rpt.isNone && c.loops.isEmpty

/-- A debug step of a Sapling engine halts once its word or held-off sequence is done; no interrupt is taken while INH = 1 (R166). -/
def afterStep (s : State) (n : Nat) : State :=
  let e := eng s n
  if e.stepReq && saplMode e && !e.inh && interruptible e.ctx && decide (e.stage = .program) then haltAt s n e.ctx.pc true else s

/-- A word that neither transfers nor repeats has issued: repeats, body ends, a pending transfer, the next cycle. -/
def advance (s : State) (n : Nat) : State :=
  let c := (eng s n).ctx
  let a := c.pc
  let t := c.cycle
  let s := match c.rpt with
    | some k =>
      if k > 1 then modCtx s n (fun c => { c with rpt := some (k - 1), cycle := t + 1 })
      else modCtx s n (fun c => { pastWord { c with rpt := none } a with cycle := t + 1 })
    | none =>
      match c.xfer with
      | some x => transfer s n a t x
      | none => modCtx s n (fun c => { pastWord c a with cycle := t + 1 })
  afterStep s n

/-- Words of a pass that the engine may issue: a frame or Sapling run is in its program stage, ECLK runs, and the
deadline cycle U − 1 has not passed (R54, R164, R168). -/
def canIssue (s : State) (n : Nat) : Bool :=
  let e := eng s n
  s.clocks.gateOpen && decide (e.stage = .program) && (freeRun e || decide (e.ctx.cycle < usable (engClass s n)))

/-- The location of the word at the program counter: the old run of a fade runs from the other bank (R262, R296). -/
def progLoc (e : Engine) (n : Nat) : Nat :=
  locOf 1 n ((if e.actBank != (e.fade.isSome && !e.newRun) then 0x4000 else 0) + e.ctx.pc)

/-- A word issues: earlier results land; the guard, the encoding and the faults are judged; then `run` acts. A word whose
guard is false takes its cycles by `idle` and does nothing else (R151, R169, R220, R221). -/
def issueWith (s : State) (w : Issue) (i : Instr) (idle : State → Nat → State)
    (run : State → Nat → Option (BitVec 21) → Except Flt State) : State :=
  let n := w.eng.val
  if !canIssue s n then s
  else
    let s := landUpTo s n ((eng s n).ctx.cycle - 1)
    let s := setCross s n { cross s n with portA := [] }
    let e := eng s n
    let loc := progLoc e n
    let s := eccRead s loc
    let ext := e.ctx.imm
    let s := modEng s n (fun e => { e with ctx := { e.ctx with imm := none }, breakHit := e.breakHit || decide (e.breakAddr = some e.ctx.pc) })
    if eccMark s loc = 2 then engFault s n { cause := 3 }
    else if !guardHolds e.ctx w then idle (landUpTo s n e.ctx.cycle) n
    else if !wordDefined i ext then engFault s n { cause := 1 }
    else match run s n ext with
      | .error f =>
        let s := if f.cause = 4 then eccDetect s true f.loc else s
        engFault s n f
      | .ok s => s

/-- The delay-line write of an issue cycle (R214, R252). -/
def delayWrite (s : State) (n k : Nat) (v : Long) : State :=
  let e := eng s n
  let d := desc e k
  let b := (bankNo e d.bank).toNat
  setBank s b { bank s b with mem := slotWrite (bank s b).mem d d.head v }

/-- A word's effect: its reads, its stores in the issue cycle, its results in flight, and what lands in this cycle. DESIGN CHOICE
(notes/assumptions/133): a store of the cycle in which an earlier atomic acts on the same word comes first, and the atomic reads it. -/
def commit (s : State) (n : Nat) (f : Eff) : State :=
  let s := noteLoads s n f
  let s := storeAll s n f.stores
  let s := match f.dwr with
    | some (k, v) => delayWrite s n k v
    | none => s
  let t := (eng s n).ctx.cycle
  let s := modCtx s n (fun c => { c with inflight := c.inflight ++ f.acts.map (fun a => ⟨t + a.1 - 1, t, a.2.1, a.2.2⟩) })
  landUpTo s n t

/-- An ordinary word: the effect is computed from what is visible and committed, and the engine moves on. -/
def issueWord (s : State) (w : Issue) (i : Instr) (f : State → Nat → Option (BitVec 21) → Except Flt Eff) : State :=
  issueWith s w i advance (fun s n ext =>
    match f s n ext with
    | .error e => .error e
    | .ok eff => .ok (advance (commit s n eff) n))

/-- A word that only writes registers. -/
def regWord (s : State) (w : Issue) (i : Instr) (f : Ctx → Option (BitVec 21) → List (Nat × Option Nat × Act)) : State :=
  issueWord s w i (fun s n ext => .ok { acts := f (eng s n).ctx ext })

end Sys2Proof.Machine
end

