-- ==== Sys2Proof/Machine/Alu.lean ====
section
/-! DEFINITION. Arithmetic, logic, shifts, compares and guard logic (R203 to R205). -/
namespace Sys2Proof.Machine

/-- A result with the flag writes that land beside it. -/
abbrev AluFn := (n : Nat) → BitVec n → BitVec n → Bool → BitVec n × List Act

/-- The landing writes of a two-source ALU word; `sgn` says how an immediate is extended (R191, R203). -/
def aluActs (c : Ctx) (ext : Option (BitVec 21)) (sgn : Bool) (f : AluFn) (a : AluArgs) : List (Nat × Option Nat × Act) :=
  let cy := stC (st c)
  match a with
  | .wordReg d a b =>
    let (v, fs) := f 16 (rW c a.val) (rW c b.val) cy
    wordAct 1 d.val v :: fs.map (landing 1)
  | .wordImm d a field =>
    let (v, fs) := f 16 (rW c a.val) (immOf 8 16 sgn ext field.toNat) cy
    wordAct 1 d.val v :: fs.map (landing 1)
  | .longReg d a b =>
    let (v, fs) := f 32 (rL c a.val) (rL c b.val) cy
    longActs 1 d.val v ++ fs.map (landing 1)
  | .longImm d a field =>
    let (v, fs) := f 32 (rL c a.val) (immOf 10 32 sgn ext field.toNat) cy
    longActs 1 d.val v ++ fs.map (landing 1)

/-- A shift or rotate: the amount is an immediate, or bits [5:0] of the register (R204). -/
def shiftActs (c : Ctx) (f : (n : Nat) → BitVec n → Nat → BitVec n) (a : AluArgs) : List (Nat × Option Nat × Act) :=
  match a with
  | .wordReg d a b => [wordAct 1 d.val (f 16 (rW c a.val) ((rW c b.val).toNat % 64))]
  | .wordImm d a field => [wordAct 1 d.val (f 16 (rW c a.val) field.toNat)]
  | .longReg d a b => longActs 1 d.val (f 32 (rL c a.val) ((rL c b.val).toNat % 64))
  | .longImm d a field => longActs 1 d.val (f 32 (rL c a.val) field.toNat)

/-- A one-source word. -/
def unActs (c : Ctx) (f : (n : Nat) → BitVec n → BitVec n × Bool) (a : UnArgs) : List (Nat × Option Nat × Act) :=
  match a with
  | .word d a =>
    let (v, sat) := f 16 (rW c a.val)
    wordAct 1 d.val v :: (if sat then [landing 1 .setSat] else [])
  | .long d a =>
    let (v, sat) := f 32 (rL c a.val)
    longActs 1 d.val v ++ (if sat then [landing 1 .setSat] else [])

def fnAdd : AluFn := fun _ a b _ => let (v, c) := addC a b false; (v, [.flagC c])
def fnAddc : AluFn := fun _ a b c => let (v, c) := addC a b c; (v, [.flagC c])
def fnSub : AluFn := fun _ a b _ => let (v, c) := subC a b false; (v, [.flagC c])
def fnSubc : AluFn := fun _ a b c => let (v, c) := subC a b c; (v, [.flagC c])

def execAdd (w : Issue) (a : AluArgs) (s : State) : Outc :=
  ok (regWord s w (.add w a) (fun c e => aluActs c e true fnAdd a))
def execAddc (w : Issue) (a : AluArgs) (s : State) : Outc :=
  ok (regWord s w (.addc w a) (fun c e => aluActs c e true fnAddc a))
def execSub (w : Issue) (a : AluArgs) (s : State) : Outc :=
  ok (regWord s w (.sub w a) (fun c e => aluActs c e true fnSub a))
def execSubc (w : Issue) (a : AluArgs) (s : State) : Outc :=
  ok (regWord s w (.subc w a) (fun c e => aluActs c e true fnSubc a))
def execNeg (w : Issue) (a : UnArgs) (s : State) : Outc :=
  ok (regWord s w (.neg w a) (fun c _ => unActs c (fun _ v => negSat v) a))
def execAbs (w : Issue) (a : UnArgs) (s : State) : Outc :=
  ok (regWord s w (.abs w a) (fun c _ => unActs c (fun _ v => absSat v) a))
def execNot (w : Issue) (a : UnArgs) (s : State) : Outc :=
  ok (regWord s w (.not w a) (fun c _ => unActs c (fun _ v => (~~~ v, false)) a))
def execMin (w : Issue) (a : AluArgs) (s : State) : Outc :=
  ok (regWord s w (.min w a) (fun c e => aluActs c e true (fun _ x y _ => (minS x y, [])) a))
def execMax (w : Issue) (a : AluArgs) (s : State) : Outc :=
  ok (regWord s w (.max w a) (fun c e => aluActs c e true (fun _ x y _ => (maxS x y, [])) a))
def execAnd (w : Issue) (a : AluArgs) (s : State) : Outc :=
  ok (regWord s w (.and w a) (fun c e => aluActs c e false (fun _ x y _ => (x &&& y, [])) a))
def execOr (w : Issue) (a : AluArgs) (s : State) : Outc :=
  ok (regWord s w (.or w a) (fun c e => aluActs c e false (fun _ x y _ => (x ||| y, [])) a))
def execXor (w : Issue) (a : AluArgs) (s : State) : Outc :=
  ok (regWord s w (.xor w a) (fun c e => aluActs c e false (fun _ x y _ => (x ^^^ y, [])) a))
def execShl (w : Issue) (a : AluArgs) (s : State) : Outc :=
  ok (regWord s w (.shl w a) (fun c _ => shiftActs c (fun _ v k => shlV v k) a))
def execShr (w : Issue) (a : AluArgs) (s : State) : Outc :=
  ok (regWord s w (.shr w a) (fun c _ => shiftActs c (fun _ v k => shrV v k) a))
def execAsr (w : Issue) (a : AluArgs) (s : State) : Outc :=
  ok (regWord s w (.asr w a) (fun c _ => shiftActs c (fun _ v k => asrV v k) a))
def execRol (w : Issue) (a : AluArgs) (s : State) : Outc :=
  ok (regWord s w (.rol w a) (fun c _ => shiftActs c (fun _ v k => rolV v k) a))

/-- The guard written by a compare (R205). -/
def cmpActs (c : Ctx) (ext : Option (BitVec 21)) (f : (n : Nat) → BitVec n → BitVec n → Bool) (a : CmpArgs) :
    List (Nat × Option Nat × Act) :=
  match a with
  | .wordReg g a b => [landing 1 (.guard g.val (f 16 (rW c a.val) (rW c b.val)))]
  | .wordImm g a field => [landing 1 (.guard g.val (f 16 (rW c a.val) (immOf 9 16 true ext field.toNat)))]
  | .longReg g a b => [landing 1 (.guard g.val (f 32 (rL c a.val) (rL c b.val)))]
  | .longImm g a field => [landing 1 (.guard g.val (f 32 (rL c a.val) (immOf 10 32 true ext field.toNat)))]

def execCmpeq (w : Issue) (a : CmpArgs) (s : State) : Outc :=
  ok (regWord s w (.cmpeq w a) (fun c e => cmpActs c e (fun _ x y => x == y) a))
def execCmpne (w : Issue) (a : CmpArgs) (s : State) : Outc :=
  ok (regWord s w (.cmpne w a) (fun c e => cmpActs c e (fun _ x y => x != y) a))
def execCmplt (w : Issue) (a : CmpArgs) (s : State) : Outc :=
  ok (regWord s w (.cmplt w a) (fun c e => cmpActs c e (fun _ x y => x.slt y) a))
def execCmple (w : Issue) (a : CmpArgs) (s : State) : Outc :=
  ok (regWord s w (.cmple w a) (fun c e => cmpActs c e (fun _ x y => x.sle y) a))
def execCmpltu (w : Issue) (a : CmpArgs) (s : State) : Outc :=
  ok (regWord s w (.cmpltu w a) (fun c e => cmpActs c e (fun _ x y => x.ult y) a))
def execCmpleu (w : Issue) (a : CmpArgs) (s : State) : Outc :=
  ok (regWord s w (.cmpleu w a) (fun c e => cmpActs c e (fun _ x y => x.ule y) a))

def execGset (w : Issue) (d : Fin 8) (s : State) : Outc :=
  ok (regWord s w (.gset w d) (fun _ _ => [landing 1 (.guard d.val true)]))
def execGclr (w : Issue) (d : Fin 8) (s : State) : Outc :=
  ok (regWord s w (.gclr w d) (fun _ _ => [landing 1 (.guard d.val false)]))
def execGand (w : Issue) (d a b : Fin 8) (s : State) : Outc :=
  ok (regWord s w (.gand w d a b) (fun c _ => [landing 1 (.guard d.val (guard c a.val && guard c b.val))]))
def execGor (w : Issue) (d a b : Fin 8) (s : State) : Outc :=
  ok (regWord s w (.gor w d a b) (fun c _ => [landing 1 (.guard d.val (guard c a.val || guard c b.val))]))
def execGxor (w : Issue) (d a b : Fin 8) (s : State) : Outc :=
  ok (regWord s w (.gxor w d a b) (fun c _ => [landing 1 (.guard d.val (guard c a.val != guard c b.val))]))
def execGnot (w : Issue) (d a : Fin 8) (s : State) : Outc :=
  ok (regWord s w (.gnot w d a) (fun c _ => [landing 1 (.guard d.val (!guard c a.val))]))

end Sys2Proof.Machine
end

