-- ==== Sys2Proof/Machine/Bits.lean ====
section
/-! DEFINITION. Bit operations and packed digits (R212, R213). -/
namespace Sys2Proof.Machine

/-- Ls [pos + wid − 1 : pos], zero- or sign-extended. -/
def bfxV (v : Long) (pos wid : Nat) (sign : Bool) : Long := BitVec.ofInt 32 (extInt wid (v.toNat / 2 ^ pos % 2 ^ wid) sign)

/-- Ld with [pos + wid − 1 : pos] := Ls [wid − 1 : 0]. -/
def bfiV (d v : Long) (pos wid : Nat) : Long :=
  let m : Long := BitVec.ofNat 32 ((2 ^ wid - 1) * 2 ^ pos)
  (d &&& ~~~ m) ||| ((v <<< pos) &&& m)

/-- Byte i of the result is byte sel [2i + 1 : 2i]. -/
def bpermV (v : Long) (sel : BitVec 8) : Long :=
  let b (i : Nat) : BitVec 8 := v.extractLsb' (8 * (sel.toNat / 4 ^ i % 4)) 8
  b 3 ++ b 2 ++ b 1 ++ b 0

def execBfx (w : Issue) (d src : Fin 8) (pos wid : Nat) (sign : Bool) (s : State) : Outc :=
  ok (regWord s w (.bfx w d src pos wid sign) (fun c _ => longActs 1 d.val (bfxV (rL c src.val) pos wid sign)))
def execBfi (w : Issue) (d src : Fin 8) (pos wid : Nat) (s : State) : Outc :=
  ok (regWord s w (.bfi w d src pos wid) (fun c _ => longActs 1 d.val (bfiV (rL c d.val) (rL c src.val) pos wid)))
def execClz (w : Issue) (d : Fin 16) (src : Fin 8) (s : State) : Outc :=
  ok (regWord s w (.clz w d src) (fun c _ => [wordAct 1 d.val (BitVec.ofNat 16 (clzN (rL c src.val) 32))]))
def execCls (w : Issue) (d : Fin 16) (src : Fin 8) (s : State) : Outc :=
  ok (regWord s w (.cls w d src) (fun c _ => [wordAct 1 d.val (BitVec.ofNat 16 (clsN (rL c src.val) 31 0))]))
def execBperm (w : Issue) (d src : Fin 8) (sel : BitVec 8) (s : State) : Outc :=
  ok (regWord s w (.bperm w d src sel) (fun c _ => longActs 1 d.val (bpermV (rL c src.val) sel)))

/-- Dd, DC and HC of a packed operation. -/
def packedActs (c : Ctx) (op : DigitOp) (d : Nat) (a b : Word) (ci : Bool) : List (Nat × Option Nat × Act) :=
  let (v, hc, dc) := packedV op a b (ci && stDC (st c))
  [wordAct 1 d v, landing 1 (.flagD dc hc)]

def execPadd (w : Issue) (d a b : Fin 16) (ci : Bool) (s : State) : Outc :=
  ok (regWord s w (.padd w d a b ci) (fun c _ => packedActs c .padd d.val (rW c a.val) (rW c b.val) ci))
def execPsub (w : Issue) (d a b : Fin 16) (ci : Bool) (s : State) : Outc :=
  ok (regWord s w (.psub w d a b ci) (fun c _ => packedActs c .psub d.val (rW c a.val) (rW c b.val) ci))
def execDadj (w : Issue) (d src : Fin 16) (ci : Bool) (s : State) : Outc :=
  ok (regWord s w (.dadj w d src ci) (fun c _ => packedActs c .dadj d.val (rW c src.val) 0 ci))

/-- The conditions of PCMP: EQ, LT, LE, VALID. -/
def packedCond (cc : Nat) (a b : Word) : Bool :=
  match cc with
  | 0 => a == b
  | 1 => a.ult b
  | 2 => a.ule b
  | _ => bcdValid a

def execPcmp (w : Issue) (g : Fin 8) (a b : Fin 16) (cc : Fin 4) (s : State) : Outc :=
  ok (regWord s w (.pcmp w g a b cc) (fun c _ => [landing 1 (.guard g.val (packedCond cc.val (rW c a.val) (rW c b.val)))]))

end Sys2Proof.Machine
end

