-- ==== Sys2Proof/Machine/Crc.lean ====
section
/-! DEFINITION. The two cyclic redundancy checks the spec writes out: CRC-32C (R371) and the AES3 CRCC (R319). -/
namespace Sys2Proof.Machine

/-- One bit of CRC-32C, most significant first. -/
def crcBit (c : Long) (b : Bool) : Long :=
  if c.msb != b then (c <<< 1) ^^^ 0x1EDC6F41#32 else c <<< 1

/-- The bits of an octet, most significant first. -/
def bitsMsb (v : Byte) : List Bool := (List.range 8).map (fun i => v.getLsbD (7 - i))

/-- CRC-32C of octets, each most significant bit first (R371): polynomial 0x1EDC6F41, initial value and final XOR all ones.
DEDUCED (notes/assumptions/12): "each msb first" is taken as the order of the bits. -/
def crc32c (l : List Byte) : Long := ~~~ (l.foldl (fun c v => (bitsMsb v).foldl crcBit c) 0xFFFFFFFF#32)

/-- One bit of the CRCC, in transmission order: the register is kept with its first-sent bit at bit 0. -/
def crccBit (c : Byte) (b : Bool) : Byte :=
  if c.getLsbD 0 != b then (c >>> 1) ^^^ 0xB8#8 else c >>> 1

/-- The CRCC over bytes 0 to 22 in transmission order, least significant bit first (R318, R319). -/
def crcc (l : List Byte) : Byte :=
  l.foldl (fun c v => (List.range 8).foldl (fun c i => crccBit c (v.getLsbD i)) c) 0xFF#8

/-- The octets of a 192-bit capture, octet 0 first. -/
def csBytes (v : BitVec 192) : List Byte := be 24 v.toNat

/-- 24 octets as a 192-bit value, octet 0 most significant. -/
def csOf (l : List Byte) : BitVec 192 := BitVec.ofNat 192 (beAt l 0 24)

end Sys2Proof.Machine
end

