-- ==== Sys2Proof/Machine/Chan.lean ====
section
/-! DEFINITION. The channels of a port: gains, marks, and the pending actions with their zero-crossing waits and ramps
(R335 to R340). -/
namespace Sys2Proof.Machine

/-- A port's rate in hertz (R311). -/
def portHz (s : State) (p : Nat) : Nat :=
  let c := portCfg s p
  if c.rate = 4 then c.nominalHz.toNat else rateHz s.clocks.rate * 2 ^ c.rate

/-- R of R338: the port rate times 1 ms, to the nearest sample. -/
def rampLen (s : State) (p : Nat) : Nat := (portHz s p + 500) / 1000

/-- The gain in use, Q2.14 (R337, R338). -/
def chanUse (c : Chan) : Word :=
  match c.ramp with
  | some r =>
    BitVec.ofInt 16 ((r.gOld.toNat : Int) + (((r.gNew.toNat : Int) - r.gOld.toNat) * r.k).tdiv (max 1 r.len))
  | none => if c.muted || c.stopped then 0 else c.gain

/-- A sample under the gain in use (R340), with the extra gain of a fade or ramp (R546). -/
def gained (c : Chan) (f : Nat × Nat) (x : Long) : Long := scale x ((chanUse c).toNat * f.1) (16384 * f.2)

/-- The gain and marks after an action, STOP's mark excepted: it comes when its change is complete (R337). -/
def actMarks (c : Chan) (a : ChanAct) : Chan :=
  match a.op with
  | 1 => { c with stopped := false }
  | 3 => { c with muted := true }
  | 4 => { c with muted := false }
  | 5 => { c with gain := a.gain }
  | _ => c

/-- The gain in use that an action leads to. -/
def actGain (c : Chan) (a : ChanAct) : Word :=
  let c := actMarks c a
  if a.op = 2 || c.muted || c.stopped then 0 else c.gain

/-- The channel's next pending action comes to the front: a forced one ramps, another starts its wait (R338, R339). -/
def chanNext (len : Nat) (t : MT) (ms : Nat) (c : Chan) : Chan :=
  match c.ramp, c.acts with
  | none, a :: l =>
    if a.forced then { actMarks c a with acts := l, ramp := some ⟨chanUse c, actGain c a, 0, len, decide (a.op = 2)⟩ }
    else { c with acts := { a with since := t, limitMs := ms } :: l }
  | _, _ => c

/-- An action reaches its target: earlier actions that have not begun to ramp ramp at once, and it waits (R337, R339). -/
def chanArrive (len : Nat) (t : MT) (ms : Nat) (c : Chan) (op : Nat) (gain : Word) : Chan :=
  let new : ChanAct := ⟨op, gain, false, t, ms⟩
  let c' := { c with acts := c.acts.map (fun a => { a with forced := true }) ++ [new] }
  chanNext len t ms c'

/-- The waiting action applies at once (R337). -/
def chanApply (len : Nat) (t : MT) (ms : Nat) (c : Chan) : Chan :=
  match c.ramp, c.acts with
  | none, a :: l =>
    let c' := actMarks c a
    chanNext len t ms { c' with acts := l, stopped := c'.stopped || decide (a.op = 2) }
  | _, _ => c

/-- The waiting action begins its timeout ramp (R338). -/
def chanTimeout (len : Nat) (t : MT) (ms : Nat) (c : Chan) : Chan :=
  match c.ramp, c.acts with
  | none, a :: l => chanNext len t ms { c with acts := { a with forced := true } :: l }
  | _, _ => c

/-- A ramp ends: STOP's mark, then the next pending action (R338, R339). -/
def chanRampEnd (len : Nat) (t : MT) (ms : Nat) (c : Chan) : Chan :=
  match c.ramp with
  | some r => chanNext len t ms { c with ramp := none, stopped := c.stopped || r.stop }
  | none => c

/-- A ramp has run its length. -/
def rampDone (c : Chan) : Bool :=
  match c.ramp with
  | some r => decide (r.len ≤ r.k)
  | none => false

/-- R337: the sample differs in sign from the previous one, or lies within ±2⁻¹⁶. -/
def zeroCross (prev x : Long) : Bool :=
  (prev.msb != x.msb) || (decide (-32768 ≤ x.toInt) && decide (x.toInt ≤ 32768))

/-- A running ramp one sample further (R338). -/
def rampStep (c : Chan) : Chan :=
  match c.ramp with
  | some r => { c with ramp := some { r with k := min r.len (r.k + 1) } }
  | none => c

/-- A channel waits for its zero crossing. -/
def waiting (c : Chan) : Bool :=
  c.ramp.isNone && (match c.acts with
    | a :: _ => !a.forced
    | [] => false)

/-- One sample of a channel, with its stamp or edge `t`: a finished ramp closes, a waiting action applies at its zero crossing, a ramp
steps on; the channel afterwards and the sample it delivers. `d` is the fade of a substitute, which R337 tests with it (R339); `f` is the
ramp beside the port's own gain, which it does not test. -/
def chanSample (len : Nat) (t : MT) (ms : Nat) (c : Chan) (d f : Nat × Nat) (raw : Long) : Chan × Long :=
  let x := scale raw d.1 d.2
  let c := if rampDone c then chanRampEnd len t ms c else c
  let c := rampStep (if waiting c && zeroCross c.last x then chanApply len t ms c else c)
  let y := gained c (d.1 * f.1, d.2 * f.2) raw
  ({ c with prev := c.last, last := x, lastAt := some t, sent := y }, y)

/-- A stamp at which the channel has no sample: a ramp alone goes on (R338, R339). -/
def chanIdle (len : Nat) (t : MT) (ms : Nat) (c : Chan) : Chan := rampStep (if rampDone c then chanRampEnd len t ms c else c)

/-- Actions of a FOREIGN port's channel that apply from the frame with edge `e` (R358). -/
def awaitsDue (len : Nat) (e : MT) (ms : Nat) (c : Chan) : Chan :=
  c.await.foldl (fun c x => if isDue e x.1 then chanArrive len e ms { c with await := c.await.erase x } x.2.1 x.2.2 else c) c

/-- A port's channel in one direction. -/
def chan (p : Port) (out : Bool) (ch : Nat) : Chan := tget {} (if out then p.chOut else p.chIn) ch
def setChan (p : Port) (out : Bool) (ch : Nat) (c : Chan) : Port :=
  if out then { p with chOut := tset {} p.chOut ch c } else { p with chIn := tset {} p.chIn ch c }

/-- Channels of a port in a direction: SLOTS of a SAP, 2 of an AES3 port. -/
def portChans (s : State) (p : Nat) : Nat := if p < 16 then (portCfg s p).slots else 2

end Sys2Proof.Machine
end

