-- ==== Sys2Proof/Machine/PortTime.lean ====
section
/-! DEFINITION. Ports and media time: clock directions, wire frames, frame edges, stamps and the delays that alignment fixes (R311 to
R315, R323 to R330, R333, R342). -/
namespace Sys2Proof.Machine

/-- The code of REF_SELECT entry `i`. -/
def refCode (s : State) (i : Nat) : Word := tget 0 s.cfg.clocks.entries i
def refType (s : State) (i : Nat) : Nat := (refCode s i).toNat / 256
def refUnit (s : State) (i : Nat) : Nat := (refCode s i).toNat % 256

/-- Class code of a port's rate (R311): RATE 0 to 3 are 1×, 2×, 4×, 8×. -/
def portClass (s : State) (p : Nat) : Nat := 3 - (portCfg s p).rate

/-- The port receives: enabled, with the inbound direction. -/
def hasIn (s : State) (p : Nat) : Bool := (portCfg s p).enable && decide ((portCfg s p).directions % 2 = 1)
def hasOut (s : State) (p : Nat) : Bool := (portCfg s p).enable && decide (2 ≤ (portCfg s p).directions)

/-! ## Clock directions (R312, R333, R345) -/

/-- Slave bit clock and slave frame sync of a SAP. -/
def bclkSlave (s : State) (p : Nat) : Bool := decide (p < 16) && decide ((portCfg s p).bclkDir = 0)
def fsSlave (s : State) (p : Nat) : Bool := decide (p < 16) && decide ((portCfg s p).fsDir = 0)

/-- An AES3 port's receiver runs on the clock of what it receives. -/
def aesReceives (s : State) (p : Nat) : Bool := decide (16 ≤ p) && decide ((portCfg s p).directions % 2 = 1)

/-- The port has no slave clock: it counts no frames (R345). -/
def masterPort (s : State) (p : Nat) : Bool := !bclkSlave s p && !fsSlave s p && !aesReceives s p

/-- What a criterion of R333 watches is a clock that the port has (R312). -/
def watched (s : State) (p criterion : Nat) : Bool :=
  match criterion with
  | 1 => bclkSlave s p
  | 2 => fsSlave s p
  | 3 => !masterPort s p
  | 4 => aesReceives s p
  | _ => false

/-! ## Wire frames (R315, R323) -/

/-- Bits of a slot or data-width code: 16, 24 or 32. -/
def widthBits (c : Nat) : Nat := 16 + 8 * c

/-- B of a SAP's frame (R315). -/
def frameBits (c : PortCfg) : Nat := c.slots * widthBits c.slotWidth

/-- The data delay δ and the frame in bits (R315): an AES3 receiver's 8 unit intervals of 128 (R323). -/
def dataDelay (s : State) (p : Nat) : Nat × Nat :=
  let c := portCfg s p
  if p < 16 then (match c.format with
    | 0 => 1
    | 1 => 0
    | _ => c.dataDelay, frameBits c)
  else (1, 16)

/-- T of a port of class m in units of 1/65,536 base period. -/
def portUnits (s : State) (p : Nat) : Nat := frameUnits (portClass s p)

/-- A frame whose period lies within ±5 % of 1/f (R333). -/
def periodOk (s : State) (p period : Nat) : Bool :=
  let f := if (portCfg s p).rate = 4 then (portCfg s p).nominalHz.toNat else rateHz s.clocks.rate * 2 ^ (portCfg s p).rate
  let want := 65536 * rateHz s.clocks.rate
  decide (20 * (period * f) ≤ 21 * want) && decide (19 * want ≤ 20 * (period * f))

/-! ## Stamps (R324 to R327) -/

/-- Round a quotient up. -/
def ceilDiv (a b : Nat) : Nat := (a + b - 1) / b

/-- 16 MCLK cycles, of the 512 in a base period. -/
def guardUnits : Nat := 2048

/-- The class-m boundary nearest to a moment. DESIGN CHOICE (notes/assumptions/140): of two equally near ones, the earlier. -/
def nearestStamp (s : State) (p x : Nat) : Nat := (2 * x + portUnits s p - 1) / (2 * portUnits s p) * portUnits s p

/-- The completion e + T + δ of a frame with edge `e`, in units times the bits of a frame (R323). -/
def completion (s : State) (p e : Nat) : Nat :=
  let (d, b) := dataDelay s p
  (e + portUnits s p) * b + d * portUnits s p

/-- A frame with edge `e` completes in time for stamp `x` (R326). -/
def completesBy (s : State) (p e x : Nat) : Bool :=
  decide (completion s p e + guardUnits * (dataDelay s p).2 ≤ x * (dataDelay s p).2)

/-- F = (s − c) / T in 1/256 frame, rounded down; 0 where the frame completes after its stamp (R325). -/
def fillOf (s : State) (p e x : Nat) : Nat :=
  let b := (dataDelay s p).2
  256 * (x * b - completion s p e) / (portUnits s p * b)

/-- The distance of two edges within a frame of `T`. -/
def edgeGap (T a b : Nat) : Nat :=
  let d := (a % T + T - b % T) % T
  min d (T - d)

/-- Where the inbound frame edges of port `q` fall after class-m boundaries, and where its outbound ones do: a master SAP's and those of
an AES3 transmitter on MCLK fall on the boundaries (R312, R321). -/
def edgeIn (s : State) (p : Nat) (q : Port) : Nat :=
  if masterPort s p then 0
  else match q.lastEdge with
    | some e => mtNat e % portUnits s p
    | none => 0
def edgeOut (s : State) (p : Nat) (q : Port) : Nat := if 16 ≤ p then 0 else edgeIn s p q

/-- The fill setting that alignment uses: BUF_TARGET while the port is the active BUFFER reference (R342). -/
def alignFill (s : State) (p : Nat) : Nat :=
  match s.clocks.active with
  | some i => if refType s i = 6 && decide (refUnit s i = p) then s.cfg.clocks.bufTarget.toNat else (portCfg s p).fillSet
  | none => (portCfg s p).fillSet

/-- D_in: the first class-m boundary at or after c + 16 MCLK cycles + (FILL_SET − 1) × T, less the edge (R324). -/
def ownDelayIn (s : State) (p : Nat) (q : Port) : Nat :=
  let T := portUnits s p
  let b := (dataDelay s p).2
  let e := edgeIn s p q
  ceilDiv (completion s p e + (guardUnits + (alignFill s p - 1) * T) * b) (T * b) * T - e

/-- D_out: the first outbound frame edge at or after the stamp + 1 base period + 16 MCLK cycles (R324). -/
def ownDelayOut (s : State) (p : Nat) (q : Port) : Nat :=
  let T := portUnits s p
  let e := edgeOut s p q
  e + ceilDiv (65536 + guardUnits - e) T * T

/-- Units of 1/65,536 base period as ns, to the nearest. -/
def unitsNs (s : State) (n : Nat) : Long :=
  let d := rateHz s.clocks.rate * 65536
  BitVec.ofNat 32 ((n * 1000000000 * 2 + d) / (2 * d))

/-- The port with D_in and D_out fixed at `t`. -/
def setDelays (s : State) (t : MT) (din dout : Nat) (q : Port) : Port :=
  { q with dIn := din, dOut := dout, inDelay := unitsNs s din, outDelay := unitsNs s dout, alignedAt := t }

/-- The aligned edge of a port or group, as D_in fixes it (R331, R333). -/
def alignedEdge (s : State) (p din : Nat) : Nat := (portUnits s p - din % portUnits s p) % portUnits s p

/-! ## Alignment groups (R329, R330) -/

/-- The members of alignment group `g` with ENABLE = 1. -/
def groupMates (s : State) (g : Nat) : List Nat :=
  (List.range 24).filter (fun p => decide (g ≠ 0) && (portCfg s p).enable && decide ((portCfg s p).group = g))

/-- The later of two members by their edges: the one that follows the other by less than half a frame. -/
def laterMember (s : State) (a b : Nat) : Nat :=
  let T := portUnits s a
  let d := (edgeIn s b (port s b) % T + T - edgeIn s a (port s a) % T) % T
  if d ≠ 0 ∧ 2 * d < T then b else a

/-- FIFOs and stamps start afresh at `t`. -/
def freshStamps (t : MT) (q : Port) : Port :=
  { q with inFifo := [], inReady := [], outFifo := [], outReady := [], lastStamp := some t, outDone := some t, outSent := none }

end Sys2Proof.Machine
end

