-- ==== Sys2Proof/Machine/Sides.lean ====
section
/-! DEFINITION. The two sides of a rate bridge: their port and estimator, their states, group delay and converter (R349 to R362). -/
namespace Sys2Proof.Machine

/-! ## Binding (R349, R350, R353) -/

/-- One side's configuration: port, first channel, class, channels. -/
structure SideCfg where
  port : Byte
  first : Nat
  cls : Nat
  channels : Nat
  deriving DecidableEq, Repr

def sideCfg (c : RbCfg) (egress : Bool) : SideCfg :=
  if egress then ⟨c.outPort, c.outFirst, c.outClass, 32 - c.split⟩ else ⟨c.inPort, c.inFirst, c.inClass, c.split⟩

def side (s : State) (b : Nat) (egress : Bool) : Side := if egress then (bridge s b).egress else (bridge s b).ingress
def setSide (s : State) (b : Nat) (egress : Bool) (d : Side) : State :=
  if egress then setBridge s b { bridge s b with egress := d } else setBridge s b { bridge s b with ingress := d }

/-- f_m: the nominal media-side rate of a class. -/
def mediaHz (s : State) (cls : Nat) : Nat := rateHz s.clocks.rate * 2 ^ (3 - cls)

/-- The port whose estimator a side uses: an AES3 transmitter with TX_CLOCK = k uses that of receiver AE(k − 1) (R353). -/
def estPort (s : State) (d : SideCfg) (egress : Bool) : Nat :=
  let p := d.port.toNat
  let k := (portCfg s p).txClock
  if egress && decide (16 ≤ p) && decide (k ≠ 0) then 15 + k else p

/-- The ratio f_port / f_media as unsigned Q4.28, to the nearest, as in the spec's example of 44.1 kHz + 30 ppm (R354). -/
def ratioOf (est hz : Nat) : Long := BitVec.ofNat 32 ((2 * est * 2 ^ 28 + 1000000 * hz) / (2 * (1000000 * hz)))

/-- The measured ratio lies from 1/8 to 8 (R355). -/
def ratioOk (s : State) (d : SideCfg) (egress : Bool) : Bool :=
  let e := (port s (estPort s d egress)).est
  let m := 1000000 * mediaHz s d.cls
  decide (m ≤ 8 * e) && decide (e ≤ 8 * m)

/-- The bound port is in RUN, and a receiver that times it in its place is locked, enabled or not (R321, R353, R355). -/
def sideRuns (s : State) (d : SideCfg) (egress : Bool) : Bool :=
  decide (d.port ≠ 0xFF) && decide ((port s d.port.toNat).state = .run) &&
    (decide (estPort s d egress = d.port.toNat) || (port s (estPort s d egress)).aesLocked)

/-- Enabled sides, ingress and egress, that a port is bound to or times. -/
def boundSides (s : State) (p : Nat) : List (Nat × Bool) :=
  (List.range 16).flatMap (fun b =>
    if (rbCfg s b).enable then
      [false, true].filterMap (fun o =>
        let d := sideCfg (rbCfg s b) o
        if decide (d.port ≠ 0xFF) && (decide (d.port.toNat = p) || decide (estPort s d o = p)) then some (b, o) else none)
    else [])

/-- The sides that use the estimator of port `p`. -/
def estSides (s : State) (p : Nat) : List (Nat × Bool) :=
  (boundSides s p).filter (fun x => decide (estPort s (sideCfg (rbCfg s x.1) x.2) x.2 = p))

/-! ## Group delay (R357) -/

/-- G as a fraction of a second. -/
def groupDelay (s : State) (d : SideCfg) : Nat × Nat :=
  let fp := (portCfg s d.port.toNat).nominalHz.toNat
  let fm := mediaHz s d.cls
  let lo := min fp fm
  (16 * lo * fm + 36 * fp * fm + fp * lo, max 1 (fp * lo * fm))

/-- G in ns, to the nearest, and in units of 1/65,536 base period, to the nearest. -/
def groupDelayNs (s : State) (d : SideCfg) : Nat :=
  let (n, m) := groupDelay s d
  (2 * n * 1000000000 + m) / (2 * m)
def groupDelayUnits (s : State) (d : SideCfg) : Nat :=
  let (n, m) := groupDelay s d
  (2 * n * rateHz s.clocks.rate * 65536 + m) / (2 * m)

/-- The bridge side that holds channel `ch` of a FOREIGN port in a direction, and its channel of the bridge (R350). -/
def sideOf (s : State) (p : Nat) (out : Bool) (ch : Nat) : Option (Nat × Nat) :=
  (List.range 16).findSome? (fun b =>
    let c := rbCfg s b
    let d := sideCfg c out
    if c.enable && decide (d.port.toNat = p) && decide (d.first ≤ ch) && decide (ch < d.first + d.channels) then
      some (b, (if out then c.split else 0) + (ch - d.first)) else none)

/-- G of the side that holds a port channel, in units; 0 where none does. -/
def chanDelay (s : State) (p : Nat) (out : Bool) (ch : Nat) : Nat :=
  match sideOf s p out ch with
  | some (b, _) => groupDelayUnits s (sideCfg (rbCfg s b) out)
  | none => 0

/-! ## States (R355, R356, R359 to R361) -/

/-- A fade has run to its end, or none runs. -/
def fadeOver (f : Option Fader) : Bool :=
  match f with
  | some f => f.up || decide (f.len ≤ f.done)
  | none => true

/-- The fade of a LOCKED side that a disturbance ends: one that runs already goes on to its end (R360, R361). -/
def sideFade (d : Side) : Fader := if d.slipping || d.hopping then d.fader.getD (fadeDown none 32) else fadeDown d.fader 32

/-- A side enters ACQUIRE at `t`. -/
def sideAcquires (t : MT) (d : Side) : Side := { d with state := .acquire, acqAt := t, delayNs := 0, delay := 0, slipping := false, hopping := false }

/-- A side enters UNLOCKED (R355, R360): it fades, but an egress side whose port is lost is muted with the port. -/
def unlockSide (s : State) (b : Nat) (egress portLost inj : Bool) : State :=
  let d := side s b egress
  let off (d : Side) : Side := { d with state := .unlocked, fill := 0, delayNs := 0, delay := 0, slipping := false, hopping := false }
  match d.state with
  | .off | .unlocked => s
  | .acquire => setSide s b egress (off d)
  | .locked =>
    let (n, o) := satInc d.unlocks
    let f := sideFade d
    let s := setSide s b egress { off d with
      fader := some (if egress && portLost then { f with done := f.len } else f)
      unlocks := n, ovf := if o then d.ovf ||| 2 else d.ovf }
    detectAs s 0x4011 b (BitVec.ofNat 32 (bitOf egress)) inj

/-- Sides of a port that is lost or disabled (R360). -/
def unlockPort (s : State) (p : Nat) : State := (boundSides s p).foldl (fun s x => unlockSide s x.1 x.2 true false) s

/-- A side follows its port and the measured ratio: UNLOCKED without them, ACQUIRE once both are there (R355, R361). -/
def followSide (s : State) (x : Nat × Bool) : State :=
  let d := side s x.1 x.2
  let c := sideCfg (rbCfg s x.1) x.2
  if sideRuns s c x.2 && ratioOk s c x.2 then
    if d.state = .unlocked then setSide s x.1 x.2 (sideAcquires (now s) d) else s
  else unlockSide s x.1 x.2 (!sideRuns s c x.2) false

/-- The sides that a port is bound to or times follow it. -/
def followPort (s : State) (p : Nat) : State := (boundSides s p).foldl followSide s

/-- A side's counters stay when its state starts afresh. -/
def keepCounts (old new : Side) : Side := { new with relocks := old.relocks, unlocks := old.unlocks, ovf := old.ovf }

/-- A side as enabling leaves it: it acquires where its port runs with the ratio in range (R355). -/
def sideStart (s : State) (d : SideCfg) (egress : Bool) : Side :=
  if sideRuns s d egress && ratioOk s d egress then sideAcquires (now s) {} else { state := .unlocked }

/-- A fade that ACQUIRE follows has ended (R359). -/
def fadeEnds (t : MT) (d : Side) : Side := if d.slipping && fadeOver d.fader then sideAcquires t d else d

/-- A bridge side at a family hop: fade at T, ACQUIRE once the gate reopens (R360). -/
def hopSide (d : Side) : Side :=
  let d := { d with hist := [], ready := [] }
  match d.state with
  | .locked => { d with fader := some (sideFade d), hopping := true }
  | .acquire => { d with hopping := true }
  | _ => d

/-- ECLK's gate has reopened: a side that a hop faded acquires, and one whose ACQUIRE the gap disturbed begins it again (R360, R361). -/
def hopEnds (t : MT) (d : Side) : Side := if d.hopping || decide (d.state = .acquire) then sideAcquires t d else d

/-- The fade of an ingress side runs on in a gap of ECLK, in which the router asks for none of its samples (R360). -/
def gapSide (t : MT) (cls : Nat) (d : Side) : Side := fadeEnds t { d with fader := (List.range (2 ^ (3 - cls))).foldl (fun f _ => faderNext f) d.fader }

/-! ## The converter's fill (R357, R359) -/

/-- The fill of a side, in 1/256 input sample: a free value; of a LOCKED side within ±8 samples of a target that lies within 16 ± 5. DESIGN
CHOICE (notes/assumptions/163): it changes with each frame of the port. -/
def noteFill (s : State) (b : Nat) (egress : Bool) : State :=
  let d := side s b egress
  let (k, s) := draw s
  let v := Config.freeWord k
  match d.state with
  | .locked => setSide s b egress { d with fill := if d.slipping || d.hopping then v else BitVec.ofNat 16 (768 + v.toNat % 6657) }
  | .acquire => setSide s b egress { d with fill := v }
  | _ => s

/-! ## The estimator (R353, R354, R356) -/

/-- Tenths of 1 Hz that TRACK_BW names. -/
def trackTenths (c : Nat) : Nat := if c = 0 then 5 else if c = 1 then 20 else 80

/-- A frame of a port that has an estimator: it takes the frame's period, at 20 Hz while its sides acquire, and from their lock at a
bandwidth that narrows to TRACK_BW over 1 s. The estimate is a free value (Config.rateEstimate). DESIGN CHOICE (notes/assumptions/141): where
bridges of one estimator have unlike TRACK_BW, the lowest bridge's counts. -/
def estimate (s : State) (p period : Nat) : State :=
  let q := port s p
  let seen := rateHz s.clocks.rate * 65536 * 1000000 / max 1 period
  let bw := match (estSides s p).head? with
    | some x => trackTenths (rbCfg s x.1).trackBw
    | none => 20
  let acquires := (estSides s p).any (fun x => decide ((side s x.1 x.2).state = .acquire))
  let track := if acquires then none else q.estLocked.map (fun t => (bw, min (mtDiff t (now s)) (msUnits s 1000)))
  setPort s p { q with est := if q.est = 0 then seen else Config.rateEstimate track q.est seen }

/-! ## The converter (R350, R357, R362) -/

/-- What entered a side's converter and can still count: the last 2 G. -/
def histPut (s : State) (d : SideCfg) (t : MT) (xs : Tbl Long) (h : List (MT × Tbl Long)) : List (MT × Tbl Long) :=
  (h.filter (fun x => decide (mtNat t ≤ mtNat x.1 + 2 * groupDelayUnits s d + 65536))) ++ [(t, xs)]

/-- The input samples of channel `ch` within 36 samples of the lower rate of a moment, with their distances from it. -/
def taps (s : State) (d : SideCfg) (h : List (MT × Tbl Long)) (ch centre : Nat) : List (Int × Long) :=
  let span := 36 * 65536 * rateHz s.clocks.rate / max 1 (min (portCfg s d.port.toNat).nominalHz.toNat (mediaHz s d.cls))
  h.filterMap (fun x =>
    let off : Int := (mtNat x.1 : Int) - centre
    if off.natAbs ≤ span then some (off, tget 0 x.2 ch) else none)

/-- A converted sample for the moment `t`: what entered around `t` − G, under a filter that the spec leaves open (R357, R362). -/
def convert (s : State) (d : SideCfg) (egress : Bool) (g : Nat) (h : List (MT × Tbl Long)) (ch : Nat) (t : MT) : Long :=
  Config.convertedSample (port s (estPort s d egress)).est (mediaHz s d.cls) (taps s d h ch (mtNat t - g))

end Sys2Proof.Machine
end

