-- ==== Sys2Proof/Machine/Apply.lean ====
section
/-! DEFINITION. What a scheduled action does at its target: commits, grafts, routes, leases, port actions, streams, base-rate
changes and drills; with the operations they share: program start, page flips, fades of grafts, quarantine, the ECLK gate and
the configuration epoch (R32, R64 to R79, R82, R83, R123, R124, R171, R178, R246 to R249, R254, R278, R282, R290 to R301). -/
namespace Sys2Proof.Machine

/-! ## Every unit of a kind -/

/-- Change every engine that is not at its reset value. -/
def eachEng (s : State) (f : Engine → Engine) : State := s.engines.foldl (fun s kv => modEng s kv.1 f) s

/-- Change every listed port. -/
def eachPort (s : State) (f : Nat → Port → Port) : State := s.ports.foldl (fun s kv => setPort s kv.1 (f kv.1 (port s kv.1))) s

/-- Change every listed bridge. -/
def eachBridge (s : State) (f : Nat → Bridge → Bridge) : State :=
  s.bridges.foldl (fun s kv => setBridge s kv.1 (f kv.1 (bridge s kv.1))) s

/-- Change every listed link. -/
def eachLink (s : State) (f : Nat → Link → Link) : State := s.links.foldl (fun s kv => setLink s kv.1 (f kv.1 (link s kv.1))) s

/-! ## The configuration epoch and its tag (R305, R416) -/

/-- Set CONFIG_EPOCH, and the tag: CRC-32C of old tag, new epoch, kind (0 announced, 1 commit), origin and target count. -/
def advanceEpoch (s : State) (e : Long) (kind origin count : Nat) : State :=
  let g := s.grove
  let tag := crc32c (be 4 g.epochTag.toNat ++ be 4 e.toNat ++ be 1 kind ++ be 2 origin ++ be 8 count)
  { s with epoch := e, grove := { g with epochTag := tag } }

/-! ## Published outputs and mirrored routes (R18, R171, R299) -/

/-- The value of output long `idx` that engine `n`'s published buffer gives under its fade or ramp; a Sapling or IDLE
engine gives zero (R164, R171, R179). -/
def engOut (e : Engine) (idx : Nat) (f : Option Fader) : Long :=
  if saplMode e || decide (e.state = .idle) then 0
  else scale (bufLong e.pub idx) (gainOf f).1 (gainOf f).2

/-- A ramp from zero that a restart left waits for the program's first outputs: until they are published the outputs are zero (R171,
R476). -/
def rampWaits (e : Engine) : Bool :=
  match e.outFade with
  | some f => f.up && decide (f.done = 0) && decide (f.num = 0) && decide (e.state ≠ .debug) && e.nextPub.isNone
  | none => false

/-- The fade or ramp of the outputs as the coming boundary publishes them. -/
def outNext (e : Engine) : Option Fader := if rampWaits e then e.outFade else faderNext e.outFade

/-- The published outputs go to every consumer of a mirrored route, as the coming boundary publishes them. -/
def mirrorPub (s : State) (n : Nat) : State :=
  let e := eng s n
  let f := outNext e
  let e := { e with pub := e.nextPub.getD e.pub }
  s.routes.foldl (fun s kv =>
    let r := kv.2
    if routeLive r && mirrored s r && decide (epUnit r.source = n) then
      (List.range r.channels).foldl (fun s i => putIn s (epUnit r.dest) (epFirst r.dest + i) (engOut e (epFirst r.source + i) f)) s
    else s) s

/-! ## The ECLK gate (R77, R119, R122, R124) -/

/-- A frame that has not reached its Boundary stage is abandoned: nothing it left is published. A FREE Sapling run is no
frame; it stands still while the gate is closed. -/
def abandon (e : Engine) : Engine :=
  if freeRun e then e
  else
    let e := if e.fade.isSome && e.newRun then { e with ctx := e.alt, alt := e.ctx, newRun := false } else e
    { e with stage := .none, nextPub := none, faulted := false, ctx := { e.ctx with inflight := [] } }

/-- A frame of this engine has begun and has not reached its Boundary stage. -/
def midFrame (e : Engine) : Bool := !freeRun e && (decide (e.stage ≠ .none) || e.nextPub.isSome)

/-- The gate closes: running frames are abandoned, their consumers' input buffers get the previous frame's outputs again, and a gap
begins. -/
def closeGate (s : State) : State :=
  if !s.clocks.gateOpen then s
  else
    let c := s.clocks
    let (n, o) := satInc c.gapCount
    let cut := s.engines.filter (fun kv => midFrame kv.2)
    let s := eachEng { s with clocks := { c with gateOpen := false, restart := false, gapStart := some c.mt, gapCount := n, gapOvf := c.gapOvf || o } } abandon
    cut.foldl (fun s kv => mirrorPub s kv.1) s

/-! ## Program start (R135, R178) -/

/-- EMODE from an image's FLAGS, with HIE = 0. -/
def imageEmode (b : ProgBank) : Word := BitVec.ofNat 16 (bitOf b.flagsAccm + b.flagsRnd * 2 + bitOf b.paced * 16)

/-- Registers at their start values, EMODE and descriptors from the image, the program counter at ENTRY. -/
def startCtx (b : ProgBank) (c : Ctx) : Ctx :=
  { emode := imageEmode b, descs := b.descs, pc := b.entry, outCur := c.outCur, outAlt := c.outAlt }

/-- The words of a coefficient page from an image. -/
def pageTbl (ws : List Word) : Tbl Word := tsetRun 0 [] 0 ws

/-- A page that a program start places in both copies; one that a group holds armed stays armed. The shadow copy of a page that is BOUND
for an armed graft holds the new image's words, and stays (R276, R292). -/
def startPage (p : Page) (ws : List Word) : Page :=
  if p.state = .bound then { (if p.view1 then { p with copy1 := pageTbl ws } else { p with copy0 := pageTbl ws }) with dirty := false }
  else { p with
    copy0 := pageTbl ws, copy1 := pageTbl ws, state := if p.state = .armed then .armed else .clean, bindAfter := false, dirty := false, abort := none }

/-- Change page `p` of engine `n`. -/
def modPage (s : State) (n p : Nat) (f : Page → Page) : State := modEng s n (fun e => setPage e p (f (page e p)))

/-- The pages an image replaces at a graft, with their words. -/
def replacedPages (b : ProgBank) : List (Nat × List Word) := b.pages.filterMap (fun x => if x.2.1 then none else some (x.1, x.2.2))

/-- A replaced page takes the new image's words into the copy out of view (R292). -/
def bindPage (ws : List Word) (p : Page) : Page :=
  if p.state = .gliding then { p with bindAfter := true }
  else { setOther p (pageTbl ws) with state := .bound, bindAfter := false, dirty := false }

/-- A replaced page is bound, or will be when its glide ends. -/
def bindOn (s : State) (n p : Nat) (ws : List Word) : State :=
  let q := page (eng s n) p
  modPage (if q.state = .gliding then s else clearPage s n p (!q.view1) 0 64) n p (bindPage ws)

/-- A program start places a page: both its copies are written. A glide ends there, and a page that was to be BOUND after it is (R292). -/
def startOn (s : State) (n p : Nat) (ws : List Word) : State :=
  let q := page (eng s n) p
  let s := clearPage s n p q.view1 0 64
  let s := modPage (if q.state = .bound then s else clearPage s n p (!q.view1) 0 64) n p (fun q => startPage q ws)
  match q.bindAfter && (eng s n).graft.isSome, (replacedPages (eng s n).standby).find? (fun x => decide (x.1 = p)) with
  | true, some w => bindOn s n p w.2
  | _, _ => s

/-- ECC marks outside a range of locations. -/
def dropMarks (s : State) (p : Nat → Bool) : State :=
  { s with mem := { s.mem with ecc := s.mem.ecc.filter (fun kv => !p kv.1) } }

/-- The program of engine `n`'s active bank starts from its image. -/
def startImage (s : State) (n : Nat) : State :=
  let s := dropMarks s (fun l => decide (l / 2 ^ 24 = 2 * 32 + n))
  let s := (eng s n).active.pages.foldl (fun s pg => startOn s n pg.1 pg.2.2) s
  modEng s n (fun e =>
    { e with
      ctx := startCtx e.active e.ctx, alt := {}, localRam := e.active.data, frameCtr := 0, ctrLatch := 0
      faultCause := 0, faultArg := 0, faultRun := 0, pflt := false, inh := false, faulted := false
      stage := .none, prepared := false, newRun := false, nextPub := none, breakHit := false })

/-! ## Coefficient pages (R278, R282, R284, R292) -/

/-- A page of a group flips at `t`: it levels, or glides with the N and form taken at the arm. -/
def flipPage (t : MT) (p : Page) : Page :=
  { p with
    view1 := !p.view1, group := 0, glideStart := t, abort := none, dirty := false
    state := if p.glideN = 0 then .levelling else .gliding }

/-- A replaced page flips at its graft; it stays BOUND through a fade, and levels otherwise (R292, R297). -/
def flipBound (fade : Bool) (ws : List Word) (p : Page) : Page :=
  let p := if p.state = .bound then p else setOther p (pageTbl ws)
  { p with view1 := !p.view1, bindAfter := false, state := if fade then .bound else .levelling }

def flipOn (fade : Bool) (s : State) (n p : Nat) (ws : List Word) : State :=
  let q := page (eng s n) p
  modPage (if q.state = .bound then s else clearPage s n p (!q.view1) 0 64) n p (flipBound fade ws)

/-- The graft is cancelled: the page levels back to CLEAN. -/
def unbindPage (p : Page) : Page :=
  if p.state = .bound then { p with state := .levelling, bindAfter := false } else { p with bindAfter := false }

def eachReplaced (s : State) (n : Nat) (b : ProgBank) (f : List Word → Page → Page) : State :=
  (replacedPages b).foldl (fun s x => modPage s n x.1 (f x.2)) s

/-! ## Grafts (R290 to R301) -/

/-- The two program banks exchange roles (R290). -/
def swapBanks (e : Engine) : Engine :=
  { e with
    active := e.standby, standby := e.active, actBank := !e.actBank
    standbyState := if e.active.codeWords = 0 then 0 else 2 }

/-- A local word keeps its contents across the graft (R294). -/
def sharedWord (b : ProgBank) (a : Nat) : Bool := b.map.any (fun m => m.2.2 && decide (m.1 ≤ a) && decide (a < m.1 + m.2.1))

/-- Local RAM after a graft: shared words kept, every other word at its image value (R294). -/
def graftRam (b : ProgBank) (ram : Tbl Word) : Tbl Word :=
  b.data.foldl (fun t kv => if sharedWord b kv.1 then t else tset 0 t kv.1 kv.2) (ram.filter (fun kv => sharedWord b kv.1))

/-- Two descriptors describe one line (R254). -/
def sameLine (a b : Desc) : Bool := (a.packed3 == b.packed3) && decide (a.bank = b.bank) && decide (a.base = b.base) && decide (a.len = b.len)

/-- Descriptors of the new image: an equal one keeps the active HEAD, any other starts with HEAD 0 (R254). -/
def graftDescs (old new : Tbl Desc) : Tbl Desc :=
  new.foldl (fun t kv => tset {} t kv.1 { kv.2 with head := if sameLine (tget {} old kv.1) kv.2 then (tget {} old kv.1).head else 0 }) []

/-- The new program's registers at a graft: those the old one left, EMODE from its image (R293). -/
def graftCtx (b : ProgBank) (c : Ctx) : Ctx :=
  { c with emode := imageEmode b, descs := graftDescs c.descs b.descs, inflight := [], pc := b.entry }

/-- Exclusive words take their image values and lose their ECC marks. -/
def graftWords (s : State) (n : Nat) : State :=
  let b := (eng s n).active
  let s := dropMarks s (fun l => decide (l / 2 ^ 24 = 2 * 32 + n) && !sharedWord b (l % 2 ^ 24))
  modEng s n (fun e => { e with localRam := graftRam b e.localRam })

/-- The pages that the new active image replaces flip (R292). -/
def flipPages (s : State) (n : Nat) (fade : Bool) : State :=
  (replacedPages (eng s n).active).foldl (fun s x => flipOn fade s n x.1 x.2) s

/-- The pages left BOUND by a graft that was armed while the engine ran flip, though it is IDLE by now (R292). -/
def flipBounds (s : State) (n : Nat) : State :=
  (replacedPages (eng s n).active).foldl (fun s x => if (page (eng s n) x.1).state = .bound then flipOn false s n x.1 x.2 else s) s

/-- An IDLE engine may leave IDLE: it passed its self-test (R483), and the part is not in ENDED (R489). -/
def mayStart (s : State) (n : Nat) : Bool := !(eng s n).selfTestFailed && decide (s.fuses.life ≠ .ended)

/-- The armed graft of engine `n` is applied at its target `t` (R289, R290, R296). -/
def applyGraft (s : State) (n : Nat) (t : MT) : State :=
  match (eng s n).graft with
  | none => s
  | some g =>
    let st := (eng s n).state
    let double := decide (0 < g.fade) && decide (st = .run)
    let s := modEng s n (fun e => { swapBanks e with graft := none, graftResult := if g.fade = 0 then 1 else if double then 0 else 3 })
    match st with
    | .idle =>
      let s := startImage (flipBounds s n) n
      if mayStart s n then modEng s n (fun e => { e with state := .run, outFade := none }) else s
    | .sapling | .halted => flipPages s n false
    | _ =>
      let s := graftWords (flipPages s n double) n
      modEng s n (fun e =>
        if double then
          { e with
            alt := { graftCtx e.active e.ctx with outCur := [], outAlt := [] }
            newRun := false
            fade := some ⟨t, g.fade, g.curve, 0, none, false, false, e.nextPub.getD e.pub⟩ }
        else { e with ctx := graftCtx e.active e.ctx })

/-- A fade ends with `result` (1 DONE, 3 ABORTED_FINISH, 4 ABORTED_REVERT, 5 FAULTED): with 1 and 3 the new program goes on
alone, otherwise the old one with its registers, and the banks exchange again (R298, R300, R301). -/
def endFade (s : State) (n : Nat) (result : Nat) : State :=
  let e := eng s n
  if e.fade.isNone then s
  else
    let old := if e.newRun then e.alt else e.ctx
    let new := if e.newRun then e.ctx else e.alt
    let keep := decide (result = 1 ∨ result = 3)
    let s := eachReplaced s n e.active (fun _ p => { p with view1 := if keep then p.view1 else !p.view1, state := .levelling })
    modEng s n (fun e =>
      let e := { e with fade := none, graftResult := result, newRun := false, alt := {}, ctx := if keep then new else old }
      if keep then e else swapBanks e)

/-- A graft leaves the bank READY again, with `RESULT` CANCELLED (R289, R308). -/
def cancelGraft (s : State) (n : Nat) : State :=
  let s := eachReplaced s n (eng s n).standby (fun _ => unbindPage)
  modEng s n (fun e => { e with graft := none, standbyState := 2, graftResult := 2 })

/-! ## Quarantine (R171, R300) -/

/-- The engine is quarantined: its fade of a graft finishes, its outputs fade over 64 samples. -/
def quarantine (s : State) (n : Nat) : State :=
  let s := endFade s n 3
  let e := eng s n
  let (c, o) := satInc e.quarCount
  let s := modEng s n (fun e => { e with
    state := .quarantined, quarCount := c, quarOvf := e.quarOvf || o, releaseReq := false
    outFade := some (fadeDown e.outFade 64) })
  detect s 0x2010 n (BitVec.ofNat 32 e.faultCause)

/-! ## Commit groups (R282, R305) -/

/-- A group that has entered EMPTY: its outcome is kept, everything else is gone. -/
def groupEmpty (g : Group) : Group :=
  { lastResult := g.lastResult, lastMt := g.lastMt, failMember := g.failMember, failCode := g.failCode, prepares := g.prepares
    cancelled := g.cancelled }

/-- The group has applied on every engine: APPLIED, and for SCOPE GROVE the epoch becomes E + 1. -/
def groupDone (s : State) (g : Nat) (t : MT) : State :=
  let x := group s g
  let s := setGroup s g { groupEmpty x with lastResult := 1, lastMt := t }
  if x.grove then advanceEpoch s (x.epoch + 1) 1 (x.coordinator.getD s.cfg.deviceNumber) t.count.toNat else s

/-- Group `g`'s pages and bound graft on engine `n` flip at `t`. -/
def commitOn (s : State) (g n : Nat) (t : MT) : State :=
  let ps := (group s g).pages.filter (fun k => decide (k / 128 = n))
  let s := ps.foldl (fun s k => modPage s n (k % 128) (flipPage t)) s
  let s := match (eng s n).graft with
    | some a => if a.group = g then applyGraft s n t else s
    | none => s
  if s.clocks.sched.any (fun x => match x.act with
      | .commit g' _ => decide (g' = g)
      | _ => false) then s
  else groupDone s g t

/-! ## Leases (R246 to R249, R275) -/

/-- ENG_BANKS.BANKi. -/
def setBankNo (e : Engine) (i : Nat) (v : Byte) : Engine :=
  match i with
  | 0 => { e with bank0 := v }
  | 1 => { e with bank1 := v }
  | 2 => { e with bank2 := v }
  | _ => { e with bank3 := v }

/-- The lowest index of ENG_BANKS that reads 0xFF. -/
def freeIndex (e : Engine) : Option Nat := (List.range 4).find? (fun i => decide (bankNo e i = 0xFF))

/-- The index at which an engine holds a bank. -/
def bankIndex (e : Engine) (b : Nat) : Option Nat := (List.range 4).find? (fun i => decide (bankNo e i = BitVec.ofNat 8 b))

/-- The bank's words read 0, and its ECC marks go (R249). -/
def zeroBank (s : State) (b : Nat) : State :=
  let s := dropMarks s (fun l => decide (l / 2 ^ 29 = 5) && decide (l % 2 ^ 24 / 0x80000 = b))
  setBank s b { bank s b with mem := [], zeroPending := true }

/-- A bank changes its owner at START. -/
def applyLease (s : State) (b kind id : Nat) (zero : Bool) (endAt : Option MT) : State :=
  let old := bank s b
  let s := if old.kind = 1 then
      match bankIndex (eng s old.id) b with
      | some i => modEng s old.id (fun e => setBankNo e i 0xFF)
      | none => s
    else s
  let s := if kind = 1 then
      match freeIndex (eng s id) with
      | some i => modEng s id (fun e => setBankNo e i (BitVec.ofNat 8 b))
      | none => s
    else s
  let s := setBank s b { bank s b with kind := kind, id := if kind = 0 then 0 else id, leaseEnd := endAt, emptySince := none }
  let s := if zero then zeroBank s b else s
  if kind = 1 || old.kind = 1 then bumpEpoch s else s

/-- CAPTURE leases whose END has come (R248). -/
def endLeases (s : State) : State :=
  s.mem.banks.foldl (fun s kv =>
    match kv.2.leaseEnd with
    | some t => if isDue (now s) t then setBank s kv.1 { bank s kv.1 with kind := 0, id := 0, leaseEnd := none } else s
    | none => s) s

/-! ## Ports and base rate (R124, R327, R337, R344, R360) -/

/-- A port action reaches its target on one channel. On a FOREIGN port it applies from the first port frame whose edge is at or after the
target − G of an ingress side or + G of an egress side (R358): an inbound one may have begun already. -/
def portActOn (s : State) (p : Nat) (out : Bool) (op : Nat) (gain : Word) (t : MT) (ch : Nat) : State :=
  let q := port s p
  let c := chan q out ch
  let g := chanDelay s p out ch
  setPort s p (setChan q out ch
    (if (portCfg s p).rate ≠ 4 then chanArrive (rampLen s p) t (portCfg s p).zcTimeoutMs.toNat c op gain
    else if c.begun.contains (t, op) then { c with begun := c.begun.erase (t, op) }
    else { c with await := c.await ++ [(if out then mtPlus t g else mtMinus t g, op, gain)] }))

/-- A port action reaches its target on each of its channels (R337). -/
def applyPort (s : State) (p : Nat) (out : Bool) (op : Nat) (gain : Word) (first count : Nat) (t : MT) : State :=
  (List.range count).foldl (fun s i => portActOn s p out op gain t (first + i)) s

/-- D_in and D_out that a master port in RUN takes at a family hop: its own, or those common to the members of its group that stay in RUN
(R330, R344). -/
def hopDelays (s : State) (p : Nat) (q : Port) : Nat × Nat :=
  let ms := (groupMates s (portCfg s p).group).filter (fun k => masterPort s k && decide ((port s k).state = .run))
  match ms with
  | [] => (ownDelayIn s p q, ownDelayOut s p q)
  | k :: l =>
    let m := l.foldl (laterMember s) k
    (ownDelayIn s m (port s m), ms.foldl (fun o k => max o (ownDelayOut s k (port s k))) 0)

/-- A port of class m at a family hop: its FIFOs start afresh and its master edges lie on the new boundaries; a slave port and an AES3
receiver qualify again (R344). -/
def hopPort (s : State) (p : Nat) (q : Port) : Port :=
  if (portCfg s p).rate = 4 || decide (q.state = .off) then { q with lastEdge := none }
  else
    let q := { freshStamps (now s) q with lastEdge := none, qualAt := none, groupGo := false }
    if !masterPort s p then { q with state := .acquire, consistent := 0, window := [], fading := false }
    else if q.state = .run then setDelays s (now s) (hopDelays s p q).1 (hopDelays s p q).2 q
    else { q with qualAt := some (now s) }

/-- A media time at the new base rate (R82). -/
def rescale (r r' : Nat) (t : MT) : MT := mtOf (mtNat t * r' / r)

/-- The stamps of a channel of a port. -/
def carryChan (f : MT → MT) (c : Chan) : Chan :=
  { c with acts := c.acts.map (fun a => { a with since := f a.since }), await := c.await.map (fun x => (f x.1, x.2)), lastAt := c.lastAt.map f }

/-- The stamp of a playout ring, and those of a staged change, which stays as far ahead as it was. -/
def carryRing (f : MT → MT) (r : Ring) : Ring := { r with since := f r.since }

def carryStaged (f : MT → MT) (x : Staged) : Staged :=
  ⟨periodFrom (f x.target), match x.act with
    | .switch e alt l h slots r => .switch e alt l h slots (r.map (carryRing f))
    | a => a⟩

/-- The stamps of clock references, of video sequences, of HOLDOVER, of MCPLL's acquisition and of the last pulse of PPS_OUT. -/
def carryClocks (f : MT → MT) (c : Clocks) : Clocks :=
  let count (n : Nat) : Nat := (f ⟨BitVec.ofNat 64 n, 0⟩).count.toNat
  { c with
    ppsLast := c.ppsLast.map (fun l => (f ⟨l, 0⟩).count)
    staged := c.staged.map (carryStaged f), holdAt := f c.holdAt, nearSince := c.nearSince.map f, offSince := c.offSince.map f
    gapStart := c.gapStart.map f
    refs := c.refs.map (fun kv => (kv.1, { kv.2 with
      since := f kv.2.since, lastEdge := kv.2.lastEdge.map f, glitches := kv.2.glitches.map f
      origin := kv.2.origin.map count, nearest := kv.2.nearest.map (fun b => (b.1, count b.2)) })) }

/-- The stamps of sessions, relays and lockouts. -/
def carryMgmt (f : MT → MT) (m : Mgmt) : Mgmt :=
  { m with
    sessions := m.sessions.map (fun kv => (kv.1, { kv.2 with transfer := kv.2.transfer.map (fun t => { t with lastAt := f t.lastAt }) }))
    heardAt := m.heardAt.map (fun x => (x.1, f x.2)), lastStamp := m.lastStamp.map f
    relays := m.relays.map (fun x => { x with lastAt := f x.lastAt })
    fails := m.fails.map (fun x => (x.1, x.2.map f)), lockout := m.lockout.map (fun x => (x.1, f x.2)) }

/-- The stamps of a stream entry. -/
def carryStream (f : MT → MT) (x : Stream) : Stream :=
  { x with
    startedAt := x.startedAt.map f, stoppedAt := x.stoppedAt.map f, effectiveAt := x.effectiveAt.map f, quietFrom := x.quietFrom.map f
    ring := x.ring.map (carryRing f), altRing := x.altRing.map (carryRing f) }

/-- When the count jumps, what the block remembers of the past keeps its place before it. DESIGN CHOICE (notes/assumptions/142): a hop
rescales these stamps with the count, a time step shifts them. Armed targets stay as they are. -/
def carryStamps (f : MT → MT) (s : State) : State :=
  let s := s.routes.foldl (fun s kv => setRoute s kv.1 { kv.2 with since := f kv.2.since }) s
  let s : State := { s with
    tails := s.tails.map (fun r => (r.1, f r.2))
    streams := s.streams.map (fun kv => (kv.1, carryStream f kv.2))
    leaving := s.leaving.map (fun x => { x with stream := carryStream f x.stream, ends := f x.ends })
    clocks := carryClocks f s.clocks
    grove := { s.grove with
      withheldAt := f s.grove.withheldAt, rootSince := f s.grove.rootSince, reasm := s.grove.reasm.map (fun m => { m with since := f m.since })
      records := s.grove.records.map (fun kv => (kv.1, kv.2.map (fun r => { r with heardAt := f r.heardAt }))) }
    mem := { s.mem with banks := s.mem.banks.map (fun kv => (kv.1, { kv.2 with emptySince := kv.2.emptySince.map f })) }
    mgmt := carryMgmt f s.mgmt
    events := { s.events with
      injUntil := f s.events.injUntil, window := s.events.window.map f
      limits := s.events.limits.map (fun l => { l with since := f l.since }) }
    jtag := { s.jtag with failAt := f s.jtag.failAt }
    power := { s.power with
      trialAt := f s.power.trialAt, quietAt := f s.power.quietAt, ccAt := f s.power.ccAt
      portsDue := s.power.portsDue.map f, dividerAt := s.power.dividerAt.map f
      wake := s.power.wake.map (fun x => (x.1, f x.2)), pendingTo := s.power.pendingTo.map (fun x => (x.1, f x.2)) } }
  let s := eachPort s (fun _ q => { q with
    qualAt := q.qualAt.map f, estLocked := q.estLocked.map f
    chIn := q.chIn.map (fun x => (x.1, carryChan f x.2)), chOut := q.chOut.map (fun x => (x.1, carryChan f x.2)) })
  let s := eachLink s (fun _ k => { k with
    pathA := { k.pathA with enteredAt := f k.pathA.enteredAt }, pathB := { k.pathB with enteredAt := f k.pathB.enteredAt } })
  eachBridge s (fun _ b => { ingress := { b.ingress with acqAt := f b.ingress.acqAt }, egress := { b.egress with acqAt := f b.egress.acqAt } })

/-- Glides and graft fades count frames: over a jump of the count they keep the frames that have passed. -/
def carryFrames (f : MT → MT) (s : State) : State :=
  let s := eachEng s (fun e => { e with fade := e.fade.map (fun x => { x with start := f x.start }) })
  eachEng s (fun e => { e with pages := e.pages.map (fun kv => (kv.1, { kv.2 with glideStart := if kv.2.state = .gliding then f kv.2.glideStart else kv.2.glideStart })) })

/-- A time of the old count as far from the new as it was from the old. -/
def shifted (old new t : MT) : MT := mtMinus new (mtDiff t old)

/-- The target of the base-rate change armed last of those pending: what BASE_RATE.TARGET reads (R86). -/
def lastRateTarget (sched : List Sched) : Option MT :=
  (sched.filterMap (fun x => match x.act with
    | .baseRate _ => some x.target
    | _ => none)).getLast?

/-- The first base period that begins at or after a firing and `units` more, at phase 0x8000 (R515). -/
def firingAfter (t : MT) (units : Nat) : MT := ⟨(periodFrom (mtPlus t units)).count, 0x8000⟩

/-- The firing after one at `t`, by PERIOD_MS (R515). -/
def nextFiring (s : State) (t : MT) (ms : Nat) : MT := firingAfter t (msUnits s ms)

/-- PERIOD_MS in units of 1/65,536 base period at base rate `r`. -/
def periodUnits (i : Inj) (r : Nat) : Nat := i.period.toNat * r * 65536 / 1000

/-- An armed injection as the count changes from `old`, at rate `r`, to `new`, at rate `r'`: a firing of the base period that begins or of the
next keeps its place, and a later one comes PERIOD_MS after the one before it (R515). -/
def hopFiring (old new : MT) (r r' : Nat) (i : Inj) : Inj :=
  let d := countTo old i.fireAt
  let u := periodUnits i r
  if d ≤ 1 || decide (2 ^ 63 < d) then { i with fireAt := ⟨new.count + BitVec.ofNat 64 d, i.fireAt.phase⟩ }
  else
    let last : MT := ⟨i.fireAt.count - BitVec.ofNat 64 ((u + 0x8000 + 65535) / 65536), 0x8000⟩
    { i with fireAt := firingAfter (rescale r r' last) (periodUnits i r') }

/-- Every armed injection under `f`. -/
def mapInj (f : Inj → Inj) (s : State) : State :=
  { s with events := { s.events with inj := s.events.inj.map (fun x => (x.1, x.2.map f)) } }

/-- A word not above CEILING: the NTO's clamp (R118). -/
def underCeiling (ceiling w : Long) : Long := if w.toNat ≤ ceiling.toNat then w else ceiling

/-- A base-rate change at its target (R82, R124): the gate closes, the count and every stamp kept beside it are rescaled, MCPLL steps to
the new family's nominal word, a video sequence is sought anew (R101, R125), ECPLL acquires in STORED mode at a ceiling measured anew (R118). DESIGN CHOICE (notes/assumptions/40):
a count that the change does not divide, at a target that fell in a gap, is rounded down, and so is every other stamp. -/
def hop (s : State) (next : Nat) : State :=
  let s := closeGate s
  let c := s.clocks
  let r := rateHz c.rate
  let r' := rateHz next
  let s := carryFrames (shifted c.mt (mtOf (c.mt.count.toNat * r' / r * 65536))) (carryStamps (rescale r r') s)
  let s := mapInj (hopFiring c.mt (mtOf (c.mt.count.toNat * r' / r * 65536)) r r') s
  let s := { s with
    clocks := { s.clocks with
      mt := mtOf (c.mt.count.toNat * r' / r * 65536), rate := next, rateTarget := lastRateTarget c.sched
      anchorMt := rescale r r' c.anchorMt
      gapStart := some (mtOf (c.mt.count.toNat * r' / r * 65536))
      hist := c.hist.map (fun x => (x.1 * r' / r, x.2))
      refs := s.clocks.refs.map (fun kv => (kv.1, { kv.2 with origin := none, tried := 0, nearest := none }))
      ntoPpb := 0, holdPpb := 0, ecpll := .acquire, hopping := true
      ceiling := Config.freeLong s.fresh, ecWord := underCeiling (Config.freeLong s.fresh) c.ecWord }
    fresh := s.fresh + 1
    power := { s.power with vcoreMv := 780 } }
  let s := eachPort s (hopPort s)
  let s := eachBridge s (fun _ b => { ingress := hopSide b.ingress, egress := hopSide b.egress })
  detect s 0x1010 devUnit (BitVec.ofNat 32 next)

/-! ## Streams and drills (R414, R426) -/

/-- A source entry starts or stops. -/
def applyStream (s : State) (e : Nat) (start : Bool) (t : MT) : State :=
  let x := stream s e
  if start then setStream s e { x with state := .running, startedAt := some t, stoppedAt := none }
  else setStream s e { x with state := if x.link.isSome then .admitted else .defined, stoppedAt := some t }

/-- The Root stops claiming and withholds its claim. -/
def withhold (s : State) (dwell : Option Nat) : State :=
  let g := s.grove
  if g.role = .root then
    { s with grove := { g with role := .withheld, drillState := 2, drillDwell := dwell, drillTold := false, withheldAt := now s, claimRun := 0 } }
  else { s with grove := { g with drillState := 0 } }

/-! ## Application (R64 to R66, R79) -/

/-- What an action does at its target. -/
def applySched (s : State) (x : Sched) : State :=
  match x.act with
  | .commit g n => commitOn s g n x.target
  | .graft n => applyGraft s n x.target
  | .routeAdd r =>
    bumpEpoch (setRoute s r { route s r with state := .active, target := none, since := x.target })
  | .routeRemove r =>
    let old := route s r
    bumpEpoch (setRoute { s with tails := s.tails ++ [(old, x.target)] } r { result := old.result })
  | .lease b kind id zero endAt => applyLease s b kind id zero endAt
  | .port p out op gain first count => applyPort s p out op gain first count x.target
  | .streamStart e => applyStream s e true x.target
  | .streamStop e => applyStream s e false x.target
  | .baseRate next => hop s next
  | .drill dwell => withhold s dwell

/-- Stable insertion by target. -/
def insertDue (x : Sched) : List Sched → List Sched
  | [] => [x]
  | y :: l => if mtNat x.target < mtNat y.target then x :: y :: l else y :: insertDue x l

/-- Apply the pending actions that satisfy `p`, in target order, each removed before it acts. -/
def applyWhere (s : State) (p : Sched → Bool) : State :=
  let due := (s.clocks.sched.filter p).foldl (fun l x => insertDue x l) []
  let s := schedDrop s p
  -- the actions still to come stay visible to the groups they belong to
  let s := { s with clocks := { s.clocks with sched := due ++ s.clocks.sched } }
  due.foldl (fun s x =>
    applySched { s with clocks := { s.clocks with sched := s.clocks.sched.erase x } } x) s

/-- The engines an action touches (R65). -/
def touched (s : State) : SchedAct → List Nat
  | .commit _ n => [n]
  | .graft n => [n]
  | .lease b kind id _ _ =>
    (if kind = 1 then [id] else []) ++ (if (bank s b).kind = 1 then [(bank s b).id] else [])
  | _ => []

end Sys2Proof.Machine
end

