-- ==== Sys2Proof/Machine/Refs.lean ====
section
/-! DEFINITION. References and MCPLL: which REF_SELECT entry steers, alignment and phase, switches, slewing, HOLDOVER, disqualification
(R96 to R102, R104 to R112). -/
namespace Sys2Proof.Machine

/-! ## References (R100, R104 to R107, R111, R112) -/

def refMon (s : State) (i : Nat) : RefMon := tget {} s.clocks.refs i
def setRefMon (s : State) (i : Nat) (m : RefMon) : State := setClocks s (fun c => { c with refs := tset {} c.refs i m })

/-- A member that is not the Root is steered by the grove alone, from its first claim on, also while none is heard (R111, R410). -/
def follower (s : State) : Bool := !alone s && (joinedGrove s || s.grove.follows) && decide (s.grove.role ≠ .root)

/-- A port that an enabled rate bridge converts. -/
def bridged (s : State) (p : Nat) : Bool :=
  s.cfg.bridges.any (fun kv => kv.2.enable && (decide (kv.2.inPort.toNat = p) || decide (kv.2.outPort.toNat = p)))

/-- Entries that report IGNORED: GROVE on the Root, BUFFER on a follower or on a bridged port (R111, R112). -/
def refIgnored (s : State) (i : Nat) : Bool :=
  (decide (refType s i = 5) && decide (s.grove.role = .root)) ||
    (decide (refType s i = 6) && (follower s || bridged s (refUnit s i)))

/-- The link that a GROVE entry names; 0xFF names the one that carries the highest claim (R100). -/
def groveLink (s : State) (i : Nat) : Option Nat := if refUnit s i = 0xFF then s.grove.upstream else some (refUnit s i)

/-- The link of a GROVE entry carries time: it is joined, at equal compatibility levels (R404, R415). -/
def groveFed (s : State) (i : Nat) : Bool := (groveLink s i).any (fun l => joined s l && levelEqual s l)

/-- An entry that may steer MCPLL. -/
def refUsable (s : State) (i : Nat) : Bool :=
  decide (refType s i ≠ 0) && decide ((refMon s i).state = .qualified) && !refIgnored s i && (!follower s || decide (refType s i = 5)) &&
    (decide (refType s i ≠ 5) || groveFed s i)

/-- The entry that steers: the active one while it may, unless REVERT prefers one ahead of it; else the first (R106, R107). -/
def refChoice (s : State) : Option Nat :=
  let first := (List.range 8).find? (refUsable s)
  if s.clocks.forceHold then none
  else match s.clocks.active with
    | some a => if refUsable s a && !s.cfg.clocks.revert then some a else first
    | none => first

/-- The code reported as ACTIVE; 0 in FREERUN and HOLDOVER. -/
def activeCode (s : State) : Word :=
  match s.clocks.active with
  | some i => refCode s i
  | none => 0

/-! ## Expected periods and alignment (R100 to R102, R110)

Positions are in units of 10⁻¹² base period, of which 1 ps has as many as the base rate has samples per second. -/

/-- S and the frames it takes, for VID_RATE `v` at base-rate code `c` (R101). -/
def videoSeq (v c : Nat) : Nat × Nat :=
  let row : (Nat × Nat) × (Nat × Nat) × (Nat × Nat) := match v with
    | 0 => ((4004, 3), (147147, 80), (2002, 1))
    | 1 => ((4000, 3), (3675, 2), (2000, 1))
    | 2 => ((1280, 1), (1764, 1), (1920, 1))
    | 3 => ((16016, 15), (147147, 100), (8008, 5))
    | 4 => ((3200, 3), (1470, 1), (1600, 1))
    | 5 => ((640, 1), (882, 1), (960, 1))
    | 6 => ((8008, 15), (147147, 200), (4004, 5))
    | _ => ((1600, 3), (735, 1), (800, 1))
  if c = 0 then row.1 else if c = 1 then row.2.1 else row.2.2

def seqOf (s : State) : Nat × Nat := videoSeq s.cfg.clocks.vidRate s.clocks.rate

/-- One base period in the unit of positions. -/
def onePeriod : Nat := 1000000000000

/-- The expected period of entry `i` (R100). -/
def refPeriod (s : State) (i : Nat) : Nat :=
  match refType s i with
  | 1 => onePeriod / 2 ^ s.cfg.clocks.wckMult
  | 2 => (seqOf s).1 * onePeriod / (seqOf s).2
  | 3 => rateHz s.clocks.rate * onePeriod
  | 4 => onePeriod / 2 ^ s.cfg.clocks.darsMult
  | _ => onePeriod

/-- Where an edge lies that arrives now, `subPs` ps after the phase unit's start. -/
def edgeAt (s : State) (subPs : Long) : Int :=
  ((mtNat (now s) * onePeriod / 65536 + subPs.toNat * rateHz s.clocks.rate : Nat) : Int)

/-- An offset of REF_CONFIG, in ns. -/
def offsetOf (s : State) (ns : Long) : Int := ns.toInt * 1000 * rateHz s.clocks.rate

/-- The distance of `x` from the nearest multiple of `num / den`, positive after it. -/
def nearGrid (x : Int) (num den : Nat) : Int :=
  let n := (2 * x * den + num).fdiv (2 * num)
  x - (n * num).fdiv den

/-- How far the edge of entry `i` at position `x` lies after the alignment instant it is to fall on: the nearest that R100 allows, for
PPS with MT_TAI.VALID = 1 that of the mapped count (R110); none while a video sequence has no origin. A VREF_H edge is compared
with the nearest line (R102); a GROVE entry's measure is the boundary at which the peer's count is this device's, against its own (R395,
R417). -/
def alignment (s : State) (i : Nat) (line : Bool) (x : Int) : Option Int :=
  let k := s.cfg.clocks
  match refType s i with
  | 1 => some (nearGrid (x + offsetOf s k.wckOffset) onePeriod (2 ^ k.wckMult))
  | 2 =>
    (refMon s i).origin.map (fun c =>
      let (n, f) := seqOf s
      nearGrid (x + offsetOf s k.vidOffset - c * onePeriod) (n * onePeriod) (if line then f * k.vidLines.toNat else f))
  | 3 =>
    let y := x + offsetOf s k.ppsOffset
    if s.clocks.taiValid then
      some (nearGrid (y - (mtNat s.clocks.anchorMt * onePeriod / 65536 : Nat)) (rateHz s.clocks.rate * onePeriod) 1)
    else some (nearGrid y onePeriod 1)
  | 4 => some (nearGrid (x + offsetOf s k.darsOffset) onePeriod (2 ^ k.darsMult))
  | 5 => (groveLink s i).map (fun l =>
      let p := if (link s l).pathA.state = .up then (link s l).pathA else (link s l).pathB
      p.offsetPs.toInt * rateHz s.clocks.rate - s.grove.countErr * onePeriod)
  | _ => none

/-- The sequence origin of a video entry: of the VREF_V edges of the first sequence after it qualified, the one whose position plus
VID_OFFSET lies nearest a base-period boundary (R101). -/
def seekOrigin (s : State) (i : Nat) (x : Int) (m : RefMon) : RefMon :=
  if refType s i ≠ 2 || m.origin.isSome || decide (m.state ≠ .qualified) then m
  else
    let y := x + offsetOf s s.cfg.clocks.vidOffset
    let d := (nearGrid y onePeriod 1).natAbs
    let c := ((2 * y + onePeriod).fdiv (2 * onePeriod)).toNat
    let best := match m.nearest with
      | some b => if d < b.1 then (d, c) else b
      | none => (d, c)
    if (seqOf s).2 ≤ m.tried + 1 then { m with origin := some best.2, tried := 0, nearest := none }
    else { m with tried := m.tried + 1, nearest := some best }

/-! ## MCPLL (R96 to R99, R106 to R112) -/

/-- Drop the newest `n` base periods of a history. -/
def histSkip : Nat → List (Nat × Option Int) → List (Nat × Option Int)
  | _, [] => []
  | n, (k, w) :: l => if k ≤ n then histSkip (n - k) l else (k - n, w) :: l

/-- The newest LOCKED base periods of a history, at most `n`. -/
def histTake : Nat → List (Nat × Option Int) → List (Nat × Option Int)
  | _, [] => []
  | n, (k, w) :: l =>
    if n = 0 then []
    else match w with
      | none => (k, none) :: histTake n l
      | some w => (min k n, some w) :: histTake (n - k) l

/-- The average word of the LOCKED base periods of a history; none where it has none. DESIGN CHOICE (notes/assumptions/70): rounded
toward −∞. -/
def histMean (l : List (Nat × Option Int)) : Option Int :=
  let n := l.foldl (fun a x => if x.2.isSome then a + x.1 else a) 0
  if n = 0 then none else some (l.foldl (fun (a : Int) x => a + x.1 * x.2.getD 0) 0 / n)

/-- One base period more of history: as much as R108 can ask for is kept. -/
def histPush (r : Nat) (w : Option Int) (l : List (Nat × Option Int)) : List (Nat × Option Int) :=
  let l := match l with
    | (k, v) :: l => if v = w then (k + 1, v) :: l else (1, w) :: (k, v) :: l
    | [] => [(1, w)]
  histTake (302 * r) l

/-- The word that HOLDOVER keeps: the average of the last HOLD_AVG_S seconds of LOCKED operation that end 1 s ago, or the nominal word
(R108). -/
def holdWord (s : State) : Int :=
  let r := rateHz s.clocks.rate
  (histMean (histTake (s.cfg.clocks.holdAvgS.toNat * r) (histSkip r s.clocks.hist))).getD 0

/-- MCPLL enters HOLDOVER and keeps `w`. -/
def holdAtWord (s : State) (w : Int) : State :=
  detect (setClocks s (fun c => { c with mcpll := .holdover, active := none, holdAt := c.mt, holdPpb := w, nearSince := none, offSince := none }))
    0x1005 devUnit 0

def holdover (s : State) : State := holdAtWord s (holdWord s)

/-- ACQUIRE of the active entry begins: 10 Hz until the frequency error is below 1 ppm, then slewing (R96, R109). -/
def acquire (s : State) (i : Nat) : State :=
  let m := refMon s i
  setClocks s (fun c => { c with
    mcpll := .acquire, coarse := true, nearSince := none, offSince := none, acqEdges := 0, phasePs := m.phasePs, refPpb := m.freqPpb })

/-- MCPLL is steered by the chosen entry from now on; a change is counted and recorded (R106 to R109, R131). `old` is the
code of the entry that steered before. DESIGN CHOICE (notes/assumptions/127): SWITCH_COUNT counts every entry that begins to steer, the
first one and the one after a HOLDOVER included, and no entry into HOLDOVER. -/
def steerFrom (s : State) (old : Word) : State :=
  match refChoice s with
  | some i =>
    if s.clocks.active = some i && decide (old = refCode s i) then s
    else
      let (n, o) := satInc s.clocks.switchCount
      let s := acquire (setClocks s (fun c => { c with active := some i, switchCount := n, switchOvf := c.switchOvf || o })) i
      detect s 0x1004 devUnit (old ++ refCode s i)
  | none =>
    if s.clocks.active.isSome || (s.clocks.forceHold && decide (s.clocks.mcpll ≠ .holdover)) then holdover s else s

def steer (s : State) : State := steerFrom s (activeCode s)

/-- A change of BANDWIDTH, PULL or an offset takes a steered MCPLL to ACQUIRE (R97, R109, R133). -/
def reacquireRef (s : State) : State :=
  match s.clocks.active with
  | some i => acquire s i
  | none => s

/-- A member that takes over as Root goes on with its word as if in HOLDOVER, and then with its first qualified local entry; a member
that joins or yields follows the grove (R111). -/
def rootSteers (s : State) : State :=
  match s.clocks.active with
  | some i => if refType s i = 5 ∧ s.grove.role = .root then steer (holdAtWord s s.clocks.ntoPpb) else steer s
  | none => steer s

/-- The pull limits in parts per billion, below and above nominal (R99). -/
def pullBelow (s : State) : Int := if s.cfg.clocks.pull = 0 then 500000 else 40000000
def pullAbove (s : State) : Int :=
  if s.cfg.clocks.pull = 0 then 500000 else if s.clocks.rate = 2 then 10000000 else 40000000

/-- `x` kept between `lo` and `hi`. -/
def clampInt (lo hi x : Int) : Int := max lo (min hi x)

/-- The loop bandwidth in tenths of 1 Hz: 10 Hz while ACQUIRE is coarse, at most 0.5 Hz under a BUFFER entry, else BANDWIDTH (R96,
R112). -/
def loopTenths (s : State) : Nat :=
  let set := match s.cfg.clocks.bandwidth with
    | 0 => 1
    | 1 => 5
    | 2 => 20
    | _ => 100
  match s.clocks.active with
  | some i => if refType s i = 6 then min set 5 else if decide (s.clocks.mcpll = .acquire) && s.clocks.coarse then 100 else set
  | none => set

/-- A member whose upstream's count or boundary is off slews at 100 ppm until the counts are equal and θ is below 100 ns (R417). -/
def realigns (s : State) (i : Nat) : Bool :=
  decide (refType s i = 5) && (decide (s.grove.countErr ≠ 0) || decide (100000 ≤ s.clocks.phasePs.natAbs))

/-- The rate of slewing, in ppb: SLEW_PPM, or 100 ppm while a member realigns (R109, R417). -/
def slewPpb (s : State) (i : Nat) : Int := if realigns s i then 100000 else s.cfg.clocks.slewPpm.toNat * 1000

/-- The word that MCPLL moves toward (R96, R108, R109, R112): the held one; the loop filter's; or, when ACQUIRE slews or a member realigns, the
reference's frequency less or more at most the rate of slewing, and no more than what is left of the phase takes. -/
def wantedWord (s : State) : Int :=
  let c := s.clocks
  match c.mcpll, c.active with
  | .freerun, _ => 0
  | .holdover, _ | _, none => c.holdPpb
  | m, some i =>
    if refType s i = 6 then
      Config.bufferWord (loopTenths s) ((port s (refUnit s i)).fill.toNat - 256 * s.cfg.clocks.bufTarget.toNat : Int) c.ntoPpb
    else if realigns s i || (decide (m = .acquire) && !c.coarse) then
      let d := min (slewPpb s i) (c.phasePs.natAbs * rateHz c.rate / 1000 : Nat)
      if 0 < c.phasePs then c.refPpb - d else c.refPpb + d
    else Config.loopWord (loopTenths s) c.refPpb c.ntoPpb c.phasePs

/-- A phase error of at most 100 ns (R96). DESIGN CHOICE (notes/assumptions/160): while the origin of a video reference is sought there is no
phase error to be small. -/
def phaseNear (s : State) (ps : Int) : Bool :=
  decide (ps.natAbs ≤ 100000) && !s.clocks.active.any (fun i => decide (refType s i = 2) && (refMon s i).origin.isNone)

/-- The same within the pull range, which binds what MCPLL follows and not the word that HOLDOVER keeps (R99, R108). -/
def aimedWord (s : State) : Int :=
  if s.clocks.mcpll = .holdover then s.clocks.holdPpb else clampInt (-pullBelow s) (pullAbove s) (wantedWord s)

/-- A base period of MCPLL: its word moves by at most 10 ppm per ms, also back into a pull range made narrower (R98, R99), the phase
difference changes by what MCLK runs off the reference, and the history grows. -/
def mcpllTick (s : State) : State :=
  let c := s.clocks
  let r := rateHz c.rate
  let most : Int := (10000000 / r : Nat)
  let w := c.ntoPpb + clampInt (-most) most (aimedWord s - c.ntoPpb)
  let follows := decide (c.mcpll = .acquire ∨ c.mcpll = .locked) && c.active.any (fun i => decide (refType s i ≠ 6))
  let ph := if follows then c.phasePs + (w - c.refPpb) * 1000 / r else c.phasePs
  let near := phaseNear s ph
  { s with clocks := { c with
      ntoPpb := w, phasePs := ph
      coarse := c.coarse && decide (1000 ≤ (c.refPpb - w).natAbs) && follows
      nearSince := if near then some (c.nearSince.getD c.mt) else none
      acqEdges := if near then c.acqEdges else 0
      hist := histPush r (if c.mcpll = .locked then some w else none) c.hist } }

/-- A disqualified entry: its state, its record (0x1001 to 0x1003), and the fallback (R104, R106). -/
def disqualify (s : State) (i : Nat) (st : RefState) (code : Nat) (inj : Bool) : State :=
  let s := setRefMon s i { state := st }
  steer (detectAs s code i (BitVec.setWidth 32 (refCode s i)) inj)

/-- A stop of a reference: disqualified at once (R104). -/
def refStop (s : State) (i : Nat) (inj : Bool) : State :=
  if refType s i = 0 || refType s i = 6 || decide ((refMon s i).state = .stopped) then s
  else disqualify s i .stopped 0x1001 inj

/-- A clock loss, underrun or overrun of port `p` disqualifies the BUFFER entry that names it (R112). -/
def bufferOff (s : State) (p : Nat) : State :=
  match (List.range 8).find? (fun i => decide (refType s i = 6) && decide (refUnit s i = p) &&
      decide ((refMon s i).state = .qualified ∨ (refMon s i).state = .qualifying)) with
  | some i => steerFrom (setRefMon s i { state := .stopped }) (activeCode s)
  | none => s

/-- A port that may be a BUFFER reference: a SAP with slave frame sync or an AES3 receiver, not FOREIGN (R342). -/
def bufferPort (s : State) (p : Nat) : Bool := (fsSlave s p || aesReceives s p) && decide ((portCfg s p).rate ≠ 4)

/-- A BUFFER entry's port has its clock and holds 1 to 7 frames (R112). -/
def bufferFits (s : State) (i : Nat) : Bool :=
  let q := port s (refUnit s i)
  bufferPort s (refUnit s i) && decide (q.state = .run) && decide (256 ≤ q.fill.toNat) && decide (q.fill.toNat ≤ 7 * 256)

/-- The fill of BUFFER entries that are not qualified, watched at every base-period boundary (R112). -/
def bufferWatch (s : State) : State :=
  (List.range 8).foldl (fun s i =>
    let m := refMon s i
    if refType s i ≠ 6 || decide (m.state = .qualified) then s
    else if bufferFits s i then
      (if m.conforming = 0 then setRefMon s i { m with state := .qualifying, conforming := 1, since := now s } else s)
    else if m.conforming = 0 then s else setRefMon s i { m with state := .stopped, conforming := 0 }) s

/-! ## Output pins (R126, R129, R130) -/

/-- k of WCK_OUT (R126). -/
def wckMul (m : Nat) : Nat := if m = 0 then 1 else 2 ^ (m - 1)

/-- The MCLK cycle of the base period, 0 to 511, and whether its first half runs. -/
def mclkCycle (s : State) : Nat × Bool := ((now s).phase.toNat / 128, decide ((now s).phase.toNat % 128 < 64))

/-- Clock outputs are driven: not in reset or BOOTING, and while the media clock runs (R130). -/
def clockOutsOn (s : State) : Bool := decide (s.power.dev ≠ .booting) && !s.power.held && !s.clocks.xoLost

/-- The level of MCLK_OUTn: MCLK ÷ d, high for the first half of its period (R126). -/
def mclkOutHigh (s : State) (n : Nat) : Bool :=
  let m := tget 0 s.clocks.clkoutApplied.mclkOut n
  let d := 2 ^ (m - 1)
  let at' := ((mclkCycle s).1 + d - tget 0 s.clocks.outPhase n % d) % d
  clockOutsOn s && decide (m ≠ 0) && (if d = 1 then (mclkCycle s).2 else decide (at' < d / 2))

/-- The level of WCK_OUT: k × base rate, with 50 % duty or as a pulse of one MCLK cycle (R126). -/
def wckOutHigh (s : State) : Bool :=
  let k := s.clocks.clkoutApplied
  let d := 512 / wckMul k.wckMode
  let at' := ((mclkCycle s).1 + d - s.clocks.wckPhase % d) % d
  clockOutsOn s && decide (k.wckMode ≠ 0) && (if k.wckDuty = 1 then decide (at' = 0) else decide (at' < d / 2))

/-- The level of PPS_OUT: 1 ms from a pulse's boundary (R129). -/
def ppsOutHigh (s : State) : Bool :=
  clockOutsOn s && s.clocks.ppsLast.any (fun l => decide (mtDiff ⟨l, 0⟩ (now s) * 1000 < rateHz s.clocks.rate * 65536))

end Sys2Proof.Machine
end

