-- ==== Sys2Proof/Machine/Frames.lean ====
section
/-! DEFINITION. Sequencing commands: frames and their stages, the schedule lock, interrupts and breaks, the base-period
boundary, base-rate arms (R17, R43, R45, R53 to R57, R66, R75 to R79, R81 to R88, R129, R164 to R171, R253, R296 to R301). -/
namespace Sys2Proof.Machine

/-- The earliest result in flight on an engine that no longer issues lands (R146, R147, R56); none lands at cycle U or later. -/
def execResultLand (e : Fin 32) (s : State) : Outc :=
  let n := e.val
  let g := eng s n
  if g.stage = .program then ok s
  else
    match g.ctx.inflight with
    | [] => ok s
    | f :: l =>
      let c := l.foldl (fun m f => min m f.due) f.due
      if !freeRun g && decide (usable (engClass s n) ≤ c) then ok (discard s n) else ok (landUpTo s n c)

/-! ## The end of a frame (R54, R168, R170, R298, R300) -/

/-- Issue stops at cycle U: a frame without an END faults with DEADLINE; in a fade frame whose old run never ended, the new
run has not ended either (R168). -/
def deadline (s : State) (n : Nat) : State :=
  let once (s : State) : State := if (eng s n).stage = .program then engFault s n { cause := 5 } else s
  once (once s)

/-- The crossfade of the two runs' final values, over both buffers' words (R298, R300). -/
def fadeOut (f : Fade) (i : Nat) (old new : Tbl Word) : Tbl Word :=
  let g := gainNew f.curve i f.frames
  (List.range 1024).foldl (fun t k =>
    let o := bufLong old k
    let v := if f.newFaulted then o else crossfade g o (bufLong new k)
    tset 0 (tset 0 t (2 * k) (v.extractLsb' 16 16)) (2 * k + 1) (v.extractLsb' 0 16)) []

/-- A frame-mode frame is judged: what the boundary will publish, EFAULT.RUN and PFLT, and the fault policy (R170, R300). -/
def settle (s : State) (n : Nat) : State :=
  let e := eng s n
  let s := modEng s n (fun e => { e with stage := .none, stAtEnd := st e.ctx })
  if saplMode e then modEng s n (fun e => { e with pflt := e.faulted, faulted := false })
  else
    match e.fade with
    | some f =>
      let oldC := if e.newRun then e.alt else e.ctx
      let newC := if e.newRun then e.ctx else e.alt
      let old := if f.oldFaulted then f.oldPub else oldC.outCur
      let out := fadeOut f (fadeIndex s n f) old newC.outCur
      let s := modEng s n (fun e => { e with
        nextPub := some out, ctx := oldC, alt := newC, newRun := false, faulted := false
        pflt := f.oldFaulted || (f.newFaulted && e.pflt)
        faultRun := if f.newFaulted || f.oldFaulted then e.faultRun else 0
        fade := some { f with done := f.done + 1, oldPub := old } })
      if f.oldFaulted && (decide (engPolicy s n = 1) || decide (4 ≤ (eng s n).faultRun)) then quarantine s n else s
    | none =>
      let s := modEng s n (fun e => { e with
        nextPub := some (if e.faulted then e.pub else e.ctx.outCur)
        pflt := e.faulted, faultRun := if e.faulted then e.faultRun else 0 })
      let s := if e.faulted && (decide (engPolicy s n = 1) || decide (4 ≤ (eng s n).faultRun)) then quarantine s n else s
      modEng s n (fun e => { e with faulted := false })

/-- Every delay descriptor's HEAD advances by one (R253). -/
def advanceHeads (t : Tbl Desc) : Tbl Desc :=
  t.foldl (fun t kv => if kv.2.len = 0 then t else tset {} t kv.1 { kv.2 with head := (kv.2.head + 1) % kv.2.len }) t

/-- The completion mt of a fade (R298). -/
def fadeEnd (s : State) (n : Nat) (f : Fade) : MT := mtPlus f.start (f.frames * frameUnits (engClass s n))

/-- A fade that ends at or before boundary `t`: by a fault of its new run, an abort's effect or its completion (R298 to R301). -/
def fadeAt (s : State) (n : Nat) (t : MT) : State :=
  match (eng s n).fade with
  | none => s
  | some f =>
    if f.newFaulted then endFade s n 5
    else match f.abort with
      | some (b, rev) =>
        if isDue t b then endFade s n (if rev then 4 else 3)
        else if isDue t (fadeEnd s n f) then endFade s n 1 else s
      | none => if isDue t (fadeEnd s n f) then endFade s n 1 else s

/-- The pending actions of engine `n` whose target is `t` or earlier are applied (R54, R66). -/
def applyFor (s : State) (n : Nat) (t : MT) : State :=
  applyWhere s (fun x => (touched s x.act).contains n && isDue t x.target)

/-- The sequencer starts a frame of this engine at its next boundary (R164, R167, R171). -/
def runsNext (e : Engine) : Bool :=
  match e.state with
  | .run => !e.breakReq && !e.breakHit
  | .debug => e.stepReq
  | .sapling => e.running && !freeRun e
  | _ => false

/-- RELEASE at a boundary: the program starts from its image and its outputs ramp from zero (R171). -/
def applyRelease (s : State) (n : Nat) : State :=
  let e := eng s n
  if decide (e.state = .quarantined) && e.releaseReq then
    let s := startImage s n
    let s := modEng s n (fun e => { e with state := .run, releaseReq := false, outFade := some (rampFromZero 64) })
    detect s 0x2011 n 0
  else s

/-- The Prepare stage for the frame that starts at `t` (R52 to R54, R296). -/
def prepare (s : State) (n : Nat) (t : MT) : State :=
  let s := applyRelease s n
  modEng s n (fun e =>
    if !runsNext e then e
    else
      let ctr := if e.prepared then e.frameCtr else e.frameCtr + 1
      let entry := if e.fade.isSome then e.standby.entry else e.active.entry
      { e with
        ctx := freshRun e.ctx entry, frameCtr := ctr, ctrLatch := ctr.extractLsb' 16 16, mtFrame := t
        faulted := false, newRun := false, prepared := true
        fade := e.fade.map (fun f => { f with oldFaulted := false, newFaulted := false }) })

/-- A fault of this frame: what it stored is not what the boundary publishes (R170, R300). -/
def frameFaulted (e : Engine) : Bool :=
  match e.fade with
  | some f => f.oldFaulted || f.newFaulted
  | none => e.faulted

/-- The frame that ends is drained and judged; one that faulted gives its consumers what the boundary publishes, in place of what it
stored (R54, R170, R300). -/
def endFrame (s : State) (n : Nat) : State :=
  let s := deadline s n
  let s := discard (landUpTo s n (usable (engClass s n) - 1)) n
  let bad := frameFaulted (eng s n)
  let s := modEng (settle s n) n (fun e => { e with
    ctx := { e.ctx with descs := advanceHeads e.ctx.descs }
    alt := { e.alt with descs := advanceHeads e.alt.descs } })
  if bad then mirrorPub s n else s

/-- Outputs that no stores bring to their consumers: those under a fade or ramp, and those that an engine in DEBUG repeats
(R38, R167, R171). -/
def repeatOutputs (s : State) (n : Nat) : State :=
  let e := eng s n
  if e.outFade.isSome || (decide (e.state = .debug) && decide (e.stage = .none)) then mirrorPub s n else s

/-- Drain, Apply and Prepare of the frame that ends at boundary `t` (R54). -/
def closeFrame (s : State) (n : Nat) (t : MT) : State :=
  let s := if decide ((eng s n).stage ≠ .none) && !freeRun (eng s n) then endFrame s n else s
  let s := fadeAt (repeatOutputs s n) n t
  let s := applyFor s n t
  prepare s n t

/-- The frame boundary that follows mt `t` for a class. -/
def nextBoundary (c : Nat) (t : MT) : MT := boundaryFrom c (mtPlus t 1)

/-- Frames run: ECLK does, and after a gap its first base-period boundary has come (R77, R78). -/
def framesRun (s : State) : Bool := s.clocks.gateOpen && !s.clocks.restart

/-- FRAME_END: at cycle U issue stops; Drain, Apply and Prepare run. It belongs to the last base period of a frame. -/
def execFrameEnd (e : Fin 32) (s : State) : Outc :=
  let n := e.val
  let c := engClass s n
  let t := nextBoundary c (now s)
  if !framesRun s || (decide (4 ≤ c) && decide (t.count ≠ (now s).count + 1)) || (eng s n).prepared then ok s
  else ok (closeFrame s n t)

/-! ## The boundary (R14, R17, R54, R57) -/

/-- The start of the frame whose outputs an engine of class `c` has published last at mt `t` (R61). -/
def publishedStart (c : Nat) (t : MT) : MT := mtOf ((mtNat t / frameUnits c * frameUnits c + 2 ^ 80 - frameUnits c) % 2 ^ 80)

/-- What decides whether a route carries the sample that an engine of class `c` reads in its frame starting at `f` (R32, R59 to R61): the
inbound stamp, or for an engine source the start of the producer's frame, whose outputs a sub-rate engine reads as they stand one base
period before its frame, another one frame before its own. -/
def inputKey (s : State) (r : Route) (c : Nat) (f : MT) : MT :=
  if epKind r.source = 1 then publishedStart (engClass s (epUnit r.source)) (mtMinus f (if 4 ≤ c then 65536 else frameUnits c))
  else mtMinus f 65536

/-- `t` lies at or after `a`. -/
def notBefore (a t : MT) : Bool := !inFuture t a

/-- An entry whose samples are presented at `t`: its subscription is in effect (R28, R426). -/
def presents (x : Stream) (t : MT) : Bool := holdsStream x && x.effectiveAt.all (fun b => notBefore b t)

/-- An input long of engine `n` that a route, the rest of a removed one, or a stream feeds for the frame starting at `f`
(R32). -/
def fedInput (s : State) (n idx : Nat) (f : MT) : Bool :=
  let c := engClass s n
  let feeds (dest : Long) (count : Nat) : Bool :=
    decide (epKind dest = 1) && decide (epUnit dest = n) && decide (epFirst dest ≤ idx) && decide (idx < epFirst dest + count)
  s.routes.any (fun kv => routeLive kv.2 && feeds kv.2.dest kv.2.channels && notBefore kv.2.since (inputKey s kv.2 c f)) ||
    s.tails.any (fun r => feeds r.1.dest r.1.channels && notBefore r.1.since (inputKey s r.1 c f) && inFuture (inputKey s r.1 c f) r.2) ||
    (plays s).any (fun kv => presents kv.2 f && feeds kv.2.dest kv.2.sdef.channels)

/-- Both pairs of exchange buffers swap; of a fade's two runs, each its own output pair (R17, R297). Longs that nothing
feeds read 0 from then on. -/
def swapBuffers (s : State) (n : Nat) : State :=
  let f := nextBoundary (engClass s n) (now s)
  modEng s n (fun e => { e with
    inCur := e.inAlt
    inAlt := e.inCur.filter (fun kv => fedInput s n (kv.1 / 2) f)
    ctx := { e.ctx with outCur := e.ctx.outAlt, outAlt := e.ctx.outCur }
    alt := { e.alt with outCur := e.alt.outAlt, outAlt := e.alt.outCur } })

/-- The boundary publishes what the ended frame left, and a fade of the outputs is one sample further. -/
def publish (e : Engine) : Engine :=
  { e with pub := e.nextPub.getD e.pub, nextPub := none, outFade := outNext e }

/-- An engine detector's firing, before cycle 0 issues (R515): a fault of cause 1 to 7, an accumulator overflow, or a fault of
cause TRAP in a fade's new run, whose terms the frame then lacks (R138, R300, R513). -/
def injectStart (s : State) (n low trap : Nat) : State :=
  let e := eng s n
  if low = 0x12 then
    if e.ovf then suppress s else detectAs (modEng s n (fun e => { e with ovf := true })) 0x2012 n ((st e.ctx).setWidth 32) true
  else if low = 0x14 then
    let (fc, fo) := satInc e.faultCount
    let pc := BitVec.ofNat 16 e.active.entry
    detectAs (modEng s n (fun e => { e with
      faultCause := 7, faultArg := trap, faultAddr := 0, faultPc := pc, faultCount := fc, faultOvf := e.faultOvf || fo
      lastCause := 7, lastPc := pc, lastFrame := e.frameCtr, fade := e.fade.map (fun fd => { fd with newFaulted := true }) })) 0x2014 n 7 true
  else if e.faulted then suppress s
  else engFault s n { cause := low, arg := trap } true

/-- Cycle 0 of a prepared frame; an injected fault strikes before it (R515). -/
def startFrame (s : State) (n : Nat) : State :=
  let e := eng s n
  if e.prepared && runsNext e then
    let s := modEng s n (fun e => { e with
      stage := .program, prepared := false, breakHit := false
      stepReq := if e.state = .debug then false else e.stepReq })
    e.injFaults.foldl (fun s x => injectStart s n x.1 x.2) (modEng s n (fun e => { e with injFaults := [] }))
  else s

/-- FRAME_BOUNDARY: buffers swap, outputs are published, the next frame's cycle 0 issues. -/
def execFrameBoundary (e : Fin 32) (s : State) : Outc :=
  let n := e.val
  let t := now s
  if !framesRun s || !isBoundary (engClass s n) t || freeRun (eng s n) || decide ((eng s n).boundaryAt = some t) then ok s
  else
    let s := if (eng s n).stage ≠ .none then closeFrame s n t else if (eng s n).prepared then s else applyFor (fadeAt (repeatOutputs s n) n t) n t
    let s := prepare s n t
    let s := swapBuffers s n
    let s := modEng s n (fun e => { publish e with boundaryAt := some t })
    ok (startFrame s n)

/-! ## Lock, interrupts and breaks (R75, R166, R167, R310) -/

/-- Entries whose target is at most one base period away are locked, with their groups and grafts (R75, R310). -/
def execScheduleLock (s : State) : Outc :=
  let near (x : Sched) : Bool := isDue (mtPlus (now s) 65536) x.target
  let due := s.clocks.sched.filter near
  let s := { s with clocks := { s.clocks with sched := s.clocks.sched.map (fun x => if near x then { x with locked := true } else x) } }
  ok (due.foldl (fun s x =>
    match x.act with
    | .commit g n =>
      let s := if (group s g).state = .armed then setGroup s g { group s g with state := .locked } else s
      modEng s n (fun e => { e with graft := e.graft.map (fun a => if a.group = g then { a with locked := true } else a) })
    | .graft n => modEng s n (fun e => { e with graft := e.graft.map (fun a => { a with locked := true }) })
    | _ => s) s)

/-- A pending interrupt may be taken now: the next word is interruptible and no handler runs (R166). -/
def mayInterrupt (s : State) (n : Nat) : Bool :=
  let e := eng s n
  saplMode e && decide (e.stage = .program) && interruptible e.ctx && !e.inh && s.clocks.gateOpen

/-- A host service request is taken, once (notes/assumptions/131): IRA, INH, and program word 0x0010 two cycles later (R166). -/
def execHostServiceInterrupt (e : Fin 32) (s : State) : Outc :=
  let n := e.val
  let g := eng s n
  if mayInterrupt s n && g.hsrWait && g.ctx.emode.getLsbD 3 then
    ok (modEng (landAll s n) n (fun g => { g with
      ira := BitVec.ofNat 16 g.ctx.pc, inh := true, hsrWait := false
      ctx := { g.ctx with pc := 0x0010, cycle := g.ctx.cycle + 2 } }))
  else ok s

/-- A debug break is taken: HALTED in Sapling mode, DEBUG after the frame in frame mode (R166, R167, R495). -/
def execDebugBreakTaken (e : Fin 32) (s : State) : Outc :=
  let n := e.val
  let g := eng s n
  if saplMode g then
    if mayInterrupt s n && (g.breakReq || decide (g.breakAddr = some g.ctx.pc)) then
      ok (modEng (haltAt s n g.ctx.pc true) n (fun g => { g with breakReq := false, breakHit := false }))
    else ok s
  else if decide (g.state = .run) && decide (g.stage = .none) && (g.breakReq || g.breakHit) then
    ok (modEng (endFade s n 3) n (fun g => { g with state := .debug, breakReq := false, breakHit := false }))
  else ok s

/-! ## Base-rate arms (R81, R84, R88) -/

/-- An arm of a scheduled action is judged by its target: TOO_LATE past its cutoff; WRONG_STATE while DORMANT (R69 to R73, R477). -/
def armLate (s : State) (t : MT) : Option Word := if inTime (now s) t then none else some eLate

/-- While the device is DORMANT every arm is refused (R477). -/
def dormant (s : State) : Bool := decide (s.power.dev = .dormant)

/-- A loaded image that declares a base rate other than the new one (R84). -/
def imageBars (next : Nat) (b : ProgBank) : Bool := decide (b.codeWords ≠ 0) && decide (b.family ≠ 0xFF) && decide (b.family ≠ next)

/-- R81's range of BASE_RATE.TARGET: 0, or a whole number of seconds of media time. -/
def rateTargetOk (s : State) (t : MT) : Bool :=
  decide (t = MT.zero) || (decide (t.phase = 0) && decide (t.count.toNat % rateHz s.clocks.rate = 0))

/-- BASE_RATE.TARGET (R81, R84, R88). DESIGN CHOICE (notes/assumptions/125): 0 with no change armed is answered OK and changes nothing;
with two armed it cancels the one whose target the element shows, which then shows the other; and of several grounds to refuse,
WRONG_STATE of a member that is not the Root comes before TOO_LATE, and that before WRONG_STATE of DORMANT and of R84, CONFLICT and
NO_CAPACITY, in that order. -/
def execBaseRateArm (r : Req) (target : MT) (s : State) : Outc :=
  let c := s.clocks
  ok (writeCmd s r { obj := 0x0201, role := custodian
                     range := rateTargetOk s target } (fun s =>
    if joinedGrove s && decide (s.grove.role ≠ .root) then .error eState
    else if target = MT.zero then
      match c.rateTarget with
      | none => .ok s
      | some t =>
        if inTime (now s) t then
          let s := schedDrop s (fun x => decide (x.target = t) && (match x.act with
            | .baseRate _ => true
            | _ => false))
          .ok { s with clocks := { s.clocks with rateTarget := lastRateTarget s.clocks.sched } }
        else .error eLate
    else if !inTime (now s) target then .error eLate
    else if dormant s then .error eState
    else if s.engines.any (fun kv => imageBars c.next kv.2.active || imageBars c.next kv.2.standby) then .error eState
    else if schedTaken s target (.baseRate c.next) then .error eConflict
    else if !schedRoom s 1 then .error eCapacity
    else
      let s := schedAdd s target [.baseRate c.next]
      .ok { s with clocks := { s.clocks with rateTarget := some target } }))

/-! ## The base-period boundary -/

/-- `a` lies after `b`, or there is no `b`. -/
def after (b : Option MT) (a : MT) : Bool :=
  match b with
  | none => false
  | some b => inFuture b a

/-- One more on a saturating counter of a port, by its element number 0x05 to 0x0A. -/
def portCount (s : State) (p elem : Nat) : State :=
  let q := port s p
  let (t, o) := bump q.counts q.ovf elem (elem - 5)
  setPort s p { q with counts := t, ovf := o }

/-- A pulse of PPS_OUT begins at boundary `t`; in mode 2 none begins less than 0.5 s after the previous one (R129). -/
def ppsOut (s : State) (t : MT) : State :=
  let c := s.clocks
  let r := rateHz c.rate
  let anchor := if c.taiValid then c.anchorMt.count else 0
  let second := decide (((t.count.toNat : Int) - anchor.toNat) % r = 0)
  let spaced := !c.ppsLast.any (fun l => decide (2 * (t.count - l).toNat < r))
  let on := (decide (c.clkoutApplied.ppsMode = 2) && spaced) || (decide (c.clkoutApplied.ppsMode = 1) && c.taiValid)
  if decide (s.power.dev ≠ .booting) && on && second then { s with clocks := { c with ppsLast := some t.count } } else s

/-! ## Inbound link slots (R374, R376, R392) -/

/-- m′ of a stream class: slots per channel (R374, R425). -/
def slotsPer (cls : Nat) : Nat := if cls ≤ 3 then 2 ^ (3 - cls) else 1

/-- Slots of a map that belong to stream entry `e`, in ascending order. -/
def entrySlots (m : Tbl Nat) (e : Nat) : List Nat := tkeys (fun v => decide (v = e + 1)) m

/-- m′ and the sample index j of a mapped slot. -/
def slotPos (s : State) (m : Tbl Nat) (slot : Nat) : Nat × Nat :=
  match tget 0 m slot with
  | 0 => (1, 0)
  | e + 1 =>
    let k := slotsPer (playing s e).sdef.cls
    (k, ((entrySlots m e).takeWhile (fun x => decide (x ≠ slot))).length % k)

/-- A fade or ramp `n` samples further. -/
def faderBy (f : Fader) (n : Nat) : Fader := { f with done := min f.len (f.done + n) }

/-- The slot of the sample before a mapped slot's in its channel: that of sample j − 1, or for the first of a base period the last. -/
def slotBefore (s : State) (m : Tbl Nat) (slot : Nat) : Nat :=
  match tget 0 m slot with
  | 0 => slot
  | e + 1 =>
    let l := entrySlots m e
    let i := (l.takeWhile (fun x => decide (x ≠ slot))).length
    let k := slotsPer (playing s e).sdef.cls
    l.getD (if i % k = 0 then i + k - 1 else i - 1) slot

/-- The sample after `p` in a channel of `m` samples a base period, where it is lost: for 3 base periods the last valid sample, then a fade
over 64 samples, then zero (R392). -/
def slotLost (m : Nat) (p : RxSlot) : RxSlot :=
  let n := p.lost + 1
  let f := if n ≤ 3 * m then p.fader
    else (if n = 3 * m + 1 then some (fadeDown p.fader 64) else p.fader).map faderStep
  let g := gainOf f
  { sample := scale p.good g.1 g.2, valid := false, good := p.good, lost := n, fader := f }

/-- The sample after `p` in a channel, where it has come: a channel that had begun fading ramps over 64 samples from the gain that it had
reached to full gain (R392, R546). -/
def slotHere (p : RxSlot) (v : Long) (valid : Bool) : RxSlot :=
  let f := faderNext (p.fader.map (fun f => if f.up then f else rampUp (some f) 64))
  let g := gainOf f
  { sample := scale v g.1 g.2, valid := valid, good := if valid then v else p.good, lost := 0, fader := f }

/-- One more on a counter of LINK_STATUS, by its element 0x05 to 0x0B. -/
def linkCount (s : State) (l elem : Nat) : State :=
  let k := link s l
  let (t, o) := bump k.counts k.ovf elem (elem - 5)
  setLink s l { k with counts := t, ovf := o }

/-- Every mapped slot of a link takes its substitute; SLOT_SUBST counts them. -/
def loseSlots (s : State) (l : Nat) : State :=
  let k := link s l
  k.rxMap.foldl (fun s kv =>
    let x := link s l
    let (t, o) := bump x.counts x.ovf 0x08 3
    let v := slotLost (slotPos s k.rxMap kv.1).1 (tget {} x.rx (slotBefore s k.rxMap kv.1))
    setLink s l { x with rx := tset {} x.rx kv.1 v, counts := t, ovf := o }) s

/-- The target of an engine's armed graft: its own, or its group's once that is armed (R289). -/
def graftTarget (s : State) (e : Engine) : Option MT :=
  e.graft.bind (fun g => if g.group = 0 then some g.target else (group s g.group).target)

/-- An IDLE engine's logic is powered from the cutoff of the cut graft that starts it (R475). -/
def powerUp (s : State) (e : Engine) : Engine :=
  if e.state = .idle then
    { e with powered := (graftTarget s e).any (fun t => isDue (mtPlus (now s) (4 * 65536)) t) }
  else e

/-- A frame of an endpoint's engine; none of a block endpoint. -/
def endFrameUnits (s : State) (v : Long) : Nat := if epKind v = 1 then frameUnits (engClass s (epUnit v)) else 0

/-- The rest of a removed route is dropped once no sample stamped before its REMOVE can still be moved (R32). -/
def dropTails (s : State) (t : MT) : State :=
  { s with tails := s.tails.filter (fun r =>
      inFuture t (mtPlus r.2 (2 * 65536 + endFrameUnits s r.1.source + endFrameUnits s r.1.dest))) }

/-- The restart boundary: frames run again; a gap is over with LAST_GAP and its record, a wake from DORMANT ends none (R78, R131). -/
def endGap (s : State) (t : MT) : State :=
  let c := s.clocks
  if !c.restart then s
  else match c.gapStart with
    | some g =>
      let n : Long := BitVec.ofNat 32 (countTo g t)
      detect { s with clocks := { c with restart := false, gapStart := none, lastGap := n } } 0x100A devUnit n
    | none => { s with clocks := { c with restart := false } }

end Sys2Proof.Machine
end

