-- ==== Sys2Proof/Machine/Stamps.lean ====
section
/-! DEFINITION. The samples of a port by stamp: inbound frames, underruns and loss fades, outbound samples, their gains, capture (R24,
R123, R316, R326, R328, R334, R335, R337 to R341, R343). -/
namespace Sys2Proof.Machine

/-- The class-m boundaries after `a`, up to `t`: the last two base periods of them. -/
def stampsAfter (c : Nat) (a t : MT) : List MT :=
  let n := if inFuture a t then mtDiff a t / frameUnits c else 0
  ((List.range n).drop (n - 16)).map (fun j => mtPlus a ((j + 1) * frameUnits c))

/-- Entries older than two base periods are of no further use to the router. -/
def recent (t : MT) (l : List Ready) : List Ready := l.filter (fun x => notBefore (mtMinus t (2 * 65536)) x.stamp)

/-! ## Capture (R341) -/

/-- The capture of a port's samples of one stamp into its ring. Each sample's write covers less than a row, and clears no mark (R261). -/
def capture (s : State) (p : Nat) (r : Ready) : State :=
  let q := port s p
  let chans := (List.range 32).filter (fun i => q.capMask.getLsbD i)
  let c := chans.length
  let packed := decide (q.capForm = 1)
  let w := if packed then 3 * c / 2 else 2 * c
  match s.mem.banks.find? (fun kv => decide (kv.2.kind = 3) && decide (kv.2.id = q.capRing.toNat)) with
  | none => s
  | some kv =>
    if q.capRing = 0xFF || decide (w = 0) then s
    else
      let m := 2 ^ (portCfg s p).rate
      let i := (r.stamp.count.toNat * m + r.stamp.phase.toNat * m / 65536) % (524288 / w)
      let d : Desc := { packed3 := packed, base := i * w, len := c }
      let b := bank s kv.1
      let mem := (chans.zipIdx).foldl (fun mem x => slotWrite mem d x.2 (r.samples.getD x.1 0)) b.mem
      setBank s kv.1 { b with mem := mem }

/-! ## Inbound (R326, R334, R335) -/

/-- What channel `i` brings to a stamp before gain, and the fade of a substitute: the frame's sample, its previous one again, or in a loss
fade the last good one × (32 − k)/32 at the k-th stamp after it. -/
def stampSample (fading : Bool) (f : Option InEntry) (i : Nat) (c : Chan) : Chan × Long × (Nat × Nat) :=
  match f with
  | some f =>
    if f.hold.getD i false then ({ c with ago := c.ago + 1 }, c.last, (1, 1))
    else ({ c with good := f.samples.getD i 0, ago := 0 }, f.samples.getD i 0, (1, 1))
  | none =>
    if fading then ({ c with ago := c.ago + 1 }, c.good, (32 - min 32 (c.ago + 1), 32))
    else ({ c with ago := c.ago + 1 }, c.last, (1, 1))

/-- Channels `i` and on of one inbound stamp under their gains. -/
def stampChans (len : Nat) (t : MT) (ms : Nat) (fading : Bool) (f : Option InEntry) (g : Nat × Nat) : Nat → Nat → Port → Port × List Long
  | 0, _, q => (q, [])
  | k + 1, i, q =>
    let (c, x, d) := stampSample fading f i (chan q false i)
    let (c, y) := chanSample len t ms c d g x
    let (q, ys) := stampChans len t ms fading f g k (i + 1) (setChan q false i c)
    (q, y :: ys)

/-- Inbound samples are moved and captured: ECLK runs, and the device is not in FAULT (R328, R343). -/
def inboundMoves (s : State) : Bool := s.clocks.gateOpen && decide (s.power.dev ≠ .fault)

/-- The samples of inbound stamp `x`, from frame `f` or as substitutes. -/
def deliverStamp (s : State) (p : Nat) (x : MT) (f : Option InEntry) : State :=
  let q := port s p
  let ramp := if q.fading then q.rampIn else q.rampIn.map faderStep
  let (q, ys) := stampChans (rampLen s p) x (portCfg s p).zcTimeoutMs.toNat q.fading f (gainOf ramp) (portChans s p) 0 q
  let r : Ready := ⟨x, f.isSome, ys⟩
  let q := { q with
    lastStamp := some x, inFifo := q.inFifo.filter (fun e => inFuture x e.stamp)
    rampIn := if q.fading then q.rampIn else faderNext q.rampIn
    inReady := if inboundMoves s then recent x q.inReady ++ [r] else q.inReady }
  let s := setPort s p q
  if inboundMoves s then capture s p r else s

/-- An underrun at a stamp, detected at it, or where it is injected now: every inbound channel repeats its last sample (R326, R501). -/
def underrunIn (s : State) (p : Nat) (x : MT) (inj : Bool) : State :=
  let s := deliverStamp s p x none
  detectWhen (bufferOff (portCount s p (if p < 16 then 0x05 else 0x08)) p) (if inj then now s else x) 0x4004 p 0 inj

/-- Inbound stamp `x` of a port: its frame's samples, an underrun of a running port, or the loss fade (R326, R334). -/
def inStamp (s : State) (p : Nat) (x : MT) : State :=
  let q := port s p
  match q.inFifo.find? (fun e => decide (e.stamp = x)) with
  | some f => deliverStamp s p x (some f)
  | none =>
    if q.state = .run then underrunIn s p x false
    else if q.fading then deliverStamp s p x none
    else setPort s p { q with lastStamp := some x }

/-- Every inbound stamp up to `t` of the ports of class m. -/
def portStamps (s : State) (p : Nat) (t : MT) : State :=
  if (portCfg s p).rate = 4 || !hasIn s p then s
  else match (port s p).lastStamp with
    | none => s
    | some a => (stampsAfter (portClass s p) a t).foldl (fun s x => inStamp s p x) s

/-! ## Outbound (R123, R316, R326, R335 to R340) -/

/-- The endpoint of an outbound channel. -/
def outEndpoint (p ch : Nat) : Long :=
  if p < 16 then BitVec.ofNat 32 (2 * 2 ^ 24 + p * 2 ^ 16 + ch) else BitVec.ofNat 32 (3 * 2 ^ 24 + (p - 16) * 2 ^ 16 + ch)

/-- Two runs of indices of one unit overlap. -/
def epOverlap (a : Long) (n : Nat) (b : Long) (m : Nat) : Bool :=
  decide (epKind a = epKind b) && decide (epUnit a = epUnit b) && decide (epFirst a < epFirst b + m) && decide (epFirst b < epFirst a + n)

/-- An admitted route, a stream's source or its destination lies where `at'` says (R345, R352). -/
def usesEndpoint (s : State) (at' : Long → Bool) : Bool :=
  s.routes.any (fun kv => decide (kv.2.state ≠ .free) && (at' kv.2.source || at' kv.2.dest)) ||
    ((s.streams.map (·.2)) ++ s.leaving.map (·.stream)).any (fun x => (x.source && admittedStream x && at' x.sdef.source) || (holdsStream x && at' x.dest))

/-- A route or a stream feeds an endpoint's index. -/
def endpointFed (s : State) (v : Long) : Bool :=
  s.routes.any (fun kv => routeLive kv.2 && epOverlap kv.2.dest kv.2.channels v 1) ||
    (plays s).any (fun kv => presents kv.2 (now s) && epOverlap kv.2.dest kv.2.sdef.channels v 1)

def chanFed (s : State) (p ch : Nat) : Bool := endpointFed s (outEndpoint p ch)

/-- One outbound channel at stamp `t`: the delivered sample; of a fed channel with none, its last one again; of one that nothing feeds,
none. A port that has lost its clock is tested against zero samples (R335). -/
def outChan (len : Nat) (t : MT) (ms : Nat) (run fed : Bool) (v : Option Long) (ramp : Nat × Nat) (c : Chan) : Chan × Option Long :=
  let c := match v with
    | some x => { c with good := x }
    | none => c
  if !run then ((chanSample len t ms c (1, 1) (1, 1) 0).1, none)
  else if v.isSome || fed then
    let (c', y) := chanSample len t ms c (gainOf (c.starve.map faderStep)) ramp c.good
    let c' := { c' with starve := faderNext c'.starve }
    (c', if c'.stopped then none else some y)
  else (chanIdle len t ms c, none)

/-- Channels `i` and on of one outbound stamp. -/
def outChans (s : State) (p : Nat) (t : MT) (run : Bool) (d : Tbl Long) (ramp : Nat × Nat) : Nat → Nat → Port → Port × List (Option Long)
  | 0, _, q => (q, [])
  | k + 1, i, q =>
    let v := (d.find? (fun x => decide (x.1 = i))).map (·.2)
    let (c, y) := outChan (rampLen s p) t (portCfg s p).zcTimeoutMs.toNat run (chanFed s p i) v ramp (chan q true i)
    let (q, l) := outChans s p t run d ramp k (i + 1) (setChan q true i c)
    (q, y :: l)

/-- A SAP's or AES3 port's counter of a kind: 0 underrun in, 1 overrun in, 2 underrun out, 3 overrun out. -/
def xrunElem (p kind : Nat) : Nat := if p < 16 then 5 + kind else 8 + kind % 2

/-- An overrun, inbound (direction 0) or outbound (1). -/
def overrun (s : State) (p dir : Nat) (inj : Bool) : State :=
  bufferOff (detectAs (portCount s p (xrunElem p (1 + 2 * dir))) 0x4005 p (BitVec.ofNat 32 dir) inj) p

/-- Frames that the router delivered and that have waited longer than the one base period in which it delivers a sample after its stamp (R30)
lie in the outbound FIFO. -/
def outWaiting (q : Port) (t : MT) : List OutEntry := q.outReady.filter (fun e => e.came && isDue t (mtPlus e.stamp 65536))

/-- Entries for stamps that the router left empty are no frames: they wait for their edge at most 4 base periods. -/
def dropEmpty (t : MT) (l : List OutEntry) : List OutEntry := l.filter (fun e => e.came || notBefore (mtMinus t (4 * 65536)) e.stamp)

/-- The wire carries zero audio whatever the router delivers (R343). -/
def audioMuted (s : State) : Bool := decide (s.power.dev = .sapling) || decide (s.power.dev = .fault)

/-- Outbound stamp `x` of a port passes its gains; of more than 8 frames that wait, the newer is discarded (R326). While the wire carries zero
audio none waits (R343). -/
def outStamp (s : State) (p : Nat) (x : MT) : State :=
  let q := port s p
  let run := decide (q.state = .run)
  let d := match q.outFifo.find? (fun e => decide (e.1 = x)) with
    | some e => e.2
    | none => []
  let fed := (List.range (portChans s p)).any (chanFed s p)
  let (q, l) := outChans s p x run d (gainOf (q.rampOut.map faderStep)) (portChans s p) 0 q
  let q := { q with outDone := some x, outFifo := q.outFifo.filter (fun e => inFuture x e.1), rampOut := faderNext q.rampOut }
  if !run || audioMuted s then setPort s p { q with outReady := if run then [] else q.outReady }
  else
    let q' := { q with outReady := dropEmpty x q.outReady ++ [⟨x, d.isEmpty && fed && s.clocks.gateOpen, !d.isEmpty, l⟩] }
    match (outWaiting q' x)[8]? with
    | some e => overrun (setPort s p { q' with outReady := q'.outReady.erase e }) p 1 false
    | none => setPort s p q'

/-- Every outbound stamp up to `t` of a port of class m. -/
def outStamps (s : State) (p : Nat) (t : MT) : State :=
  if (portCfg s p).rate = 4 || !hasOut s p then s
  else match (port s p).outDone with
    | none => s
    | some a => (stampsAfter (portClass s p) a t).foldl (fun s x => outStamp s p x) s

/-- A FOREIGN port without its clock has no frames: its channels see one substitute or zero sample a base period (R334, R335, R339).
DESIGN CHOICE (notes/assumptions/143): that pace. -/
def lostForeign (s : State) (p : Nat) (t : MT) : State :=
  let q := port s p
  if decide ((portCfg s p).rate ≠ 4) || decide (q.state = .off) || decide (q.state = .run) then s
  else
    let len := rampLen s p
    let ms := (portCfg s p).zcTimeoutMs.toNat
    let q := (List.range (portChans s p)).foldl (fun q i =>
      let q := setChan q false i (awaitsDue len t ms (chan q false i))
      setChan q true i (chanSample len t ms (awaitsDue len t ms (chan q true i)) (1, 1) (1, 1) 0).1) q
    setPort s p (stampChans len t ms q.fading none (gainOf q.rampIn) (portChans s p) 0 q).1

/-- The stamps of every port up to `t`. -/
def allStamps (s : State) (t : MT) : State :=
  let s := s.ports.foldl (fun s kv => portStamps s kv.1 t) s
  s.ports.foldl (fun s kv => outStamps s kv.1 t) s

end Sys2Proof.Machine
end

