-- ==== Sys2Proof/Machine/Router.lean ====
section
/-! DEFINITION. The exchange router: its sources, the moves of a window, streams (R18 to R24, R30, R32, R38, R39, R59 to R63, R123, R261,
R356, R357, R362, R374 to R378, R392, R393, R416, R425, R426). -/
namespace Sys2Proof.Machine

/-! ## Sources by stamp -/

/-- Converted samples of an ingress side for the media stamp `t`, under the side's ramp or fade (R356, R357, R359, R360). A side that is not
LOCKED fades from its last converted samples, and then gives none. -/
def stageBridge (s : State) (b : Nat) (t : MT) : State :=
  let x := bridge s b
  let c := sideCfg (rbCfg s b) false
  let d := x.ingress
  let live := decide (d.state = .locked)
  if !isBoundary c.cls t || (!live && fadeOver d.fader) then s
  else
    let raw : Tbl Long := if live then tsetRun 0 [] 0 ((List.range c.channels).map (fun i => convert s c false d.delay d.hist i t)) else d.last
    let g := gainOf (d.fader.map faderStep)
    let d := { d with
      last := raw, fader := faderNext d.fader
      ready := recent t d.ready ++ [⟨t, live, (List.range c.channels).map (fun i => scale (tget 0 raw i) g.1 g.2)⟩] }
    setBridge s b { x with ingress := fadeEnds t d }

/-! ## Streams at their receiver (R63, R380, R392, R393, R425) -/

/-- The slots of an entry on an inbound link, as the current stamp has them. -/
def arrived (s : State) (l e : Nat) : List (Long × Bool) :=
  let k := link s l
  (entrySlots k.rxMap e).map (fun i => tget (0, false) k.rxNow i)

/-- First word of row `k` of the entry of base period `count` in a ring of `periods` × `per` rows. -/
def ringRow (r : Ring) (periods per count k : Nat) : Nat := r.first + 4 * ((count % max 1 periods) * per + k)

/-- Write the arrived samples into a ring: the long, a word whose bit 0 is the validity, a zero word; a row written whole loses its ECC
mark (R261). -/
def ringWrite (s : State) (r : Ring) (periods per count : Nat) (xs : List (Long × Bool)) : State :=
  (xs.zipIdx).foldl (fun s x =>
    let a := ringRow r periods per count x.2
    let s := clearRows s r.bank [a, a + 1, a + 2, a + 3]
    let row : List Word := [x.1.1.extractLsb' 16 16, x.1.1.extractLsb' 0 16, BitVec.ofNat 16 (bitOf x.1.2), 0]
    setBank s r.bank { bank s r.bank with mem := tsetRun 0 (bank s r.bank).mem a row }) s

/-- What a copy of a stream offers for one sample: the value, its validity, and whether its ring has no such sample: the row is
uncorrectable (R261), or the route is newer (R427). -/
abbrev Offer : Type := Long × Bool × Bool

/-- Read the samples that a ring presents; every row read is checked. -/
def ringRead (s : State) (r : Ring) (periods per count : Nat) : State × List Offer :=
  (List.range per).foldl (fun acc k =>
    let s := acc.1
    let a := ringRow r periods per count k
    let m := (bank s r.bank).mem
    let w := r.bank * 0x80000 + a
    (eccRead s (dlsLoc w), acc.2 ++ [(tget 0 m a ++ tget 0 m (a + 1), (tget 0 m (a + 2)).getLsbD 0, rowBad s w)])) (s, [])

/-- Copy `i` (0 primary, 1 alternate) of a stream at its receiver: what stamp `t` presents. -/
def copyOf (s : State) (e i : Nat) (t : MT) : State × List Offer :=
  let x := playing s e
  let per := x.sdef.channels * slotsPer x.sdef.cls
  match (if i = 0 then x.link else x.altLink) with
  | none => (s, List.replicate per (0, false, false))
  | some l =>
    let xs := arrived s l e
    match (if i = 0 then x.ring else x.altRing) with
    | none => (s, xs.map (fun v => (v.1, v.2, false)))
    | some r =>
      let h := if i = 0 then x.hops.toNat else x.altHops.toNat
      let ahead := x.sdef.latency - h
      let periods := ahead + 1
      let s := ringWrite s r periods per t.count.toNat xs
      if inFuture (mtMinus t (ahead * 65536)) r.since then (s, List.replicate per (0, false, true))
      else ringRead s r periods per ((t.count - BitVec.ofNat 64 ahead).toNat)

/-- One sample presented, the one after `x` in its channel: the primary if valid, else the alternate if valid, else the primary's substitute. An
uncorrectable row counts as lost, and on a HELD member every sample does: the receiver substitutes under R392 itself (R24, R261, R393,
R416). -/
def presentOne (held : Bool) (m : Nat) (a b : Offer) (x : RxSlot) : RxSlot :=
  let good (v : Offer) : Bool := v.2.1 && !v.2.2
  if held then slotLost m x
  else if good a then slotHere x a.1 true
  else if good b then slotHere x b.1 true
  else if a.2.2 then slotLost m x
  else slotHere x a.1 false

/-- The stamp from which what arrives is presented as 0 without validity in place of a stream's samples, as far as it has come by `t`: the
slots of the primary copy have come so without a break. DESIGN CHOICE (notes/assumptions/165): a receiver takes that for the STOP. -/
def quietSince (s : State) (e : Nat) (t : MT) : Option MT :=
  let x := playing s e
  let come (v : RxSlot) : Bool := decide (v.lost = 0) && decide (v.sample = 0) && !v.valid
  match x.link with
  | none => none
  | some l =>
    let slots := entrySlots (link s l).rxMap e
    if !slots.isEmpty && slots.all (fun i => come (tget {} (link s l).rx i)) then
      some (x.quietFrom.getD (mtPlus t (if x.ring.isSome then (x.sdef.latency - x.hops.toNat) * 65536 else 0)))
    else none

/-- The samples a receiver presents with stamps of base period `t`: 0 until its subscription has lasted for L (R426). It runs from its first
valid sample until the stream has stopped, and SUBST counts the samples without validity that it presents meanwhile (R431). -/
def present (s : State) (e : Nat) (t : MT) : State :=
  let (s, a) := copyOf s e 0 t
  let (s, b) := if (playing s e).altLink.isSome then copyOf s e 1 t else (s, [])
  let x := playing s e
  let m := slotsPer x.sdef.cls
  let held := decide (s.grove.state = 4)
  let subs : Tbl RxSlot := a.zipIdx.foldl (fun t v =>
    let before := if v.2 % m = 0 then v.2 + m - 1 else v.2 - 1
    tset {} t v.2 (presentOne held m v.1 (b.getD v.2 (0, false, false)) (tget {} t before))) x.subs
  let xs := (List.range a.length).map (fun k => tget {} subs k)
  let late := x.effectiveAt.any (fun b => inFuture t (mtPlus b (x.sdef.latency * 65536)))
  let entry (j : Nat) : Ready :=
    ⟨mtPlus t (j * (65536 / m)), true, (List.range x.sdef.channels).map (fun c => if late then 0 else (xs.getD (c * m + j) {}).sample)⟩
  let quiet := quietSince s e t
  let stopped := quiet.any (fun u => notBefore u t)
  let running := xs.any (·.valid) || (decide (x.state = .running) && !stopped)
  let n := if running then x.subst.toNat + (xs.filter (fun v => !v.valid)).length else x.subst.toNat
  setPlaying s e { x with
    subs := subs, quietFrom := quiet
    state := if decide (x.state = .admitted) && running then .running else if decide (x.state = .running) && !running then .admitted else x.state
    ready := recent t x.ready ++ (List.range m).map entry
    subst := if n ≥ 0xFFFFFFFF then 0xFFFFFFFF else BitVec.ofNat 32 n
    substOvf := x.substOvf || decide (n ≥ 0xFFFFFFFF) }

/-! ## Samples of a source (R24, R29, R59, R61) -/

/-- The sample of a block source with inbound stamp `t`, and whether the source delivered it; an absent source gives its
substitute (R24): a port its last sample, an unlocked bridge channel zero. -/
def blockSample (s : State) (kind unit idx : Nat) (t : MT) : Long × Bool :=
  match kind with
  | 4 =>
    match (bridge s unit).ingress.ready.find? (fun r => decide (r.stamp = t)) with
    | some r => (r.samples.getD idx 0, r.real)
    | none => (0, false)
  | _ =>
    let p := if kind = 2 then unit else 16 + unit
    match (port s p).inReady.find? (fun r => decide (r.stamp = t)) with
    | some r => (r.samples.getD idx 0, r.real)
    | none => ((chan (port s p) false idx).sent, false)

/-- What engine `n`'s output long `idx` delivers now (R38, R164, R171). -/
def outSample (s : State) (n idx : Nat) : Long := engOut (eng s n) idx (eng s n).outFade

/-! ## Delivery -/

/-- One more channel of the outbound samples of stamp `t`. -/
def addOut (t : MT) (ch : Nat) (v : Long) : List (MT × Tbl Long) → List (MT × Tbl Long)
  | [] => [(t, tput [] ch v)]
  | x :: l => if x.1 = t then (t, tput x.2 ch v) :: l else x :: addOut t ch v l

/-- A channel that had begun fading in a gap ramps from the gain it had reached (R123); a fade that precedes a time step
goes on (R417). -/
def resume (s : State) (f : Option Fader) : Option Fader :=
  match f with
  | some g => if g.up || s.grove.stepFade.isSome then f else some (rampUp f 64)
  | none => none

/-- An endpoint to which the router delivers. -/
def endGets (s : State) (v : Long) (x : EndPoint) : EndPoint := ⟨v, 0, resume s x.starve⟩

/-- Deliver a sample with outbound stamp `t` to a block endpoint. -/
def toBlock (s : State) (kind unit ch : Nat) (t : MT) (v : Long) : State :=
  match kind with
  | 4 =>
    let b := bridge s unit
    let d := b.egress
    let c := sideCfg (rbCfg s unit) true
    let keep := d.hist.filter (fun x => decide (mtNat t ≤ mtNat x.1 + 2 * groupDelayUnits s c + 65536))
    setBridge s unit { b with egress := { d with
      hist := addOut t ch v keep, ends := tput d.ends ch (endGets s v (tget {} d.ends ch)) } }
  | _ =>
    let p := if kind = 2 then unit else 16 + unit
    let q := port s p
    let c := chan q true ch
    let q := setChan q true ch { c with starved := 0, starve := resume s c.starve }
    setPort s p { q with outFifo := addOut t ch v q.outFifo }

/-- Write an outbound link slot for the frame of base period `t.count`. -/
def toSlot (s : State) (l slot : Nat) (t : MT) (v : Long) (valid : Bool) : State :=
  let k := link s l
  let k := { k with txEnds := tput k.txEnds slot (endGets s v (tget {} k.txEnds slot)) }
  if t.count = (now s).count then setLink s l { k with tx := tput k.tx slot (v, valid) }
  else setLink s l { k with txNext := tput k.txNext slot (v, valid) }

/-- A route carries the sample with key `k`: added at or before it, not removed at or before it (R32). -/
def carries (r : Route) (stop : Option MT) (k : MT) : Bool :=
  notBefore r.since k && (match stop with
    | some e => inFuture k e
    | none => true)

/-! ## Moves of one route at window time `t` -/

/-- The moves into an engine's inputs: for the frame that starts next (R59, R61). Mirrored routes need none (R30). A sub-rate engine is
written in the base period before its frame; a sub-rate source's latest value goes to every frame of the consumer. -/
def moveToEngine (s : State) (r : Route) (stop : Option MT) (t : MT) : State :=
  let d := epUnit r.dest
  let cd := engClass s d
  let f := nextBoundary cd t
  let due := if 4 ≤ cd then decide (mtPlus t 65536 = f) else isBoundary cd t
  let key := inputKey s r cd f
  if mirrored s r || !due || !carries r stop key then s
  else
    (List.range r.channels).foldl (fun s i =>
      let v := if epKind r.source = 1 then outSample s (epUnit r.source) (epFirst r.source + i)
        else (blockSample s (epKind r.source) (epUnit r.source) (epFirst r.source + i) key).1
      putIn s d (epFirst r.dest + i) v) s

/-- The moves to a block endpoint (R30, R32, R59, R61). -/
def moveToBlock (s : State) (r : Route) (stop : Option MT) (t : MT) : State :=
  let src := epUnit r.source
  if epKind r.source = 1 then
    let c := engClass s src
    let due := if 4 ≤ c then isBoundary 3 t else isBoundary c t
    let start := publishedStart c t
    let stamp := if 4 ≤ c then t else mtPlus start 65536
    if !due || !carries r stop start then s
    else (List.range r.channels).foldl (fun s i =>
      toBlock s (epKind r.dest) (epUnit r.dest) (epFirst r.dest + i) stamp (outSample s src (epFirst r.source + i))) s
  else if !isBoundary r.cls t || !carries r stop t then s
  else (List.range r.channels).foldl (fun s i =>
    toBlock s (epKind r.dest) (epUnit r.dest) (epFirst r.dest + i) t (blockSample s (epKind r.source) src (epFirst r.source + i) t).1) s

def moveRoute (s : State) (r : Route) (stop : Option MT) (t : MT) : State :=
  if epKind r.dest = 1 then moveToEngine s r stop t else moveToBlock s r stop t

/-- A presented sample reaches its destination as a block source's would (R63). -/
def movePresented (s : State) (e : Nat) (t : MT) : State :=
  let x := playing s e
  let get (u : MT) (i : Nat) : Long :=
    match x.ready.find? (fun r => decide (r.stamp = u)) with
    | some r => r.samples.getD i 0
    | none => 0
  if epKind x.dest = 1 then
    let d := epUnit x.dest
    let cd := engClass s d
    let u := if 4 ≤ cd then t else mtMinus (nextBoundary cd t) 65536
    if (if 4 ≤ cd then isBoundary 3 t else isBoundary cd t) then
      (List.range x.sdef.channels).foldl (fun s i => putIn s d (epFirst x.dest + i) (get u i)) s
    else s
  else if isBoundary (min 3 x.sdef.cls) t then
    (List.range x.sdef.channels).foldl (fun s i => toBlock s (epKind x.dest) (epUnit x.dest) (epFirst x.dest + i) t (get t i)) s
  else s

/-- Transit: an entry's inbound slots go to its outbound slots with their validity (R376, R392). -/
def moveTransit (s : State) (e : Nat) (t : MT) : State :=
  let ins := s.links.flatMap (fun kv => if (entrySlots kv.2.rxMap e).isEmpty then [] else [arrived s kv.1 e])
  match ins with
  | [] => s
  | xs :: _ =>
    s.links.foldl (fun s kv =>
      ((entrySlots kv.2.txMap e).zipIdx).foldl (fun s x =>
        let v := xs.getD x.2 (0, false)
        toSlot s kv.1 x.1 t v.1 v.2) s) s

/-- The last window in which a move into an outbound slot may fall (R378): the window ends 200 ns before the earliest start
of the slot's segment, at the fastest LKCLK and the pull limits. Times in units of 1/(8 × rate × (10⁶ − P) × 100,005) µs. -/
def lastWindow (s : State) (slot : Nat) : Nat :=
  let lo := (pullBelow s).toNat / 1000
  let hi := (pullAbove s).toNat / 1000
  let rate := rateHz s.clocks.rate
  let seg := (708 + slot / 2) / 63
  let d := 8 * rate * (1000000 - lo)
  let start := (1 + 64 * seg) * 528000 * d * (1000000 + hi)
  let delta := if s.clocks.rate = 0 then 10 ^ 15 * (1000000 - lo) * 100005 else 0
  let okAt (k : Nat) : Bool := decide (((k + 1) * 10 ^ 15 + 200 * d) * 100005 * (1000000 + hi) ≤ start + delta)
  (((List.range 8).filter okAt).getLast?).getD 0

/-- The block source of an endpoint as it stands when its samples up to stamp `u` are taken ahead of time: frames that are not complete yet
are substituted. -/
def takenAhead (s : State) (src : Long) (t u : MT) : State :=
  if !inFuture t u then s
  else match epKind src with
    | 4 => (stampsAfter (sideCfg (rbCfg s (epUnit src)) false).cls t u).foldl (fun s x => stageBridge s (epUnit src) x) s
    | 2 => portStamps s (epUnit src) u
    | _ => portStamps s (16 + epUnit src) u

/-- The stamp of the sample that window `t` moves into `slot`, the `i`-th slot of source entry `x`: an engine's outputs move as its frames
publish them, a block source's sample j of m in the window that its stamp opens, or in an earlier one where R378 leaves that slot no
later. DESIGN CHOICE (notes/assumptions/166): a sample whose frame is not complete by then is its substitute. -/
def sourceStamp (s : State) (x : Stream) (t : MT) (i slot : Nat) : Option MT :=
  let c := x.sdef.cls
  let m := slotsPer c
  if epKind x.sdef.source = 1 then
    let u := if c ≤ 3 then mtPlus (mtMinus t (frameUnits c)) 65536 else t
    if (if 4 ≤ c then isBoundary 3 t else isBoundary c t) && decide (u.phase.toNat * m / 65536 = i % m) then some u else none
  else
    let win := if m = 1 then 0 else min (8 * (i % m) / m) (lastWindow s slot)
    if t.phase.toNat = 8192 * win then some ⟨t.count, BitVec.ofNat 16 (i % m * (65536 / m))⟩ else none

/-- A source entry sends the sample stamped s in the slots of frame s, from START to STOP; on a HELD member 0 without validity (R374,
R416, R426). -/
def moveSource (s : State) (e : Nat) (t : MT) : State :=
  let x := playing s e
  let src := x.sdef.source
  let m := slotsPer x.sdef.cls
  let on (u : MT) : Bool := x.startedAt.any (fun a => notBefore a u) && x.stoppedAt.all (fun b => inFuture u b)
  s.links.foldl (fun s kv =>
    ((entrySlots kv.2.txMap e).zipIdx).foldl (fun s y =>
      match (sourceStamp s x t y.2 y.1).filter on with
      | none => s
      | some u =>
        let v := if s.grove.state = 4 then (0, false)
          else if epKind src = 1 then (outSample s (epUnit src) (epFirst src + y.2 / m), true)
          else blockSample (takenAhead s src t u) (epKind src) (epUnit src) (epFirst src + y.2 / m) u
        toSlot s kv.1 y.1 u v.1 v.2) s) s

/-! ## A window (R20 to R22) -/

/-- Local routes and streams carry audio in RUN and QUIET; in FAULT transit alone (R37, R39). -/
def localMoves (s : State) : Bool := decide (s.power.dev = .run) || decide (s.power.dev = .quiet)

/-- ROUTER_WINDOW: the moves of window `win` of this base period, between the stamps of the ports before and after it. Which window of a
frame's interval holds a move is the model's choice within R22 and R378: the first. In FAULT transit alone moves (R37). -/
def execRouterWindow (win : Fin 8) (s : State) : Outc :=
  let t : MT := ⟨(now s).count, BitVec.ofNat 16 (win.val * 8192)⟩
  let s := s.ports.foldl (fun s kv => portStamps s kv.1 t) s
  if !s.clocks.gateOpen then ok s
  else
    let go := localMoves s
    let s := if s.power.dev = .fault then s else s.bridges.foldl (fun s kv => stageBridge s kv.1 t) s
    let s := if go && isBoundary 3 t then (plays s).foldl (fun s kv => if presents kv.2 t then present s kv.1 t else s) s else s
    let s := if go then s.tails.foldl (fun s r => moveRoute s r.1 (some r.2) t) s else s
    let s := if go then s.routes.foldl (fun s kv => if routeLive kv.2 then moveRoute s kv.2 none t else s) s else s
    let s := (plays s).foldl (fun s kv =>
      let s := if go && presents kv.2 t then movePresented s kv.1 t else s
      let s := if kv.2.transit && isBoundary 3 t then moveTransit s kv.1 t else s
      if go && kv.2.source then moveSource s kv.1 t else s) s
    ok (s.ports.foldl (fun s kv => outStamps s kv.1 t) s)

end Sys2Proof.Machine
end

