-- ==== Sys2Proof/Machine/Slots.lean ====
section
/-! DEFINITION. The staged tables of link slots, playout banks and routes: what admission has booked, and its application at a base-period
boundary (R28, R377, R425, R427). -/
namespace Sys2Proof.Machine

/-! ## What is booked -/

/-- Map slots to entry `e`, in ascending order of the samples they carry. -/
def mapSlots (m : Tbl Nat) (e : Nat) (l : List Nat) : Tbl Nat := l.foldl (fun m i => tset 0 m i (e + 1)) m

/-- A slot map with every mapping that is staged for it, and none of those that are staged to end: what admission judges by. -/
def bookedMap (s : State) (l : Nat) (out : Bool) : Tbl Nat :=
  s.clocks.staged.foldl (fun m x => match x.act with
    | .map l' o e slots => if decide (l' = l) && (o == out) then mapSlots m e slots else m
    | .switch e _ l' _ slots _ => if decide (l' = l) && !out then mapSlots m e slots else m
    | _ => m) (if out then (link s l).txMap else (link s l).rxMap)

/-- A bank is staged to become PLAYOUT, and for which link. -/
def playoutStaged (s : State) (b : Nat) : Option Nat :=
  s.clocks.staged.findSome? (fun x => match x.act with
    | .playout b' l => if b' = b then some l else none
    | _ => none)

/-- The rings that lie in a bank, those of staged routes among them. -/
def ringsIn (s : State) (b : Nat) : List Ring :=
  (((s.streams.map (·.2)) ++ s.leaving.map (·.stream)).flatMap (fun x => x.ring.toList ++ x.altRing.toList) ++
    s.clocks.staged.flatMap (fun x => match x.act with
      | .switch _ _ _ _ _ r => r.toList
      | _ => [])).filter (fun r => decide (r.bank = b))

/-- PLAYOUT banks that hold no ring may return to FREE (R425). -/
def markEmpty (s : State) : State :=
  (List.range 32).foldl (fun s b =>
    let k := bank s b
    if decide (k.kind = 2) && (ringsIn s b).isEmpty && k.emptySince.isNone then setBank s b { k with emptySince := some (now s) } else s) s

/-- Stage a change, after every other for the same boundary. -/
def insertStaged (x : Staged) : List Staged → List Staged
  | [] => [x]
  | y :: l => if mtNat x.target < mtNat y.target then x :: y :: l else y :: insertStaged x l

def stage (s : State) (t : MT) (a : StageAct) : State := setClocks s (fun c => { c with staged := insertStaged ⟨t, a⟩ c.staged })

/-- The boundary of a change that admission stages now: the one that was named where it is at least 4 base periods ahead, else the first
that is (R426, R427). -/
def stageAt (s : State) (effective : BitVec 64) : MT :=
  let least := periodFrom (mtPlus (now s) (4 * 65536))
  if inFuture (now s) ⟨effective, 0⟩ && decide (mtNat least ≤ effective.toNat * 65536) then ⟨effective, 0⟩ else least

/-- A boundary is named for a change, and its cutoff has passed: the change comes too late (R28, R72). -/
def namedLate (s : State) (effective : BitVec 64) : Bool := decide (effective ≠ 0) && !inTime (now s) ⟨effective, 0⟩

/-! ## At the boundary -/

/-- Slots of a link pass to entry `e`, holding nothing yet. -/
def takeMap (k : Link) (out : Bool) (e : Nat) (slots : List Nat) : Link :=
  if out then { k with
    txMap := mapSlots k.txMap e slots, tx := slots.foldl tdel k.tx, txNext := slots.foldl tdel k.txNext, txEnds := slots.foldl tdel k.txEnds }
  else { k with rxMap := mapSlots k.rxMap e slots, rx := slots.foldl tdel k.rx, rxNow := slots.foldl tdel k.rxNow }

/-- Slots of a link are free, with nothing left in them. -/
def dropMap (k : Link) (out : Bool) (slots : List Nat) : Link :=
  if out then { k with
    txMap := slots.foldl tdel k.txMap, tx := slots.foldl tdel k.tx, txNext := slots.foldl tdel k.txNext, txEnds := slots.foldl tdel k.txEnds }
  else { k with rxMap := slots.foldl tdel k.rxMap, rx := slots.foldl tdel k.rx, rxNow := slots.foldl tdel k.rxNow }

/-- A copy takes its new route: the old slots are free, and the new ones go on from what the old ones held, so that substitutes run on
(R392, R427). -/
def switchCopy (s : State) (e : Nat) (alt : Bool) (l hops : Nat) (slots : List Nat) (ring : Option Ring) : State :=
  let x := stream s e
  let s := if slots.isEmpty then s
    else
      let old := if alt then x.altLink else x.link
      let held := match old with
        | some o => (entrySlots (link s o).rxMap e).map (fun i => tget {} (link s o).rx i)
        | none => []
      let s := match old with
        | some o => setLink s o (dropMap (link s o) false (entrySlots (link s o).rxMap e))
        | none => s
      let k := takeMap (link s l) false e slots
      setLink s l { k with rx := (slots.zip held).foldl (fun t v => tset {} t v.1 v.2) k.rx }
  let x := stream s e
  let n := BitVec.ofNat 8 hops
  setStream s e (if alt then { x with altLink := some l, altHops := n, altRing := ring }
    else { x with
      link := some l, hops := n, ring := ring
      ringPeriods := if ring.isSome then BitVec.ofNat 16 (x.sdef.latency - hops + 1) else 0 })

/-- One staged change. -/
def applyStage (s : State) (a : StageAct) : State :=
  match a with
  | .map l out e slots => setLink s l (takeMap (link s l) out e slots)
  | .unmap l out slots => setLink s l (dropMap (link s l) out slots)
  | .playout b l => setBank s b { bank s b with kind := 2, id := l, emptySince := none }
  | .switch e alt l hops slots ring => switchCopy s e alt l hops slots ring

/-- The staged changes whose boundary has come. -/
def applyStaged (s : State) : State :=
  let due := s.clocks.staged.filter (fun x => isDue (now s) x.target)
  if due.isEmpty && s.leaving.isEmpty then s
  else
    let s := setClocks s (fun c => { c with staged := c.staged.filter (fun x => !isDue (now s) x.target) })
    let s : State := { s with leaving := s.leaving.filter (fun x => !isDue (now s) x.ends) }
    markEmpty (due.foldl (fun s x => applyStage s x.act) s)

/-! ## An entry that lets go (R431, R432) -/

/-- The staged changes of an entry. -/
def ofEntry (e : Nat) (a : StageAct) : Bool :=
  match a with
  | .map _ _ e' _ => decide (e' = e)
  | .switch e' _ _ _ _ _ => decide (e' = e)
  | _ => false

/-- What is staged for an entry comes to nothing, and the slots that it has, on every link or on one, are free from boundary `t` on. -/
def unmap (s : State) (e : Nat) (only : Option Nat) (t : MT) : State :=
  let s := if only.isNone then setClocks s (fun c => { c with staged := c.staged.filter (fun x => !ofEntry e x.act) }) else s
  s.links.foldl (fun s kv =>
    if only.isSome && decide (only ≠ some kv.1) then s
    else [false, true].foldl (fun s out =>
      let slots := entrySlots (if out then kv.2.txMap else kv.2.rxMap) e
      if slots.isEmpty then s else stage s t (.unmap kv.1 out slots)) s) s

/-- An entry is freed: its stream, where it is in effect, goes on until boundary `t`, and everything that it holds is free from then on
(R28). -/
def freeEntry (s : State) (e : Nat) (t : MT) : State :=
  let x := stream s e
  let s := schedDrop (unmap s e none t) (fun y => sameItem y.act (.streamStart e))
  let goes := admittedStream x && x.effectiveAt.all (fun b => notBefore b (now s)) && s.leaving.all (fun y => decide (y.entry ≠ e))
  markEmpty (setStream (if goes then { s with leaving := s.leaving ++ [⟨e, x, t⟩] } else s) e {})

end Sys2Proof.Machine
end

