-- ==== Sys2Proof/Machine/DevState.lean ====
section
/-! DEFINITION. Operations that change the device's state as a whole: engines gated, FAULT, the paths of links leaving UP,
a control-core restart's beginning, a wipe of Heartwood (R34 to R39, R179, R271, R272, R301, R389, R454, R504, R505, R508). -/
namespace Sys2Proof.Machine

/-! ## Engines leave RUN with the device (R37, R38, R179, R301) -/

/-- Engine `n` enters GATED: a running graft fade finishes, a frame that has not ended is abandoned, a Sapling run stops. -/
def gateEng (s : State) (n : Nat) : State :=
  if (eng s n).state = .idle || (eng s n).state = .gated then s
  else
    modEng (endFade s n 3) n (fun e => { e with
      state := .gated, before := e.state, running := false, prepared := false, stage := .none
      ctx := { e.ctx with inflight := [] }, outFade := some (fadeDown e.outFade 64) })

def gateEngs (s : State) : State := s.engines.foldl (fun s kv => gateEng s kv.1) s

/-- A running device: the states that FAULT may follow (R476). -/
def running (s : State) : Bool := decide (s.power.dev ≠ .booting) && decide (s.power.dev ≠ .fault)

/-! ## Paths (R388, R389) -/

def path (s : State) (l : Nat) (b : Bool) : Path := if b then (link s l).pathB else (link s l).pathA
def setPath (s : State) (l : Nat) (b : Bool) (v : Path) : State :=
  if b then setLink s l { link s l with pathB := v } else setLink s l { link s l with pathA := v }

def pathUp (s : State) (l : Nat) (b : Bool) : Bool := decide ((path s l b).state = .up)

/-- At least one path is UP. -/
def linkUp (s : State) (l : Nat) : Bool := pathUp s l false || pathUp s l true

/-- A path that is enabled begins to train (R388). -/
def startPath (s : State) (l : Nat) (b : Bool) : State :=
  setPath s l b { path s l b with state := .signal, enteredAt := now s, fromUp := false, stays := false }

/-- A path out of UP in state `st`: DOWN_COUNT counts the exit (R401). -/
def pathOut (s : State) (l : Nat) (b : Bool) (st : PathState) : State :=
  let p := path s l b
  let (t, o) := if p.state = .up then bump p.counts p.ovf 6 2 else (p.counts, p.ovf)
  setPath s l b { p with
    state := st, counts := t, ovf := o, meas := [], slow := 0, lastU := 0x80000000
    enteredAt := now s, fromUp := decide (p.state = .up), noSof := 0, crcWin := [] }

/-- Bits of link `l` that the join checks left: nothing is joined over it any more (R405). A device with no joined link is
JOINING again. -/
def endJoin (s : State) (l code : Nat) : State :=
  let s := setLink s l { link s l with join := code, joinDone := false, rxHdr := none, higherRun := 0 }
  if s.cfg.groveId = 0 || joinedGrove s then s
  else { s with grove := { s.grove with state := 1 } }

/-- The second path of a link has left UP: nobody is at its far end, its join ends, and its audio is lost (R392, R405). -/
def linkDown (s : State) (l : Nat) : State :=
  let s := endJoin s l 0
  setLink s l { link s l with peerDev := 0xFFFF, peerLink := 0xFF, silent := max 1 (link s l).silent }

/-- A path leaves UP for `st` by a detection `code` with `arg`; LINK_DOWN follows where the other path is not UP (R503). -/
def losePath (s : State) (l : Nat) (b : Bool) (st : PathState) (code : Nat) (arg : Long) (inj : Bool) : State :=
  let s := pathOut s l b st
  let s := detectAs s code l arg inj
  if linkUp s l then s else detectAs (linkDown s l) 0x5003 l 0 inj

/-- ARG of PATH_DOWN: the path and the criterion of R389. -/
def pathArg (b : Bool) (crit : Nat) : Long := BitVec.ofNat 32 (bitOf b * 256 + crit)

/-- Every path of every link loses its lane clock (R92): those in UP are down, those in training start again. -/
def allPathsDown (s : State) : State :=
  let was := (List.range 4).filter (linkUp s)
  let s := (List.range 4).foldl (fun s l => [false, true].foldl (fun s b =>
    if (path s l b).state = .off then s
    else
      let up := pathUp s l b
      let s := pathOut s l b .signal
      if up then detect s 0x5001 l (pathArg b 1) else s) s) s
  was.foldl (fun s l => detect (linkDown s l) 0x5003 l 0) s

/-- A path is sent to another state by its host or by a rate change: LINK_DOWN where it was the last one UP. -/
def sendPath (s : State) (l : Nat) (b : Bool) (st : PathState) : State :=
  let was := linkUp s l
  let s := pathOut s l b st
  if was && !linkUp s l then detect (linkDown s l) 0x5003 l 0 else s

/-- Links are to run at a rate: path A retrains first, path B once A is UP again (R399). -/
def steerRate (s : State) (n : Nat) (low : Bool) : State :=
  let k := link s n
  let free (p : Path) : Path := { p with stays := p.stays && low }
  let s := setLink s n { k with lowWanted := low, pathA := free k.pathA, pathB := free k.pathB }
  let wants (b : Bool) : Bool := pathUp s n b && ((path s n b).low != (low && !(path s n b).stays))
  if wants false then sendPath s n false .signal
  else if wants true && !pathUp s n false then sendPath s n true .signal
  else s

/-! ## FAULT (R37, R504, R505) -/

/-- This end of its links is in DORMANT (R398). -/
def ownLow (s : State) : Bool := decide (s.power.dev = .dormant) && s.power.wake.isNone

/-- What DORMANT has at rest begins again in FAULT: links go back to full rate, and ECPLL acquires. -/
def endRest (s : State) : State :=
  if ownLow s then
    (List.range 4).foldl (fun s l => steerRate s l (link s l).lowPeer)
      { s with clocks := { s.clocks with ecpll := .acquire }, power := { s.power with dividerAt := some (now s) } }
  else s

/-- FAULT with a cause of R504, kept in the AON register too; the first cause stands. -/
def enterFault (s : State) (cause : Nat) : State :=
  if running s then
    let s := endRest (gateEngs s)
    { s with power := { s.power with
        dev := .fault, faultCause := cause, faultMt := now s, aonCause := cause, pendingTo := none, wake := none, portsDue := none } }
  else s

/-- PWR_GOOD is released once the supplies are in regulation, and pulled low by a brown-out; until then every output is at high impedance
(R473). -/
def pwrGood (s : State) : Bool := !s.power.brown && !s.power.bankMv.isEmpty

/-! ## Sessions (R454) -/

/-- Session `k` ends: its cache, its transfer and its requests that wait with it, and its number is free. -/
def endSession (s : State) (k : Nat) : State :=
  let rest (q : List (Req × List Byte)) : List (Req × List Byte) := q.filter (fun x => decide (x.1.sess.val ≠ k))
  setMgmt (setSession s k {}) (fun m => { m with qEth := rest m.qEth, qHq := rest m.qHq, qGrove := rest m.qGrove })

def endSessions (s : State) (p : Session → Bool) : State :=
  (List.range 16).foldl (fun s k => if p (session s k) then endSession s k else s) s

/-! ## Admissions that do not complete (R424, R432) -/

/-- A change staged to map outbound slots for an entry. -/
def mapsOut (e : Nat) (a : StageAct) : Bool :=
  match a with
  | .map _ true e' _ => decide (e' = e)
  | _ => false

/-- The share of a source or in transit whose boundary has not come is given up: the slots it was to take, and the entry with them where it
has no others. -/
def releaseShare (s : State) (e : Nat) : State :=
  let x := stream s e
  if x.transit && x.effectiveAt.any (inFuture (now s)) then freeEntry s e (stageAt s 0)
  else if x.source && s.clocks.staged.any (fun y => mapsOut e y.act) then
    let s := setClocks s (fun c => { c with staged := c.staged.filter (fun y => !mapsOut e y.act) })
    if decide (x.state = .admitted) && s.links.all (fun kv => (entrySlots kv.2.txMap e).isEmpty) then setStream s e { x with state := .defined } else s
  else s

/-- Subscriptions whose admission is under way read BUSY and are FREE again, and the shares that they took here are released (R424).
DESIGN CHOICE (notes/assumptions/77): one of the configuration store, which waits to be readmitted, goes on waiting; a share is of an
admission under way until its boundary has come. -/
def releasePending (s : State) : State :=
  s.streams.foldl (fun s kv =>
    if decide (kv.2.state = .pending) && decide (tget (0, 0) s.cfg.subs kv.1 = (0, 0)) then setStream s kv.1 { result := eBusy }
    else releaseShare s kv.1) s

/-! ## A control-core restart begins (R34 to R36, R76, R424, R487, R500, R508) -/

/-- The time of a restart that ends here is not counted against the sessions' idle time (R454). -/
def skipRestart (s : State) : State :=
  if s.power.ccDown.isNone then s
  else
    let d := mtDiff s.power.ccAt (now s)
    setMgmt s (fun m => { m with heardAt := m.heardAt.map (fun kv => (kv.1, mtPlus kv.2 d)) })

/-- The restart with the cause that CC_RESTART will report: requests waiting and transfers open are lost, a SAVE ends with
the previous copy current, a firmware write fails, a load ends with BUSY and its event (R177), pending subscriptions are released, patrol pauses. -/
def beginRestart (was : State) (cause : Nat) : State :=
  let s := skipRestart was
  let s := (List.range 16).foldl (fun s k =>
    if (session s k).transfer.isSome then setSession s k { session s k with transfer := none } else s) s
  let s := releasePending s
  let s := s.engines.foldl (fun s kv =>
    if kv.2.loading.isSome then modEng s kv.1 (fun e => { e with
      loading := none, loadResult := eBusy, standbyState := if e.standbyState ≠ 1 then e.standbyState else if e.standby.codeWords = 0 then 0 else 2 }) else s) s
  let m := s.mem.patrol
  let p := s.power
  let cut := tkeys (fun e : Engine => e.loading.isSome) was.engines
  let s := { s with
    mgmt := { s.mgmt with qEth := [], qHq := [], qGrove := [], relays := [] }
    grove := { s.grove with reasm := [], delivered := [], arrived := [] }
    mem := { s.mem with patrol := if m.state = .idle then { m with state := .paused } else { m with pauseReq := true } }
    flash := { s.flash with writing := none }
    power := { p with
      ccDown := some cause, ccAt := now s, compatChange := false
      saving := false, saveResult := if p.saving then eBusy else p.saveResult
      fwState := if p.fwState = .writing then .failed else p.fwState
      fwResult := if p.fwState = .writing then eIntegrity else p.fwResult
      fwIncoming := none
      slotA := if p.fwState = .writing && p.fwSlotB then {} else p.slotA
      slotB := if p.fwState = .writing && !p.fwSlotB then {} else p.slotB } }
  cut.foldl (fun s n => detect s 0x2013 n (eBusy.setWidth 32)) s

/-- FW_FAILED of a write that the restart cut short, after the record of what caused it (R486, R501, R503). -/
def writeCut (was s : State) : State := if was.power.fwState = .writing then detect s 0x6006 devUnit (eIntegrity.setWidth 32) else s

/-! ## Heartwood is wiped (R271, R272, R507) -/

/-- Every key is overwritten and every session ends; `cause` is that of HEARTWOOD.LAST_CAUSE. The key record in flash stays,
wrapped under the life-cycle state and tamper count of its time. -/
def wipeHeart (s : State) (cause : Nat) : State :=
  let (c, _) := satInc s.flash.wipeCount
  let s := endSessions s (fun _ => true)
  { s with
    heart := { s.heart with keys := [], identity := [], state := 2, wipeCount := c, lastCause := cause }
    flash := { s.flash with wipeCount := c } }

end Sys2Proof.Machine
end

