-- ==== Sys2Proof/Machine/Admit.lean ====
section
/-! DEFINITION. Admission by the control core: endpoints and their classes, destinations fed, router moves by window (R20 to
R23, R25 to R30, R58, R311, R374, R378, R423, R425). -/
namespace Sys2Proof.Machine

/-! ## Endpoints (R29, R423) -/

/-- An endpoint as one number. -/
def epLong (p : Endpoint) : Long := p.kind ++ p.unit ++ p.first

/-- Units of an endpoint kind. -/
def epUnits (kind : Nat) : Nat :=
  match kind with
  | 1 => 32
  | 2 => 16
  | 3 => 8
  | 4 => 16
  | _ => 0

/-- The port code of a SAP or AES3 endpoint. -/
def epPort (v : Long) : Nat := if epKind v = 2 then epUnit v else 16 + epUnit v

/-- The indices of `n` channels lie within what the kind allows (R29): a bridge's ingress channels as a source, its egress
channels as a destination. -/
def epRange (s : State) (v : Long) (n : Nat) (dest : Bool) : Bool :=
  let a := epFirst v
  let b := a + n
  decide (epUnit v < epUnits (epKind v)) &&
    (match epKind v with
      | 1 => decide (b ≤ 1024)
      | 2 => decide (b ≤ 32)
      | 3 => decide (b ≤ 2)
      | 4 => if dest then decide ((rbCfg s (epUnit v)).split ≤ a) && decide (b ≤ 32) else decide (b ≤ (rbCfg s (epUnit v)).split)
      | _ => false)

/-- The endpoint's class code; none for a FOREIGN port. -/
def epClass (s : State) (v : Long) (dest : Bool) : Option Nat :=
  match epKind v with
  | 1 => some (engClass s (epUnit v))
  | 4 => some (if dest then (rbCfg s (epUnit v)).outClass else (rbCfg s (epUnit v)).inClass)
  | _ => if (portCfg s (epPort v)).rate = 4 then none else some (3 - (portCfg s (epPort v)).rate)

/-- R58: one endpoint against a class: equal, or a sub-rate engine on a 1× route. -/
def epMeets (s : State) (v : Long) (dest : Bool) (cls : Nat) : Bool :=
  match epClass s v dest with
  | none => false
  | some c => decide (c = cls) || (decide (cls = 3) && decide (epKind v = 1) && decide (4 ≤ c))

/-- R58 for both endpoints: at most one of a 1× route is a sub-rate engine. -/
def classesMeet (s : State) (src dst : Long) (cls : Nat) : Bool :=
  epMeets s src false cls && epMeets s dst true cls &&
    (decide (epClass s src false = some cls) || decide (epClass s dst true = some cls))

/-- Another route or stream feeds one of the indices at or after `t`, as the armed actions will leave it (R31, step 4). -/
def destFed (s : State) (dst : Long) (n : Nat) (t : MT) (route' : Option Nat) (stream' : Option Nat) : Bool :=
  s.routes.any (fun kv =>
    decide (route' ≠ some kv.1) && epOverlap kv.2.dest kv.2.channels dst n &&
      (match kv.2.state with
        | .free => false
        | .removing => match kv.2.target with
          | some u => inFuture t u
          | none => true
        | _ => true)) ||
  s.streams.any (fun kv => decide (stream' ≠ some kv.1) && holdsStream kv.2 && epOverlap kv.2.dest kv.2.sdef.channels dst n) ||
  s.leaving.any (fun x => inFuture t x.ends && holdsStream x.stream && epOverlap x.stream.dest x.stream.sdef.channels dst n)

/-! ## Moves by window (R20 to R23, R30, R378) -/

/-- Moves that must fall in windows `lo` to `hi`. -/
structure Load where
  lo : Nat
  hi : Nat
  n : Nat
  deriving DecidableEq, Repr

/-- Moves per channel and base period of a class (R23, R30). -/
def perPeriod (cls : Nat) : Nat := if cls ≤ 3 then 2 ^ (3 - cls) else 1

/-- The moves of C channels: with an engine of class m ≥ 2 in the windows of each frame's interval, else in any window. -/
def loads (engine : Bool) (cls channels : Nat) : List Load :=
  if engine && decide (cls ≤ 2) then
    let w := 2 ^ cls
    (List.range (8 / w)).map (fun j => ⟨j * w, j * w + w - 1, channels⟩)
  else [⟨0, 7, channels * perPeriod cls⟩]

/-- An endpoint is an engine's. -/
def isEng (v : Long) : Bool := decide (epKind v = 1)

/-- Moves of a route per base period (R30): a sub-rate engine at either end makes it C. -/
def routeMoves (s : State) (src dst : Long) (cls channels : Nat) : Nat :=
  let sub (v : Long) (d : Bool) : Bool := isEng v && (match epClass s v d with
    | some c => decide (4 ≤ c)
    | none => false)
  if sub src false || sub dst true then channels else channels * perPeriod cls

def routeLoads (src dst : Long) (cls channels : Nat) : List Load := loads (isEng src || isEng dst) cls channels

/-- Moves of the outbound slots of every link that are mapped or staged to be; the slots of a source fed by an engine of class m ≥ 2 are moved in its
frames' windows, the last of a base period's in those of the sending period that R378 leaves. -/
def slotLoads (s : State) : List Load :=
  s.links.flatMap (fun kv => (bookedMap s kv.1 true).map (fun x =>
    match x.2 with
    | e + 1 =>
      let d := (playing s e).sdef
      if (playing s e).source && isEng d.source && decide (d.cls ≤ 2) then
        let w := 2 ^ d.cls
        let j := ((entrySlots (bookedMap s kv.1 true) e).takeWhile (fun y => decide (y ≠ x.1))).length % perPeriod d.cls
        let k := (j + 1) % perPeriod d.cls
        ⟨k * w, if k = 0 then min (w - 1) (lastWindow s x.1) else k * w + w - 1, 1⟩
      else ⟨0, lastWindow s x.1, 1⟩
    | 0 => ⟨0, lastWindow s x.1, 1⟩))

/-- Moves of streams presented here (R425). -/
def streamLoads (s : State) : List Load :=
  ((s.streams.map (·.2)) ++ s.leaving.map (·.stream)).flatMap (fun x =>
    if holdsStream x then loads (isEng x.dest) x.sdef.cls x.sdef.channels else [])

/-- Moves of the channels written to capture rings (R341). -/
def captureLoads (s : State) : List Load :=
  s.cfg.ports.flatMap (fun kv =>
    if kv.2.capRing = 0xFF then []
    else loads false (portClass s kv.1) ((List.range 32).filter (fun i => kv.2.capMask.getLsbD i)).length)

/-- A route's moves count at mt `u`, as the armed actions will leave it. -/
def countsAt (r : Route) (u : MT) : Bool :=
  match r.state, r.target with
  | .free, _ => false
  | .active, _ => true
  | .armed, some t => notBefore t u
  | .removing, some t => inFuture u t
  | _, none => true

/-- All moves at mt `u`, but those of route `skip`. -/
def loadsAt (s : State) (u : MT) (skip : Option Nat) : List Load :=
  s.routes.flatMap (fun kv => if decide (skip ≠ some kv.1) && countsAt kv.2 u then routeLoads kv.2.source kv.2.dest kv.2.cls kv.2.channels else [])
    ++ streamLoads s ++ slotLoads s ++ captureLoads s

/-- A placement exists: no run of windows is asked for more than 10,112 moves each (R21). -/
def fits (l : List Load) : Bool :=
  (List.range 8).all (fun a => (List.range (8 - a)).all (fun n =>
    decide ((l.filter (fun x => decide (a ≤ x.lo) && decide (x.hi ≤ a + n))).foldl (fun m x => m + x.n) 0 ≤ 10112 * (n + 1))))

/-- The moments at which the moves may rise from `t` on: `t` and the later targets of armed ADDs. -/
def rises (s : State) (t : MT) : List MT :=
  t :: s.routes.filterMap (fun kv => match kv.2.state, kv.2.target with
    | .armed, some u => if inFuture t u then some u else none
    | _, _ => none)

/-- `more` fits with everything else in every base period from `t` on (R31, step 5). -/
def admits (s : State) (t : MT) (skip : Option Nat) (more : List Load) : Bool :=
  (rises s t).all (fun u => fits (more ++ loadsAt s u skip))

end Sys2Proof.Machine
end

