-- ==== Sys2Proof/Machine/Routes.lean ====
section
/-! DEFINITION. Exchange routes: ROUTE.REQUEST (R29 to R33, R457). -/
namespace Sys2Proof.Machine

/-- A command of one element of an object that may not exist. -/
def writeAt (s : State) (r : Req) (there : Bool) (g : Gate) (body : State → Except Word State) : State :=
  runRequest s r 2 1 (fun s => if there then (gateFails s r g).map (·, 0) else some (eNoObject, 0))
    (fun s => match body s with
      | .error c => .error c
      | .ok s' => .ok (s', []))

/-- An engine endpoint's engine is in SAPLING or HALTED (R164). -/
def epSapling (s : State) (v : Long) : Bool :=
  isEng v && (decide ((eng s (epUnit v)).state = .sapling) || decide ((eng s (epUnit v)).state = .halted))

/-- R65 for an endpoint: the target is a frame boundary of the engine named. -/
def epBoundary (s : State) (v : Long) (t : MT) : Bool := !isEng v || engBoundary s (epUnit v) t

/-- The write of ROUTE.REQUEST. -/
def routeCmd (s : State) (r : Req) (entry : Nat) (body : State → Except Word State) : Outc :=
  ok (writeAt s r (decide (entry < 8192)) { obj := 0x6000 + entry, role := engineer } body)

/-- Steps 4 and 5 for a route that will feed its destination from `t` on. -/
def routeAdmit (s : State) (entry : Nat) (src dst : Long) (cls channels : Nat) (t : MT) (a : SchedAct) : Option Word :=
  if !classesMeet s src dst cls || destFed s dst channels t (some entry) none || schedTaken s t a then some eConflict
  else if !admits s t (some entry) (routeLoads src dst cls channels) || !schedRoom s 1 then some eCapacity
  else none

/-- ROUTE.REQUEST ADD (R31). -/
def execRouteAdd (r : Req) (entry : Nat) (cls : Byte) (channels : Word) (src dst : Endpoint) (target : MT) (s : State) : Outc :=
  routeCmd s r entry (fun s =>
    let n := channels.toNat
    let k := cls.toNat
    let a := epLong src
    let b := epLong dst
    if decide (9 < k) || decide (n = 0) || decide (1024 < n) || !epRange s a n false || !epRange s b n true
        || !isPeriod target || !epBoundary s a target || !epBoundary s b target then .error eRange
    else if !inTime (now s) target then .error eLate
    else if decide ((route s entry).state ≠ .free) || epSapling s a || epSapling s b || dormant s then .error eState
    else match routeAdmit s entry a b k n target (.routeAdd entry) with
      | some c => .error c
      | none =>
        let s := schedAdd s target [.routeAdd entry]
        .ok (setRoute s entry {
          state := .armed, source := a, dest := b, channels := n, cls := k
          moves := routeMoves s a b k n, target := some target, result := eOK }))

/-- ROUTE.REQUEST REMOVE (R31). -/
def execRouteRemove (r : Req) (entry : Nat) (target : MT) (s : State) : Outc :=
  routeCmd s r entry (fun s =>
    let x := route s entry
    if !isPeriod target || !epBoundary s x.source target || !epBoundary s x.dest target then .error eRange
    else if !inTime (now s) target then .error eLate
    else if decide (x.state ≠ .active) || epSapling s x.source || epSapling s x.dest || dormant s then .error eState
    else if schedTaken s target (.routeRemove entry) then .error eConflict
    else if !schedRoom s 1 then .error eCapacity
    else
      let s := schedAdd s target [.routeRemove entry]
      .ok (setRoute s entry { x with state := .removing, target := some target, result := eOK }))

/-- ROUTE.REQUEST CANCEL (R31, R71): an armed ADD leaves the entry FREE; with an armed REMOVE the route stays, which steps 4
and 5 judge as they judge an ADD. -/
def execRouteCancel (r : Req) (entry : Nat) (target : MT) (s : State) : Outc :=
  routeCmd s r entry (fun s =>
    let x := route s entry
    if !isPeriod target || !epBoundary s x.source target || !epBoundary s x.dest target then .error eRange
    else if !inTime (now s) target then .error eLate
    else if decide (x.target ≠ some target) || epSapling s x.source || epSapling s x.dest then .error eState
    else
      let drop (s : State) : State := schedDrop s (fun y => decide (y.target = target) && sameItem y.act (.routeAdd entry))
      if x.state = .armed then .ok (setRoute (drop s) entry { result := eOK })
      else if x.state ≠ .removing then .error eState
      else if destFed s x.dest x.channels target (some entry) none then .error eConflict
      else if !admits s target (some entry) (routeLoads x.source x.dest x.cls x.channels) then .error eCapacity
      else .ok (setRoute (drop s) entry { x with state := .active, target := none, result := eOK }))

end Sys2Proof.Machine
end

