-- ==== Sys2Proof/Machine/Memories.lean ====
section
/-! DEFINITION. The shared memories: leases of delay-line banks, the shared slot, crossing-RAM port B and its atomics, patrol
(R241 to R249, R256 to R269, R273 to R275). -/
namespace Sys2Proof.Machine

/-! ## Leases (R246 to R248, R274) -/

/-- The machine's owners and bank indexes as they will stand just before `t`: staged playout leases and leases armed for earlier targets
applied, CAPTURE ends passed. For judging only. -/
def leasesBefore (s : State) (t : MT) : State :=
  let s := s.clocks.staged.foldl (fun s x => match x.act with
    | .playout b l => setBank s b { bank s b with kind := 2, id := l }
    | _ => s) s
  let isLease (a : SchedAct) : Bool := match a with
    | .lease .. => true
    | _ => false
  let due := (s.clocks.sched.filter (fun x => isLease x.act && inFuture x.target t)).foldl (fun l x => insertDue x l) []
  let at' (s : State) (t : MT) : State := endLeases { s with clocks := { s.clocks with mt := t } }
  at' (due.foldl (fun s x => match x.act with
    | .lease b kind id zero e => applyLease (at' s x.target) b kind id zero e
    | _ => s) s) t

/-- Banks that engine `n` holds. -/
def banksHeld (s : State) (n : Nat) : Nat :=
  ((List.range 32).filter (fun b => decide ((bank s b).kind = 1) && decide ((bank s b).id = n))).length

/-- A lease of bank `b` to engine `n` from `t` on is a fifth one, at `t` or at the target of a lease armed for `t` or later (R247). -/
def fifthBank (s : State) (t : MT) (n : Nat) (a : SchedAct) : Bool :=
  let s := schedAdd s t [a]
  let later := s.clocks.sched.filterMap (fun x => match x.act with
    | .lease _ kind id _ _ => if decide (kind = 1) && decide (id = n) && !inFuture x.target t then some x.target else none
    | _ => none)
  later.any (fun u => decide (4 < banksHeld (leasesBefore s (mtPlus u 1)) n))

/-- An index below BANKS_REQ of the active image, or of a standby image that is READY or ARMED (R247). -/
def bankNeeded (e : Engine) (i : Nat) : Bool :=
  decide (i < e.active.banksReq) || ((decide (e.standbyState = 2) || decide (e.standbyState = 3)) && decide (i < e.standby.banksReq))

/-- Step 1 of R274, with R246 and R248. -/
def leaseRange (s : State) (cancel : Bool) (bank' kind id flags : Nat) (startAt endAt : MT) : Bool :=
  let noEnd := decide (endAt = MT.zero)
  let plain := decide (bank' < 32) && decide (flags < 4) && (decide (flags / 2 = 1) == cancel) && isPeriod startAt &&
    (match kind with
      | 0 => decide (id = 0)
      | 1 => decide (id < 32)
      | 3 => decide (id < 16)
      | _ => false) &&
    (noEnd || (decide (kind = 3) && isPeriod endAt && decide (mtNat startAt < mtNat endAt)))
  let old := bank (leasesBefore s startAt) bank'
  plain && (cancel ||
    ((decide (kind ≠ 1) || engBoundary s id startAt) && (decide (old.kind ≠ 1) || engBoundary s old.id startAt) &&
      decide (old.kind ≠ 2 ∨ kind ≠ 0)))

/-- DLS_LEASE (R274). A release of a PLAYOUT bank is out of range: streams alone make and release those leases. -/
def execDlsLease (r : Req) (bank kind id flags : Byte) (startAt endAt : MT) (s : State) : Outc :=
  let b := bank.toNat
  let k := kind.toNat
  let e := if endAt = MT.zero then none else some endAt
  let act : SchedAct := .lease b k id.toNat (flags.getLsbD 0) e
  ok (writeCmd s r { obj := 0x1040, role := engineer } (fun s =>
    if !leaseRange s false b k id.toNat flags.toNat startAt endAt then .error eRange
    else if !inTime (now s) startAt then .error eLate
    else
      let u := leasesBefore s startAt
      let old := Machine.bank u b
      if (decide (k = 0) == decide (old.kind = 0)) || schedTaken s startAt act then .error eConflict
      else if (decide (k = 1) && fifthBank s startAt id.toNat act) || !schedRoom s 1 then .error eCapacity
      else if dormant s || (decide (old.kind = 1) && (match bankIndex (eng u old.id) b with
          | some i => bankNeeded (eng s old.id) i
          | none => false)) then .error eState
      else .ok (schedAdd s startAt [act])))

/-- DLS_LEASE with CANCEL (R71, R274): it matches by bank and START alone. -/
def execDlsLeaseCancel (r : Req) (bank kind id flags : Byte) (startAt endAt : MT) (s : State) : Outc :=
  let b := bank.toNat
  ok (writeCmd s r { obj := 0x1040, role := engineer } (fun s =>
    if !leaseRange s true b kind.toNat id.toNat flags.toNat startAt endAt then .error eRange
    else if !inTime (now s) startAt then .error eLate
    else if !schedTaken s startAt (.lease b 0 0 false none) then .error eState
    else .ok (schedDrop s (fun x => decide (x.target = startAt) && sameItem x.act (.lease b 0 0 false none)))))

/-- ZERO_FILL_COMPLETE (R249). -/
def execZeroFillComplete (bank : Fin 32) (s : State) : Outc :=
  ok (setBank s bank.val { Machine.bank s bank.val with zeroPending := false })

/-! ## The shared slot (R243 to R245) -/

/-- A requester that waits while another request is served: its count, and its bit in WAIT_OVF. -/
def waitCount (b : Bank) (k : Nat) : Bank :=
  let (v, o) := satInc (tget 0 b.waits k)
  { b with waits := tset 0 b.waits k v, waitOvf := if o then b.waitOvf ||| BitVec.ofNat 8 (2 ^ k) else b.waitOvf }

/-- Requests that wait on a bank's shared slot, behind those that wait already. -/
def queueShared (s : State) (b : Nat) (l : List SharedReq) : State := setBank s b { bank s b with queue := (bank s b).queue ++ l }

/-- Requests that arrive together are served in ascending order of cycle, then of requester (R244). -/
def insertArrival (x : SlotRequest) : List SlotRequest → List SlotRequest
  | [] => [x]
  | y :: l =>
    if x.cycle.val < y.cycle.val || (decide (x.cycle = y.cycle) && decide (x.who.val < y.who.val)) then x :: y :: l else y :: insertArrival x l

/-- An arrival as it waits; it reaches no further than its 64-bit row. -/
def sharedReq (x : SlotRequest) : SharedReq :=
  let room := 4 - x.addr.val % 4
  ⟨x.who.val, x.addr.val, min (x.words.val + 1) room, x.write.map (·.take room)⟩

/-- A debug transfer of the delay-line store completes (R495, R497): an uncorrectable row reads 0 with ERROR ACCESS. -/
def debugServed (s : State) (value : Option Word) (bad : Bool) : State :=
  let d := s.jtag
  { s with jtag := { d with
      error := if bad then 4 else d.error
      xfer := match d.xfer, value with
        | some x, some v => some { x with values := x.values ++ [if bad then 0 else v.setWidth 32] }
        | x, _ => x } }

/-- What a shared slot returns to its requester: the words, or none for INTEGRITY (R261); the debug port takes its own (R495), and
patrol's next access of the running step asks for the slot (R264). DESIGN CHOICE (notes/assumptions/139): patrol has one access
pending at a time. -/
def slotServed (s : State) (n : Nat) (q : SharedReq) (out : Option (List Word)) : State :=
  let s : State := { s with mem := { s.mem with sharedOut := tput s.mem.sharedOut q.who out } }
  if q.who = 6 then debugServed s (if q.write.isNone then some ((out.getD []).headD 0) else none) out.isNone
  else if q.who = 5 then
    let p := s.mem.patrol
    let s : State := { s with mem := { s.mem with patrol := { p with left := p.left - 1 } } }
    if 1 < p.left then queueShared s n [{ q with addr := (q.addr / 2048) * 2048 + (q.addr % 2048 + 4) % 2048 }] else s
  else s

/-- The shared slot serves a read: the row as its owner left it (R244, R261). What patrol's own accesses find is counted once, where its
copy begins (R264). -/
def serveRead (s : State) (n : Nat) (q : SharedReq) : State :=
  let bad := rowBad s (n * 0x80000 + q.addr)
  let s := if q.who = 5 then s else eccRead s (dlsLoc (n * 0x80000 + q.addr))
  slotServed s n q (if bad then none else some ((List.range q.words).map (fun i => tget 0 (bank s n).mem (q.addr + i))))

/-- The shared slot serves a write, which reaches a FREE bank alone (R243). -/
def serveWrite (s : State) (n : Nat) (q : SharedReq) (ws : List Word) : State :=
  if (bank s n).kind = 0 then
    let s := clearRows s n ((List.range ws.length).map (q.addr + ·))
    slotServed (setBank s n { bank s n with mem := tsetRun 0 (bank s n).mem q.addr ws }) n q (some [])
  else slotServed s n q none

/-- SHARED_SLOT_ACCESS: what has arrived since the last slot waits behind the rest; the request that arrived first is served; every
other requester with a request waiting counts one (R243 to R245). -/
def execSharedSlotAccess (slot : SharedSlot) (s : State) : Outc :=
  let n := slot.bank.val
  let s := queueShared s n ((slot.arrivals.foldl (fun l x => insertArrival x l) []).map sharedReq)
  let b := Machine.bank s n
  match b.queue with
  | [] => ok s
  | q :: l =>
    let s := setBank s n ((List.range 7).foldl (fun b k => if l.any (fun x => decide (x.who = k)) then waitCount b k else b) { b with queue := l })
    ok (match q.write with
      | none => serveRead s n q
      | some ws => serveWrite s n q ws)

/-! ## Crossing RAM (R256 to R260) -/

/-- Port A's access to a word of the block in this cycle: the write if there is one, else the read. -/
def portAOf (c : Cross) (word : Nat) : Option PortA :=
  match c.portA.find? (fun a => decide (a.word = word) && a.wrote.isSome) with
  | some a => some a
  | none => c.portA.find? (fun a => decide (a.word = word))

/-- A collision: the flag, the count, and the record when the flag changes to 1 (R258). -/
def collide (s : State) (b word : Nat) : State :=
  let c := cross s b
  let (n, o) := satInc c.count
  let s' := setCross s b { c with flag := true, count := n, ovf := c.ovf || o }
  if c.flag then s' else detect s' 0x3006 b (BitVec.ofNat 32 word)

/-- Write one word through port B. -/
def portBWrite (s : State) (b word : Nat) (v : Word) : State :=
  let s := clearMark s (locOf 4 b word)
  setCross s b { cross s b with mem := tset 0 (cross s b).mem word v }

/-- The port-B access that is next, and whether it is the control core's: the words of one request follow one another, and requests
of the two sides take turns (R256, R259). -/
def nextPortB (c : Cross) : Option (PortB × Bool) :=
  let goesOn (a : PortB) : Bool := a.tag.isSome && decide (a.tag = c.lastTag)
  match c.waitCc, c.waitLink with
  | [], [] => none
  | a :: _, [] => some (a, true)
  | [], b :: _ => some (b, false)
  | a :: _, b :: _ => if c.lastCc == goesOn (if c.lastCc then a else b) then some (a, true) else some (b, false)

/-- One port-B access: port A's write of the same cycle stands, and a different value written through port B is discarded; after port
A's atomic, port B's write stands; a read returns the word before the cycle (R257). -/
def portBAct (s : State) (b : Nat) (a : PortB) (sameCycle : Bool) : State :=
  let w := a.word
  let at' := if sameCycle then portAOf (cross s b) w else none
  match a.write with
  | none =>
    let v := match at' with
      | some x => x.before
      | none => tget 0 (cross s b).mem w
    eccRead (setCross s b { cross s b with readB := v }) (locOf 4 b w)
  | some v =>
    match at' with
    | none => portBWrite s b w v
    | some x => match x.wrote with
      | none => portBWrite s b w v
      | some y => if x.atomic then portBWrite s b w v else if y = v then s else collide s b w

/-- The next port-B cycle of a block. -/
def portBStep (s : State) (b : Nat) (sameCycle : Bool) : State :=
  let c := cross s b
  match nextPortB c with
  | none => s
  | some (a, cc) =>
    let s := setCross s b { c with
      waitCc := if cc then c.waitCc.drop 1 else c.waitCc, waitLink := if cc then c.waitLink else c.waitLink.drop 1
      lastCc := cc, lastTag := a.tag }
    portBAct s b a sameCycle

/-- Every port-B access of a block that waits is carried out. DESIGN CHOICE (notes/assumptions/138): this happens before the control
core's next read or atomic of the block, and by the next base-period boundary. -/
def settlePortB (s : State) (b : Nat) : State :=
  (List.range ((cross s b).waitCc.length + (cross s b).waitLink.length)).foldl (fun s _ => portBStep s b false) s

/-- The control core's writes wait for port B, word by word (R259). -/
def queueCross (s : State) (b word : Nat) (v : Word) (tag : Nat) : State :=
  setCross s b { cross s b with waitCc := (cross s b).waitCc ++ [⟨word, some v, some tag⟩] }

/-- PORT_B_ACCESS: a request that arrives on one side waits behind that side's others, and the next access is carried out. -/
def execPortBAccess (block : Fin 32) (link : Bool) (word : Fin 1024) (request : PortBReq) (sameCycle : Bool) (s : State) : Outc :=
  let b := block.val
  let c := cross s b
  let new : List PortB := match request with
    | .none => []
    | .read => [⟨word.val, none, none⟩]
    | .write v => [⟨word.val, some v, none⟩]
  let s := setCross s b { c with waitCc := if link then c.waitCc else c.waitCc ++ new, waitLink := if link then c.waitLink ++ new else c.waitLink }
  ok (portBStep s b sameCycle)

/-- CROSS_ATOMIC (R257, R260): after what waits for port B, it acts on the long as port A leaves it, in the same cycle or not, which the
engine's words of that cycle have done before; the old long is the session's OLD. An uncorrectable word answers INTEGRITY (R261). -/
def execCrossAtomic (r : Req) (addr : Word) (op reserved : Byte) (operand : Long) (_sameCycle : Bool) (s : State) : Outc :=
  let b := addr.toNat / 1024 % 32
  let w := addr.toNat % 1024
  let range := decide (addr.toNat < 0x8000) && decide (w % 2 = 0) && decide (op.toNat ≤ 1) && decide (reserved = 0)
  let g : Gate := { obj := 0x1005, role := engineer, range := range }
  let words := [w, w + 1]
  let s := settlePortB s b
  let bad := words.any (fun k => decide (eccMark s (locOf 4 b k) = 2))
  let s := if dictPresent s && decide ((session s r.sess.val).phase = 2) && (gateFails s r g).isNone then
      words.foldl (fun s k => eccRead s (locOf 4 b k)) s
    else s
  ok (writeCmd s r g (fun s =>
    if bad then .error eIntegrity
    else
      let m := (cross s b).mem
      let old : Long := tget 0 m w ++ tget 0 m (w + 1)
      let new := atomNew (decide (op = 1)) old operand
      let s := portBWrite (portBWrite s b w (new.extractLsb' 16 16)) b (w + 1) (new.extractLsb' 0 16)
      let s := setCross s b { cross s b with lastCc := true, lastTag := none, readB := old.extractLsb' 0 16 }
      .ok (setSession s r.sess.val { session s r.sess.val with oldAtomic := old })))

/-- COLL_CLEAR (R273): each bit written 1 clears that block's flag. -/
def execCollClear (r : Req) (mask : Long) (s : State) : Outc :=
  ok (writeCmd s r { obj := 0x1004, role := engineer } (fun s =>
    .ok ((List.range 32).foldl (fun s b => if mask.getLsbD b then setCross s b { cross s b with flag := false } else s) s)))

/-! ## Patrol (R263 to R269) -/

/-- Regions of the device. -/
def regions : Nat := 18560

/-- Kind, unit, first word and words of a region, in the terms of LAST_LOC (R262, R263). -/
def regionAt (r : Nat) : Nat × Nat × Nat × Nat :=
  if 10368 ≤ r then (5, 0, 2048 * (r - 10368), 2048)
  else
    let n := r / 324
    let k := r % 324
    if k < 128 then (1, n, 256 * k, 256)
    else if k < 256 then (2, n, 256 * (k - 128), 256)
    else if k < 320 then (3, n, 256 * (k - 256), 256)
    else (4, n, 256 * (k - 320), 256)

/-- A number for the repair bank of a region (R263): two program banks, four local banks and the coefficient RAM of each
engine, the crossing RAM, each delay-line bank. -/
def repairBank (r : Nat) : Nat :=
  let (kind, n, a, _) := regionAt r
  match kind with
  | 1 => 8 * n + a / 0x4000
  | 2 => 8 * n + 2 + a / 0x2000
  | 3 => 8 * n + 6
  | 4 => 256
  | _ => 257 + a / 0x80000

/-- Spares used in a repair bank; they are taken in order. -/
def sparesUsed (s : State) (k : Nat) : Nat :=
  s.flash.repair.remaps.foldl (fun m kv => if repairBank kv.1 = k then max m kv.2 else m) 0

/-- The first region from `r` on that patrol does not skip (R267). -/
def nextRegion (s : State) (r : Nat) : Option Nat :=
  let rec go : Nat → Nat → Option Nat
    | 0, _ => none
    | f + 1, r => if regions ≤ r then none else if s.flash.repair.skipped.contains r then go f (r + 1) else some r
  go (s.flash.repair.skipped.length + 1) r

/-- Locations marked within a region. -/
def marksIn (s : State) (r : Nat) : List Nat :=
  let (kind, n, a, c) := regionAt r
  tkeys (fun v => decide (v ≠ 0)) (s.mem.ecc.filter (fun kv =>
    decide (kv.1 / 2 ^ 29 = kind) && decide (kv.1 / 2 ^ 24 % 32 = n) && decide (a ≤ kv.1 % 2 ^ 24) && decide (kv.1 % 2 ^ 24 < a + c)))

def setPatrol (s : State) (p : Patrol) : State := { s with mem := { s.mem with patrol := p } }

/-- A zero-fill runs in the bank of a DLS region (R269). -/
def regionFilling (s : State) (r : Nat) : Bool := decide (10368 ≤ r) && (bank s ((r - 10368) / 256)).zeroPending

/-- Accesses of a step through the shared slot: a delay-line region has 512 rows of 64 bits; the RAMs of the engines have a test port
of their own, which delays nobody (R264). -/
def stepAccesses (r perRow : Nat) : Nat := if 10368 ≤ r then 512 * perRow else 0

/-- A step of the region begins: patrol's first access of it asks for the shared slot as requester 5 (R243, R264). -/
def patrolStep (s : State) (p : Patrol) (perRow : Nat) : State :=
  let n := stepAccesses p.region perRow
  let s := setPatrol s { p with left := n }
  let w := 2048 * (p.region - 10368)
  if n = 0 then s else queueShared s (w / 0x80000) [⟨5, w % 0x80000, 4, none⟩]

/-- PATROL_REGION_START: the copy begins; correctable words are corrected (R261, R264, R265, R268). -/
def execPatrolRegionStart (s : State) : Outc :=
  let p := s.mem.patrol
  match nextRegion s p.region with
  | none => ok s
  | some r =>
    if decide (p.state ≠ .idle) || !s.cfg.patrolOn || dormant s || s.power.ccDown.isSome || decide (s.power.dev = .booting) || regionFilling s r then ok s
    else
      let s := (marksIn s r).foldl (fun s l => if eccMark s l = 1 then clearMark (eccRead s l) l else eccRead s l) s
      ok (patrolStep s { p with
        state := .copy, region := r, redirected := false
        cutoff := if (nextRegion s (r + 1)).isNone then some (now s) else none } 1)

/-- SECDED units of a region, and the bits of a unit's data and check bits (R240, R263, R264). -/
def unitsOf (r : Nat) : Nat := if 10368 ≤ r then 512 else 256

/-- The data background of a March run: all-zero, or 0x5555 per word; "1" is its complement (R264). -/
def background (alternate : Bool) : BitVec 72 := if alternate then 0x555555555555555555 else 0

/-- What a unit's cells hold after a write, some of them stuck. -/
def cellAfter (d : CellDefect) (v : BitVec 72) : BitVec 72 := (v &&& ~~~d.low) ||| d.high

/-- March C− over one unit, in the order in which it meets the unit: `some x` writes, `none` reads and expects what was written. -/
def marchUnit (d : CellDefect) (bg : BitVec 72) : Bool :=
  let one := ~~~bg
  -- write 0; read 0, write 1; read 1, write 0; read 0, write 1; read 1, write 0; read 0
  [bg, one, bg, one, bg].all (fun v => decide (cellAfter d v = v))

/-- The March test of a region passes on both backgrounds (R264). -/
def marchPasses (r : Nat) (defects : List CellDefect) : Bool :=
  defects.all (fun d => decide (unitsOf r ≤ d.unit) || (marchUnit d (background false) && marchUnit d (background true)))

/-- The region's own cells after the test: the last background, but where cells are stuck. -/
def marchedCells (r : Nat) (defects : List CellDefect) : Tbl (BitVec 72) :=
  (List.range (unitsOf r)).map (fun i => (i, (defects.filter (fun d => decide (d.unit = i))).foldl (fun v d => cellAfter d v) (background true)))

/-- PATROL_REDIRECT: the copy is complete, and every access goes to the buffer; the March test takes 20 accesses of each unit. -/
def execPatrolRedirect (s : State) : Outc :=
  let p := s.mem.patrol
  if decide (p.state = .copy) && decide (p.left = 0) then ok (patrolStep s { p with state := .test, redirected := true } 20) else ok s

/-- PATROL_TEST_DONE: on a failure the contents go to the first free spare, or back to the failing region, which later
passes skip (R266, R267). -/
def execPatrolTestDone (defects : List CellDefect) (s : State) : Outc :=
  let p := s.mem.patrol
  if decide (p.state ≠ .test) || decide (p.left ≠ 0) then ok s
  else
    let r := p.region
    let s := patrolStep s { p with state := .restore, cells := marchedCells r defects } 1
    if marchPasses r defects then ok s
    else
      let k := repairBank r
      let f := s.flash.repair
      if sparesUsed s k < 8 then
        let s := { s with flash := { s.flash with repair := { f with
          remaps := tset 0 f.remaps r (sparesUsed s k + 1), remapCount := (satInc f.remapCount).1 } } }
        ok (detect s 0x3003 (regionAt r).1 (BitVec.ofNat 32 r))
      else
        let s := { s with flash := { s.flash with repair := { f with
          skipped := f.skipped ++ [r], unrepaired := (satInc f.unrepaired).1 } } }
        ok (detect s 0x3004 (regionAt r).1 (BitVec.ofNat 32 r))

/-- The pass ends with a result (R265, R268): 1 COMPLETE, 2 ABORTED. The next pass starts at region 0. -/
def endPass (s : State) (result : Nat) : State :=
  let p := s.mem.patrol
  let (n, o) := if result = 1 then satInc p.passes else (p.passes, false)
  let s := setPatrol s { p with
    region := 0, passes := n, passOvf := p.passOvf || o, lastEnd := now s, lastResult := result
    cutoff := none, abortReq := false, restartReq := false }
  detect s 0x3005 devUnit (BitVec.ofNat 32 result)

/-- The region is released: an access that it still waits for goes; the redirect ends; the pass ends after its last region or at an abort; a pause takes effect (R264, R268,
R269). -/
def releaseRegion (s : State) (pause : Bool) : State :=
  let p := s.mem.patrol
  let b := (p.region - 10368) / 256
  let s := if p.left = 0 then s else setBank s b { bank s b with queue := (bank s b).queue.filter (fun q => decide (q.who ≠ 5)) }
  let s := setPatrol s { p with
    state := if pause || p.pauseReq then .paused else .idle, redirected := false, pauseReq := false, region := p.region + 1, left := 0, cells := [] }
  if p.abortReq || p.restartReq then endPass s 2
  else if (nextRegion s (p.region + 1)).isNone then endPass s 1
  else s

/-- PATROL_RELEASE: the restore is complete. -/
def execPatrolRelease (s : State) : Outc :=
  let p := s.mem.patrol
  if decide (p.state ≠ .restore) || decide (p.left ≠ 0) then ok s else ok (releaseRegion s false)

/-- A region is between its start and its release. -/
def patrolBusy (p : Patrol) : Bool := decide (p.state ≠ .idle) && decide (p.state ≠ .paused)

/-- RESTART_PASS (R268). -/
def execRestartPass (r : Req) (s : State) : Outc :=
  ok (writeCmd s r { obj := 0x1001, role := engineer } (fun s =>
    let p := s.mem.patrol
    .ok (if patrolBusy p then setPatrol s { p with restartReq := true } else endPass s 2)))

/-- ABORT (R268): TOO_LATE from the start of the pass's last region on. -/
def execPatrolAbort (r : Req) (s : State) : Outc :=
  ok (writeCmd s r { obj := 0x1001, role := engineer } (fun s =>
    let p := s.mem.patrol
    if p.cutoff.isSome then .error eLate
    else .ok (if patrolBusy p then setPatrol s { p with abortReq := true } else endPass s 2)))

/-- PATROL_CTRL.ENABLE (R268, R275). -/
def execPatrolEnable (r : Req) (v : Byte) (s : State) : Outc :=
  ok (writeCmd s r { obj := 0x1001, role := engineer, range := decide (v.toNat ≤ 1) } (fun s =>
    let p := s.mem.patrol
    let on := decide (v = 1)
    let s' := bumpEpoch { s with cfg := { s.cfg with patrolOn := on } }
    .ok (setPatrol s' (
      if on then { p with state := if p.state = .paused then .idle else p.state, pauseReq := false }
      else if p.state = .idle then { p with state := .paused }
      else if p.state = .paused then p
      else { p with pauseReq := true }))))

end Sys2Proof.Machine
end

