-- ==== Sys2Proof/Machine/Ports.lean ====
section
/-! DEFINITION. Serial audio and AES3 ports: enabling, frames in and out, alignment, clock loss, channel status and capture
bindings (R311 to R335, R340 to R345, R353, R357, R358). -/
namespace Sys2Proof.Machine

/-! ## Objects and configuration (R311 to R315, R346, R347) -/

/-- First object of a port. -/
def portObj (p : Nat) : Nat := if p < 16 then 0x0800 + 64 * p else 0x0C00 + 16 * (p - 16)

/-- R311 to R315, R321 and R329 for a port about to be enabled. -/
def portConfigOk (s : State) (p : Nat) : Bool :=
  let c := portCfg s p
  let foreign := decide (c.rate = 4)
  let mates := (List.range 24).filter (fun q => decide (q ≠ p) && (portCfg s q).enable && decide ((portCfg s q).group = c.group))
  let group := decide (c.group = 0) || (!foreign && mates.all (fun q => decide ((portCfg s q).rate = c.rate)))
  if p < 16 then
    let b := frameBits c
    let bm := b * 2 ^ c.rate
    group && decide (c.slotWidth ≤ 2) && decide (c.dataWidth ≤ c.slotWidth) && (decide (c.format = 2) || decide (c.slots = 2)) &&
      (!foreign || decide (c.bclkDir = 0)) && decide (b * portHz s p ≤ 49152000) &&
      (decide (c.bclkDir = 0) || (!foreign && [32, 64, 128, 256, 512, 1024].contains bm))
  else group && decide (c.rate ≠ 3) && (decide (c.txClock = 0) || foreign)

/-! ## Enabling (R314, R340, R345) -/

/-- A channel as enabling leaves it. -/
def freshChan (muted : Bool) : Chan := { muted := muted }

/-- Both directions of a port with every channel started at unity gain, muted where START_MUTED says so. -/
def freshChans (c : PortCfg) (q : Port) : Port :=
  let side (m : Long) : Tbl Chan := (List.range 32).foldl (fun t i => tset {} t i (freshChan (m.getLsbD i))) []
  { q with chIn := side c.startMutedIn, chOut := side c.startMutedOut }

/-- A port that has not run: no frames, no stamps, no count. -/
def freshPort (t : MT) (q : Port) : Port :=
  { freshStamps t q with
    lastStamp := none, outDone := none, lastOut := [], lastEdge := none, fading := false, rampIn := none, rampOut := none
    window := [], consistent := 0, qualAt := none, groupGo := false, est := 0, estLocked := none }

/-- An admitted route, a stream or a capture ring uses the port. -/
def portUsed (s : State) (p : Nat) : Bool :=
  usesEndpoint s (fun v => (decide (epKind v = 2) || decide (epKind v = 3)) && decide (epPort v = p)) ||
    decide ((portCfg s p).capRing ≠ 0xFF) || decide ((port s p).capRing ≠ 0xFF)

/-- A write of a port's ENABLE. A port with no slave clock has no frames to count and has qualified (R345). -/
def execPortEnable (r : Req) (port : Fin 24) (v : Byte) (s : State) : Outc :=
  let p := port.val
  ok (writeCmd s r { obj := portObj p, role := engineer, range := decide (v.toNat ≤ 1) } (fun s =>
    let c := portCfg s p
    let on := decide (v = 1)
    if c.enable = on then .ok (bumpEpoch s)
    else
      let set (s : State) : State := bumpEpoch (setPortCfg s p { portCfg s p with enable := on })
      if on then
        if !portConfigOk s p then .error eRange
        else
          let q := freshPort (now s) (freshChans c (Machine.port s p))
          .ok (set (setPort s p { q with state := .acquire, qualAt := if masterPort s p then some (now s) else none }))
      else if portUsed s p then .error eState
      else
        let s := schedDrop s (fun x => match x.act with
          | .port p' _ _ _ _ _ => decide (p' = p)
          | _ => false)
        let s := unlockPort s p
        let q := freshPort (now s) (Machine.port s p)
        .ok (set (bufferOff (setPort s p { q with state := .off, inDelay := 0, outDelay := 0, dIn := 0, dOut := 0 }) p))))

/-! ## Clock loss (R333, R334) -/

/-- A port leaves RUN, or fails to enter it: its inbound channels fade from their last good samples, its outbound ones are muted, and the
bridge sides on it lose it (R334, R360). One that has had no good sample since it was enabled or left RUN brings zero samples (R345). -/
def portFails (s : State) (p : Nat) (st : PortState) : State :=
  let q := port s p
  let silent := decide (st = .alignFault) && decide (q.state ≠ .run) && !q.fading
  let s := setPort s p { q with
    state := st, consistent := 0, window := [], qualAt := none, groupGo := false
    fading := ((decide (q.state = .run) || silent) && hasIn s p) || q.fading, rampOut := none, estLocked := none
    chIn := if silent then q.chIn.map (fun x => (x.1, { x.2 with ago := 32 })) else q.chIn
    lastStamp := if silent then some (now s) else q.lastStamp, outDone := if silent then some (now s) else q.outDone }
  unlockPort s p

/-- An AES3 receiver loses its lock (R318, R333). -/
def aesUnlock (s : State) (p : Nat) : State := setPort s p { port s p with aesLocked := false, aesRun := 0, aesBlock := 0 }

/-- An enabled port becomes clock-lost under a criterion 1 to 4 of R333; before RUN its count starts afresh. -/
def clockLost (s : State) (p criterion : Nat) (inj : Bool) : State :=
  let s := if criterion = 4 ∧ 16 ≤ p then aesUnlock s p else s
  let q := port s p
  match q.state with
  | .off => s
  | .run => bufferOff (detectAs (portFails (portCount s p 0x0A) p .clockLost) 0x4001 p (BitVec.ofNat 32 criterion) inj) p
  | _ => setPort s p { q with consistent := 0, qualAt := if masterPort s p then q.qualAt else none, groupGo := false }

/-- PORT_CLOCK_LOST: a criterion of R333 that the port's clocks make it watch (R312); the third needs its nine frames. -/
def execPortClockLost (port : Fin 24) (criterion : Nat) (s : State) : Outc :=
  let p := port.val
  let s := if criterion = 4 ∧ 16 ≤ p then followPort (aesUnlock s p) p else s
  if watched s p criterion && (decide (criterion ≠ 3) || decide (8 < ((Machine.port s p).window.filter (fun b => b)).length)) then
    ok (clockLost s p criterion false)
  else ok s

/-! ## Inbound frames (R316, R318, R325, R326, R333) -/

/-- The data bits of an inbound slot as a sample long. -/
def slotSample (s : State) (p : Nat) (x : Long) : Long :=
  let c := portCfg s p
  let w := if p < 16 then widthBits c.dataWidth else if c.rxWord = 0 then 24 else 20
  (x >>> (32 - w)) <<< (32 - w)

/-- Parity and coding errors of an AES3 frame: PARITY_ERR or CODING_ERR, with their record. -/
def aesErrors (s : State) (p : Nat) (parity coding : List Bool) : State :=
  (List.range 2).foldl (fun s i =>
    let bad := parity.getD i false
    let code := coding.getD i false
    let s := if bad then portCount s p 0x05 else s
    let s := if code then portCount s p 0x06 else s
    if bad || code then detect s 0x4008 p (BitVec.ofNat 32 i) else s) s

/-- A frame whose period an AES3 receiver can lock to: 32 to 192 kHz ± 12.5 % (R532), and within ±5 % of the frame before it. DESIGN CHOICE
(notes/assumptions/162): that ±5 % is a consistent cell rate. -/
def aesSteady (s : State) (q : Port) (period : Nat) : Bool :=
  let hz := 65536 * rateHz s.clocks.rate
  decide (28000 * period ≤ hz) && decide (hz ≤ 216000 * period) &&
    (decide (q.aesRun = 0) || (decide (20 * period ≤ 21 * q.aesPeriod) && decide (19 * q.aesPeriod ≤ 20 * period)))

/-- Frames in a row after one more: a frame at another rate begins a row of its own. -/
def aesRunNext (s : State) (q : Port) (f : InFrame) : Nat :=
  if !f.preambles then 0 else if aesSteady s q f.period then min 8 (q.aesRun + 1) else bitOf (aesSteady s { q with aesRun := 0 } f.period)

/-- What an AES3 receiver counts of a frame: frames in a row with valid preambles in order at a consistent cell rate, frames in a row
without, and those of the block; without valid preambles for 2 frames its lock is gone, and the bridge sides that it times lose it (R318,
R319, R322, R333, R353). -/
def aesSees (s : State) (p : Nat) (f : InFrame) : State :=
  let q := port s p
  let s := setPort s p { q with
    aesRun := aesRunNext s q f, aesMiss := if f.preambles then 0 else q.aesMiss + 1, aesPeriod := f.period
    aesBlock := if q.aesLocked then min 192 (q.aesBlock + 1) else 0 }
  if !f.preambles && decide (2 ≤ q.aesMiss + 1) then
    let s := aesUnlock s p
    followPort (if aesReceives s p then clockLost s p 4 false else s) p
  else s

/-- A consistent frame (R333): its bits or preambles and coding, its period, and in RUN on a port of class m its edge. A port with no
slave clock sets its own frames. -/
def consistentFrame (s : State) (p : Nat) (f : InFrame) : Bool :=
  let q := port s p
  let shape := if p < 16 then decide (f.bits = frameBits (portCfg s p)) else f.preambles && !f.coding.any (fun b => b)
  let T := portUnits s p
  let placed := decide (q.state ≠ .run) || decide ((portCfg s p).rate = 4) || decide (4 * edgeGap T (mtNat f.edge) (alignedEdge s p q.dIn) ≤ T)
  masterPort s p || (shape && periodOk s p f.period && placed)

/-- The samples of a frame, and the channels that repeat their previous one: an AES3 subframe in error, or with V set under V_MODE 1
(R318). -/
def frameEntry (s : State) (p : Nat) (f : InFrame) (x : MT) : InEntry :=
  let n := portChans s p
  ⟨x, (List.range n).map (fun i => slotSample s p (f.slots.getD i 0)), (List.range n).map (fun i =>
    decide (16 ≤ p) && (decide ((port s p).holdNext = some i) || f.parity.getD i false || f.coding.getD i false ||
      (decide ((portCfg s p).vMode = 1) && f.vbits.getD i false)))⟩

/-- A consistent frame of a running port of class m takes the stamp nearest to e + D_in; of two frames with one stamp, or at a FIFO of 8,
the newer goes, and so does one whose stamp has passed or that completes too late for it (R325, R326). -/
def acceptFrame (s : State) (p : Nat) (f : InFrame) : State :=
  let q := port s p
  let e := mtNat f.edge
  let n := nearestStamp s p (e + q.dIn)
  let x := mtOf n
  let entry := frameEntry s p f x
  let q := { q with fill := BitVec.ofNat 16 (fillOf s p e n), measIn := n - e, holdNext := none }
  let s := setPort s p q
  let passed := match q.lastStamp with
    | some t => !inFuture t x
    | none => false
  if passed || !completesBy s p e n then s
  else if q.inFifo.any (fun y => decide (y.stamp = x)) || decide (8 ≤ q.inFifo.length) then overrun s p 0 false
  else setPort s p { q with inFifo := q.inFifo ++ [entry] }

/-- Armed inbound actions of a FOREIGN port's channel whose target the group delay brings to the frame with edge `e` (R358). -/
def begunAhead (s : State) (p ch : Nat) (e : MT) (c : Chan) : Chan :=
  let reach := mtPlus e (chanDelay s p false ch)
  s.clocks.sched.foldl (fun c x =>
    match x.act with
    | .port p' false op gain first n =>
      if decide (p' = p) && decide (first ≤ ch) && decide (ch < first + n) && !c.begun.contains (x.target, op) && isDue reach x.target then
        let c := chanArrive (rampLen s p) e (portCfg s p).zcTimeoutMs.toNat c op gain
        { c with begun := c.begun ++ [(x.target, op)] }
      else c
    | _ => c) c

/-- What enters the ingress sides of a port at the frame with edge `e` (R350). -/
def feedSides (s : State) (p : Nat) (e : MT) (ys : List Long) : State :=
  (List.range 16).foldl (fun s b =>
    let c := sideCfg (rbCfg s b) false
    if (rbCfg s b).enable && decide (c.port.toNat = p) then
      let d := (bridge s b).ingress
      let xs := tsetRun 0 [] 0 ((List.range c.channels).map (fun i => ys.getD (c.first + i) 0))
      noteFill (setBridge s b { bridge s b with ingress := { d with hist := histPut s c e xs d.hist } }) b false
    else s) s

/-- A frame of a running FOREIGN port: its gains act in the port's own domain (R358), and its bridges have the samples. -/
def acceptForeign (s : State) (p : Nat) (f : InFrame) : State :=
  let len := rampLen s p
  let ms := (portCfg s p).zcTimeoutMs.toNat
  let n := portChans s p
  let q := port s p
  let entry := frameEntry s p f f.edge
  let q := (List.range n).foldl (fun q i => setChan q false i (begunAhead s p i f.edge (awaitsDue len f.edge ms (chan q false i)))) q
  let (q, ys) := stampChans len f.edge ms false (some entry) (gainOf (q.rampIn.map faderStep)) n 0 q
  feedSides (setPort s p { q with holdNext := none, rampIn := faderNext q.rampIn }) p f.edge ys

/-- The device receives audio on its ports: not in BOOTING, nor in DORMANT before 3 ms of a wake have passed (R343, R478). -/
def portsReceive (s : State) : Bool :=
  decide (s.power.dev ≠ .booting) && (decide (s.power.dev ≠ .dormant) || (match s.power.wake with
    | some (_, w) => isDue (now s) (mtPlus w (msUnits s 3))
    | none => false))

/-- A frame by the port's state: counted before RUN (R335, R345); in RUN stamped and moved, or discarded as inconsistent, the ninth such
frame in 64 costing the clock (R333). -/
def frameArrives (s : State) (p : Nat) (f : InFrame) : State :=
  let q := port s p
  let good := consistentFrame s p f
  let foreign := decide ((portCfg s p).rate = 4)
  let s := setPort s p { q with lastEdge := some f.edge }
  let s := if foreign && good then followPort (estimate s p f.period) p else s
  let q := port s p
  match q.state with
  | .off => s
  | .acquire | .clockLost | .alignFault =>
    if masterPort s p then s else setPort s p { q with consistent := if good then min 1000 (q.consistent + 1) else 0 }
  | .run =>
    let w := ((!good) :: q.window).take 64
    let s := setPort s p { q with window := w }
    if good then (if !hasIn s p then s else if foreign then acceptForeign s p f else acceptFrame s p f)
    else if 8 < (w.filter (fun b => b)).length then clockLost s p 3 false
    else detect (if p < 16 then portCount s p 0x09 else s) 0x4006 p 0

/-- A locked AES3 receiver that is not an enabled FOREIGN port and times the egress sides of a transmitter: it has an estimator all the same
(R321, R353). -/
def timesSides (s : State) (p : Nat) : Bool :=
  decide (16 ≤ p) && (port s p).aesLocked && !((portCfg s p).enable && decide ((portCfg s p).rate = 4)) && !(estSides s p).isEmpty

/-- PORT_INBOUND_FRAME. An AES3 receiver watches its line whether or not it is enabled (R322); a port that sends alone counts the frames of
its slave clock. -/
def execPortInboundFrame (port : Fin 24) (f : InFrame) (s : State) : Outc :=
  let p := port.val
  if !portsReceive s then ok s
  else
    let s := if 16 ≤ p then aesSees s p f else s
    let s := if decide (16 ≤ p) && (Machine.port s p).aesLocked && hasIn s p then aesErrors s p f.parity f.coding else s
    let s := if timesSides s p && f.preambles then followPort (estimate s p f.period) p else s
    ok (if (portCfg s p).enable then frameArrives s p f else s)

/-! ## Outbound frames (R316, R320, R321, R325, R326, R343, R360) -/

/-- The long reduced to `w` bits: truncated, or rounded to even and held at the largest positive code. -/
def reduce (w : Nat) (round : Bool) (x : Long) : Long :=
  let d := 2 ^ (32 - w)
  let q := if round then roundEven x.toInt d else x.toInt.fdiv d
  let q := if (2 ^ (w - 1) : Int) - 1 < q then 2 ^ (w - 1) - 1 else q
  BitVec.ofInt 32 (q * d)

/-- Bits sent of an outbound sample. -/
def outBits (s : State) (p : Nat) : Nat :=
  let c := portCfg s p
  if p < 16 then widthBits c.dataWidth else if c.txWord = 0 then 24 else 20

/-- One outbound slot: a channel with nothing to send follows UNUSED on a SAP and carries 0 on an AES3 port. -/
def outSlot (s : State) (p : Nat) (v : Option Long) : Option Long :=
  match v with
  | some x => some (reduce (outBits s p) (decide ((portCfg s p).txRound = 1)) x)
  | none => if decide (p < 16) && decide ((portCfg s p).unused = 1) then none else some 0

/-- The samples of an outbound frame of class m with edge `e`: those of the stamp nearest to e − D_out; an edge that no stamp maps to
repeats the last ones (R325, R326). Before the first stamp of a run there are none yet. -/
def classOut (s : State) (p : Nat) (e : MT) : State × List (Option Long) :=
  let q := port s p
  let x := mtOf (nearestStamp s p (mtNat (mtMinus e q.dOut)))
  let sent := match q.outSent with
    | some t => !inFuture t x
    | none => false
  if sent then (overrun s p 1 false, q.lastOut)
  else if !inFuture q.alignedAt x then (s, (List.range (portChans s p)).map (fun i => if chanFed s p i then some 0 else none))
  else
    let s := outStamps s p x
    let q := port s p
    match q.outReady.find? (fun y => decide (y.stamp = x)) with
    | some y =>
      let s := setPort s p { q with outSent := some x, outReady := q.outReady.filter (fun y => inFuture x y.stamp) }
      (if y.under then bufferOff (detect (portCount s p (xrunElem p 2)) 0x4004 p 1) p else s, y.samples)
    | none => (setPort s p { q with outSent := some x }, q.lastOut)

/-- The router has delivered to channel `i` of an egress side for the media stamp that reaches the wire at `e`, or for none since a gap though
something feeds the channel (R32, R357, R360). -/
def sideFed (s : State) (b i : Nat) (e : MT) : Bool :=
  let d := (bridge s b).egress
  let t := mtMinus e d.delay
  match (d.hist.filter (fun x => notBefore x.1 t)).getLast? with
  | some x => x.2.any (fun y => decide (y.1 = i)) &&
      (decide (mtDiff x.1 t < frameUnits (rbCfg s b).outClass) || endpointFed s (BitVec.ofNat 32 (4 * 2 ^ 24 + b * 2 ^ 16 + i)))
  | none => false

/-- What an egress side gives for channel `i` of the bridge at the port frame edge `e`, before its fades: converted while LOCKED, its last
converted sample while ECLK is gated or a fade runs, else zero (R32, R355, R360). -/
def sideRaw (s : State) (b i : Nat) (e : MT) : Long :=
  let d := (bridge s b).egress
  if d.state = .locked then
    if !s.clocks.gateOpen then tget 0 d.last i
    else if sideFed s b i e then convert s (sideCfg (rbCfg s b) true) true d.delay d.hist i e
    else 0
  else if d.fader.isNone then 0 else tget 0 d.last i

/-- One channel of a FOREIGN port at the frame edge `e`: its bridge's sample under the side's fade or ramp (R356, R360), the endpoint's
(R123) and the port's gain. A channel that no side drives sends nothing, and its actions and ramps go on (R338, R339). -/
def foreignChan (s : State) (p : Nat) (e : MT) (ramp : Nat × Nat) (ch : Nat) : State × Option Long :=
  let len := rampLen s p
  let ms := (portCfg s p).zcTimeoutMs.toNat
  let c := awaitsDue len e ms (chan (port s p) true ch)
  match sideOf s p true ch with
  | none => (setPort s p (setChan (port s p) true ch (chanIdle len e ms c)), none)
  | some (b, i) =>
    let d := (bridge s b).egress
    let raw := sideRaw s b i e
    let x := tget {} d.ends i
    let g := gain2 (gainOf (d.fader.map faderStep)) (gainOf (x.starve.map faderStep))
    let (c, y) := chanSample len e ms c g ramp raw
    let s := setBridge s b { bridge s b with egress := { d with
      last := tset 0 d.last i raw, ends := if x.starve.isSome then tput d.ends i { x with starve := faderNext x.starve } else d.ends } }
    (setPort s p (setChan (port s p) true ch c), if c.stopped then none else some y)

/-- A frame of a FOREIGN port; each side that drives it is a sample further in its fade or ramp. -/
def foreignOut (s : State) (p : Nat) (e : MT) : State × List (Option Long) :=
  let ramp := gainOf ((port s p).rampOut.map faderStep)
  let (s, vs) := (List.range (portChans s p)).foldl (fun r i =>
    let (s, v) := foreignChan r.1 p e ramp i
    (s, r.2 ++ [v])) (s, [])
  let s := setPort s p { port s p with rampOut := faderNext (port s p).rampOut }
  ((List.range 16).foldl (fun s b =>
    if (rbCfg s b).enable && decide ((rbCfg s b).outPort.toNat = p) then
      let d := (bridge s b).egress
      noteFill (setBridge s b { bridge s b with egress := fadeEnds e { d with fader := faderNext d.fader } }) b true
    else s) s, vs)

/-- A FOREIGN transmitter without a slave clock: its estimator times its own frames (R353). -/
def timeOwnFrames (s : State) (p : Nat) (e : MT) : State :=
  let q := port s p
  if masterPort s p then
    let s := match q.lastEdge with
      | some a => if inFuture a e then followPort (estimate s p (mtDiff a e)) p else s
      | none => s
    setPort s p { port s p with lastEdge := some e }
  else s

/-- Channel-status or user bit of frame `n` of a block: octet n/8 from the first, lsb first (R318, R320). -/
def blockBit (v : BitVec 192) (n : Nat) : Bool := v.getLsbD (184 - 8 * (n / 8) + n % 8)

/-- A subframe with its preamble: audio in slots 4 to 27, then V, U, C and P, which makes slots 4 to 31 even (R320). -/
def subFrame (preamble : Nat) (x : Long) (v u c : Bool) : SubFrame :=
  let b : BitVec 28 := (x >>> 8).setWidth 28 ||| BitVec.ofNat 28 (bitOf v * 2 ^ 24 + bitOf u * 2 ^ 25 + bitOf c * 2 ^ 26)
  let odd := decide (((List.range 27).filter (fun i => b.getLsbD i)).length % 2 = 1)
  ⟨preamble, b ||| BitVec.ofNat 28 (bitOf odd * 2 ^ 27)⟩

/-- What a frame puts on the wire: slots and V bits; on an AES3 port the subframes of the running block. -/
def drive (s : State) (p : Nat) (w : List (Option Long)) (v : List Bool) : State :=
  let q := port s p
  if p < 16 then setPort s p { q with wire := w, wireV := v }
  else
    let n := q.txFrame
    let x (i : Nat) : Long := (w.getD i none).getD 0
    let a := subFrame (if n = 0 then 2 else 0) (x 0) (v.getD 0 false) (blockBit q.sendUA n) (blockBit q.sendCsA n)
    let b := subFrame 1 (x 1) (v.getD 1 false) (blockBit q.sendUB n) (blockBit q.sendCsB n)
    setPort s p { q with wire := w, wireV := v, wireSub := [a, b], txFrame := (n + 1) % 192 }

/-- The data output is driven low: in BOOTING and DORMANT, without the outbound direction, and on a transmitter clocked by a receiver that
is not locked (R321, R343). -/
def wireLow (s : State) (p : Nat) : Bool :=
  let c := portCfg s p
  decide (s.power.dev = .booting) || decide (s.power.dev = .dormant) || decide (c.directions < 2) ||
    (decide (16 ≤ p) && decide (c.txClock ≠ 0) && !(port s (15 + c.txClock)).aesLocked)

/-- PORT_OUTBOUND_FRAME at the frame edge `edge`: what the wire carries; outside RUN as for stopped channels, in SAPLING and FAULT zero
audio (R343, R345). -/
def execPortOutboundFrame (port : Fin 24) (edge : MT) (s : State) : Outc :=
  let p := port.val
  let c := portCfg s p
  let n := portChans s p
  if wireLow s p then ok (setPort s p { Machine.port s p with wire := [], wireV := [], wireSub := [], txFrame := 0 })
  else if decide (s.power.dev = .sapling) || decide (s.power.dev = .fault) then
    ok (drive s p (List.replicate n (some 0)) (List.replicate n true))
  else
    let s := if c.enable && decide (c.rate = 4) then timeOwnFrames s p edge else s
    if (Machine.port s p).state ≠ .run then ok (drive s p (List.replicate n (outSlot s p none)) (List.replicate n true))
    else
      let (s, vs) := if c.rate = 4 then foreignOut s p edge else classOut s p edge
      let s := setPort s p { Machine.port s p with lastOut := vs }
      ok (drive s p (vs.map (outSlot s p)) ((List.range n).map (fun i => (chan (Machine.port s p) true i).stopped)))

/-! ## Qualifying and alignment (R324, R330, R331, R335) -/

/-- PORT_QUALIFIED: 1,000 consistent frames in a row have been counted. -/
def execPortQualified (port : Fin 24) (s : State) : Outc :=
  let p := port.val
  let q := Machine.port s p
  if (decide (q.state = .acquire) || decide (q.state = .clockLost)) && q.qualAt.isNone && (masterPort s p || decide (1000 ≤ q.consistent)) then
    ok (setPort s p { q with qualAt := some (now s) })
  else ok s

/-- GROUP_ALIGN_TIMEOUT: 2 s after its first member qualified, the group aligns without those still qualifying (R330). -/
def execGroupAlignTimeout (g : Fin 8) (s : State) : Outc :=
  let mates := groupMates s (g.val + 1)
  let due := mates.any (fun p => match (port s p).qualAt with
    | some t => isDue (now s) (mtPlus t (msUnits s 2000))
    | none => false)
  if due then
    ok (mates.foldl (fun s p => if (port s p).qualAt.isSome then setPort s p { port s p with groupGo := true } else s) s)
  else ok s

/-- The delays in force in a group, and their alignment: those of a member in RUN. -/
def groupDelays (s : State) (g : Nat) : Option (Nat × Nat × MT) :=
  ((groupMates s g).find? (fun p => decide ((port s p).state = .run))).map (fun p => ((port s p).dIn, (port s p).dOut, (port s p).alignedAt))

/-- D_in and D_out of a port's alignment: its own, the group's in force, or those that the group now fixes from the qualified member whose
edges fall latest, with the largest D_out of any (R324, R330, R331). DESIGN CHOICE (notes/assumptions/144): which edges fall latest. -/
def alignDelays (s : State) (p : Nat) : Nat × Nat :=
  let own (k : Nat) : Nat × Nat := (ownDelayIn s k (port s k), ownDelayOut s k (port s k))
  let g := (portCfg s p).group
  if g = 0 then own p
  else match groupDelays s g with
    | some (i, o, _) => (i, o)
    | none =>
      let ms := (groupMates s g).filter (fun k => (port s k).qualAt.isSome)
      let m := ms.foldl (laterMember s) p
      ((own m).1, ms.foldl (fun o k => max o (own k).2) (own p).2)

/-- The port's edges lie within T/4 of those that D_in = `din` places, and where the group aligned before now its latest frame keeps the
guard of R324 (R330, R331). -/
def fitsGroup (s : State) (p din : Nat) (guard : Bool) : Bool :=
  let q := port s p
  let T := portUnits s p
  let e := match q.lastEdge with
    | some e => mtNat e
    | none => 0
  decide (4 * edgeGap T (edgeIn s p q) (alignedEdge s p din) ≤ T) && (!guard || masterPort s p || completesBy s p e (nearestStamp s p (e + din)))

/-- A port enters RUN with its delays: its channels ramp in over 32 samples; a return is reported; the sides of a FOREIGN port follow. -/
def enterRun (s : State) (p din dout : Nat) : State :=
  let q := port s p
  let back := decide (q.state = .clockLost) || decide (q.state = .alignFault)
  let s := setPort s p (setDelays s (now s) din dout { freshStamps (now s) q with
    state := .run, window := [], consistent := 0, qualAt := none, groupGo := false, fading := false
    rampIn := some (rampFromZero 32), rampOut := some (rampFromZero 32) })
  let s := if back then detect s 0x4002 p 0 else s
  followPort s p

/-- A port is not aligned with its group (R330, R331): it behaves as clock-lost (R345), counts as such, and is no BUFFER reference (R112,
R503). -/
def alignFaults (s : State) (p : Nat) (inj : Bool) : State :=
  bufferOff (detectAs (portFails (portCount s p 0x0A) p .alignFault) 0x4003 p 0 inj) p

/-- A group aligns afresh: its members in ALIGN_FAULT whose frames come are judged with it (R330, R345). -/
def rejoinFaulted (s : State) (g : Nat) : State :=
  (groupMates s g).foldl (fun s k =>
    let q := port s k
    if decide (q.state = .alignFault) && q.qualAt.isNone && (masterPort s k || decide (0 < q.consistent)) then setPort s k { q with qualAt := some (now s) } else s) s

/-- The port may align now: it has qualified, and so has every enabled member of its group, or their 2 s are over. -/
def mayAlign (s : State) (p : Nat) : Bool :=
  let q := port s p
  let g := (portCfg s p).group
  q.qualAt.isSome && isPeriod (now s) && portsReceive s &&
    (decide (g = 0) || q.groupGo || (groupDelays s g).isSome ||
      (groupMates s g).all (fun k => (port s k).qualAt.isSome || decide ((port s k).state = .alignFault)))

/-- The group's alignment lies before now. -/
def alignedBefore (s : State) (p : Nat) : Bool :=
  match groupDelays s (portCfg s p).group with
  | some (_, _, t) => decide (t ≠ now s)
  | none => false

/-- PORT_ALIGN at a base-period boundary (R324, R330, R331). The alignment unit's figures are the model's own, from the edges it holds. -/
def execPortAlign (port : Fin 24) (_edgeIn _edgeOut : Nat) (_fill : Word) (_spread : Bool) (s : State) : Outc :=
  let p := port.val
  let c := portCfg s p
  if !mayAlign s p then ok s
  else if c.rate = 4 then ok (enterRun s p 0 0)
  else
    let (i, o) := alignDelays s p
    let fresh := decide (c.group ≠ 0) && (groupDelays s c.group).isNone
    if c.group = 0 ∨ fitsGroup s p i (alignedBefore s p) then
      let s := enterRun s p i o
      ok (if fresh then rejoinFaulted s c.group else s)
    else ok (alignFaults s p false)

/-- ALIGN_RECHECK: after 1,000 more consistent frames a member in ALIGN_FAULT that fits joins its group, at a base-period boundary, or has
qualified to join at the next; it qualifies for a group that is to align afresh, or goes on waiting (R331, R335, R345). -/
def execAlignRecheck (port : Fin 24) (_ok : Bool) (s : State) : Outc :=
  let p := port.val
  let q := Machine.port s p
  if decide (q.state ≠ .alignFault) || !(masterPort s p || decide (1000 ≤ q.consistent)) then ok s
  else
    match groupDelays s (portCfg s p).group with
    | some (i, o, _) =>
      if !fitsGroup s p i true then ok (setPort s p { q with consistent := 0 })
      else if isPeriod (now s) then ok (enterRun s p i o)
      else ok (setPort s p { q with qualAt := some (now s) })
    | none => ok (setPort s p { q with state := .acquire, qualAt := some (now s) })

/-! ## AES3 channel status and user bits (R318 to R320) -/

/-- AES_RX_LOCK: 8 frames in a row have had their preambles in order at a consistent rate. -/
def execAesRxLock (port : Fin 8) (s : State) : Outc :=
  let p := 16 + port.val
  let q := Machine.port s p
  if q.aesLocked || decide (q.aesRun < 8) || !portsReceive s then ok s
  else ok (setPort s p { q with aesLocked := true, aesBlock := 0 })

/-- Professional format, non-audio, and the CRCC's verdict, of 24 channel-status octets. -/
def csPro (l : List Byte) : Bool := (l.getD 0 0).getLsbD 0
def csNonAudio (l : List Byte) : Bool := (l.getD 0 0).getLsbD 1
def csGood (l : List Byte) : Bool := decide (crcc (l.take 23) = l.getD 23 0)

/-- AES_BLOCK_CAPTURE: each channel's block of 192 frames received without loss of lock replaces its capture as a whole, unless its
professional CRCC fails. -/
def execAesBlockCapture (port : Fin 8) (csA csB uA uB : List Byte) (vSeen : BitVec 2) (s : State) : Outc :=
  let p := 16 + port.val
  if !(Machine.port s p).aesLocked || decide ((Machine.port s p).aesBlock < 192) || !portsReceive s then ok s
  else
    let badA := csPro csA && !csGood csA
    let badB := csPro csB && !csGood csB
    let fail (s : State) (i : Nat) : State := detect (portCount s p 0x07) 0x4007 p (BitVec.ofNat 32 i)
    let s := if badA then fail s 0 else s
    let s := if badB then fail s 1 else s
    let q := Machine.port s p
    let flags := bitOf (csPro csA) + 2 * bitOf (csPro csB) + 4 * bitOf (csPro csA && csGood csA) + 8 * bitOf (csPro csB && csGood csB)
      + 16 * vSeen.toNat + 64 * bitOf (csNonAudio csA) + 128 * bitOf (csNonAudio csB) + 256
    ok (setPort s p { q with
      csA := if badA then q.csA else csOf csA, uA := if badA then q.uA else csOf uA
      csB := if badB then q.csB else csOf csB, uB := if badB then q.uB else csOf uB
      rxFlags := BitVec.ofNat 16 flags
      blocks := if badA && badB then q.blocks else q.blocks + 1 })

/-- Channel status as sent: byte 23 carries the CRCC in professional format with TX_CS_CRCC = 0. -/
def csSent (c : PortCfg) (v : BitVec 192) : BitVec 192 :=
  let l := csBytes v
  if csPro l && decide (c.txCsCrcc = 0) then csOf (l.take 23 ++ [crcc (l.take 23)]) else v

/-- AES_TX_UPDATE: at a Z preamble the octets written come into force whole. -/
def execAesTxUpdate (port : Fin 8) (s : State) : Outc :=
  let p := 16 + port.val
  let c := portCfg s p
  let q := Machine.port s p
  if q.txFrame ≠ 0 then ok s
  else ok (setPort s p { q with sendCsA := csSent c c.txCsA, sendCsB := csSent c c.txCsB, sendUA := c.txUA, sendUB := c.txUB })

/-! ## Capture bindings (R341) -/

/-- CAPTURE_BINDING_APPLY: every change of binding whose boundary has come, in order. -/
def execCaptureBindingApply (port : Fin 24) (s : State) : Outc :=
  let p := port.val
  let q := Machine.port s p
  let due := q.capNext.filter (fun c => isDue (now s) c.at')
  ok (setPort s p (due.foldl (fun q c => { q with capRing := c.ring, capForm := c.form, capMask := c.mask })
    { q with capNext := q.capNext.filter (fun c => !isDue (now s) c.at') }))

/-! ## The pins of a SAP (R312, R313, R315, R343) -/

/-- Pins of a SAP at a moment: none where the port does not drive. -/
structure SapPins where
  bclk : Option Bool
  fs : Option Bool
  dout : Option Bool
  deriving DecidableEq, Repr

/-- Level of the bit clock in the first or the second half of a bit: data is launched at its start and sampled in its middle. -/
def bclkLevel (c : PortCfg) (second : Bool) : Bool := second != decide (c.bclkEdge = 1)

/-- Level of FS in bit `k` of a frame, counted from the frame edge. -/
def fsLevel (c : PortCfg) (k : Nat) : Bool :=
  let half := frameBits c / 2
  let base := match c.format with
    | 0 => decide (half ≤ k)
    | 1 => decide (k < half)
    | _ => decide (k < (if c.fsWidth = 0 then 1 else widthBits c.slotWidth))
  base != decide (c.fsPol = 1)

/-- Bit `k` of the wire's frame, msb of slot 0 first; none in a slot at high impedance. -/
def dataBit (c : PortCfg) (w : List (Option Long)) (k : Nat) : Option Bool :=
  (w.getD (k / widthBits c.slotWidth) none).map (fun x => x.getLsbD (31 - k % widthBits c.slotWidth))

/-- The pins of SAP `p` in bit `k` after a frame edge, counted on past the frame for its data: at high impedance before the supplies are in
regulation (R473); master clocks and data are low in BOOTING and DORMANT. -/
def sapPins (s : State) (p k : Nat) (second : Bool) : SapPins :=
  if !pwrGood s then ⟨none, none, none⟩
  else
    let c := portCfg s p
    let low := decide (s.power.dev = .booting) || decide (s.power.dev = .dormant)
    let d := (dataDelay s p).1
    { bclk := if c.bclkDir = 0 then none else some (!low && bclkLevel c second)
      fs := if c.fsDir = 0 then none else some (!low && fsLevel c (k % max 1 (frameBits c)))
      dout := if wireLow s p then some false else if k < d then none else dataBit c (port s p).wire (k - d) }

end Sys2Proof.Machine
end

