-- ==== Sys2Proof/Machine/Bridges.lean ====
section
/-! DEFINITION. Rate bridges: enabling, locking, slips and unlocking (R349 to R361, R364). -/
namespace Sys2Proof.Machine

def rbObj (b : Nat) : Nat := 0x0C80 + 8 * b

/-- Step 1 of R352 for one side, with R349: a side without channels names no port. -/
def sideRange (s : State) (d : SideCfg) : Bool :=
  let p := d.port.toNat
  if d.port = 0xFF then true
  else decide (p < 24) && decide (0 < d.channels) && decide (d.cls ≤ 3) &&
    decide (d.first + d.channels ≤ (if p < 16 then 32 else 2)) &&
    decide (mediaHz s d.cls ≤ 8 * (portCfg s p).nominalHz.toNat) && decide ((portCfg s p).nominalHz.toNat ≤ 8 * mediaHz s d.cls)

/-- Step 2 of R352 for one side. -/
def sidePort (s : State) (d : SideCfg) (egress : Bool) : Bool :=
  let c := portCfg s d.port.toNat
  decide (d.port = 0xFF) || (decide (c.rate = 4) && (if egress then decide (2 ≤ c.directions) else decide (c.directions % 2 = 1)))

/-- Step 3 of R352: another enabled bridge holds one of the port's channels in this direction. -/
def sideTaken (s : State) (b : Nat) (d : SideCfg) (egress : Bool) : Bool :=
  decide (d.port ≠ 0xFF) && (List.range 16).any (fun k =>
    let o := sideCfg (rbCfg s k) egress
    decide (k ≠ b) && (rbCfg s k).enable && decide (o.port = d.port) && decide (o.first < d.first + d.channels) && decide (d.first < o.first + o.channels))

/-- An admitted route or stream uses a channel of the bridge. -/
def bridgeUsed (s : State) (b : Nat) : Bool := usesEndpoint s (fun v => decide (epKind v = 4) && decide (epUnit v = b))

/-- RB_CFG.ENABLE (R352): a 1 is checked also where the bridge is enabled, and then changes nothing. -/
def execRbEnable (r : Req) (b : Fin 16) (v : Byte) (s : State) : Outc :=
  let n := b.val
  ok (writeCmd s r { obj := rbObj n, role := engineer, range := decide (v.toNat ≤ 1) } (fun s =>
    let c := rbCfg s n
    let i := sideCfg c false
    let o := sideCfg c true
    let x := bridge s n
    let set (on : Bool) (s : State) : State := bumpEpoch (setRbCfg s n { c with enable := on })
    if v = 1 then
      if !sideRange s i || !sideRange s o then .error eRange
      else if !sidePort s i false || !sidePort s o true || sideTaken s n i false || sideTaken s n o true then .error eConflict
      else if c.enable then .ok (bumpEpoch s)
      else .ok (set true (setBridge s n { ingress := keepCounts x.ingress (sideStart s i false), egress := keepCounts x.egress (sideStart s o true) }))
    else if !c.enable then .ok (bumpEpoch s)
    else if bridgeUsed s n then .error eState
    else .ok (set false (setBridge s n { ingress := keepCounts x.ingress {}, egress := keepCounts x.egress {} }))))

/-! ## A side's states (R355 to R361) -/

/-- A side that may lock: it acquires, for at least 20 ms, with ECLK running, its port runs with the ratio in range, and its last fade is over
(R355, R356, R360, R361). -/
def mayLock (s : State) (x : Nat × Bool) : Bool :=
  let d := side s x.1 x.2
  let c := sideCfg (rbCfg s x.1) x.2
  decide (d.state = .acquire) && !d.hopping && s.clocks.gateOpen && fadeOver d.fader && sideRuns s c x.2 && ratioOk s c x.2 && isDue (now s) (mtPlus d.acqAt (msUnits s 20))

/-- A side enters LOCKED: its fill is within half a sample of its target, G is fixed, and its channels ramp in (R356, R357). -/
def lockSide (s : State) (x : Nat × Bool) : State :=
  if !mayLock s x then s
  else
    let c := sideCfg (rbCfg s x.1) x.2
    let (k, s) := draw s
    let s := setSide s x.1 x.2 { side s x.1 x.2 with
      state := .locked, fill := BitVec.ofNat 16 (2688 + (Config.freeWord k).toNat % 2817), delayNs := BitVec.ofNat 32 (groupDelayNs s c), delay := groupDelayUnits s c, fader := some (rampFromZero 32) }
    detect s 0x4012 x.1 (BitVec.ofNat 32 (bitOf x.2))

/-- The estimate lies within 1 ppm of the measured rate, in mHz (R356). -/
def withinPpm (est mhz : Nat) : Bool := decide (1000000 * (max est (1000 * mhz) - min est (1000 * mhz)) ≤ 1000 * mhz)

/-- BRIDGE_LOCKED: the estimate has kept within 1 ppm of the measured rate `portMhz`, and the fills their targets, for 20 ms; all sides of
one estimator lock together (R353, R356). The ratio follows from the rate. -/
def execBridgeLocked (b : Fin 16) (egress : Bool) (_ratio portMhz : Long) (s : State) : Outc :=
  let p := estPort s (sideCfg (rbCfg s b.val) egress) egress
  if !mayLock s (b.val, egress) || !withinPpm (port s p).est portMhz.toNat then ok s
  else
    let s := setPort s p { port s p with estLocked := some (now s) }
    ok ((estSides s p).foldl lockSide s)

/-- A LOCKED side slips: it fades, and acquires again when the fade has ended; one in ACQUIRE begins it again (R359, R361). -/
def slip (s : State) (b : Nat) (egress inj : Bool) : State :=
  let d := side s b egress
  if d.state = .acquire then setSide s b egress { d with acqAt := now s }
  else if decide (d.state ≠ .locked) || d.slipping || d.hopping then s
  else
    let (n, o) := satInc d.relocks
    let s := setSide s b egress { d with
      slipping := true, fader := some (fadeDown d.fader 32), relocks := n, ovf := if o then d.ovf ||| 1 else d.ovf }
    detectAs s 0x4010 b (BitVec.ofNat 32 (bitOf egress)) inj

def execBridgeSlip (b : Fin 16) (egress : Bool) (s : State) : Outc := ok (slip s b.val egress false)

/-- BRIDGE_UNLOCK: the side's port is lost or its ratio has left the range (R355, R360). -/
def execBridgeUnlock (b : Fin 16) (egress : Bool) (portLost : Bool) (s : State) : Outc := ok (unlockSide s b.val egress portLost false)

end Sys2Proof.Machine
end

