-- ==== Sys2Proof/Machine/Clocks.lean ====
section
/-! DEFINITION. Clock commands: references and MCPLL, time of day, SYNC_IN, ECPLL and its gate, the crystal and the two other
PLLs (R46, R47, R49, R92 to R125, R127, R128, R131). -/
namespace Sys2Proof.Machine

/-- The stamps of `l` that lie within the last 64 expected periods of entry `i` (R104). DEDUCED (notes/assumptions/49): the periods are
counted by media time. -/
def nearGlitches (s : State) (i : Nat) (l : List MT) : List MT :=
  l.filter (fun t => decide (mtDiff t (now s) * onePeriod < 64 * refPeriod s i * 65536))

/-- An edge of a qualified entry: glitches within 64 expected periods, periods beyond the pull range; the edges of VREF_H count as
glitches only (R102, R104). -/
def qualifiedEdge (s : State) (i : Nat) (line glitch far : Bool) : State :=
  let m := refMon s i
  let l := nearGlitches s i (if glitch then now s :: m.glitches else m.glitches)
  let run := if glitch || line then m.rateRun else if far then m.rateRun + 1 else 0
  if 4 ≤ l.length then disqualify s i .disqGlitch 0x1002 false
  else if 8 ≤ run then disqualify s i .disqRate 0x1003 false
  else setRefMon s i { m with glitches := l, rateRun := run }

/-- An edge of an entry that is not qualified: requalifying begins at the first conforming edge and starts again at any
other (R105). -/
def requalify (s : State) (i : Nat) (line conforms : Bool) : State :=
  let m := refMon s i
  if line then (if conforms || decide (m.state ≠ .qualifying) then s else setRefMon s i { m with conforming := 0 })
  else if conforms then
    setRefMon s i (if m.state = .qualifying ∧ m.conforming ≠ 0 then { m with conforming := m.conforming + 1 }
      else { state := .qualifying, conforming := 1, since := now s })
  else if m.state = .qualifying then setRefMon s i { m with conforming := 0 } else s

/-- What an edge that is no glitch tells of its reference: where it fell, its frequency, its phase against MCLK's alignment instant, and
the video sequence's origin. -/
def edgeSeen (s : State) (i : Nat) (line : Bool) (freqDev : Int) (subPs : Long) : State :=
  let x := edgeAt s subPs
  let m := refMon s i
  let m := if line then m else seekOrigin s i x { m with lastEdge := some (now s), freqPpb := freqDev }
  let s := setRefMon s i m
  match alignment s i line x with
  | some d => setRefMon s i { m with phasePs := d.fdiv (rateHz s.clocks.rate) }
  | none => s

/-- An edge of the active entry steers: its phase and its frequency, if that is in the pull range (R99), are what MCPLL follows; the
conditions of LOCKED and of its loss are watched (R96, R97). -/
def steered (s : State) (i : Nat) (line far : Bool) : State :=
  let m := refMon s i
  let near := phaseNear s m.phasePs
  setClocks s (fun c =>
    let f := if line || far then c.refPpb else m.freqPpb
    { c with
      phasePs := m.phasePs, refPpb := f
      acqEdges := if !near then 0 else if line then c.acqEdges else c.acqEdges + 1
      nearSince := if near then some (c.nearSince.getD c.mt) else none
      offSince := if line then c.offSince else if 60000 < (m.freqPpb - c.ntoPpb).natAbs then some (c.offSince.getD c.mt) else none })

/-- The PPS edge that a TOD message labelled becomes the TAI anchor, once MCPLL has locked to PPS (R47). -/
def anchorAt (s : State) (i : Nat) : State :=
  let c := s.clocks
  if decide (refType s i = 3) && c.todFresh then
    let s := setClocks s (fun c => { c with todFresh := false })
    match c.todLast with
    | some tai =>
      if !c.taiValid && !follower s && decide (c.active = some i) && decide (c.mcpll = .locked) then
        setClocks s (fun c => { c with taiValid := true, anchorMt := ⟨c.mt.count + (if c.mt.phase.msb then 1 else 0), 0⟩, anchorTai := tai })
      else s
    | none => s
  else s

/-- REF_EDGE: an edge that arrives now, with its deviation from the expected position and the
frequency's from nominal, both in parts per billion of the expected period; an edge of VREF_H counts where VID_LINES gives
one (R98 to R105, R110). -/
def execRefEdge (entry : Fin 8) (posDev freqDev : Int) (edge : EdgePos) (s : State) : Outc :=
  let i := entry.val
  let line := edge.line
  if refType s i = 0 || refType s i = 6 || (decide (refType s i = 5) && !groveFed s i) || (line && (decide (refType s i ≠ 2) || decide (s.cfg.clocks.vidLines = 0))) then ok s
  else
    let glitch := decide (50000000 < posDev.natAbs)
    let far := decide (freqDev < -pullBelow s) || decide (pullAbove s < freqDev)
    let s := if (refMon s i).state = .qualified then qualifiedEdge s i line glitch far else requalify s i line (!glitch && (line || !far))
    if glitch then ok s
    else
      let s := edgeSeen s i line freqDev edge.subPs
      let s := if s.clocks.active = some i then steered s i line far else s
      ok (if line then s else anchorAt s i)

def execRefStopped (entry : Fin 8) (s : State) : Outc := ok (refStop s entry.val false)

/-- What qualification asks: REQUAL_MS since the first conforming edge and four of them, for PPS two labelled edges; for BUFFER a port
with its clock that has held 1 to 7 frames for REQUAL_MS (R105, R112). -/
def mayQualify (s : State) (i : Nat) : Bool :=
  let m := refMon s i
  let t := refType s i
  decide (t ≠ 0) && decide (m.state = .qualifying) && decide (m.conforming ≠ 0) &&
    decide (msUnits s s.cfg.clocks.requalMs.toNat ≤ mtDiff m.since (now s)) &&
    (if t = 6 then bufferFits s i else decide (4 ≤ m.conforming) && (decide (t ≠ 3) || decide (2 ≤ s.clocks.todRun)))

def execRefQualified (entry : Fin 8) (s : State) : Outc :=
  let i := entry.val
  if mayQualify s i then
    ok (steer (setRefMon s i { refMon s i with state := .qualified, glitches := [], rateRun := 0, origin := none, tried := 0, nearest := none }))
  else ok s

/-- `t` lies at least 1 s back. -/
def aSecond (s : State) (t : Option MT) : Bool := t.any (fun t => passed s t 1000)

/-- LOCKED: the phase error has stayed within 100 ns for 1 s and two edges of the reference; a BUFFER entry has no edges (R96). -/
def execMcpllLocked (s : State) : Outc :=
  let edges := decide (2 ≤ s.clocks.acqEdges) || s.clocks.active.any (fun i => decide (refType s i = 6))
  if decide (s.clocks.mcpll = .acquire) && edges && aSecond s s.clocks.nearSince then
    ok (setClocks s (fun c => { c with mcpll := .locked, offSince := none }))
  else ok s

/-- R97: a frequency error beyond 60 ppm ends LOCKED. -/
def mcpllOut (s : State) (ppb : Long) (inj : Bool) : State :=
  if s.clocks.mcpll = .locked then detectAs (reacquireRef s) 0x1006 devUnit ppb inj else s

/-- MCPLL_UNLOCK: the error has exceeded 60 ppm for 1 s. -/
def execMcpllUnlock (ppb : Long) (s : State) : Outc :=
  if decide (60000 < ppb.toInt.natAbs) && aSecond s s.clocks.offSince then ok (mcpllOut s ppb false) else ok s

/-! ## Time of day (R113 to R115) -/

/-- The octets before the first `c`, and those after it. -/
def splitAt (c : Nat) : List Byte → Option (List Byte × List Byte)
  | [] => none
  | x :: l => if x.toNat = c then some ([], l) else (splitAt c l).map (fun r => (x :: r.1, r.2))

/-- A decimal number without sign. -/
def decimal (l : List Byte) : Option Nat :=
  if l.isEmpty then none
  else l.foldl (fun a x => match a with
    | some n => if decide (0x30 ≤ x.toNat) && decide (x.toNat ≤ 0x39) then some (n * 10 + (x.toNat - 0x30)) else none
    | none => none) (some 0)

/-- A decimal number with an optional minus sign. -/
def signedDecimal : List Byte → Option Int
  | [] => none
  | x :: l => if x.toNat = 0x2D then (decimal l).map (fun n => -(n : Int)) else (decimal (x :: l)).map (fun n => (n : Int))

/-- A hex digit; lowercase only where `low` allows it. -/
def hexDigit (low : Bool) (x : Byte) : Option Nat :=
  let n := x.toNat
  if 0x30 ≤ n && n ≤ 0x39 then some (n - 0x30)
  else if 0x41 ≤ n && n ≤ 0x46 then some (n - 0x37)
  else if low && 0x61 ≤ n && n ≤ 0x66 then some (n - 0x57) else none

def hexPair (low : Bool) : List Byte → Option Nat
  | [a, b] => (hexDigit low a).bind (fun x => (hexDigit low b).map (fun y => x * 16 + y))
  | _ => none

/-- A line of R113: the TAI second and UTC − TAI; none where it breaks the form. -/
def todParse (line : List Byte) : Option (Nat × Int) := do
  let head : List Byte := [0x24, 0x46, 0x51, 0x54, 0x4F, 0x44, 0x2C]
  if line.take 7 ≠ head then none
  let (body, tail) ← splitAt 0x2A (line.drop 1)
  let cc ← hexPair false (tail.take 2)
  if tail.drop 2 ≠ [0x0D, 0x0A] then none
  if (body.foldl (fun a x => a ^^^ x) 0#8).toNat ≠ cc then none
  let (tai, rest) ← splitAt 0x2C (body.drop 6)
  let (utc, flags) ← splitAt 0x2C rest
  let n ← decimal tai
  let u ← signedDecimal utc
  let _ ← hexPair true flags
  return (n, u)

/-- The TAI second that the mapping gives the PPS edge `ms` milliseconds ahead, to the nearest (R47). -/
def taiAhead (s : State) (ms : Nat) : Int :=
  let c := s.clocks
  let unit := rateHz c.rate * 65536
  let d : Int := (mtNat c.mt : Int) + msUnits s ms - mtNat c.anchorMt
  c.anchorTai.toNat + (2 * d + unit).fdiv (2 * unit)

/-- A message is discarded and counted (R114, R115). -/
def todError (s : State) (inj : Bool) : State :=
  let (n, o) := satInc s.clocks.todErr
  detectAs (setClocks s (fun c => { c with todErr := n, todErrOvf := c.todErrOvf || o, todRun := 0 })) 0x100E devUnit 0 inj

/-- TOD_MESSAGE: it labels the next PPS edge, or is discarded. -/
def execTodMessage (line : List Byte) (sincePpsMs untilPpsMs : Nat) (s : State) : Outc :=
  match todParse line with
  | none => ok (todError s false)
  | some (tai, utc) =>
    if decide (sincePpsMs < 100) || decide (untilPpsMs < 100) then ok (todError s false)
    else if s.clocks.taiValid && decide (taiAhead s untilPpsMs ≠ (tai : Int)) then ok (todError s false)
    else
      let t := BitVec.ofNat 64 tai
      ok (setClocks s (fun c => { c with
        todRun := (match c.todLast with
          | some l => if l + 1 = t then c.todRun + 1 else 1
          | none => 1)
        todLast := some t, todFresh := true, taiUtc := BitVec.ofInt 16 utc }))

/-! ## SYNC_IN (R127, R128) -/

/-- SYNC_IN: an edge that takes effect, sampled at MCLK cycle `mclk` after the base-period boundary, puts every enabled
divider's next rising edge on the fourth MCLK edge after it. DESIGN CHOICE (notes/assumptions/161): where another SYNC_MODE has been written
and waits for the boundary, an edge of ONCE sets SYNC_MODE to 0 all the same, and that write is lost. -/
def execSyncIn (mclk : Nat) (s : State) : Outc :=
  let k := s.clocks.clkoutApplied
  if k.syncMode = 0 || s.power.dev = .booting || s.clocks.hopping then ok s
  else
    let at4 := mclk + 4
    let s := setClocks s (fun c => { c with
      wckPhase := if k.wckMode = 0 then c.wckPhase else at4 % (512 / wckMul k.wckMode)
      outPhase := (List.range 4).foldl (fun t n =>
        let m := tget 0 k.mclkOut n
        if m = 0 then t else tset 0 t n (at4 % 2 ^ (m - 1))) c.outPhase })
    if k.syncMode = 1 then
      ok { s with
        cfg := { s.cfg with clocks := { s.cfg.clocks with syncMode := 0 } }
        clocks := { s.clocks with clkoutApplied := { k with syncMode := 0 } } }
    else ok s

/-! ## ECPLL and its gate (R116 to R123) -/

/-- ECPLL has lost its clock: the gate closes and it reacquires in STORED mode (R117, R122). -/
def reacquire (s : State) : State := setClocks (closeGate s) (fun c => { c with ecpll := .acquire })

/-- R122: the phase criterion of a locked ECPLL. -/
def ecpllLost (s : State) (inj : Bool) : State :=
  if s.clocks.ecpll = .locked || s.clocks.ecpll = .verify then detectAs (reacquire s) 0x1007 devUnit 0 inj else s

def execEcpllLoss (s : State) : Outc := ok (ecpllLost s false)

/-- R120: the frequency monitor trips. -/
def eclkTripped (s : State) (absolute inj : Bool) : State :=
  if s.clocks.ecpll = .locked || s.clocks.ecpll = .verify then
    let (n, o) := satInc s.clocks.tripCount
    let s := setClocks (reacquire s) (fun c => { c with tripCount := n, tripOvf := c.tripOvf || o })
    detectAs s 0x1008 devUnit (if absolute then 2 else 1) inj
  else s

def execEclkTrip (absolute : Bool) (s : State) : Outc := ok (eclkTripped s absolute false)

/-- R116: STORED has not locked in time. -/
def ecpllFallsBack (s : State) (inj : Bool) : State :=
  if s.clocks.ecpll = .acquire then
    detectAs (setClocks s (fun c => { c with ecpll := .search })) 0x1009 devUnit (BitVec.ofNat 32 s.clocks.rate) inj
  else s

def execEcpllFallback (s : State) : Outc := ok (ecpllFallsBack s false)

/-- The band of the family in use, stored with the junction temperature (R116). -/
def storeBand (s : State) (f : Nat) (band temp : Word) : State :=
  setClocks s (fun c => { c with bands := tset 0xFFFF c.bands f band, bandTemps := tset 0 c.bandTemps f temp })

/-- ECPLL_LOCK: verification begins at a tuning word that no command carries and that CEILING bounds; a completed search has changed the
band, at which CEILING is measured anew, and stores it (R116, R118). -/
def execEcpllLock (s : State) : Outc :=
  match s.clocks.ecpll with
  | .acquire =>
    let (k, s) := draw s
    ok (setClocks s (fun c => { c with ecpll := .verify, ecWord := underCeiling c.ceiling (Config.freeLong k) }))
  | .search =>
    let (k, s) := draw s
    let (m, s) := draw s
    let s := storeBand s s.clocks.rate (Config.freeWord k) s.power.tjC
    ok (setClocks s (fun c => { c with
      ecpll := .verify, ceiling := Config.freeLong m, ecWord := underCeiling (Config.freeLong m) (Config.freeLong k) }))
  | _ => ok s

/-- Every side of every bridge follows its port and ratio. -/
def followSides (s : State) : State :=
  (List.range 16).foldl (fun s b => followSide (followSide s (b, false)) (b, true)) s

/-- ECLK_RESTORED: samples stamped in the gap are gone, the gate opens; frames restart at the next base-period boundary, and bridge sides
that a hop faded acquire; in DORMANT the gate opens only in a wake (R78, R119, R123, R360, R478). -/
def execEclkRestored (s : State) : Outc :=
  if s.clocks.ecpll = .verify && s.power.dev ≠ .booting && (s.power.dev ≠ .dormant || s.power.wake.isSome) then
    let s := s.ports.foldl (fun s kv => portStamps s kv.1 (now s)) s
    let s := setClocks s (fun c => { c with ecpll := .locked, gateOpen := true, restart := true, hopping := false })
    ok (followSides (eachBridge s (fun _ b => { ingress := hopEnds (now s) b.ingress, egress := hopEnds (now s) b.egress })))
  else ok s

/-- ECPLL_CEILING_RECAL: the word at which the NTO measured 0.996 GHz; the tuning word is clamped at it (R118). -/
def execEcpllCeilingRecal (word : Long) (s : State) : Outc :=
  ok (setClocks s (fun c => { c with ceiling := word, ecWord := underCeiling word c.ecWord }))

def execEcpllBandStore (band temp : Word) (s : State) : Outc :=
  if s.clocks.ecpll = .locked then ok (storeBand s s.clocks.rate band temp) else ok s

/-- RESEARCH: in SAPLING every family is searched and stored, CEILING is measured anew for the band, and ECPLL then acquires again, under
MODE (R116 to R118). -/
def execResearch (r : Req) (b32 b44 b48 temp : Word) (s : State) : Outc :=
  ok (writeCmd s r { obj := 0x0230, role := engineer, idle := decide (s.power.dev = .sapling) } (fun s =>
    let s := storeBand (storeBand (storeBand s 0 b32 temp) 1 b44 temp) 2 b48 temp
    let (k, s) := draw s
    .ok (setClocks (closeGate s) (fun c => { c with
      ecpll := if s.cfg.clocks.ecpllMode = 1 then .search else .acquire
      ceiling := Config.freeLong k, ecWord := underCeiling (Config.freeLong k) c.ecWord }))))

/-- The fade of an endpoint that has received nothing for `n` base periods (R123). -/
def gapFade (n : Nat) (f : Option Fader) : Option Fader :=
  if n < 64 then f
  else match f with
    | some g => if g.up then some (fadeDown f 64) else f
    | none => some (fadeDown none 64)

/-- ECLK_GAP_SUBSTITUTE: an endpoint that has received nothing for 64 base periods of a gap begins its fade (R123). Kind 2 and 3 name a
port's channel, 4 a bridge channel, 5 (the model's) an outbound slot of a link. -/
def execEclkGapSubstitute (ep : Endpoint) (s : State) : Outc :=
  let u := ep.unit.toNat
  let i := ep.first.toNat
  let fade (x : EndPoint) : EndPoint := { x with starve := gapFade x.starved x.starve }
  if s.clocks.gateOpen then ok s
  else
    match ep.kind.toNat with
    | 4 =>
      let b := bridge s u
      let d := b.egress
      ok (setBridge s u { b with egress := { d with ends := tset {} d.ends i (fade (tget {} d.ends i)) } })
    | 5 =>
      let k := link s u
      ok (setLink s u { k with txEnds := tset {} k.txEnds i (fade (tget {} k.txEnds i)) })
    | 2 | 3 =>
      let p := if ep.kind = 2 then u else 16 + u
      let c := chan (port s p) true i
      ok (setPort s p (setChan (port s p) true i { c with starve := gapFade c.starved c.starve }))
    | _ => ok s

/-! ## Crystal, SCPLL and LKPLL (R92, R95) -/

/-- XO_LOST: FAULT; the links stop with their clock. -/
def execXoLost (s : State) : Outc :=
  if s.clocks.xoLost then ok s
  else
    let s := enterFault s 1
    let s := setClocks s (fun c => { c with xoLost := true, lkpllLock := false, scpllLock := false })
    ok (allPathsDown (detect s 0x100B devUnit 0))

/-- SCPLL loses lock: the control core is held, and a restart begins (R92). -/
def scpllLost (s : State) (inj : Bool) : State :=
  if s.clocks.scpllLock then
    writeCut s (detectAs (beginRestart (setClocks s (fun c => { c with scpllLock := false })) 3) 0x100C devUnit 0 inj)
  else s

def execScpllUnlock (s : State) : Outc := ok (scpllLost s false)

def execLkpllUnlock (s : State) : Outc :=
  if s.clocks.lkpllLock then ok (allPathsDown (detect (setClocks s (fun c => { c with lkpllLock := false })) 0x100D devUnit 0))
  else ok s

/-- SCPLL has relocked; CC_RESTART completes the restart. -/
def execScpllRelock (s : State) : Outc :=
  if s.clocks.xoLost then ok s else ok (setClocks s (fun c => { c with scpllLock := true }))

/-- 100 ms after SCPLL_UNLOCK, whose restart began with it, without a relock: FAULT cause 2 (R504). -/
def execScpllRelockTimeout (s : State) : Outc :=
  if !s.clocks.scpllLock && decide (s.power.ccDown = some 3) && passed s s.power.ccAt 100 then ok (enterFault s 2) else ok s

def execLkpllRelock (s : State) : Outc :=
  if s.clocks.xoLost then ok s else ok (setClocks s (fun c => { c with lkpllLock := true }))

end Sys2Proof.Machine
end

