-- ==== Sys2Proof/Machine/Control.lean ====
section
/-! DEFINITION. Control words: NOP to BRC (R151, R156 to R166, R194 to R199). -/
namespace Sys2Proof.Machine

/-- NOP (R194). -/
def execNop (w : Issue) (s : State) : Outc := ok (issueWord s w (.nop w) (fun _ _ _ => .ok {}))

/-- A FREE Sapling run begins again at ENTRY in cycle `t` (R145, R195). -/
def freeRestart (s : State) (n t : Nat) : State :=
  modEng s n (fun e =>
    let ctr := e.frameCtr + 1
    { e with
      ctx := { e.ctx with pc := e.active.entry, cycle := t, loops := [], defer := [], rpt := none, xfer := none }
      frameCtr := ctr, ctrLatch := ctr.extractLsb' 16 16, mtFrame := ⟨(now s).count, 0⟩ })

/-- END (R195, R296). -/
def endRun (s : State) (n : Nat) : State :=
  let e := eng s n
  let t := e.ctx.cycle
  let s := landUpTo s n t
  if e.fade.isSome && !e.newRun then switchRun s n
  else if freeRun e then afterStep (freeRestart s n (t + 2)) n
  else stepOver (modEng s n (fun e => { e with stage := .ended, ctx := { e.ctx with loops := [], pc := (e.ctx.pc + 1) % 0x4000, cycle := t + 1 } })) n

/-- A word whose guard is false but that costs one cycle more (R151, R195). -/
def idleEnd (s : State) (n : Nat) : State :=
  let free := freeRun (eng s n)
  let s := advance s n
  if free then modCtx s n (fun c => { c with cycle := c.cycle + 1 }) else s

def execEndFrame (w : Issue) (s : State) : Outc :=
  ok (issueWith s w (.endFrame w) idleEnd (fun s n _ => .ok (endRun s n)))

/-- HALT (R196); a frame program has none (R221). -/
def execHalt (w : Issue) (s : State) : Outc :=
  ok (issueWith s w (.halt w) advance (fun s n _ =>
    let e := eng s n
    if saplMode e then .ok (haltAt s n e.ctx.pc) else .error { cause := 1 }))

/-- TRAP (R196). -/
def execTrap (w : Issue) (k : Fin 16) (s : State) : Outc :=
  ok (issueWord s w (.trap w k) (fun _ _ _ => .error { cause := 7, arg := k.val }))

/-- In Sapling mode, the word after a repeat is one that R157 forbids there, or the repeat ends a body; the loader judges frame images
(R157, R220). -/
def repeatBad (e : Engine) : Bool :=
  let a := e.ctx.pc
  saplMode e && (e.ctx.loops.any (fun l => decide (l.last = a)) ||
    (match decodeEngWord 0 (tget 0 e.active.words ((a + 1) % 0x4000)) with
      | some (.rpt ..) | some (.rptx ..) | some (.blk ..) | some (.call ..) | some (.callm ..) | some (.ret ..)
      | some (.retm ..) | some (.br ..) | some (.brc ..) | some (.endFrame ..) | some (.halt ..) | some (.trap ..)
      | some (.immExt ..) => true
      | _ => false))

/-- A repeat of `k` issues is latched (R156, R197); a count of 0 skips the next word. -/
def latchRepeat (s : State) (n k : Nat) : State :=
  let t := (eng s n).ctx.cycle
  let s := landUpTo s n t
  if k = 0 then afterStep (modCtx s n (fun c => { pastWord c ((c.pc + 1) % 0x4000) with cycle := t + 1 })) n
  else modCtx s n (fun c => { c with pc := (c.pc + 1) % 0x4000, rpt := some k, cycle := t + 1 })

/-- RPT (R156, R157). -/
def execRpt (w : Issue) (n : Nat) (s : State) : Outc :=
  ok (issueWith s w (.rpt w n) advance (fun s e _ =>
    let g := eng s e
    if repeatBad g then .error { cause := 1 } else .ok (latchRepeat s e n)))

/-- RPTX (R157, R197). -/
def execRptx (w : Issue) (d : Fin 16) (s : State) : Outc :=
  ok (issueWith s w (.rptx w d) advance (fun s e _ =>
    let g := eng s e
    if !saplMode g || repeatBad g then .error { cause := 1 } else .ok (latchRepeat s e (rW g.ctx d.val).toNat)))

/-- BLK (R158, R159). -/
def execBlk (w : Issue) (field : BitVec 9) (len : Nat) (s : State) : Outc :=
  ok (issueWith s w (.blk w field len) advance (fun s n ext =>
    let c := (eng s n).ctx
    let k := c.loops.length
    if 4 ≤ k then .error { cause := 1 }
    else
      let s := commit s n { acts := [landing 1 (.word (codeLC + k) (immOf 9 16 false ext field.toNat))] }
      .ok (modCtx s n (fun c => { c with
        loops := ⟨c.pc + 1, c.pc + len, k⟩ :: c.loops, pc := (c.pc + 1) % 0x4000, cycle := c.cycle + 1 }))))

/-- The extension waits for the next word, whose guard decides for both (R192). -/
def holdImm (ext : BitVec 21) (s : State) (n : Nat) : State :=
  let s := landUpTo s n (eng s n).ctx.cycle
  modCtx s n (fun c => { pastWord c c.pc with imm := some ext, cycle := c.cycle + 1 })

/-- IMM (R191, R192). -/
def execImmExt (w : Issue) (ext : BitVec 21) (s : State) : Outc :=
  ok (issueWith s w (.immExt w ext) (holdImm ext) (fun s n _ => .ok (holdImm ext s n)))

/-- A transfer word has issued: body ends are tested as after any word, and its delay slot is next (R158, R161). -/
def awaitSlot (s : State) (n : Nat) (x : Xfer) : State :=
  let s := landUpTo s n (eng s n).ctx.cycle
  afterStep (modCtx s n (fun c => { pastWord c c.pc with xfer := some x, cycle := c.cycle + 1 })) n

/-- The transfer word with a false guard costs its cycles (R151). -/
def idleXfer (w : Nat) (s : State) (n : Nat) : State := awaitSlot s n (.fallThrough w)

/-- CALL (R162). -/
def execCall (w : Issue) (addr : BitVec 14) (s : State) : Outc :=
  ok (issueWith s w (.call w addr) (idleXfer 0) (fun s n _ =>
    let ret := ((eng s n).ctx.pc + 2) % 0x4000
    let s := commit s n { acts := [landing 3 (.word codeLK (BitVec.ofNat 16 ret))] }
    .ok (awaitSlot s n (.call addr.toNat ret 0 0))))

/-- Where a return goes: LK as it stands, or IRA in an interrupt handler (R162, R166). -/
def returnTo (e : Engine) : Nat := if e.inh then (e.ira &&& 0x3FFF).toNat else (rW e.ctx codeLK).toNat

/-- RET (R162, R166). -/
def execRet (w : Issue) (s : State) : Outc :=
  ok (issueWith s w (.ret w) (idleXfer 0) (fun s n _ =>
    let e := eng s n
    .ok (awaitSlot s n (.ret (returnTo e) 0 0 e.inh))))

/-- CALLM (R162, R164, R199). -/
def execCallm (w : Issue) (addr : BitVec 14) (mask : Word) (s : State) : Outc :=
  ok (issueWith s w (.callm w addr mask) (idleXfer (movedRegs mask).length) (fun s n _ =>
    let e := eng s n
    let k := (movedRegs mask).length
    let low := rW e.ctx (codeA 7) - BitVec.ofNat 16 k
    let ret := (e.ctx.pc + 2) % 0x4000
    if saplMode e && decide (mask ≠ 0) then .error { cause := 6 }
    else match (saveArea mask low).find? (fun p => !canWrite e p.2) with
      | some p => .error { cause := 2, addr := p.2 }
      | none =>
        let a7 := if k = 0 then [] else [landing (2 + k) (.word (codeA 7) low)]
        let s := commit s n { acts := a7 ++ [landing (3 + k) (.word codeLK (BitVec.ofNat 16 ret))] }
        .ok (awaitSlot s n (.call addr.toNat ret mask low))))

/-- RETM (R162, R164, R166, R199). -/
def execRetm (w : Issue) (mask : Word) (s : State) : Outc :=
  ok (issueWith s w (.retm w mask) (idleXfer (movedRegs mask).length) (fun s n _ =>
    let e := eng s n
    let k := (movedRegs mask).length
    let low := rW e.ctx (codeA 7)
    let area := saveArea mask low
    if saplMode e && decide (mask ≠ 0) then .error { cause := 6 }
    else match area.find? (fun p => (peekWord s n p.2).isNone) with
      | some p => .error { cause := 2, addr := p.2 }
      | none => match area.find? (fun p => wordBad s n p.2) with
        | some p => .error { cause := 4, loc := (badLoc s n p.2).getD 0 }
        | none =>
          let a7 := if k = 0 then [] else [landing (2 + k) (.word (codeA 7) (low + BitVec.ofNat 16 k))]
          let s := commit s n { acts := a7 }
          .ok (awaitSlot s n (.ret (returnTo e) mask low e.inh))))

/-- BR (R165, R198); a frame program has none (R221). -/
def execBr (w : Issue) (addr : BitVec 14) (s : State) : Outc :=
  ok (issueWith s w (.br w addr) (idleXfer 0) (fun s n _ =>
    if saplMode (eng s n) then .ok (awaitSlot s n (.branch addr.toNat)) else .error { cause := 1 }))

/-- The conditions of BRC: Z, NZ, N, NN (R198). -/
def branchCond (cc : Nat) (v : Word) : Bool :=
  match cc with
  | 0 => decide (v = 0)
  | 1 => decide (v ≠ 0)
  | 2 => v.msb
  | _ => !v.msb

/-- BRC (R198). -/
def execBrc (w : Issue) (cc : Fin 4) (d : Fin 16) (addr : BitVec 14) (s : State) : Outc :=
  ok (issueWith s w (.brc w cc d addr) (idleXfer 0) (fun s n _ =>
    let e := eng s n
    if !saplMode e then .error { cause := 1 }
    else .ok (awaitSlot s n (if branchCond cc.val (rW e.ctx d.val) then .branch addr.toNat else .fallThrough 0))))

end Sys2Proof.Machine
end

