-- ==== Sys2Proof/Machine/Loader.lean ====
section
/-! DEFINITION. The loader: the layout of an image, the checks of R174 in order, the cost walk (R147, R152, R157, R159 to
R163, R173 to R177, R250, R251, R291, R547). -/
namespace Sys2Proof.Machine

/-! ## Layout (R173, R547) -/

/-- Big-endian words of `k` octets each. -/
def chunks (k : Nat) : Nat → List Byte → List Nat
  | 0, _ => []
  | n + 1, l => beNat (l.take k) :: chunks k n (l.drop k)

/-- `n` data segments: start, words; and what follows. -/
def segsOf : Nat → List Byte → Option (List (Nat × List Word) × List Byte)
  | 0, l => some ([], l)
  | n + 1, l =>
    let len := beAt l 2 2
    if l.length < 4 + 2 * len then none
    else (segsOf n (l.drop (4 + 2 * len))).map (fun r =>
      ((beAt l 0 2, (chunks 2 len (l.drop 4)).map (BitVec.ofNat 16)) :: r.1, r.2))

/-- `n` records of `k` octets each, and what follows. -/
def recordsOf (k : Nat) : Nat → List Byte → Option (List (List Byte) × List Byte)
  | 0, l => some ([], l)
  | n + 1, l => if l.length < k then none else (recordsOf k n (l.drop k)).map (fun r => (l.take k :: r.1, r.2))

/-- The sections of an image, code first; none where they do not end exactly at the signature (R174 step 1). -/
def sections (img : List Byte) :
    Option (List Nat × List (Nat × List Word) × List (List Byte) × List (List Byte) × List (List Byte)) :=
  if img.length < 128 || decide (beAt img 8 4 ≠ img.length) then none
  else
    let body := (img.take (img.length - 64)).drop 64
    let cw := beAt img 0x12 2
    if body.length < 4 * cw then none
    else do
      let (segs, l) ← segsOf (beAt img 0x16 2) (body.drop (4 * cw))
      let (pages, l) ← recordsOf 130 (beAt img 0x1C 2) l
      let (map, l) ← recordsOf 6 (beAt img 0x1E 2) l
      let (dds, l) ← recordsOf 8 (beAt img 0x20 2) l
      if l.isEmpty then some (chunks 4 cw body, segs, pages, map, dds) else none

/-- An octet of a record. -/
def octet (l : List Byte) (i : Nat) : Nat := (l.getD i 0).toNat

/-- No value occurs twice. -/
def distinct : List Nat → Bool
  | [] => true
  | x :: l => !l.contains x && distinct l

/-- Two ranges share an address. -/
def overlap (a b : Nat × Nat) : Bool := decide (a.1 < b.1 + b.2) && decide (b.1 < a.1 + a.2) && decide (0 < a.2) && decide (0 < b.2)

/-- State-map entries: start, length, shared. -/
def mapOf (r : List Byte) : Nat × Nat × Bool := (beAt r 0 2, beAt r 2 2, decide (octet r 4 = 1))

/-- R547: a map entry's fields lie in range. -/
def mapOk (r : List Byte) : Bool :=
  decide (beAt r 0 2 + beAt r 2 2 ≤ 0x8000) && decide (octet r 4 ≤ 1) && decide (octet r 5 = 0)

/-- A descriptor of the image (R250). -/
def descOf (r : List Byte) : Desc :=
  { packed3 := (r.getD 1 0).getLsbD 2, bank := octet r 1 % 4, base := beAt r 2 3, len := beAt r 5 3 }

/-- R250, R251: a descriptor's fields lie in range. -/
def descOk (r : List Byte) : Bool :=
  let d := descOf r
  decide (octet r 0 ≤ 15) && decide (octet r 1 < 8) && decide (d.base % 2 = 0) &&
    (if d.packed3 then decide (d.len % 2 = 0) && decide (d.len ≤ 349524) && decide (d.base + 3 * d.len / 2 ≤ 0x80000)
     else decide (d.len ≤ 262144) && decide (d.base + 2 * d.len ≤ 0x80000))

/-- Header and section ranges of step 3 (R173, R291, R547). -/
def headerOk (img : List Byte) (segs : List (Nat × List Word)) (pages map dds : List (List Byte)) : Bool :=
  let flags := beAt img 6 2
  let cw := beAt img 0x12 2
  let maps := map.map mapOf
  decide (beAt img 0 4 = 0x46515049) && decide (beAt img 4 2 = 1) && decide (flags < 32) && decide (flags / 4 % 4 ≠ 3) &&
    ((img.drop 0x24).take 28).all (fun x => decide (x = 0)) &&
    decide (1 ≤ cw) && decide (cw ≤ 16384) && decide (beAt img 0x14 2 < cw) && decide (pages.length ≤ 128) &&
    decide (dds.length ≤ 16) && decide (beAt img 0x22 2 ≤ 4) && (decide (flags % 2 = 0) || decide (beAt img 0x18 4 = 0)) &&
    segs.all (fun x => decide (x.1 + x.2.length ≤ 0x8000)) &&
    pages.all (fun r => decide (octet r 0 ≤ 127) && decide (octet r 1 ≤ 1)) && distinct (pages.map (fun r => octet r 0)) &&
    map.all mapOk &&
    maps.all (fun a => maps.all (fun b => (a.2.2 == b.2.2) || !overlap (a.1, a.2.1) (b.1, b.2.1))) &&
    dds.all descOk && distinct (dds.map (fun r => octet r 0))

/-! ## Words (R152, R157, R159 to R163, R192) -/

/-- The word at `a`; words beyond the code are NOP, and there is none beyond the bank (R200, R222). -/
def codeAt (code : List Instr) (a : Nat) : Option Instr :=
  match code[a]? with
  | some i => some i
  | none => if a < 16384 then some (.nop ⟨0, false, 0⟩) else none

/-- Unguarded: GS = G0 and GN = 0. -/
def plain (w : Issue) : Bool := !w.gn && decide (w.gs = 0)

/-- Words that only a Sapling image may hold, and writes of LC that a frame image may not hold (R152, R160, R164). -/
def frameBanned : Instr → Bool
  | .br .. | .brc .. | .rptx .. | .halt .. => true
  | .endFrame w | .blk w .. | .call w .. | .callm w .. | .ret w | .retm w .. | .immExt w .. | .rpt w .. => !plain w
  | .ldi w d _ => decide (0x28 ≤ d.val) && decide (d.val ≤ 0x2B) && !plain w
  | .mov _ d _ | .ld _ d _ => decide (0x28 ≤ d.val) && decide (d.val ≤ 0x2B)
  | _ => false

/-- Words that a repeat may not precede (R157). -/
def repeatBars : Instr → Bool
  | .rpt .. | .rptx .. | .blk .. | .call .. | .callm .. | .ret .. | .retm .. | .br .. | .brc .. | .endFrame .. | .halt ..
  | .trap .. | .immExt .. => true
  | _ => false

/-- Transfers, which a delay slot follows (R161, R165). -/
def transfers : Instr → Bool
  | .call .. | .callm .. | .ret .. | .retm .. | .br .. | .brc .. => true
  | _ => false

/-- The bodies of the code's BLK words: the BLK's address and the body's last. -/
def bodies (code : List Instr) : List (Nat × Nat) :=
  code.zipIdx.filterMap (fun x => match x.1 with
    | .blk _ _ len => some (x.2, x.2 + len)
    | _ => none)

/-- The extension that precedes address `a`. -/
def prefixAt (code : List Instr) (a : Nat) : Option (BitVec 21) :=
  if a = 0 then none
  else match code[a - 1]? with
    | some (.immExt _ e) => some e
    | _ => none

/-- One word among its neighbours: an IMM before a word that takes it, a repeat before one it may repeat, a delay slot, a
body within its outer body, calls and END outside what R159 forbids. -/
def wordOk (frame : Bool) (code : List Instr) (bs : List (Nat × Nat)) (a : Nat) (i : Instr) : Bool :=
  let last := bs.any (fun b => decide (b.2 = a))
  let inside := bs.filter (fun b => decide (b.1 < a) && decide (a ≤ b.2))
  let next := (code[a + 1]?).getD (.nop ⟨0, false, 0⟩)
  wordDefined i (prefixAt code a) && (!frame || !frameBanned i) && (!transfers i || !repeatBars next) &&
    (match i with
      | .immExt _ e => !last && immFits (some e) next
      | .rpt .. => !frame || (!last && !repeatBars next)
      | .blk _ _ len => !frame || inside.all (fun b => decide (a + len ≤ b.2))
      | .endFrame .. => !frame || inside.isEmpty
      | .call _ t | .callm _ t _ => !frame || (decide (t.toNat < code.length) && !last)
      | _ => true)

/-- Step 4: a delay-line word's descriptor is in the image and its bank among those required; an atomic's line is packed-4
(R174, R216). -/
def lineOk (banks : Nat) (ds : List (Nat × Desc)) (i : Instr) : Bool :=
  let at' (k : Fin 16) (p : Desc → Bool) : Bool := ds.any (fun x => decide (x.1 = k.val) && decide (x.2.bank < banks) && p x.2)
  match i with
  | .dwr _ k _ | .drd _ _ k _ | .drl _ _ k _ | .drf _ _ k _ => at' k (fun _ => true)
  | .aadd _ _ (.line k _) _ | .aswp _ _ (.line k _) _ => at' k (fun d => !d.packed3)
  | _ => true

/-! ## Cost (R147, R175) -/

/-- The latency of a pair slot (R219). -/
def slotLatency : Slot → Nat
  | .ldl .. | .ld .. => 2
  | .mac .. | .msu .. | .mul .. | .cmac .. | .cmsu .. => 3
  | _ => 1

/-- The latency of a word (R147). -/
def wordLatency : Instr → Nat
  | .ld .. | .ldl .. => 2
  | .mul .. | .mac .. | .msu .. | .macs .. | .cmul .. | .cmac .. | .cmsu .. => 3
  | .drd .. => 6
  | .drl .. => 7
  | .drf .. | .aadd .. | .aswp .. => 8
  | .pairWord _ h l => max (slotLatency h) (slotLatency l)
  | _ => 1

/-! ## The static call graph (R159, R163) -/

/-- One past the last word of the routine that begins at `a`: its first RET, RETM or END, or the end of the code. -/
def routineEnd (code : List Instr) (a : Nat) : Nat :=
  a + ((code.drop a).takeWhile (fun i => match i with
    | .ret .. | .retm .. | .endFrame .. => false
    | _ => true)).length + 1

/-- The target of a call. -/
def callTarget : Instr → Option Nat
  | .call _ t | .callm _ t _ => some t.toNat
  | _ => none

/-- The words at `a` to `b` − 1. -/
def wordsIn (code : List Instr) (a b : Nat) : List Instr := (code.take b).drop a

/-- A chain of more than `k` nested calls starts with a call in routine `a`'s caller; recursion is such a chain. -/
def chainOver (code : List Instr) : Nat → Nat → Bool
  | 0, _ => true
  | k + 1, a => (wordsIn code a (routineEnd code a)).any (fun i => (callTarget i).any (chainOver code k))

/-- More than `k` loops nest, counted across calls, among the words at `a` to `b` − 1; `f` bounds the loops and calls followed. -/
def nestOver (code : List Instr) : Nat → Nat → Nat → Nat → Bool
  | 0, _, _, _ => false
  | f + 1, k, a, b => ((wordsIn code a b).zipIdx a).any (fun x => match x.1 with
    | .blk _ _ len => decide (k = 0) || nestOver code f (k - 1) (x.2 + 1) (x.2 + 1 + len)
    | .call _ t | .callm _ t _ => nestOver code f k t.toNat (routineEnd code t.toNat)
    | _ => false)

/-- The words at `a` to `b` − 1, or a routine that a call among them reaches, hold an END. -/
def reachesEnd (code : List Instr) : Nat → Nat → Nat → Bool
  | 0, _, _ => false
  | f + 1, a, b => (wordsIn code a b).any (fun i => match i with
    | .endFrame .. => true
    | .call _ t | .callm _ t _ => reachesEnd code f t.toNat (routineEnd code t.toNat)
    | _ => false)

/-- R159 and R163 over the code as it stands, whether the walk of R175 comes by or not: no chain of more than eight calls and so no
recursion, no more than four nested loops, no END within reach of a body. -/
def graphOk (code : List Instr) : Bool :=
  code.all (fun i => (callTarget i).all (fun t => !chainOver code 8 t)) && !nestOver code 13 4 0 code.length &&
    (bodies code).all (fun b => !reachesEnd code 10 (b.1 + 1) (b.2 + 1))

/-- The walk of R175: its clock, the routines entered, the loops active with the last write to each counter in the present
pass, and the depths met. -/
structure Walk where
  t : Nat := 0
  last : Nat := 0
  calls : List Nat := []
  loops : Nat := 0
  writes : Tbl Nat := []
  done : Bool := false
  endless : Bool := false
  callDepth : Nat := 0
  loopDepth : Nat := 0
  deriving DecidableEq, Repr

/-- `n` consecutive issues of a word; a write of a loop counter is remembered (R160). The table holds the value plus 1. -/
def walkIssue (w : Walk) (i : Instr) (n : Nat := 1) : Walk :=
  { w with
    last := max w.last (w.t + n - 1 + wordLatency i), t := w.t + n
    writes := (match i with
      | .ldi _ d v => if 0x28 ≤ d.val && d.val ≤ 0x2B then tset 0 w.writes (d.val - 0x28) (v.toNat + 1) else w.writes
      | _ => w.writes) }

/-- The walk from address `a`, up to address `stop` where a body ends; `body` says that RET may not come. Every pass of a
body issues the same words, so a body is walked once and counted `count` times; a counter that its own body writes above 1
in every pass never ends. None for a structure that R159 or R163 forbids. -/
def walk (code : List Instr) : Nat → Nat → Option Nat → Option (BitVec 21) → Walk → Option Walk
  | 0, _, _, _, _ => none
  | f + 1, a, stop, ext, w =>
    if w.done || (match stop with
        | some b => decide (b ≤ a)
        | none => false) then some w
    else match codeAt code a with
      | none => none
      | some i =>
        match i with
        | .immExt _ e => walk code f (a + 1) stop (some e) (walkIssue w i)
        | .rpt _ n =>
          match codeAt code (a + 1) with
          | none => none
          | some j => walk code f (a + 2) stop none (walkIssue (walkIssue w i) j n)
        | .blk _ field len =>
          let k := w.loops
          if 4 ≤ k then none
          else
            let w := walkIssue w i
            let inner := { w with last := w.t, loops := k + 1, loopDepth := max w.loopDepth (k + 1), writes := tset 0 w.writes k 0 }
            match walk code f (a + 1) (some (a + 1 + len)) none inner with
            | none => none
            | some v =>
              let count := (immOf 9 16 false ext field.toNat).toNat
              let own := tget 0 v.writes k
              let n := if own = 0 then count else 1
              let d := v.t - w.t
              walk code f (a + 1 + len) stop none { v with
                t := w.t + n * d, last := max w.last (w.t + (n - 1) * d + (v.last - w.t)), loops := k
                endless := v.endless || decide (2 < own) }
        | .call .. | .callm .. =>
          let (tgt, moved) := match i with
            | .call _ t => (t.toNat, 0)
            | .callm _ t m => (t.toNat, (movedRegs m).length)
            | _ => (0, 0)
          if w.calls.contains tgt || 8 ≤ w.calls.length then none
          else match codeAt code (a + 1) with
            | none => none
            | some j =>
              let w := walkIssue (walkIssue w i) j
              let inner := { w with t := w.t + moved + 1, calls := tgt :: w.calls, callDepth := max w.callDepth (w.calls.length + 1) }
              match walk code f tgt none none inner with
              | none => none
              | some v => walk code f (a + 2) stop none { v with calls := w.calls }
        | .ret .. | .retm .. =>
          let moved := match i with
            | .retm _ m => (movedRegs m).length
            | _ => 0
          if stop.isSome || w.calls.isEmpty then none
          else match codeAt code (a + 1) with
            | none => none
            | some j =>
              let w := walkIssue (walkIssue w i) j
              some { w with t := w.t + moved + 1 }
        | .endFrame .. => if w.loops = 0 then some { walkIssue w i with done := true } else none
        | _ => walk code f (a + 1) stop none (walkIssue w i)

/-- More steps than any walk of an image without recursion takes. -/
def walkFuel : Nat := 2 ^ 200

/-! ## The checks in order (R174) -/

/-- The image's bank contents, as read. -/
def bankOf (img : List Byte) (code : List Nat) (segs : List (Nat × List Word)) (pages map dds : List (List Byte)) : ProgBank :=
  let flags := beAt img 6 2
  { id := BitVec.ofNat 32 (beAt img 0x0C 4), sapling := decide (flags % 2 = 1), flagsAccm := decide (flags / 2 % 2 = 1)
    flagsRnd := flags / 4 % 4, paced := decide (flags / 16 % 2 = 1), rateClass := beAt img 0x10 1, family := beAt img 0x11 1
    entry := beAt img 0x14 2, words := tsetRun 0 [] 0 (code.map (BitVec.ofNat 32)), codeWords := code.length
    data := segs.foldl (fun t x => tsetRun 0 t x.1 x.2) []
    pages := pages.map (fun r => (octet r 0, decide (octet r 1 = 1), (chunks 2 64 (r.drop 2)).map (BitVec.ofNat 16)))
    map := map.map mapOf, descs := dds.foldl (fun t r => tset {} t (octet r 0) (descOf r)) []
    banksReq := beAt img 0x22 2, raw := img }

/-- A program-signing key of Heartwood verifies the image; in ENDED the loader refuses every image (R174 step 2, R489). -/
def signedOk (s : State) (img : List Byte) : Bool :=
  let n := img.length - 64
  let d := Config.sha256 (img.take n)
  decide (s.fuses.life ≠ .ended) &&
    s.heart.keys.any (fun kv => decide (5 * 32 ≤ kv.1) && decide (kv.1 < 6 * 32) && Config.ecdsaVerify kv.2 d (img.drop n))

/-- Banks that an engine owns. -/
def ownedBanks (e : Engine) : Nat := ((List.range 4).filter (fun i => decide (bankNo e i ≠ 0xFF))).length

/-- Steps 3 to 8 for an image whose layout and signature are right. -/
def checkImage (s : State) (e : Fin 32) (img : List Byte) (code : List Nat) (segs : List (Nat × List Word))
    (pages map dds : List (List Byte)) : Except Word ProgBank :=
  let g := eng s e.val
  let b := bankOf img code segs pages map dds
  if !headerOk img segs pages map dds then .error eIllegal
  else
    let prog := code.filterMap (fun w => decodeEngWord e (BitVec.ofNat 32 w))
    let frame := !b.sapling
    let bs := bodies prog
    let w := if frame then walk prog walkFuel b.entry none none {} else some {}
    if prog.length ≠ code.length || !prog.zipIdx.all (fun x => wordOk frame prog bs x.2 x.1) || (frame && !graphOk prog) then .error eIllegal
    else match w with
      | none => .error eIllegal
      | some w =>
        let cost := max w.t w.last
        if frame && (!w.done || w.endless) then .error eIllegal
        else if !prog.all (lineOk b.banksReq (dds.map (fun r => (octet r 0, descOf r)))) then .error eIllegal
        else if b.rateClass ≠ engClass s e.val || (b.family ≠ 0xFF && b.family ≠ s.clocks.rate) then .error eState
        else if b.sapling && g.state ≠ .sapling && g.state ≠ .halted then .error eState
        else if frame && g.state = .sapling then .error eState
        else if ownedBanks g < b.banksReq then .error eCapacity
        else if frame && cost ≠ beAt img 0x18 4 then .error eIllegal
        else if frame && usable (engClass s e.val) < cost then .error eCost
        else .ok { b with cost := if frame then cost else 0, callDepth := w.callDepth, loopDepth := w.loopDepth }

/-- R174, steps 1 to 8. -/
def loadImage (s : State) (e : Fin 32) (img : List Byte) : Except Word ProgBank :=
  match sections img with
  | none => .error eLength
  | some (code, segs, pages, map, dds) =>
    if !signedOk s img then .error eIntegrity else checkImage s e img code segs pages map dds

end Sys2Proof.Machine
end

