-- ==== Sys2Proof/Machine/EngineCmds.lean ====
section
/-! DEFINITION. Engine commands and the loading of images (R138, R166, R167, R171, R174 to R180). -/
namespace Sys2Proof.Machine

/-- The object of engine `n` at an offset (R180). -/
def engObj (n off : Nat) : Nat := 0x0400 + 32 * n + off

/-- A route or a stream of this device names engine `n`'s exchange window (R179). -/
def usesExchange (s : State) (n : Nat) : Bool :=
  let at' (x : Long) : Bool := decide (epKind x = 1) && decide (epUnit x = n)
  s.routes.any (fun kv => decide (kv.2.state ≠ .free) && (at' kv.2.source || at' kv.2.dest)) ||
    ((s.streams.map (·.2)) ++ s.leaving.map (·.stream)).any (fun x => (x.source && at' x.sdef.source) || (x.receiver && at' x.dest))

/-- A write of ENG_STATE.CMD. -/
def engCmd (s : State) (r : Req) (n : Nat) (body : State → Except Word State) : Outc :=
  ok (writeCmd s r { obj := engObj n 0, role := engineer } body)

/-- ENTER_SAPLING (R179); in ENDED engines stay IDLE (R489), and so does one that failed its self-test (R483). -/
def execEnterSapling (r : Req) (e : Fin 32) (s : State) : Outc :=
  let n := e.val
  engCmd s r n (fun s =>
    let g := eng s n
    if (g.state ≠ .idle && g.state ≠ .quarantined) || usesExchange s n || !mayStart s n then .error eState
    else .ok (modEng s n (fun g => { g with
      state := .sapling, running := false, stage := .none, prepared := false, outFade := none, releaseReq := false
      powered := true, haltByDebug := false })))

/-- A Sapling run from the image's state: FREE issues from now on, PACED at the next frame boundary (R164, R178). -/
def startRun (s : State) (n : Nat) : State :=
  let s := modEng s n (fun g => { g with state := .sapling })
  let s := startImage s n
  modEng s n (fun g =>
    let free := !g.active.paced
    let ctr : Long := if free then 1 else 0
    { g with
      state := .sapling, running := true, haltByDebug := false, stepReq := false, breakReq := false
      stage := if free then .program else .none
      frameCtr := ctr, ctrLatch := 0, mtFrame := if free then ⟨(now s).count, 0⟩ else g.mtFrame })

/-- START (R178, R179). DESIGN CHOICE (notes/assumptions/130): STATE reads SAPLING while a Sapling program runs, and START, EXIT_SAPLING
and a load are taken then as in SAPLING. -/
def execStart (r : Req) (e : Fin 32) (s : State) : Outc :=
  let n := e.val
  engCmd s r n (fun s =>
    let g := eng s n
    if (g.state ≠ .sapling && g.state ≠ .halted) || !g.active.sapling || g.active.codeWords = 0 then .error eState
    else .ok (startRun s n))

/-- EXIT_SAPLING (R179): IDLE with an empty active bank. -/
def execExitSapling (r : Req) (e : Fin 32) (s : State) : Outc :=
  let n := e.val
  engCmd s r n (fun s =>
    let g := eng s n
    if g.state ≠ .sapling && g.state ≠ .halted then .error eState
    else .ok (modEng s n (fun g => { g with
      state := .idle, active := {}, running := false, stage := .none, prepared := false, powered := false
      ctx := { g.ctx with inflight := [] } })))

/-- RELEASE (R171). -/
def execRelease (r : Req) (e : Fin 32) (s : State) : Outc :=
  let n := e.val
  engCmd s r n (fun s =>
    if (eng s n).state ≠ .quarantined then .error eState
    else .ok (modEng s n (fun g => { g with releaseReq := true })))

/-- HSR (R166, R167). DESIGN CHOICE (notes/assumptions/131): each write is one request, which is taken once; one written in frame mode is
for the program to test and no interrupt. -/
def execHsr (r : Req) (e : Fin 32) (s : State) : Outc :=
  let n := e.val
  engCmd s r n (fun s => .ok (modEng s n (fun g => { g with hsrPend := true, hsrWait := saplMode g })))

/-- A load ends with an error: its code and its record (R177). -/
def loadFails (s : State) (n : Nat) (c : Word) : State :=
  detect (modEng s n (fun g => { g with loadResult := c })) 0x2013 n (BitVec.setWidth 32 c)

/-- Why a load is refused (R177). -/
def loadBars (s : State) (n : Nat) : Option Word :=
  let g := eng s n
  if g.loading.isSome then some eBusy else if g.standbyState = 3 || g.fade.isSome then some eState else none

/-- A load that R177 does not refuse: the checks of R174, then the writing of the bank. DESIGN CHOICE (notes/assumptions/132):
STANDBY_STATE reads LOADING while a frame image is written, not while a Sapling image is, which goes to the active bank. -/
def beginLoad (s : State) (e : Fin 32) (image : List Byte) : State :=
  let n := e.val
  match loadImage s e image with
  | .error c => loadFails s n c
  | .ok b => modEng s n (fun g => { g with loading := some b, standbyState := if b.sapling then g.standbyState else 1 })

/-- A refused load is an outcome too: LOAD_RESULT and the event report it beside the reply (R177). `passes`: the close reaches the
element's own checks. -/
def noteRefusal (s : State) (r : Req) (n : Nat) (passes : Bool) : State :=
  match loadBars s n with
  | some c => if dictPresent s && decide ((session s r.sess.val).phase = 2) && passes then loadFails s n c else s
  | none => s

/-- The close of ENG_PROG.IMAGE: R177 refuses it, or it is answered and the load runs on (R446). -/
def closeImage (s : State) (e : Fin 32) (image : List Byte) : Except Word State :=
  match loadBars s e.val with
  | some c => .error c
  | none => .ok (beginLoad s e image)

/-- IMAGE_LOAD. -/
def execImageLoad (r : Req) (e : Fin 32) (image : List Byte) (s : State) : Outc :=
  let g : Gate := { obj := engObj e.val 1, role := engineer }
  ok (closeCmd (noteRefusal s r e.val (gateFails s r g).isNone) r g image.length (fun s => closeImage s e image))

/-- ECC marks of one program bank go when the bank is written. -/
def dropProgMarks (s : State) (n : Nat) (standby : Bool) : State :=
  let half := bitOf ((eng s n).actBank != standby)
  dropMarks s (fun l => decide (l / 2 ^ 24 = 1 * 32 + n) && decide (l % 2 ^ 24 / 0x4000 = half))

/-- LOAD_COMPLETE: a frame image is in the standby bank; a Sapling image in the active one, and the engine is in SAPLING, not
running (R176). -/
def execLoadComplete (e : Fin 32) (s : State) : Outc :=
  let n := e.val
  match (eng s n).loading with
  | none => ok s
  | some b =>
    let s := modEng s n (fun g => { g with loading := none })
    if !b.sapling then
      ok (modEng (dropProgMarks s n true) n (fun g => { g with standby := b, standbyState := 2, loadResult := eOK }))
    else if (eng s n).state = .sapling || (eng s n).state = .halted then
      ok (modEng (dropProgMarks s n false) n (fun g => { g with
        active := b, loadResult := eOK, state := .sapling, running := false, stage := .none
        ctx := { g.ctx with inflight := [] } }))
    else ok (loadFails s n eState)

/-- CLEAR_STANDBY (R180). -/
def execClearStandby (r : Req) (e : Fin 32) (v : Byte) (s : State) : Outc :=
  let n := e.val
  ok (writeCmd s r { obj := engObj n 1, role := engineer, range := decide (v.toNat ≤ 1) } (fun s =>
    let g := eng s n
    if v = 0 then .ok s
    else if g.standbyState = 3 || g.fade.isSome then .error eState
    else if g.loading.isSome then .error eBusy
    else .ok (modEng s n (fun g => { g with standby := {}, standbyState := 0 }))))

/-- OVF_CLEAR (R138, R180). -/
def execOvfClear (r : Req) (e : Fin 32) (v : Byte) (s : State) : Outc :=
  let n := e.val
  ok (writeCmd s r { obj := engObj n 6, role := engineer, range := decide (v.toNat ≤ 1) } (fun s =>
    .ok (if v = 1 then modEng s n (fun g => { g with ovf := false }) else s)))

end Sys2Proof.Machine
end

