-- ==== Sys2Proof/Machine/Pages.lean ====
section
/-! DEFINITION. Coefficient pages: host writes, levelling and glides (R276 to R279, R284 to R287, R292). -/
namespace Sys2Proof.Machine

/-- The coefficient window of page `p` of engine `e` (R277). -/
def pageObj (e p : Nat) : Nat := 0x2000 + 128 * e + p

/-- The target of the group that holds a page. -/
def groupTarget (s : State) (g : Nat) : MT := (group s g).target.getD MT.zero

/-- Whether a host may write the page's shadow copy now (R276); none = it may. -/
def shadowBars (s : State) (p : Page) : Option Word :=
  match p.state with
  | .clean | .dirty => none
  | .armed => if inTime (now s) (groupTarget s p.group.toNat) then none else some eLate
  | .bound | .gliding => some eState
  | .levelling => some eBusy

/-- Words written to the shadow copy. -/
def shadowWrite (s : State) (e p first : Nat) (vs : List Word) : State :=
  let c := !(page (eng s e) p).view1
  modPage (clearPage s e p c first vs.length) e p (fun q =>
    { setOther q (tsetRun 0 (otherCopy q) first vs) with dirty := true, state := if q.state = .armed then .armed else .dirty })

/-- PAGE_WRITE: all the words land, or none (R276, R277). -/
def execPageWrite (r : Req) (e : Fin 32) (p : Fin 128) (first : Nat) (values : List Word) (s : State) : Outc :=
  ok (runRequest s r 2 values.length
    (fun s =>
      if values.isEmpty || decide (64 < first + values.length) then some (eNoElement, BitVec.ofNat 8 (64 - min 64 first))
      else (gateFails s r { obj := pageObj e.val p.val, role := operator }).map (·, 0))
    (fun s =>
      match shadowBars s (page (eng s e.val) p.val) with
      | some c => .error c
      | none => .ok (shadowWrite s e.val p.val first values, [])))

/-- PAGE.LEVEL (R279). -/
def execPageLevel (r : Req) (e : Fin 32) (p : Fin 128) (v : Byte) (s : State) : Outc :=
  ok (writeCmd s r { obj := pageObj e.val p.val, role := operator, range := decide (v.toNat ≤ 1) } (fun s =>
    let q := page (eng s e.val) p.val
    if v = 0 then .ok s
    else match q.state with
      | .clean => .ok s
      | .dirty => .ok (modPage s e.val p.val (fun q => { q with state := .levelling }))
      | _ => .error eState))

/-- The copy in view overwrites the other, and nothing of the host's edits is left. -/
def levelled (q : Page) : Page := { setOther q (viewCopy q) with dirty := false }

/-- LEVELLING_COMPLETE (R278). -/
def execLevellingComplete (e : Fin 32) (p : Fin 128) (s : State) : Outc :=
  let q := page (eng s e.val) p.val
  if q.state = .levelling then
    ok (modPage (clearPage s e.val p.val (!q.view1) 0 64) e.val p.val (fun q => { levelled q with state := .clean }))
  else ok s

/-- The completion mt of a glide: T + N/m (R284). -/
def glideEnd (s : State) (e : Nat) (q : Page) : MT := mtPlus q.glideStart (q.glideN * frameUnits (engClass s e))

/-- The page glides past mt `t`. -/
def glidesPast (s : State) (e p : Nat) (t : MT) : Bool :=
  let q := page (eng s e) p
  decide (q.state = .gliding) && inFuture t (glideEnd s e q)

/-- After a glide the page levels, or after a REVERT is DIRTY with its old copy in view; it takes the words of a graft armed
meanwhile (R278, R287, R292). -/
def afterGlide (s : State) (e p : Nat) (rev : Bool) : State :=
  let words := (replacedPages (eng s e).standby).find? (fun x => decide (x.1 = p))
  let s := modPage s e p (fun q =>
    if rev then { q with view1 := !q.view1, state := .dirty, dirty := true, group := 0, abort := none }
    else { q with state := .levelling, abort := none })
  match (page (eng s e) p).bindAfter, words with
  | true, some w => bindOn s e p w.2
  | _, _ => modPage s e p (fun q => { q with bindAfter := false })

/-- PAGE.GLIDE_ABORT (R74, R287). -/
def glideAbort (s : State) (r : Req) (e p : Nat) (rev : Bool) : Outc :=
  ok (writeCmd s r { obj := pageObj e p, role := operator } (fun s =>
    let q := page (eng s e) p
    let b := boundaryFrom (max 3 (engClass s e)) (mtPlus (now s) (4 * 65536))
    if q.state ≠ .gliding || q.abort.isSome then .error eState
    else if !inFuture b (glideEnd s e q) then .error eLate
    else .ok (modPage s e p (fun q => { q with abort := some (b, rev) }))))

def execGlideAbortFinish (r : Req) (e : Fin 32) (p : Fin 128) (s : State) : Outc := glideAbort s r e.val p.val false
def execGlideAbortRevert (r : Req) (e : Fin 32) (p : Fin 128) (s : State) : Outc := glideAbort s r e.val p.val true

/-- GLIDE_ABORT_EFFECT: FINISH reads new, REVERT flips back to old (R287). -/
def execGlideAbortEffect (e : Fin 32) (p : Fin 128) (s : State) : Outc :=
  let q := page (eng s e.val) p.val
  match q.abort with
  | some (b, rev) =>
    if q.state ≠ .gliding || !isDue (now s) b then ok s
    else ok (afterGlide s e.val p.val rev)
  | none => ok s

/-- GLIDE_COMPLETE (R284, R278). -/
def execGlideComplete (e : Fin 32) (p : Fin 128) (s : State) : Outc :=
  let q := page (eng s e.val) p.val
  if q.state = .gliding && isDue (now s) (glideEnd s e.val q) then ok (afterGlide s e.val p.val false) else ok s

end Sys2Proof.Machine
end

