-- ==== Sys2Proof/Machine/Grafts.lean ====
section
/-! DEFINITION. GRAFT.REQUEST and the end of a double-run fade (R288, R289, R292, R294, R295, R301). -/
namespace Sys2Proof.Machine

/-- Entries of a state map that share a word; an entry of length 0 names none. -/
def mapsMeet (a b : Nat × Nat × Bool) : Bool := overlap (a.1, a.2.1) (b.1, b.2.1)

/-- R295: no exclusive entry of the new image meets a word that the old image's map names. -/
def mapsCompatible (old new : ProgBank) : Bool := new.map.all (fun a => a.2.2 || old.map.all (fun b => !mapsMeet a b))

/-- A write of GRAFT.REQUEST. -/
def graftCmd (s : State) (r : Req) (range : Bool) (body : State → Except Word State) : Outc :=
  ok (writeCmd s r { obj := 0x1300, role := engineer, range := range } body)

/-- CURVE and TARGET are 0 in every request but an ARM (R288). -/
def plainGraft (engine curve : Byte) (target : MT) : Bool := decide (engine.toNat < 32) && decide (curve = 0) && decide (target = MT.zero)

/-- Step 3 of R289; an IDLE engine that must stay IDLE is armed with nothing (R483, R489). -/
def graftState (s : State) (n fade : Nat) : Bool :=
  let e := eng s n
  !dormant s && decide (e.standbyState = 2) &&
    (decide (e.state = .run) || (decide (fade = 0) && (decide (e.state = .gated) || (decide (e.state = .idle) && mayStart s n))))

/-- Step 4 of R289; `t` is a standalone graft's target. -/
def graftClash (s : State) (n fade : Nat) (t : Option MT) : Bool :=
  let e := eng s n
  e.graft.isSome || e.fade.isSome ||
    (replacedPages e.standby).any (fun x => decide ((page e x.1).group ≠ 0) || (match t with
      | some t => glidesPast s n x.1 t
      | none => false)) ||
    (decide (0 < fade) && !mapsCompatible e.active e.standby)

/-- GRAFT.REQUEST ARM (R289, R292). -/
def execGraftArm (r : Req) (engine curve group : Byte) (fade : Word) (target : MT) (s : State) : Outc :=
  let n := engine.toNat
  let g := group.toNat
  let f := fade.toNat
  graftCmd s r (decide (n < 32) && decide (curve.toNat ≤ 1)) (fun s =>
    let e := eng s n
    let lone := decide (g = 0)
    if (lone && !engBoundary s n target) || (!lone && (decide (target ≠ MT.zero) || decide ((Machine.group s g).state ≠ .opened))) then .error eRange
    else if lone && !inTime (now s) target then .error eLate
    else if !graftState s n f then .error eState
    else if graftClash s n f (if lone then some target else none) || (lone && schedTaken s target (.graft n)) then .error eConflict
    else if decide (0 < f) && decide (usable (engClass s n) < e.active.cost + e.standby.cost) then .error eCost
    else if lone && !schedRoom s 1 then .error eCapacity
    else
      let s := if e.state = .idle then s else (replacedPages e.standby).foldl (fun s x => bindOn s n x.1 x.2) s
      let s := modEng s n (fun e => { e with standbyState := 3, graft := some ⟨curve.toNat, g, f, target, false⟩ })
      .ok (if lone then schedAdd s target [.graft n]
        else
          let x := Machine.group s g
          setGroup s g { x with grafts := x.grafts ++ [n] }))

/-- GRAFT.REQUEST CANCEL of a standalone graft (R71, R289). -/
def execGraftCancel (r : Req) (engine curve _group : Byte) (_fade : Word) (target : MT) (s : State) : Outc :=
  let n := engine.toNat
  graftCmd s r (plainGraft engine curve target) (fun s =>
    match (eng s n).graft with
    | none => .error eState
    | some a =>
      if a.group ≠ 0 then .error eState
      else if !inTime (now s) a.target then .error eLate
      else .ok (cancelGraft (schedDrop s (fun x => decide (x.act = .graft n))) n))

/-- An abort of a fade (R74, R301). -/
def graftAbort (s : State) (r : Req) (engine curve : Byte) (target : MT) (rev : Bool) : Outc :=
  let n := engine.toNat
  graftCmd s r (plainGraft engine curve target) (fun s =>
    match (eng s n).fade with
    | none => .error eState
    | some f =>
      let b := boundaryFrom (engClass s n) (mtPlus (now s) (4 * 65536))
      if f.abort.isSome then .error eState
      else if !inFuture b (fadeEnd s n f) then .error eLate
      else .ok (modEng s n (fun e => { e with fade := some { f with abort := some (b, rev) } })))

def execAbortFinish (r : Req) (engine curve _group : Byte) (_fade : Word) (target : MT) (s : State) : Outc :=
  graftAbort s r engine curve target false
def execAbortRevert (r : Req) (engine curve _group : Byte) (_fade : Word) (target : MT) (s : State) : Outc :=
  graftAbort s r engine curve target true

/-- GRAFT_ABORT_EFFECT: an accepted abort at its boundary (R301). -/
def execGraftAbortEffect (e : Fin 32) (s : State) : Outc :=
  match (eng s e.val).fade with
  | some f =>
    match f.abort with
    | some (b, rev) => if isDue (now s) b then ok (endFade s e.val (if rev then 4 else 3)) else ok s
    | none => ok s
  | none => ok s

/-- FADE_COMPLETE: from T + F/m only the new program runs (R298). -/
def execFadeComplete (e : Fin 32) (s : State) : Outc :=
  match (eng s e.val).fade with
  | some f => if isDue (now s) (fadeEnd s e.val f) then ok (endFade s e.val 1) else ok s
  | none => ok s

end Sys2Proof.Machine
end

