-- ==== Sys2Proof/Machine/Cells.lean ====
section
/-! DEFINITION. Management cells: the outbound queues of links and what link hardware sends and drops (R381 to R385). -/
namespace Sys2Proof.Machine

/-- A link that forwards management cells: joined, or held to management alone (R385, R405, R415). -/
def linkPasses (s : State) (l : Nat) : Bool := !alone s && (decide ((link s l).join = 3) || decide ((link s l).join = 4))

/-- A cell discarded on a link: MGMT_DROP and its detector (R381, R384, R503). -/
def mgmtDrop (s : State) (l : Nat) : State :=
  let k := link s l
  let (t, o) := bump k.counts k.ovf 0x09 4
  detect (setLink s l { k with counts := t, ovf := o }) 0x5007 l 0

/-- The queue without the newest cell whose priority satisfies `p`. -/
def dropNewest (p : Nat → Bool) (q : List (Nat × Cell)) : List (Nat × Cell) :=
  match (q.reverse.find? (fun x => p x.1)) with
  | some x => (q.reverse.erase x).reverse
  | none => q

/-- Put a cell into a link's outbound queue of 256 (R384). -/
def putCell (s : State) (l prio : Nat) (c : Cell) : State :=
  let k := link s l
  let q := k.outCells
  let add (q : List (Nat × Cell)) : State := setLink s l { k with outCells := q ++ [(prio, c)] }
  if q.length < 256 then add q
  else if decide (prio ≤ 2) && q.any (fun x => decide (3 ≤ x.1)) then mgmtDrop (add (dropNewest (fun p => decide (3 ≤ p)) q)) l
  else if decide (prio = 1) && q.any (fun x => decide (x.1 = 2)) then mgmtDrop (add (dropNewest (fun p => decide (p = 2)) q)) l
  else mgmtDrop s l

/-- Priority of a cell (R384): CANCEL, then PREPARE and PREP_ACK, then forwarded cells, then those originated here. -/
def cellPrio (c : Cell) (own : Bool) : Nat :=
  if c.kind = 2 then 1 else if c.kind = 3 || c.kind = 4 then 2 else if own then 4 else 3

/-- FLAGS.BCAST of a cell. -/
def isBcast (c : Cell) : Bool := c.flags.getLsbD 2

/-- What identifies a broadcast cell. -/
def cellId (c : Cell) : Nat × Nat × Nat := (c.src.toNat, c.msgId.toNat, c.frag.toNat)

/-- The device has seen a broadcast cell among its last 256; otherwise it is remembered. -/
def seenBefore (s : State) (c : Cell) : Bool := s.grove.seen.contains (cellId c)
def remember (s : State) (c : Cell) : State := { s with grove := { s.grove with seen := (cellId c :: s.grove.seen).take 256 } }

/-- Send a cell on: a broadcast on every UP link but one, a forwarded one only where links forward (R405); another on the link the forwarding table names for DEST. -/
def forward (s : State) (c : Cell) (own : Bool) (arrivedOn : Option Nat) : State :=
  let p := cellPrio c own
  if isBcast c then
    (List.range 4).foldl (fun s l => if linkUp s l && (own || linkPasses s l) && decide (arrivedOn ≠ some l) then putCell s l p c else s) s
  else
    match tget 0 s.grove.fwd c.dest.toNat with
    | 0 => s
    | l + 1 => putCell s l p c

/-- Originate a cell from this device: the next MSG_ID, first and last fragment of its message. -/
def originate (s : State) (kind : Byte) (bcast : Bool) (dest : Nat) (payload : List Byte) : State :=
  let g := s.grove
  let c : Cell := {
    kind := kind, flags := if bcast then 7 else 3, hops := Config.firstHops, reserved := 0
    dest := BitVec.ofNat 16 dest, src := BitVec.ofNat 16 s.cfg.deviceNumber, msgId := g.nextMsgId, frag := 0
    payload := (payload ++ List.replicate 52 0).take 52 }
  let s : State := { s with grove := { g with nextMsgId := g.nextMsgId + 1 } }
  forward (if bcast then remember s c else s) c true none

/-- A management message in cells (R449): 52 octets each, FRAG from 0, FIRST and LAST marked, one MSG_ID. -/
def cellsOf (s : State) (dest : Nat) (m : List Byte) : List Cell :=
  let n := max 1 ((m.length + 51) / 52)
  (List.range n).map (fun i =>
    { kind := 1, flags := BitVec.ofNat 8 (bitOf (decide (i = 0)) + 2 * bitOf (decide (i + 1 = n))), hops := Config.firstHops, reserved := 0
      dest := BitVec.ofNat 16 dest, src := BitVec.ofNat 16 s.cfg.deviceNumber, msgId := s.grove.nextMsgId, frag := BitVec.ofNat 16 i
      payload := ((m.drop (52 * i)).take 52 ++ List.replicate 52 0).take 52 })

/-- Send a management message to a device. -/
def sendMessage (s : State) (dest : Nat) (m : List Byte) : State :=
  let cs := cellsOf s dest m
  let s : State := { s with grove := { s.grove with nextMsgId := s.grove.nextMsgId + 1 } }
  cs.foldl (fun s c => forward s c true none) s

/-- A member's report of a change goes to the Root (R416). -/
def reportOut (s : State) : State :=
  let g := s.grove
  if g.changeReported && !g.reportSent && decide (g.role ≠ .root) && decide (g.rootDevice ≠ 0xFFFF) then
    sendMessage { s with grove := { g with reportSent := true } } g.rootDevice.toNat (0xF2 :: be 2 s.cfg.deviceNumber)
  else s

/-- A Root that withholds for a round trip tells the members DWELL_S (R414). -/
def dwellOut (s : State) : State :=
  let g := s.grove
  match g.drillDwell with
  | some d => if decide (g.role = .withheld) && !g.drillTold then originate { s with grove := { g with drillTold := true } } 1 true 0 (0xF3 :: be 2 d) else s
  | none => s

/-- The messages that wait for the grove leave in cells. -/
def groveOut (s : State) : State :=
  let s := dwellOut (reportOut s)
  let l := s.mgmt.outGrove
  l.foldl (fun s x => sendMessage s x.1 x.2) { s with mgmt := { s.mgmt with outGrove := [] } }

/-- Group, target count and phase, as CANCEL, PREPARE and PREP_ACK carry them (R382, R383). -/
def groupOctets (g : Nat) (t : MT) : List Byte := be 1 g ++ mtBytes t

end Sys2Proof.Machine
end

