-- ==== Sys2Proof/Machine/Links.lean ====
section
/-! DEFINITION. The paths of links: training, their states and the changes between them (R388 to R390, R399, R400, R402). -/
namespace Sys2Proof.Machine

def linkObj (l : Nat) : Nat := 0x0D00 + 64 * l

/-- The link carries an admitted stream, transit or protected alternate: some slot is mapped, or staged to be (R400, R402). -/
def linkCarries (s : State) (l : Nat) : Bool := !(bookedMap s l true).isEmpty || !(bookedMap s l false).isEmpty

/-- A path enabled by LINK_CFG (R388). -/
def pathOn (c : LinkCfg) (b : Bool) : Bool := c.enable && (if b then decide (2 ≤ c.paths) else decide (c.paths % 2 = 1))

/-- ARG of PATH_UP and its like: the path. -/
def pathNo (b : Bool) : Long := BitVec.ofNat 32 (bitOf b)

/-- A path in state `a` goes on to `b`. -/
def pathStep (s : State) (l : Nat) (b : Bool) (from' to' : PathState) : State :=
  if (path s l b).state = from' then setPath s l b { path s l b with state := to', enteredAt := now s } else s

/-- CDR_LOCK: training starts with the transmit settings now configured, 1 ms or more after the path left UP (R388, R402). -/
def execCdrLock (l : Fin 4) (pathB : Bool) (s : State) : Outc :=
  let n := l.val
  let p := path s n pathB
  let c := linkCfg s n
  if decide (p.state = .signal) && (!p.fromUp || decide (msUnits s 1 ≤ mtDiff p.enteredAt (now s))) then
    ok (setPath s n pathB { p with state := .block, enteredAt := now s, txSet := (c.txPre, c.txPost, c.txSwing) })
  else ok s

/-- BLOCK_LOCK. -/
def execBlockLock (l : Fin 4) (pathB : Bool) (s : State) : Outc := ok (pathStep s l.val pathB .block .adapt)

/-- ADAPT_DONE: the converged equaliser codes are kept (R401). -/
def execAdaptDone (l : Fin 4) (pathB : Bool) (eq : List Byte) (s : State) : Outc :=
  let p := path s l.val pathB
  if p.state = .adapt then ok (setPath s l.val pathB { p with state := .frame, enteredAt := now s, eq := BitVec.ofNat 64 (beAt eq 0 8 / 65536 * 65536) }) else ok s

/-- FRAME_LOCK. -/
def execFrameLock (l : Fin 4) (pathB : Bool) (s : State) : Outc := ok (pathStep s l.val pathB .frame .measure)

/-- The condition of R379 on a measured delay and offset, in ps. -/
def delayOk (delay offset : Int) : Bool := decide (delay + offset.natAbs ≤ 250000)

/-- A path enters UP: the record, and the peer as its link reports it. Once path A is up at a new rate, path B follows (R399). -/
def pathIsUp (s : State) (l : Nat) (b : Bool) : State :=
  let s := setPath s l b { path s l b with
    state := .up, low := (link s l).lowWanted && !(path s l b).stays, slow := 0, enteredAt := now s, fromUp := false, noSof := 0, crcWin := [] }
  let k := link s l
  let s := match (path s l b).peer with
    | some (d, n) => setLink s l { k with peerDev := d.setWidth 16, peerLink := n.setWidth 8, silent := 0 }
    | none => s
  let s := detect s 0x5002 l (pathNo b)
  let o := path s l (!b)
  if !b && decide (o.state = .up) && (o.low != (path s l b).low) then pathOut s l true .signal else s

/-- MEASURE_DONE: the peer's identity, then the condition of R379 (R388, R390). -/
def execMeasureDone (l : Fin 4) (pathB : Bool) (peer : BitVec 12) (peerLink : BitVec 2) (peerPathB : Bool) (delayPs : Long) (offsetPs : Long)
    (s : State) : Outc :=
  let n := l.val
  let p := path s n pathB
  let o := path s n (!pathB)
  if p.state ≠ .measure then ok s
  else
    let s := setPath s n pathB { p with
      peer := some (peer, peerLink), delayPs := delayPs, offsetPs := offsetPs, meas := List.replicate 16 (delayPs, offsetPs) }
    if (peerPathB != pathB) || (decide (o.state = .up) && decide (o.peer ≠ some (peer, peerLink))) then
      ok (detect (setPath s n pathB { path s n pathB with state := .crossed, enteredAt := now s }) 0x5005 n (pathNo pathB))
    else if !delayOk delayPs.toNat offsetPs.toInt then
      ok (detect (setPath s n pathB { path s n pathB with state := .delayFault, slow := 0, enteredAt := now s }) 0x5004 n (pathNo pathB))
    else ok (pathIsUp s n pathB)

/-- The limit of a state of training, in units of 1/65,536 base period. -/
def trainLimit (s : State) : PathState → Option Nat
  | .block => some (msUnits s 1 / 10)
  | .adapt => some (msUnits s 4)
  | .frame => some (8 * 65536)
  | .measure => some (16 * 65536)
  | _ => none

/-- TRAINING_TIMEOUT: a state of training over its limit. The limits hold at full rate; a path that fails to train at low rate stays at
full rate (R388, R399). -/
def execTrainingTimeout (l : Fin 4) (pathB : Bool) (s : State) : Outc :=
  let n := l.val
  let p := path s n pathB
  let low := (link s n).lowWanted && !p.stays
  match trainLimit s p.state with
  | none => ok s
  | some m =>
    if low || decide (m ≤ mtDiff p.enteredAt (now s)) then
      ok (setPath s n pathB { p with state := .signal, meas := [], enteredAt := now s, fromUp := false, stays := p.stays || low })
    else ok s

/-- A criterion of R389: loss of CDR lock and 16 invalid sync headers within 64 blocks are the receiver's to report; the other two are
counted here. -/
def downBy (p : Path) (criterion : Nat) : Bool :=
  match criterion with
  | 1 | 2 => true
  | 3 => decide (2 ≤ p.noSof)
  | 4 => decide (8 < (p.crcWin.filter (fun b => b)).length)
  | _ => false

/-- PATH_DOWN on a criterion of R389. -/
def execPathDown (l : Fin 4) (pathB : Bool) (criterion : Nat) (s : State) : Outc :=
  if pathUp s l.val pathB && downBy (path s l.val pathB) criterion then ok (losePath s l.val pathB .signal 0x5001 (pathArg pathB criterion) false) else ok s

/-- DELAY_FAULT_CLEAR: 64 frames in a row met the condition; a path whose peer is not the other path's, which has come up meanwhile, is
CROSSED (R390). -/
def execDelayFaultClear (l : Fin 4) (pathB : Bool) (s : State) : Outc :=
  let n := l.val
  let p := path s n pathB
  let o := path s n (!pathB)
  if decide (p.state ≠ .delayFault) || decide (p.slow < 64) then ok s
  else if decide (o.state = .up) && decide (o.peer ≠ p.peer) then
    ok (detect (setPath s n pathB { p with state := .crossed, enteredAt := now s }) 0x5005 n (pathNo pathB))
  else ok (pathIsUp s n pathB)

/-- LINK_CTRL.RETRAIN (R402). -/
def execRetrain (r : Req) (l : Fin 4) (v : Word) (s : State) : Outc :=
  let n := l.val
  let b := decide (v = 2)
  ok (writeCmd s r { obj := linkObj n + 4, role := engineer, range := decide (v = 1) || b } (fun s =>
    if linkCarries s n && !pathUp s n (!b) then .error eState
    else if (path s n b).state = .off then .ok s
    else .ok (sendPath s n b .signal)))

/-- A rate change; a link that carries streams stays at full rate (R399, R400). -/
def rateChange (s : State) (n : Nat) (low : Bool) : State := if low && linkCarries s n then s else steerRate s n low

/-- LINK_RATE_CHANGE: the rate that the peer asks for in its TRAIN requests; the link runs at low rate while either end is in DORMANT
(R398, R399). -/
def execLinkRateChange (l : Fin 4) (low : Bool) (s : State) : Outc :=
  let n := l.val
  let low' := low || ownLow s
  if low' && linkCarries s n then ok s else ok (steerRate (setLink s n { link s n with lowPeer := low }) n low')

end Sys2Proof.Machine
end

