-- ==== Sys2Proof/Machine/Claims.lean ====
section
/-! DEFINITION. Joining and Root claims as link hardware and the control core keep them: claims heard, time against the upstream,
alignment, HELD (R404 to R413, R416, R417). -/
namespace Sys2Proof.Machine

/-- This device's Root claim (R408); 0 when it does not claim. -/
def ownClaim (s : State) : Long :=
  let g := s.grove
  if g.role = .root ∨ g.role = .claiming then
    BitVec.ofNat 32 ((if g.role = .root then 2 ^ 31 else 0) + s.cfg.priority * 65536 + s.cfg.deviceNumber)
  else 0

/-- What a member that does not claim is (R411, R412). -/
def quietRole (s : State) : Role := if s.cfg.priority = 0 then .member else .standby

/-- The current claim of a link: claim and hops (R409). -/
def linkClaim (s : State) (l : Nat) : Option (Long × Nat) :=
  let k := link s l
  match k.rxHdr with
  | some h => if joined s l && linkUp s l && decide (k.silent ≤ 2) && decide (h.compat = ownCompat s) && decide (h.claimHops.toNat ≤ 62) then some (h.claim, h.claimHops.toNat) else none
  | none => none

/-- The better of two claims with their links: the higher, then the fewer hops, then the lower link. -/
def betterClaim (a b : Option (Long × Nat × Nat)) : Option (Long × Nat × Nat) :=
  match a, b with
  | none, b => b
  | a, none => a
  | some x, some y =>
    if x.1.toNat < y.1.toNat || (decide (x.1 = y.1) && decide (y.2.1 < x.2.1)) then b else a

/-- Bit 31 of a claim. -/
def incumbent (c : Long) : Bool := c.msb

/-- HELD, with its cause and record (R416). -/
def holdMember (s : State) (cause : Nat) : State :=
  if s.grove.state = 4 then s
  else detect { s with grove := { s.grove with state := 4, holdCause := cause } } 0x5013 devUnit (BitVec.ofNat 32 cause)

/-- The latest link-state record of the Root. -/
def rootRecord (s : State) : Option LsRecord := tget none s.grove.records s.grove.rootDevice.toNat

/-- The Root's epoch tag, as its latest record gives it; free where none has come. -/
def rootTag (s : State) : Long × State :=
  match rootRecord s with
  | some r => (r.tag, s)
  | none => (Config.freeLong s.fresh, { s with fresh := s.fresh + 1 })

/-- The epoch tag against the Root's, after a rejoin: 5 TAG holds the member (R416). -/
def compareTag (s : State) (tag : Long) : State :=
  let s : State := { s with grove := { s.grove with tagDue := false } }
  if s.grove.epochTag = tag then s else holdMember s 5

/-- The epoch against the Root's, on a joined member (R416): 4 EPOCH holds it, and equality frees it again. -/
def checkEpoch (s : State) : State :=
  let g := s.grove
  if g.role = .root then s
  else if decide (g.state = 3) && decide (s.epoch ≠ g.rootEpoch) then holdMember s 4
  else if decide (g.state = 4) && decide (g.holdCause = 4) && decide (s.epoch = g.rootEpoch) then { s with grove := { g with state := 3, holdCause := 0 } }
  else s

/-- ROOT_DEVICE follows the claim heard with INCUMBENT; a change is recorded. At a change from one Root to another each
member moves its phase by at most 20 ns: by how much is not given (R413, R430), admissions under way end with BUSY (R424),
and a member whose part yields to another Root compares its tag with that Root's next record (R416): Root frames came until then, or it was
the Root itself. -/
def followRoot (s : State) (c : Long) : State :=
  let d := c.extractLsb' 0 12
  if incumbent c && decide (s.grove.rootDevice ≠ d.setWidth 16) then
    let s := if s.grove.rootDevice = 0xFFFF then s
      else
        let rejoin := decide (s.grove.rootGap < 16) || decide (s.grove.role = .root)
        let s : State := if rejoin && decide (s.grove.state = 3) then { s with grove := { s.grove with tagDue := true } } else s
        let (k, s) := draw (releasePending s)
        let (n, o) := satInc s.grove.handovers
        { s with grove := { s.grove with
            handovers := n, handoverOvf := s.grove.handoverOvf || o
            lastStepPs := BitVec.ofInt 32 ((Config.freeLong k).toNat % 40001 - 20000 : Int) } }
    detect { s with grove := { s.grove with rootDevice := d.setWidth 16, drillNewRoot := if s.grove.drillState = 0 then s.grove.drillNewRoot else d.setWidth 16 } }
      0x5015 devUnit (d.setWidth 32)
  else s

/-- With no heard claim the GROVE reference is stopped (R410). -/
def groveStops (s : State) : State := (List.range 8).foldl (fun s i => if refType s i = 5 then refStop s i false else s) s

/-- The heard claim and the upstream (R409). -/
def hearClaims (s : State) : State :=
  let best := (List.range 4).foldl (fun m l => betterClaim m ((linkClaim s l).map (fun c => (c.1, c.2, l)))) none
  let own := ownClaim s
  let g := s.grove
  match best with
  | some (c, h, l) =>
    if own.toNat < c.toNat then followRoot { s with grove := { g with heard := c, heardHops := BitVec.ofNat 8 h, upstream := some l, follows := true } } c
    else followRoot { s with grove := { g with heard := own, heardHops := 0, upstream := none } } own
  | none =>
    if own = 0 then
      let s' : State := { s with grove := { g with heard := 0, heardHops := 0xFF, upstream := none } }
      if g.heardHops = 0xFF then s' else groveStops s'
    else followRoot { s with grove := { g with heard := own, heardHops := 0, upstream := none } } own

/-- A Root is heard (R421, R424). -/
def rootHeard (s : State) : Bool := decide (s.grove.heardHops ≠ 0xFF) && incumbent s.grove.heard

/-- CLAIM and CLAIM_HOPS of a frame sent on link `l` (R409). -/
def sentClaim (s : State) (l : Nat) : Long × Byte :=
  let g := s.grove
  if g.heardHops = 0xFF then (0, 0xFF)
  else match g.upstream with
    | none => (g.heard, 0)
    | some u => (g.heard, if u = l then 0xFF else g.heardHops + 1)

/-- The outcome of a drill (R414). -/
def drillEnds (s : State) (result : Nat) (state : Nat) : State :=
  { s with grove := { s.grove with drillResult := result, drillMt := now s, drillState := state } }

/-- A header with a current claim on a joined link acts on claiming, withholding and yielding (R411, R412, R414). -/
def claimHeard (s : State) (l : Nat) (h : FrameHdr) : State :=
  let cur := decide (h.claimHops.toNat ≤ 62)
  let root := cur && incumbent h.claim
  let own := ownClaim s
  let k := link s l
  let s := setLink s l { k with higherRun := if root && decide (s.grove.role = .root) && decide (own.toNat < h.claim.toNat) then k.higherRun + 1 else 0 }
  let s : State := if root then { s with grove := { s.grove with rootGap := s.grove.noRoot, noRoot := 0 } } else s
  let s : State := if decide (s.grove.role = .claiming) && cur && decide (own.toNat < h.claim.toNat) then
      { s with grove := { s.grove with role := quietRole s, claimRun := 0 } }
    else s
  if decide (s.grove.role = .withheld) && root && decide (h.claim.extractLsb' 0 12 ≠ BitVec.ofNat 12 s.cfg.deviceNumber) then
    let s := drillEnds s 1 (if s.grove.drillDwell.isSome then 3 else 0)
    { s with grove := { s.grove with role := quietRole s, drillNewRoot := (h.claim.extractLsb' 0 12).setWidth 16 } }
  else s

/-! ## Time against the upstream (R417) -/

/-- The upstream's count less the own, as a signed number. -/
def countError (s : State) (up : BitVec 64) : Int := (up - (now s).count).toInt

/-- θ of the upstream's path that R396 takes, in ps. -/
def upOffset (s : State) (l : Nat) : Int := if pathUp s l false then (path s l false).offsetPs.toInt else (path s l true).offsetPs.toInt

/-- Every block endpoint of the device begins a fade to zero over 64 samples (R417, step 1). -/
def fadeEndpoints (s : State) : State :=
  let fade (x : EndPoint) : EndPoint := { x with starve := some (fadeDown x.starve 64) }
  let s := eachPort s (fun p q => (List.range (portChans s p)).foldl (fun q i =>
    setChan q true i { chan q true i with starve := some (fadeDown (chan q true i).starve 64) }) q)
  let s := eachBridge s (fun _ b => { b with egress := { b.egress with ends := b.egress.ends.map (fun x => (x.1, fade x.2)) } })
  eachLink s (fun _ k => { k with txEnds := k.txEnds.map (fun x => (x.1, fade x.2)) })

/-- JOINED (R405): the links that passed the checks are joined from now on. -/
def markJoined (s : State) : State :=
  let s := s.links.foldl (fun s kv => if (link s kv.1).join = 4 then setLink s kv.1 { link s kv.1 with joinDone := true } else s) s
  { s with grove := { s.grove with state := 3, holdCause := 0, follows := true } }

/-- The member becomes JOINED (R405, R406): the first time it takes the grove's epoch and tag, afterwards both are checked against the
Root's (R416), as its record gives them: `epoch` is what the upstream reports, where no record has come. -/
def becomeJoined (s : State) (epoch : Long) : State :=
  let s := markJoined s
  if s.grove.firstJoin then
    let (t, s) := rootTag s
    let e := if (rootRecord s).isSome then s.grove.rootEpoch else epoch
    { s with epoch := e, grove := { s.grove with firstJoin := false, rootEpoch := e, epochTag := t } }
  else match rootRecord s with
    | some r => compareTag (checkEpoch s) r.tag
    | none => { s with grove := { s.grove with tagDue := true } }

/-- An aligned member becomes JOINED at the next base-period boundary (R405, R406, R417). -/
def joinsNow (s : State) : State :=
  match s.grove.aligned with
  | some e =>
    let s : State := { s with grove := { s.grove with aligned := none } }
    if s.grove.state = 1 ∨ s.grove.state = 2 then becomeJoined s e else s
  | none => s

/-- The time error of R417 is 8 base periods or more: the counts' difference `e` with an offset in ps. -/
def timeFar (s : State) (e ps : Int) : Bool := decide (8 * onePeriod ≤ (e * onePeriod + ps * rateHz s.clocks.rate).natAbs)

/-- A header from the upstream: TAI mapping, base-rate change, time error and alignment (R48, R81, R373, R417). -/
def upstreamSays (s : State) (l : Nat) (h : FrameHdr) : State :=
  let c := s.clocks
  let t : MT := ⟨h.rateTarget, 0⟩
  let isRate (x : Sched) : Bool := match x.act with
    | .baseRate _ => true
    | _ => false
  let armed := c.rateTarget
  let s : State := { s with clocks := { c with
    taiValid := h.taiValid, anchorMt := ⟨h.anchorMt, 0⟩, anchorTai := h.anchorTai, taiUtc := h.taiUtc } }
  let s := if h.rateTarget = 0 then
      (if armed.isSome then { schedDrop s isRate with clocks := { (schedDrop s isRate).clocks with rateTarget := none } } else s)
    else if armed = some t then s
    else
      let s := schedDrop s isRate
      let n := h.nextRate.toNat
      if inTime (now s) t && schedRoom s 1 then
        let s := schedAdd s t [.baseRate n]
        { s with clocks := { s.clocks with next := n, rateTarget := some t } }
      else s
  let e := countError s h.mtCount
  let th := upOffset s l
  let ns := e * 1000000000 / rateHz c.rate + th / 1000
  let s : State := { s with grove := { s.grove with timeErrNs := BitVec.ofInt 64 ns, countErr := e, aligned := none } }
  if timeFar s e th then
    if s.grove.stepFade.isSome then s
    else
      let s := fadeEndpoints s
      { s with grove := { s.grove with stepFade := some (now s).count.toNat, state := if s.grove.state = 1 then 2 else s.grove.state } }
  else if e = 0 ∧ th.natAbs < 1000000 then
    if s.grove.state = 1 ∨ s.grove.state = 2 then { s with grove := { s.grove with aligned := some h.epoch } }
    else if joined s l && !(link s l).joinDone then setLink s l { link s l with joinDone := true } else s
  else if s.grove.state = 1 then { s with grove := { s.grove with state := 2 } }
  else s

/-- What a member does with a header received on link `l`. No time and no claim comes over a link whose compatibility levels differ (R6,
R415). -/
def groveHears (s : State) (l : Nat) (h : FrameHdr) : State :=
  if !joined s l || decide (h.compat ≠ ownCompat s) then s
  else
    let s := hearClaims (claimHeard s l h)
    let s : State := if decide (h.claimHops = 0) && incumbent h.claim then { s with grove := { s.grove with rootEpoch := h.epoch } } else s
    let s := if s.grove.upstream = some l then upstreamSays s l h else s
    if decide (h.claimHops = 0) && incumbent h.claim then checkEpoch s else s

end Sys2Proof.Machine
end

