-- ==== Sys2Proof/Machine/Reach.lean ====
section
/-! DEFINITION. Link-state records and what a member's control core computes from them: the members it knows, the hops to them, and
the forwarding table of link hardware (R384, R405, R419, R428, R429). -/
namespace Sys2Proof.Machine

/-- The first octet of the model's own messages between members, which is no VERSION of R440: a link-state record, and an
announcement of an epoch, a member's report of a change, and the DWELL_S of a round trip. How each is laid out is the model's own; a
link-state record also carries the epoch tag (notes/assumptions/68). -/
def recordTag : Byte := 0xF0
def announceTag : Byte := 0xF1
def reportTag : Byte := 0xF2
def dwellTag : Byte := 0xF3

/-- The record that octets spell, under the model's own layout. -/
def recordOf (m : List Byte) (t : MT) : Nat × LsRecord :=
  let link (l : Nat) : LsLink :=
    let i := 10 + 7 * l
    ⟨beAt m i 2, beAt m (i + 2) 1, beAt m (i + 3) 2, beAt m (i + 5) 2⟩
  (beAt m 1 2, ⟨beAt m 3 2, BitVec.ofNat 8 (beAt m 5 1), BitVec.ofNat 32 (beAt m 6 4), (List.range 4).map link, beAt m 38 4, BitVec.ofNat 32 (beAt m 42 4), t⟩)

/-- Peers over the links that a member reports with a path UP. -/
def peersOf (s : State) (d : Nat) : List Nat :=
  match tget none s.grove.records d with
  | none => []
  | some r => (r.links.filter (fun l => decide (2 ≤ l.state) && decide (l.peer < 4096))).map LsLink.peer

/-- Hops from a set of devices to a device, each round one hop further; devices already seen are not visited again. -/
def hopsFrom (s : State) (d : Nat) : Nat → List Nat → List Nat → Option Nat
  | 0, _, _ => none
  | n + 1, seen, at' =>
    if at'.contains d then some 0
    else
      let next := ((at'.flatMap (peersOf s)).filter (fun x => !seen.contains x)).eraseDups
      if next.isEmpty then none else (hopsFrom s d n (seen ++ next) next).map (· + 1)

/-- The device at the other end of a link that carries management cells: a path UP, and the join done or held to management alone (R385,
R405, R415). -/
def neighbour (s : State) (l : Nat) : Option Nat :=
  if linkPasses s l && linkUp s l then some (link s l).peerDev.toNat else none

/-- The fewest hops to another device and the lowest link number that has them (R419); at most 62. -/
def routeTo (s : State) (d : Nat) : Option (Nat × Nat) :=
  let own := s.cfg.deviceNumber
  if d = own then none
  else (List.range 4).foldl (fun best l =>
    match (neighbour s l).bind (fun p => hopsFrom s d 62 [own, p] [p]) with
    | none => best
    | some h => match best with
      | some b => if h + 1 < b.1 then some (h + 1, l) else some b
      | none => some (h + 1, l)) none

/-- The other members that the records and this device's own links reach. -/
def members (s : State) : List Nat :=
  let all := ((List.range 4).filterMap (neighbour s) ++ s.grove.records.map (·.1)).eraseDups
  all.filter (fun d => (routeTo s d).isSome)

/-- The control core writes the forwarding table. -/
def writeTable (s : State) : State :=
  let t := (members s).foldl (fun t d => match routeTo s d with
    | some (_, l) => tset 0 t d (l + 1)
    | none => t) []
  { s with grove := { s.grove with fwd := t } }

/-- A record arrives, the Root's with the epoch and the tag that hold a member whose own differ (R416). One with this device's own number
tells of another member with it, which a member that has joined ignores (R405, step 4). -/
def noteRecord (s : State) (m : List Byte) : State :=
  let (d, r) := recordOf m (now s)
  if 4096 ≤ d ∨ alone s ∨ (d = s.cfg.deviceNumber ∧ joinedGrove s) then s
  else
    let s := writeTable { s with grove := { s.grove with records := tset none s.grove.records d (some r) } }
    if decide (s.grove.rootDevice.toNat ≠ d) then s
    else
      let s : State := { s with grove := { s.grove with rootEpoch := r.epoch } }
      if !joinedGrove s then s
      else
        let s := checkEpoch s
        if s.grove.tagDue then compareTag s r.tag else s

/-- An announced epoch is remembered, where it is still to come (R416). -/
def noteEpoch (s : State) (epoch : Long) (device : Nat) (target : BitVec 64) : State :=
  if inFuture (now s) ⟨target, 0⟩ then
    { s with grove := { s.grove with announced := s.grove.announced ++ [(epoch, 0, device, target)], changeReported := false, reportSent := false } }
  else s

/-- An announcement arrives from another member. -/
def noteAnnounce (s : State) (m : List Byte) : State :=
  let d := beAt m 5 2
  if !joinedGrove s || decide (d = s.cfg.deviceNumber) then s
  else noteEpoch s (BitVec.ofNat 32 (beAt m 1 4)) d (BitVec.ofNat 64 (beAt m 7 8))

/-- A member's report of a change arrives at the Root, which owes an announcement for it (R416). -/
def noteReport (s : State) : State := if s.grove.role = .root then { s with grove := { s.grove with changeReported := true } } else s

/-- DWELL_S of a round trip arrives from the Root that withholds (R414). -/
def noteDwell (s : State) (m : List Byte) : State := { s with grove := { s.grove with drillAsked := some (beAt m 1 2) } }

/-- No record of a member has arrived for 10 s (R429, step 1). -/
def recordAbsent (s : State) (d : Nat) : Bool :=
  match tget none s.grove.records d with
  | none => true
  | some r => decide (msUnits s 10000 ≤ mtDiff r.heardAt (now s))

end Sys2Proof.Machine
end

