-- ==== Sys2Proof/Machine/Groups.lean ====
section
/-! DEFINITION. Commit groups, local and grove-wide (R280 to R283, R302 to R308, R382, R383). -/
namespace Sys2Proof.Machine

/-- A write to an element of group `g`: groups 1 to 255 exist. -/
def groupCmd (s : State) (r : Req) (g role : Nat) (range : Bool) (body : State → Except Word State) : Outc :=
  ok (writeAt s r (decide (1 ≤ g) && decide (g ≤ 255)) { obj := 0x1300 + g, role := role, range := range } body)

/-- The group takes changes to what it names. -/
def groupOpen (x : Group) : Bool := decide (x.state = .empty) || decide (x.state = .opened)

/-- ADD_PAGE (R280). -/
def execAddPage (r : Req) (g : Nat) (page : Word) (s : State) : Outc :=
  let k := page.toNat
  groupCmd s r g operator (decide (k < 4096)) (fun s =>
    let x := group s g
    let q := Machine.page (eng s (k / 128)) (k % 128)
    if decide (q.group.toNat ≠ 0 ∧ q.group.toNat ≠ g) || decide (q.state = .bound) || decide (q.state = .gliding) then .error eConflict
    else if !groupOpen x then .error eState
    else
      let s := modPage s (k / 128) (k % 128) (fun q => { q with group := BitVec.ofNat 8 g })
      .ok (setGroup s g { x with state := .opened, pages := if x.pages.contains k then x.pages else x.pages ++ [k] }))

/-- REMOVE_PAGE (R280). -/
def execRemovePage (r : Req) (g : Nat) (page : Word) (s : State) : Outc :=
  let k := page.toNat
  groupCmd s r g operator (decide (k < 4096)) (fun s =>
    let x := group s g
    if !groupOpen x || !x.pages.contains k then .error eState
    else
      let s := modPage s (k / 128) (k % 128) (fun q => { q with group := 0 })
      .ok (setGroup s g { x with pages := x.pages.filter (fun j => decide (j ≠ k)) }))

/-- SCOPE: GROVE opens an EMPTY group (R280, R308). -/
def execScope (r : Req) (g : Nat) (v : Word) (s : State) : Outc :=
  groupCmd s r g engineer (decide (v.toNat ≤ 1)) (fun s =>
    let x := group s g
    if !groupOpen x then .error eState
    else .ok (setGroup s g { x with grove := decide (v = 1), state := if v = 1 then .opened else x.state }))

/-- ADD_MEMBER (R280, R308). -/
def execAddMember (r : Req) (g : Nat) (device : Word) (s : State) : Outc :=
  let d := device.toNat
  groupCmd s r g engineer (decide (d < 4096)) (fun s =>
    let x := group s g
    if !groupOpen x then .error eState
    else if x.members.contains d then .ok (setGroup s g { x with state := .opened })
    else if 256 ≤ x.members.length then .error eCapacity
    else .ok (setGroup s g { x with state := .opened, members := x.members ++ [d] }))

/-! ## Arming (R281, R302) -/

/-- The engines that the group names, by its pages and its bound grafts. -/
def groupEngines (x : Group) : List Nat :=
  (List.range 32).filter (fun n => x.pages.any (fun k => decide (k / 128 = n)) || x.grafts.contains n)

/-- A graft that is not the group's, armed for `t`, replaces page `k` of the device at `t`: one of an IDLE engine takes every page of
its image (R178, R475). -/
def graftChanges (s : State) (g : Nat) (t : MT) (k : Nat) : Bool :=
  let e := eng s (k / 128)
  match e.graft with
  | none => false
  | some a =>
    decide (a.group ≠ g) && decide (a.target = t) &&
      (if e.state = .idle then e.standby.pages.any (fun p => decide (p.1 = k % 128))
        else (replacedPages e.standby).any (fun p => decide (p.1 = k % 128)))

/-- Steps 1 to 5 of R281 for an arm with arrival stamp `u`; none = the group may be armed. -/
def armFailsAt (u : MT) (s : State) (g : Nat) (t : MT) : Option Word :=
  let x := group s g
  let es := groupEngines x
  if decide (x.state ≠ .opened) || x.pages.isEmpty || (x.grove && x.members.isEmpty) || dormant s then some eState
  else if !es.all (fun n => engBoundary s n t) then some eRange
  else if !inTime u t then some eLate
  else if x.pages.any (fun k => glidesPast s (k / 128) (k % 128) t) ||
      x.grafts.any (fun n => (replacedPages (eng s n).standby).any (fun p => glidesPast s n p.1 t)) ||
      x.pages.any (graftChanges s g t) || es.any (fun n => schedTaken s t (.commit g n)) then some eConflict
  else if !schedRoom s es.length then some eCapacity
  else none

/-- Steps 1 to 5 of R281 for an arm that arrives now. -/
def armFails (s : State) (g : Nat) (t : MT) : Option Word := armFailsAt (now s) s g t

/-- A page is armed: N and the form are taken; a levelling page is level at once (R281, R286). -/
def armPage (q : Page) : Page :=
  let q := if q.state = .levelling then levelled q else q
  { q with state := .armed, glideN := q.glideFrames.toNat, glideLong := decide (q.glideForm = 1) }

/-- The group is armed for `t` in state `st`: its pages, its bound grafts and one schedule entry per engine. -/
def armGroup (s : State) (g : Nat) (t : MT) (st : GroupState) : State :=
  let x := group s g
  let s := x.pages.foldl (fun s k => modPage s (k / 128) (k % 128) armPage) s
  let s := x.grafts.foldl (fun s n => modEng s n (fun e => { e with graft := e.graft.map (fun a => { a with target := t }) })) s
  let s := schedAdd s t ((groupEngines x).map (fun n => .commit g n))
  setGroup s g { x with state := st, target := some t, epoch := s.epoch }

/-- Hops to a member (R302): the fewest by the link-state records; to a device that they do not reach, free. -/
def hopsTo (s : State) (d : Nat) : Nat :=
  match routeTo s d with
  | some (h, _) => h
  | none => if d = s.cfg.deviceNumber then 0 else min 62 (max 1 (Config.routeHops d))

/-- The acknowledgement deadline A of an arm (R302). -/
def ackBy (s : State) (x : Group) (t : MT) : MT :=
  mtMinus t ((6 + x.members.foldl (fun m d => max m (hopsTo s d)) 0) * 65536)

/-- A coordinator's group is ARMED once every listed member has acknowledged (R304). -/
def ackDone (s : State) (g : Nat) : State :=
  let x := group s g
  if decide (x.state = .preparing) && x.members.all (fun d => x.acked.contains d) then setGroup s g { x with state := .armed } else s

/-- ARM (R281); of a GROVE group, its coordinator's (R302). -/
def execArm (r : Req) (g : Nat) (target : MT) (s : State) : Outc :=
  groupCmd s r g (if (group s g).grove then engineer else operator) true (fun s =>
    let x := group s g
    let a := ackBy s x target
    let late := x.grove && inFuture a (now s)
    if late then .error eLate
    else match armFails s g target with
      | some c => .error c
      | none =>
        if !x.grove then .ok (armGroup s g target .armed)
        else
          let me := s.cfg.deviceNumber
          let s := armGroup s g target .preparing
          let s := setGroup s g { group s g with
            coordinating := true, coordinator := some me, deadline := a
            acked := if x.members.contains me then [me] else [] }
          .ok (ackDone (originate s 3 true 0 (groupOctets g target ++ be 4 s.epoch.toNat)) g))

/-! ## Cancelling (R71, R281, R304, R382) -/

/-- The group is disarmed: pages and bound grafts wait again, the group is OPEN; `result` 2 by its host, 3 by its coordinator. -/
def disarm (s : State) (g result : Nat) : State :=
  let x := group s g
  let t := x.target.getD MT.zero
  let s := schedDrop s (fun y => match y.act with
    | .commit g' _ => decide (g' = g)
    | _ => false)
  let s := x.pages.foldl (fun s k => modPage s (k / 128) (k % 128) (fun q => { q with state := if q.dirty then .dirty else .clean })) s
  let s := x.grafts.foldl (fun s n => modEng s n (fun e => { e with graft := e.graft.map (fun a => { a with target := MT.zero, locked := false }) })) s
  let s := setGroup s g { x with
    state := .opened, target := none, lastResult := result, lastMt := t, acked := [], coordinating := false, coordinator := none }
  detect s 0x2020 g (BitVec.ofNat 32 result)

/-- A pending change of the group. -/
def groupArmed (x : Group) : Bool := decide (x.state = .preparing) || decide (x.state = .armed) || decide (x.state = .locked)

/-- CANCEL (R71, R281); a coordinator tells the members. -/
def execCancel (r : Req) (g : Nat) (v : Byte) (s : State) : Outc :=
  groupCmd s r g operator (decide (v.toNat ≤ 1)) (fun s =>
    let x := group s g
    let t := x.target.getD MT.zero
    if v = 0 then .ok s
    else if !groupArmed x then .error eState
    else if !inTime (now s) t then .error eLate
    else
      let s := disarm s g 2
      .ok (if x.coordinating then originate s 2 true 0 (groupOctets g t) else s))

/-- The coordinator cancels (R304): every member hears it, and the failing member and code are kept. -/
def coordinatorCancels (s : State) (g member : Nat) (code : Word) : State :=
  let t := (group s g).target.getD MT.zero
  let s := originate s 2 true 0 (groupOctets g t)
  let s := disarm s g 3
  setGroup s g { group s g with failMember := BitVec.ofNat 16 member, failCode := code }

/-- COMMIT_GROUP.RELEASE (R282, R308). -/
def execGroupRelease (r : Req) (g : Nat) (v : Byte) (s : State) : Outc :=
  groupCmd s r g operator (decide (v.toNat ≤ 1)) (fun s =>
    let x := group s g
    if v = 0 then .ok s
    else if groupArmed x then .error eState
    else
      let s := x.grafts.foldl cancelGraft s
      let s := x.pages.foldl (fun s k => modPage s (k / 128) (k % 128) (fun q => { q with group := 0 })) s
      .ok (setGroup s g (groupEmpty x)))

/-! ## Grove-wide commits at the members (R303 to R305) -/

/-- A delivered cell of this kind, source, group and target. -/
def sameCell (kind : Byte) (src : BitVec 12) (g : Nat) (t : MT) (c : Cell) : Bool :=
  decide (c.kind = kind) && decide (c.src = src.setWidth 16) && decide (c.payload.take 11 = groupOctets g t)

/-- The arrival stamp of a delivered cell (R383). -/
def cellArrival (s : State) (kind : Byte) (src : BitVec 12) (g : Nat) (t : MT) : MT :=
  ((s.grove.delivered.find? (fun x => sameCell kind src g t x.1)).map (·.2)).getD (now s)

/-- A delivered cell has been decoded. -/
def decoded (s : State) (kind : Byte) (src : BitVec 12) (g : Nat) (t : MT) : State :=
  { s with grove := { s.grove with delivered := s.grove.delivered.filter (fun x => !sameCell kind src g t x.1) } }

/-- A CANCEL of the same coordinator and target, with the arm's own stamp, applies last (R72). -/
def cancelLast (s : State) (g who : Nat) (t u : MT) : State :=
  if (group s g).cancelled = some (who, t, u) then disarm s g 3 else s

/-- PREPARE: an arm of the group at the cell's arrival stamp, acknowledged to its coordinator; a second copy is ignored (R303). -/
def execPrepare (src : BitVec 12) (_msgId : Word) (g : Nat) (target : MT) (epoch : Long) (s : State) : Outc :=
  let u := cellArrival s 3 src g target
  let s := decoded s 3 src g target
  let x := group s g
  let me := s.cfg.deviceNumber
  let who := src.toNat
  if !coreUp s || decide (g = 0) || decide (255 < g) || !x.grove || !x.members.contains who || decide (who = me) || x.prepares.contains (who, target) then ok s
  else
    let code := if x.state ≠ .opened then eState else if s.epoch ≠ epoch then eEpoch else (armFailsAt u s g target).getD eOK
    let s := setGroup s g { x with prepares := x.prepares ++ [(who, target)] }
    let s := if code = eOK then
        let s := armGroup s g target .armed
        cancelLast (setGroup s g { group s g with coordinator := some who }) g who target u
      else s
    ok (originate s 4 false who (groupOctets g target ++ be 2 code.toNat))

/-- PREP_ACK: the coordinator counts the members it lists, by A, and cancels on a failing code (R303, R304). -/
def execPrepAck (src : BitVec 12) (g : Nat) (target : MT) (code : Word) (s : State) : Outc :=
  let u := cellArrival s 4 src g target
  let s := decoded s 4 src g target
  let x := group s g
  let who := src.toNat
  if !coreUp s || !x.coordinating || decide (x.state ≠ .preparing) || decide (x.target ≠ some target) || !x.members.contains who || inFuture x.deadline u then ok s
  else if code = eOK then ok (ackDone (setGroup s g { x with acked := if x.acked.contains who then x.acked else x.acked ++ [who] }) g)
  else ok (coordinatorCancels s g who code)

/-- The code that ACK_DEADLINE leaves in FAIL_CODE: the spec does not give it; it is one of the error codes of R463. -/
def missedCode (k : Nat) : Word := BitVec.ofNat 16 (1 + (Config.freeWord k).toNat % 18)

/-- ACK_DEADLINE: at A an acknowledgement is missing (R304). -/
def execAckDeadline (g : Nat) (s : State) : Outc :=
  let x := group s g
  if !x.coordinating || decide (x.state ≠ .preparing) || !isDue (now s) x.deadline then ok s
  else match x.members.find? (fun d => !x.acked.contains d) with
    | none => ok (ackDone s g)
    | some d =>
      let (k, s) := draw s
      ok (coordinatorCancels s g d (missedCode k))

end Sys2Proof.Machine
end

