-- ==== Sys2Proof/Machine/PortActs.lean ====
section
/-! DEFINITION. Port actions and their zero crossings (R336 to R340). -/
namespace Sys2Proof.Machine

/-- The REQUEST element's object of a port. -/
def portReqObj (p : Nat) : Nat := portObj p + (if p < 16 then 2 else 4)

/-- Step 1 of R336 for DIR, FIRST, COUNT and TARGET. -/
def portRange (s : State) (p : Nat) (dir first count : Byte) (target : MT) : Bool :=
  decide (dir.toNat ≤ 1) && decide (1 ≤ count.toNat) && decide (first.toNat + count.toNat ≤ portChans s p) && isPeriod target

/-- A port action request that arms `op` (R336). -/
def portArm (s : State) (r : Req) (p op : Nat) (dir first count : Byte) (gain : Word) (target : MT) : Outc :=
  let out := decide (dir = 1)
  let act : SchedAct := .port p out op gain first.toNat count.toNat
  ok (writeCmd s r { obj := portReqObj p, role := operator } (fun s =>
    if !portRange s p dir first count target || (decide (op ≠ 5) && decide (gain ≠ 0)) then .error eRange
    else if !inTime (now s) target then .error eLate
    else if dormant s then .error eState
    else if schedTaken s target act then .error eConflict
    else if !schedRoom s 1 then .error eCapacity
    else .ok (schedAdd s target [act])))

def execPortStart (r : Req) (port : Fin 24) (dir first count : Byte) (gain : Word) (target : MT) (s : State) : Outc :=
  portArm s r port.val 1 dir first count gain target
def execPortStop (r : Req) (port : Fin 24) (dir first count : Byte) (gain : Word) (target : MT) (s : State) : Outc :=
  portArm s r port.val 2 dir first count gain target
def execMute (r : Req) (port : Fin 24) (dir first count : Byte) (gain : Word) (target : MT) (s : State) : Outc :=
  portArm s r port.val 3 dir first count gain target
def execUnmute (r : Req) (port : Fin 24) (dir first count : Byte) (gain : Word) (target : MT) (s : State) : Outc :=
  portArm s r port.val 4 dir first count gain target
def execGain (r : Req) (port : Fin 24) (dir first count : Byte) (gain : Word) (target : MT) (s : State) : Outc :=
  portArm s r port.val 5 dir first count gain target

/-- An action cancelled after it had begun on a channel ahead of its target leaves the channel if it still waits (R71, R358). DESIGN CHOICE
(notes/assumptions/145): a change already made stays. -/
def cancelBegun (target : MT) (c : Chan) : Chan :=
  match c.begun.find? (fun x => decide (x.1 = target)) with
  | none => c
  | some x =>
    let acts := match c.acts.reverse with
      | a :: l => if a.op = x.2 ∧ !a.forced then l.reverse else c.acts
      | [] => []
    { c with begun := c.begun.erase x, acts := acts }

/-- CANCEL: the armed action with exactly these DIR, FIRST, COUNT and TARGET (R336). -/
def execPortCancel (r : Req) (port : Fin 24) (dir first count : Byte) (gain : Word) (target : MT) (s : State) : Outc :=
  let p := port.val
  let hit (x : Sched) : Bool := decide (x.target = target) && (match x.act with
    | .port p' o _ _ f n => decide (p' = p) && decide (o = decide (dir = 1)) && decide (f = first.toNat) && decide (n = count.toNat)
    | _ => false)
  ok (writeCmd s r { obj := portReqObj p, role := operator } (fun s =>
    if !portRange s p dir first count target || decide (gain ≠ 0) then .error eRange
    else if !inTime (now s) target then .error eLate
    else if !s.clocks.sched.any hit then .error eState
    else
      let s := schedDrop s hit
      .ok (setPort s p ((List.range count.toNat).foldl (fun q i =>
        let ch := first.toNat + i
        setChan q (decide (dir = 1)) ch (cancelBegun target (chan q (decide (dir = 1)) ch))) (Machine.port s p)))))

/-- A channel of a port with its ramp length, time and timeout. -/
def modChan (s : State) (p : Nat) (out : Bool) (ch : Nat) (f : Nat → MT → Nat → Chan → Chan) : State :=
  setPort s p (setChan (port s p) out ch (f (rampLen s p) (now s) (portCfg s p).zcTimeoutMs.toNat (chan (port s p) out ch)))

/-- The channel's latest sample is one of its wait and meets the condition of R337. -/
def crossed (c : Chan) : Bool :=
  waiting c && zeroCross c.prev c.last && (match c.lastAt, c.acts with
    | some t, a :: _ => isDue t a.since
    | _, _ => false)

/-- ZERO_CROSSING: the waiting action applies from the sample on that meets R337. A sample that passes the channel applies it by itself
(chanSample); this command finds one that came with its target. -/
def execZeroCrossing (port : Fin 24) (out : Bool) (ch : Fin 32) (s : State) : Outc :=
  if crossed (chan (Machine.port s port.val) out ch.val) then ok (modChan s port.val out ch.val chanApply) else ok s

/-- The channel's wait has lasted its ZC_TIMEOUT_MS. -/
def waitOver (s : State) (c : Chan) : Bool :=
  waiting c && (match c.acts with
    | a :: _ => isDue (now s) (mtPlus a.since (msUnits s a.limitMs))
    | [] => false)

/-- The timeout of a wait: TIMEOUT_COUNT, its record, and the ramp (R338). -/
def zcOut (s : State) (p : Nat) (out : Bool) (ch : Nat) (inj : Bool) : State :=
  let s := modChan s p out ch chanTimeout
  let s := setPort s p { port s p with timeouts := satInc31 (port s p).timeouts }
  detectAs s 0x4009 p (BitVec.ofNat 32 ch) inj

/-- ZC_TIMEOUT. -/
def execZcTimeout (port : Fin 24) (out : Bool) (ch : Fin 32) (s : State) : Outc :=
  if waitOver s (chan (Machine.port s port.val) out ch.val) then ok (zcOut s port.val out ch.val false) else ok s

/-- PORT_RAMP_END: a ramp that has run its R samples ends (R338, R339). -/
def execPortRampEnd (port : Fin 24) (out : Bool) (ch : Fin 32) (s : State) : Outc :=
  if rampDone (chan (Machine.port s port.val) out ch.val) then ok (modChan s port.val out ch.val chanRampEnd) else ok s

end Sys2Proof.Machine
end

