-- ==== Sys2Proof/Machine/Blocks.lean ====
section
/-! DEFINITION. The blocks of a path: 64b/66b coding, the scrambler, and a frame as it stands on the wire (R368 to R376, R381, R386, R398). -/
namespace Sys2Proof.Machine

/-! ## Blocks (R368) -/

/-- A block before scrambling: its sync header and its 64 bits, the first octet most significant. -/
structure Block where
  sync : BitVec 2
  bits : BitVec 64
  deriving DecidableEq, Repr

def dataSync : BitVec 2 := 1#2
def controlSync : BitVec 2 := 2#2

/-- The control types: SOF, IDLE and TRAIN. -/
def controlTypes : List Byte := [0x4B, 0x1E, 0x33]

/-- A sync header that marks a data or a control block. -/
def syncGood (sync : BitVec 2) : Bool := decide (sync = dataSync) || decide (sync = controlSync)

/-- An invalid block, of its sync header and first octet. -/
def blockBad (sync : BitVec 2) (first : Byte) : Bool :=
  !syncGood sync || (decide (sync = controlSync) && !controlTypes.contains first)

def dataBlock (v : BitVec 64) : Block := ⟨dataSync, v⟩
def idleBlock : Block := ⟨controlSync, 0x1E#8 ++ 0#56⟩

/-- Bits through the self-synchronising scrambler x⁵⁸ + x³⁹ + 1: bit i of `st` is the scrambled bit sent i + 1 bits before. The order in
which the 64 bits of a block pass it is the caller's: most significant first, DEDUCED (notes/assumptions/146). -/
def scramble (st : BitVec 58) : List Bool → List Bool
  | [] => []
  | d :: l =>
    let b := (d != st.getLsbD 38) != st.getLsbD 57
    b :: scramble ((st <<< 1) ||| BitVec.ofNat 58 (bitOf b)) l

/-- The descrambler: it keeps the bits received. -/
def descramble (st : BitVec 58) : List Bool → List Bool
  | [] => []
  | r :: l => ((r != st.getLsbD 38) != st.getLsbD 57) :: descramble ((st <<< 1) ||| BitVec.ofNat 58 (bitOf r)) l

/-- The bits of a block's 64, most significant first. -/
def blockBits (v : BitVec 64) : List Bool := (List.range 64).map (fun i => v.getLsbD (63 - i))

/-! ## A frame on the wire (R369 to R376, R381, R386) -/

/-- Eight octets as a block, the first most significant. -/
def octetsBlock (l : List Byte) (k : Nat) : BitVec 64 := BitVec.ofNat 64 (beAt l (8 * k) 8)

/-- The SOF block (R370). -/
def sofBlock (h : FrameHdr) (pathB : Bool) : Block :=
  ⟨controlSync, 0x4B#8 ++ 0x01#8 ++ h.mtCount.extractLsb' 0 16 ++ h.device ++ h.link ++ BitVec.ofBool pathB ++ BitVec.ofBool h.low ++ 0#16⟩

/-- The eight header blocks (R373). -/
def headerBlocks (h : FrameHdr) : List (BitVec 64) :=
  [h.compat ++ BitVec.ofBool h.hold ++ BitVec.ofBool h.joined ++ 0#6 ++ 0#16 ++ h.epoch,
   h.mtCount,
   h.claim ++ h.claimHops ++ 0#24,
   h.residual ++ h.arrival,
   h.anchorMt,
   h.anchorTai,
   BitVec.ofBool h.taiValid ++ 0#15 ++ h.taiUtc ++ h.nextRate ++ 0#30,
   h.rateTarget]

/-- A cell's 64 octets (R381). -/
def cellOctets (c : Cell) : List Byte :=
  [c.kind, c.flags, c.hops, c.reserved] ++ be 2 c.dest.toNat ++ be 2 c.src.toNat ++ be 2 c.msgId.toNat ++ be 2 c.frag.toNat ++
    (c.payload ++ List.replicate 52 0).take 52

/-- The management area: 16 cells, KIND 0 in those that carry nothing. -/
def cellBlocks (l : List Cell) : List (BitVec 64) :=
  let o := (l.flatMap cellOctets ++ List.replicate 1024 0).take 1024
  (List.range 128).map (octetsBlock o)

/-- The bulk area: the unit header and up to 3,800 octets (R386). -/
def bulkBlocks (u : BulkUnit) : List (BitVec 64) :=
  let o := (u.payload ++ List.replicate 3800 0).take 3800
  (u.seq ++ u.channel ++ BitVec.ofNat 12 u.payload.length ++ BitVec.ofBool u.last ++ 0#11 ++ u.ack) :: (List.range 475).map (octetsBlock o)

/-- Validity bits and samples of the slots (R374 to R376): a slot that nothing fills carries 0 with validity 0. -/
def slotTable (l : List LinkSlot) : Tbl (Long × Bool) := l.foldl (fun t x => tput t x.slot (x.sample, x.valid)) []
def validBlocks (t : Tbl (Long × Bool)) : List (BitVec 64) :=
  (List.range 96).map (fun k => BitVec.ofNat 64 ((List.range 64).foldl (fun n i => 2 * n + bitOf (tget (0, false) t (64 * k + i)).2) 0))
def audioBlocks (t : Tbl (Long × Bool)) : List (BitVec 64) :=
  (List.range 3072).map (fun k => (tget (0, false) t (2 * k)).1 ++ (tget (0, false) t (2 * k + 1)).1)

/-- The content blocks of a frame (R372), and of one at low rate (R398). -/
def contentBlocks (f : TxFrame) : List (BitVec 64) :=
  let t := slotTable f.slots
  if f.hdr.low then headerBlocks f.hdr ++ List.replicate 96 0 ++ cellBlocks f.cells ++ List.replicate 20 0
  else headerBlocks f.hdr ++ validBlocks t ++ cellBlocks f.cells ++ bulkBlocks f.bulk ++ audioBlocks t

/-- The check block of segment `j` (R371). -/
def checkBlock (frame : BitVec 64) (j : Nat) (content : List (BitVec 64)) : BitVec 64 :=
  crc32c (content.flatMap (fun v => be 8 v.toNat)) ++ frame.extractLsb' 0 12 ++ BitVec.ofNat 6 j ++ 0#14

/-- A frame on a path, block by block, up to its IDLE blocks (R369, R371). -/
def frameBlocks (f : TxFrame) (pathB : Bool) : List Block :=
  let c := contentBlocks f
  sofBlock f.hdr pathB :: (List.range (c.length / 63)).flatMap (fun j =>
    let x := (c.drop (63 * j)).take 63
    (x ++ [checkBlock f.hdr.mtCount j x]).map dataBlock)

/-- IDLE blocks after a frame whose first bit went out `residual` ps after the start of its base period (with Δ), up to the first block
position at or after the next one's, at nominal clocks (R369, R372). -/
def idleCount (rate : Nat) (low : Bool) (residual : Nat) : Nat :=
  let block := (if low then 52800 else 5280) * rate
  (1000000000000 - residual * rate + (block - 1)) / block - (if low then 257 else 3841)

/-- Everything that a path sends in one base period (R369). -/
def periodBlocks (rate : Nat) (f : TxFrame) (pathB : Bool) : List Block :=
  frameBlocks f pathB ++ List.replicate (idleCount rate f.hdr.low f.hdr.residual.toNat) idleBlock

end Sys2Proof.Machine
end

