-- ==== Sys2Proof/Machine/Record.lean ====
section
/-! DEFINITION. The configuration record of a member (R428) in the model's own layout: the spec says what it holds, not how. Every number
takes 24 octets; key sets and program images follow as octets. -/
namespace Sys2Proof.Machine

/-- A configuration record: device number, CONFIG_EPOCH and epoch tag, every persistent object, ENGINE leases, the key sets as the crypto
unit wrapped them, and the images of the configuration store by engine. -/
structure Record where
  device : Nat := 0
  epoch : Long := 0
  tag : Long := 0
  cfg : Persist := {}
  routes : Tbl Route := []
  leases : List (Nat × Nat) := []
  keys : List Byte := []
  images : Tbl (List Byte) := []
  deriving DecidableEq, Repr

def flagAt (l : List Nat) (i : Nat) : Bool := decide (l.getD i 0 = 1)

/-! ## Structures as numbers -/

/-- The clock settings as numbers, field by field, and back. -/
def clockCfgNums (c : ClockCfg) : List Nat :=
  [c.requalMs.toNat, bitOf c.revert, c.wckMult, c.wckOffset.toNat, c.vidRate, c.vidLines.toNat, c.vidOffset.toNat, c.ppsEdge,
    c.ppsOffset.toNat, c.todBaud, c.darsMult, c.darsOffset.toNat, c.bufTarget.toNat, c.bandwidth, c.pull, c.slewPpm.toNat,
    c.holdAvgS.toNat, c.ecpllMode, c.wckMode, c.wckDuty, c.syncMode, c.ppsMode] ++
    (List.range 8).map (fun k => (tget 0 c.entries k).toNat) ++
    (List.range 4).map (fun k => tget 0 c.mclkOut k)

def clockCfgOf (l : List Nat) : ClockCfg where
  requalMs := BitVec.ofNat 16 (l.getD 0 0)
  revert := flagAt l 1
  wckMult := l.getD 2 0
  wckOffset := BitVec.ofNat 32 (l.getD 3 0)
  vidRate := l.getD 4 0
  vidLines := BitVec.ofNat 16 (l.getD 5 0)
  vidOffset := BitVec.ofNat 32 (l.getD 6 0)
  ppsEdge := l.getD 7 0
  ppsOffset := BitVec.ofNat 32 (l.getD 8 0)
  todBaud := l.getD 9 0
  darsMult := l.getD 10 0
  darsOffset := BitVec.ofNat 32 (l.getD 11 0)
  bufTarget := BitVec.ofNat 16 (l.getD 12 0)
  bandwidth := l.getD 13 0
  pull := l.getD 14 0
  slewPpm := BitVec.ofNat 16 (l.getD 15 0)
  holdAvgS := BitVec.ofNat 16 (l.getD 16 0)
  ecpllMode := l.getD 17 0
  wckMode := l.getD 18 0
  wckDuty := l.getD 19 0
  syncMode := l.getD 20 0
  ppsMode := l.getD 21 0
  entries := tsetRun 0 [] 0 ((List.range 8).map (fun k => BitVec.ofNat 16 (l.getD (22 + k) 0)))
  mclkOut := tsetRun 0 [] 0 ((List.range 4).map (fun k => l.getD (30 + k) 0))

/-- The settings of a port as numbers, field by field, and back. -/
def portCfgNums (c : PortCfg) : List Nat :=
  [bitOf c.enable, c.format, c.slots, c.slotWidth, c.dataWidth, c.rate, c.nominalHz.toNat, c.bclkDir, c.fsDir, c.bclkEdge,
    c.fsPol, c.dataDelay, c.fsWidth, c.unused, c.txRound, c.fillSet, c.group, c.directions, c.txClock, c.rxWord, c.txWord,
    c.vMode, c.txCsCrcc, c.zcTimeoutMs.toNat, c.startMutedIn.toNat, c.startMutedOut.toNat, c.capRing.toNat, c.capForm,
    c.capMask.toNat, c.txCsA.toNat, c.txCsB.toNat, c.txUA.toNat, c.txUB.toNat]

def portCfgOf (l : List Nat) : PortCfg where
  enable := flagAt l 0
  format := l.getD 1 0
  slots := l.getD 2 0
  slotWidth := l.getD 3 0
  dataWidth := l.getD 4 0
  rate := l.getD 5 0
  nominalHz := BitVec.ofNat 32 (l.getD 6 0)
  bclkDir := l.getD 7 0
  fsDir := l.getD 8 0
  bclkEdge := l.getD 9 0
  fsPol := l.getD 10 0
  dataDelay := l.getD 11 0
  fsWidth := l.getD 12 0
  unused := l.getD 13 0
  txRound := l.getD 14 0
  fillSet := l.getD 15 0
  group := l.getD 16 0
  directions := l.getD 17 0
  txClock := l.getD 18 0
  rxWord := l.getD 19 0
  txWord := l.getD 20 0
  vMode := l.getD 21 0
  txCsCrcc := l.getD 22 0
  zcTimeoutMs := BitVec.ofNat 16 (l.getD 23 0)
  startMutedIn := BitVec.ofNat 32 (l.getD 24 0)
  startMutedOut := BitVec.ofNat 32 (l.getD 25 0)
  capRing := BitVec.ofNat 8 (l.getD 26 0)
  capForm := l.getD 27 0
  capMask := BitVec.ofNat 32 (l.getD 28 0)
  txCsA := BitVec.ofNat 192 (l.getD 29 0)
  txCsB := BitVec.ofNat 192 (l.getD 30 0)
  txUA := BitVec.ofNat 192 (l.getD 31 0)
  txUB := BitVec.ofNat 192 (l.getD 32 0)

/-- The settings of a rate bridge as numbers, field by field, and back. -/
def rbCfgNums (c : RbCfg) : List Nat :=
  [bitOf c.enable, c.split, c.inPort.toNat, c.inFirst, c.inClass, c.outPort.toNat, c.outFirst, c.outClass, c.trackBw]

def rbCfgOf (l : List Nat) : RbCfg where
  enable := flagAt l 0
  split := l.getD 1 0
  inPort := BitVec.ofNat 8 (l.getD 2 0)
  inFirst := l.getD 3 0
  inClass := l.getD 4 0
  outPort := BitVec.ofNat 8 (l.getD 5 0)
  outFirst := l.getD 6 0
  outClass := l.getD 7 0
  trackBw := l.getD 8 0

/-- The settings of a link as numbers, field by field, and back. -/
def linkCfgNums (c : LinkCfg) : List Nat :=
  [bitOf c.enable, c.paths, c.asymPs.toNat, c.txPre, c.txPost, c.txSwing]

def linkCfgOf (l : List Nat) : LinkCfg where
  enable := flagAt l 0
  paths := l.getD 1 0
  asymPs := BitVec.ofNat 32 (l.getD 2 0)
  txPre := l.getD 3 0
  txPost := l.getD 4 0
  txSwing := l.getD 5 0

/-- A source definition as numbers, field by field, and back. -/
def sourceDefNums (c : SourceDef) : List Nat :=
  [c.cls, c.channels, c.latency, c.margin, bitOf c.protect, c.source.toNat]

def sourceDefOf (l : List Nat) : SourceDef where
  cls := l.getD 0 0
  channels := l.getD 1 0
  latency := l.getD 2 0
  margin := l.getD 3 0
  protect := flagAt l 4
  source := BitVec.ofNat 32 (l.getD 5 0)

/-- The management settings as numbers, field by field, and back. -/
def mgmtCfgNums (c : MgmtCfg) : List Nat :=
  [c.idleS.toNat, bitOf c.netEnable, c.address.toNat, c.mask.toNat, c.gateway.toNat, c.udpPort.toNat, bitOf c.hqEnable]

def mgmtCfgOf (l : List Nat) : MgmtCfg where
  idleS := BitVec.ofNat 16 (l.getD 0 0)
  netEnable := flagAt l 1
  address := BitVec.ofNat 32 (l.getD 2 0)
  mask := BitVec.ofNat 32 (l.getD 3 0)
  gateway := BitVec.ofNat 32 (l.getD 4 0)
  udpPort := BitVec.ofNat 16 (l.getD 5 0)
  hqEnable := flagAt l 6

/-- The settings of power, firmware and debug as numbers, field by field, and back. -/
def powerCfgNums (c : PowerCfg) : List Nat :=
  [c.wakeGpio.toNat, c.wakeEdge, c.trialS.toNat, bitOf c.debugPermit]

def powerCfgOf (l : List Nat) : PowerCfg where
  wakeGpio := BitVec.ofNat 8 (l.getD 0 0)
  wakeEdge := l.getD 1 0
  trialS := BitVec.ofNat 16 (l.getD 2 0)
  debugPermit := flagAt l 3

/-- What a stored route keeps (R33). -/
def routeNums (r : Route) : List Nat := [r.source.toNat, r.dest.toNat, r.channels, r.cls]

def routeOf (l : List Nat) : Route :=
  { state := .active, source := BitVec.ofNat 32 (l.getD 0 0), dest := BitVec.ofNat 32 (l.getD 1 0), channels := l.getD 2 0, cls := l.getD 3 0 }

/-- A table: how many entries, then each key with its `f`. -/
def tblNums {α : Type} (f : α → List Nat) (t : Tbl α) : List Nat := t.length :: t.flatMap (fun kv => kv.1 :: f kv.2)

/-- `n` entries of `w` numbers each after their keys. -/
def entriesOf {α : Type} (w : Nat) (f : List Nat → α) : Nat → List Nat → Tbl α
  | 0, _ => []
  | _, [] => []
  | n + 1, k :: l => (k, f (l.take w)) :: entriesOf w f n (l.drop w)

/-- A table read back, and the numbers after it. -/
def tblOf {α : Type} (w : Nat) (f : List Nat → α) (l : List Nat) : Tbl α × List Nat :=
  let t := entriesOf w f (l.headD 0) (l.drop 1)
  (t, l.drop (1 + t.length * (w + 1)))

def one (l : List Nat) : Nat := l.getD 0 0

/-! ## The record as numbers -/

/-- The values that stand alone: 53 numbers. -/
def headNums (r : Record) : List Nat :=
  let c := r.cfg
  [r.device, r.epoch.toNat, r.tag.toNat, c.priority] ++ clockCfgNums c.clocks ++ mgmtCfgNums c.mgmt ++ powerCfgNums c.power ++
    [c.groveId.toNat, c.deviceNumber, bitOf c.patrolOn, c.patrolHours.toNat]

def recordNums (r : Record) : List Nat :=
  let c := r.cfg
  headNums r ++ tblNums (fun v => [v]) c.engClass ++ tblNums (fun v => [v]) c.engPolicy ++ tblNums portCfgNums c.ports ++
    tblNums rbCfgNums c.bridges ++ tblNums linkCfgNums c.links ++ tblNums sourceDefNums c.sources ++
    tblNums (fun (v : Long × Long) => [v.1.toNat, v.2.toNat]) c.subs ++ tblNums routeNums r.routes ++ tblNums (fun v => [v]) r.leases

def recordNumsOf (l : List Nat) : Record :=
  let rest := l.drop 53
  let (engClass, rest) := tblOf 1 one rest
  let (engPolicy, rest) := tblOf 1 one rest
  let (ports, rest) := tblOf 33 portCfgOf rest
  let (bridges, rest) := tblOf 9 rbCfgOf rest
  let (links, rest) := tblOf 6 linkCfgOf rest
  let (sources, rest) := tblOf 6 sourceDefOf rest
  let (subs, rest) := tblOf 2 (fun v => (BitVec.ofNat 32 (v.getD 0 0), BitVec.ofNat 32 (v.getD 1 0))) rest
  let (routes, rest) := tblOf 4 routeOf rest
  let (leases, _) := tblOf 1 one rest
  { device := l.getD 0 0, epoch := BitVec.ofNat 32 (l.getD 1 0), tag := BitVec.ofNat 32 (l.getD 2 0), routes := routes, leases := leases
    cfg := {
      priority := l.getD 3 0, clocks := clockCfgOf ((l.drop 4).take 34), mgmt := mgmtCfgOf ((l.drop 38).take 7)
      power := powerCfgOf ((l.drop 45).take 4), groveId := BitVec.ofNat 32 (l.getD 49 0), deviceNumber := l.getD 50 0
      patrolOn := flagAt l 51, patrolHours := BitVec.ofNat 16 (l.getD 52 0)
      engClass := engClass, engPolicy := engPolicy, ports := ports, bridges := bridges, links := links, sources := sources, subs := subs } }

/-! ## The record as octets -/

def numsOf : Nat → List Byte → List Nat
  | 0, _ => []
  | _, [] => []
  | n + 1, m => beNat (m.take 24) :: numsOf n (m.drop 24)

/-- Octet strings under a key of one octet, each with its length. -/
def stringsOctets (t : Tbl (List Byte)) : List Byte := t.flatMap (fun kv => be 1 kv.1 ++ be 4 kv.2.length ++ kv.2)

def stringsOf : Nat → List Byte → Tbl (List Byte)
  | 0, _ => []
  | _, [] => []
  | n + 1, k :: m =>
    let w := beAt m 0 4
    (k.toNat, (m.drop 4).take w) :: stringsOf n (m.drop (4 + w))

def recordOctets (r : Record) : List Byte :=
  let ns := recordNums r
  be 4 ns.length ++ ns.flatMap (be 24) ++ be 4 r.keys.length ++ r.keys ++ stringsOctets r.images

def recordFrom (m : List Byte) : Record :=
  let n := beAt m 0 4
  let ns := numsOf n (m.drop 4)
  let m := m.drop (4 + 24 * ns.length)
  let w := beAt m 0 4
  { recordNumsOf ns with keys := (m.drop 4).take w, images := stringsOf 32 (m.drop (4 + w)) }

end Sys2Proof.Machine
end

