-- ==== Sys2Proof/Machine/LinkFrames.lean ====
section
/-! DEFINITION. Frames of a link: composing and receiving them, cells, slots, bulk units and delay measurement (R369 to R387, R391
to R398, R409, R449). -/
namespace Sys2Proof.Machine

/-! ## Sending (R369 to R378, R384, R386, R387) -/

/-- The 16 cells of a frame: by priority, within each in queue order; and those that stay. -/
def takeCells (q : List (Nat × Cell)) : List (Nat × Cell) × List (Nat × Cell) :=
  let l := [1, 2, 3, 4].flatMap (fun p => q.filter (fun x => decide (x.1 = p)))
  let sent := l.take 16
  (sent, sent.foldl List.erase q)

/-- No bulk unit in this frame. -/
def noUnit (ack : Word) : BulkUnit := ⟨0, 0, false, ack, []⟩

/-- The fade or ramp of the slot that carries sample `j` of the `m` of a channel's base period, at that sample of the coming frame (R123). -/
def slotStep (m j : Nat) (f : Option Fader) : Option Fader := f.map (fun f => faderBy f (if f.done = 0 then j + 1 else m))

/-- A ramp that has reached full gain is over. -/
def fadeKept (f : Option Fader) : Option Fader := f.filter (fun f => !(f.up && decide (f.len ≤ f.done)))

/-- One outbound slot of the frame: what the router delivered, or in an ECLK gap the values of R123 with validity 0 (R392). -/
def frameSlot (s : State) (l slot : Nat) : LinkSlot × EndPoint :=
  let k := link s l
  let (m, j) := slotPos s k.txMap slot
  let x := tget {} k.txEnds slot
  let f := slotStep m j x.starve
  let g := gainOf f
  let v := tget (0, false) k.tx slot
  (if s.clocks.gateOpen then ⟨slot, scale v.1 g.1 g.2, v.2⟩ else ⟨slot, scale x.last g.1 g.2, false⟩, { x with starve := fadeKept f })

/-- The outbound slots of the frame, and the endpoints after it. -/
def frameSlots (s : State) (l : Nat) : List LinkSlot × Tbl EndPoint :=
  (link s l).txMap.foldl (fun r kv =>
    let (v, x) := frameSlot s l kv.1
    (r.1 ++ [v], tput r.2 kv.1 x)) ([], (link s l).txEnds)

/-- The header of the coming frame on a link, with a path's RESIDUAL and ARRIVAL (R370, R373). -/
def frameHdr (s : State) (l : Nat) (low : Bool) (residual arrival : Long) : FrameHdr :=
  let c := s.clocks
  let (claim, hops) := sentClaim s l
  { device := BitVec.ofNat 12 s.cfg.deviceNumber, link := BitVec.ofNat 2 l, low := low, compat := ownCompat s
    hold := !c.gateOpen, joined := joinedGrove s, epoch := s.epoch, mtCount := c.mt.count
    claim := claim, claimHops := hops, residual := residual, arrival := arrival
    anchorMt := c.anchorMt.count, anchorTai := c.anchorTai, taiValid := c.taiValid, taiUtc := c.taiUtc
    nextRate := BitVec.ofNat 2 c.next, rateTarget := match c.rateTarget with
      | some t => t.count
      | none => 0 }

/-- The link's content for this base period: composed once, and the same on both paths; a link with no path UP keeps its cells and units. -/
def composeFrame (s : State) (l : Nat) (low : Bool) : State :=
  let s := groveOut s
  let k := link s l
  let up := linkUp s l
  let (cells, rest) := if up then takeCells k.outCells else ([], k.outCells)
  let unit := match k.bulkOut with
    | u :: _ => if up && !low && decide ((u.seq - k.bulkAck).toNat ≤ 16) then some u else none
    | [] => none
  let (slots, ends) := frameSlots s l
  let f : TxFrame := {
    hdr := frameHdr s l low 0 0x80000000, cells := cells.map (·.2)
    bulk := match unit with
      | some u => { u with ack := k.bulkRx }
      | none => noUnit k.bulkRx
    slots := if low || !levelEqual s l then [] else slots }
  let s := setLink s l { k with outCells := rest, bulkOut := if unit.isSome then k.bulkOut.drop 1 else k.bulkOut, sent := some f, txEnds := ends }
  if unit.isSome then linkCount s l 0x0A else s

/-- A path that sends frames: in training from its frame lock on, and in use (R369, R388). -/
def sends (p : Path) : Bool := decide (p.state = .frame) || decide (p.state = .measure) || decide (p.state = .up) || decide (p.state = .delayFault)

/-- A path runs, or trains, at low rate (R398, R399). -/
def pathLow (s : State) (l : Nat) (p : Path) : Bool := if p.state = .up then p.low else (link s l).lowWanted && !p.stays

/-- Δ of R369, in units of 1/65,536 base period: one router window at 32 kHz and full rate. -/
def frameDelta (s : State) (low : Bool) : Nat := if decide (s.clocks.rate = 0) && !low then 8192 else 0

/-- The path's one frame of this base period may start: Δ has passed, and none has been sent yet (R369). -/
def frameDue (s : State) (l : Nat) (p : Path) : Bool :=
  sends p && p.sentRes.all (fun x => decide (x.1 ≠ (now s).count)) && decide (frameDelta s (pathLow s l p) ≤ (now s).phase.toNat)

/-- ARRIVAL of the coming frame: u of the peer's frame that came one base period before, if one did (R373). -/
def arrivalOf (s : State) (p : Path) : Long := if p.uFrame = some ((now s).count - 1) then p.lastU else 0x80000000

/-- LINK_FRAME_SEND on one path, with the residual that its TDC measures. -/
def execLinkFrameSend (l : Fin 4) (pathB : Bool) (residual : Long) (s : State) : Outc :=
  let n := l.val
  let p := path s n pathB
  if !frameDue s n p then ok s
  else
    let low := pathLow s n p
    let arrival := arrivalOf s p
    let fresh := match (link s n).sent with
      | some f => decide (f.hdr.mtCount ≠ (now s).count)
      | none => true
    let s := if fresh then composeFrame s n low else s
    let s := setPath s n pathB { path s n pathB with residual := residual, sentRes := (((now s).count, residual) :: p.sentRes).take 2 }
    let k := link s n
    ok (setLink s n { k with sent := k.sent.map (fun f => { f with hdr := { f.hdr with low := low, residual := residual, arrival := arrival } }) })

/-! ## Cells received (R381 to R385, R404, R405, R415, R449) -/

/-- A reserved KIND or a nonzero reserved field (R381). -/
def cellBad (c : Cell) : Bool :=
  decide (4 < c.kind.toNat) || decide (c.reserved ≠ 0) || decide (8 ≤ c.flags.toNat) || decide (4096 ≤ c.dest.toNat) || decide (4096 ≤ c.src.toNat)

/-- CANCEL_CELL_DECODE: link hardware disarms the group armed with this coordinator and target, where the cell's arrival stamp `u` is at or
before its cutoff (R382); one that finds no such arm is kept for an arm with its own stamp (R72). -/
def cancelCell (s : State) (c : Cell) (u : MT) : State :=
  let g := (c.payload.getD 0 0).toNat
  let t := mtAt c.payload 1
  let x := group s g
  if groupArmed x && !x.coordinating && decide (x.coordinator = some c.src.toNat) && decide (x.target = some t) && inTime u t then disarm s g 3
  else setGroup s g { x with cancelled := some (c.src.toNat, t, u) }

/-- A fragment joins its message; a message that is whole leaves reassembly for the control core (R449). -/
def fragment (s : State) (c : Cell) : State :=
  let src := c.src.extractLsb' 0 12
  let rs := s.grove.reasm
  let old : Reasm := (rs.find? (fun x => decide (x.src = src) && decide (x.msgId = c.msgId))).getD ⟨src, c.msgId, [], none, now s⟩
  let i := c.frag.toNat
  let m : Reasm := { old with
    parts := if old.parts.any (fun p => decide (p.1 = i)) then old.parts else old.parts ++ [(i, c.payload)]
    total := if c.flags.getLsbD 1 then some (i + 1) else old.total }
  let rest := rs.filter (fun x => !(decide (x.src = src) && decide (x.msgId = c.msgId)))
  let whole := decide (m.total = some m.parts.length)
  let octets := (List.range m.parts.length).flatMap (fun i => match m.parts.find? (fun p => decide (p.1 = i)) with
    | some p => p.2
    | none => [])
  { s with grove := { s.grove with
      reasm := if whole then rest else rest ++ [m]
      arrived := if whole then s.grove.arrived ++ [(src.toNat, octets)] else s.grove.arrived } }

/-- A cell for this device, with its arrival stamp: CANCEL to link hardware, fragments, PREPARE and PREP_ACK to the control core where it
runs. -/
def deliverCell (s : State) (c : Cell) (u : MT) : State :=
  if c.kind = 2 then cancelCell s c u
  else if !coreUp s then s
  else if c.kind = 1 then fragment s c
  else { s with grove := { s.grove with delivered := s.grove.delivered ++ [(c, u)] } }

/-- One cell arrives on link `l` with arrival stamp `u`. -/
def handleCell (s : State) (l : Nat) (c : Cell) (u : MT) : State :=
  let onward (s : State) (at' : Option Nat) : State :=
    if linkPasses s l && decide (c.hops ≠ 0) then forward s { c with hops := c.hops - 1 } false at' else s
  if cellBad c then mgmtDrop s l
  else if c.kind = 0 then s
  else if isBcast c then
    if seenBefore s c then s else onward (deliverCell (remember s c) c u) (some l)
  else if c.dest.toNat = s.cfg.deviceNumber then deliverCell s c u
  else onward s none

/-! ## Delay measurement (R395) -/

/-- Stable insertion by value. -/
def insertInt (x : Int) : List Int → List Int
  | [] => [x]
  | y :: l => if x ≤ y then x :: y :: l else y :: insertInt x l

/-- The median; of an even number, the mean of the middle two, rounded down. -/
def median (l : List Int) : Int :=
  let s := l.foldl (fun a x => insertInt x a) []
  let n := s.length
  if n % 2 = 1 then s.getD (n / 2) 0 else (s.getD (n / 2 - 1) 0 + s.getD (n / 2) 0).fdiv 2

/-- The segment that carries a frame's header came whole on a path. -/
def headerCame (segs : List SegCopy) : Bool := segs.any (fun x => decide (x.seg = 0) && x.crcGood)

/-- r of the own frame that a header's ARRIVAL speaks of: the one sent a base period before (R395). -/
def ownResidual (s : State) (p : Path) : Option Long := (p.sentRes.find? (fun x => decide (x.1 = (now s).count - 1))).map (·.2)

/-- The delay and offset that one frame gives, in ps; none where the peer has no u, or no residual belongs to it (R395). -/
def linkMeasure (a : Int) (u rPeer uPeer : Long) (own : Option Long) : Option (Long × Long) :=
  if uPeer = 0x80000000 then none
  else own.map (fun r =>
    (BitVec.ofInt 32 ((u.toInt + uPeer.toInt - r.toInt - rPeer.toInt + a).fdiv 2),
      BitVec.ofInt 32 ((u.toInt - uPeer.toInt - rPeer.toInt + r.toInt - a).fdiv 2)))

/-- What a path's receiver takes of one base period's frame: u of its SOF; in UP and DELAY_FAULT its errors and its measurement. DELAY_PS
and OFFSET_PS are medians of the last 16; in UP 16 frames in a row that fail R379 take the path out of use, in DELAY_FAULT those that meet
it are counted (R388). -/
def measure (s : State) (l : Nat) (b : Bool) (u rPeer uPeer : Long) (segs : List SegCopy) (stray : List (BitVec 2 × Byte)) : State :=
  let badSync := ((stray ++ segs.flatMap (·.odd)).filter (fun x => blockBad x.1 x.2)).length
  let badCrc := (segs.filter (fun x => !x.crcGood)).length
  let p := path s l b
  let heard (p : Path) : Path := if segs.isEmpty then p else { p with lastU := u, uFrame := some (now s).count }
  if !sends p then s
  else if p.state ≠ .up ∧ p.state ≠ .delayFault then setPath s l b (heard p)
  else
    let up := decide (p.state = .up)
    let many (n elem bit : Nat) (x : Tbl Long × Word) : Tbl Long × Word := (List.range n).foldl (fun x _ => bump x.1 x.2 elem bit) x
    let (t, o) := many badCrc 5 1 (many badSync 4 0 (p.counts, p.ovf))
    let p := heard { p with
      counts := t, ovf := o, noSof := if segs.isEmpty then p.noSof else 0
      crcWin := if up then (decide (0 < badCrc) :: p.crcWin).take 64 else [] }
    match if headerCame segs then linkMeasure (linkCfg s l).asymPs.toInt u rPeer uPeer (ownResidual s p) else none with
    | none => setPath s l b p
    | some v =>
      let ms := (v :: p.meas).take 16
      let md := median (ms.map (fun x => x.1.toInt))
      let mth := median (ms.map (fun x => x.2.toInt))
      let p := { p with meas := ms, delayPs := BitVec.ofInt 32 md, offsetPs := BitVec.ofInt 32 mth, slow := if delayOk md mth == up then 0 else p.slow + 1 }
      let s := setPath s l b p
      if up && decide (16 ≤ p.slow) then losePath s l b .delayFault 0x5004 (pathNo b) false else s

/-! ## Receiving (R379, R380, R386, R387, R391, R392) -/

/-- A valid copy of segment `j` of frame `frame`, on a path that keeps the condition of R379 (R391). -/
def copyValid (p : Path) (frame : BitVec 64) (j : Nat) (x : SegCopy) : Bool :=
  decide (x.seg = j) && x.odd.all (fun b => syncGood b.1) && x.crcGood && decide (x.frame = frame.extractLsb' 0 12) &&
    decide (x.name.toNat = j) && delayOk p.delayPs.toInt p.offsetPs.toInt

/-- Whether segment `j` has a valid copy on a path in use, and whether only B has one. -/
def segment (s : State) (l : Nat) (f : RxFrame) (j : Nat) : Bool × Bool :=
  let a := pathUp s l false && f.segsA.any (copyValid (path s l false) f.hdr.mtCount j)
  let b := pathUp s l true && f.segsB.any (copyValid (path s l true) f.hdr.mtCount j)
  (a || b, b && !a)

/-- Segments of content blocks `a` to `b`. -/
def contentSegs (a b : Nat) : List Nat := (List.range (b / 63 + 1)).filter (fun j => decide (a / 63 ≤ j))

/-- A configuration record has come whole over link `l`: a replacement loads it, any other device holds it for its peer (R428, R429).
DEDUCED (notes/assumptions/147): OFFER_STATE reads LOADING from then on, and CONFIRMED from its first unit. -/
def recordArrives (s : State) (l : Nat) (m : List Byte) : State :=
  if alone s && s.grove.offers.contains l then
    { s with grove := { s.grove with incoming := m, offerState := 3, offerDevice := BitVec.ofNat 16 (recordFrom m).device } }
  else
    { s with grove := { s.grove with
        holds := s.grove.holds ||| BitVec.ofNat 8 (2 ^ l), holdsDev := tput s.grove.holdsDev l (link s l).peerDev.toNat
        held := tput s.grove.held l m } }

/-- A unit of a configuration record: one that follows a lost unit, or that no control core takes, spoils the record; so does a length over
8 MiB (R387, R428). -/
def takeRecord (s : State) (l : Nat) (u : BulkUnit) (lost : Bool) : State :=
  let k := link s l
  let m := (if lost || !coreUp s then none else k.bulkIn).map (· ++ u.payload)
  let m := m.filter (fun m => decide (m.length ≤ 8388608))
  let s := setLink s l { k with bulkIn := if u.last then some [] else m }
  match m with
  | none => s
  | some m =>
    if u.last then recordArrives s l m
    else if alone s && s.grove.offers.contains l then { s with grove := { s.grove with offerState := 2 } }
    else s

/-- A unit was lost: no transfer of which something has come is whole any more (R387). -/
def spoilBulk (k : Link) : Link :=
  { k with bulkIn := k.bulkIn.filter (fun m => m.isEmpty), bulkParts := k.bulkParts.map (fun x => (x.1, none)) }

/-- A unit of a management message on a channel other than 0; the last one delivers it to the control core (R386, R449). -/
def takeMessage (s : State) (l : Nat) (u : BulkUnit) : State :=
  let k := link s l
  let c := u.channel.toNat
  let m := if coreUp s then (tget (some []) k.bulkParts c).map (· ++ u.payload) else none
  let s := setLink s l { k with bulkParts := if u.last then tdel k.bulkParts c else tput k.bulkParts c m }
  match u.last, m with
  | true, some m => { s with grove := { s.grove with arrived := s.grove.arrived ++ [(4096, m)] } }
  | _, _ => s

/-- The bulk unit of a frame whose header came is consumed, and its ACK taken: channel 0 carries configuration records (R386, R387, R428),
another channel a management message (R449). A gap before it, or a payload of which a segment is lost, spoils what was under way. -/
def takeBulk (s : State) (l : Nat) (u : BulkUnit) (whole : Bool) : State :=
  let s := setLink s l { link s l with bulkAck := u.ack }
  if u.payload.isEmpty then s
  else
    let gap := decide (u.seq ≠ (link s l).bulkRx + 1)
    let s := linkCount (setLink s l { link s l with bulkRx := u.seq }) l 0x0B
    let s := if gap then setLink s l (spoilBulk (link s l)) else s
    if u.channel = 0 then takeRecord s l u (gap || !whole)
    else if whole then takeMessage s l u
    else
      let k := link s l
      let c := u.channel.toNat
      setLink s l { k with bulkParts := if u.last then tdel k.bulkParts c else tput k.bulkParts c none }

/-- The mapped slots of an accepted frame; a slot whose segment is lost takes its substitute. -/
def takeSlots (s : State) (l : Nat) (f : RxFrame) (have' : Nat → Bool) : State :=
  let m := (link s l).rxMap
  m.foldl (fun s kv =>
    let i := kv.1
    let k := link s l
    let x := tget {} k.rx (slotBefore s m i)
    if have' ((708 + i / 2) / 63) then
      let v := (f.slots.find? (fun y => decide (y.slot = i))).getD ⟨i, 0, false⟩
      setLink s l { k with rx := tset {} k.rx i (slotHere x v.sample (v.valid && have' ((8 + i / 64) / 63))) }
    else linkCount (setLink s l { k with rx := tset {} k.rx i (slotLost (slotPos s m i).1 x) }) l 0x08) s

/-- The arrival stamp of cell `c` of a frame: when the check block of its segment has come on the first path that delivers it, counted in
blocks from the arrival of that path's SOF (R371, R382). DEDUCED (notes/assumptions/167): at the check block's last bit. -/
def cellStamp (s : State) (l : Nat) (f : RxFrame) (c : Nat) : MT :=
  let j := (111 + 8 * c) / 63
  let came (b : Bool) (u : Long) (segs : List SegCopy) : Option Int :=
    if pathUp s l b && segs.any (copyValid (path s l b) f.hdr.mtCount j) then some (u.toInt + (65 + 64 * (j : Int)) * (if f.hdr.low then 52800 else 5280)) else none
  let units (ps : Int) : Int := (ps * (rateHz s.clocks.rate * 65536)).fdiv 1000000000000
  let stamp (ps : Int) : MT := mtOf (((mtNat ⟨(now s).count, 0⟩ : Int) + units ps).emod (2 ^ 80 : Nat)).toNat
  match came false f.uA f.segsA, came true f.uB f.segsB with
  | some x, some y => stamp (if x ≤ y then x else y)
  | some x, none => stamp x
  | none, some y => stamp y
  | none, none => now s

/-- A frame is received on a link; messages that it completes wait for the control core. -/
def receiveFrame (l : Fin 4) (f : RxFrame) (s : State) : State :=
  let n := l.val
  let upA := pathUp s n false
  let upB := pathUp s n true
  let takes (s : State) : State :=
    measure (measure s n false f.uA f.hdr.residual f.hdr.arrival f.segsA f.strayA) n true f.uB f.resB f.arrB f.segsB f.strayB
  if !upA && !upB then takes s
  else
    let low := f.hdr.low
    let segs := List.range (if low then 4 else 60)
    let got := s
    let have' (j : Nat) : Bool := (segment got n f j).1
    let s := takes s
    let s := setLink s n { link s n with silent := 0 }
    let s := segs.foldl (fun s j =>
      match segment got n f j with
      | (true, true) => linkCount s n 0x06
      | (true, false) => s
      | (false, _) => detect (linkCount s n 0x07) 0x5006 n 0) s
    let s := if have' 0 then
        let s := setLink s n { link s n with rxHdr := some f.hdr }
        if f.hdr.hold then linkCount s n 0x05 else s
      else s
    let s := (f.cells.zipIdx).foldl (fun s x =>
      if (contentSegs (104 + 8 * x.2) (111 + 8 * x.2)).all have' then handleCell s n x.1 (cellStamp got n f x.2) else s) s
    let s := if !low && have' 3 then takeBulk s n f.bulk ((contentSegs 233 (232 + (f.bulk.payload.length + 7) / 8)).all have') else s
    let s := if low then s
      else if have' 0 && decide (f.hdr.mtCount = (now s).count) && joined s n && decide (f.hdr.compat = ownCompat s) then takeSlots s n f have'
      else loseSlots s n
    if have' 0 then groveHears s n f.hdr else s

/-- MESSAGE_REASSEMBLY_TIMEOUT (R449). -/
def execMessageReassemblyTimeout (src : BitVec 12) (msgId : Word) (s : State) : Outc :=
  ok { s with grove := { s.grove with reasm := s.grove.reasm.filter (fun x => !(decide (x.src = src) && decide (x.msgId = msgId) && passed s x.since 100)) } }

end Sys2Proof.Machine
end

