-- ==== Sys2Proof/Machine/Grove.lean ====
section
/-! DEFINITION. Groves: joining, identity, Root claims and drills, the configuration epoch, time steps (R404 to R419, R430). -/
namespace Sys2Proof.Machine

def setGrove (s : State) (f : Grove → Grove) : State := { s with grove := f s.grove }

/-! ## Joining (R405, R407) -/

/-- The join keys that Heartwood holds: set 4 (R469). -/
def joinKeys (s : State) : List (List Byte) := (s.heart.keys.filter (fun kv => decide (kv.1 / 32 = 4))).map (·.2)

/-- The peer's answer to the challenge is an HMAC under a join key over both IDs, both device numbers and both nonces. -/
def joinProof (s : State) (peerGrove : Long) (peer : Nat) (proof nonces : List Byte) : Bool :=
  let m := be 4 s.cfg.groveId.toNat ++ be 4 peerGrove.toNat ++ be 2 s.cfg.deviceNumber ++ be 2 peer ++ nonces
  (joinKeys s).any (fun k => decide (Config.hmac k m = proof))

/-- A failed challenge: the join ends on this link, with HOLD_CAUSE AUTH and its record. -/
def authFails (s : State) (l peer : Nat) (inj : Bool) : State :=
  let s := setGrove (endJoin s l 2) (fun g => { g with holdCause := 1 })
  detectAs s 0x5010 l (BitVec.ofNat 32 peer) inj

/-- LINK_JOIN: the checks 1 to 4 of R405 in order, on a link with a path UP. -/
def execLinkJoin (l : Fin 4) (peerGrove : Long) (proof nonces : List Byte) (peer : BitVec 12) (compat : Byte) (s : State) : Outc :=
  let n := l.val
  if !linkUp s n || alone s then ok s
  else
    let s := setLink s n { link s n with peerGrove := peerGrove }
    if peerGrove ≠ s.cfg.groveId then ok (endJoin s n 1)
    else if !joinProof s peerGrove peer.toNat proof nonces then ok (authFails s n peer.toNat false)
    else if compat ≠ ownCompat s then
      let s := setGrove (endJoin s n 3) (fun g => { g with holdCause := 2, state := if joinedGrove s then g.state else 5 })
      ok (detect s 0x5011 n (compat.setWidth 32))
    else if (decide (peer.toNat = s.cfg.deviceNumber) || !recordAbsent s s.cfg.deviceNumber) && !joinedGrove s then
      let s := setGrove (endJoin s n 3) (fun g => { g with holdCause := 3, state := 4 })
      ok (detect s 0x5012 n (peer.setWidth 32))
    else
      let s := setLink s n { link s n with join := 4 }
      ok (writeTable (setGrove s (fun g => { g with
        state := if g.state = 0 ∨ g.state = 1 ∨ g.state = 5 ∨ (g.state = 4 ∧ g.holdCause = 3) then 2 else g.state })))

/-- JOIN_REAUTH: the challenge again on a joined link. -/
def execJoinReauth (l : Fin 4) (proof nonces : List Byte) (s : State) : Outc :=
  let k := link s l.val
  if k.join ≠ 4 then ok s
  else if joinProof s k.peerGrove k.peerDev.toNat proof nonces then ok s
  else ok (authFails s l.val k.peerDev.toNat false)

/-- The grove as a device that is about to join knows it: no claim is heard, and no time is taken from a link (R404, R407, R410). -/
def freshGrove (s : State) : State :=
  let s := (List.range 4).foldl (fun s l => endJoin s l 0) s
  steer (groveStops (setGrove s (fun g => { g with
    state := if s.cfg.groveId = 0 then 0 else 1, holdCause := 0, firstJoin := true, role := quietRole s, claimRun := 0, follows := false
    tagDue := false, drillAsked := none, heard := 0, heardHops := 0xFF, upstream := none, rootDevice := 0xFFFF, records := [], fwd := []
    adoptAt := none, announced := [], stepFade := none })))

/-- A write of GROVE_ID.ID or DEVICE_NUMBER (R407). -/
def execGroveIdWrite (r : Req) (numbered : Bool) (v : Long) (s : State) : Outc :=
  ok (writeCmd s r { obj := 0x0E10, role := custodian, range := !numbered || decide (v.toNat < 4096) } (fun s =>
    if s.streams.any (fun kv => decide (kv.2.state ≠ .free)) then .error eState
    else
      let s := bumpEpoch s
      .ok (freshGrove { s with cfg := if numbered then { s.cfg with deviceNumber := v.toNat } else { s.cfg with groveId := v } })))

/-! ## Root claims and drills (R411 to R414) -/

/-- Some link has passed the checks 1 to 4. -/
def anyJoined (s : State) : Bool := (List.range 4).any (joined s)

/-- 16 base periods have passed without a Root frame: the record, and a Root-capable member claims. -/
def loseRoot (s : State) : State :=
  let s := detect s 0x5019 devUnit 0
  if decide (s.cfg.priority ≠ 0) && decide (s.grove.role ≠ .withheld) then
    hearClaims (setGrove s (fun g => { g with role := .claiming, claimRun := 0 }))
  else hearClaims s

/-- ROOT_LOST. -/
def execRootLost (s : State) : Outc :=
  if anyJoined s && decide (16 ≤ s.grove.noRoot) && decide (s.grove.role ≠ .root) && decide (s.grove.role ≠ .claiming) then ok (loseRoot s) else ok s

/-- The count becomes that of `t`: what is remembered of the past keeps its place before it, and nothing stamped in the old count is left
(R417). DESIGN CHOICE (notes/assumptions/142): the same holds where the grove forms. -/
def jumpTo (s : State) (t : MT) : State :=
  let f := shifted (now s) t
  let s := mapInj (fun i => { i with fireAt := f i.fireAt }) s
  let s := carryFrames f (carryStamps f { s with clocks := { s.clocks with mt := t }, tails := [] })
  let s := eachEng s (fun g => { g with prepared := false, boundaryAt := none })
  let s := eachPort s (fun _ q => { freshStamps (now s) q with lastEdge := none })
  let s := eachBridge s (fun _ b => { ingress := { b.ingress with ready := [], hist := [] }, egress := { b.egress with hist := [] } })
  (plays s).foldl (fun s kv => setPlaying s kv.1 { kv.2 with ready := [] }) s

/-- Media time when the grove first forms under this Root: with a qualified PPS and time of day the count is TAI seconds × base rate at
every PPS edge, and the mapping is valid with no anchor (R46, R129); otherwise media time starts at mt 0 with no mapping (R47). MCLK's
phase does not step: the count is the one nearest to what the last edge says. -/
def formTime (s : State) : State :=
  let c := s.clocks
  let pps := (List.range 8).find? (fun i => decide (refType s i = 3) && decide ((refMon s i).state = .qualified))
  let tai : Option Nat := c.todLast.map (fun t => if c.todFresh then t.toNat - 1 else t.toNat)
  match pps.bind (fun i => (refMon s i).lastEdge), tai with
  | some e, some n =>
    let r := rateHz c.rate
    let exact : Int := n * r * 65536 + mtDiff e c.mt - (s.cfg.clocks.ppsOffset.toInt * r * 65536).fdiv 1000000000
    let count := (exact - c.mt.phase.toNat + 32768).fdiv 65536
    setClocks (jumpTo s ⟨BitVec.ofInt 64 count, c.mt.phase⟩) (fun c => { c with taiValid := true, anchorMt := MT.zero, anchorTai := 0 })
  | _, _ => setClocks (jumpTo s MT.zero) (fun c => { c with taiValid := false, anchorMt := MT.zero, anchorTai := 0 })

/-- ROOT_INCUMBENCY: 64 base periods of claiming without a higher claim. A drill of a round trip has then returned. -/
def execRootIncumbency (s : State) : Outc :=
  if decide (s.grove.role = .claiming) && decide (64 ≤ s.grove.claimRun) then
    let forms := decide (s.grove.state ≠ 3) && decide (s.grove.rootDevice = 0xFFFF)
    let s := setGrove s (fun g => { g with role := .root, claimRun := 0, rootEpoch := s.epoch, rootSince := now s })
    let s := if forms then formTime s else s
    let s := if s.grove.drillState = 3 then drillEnds s 2 0 else s
    let s := if s.grove.state = 1 ∨ s.grove.state = 2 then markJoined (setGrove s (fun g => { g with firstJoin := false })) else s
    ok (rootSteers (hearClaims s))
  else ok s

/-- A member with nonzero PRIORITY appears in the link-state records (R414). -/
def standbyKnown (s : State) : Bool :=
  (members s).any (fun d => (tget none s.grove.records d).any (fun r => decide (r.priority ≠ 0)))

/-- A Root drill is armed (R414): `dwell` for a round trip. -/
def drillArm (s : State) (r : Req) (range : Bool) (dwell : Option Nat) (target : MT) : Outc :=
  ok (writeCmd s r { obj := 0x0E01, role := custodian, range := range && isPeriod target } (fun s =>
    if !inTime (now s) target then .error eLate
    else if decide (s.grove.role ≠ .root) || !standbyKnown s || dormant s then .error eState
    else if schedTaken s target (.drill dwell) then .error eConflict
    else if !schedRoom s 1 then .error eCapacity
    else .ok (setGrove (schedAdd s target [.drill dwell]) (fun g => { g with drillState := 1 }))))

def execHandover (r : Req) (reserved : Byte) (_dwell : Word) (target : MT) (s : State) : Outc :=
  drillArm s r (decide (reserved = 0)) none target
def execRoundTrip (r : Req) (reserved : Byte) (dwell : Word) (target : MT) (s : State) : Outc :=
  drillArm s r (decide (reserved = 0) && decide (1 ≤ dwell.toNat) && decide (dwell.toNat ≤ 3600)) (some dwell.toNat) target

/-- ROOT_DRILL CANCEL (R71, R414). -/
def execDrillCancel (r : Req) (reserved : Byte) (_dwell : Word) (target : MT) (s : State) : Outc :=
  ok (writeCmd s r { obj := 0x0E01, role := custodian, range := decide (reserved = 0) && isPeriod target } (fun s =>
    if !inTime (now s) target then .error eLate
    else if !schedTaken s target (.drill none) then .error eState
    else .ok (drillEnds (schedDrop s (fun x => decide (x.target = target) && sameItem x.act (.drill none))) 3 0)))

/-- DRILL_DWELL_END: the new Root of a round trip withholds in its turn, once it has been incumbent for DWELL_S (R414). -/
def execDrillDwellEnd (s : State) : Outc :=
  match s.grove.drillAsked with
  | some d =>
    if decide (s.grove.role = .root) && isDue (now s) (mtPlus s.grove.rootSince (msUnits s (1000 * d))) then
      ok (hearClaims (withhold (setGrove s (fun g => { g with drillAsked := none })) none))
    else ok s
  | none => ok s

/-- DRILL_NO_TAKEOVER: 1 s after a withholding without a Root frame from another member (R414). -/
def execDrillNoTakeover (s : State) : Outc :=
  if decide (s.grove.role = .withheld) && isDue (now s) (mtPlus s.grove.withheldAt (msUnits s 1000)) then
    let s := drillEnds s 4 0
    let s := hearClaims (setGrove s (fun g => { g with role := .claiming, claimRun := 0 }))
    ok (detect s 0x5016 devUnit 0)
  else ok s

/-! ## Link-state records (R419) -/

/-- State code of LINK_STATUS (R401). -/
def linkState (s : State) (l : Nat) : Nat :=
  let a := pathUp s l false
  let b := pathUp s l true
  if !(linkCfg s l).enable then 0
  else if (a && (path s l false).low) || (b && (path s l true).low) then 5
  else if a && b then 4 else if a then 2 else if b then 3 else 1

/-- What the record carries, field by field: how it is laid out is the model's own. -/
def linkStateOctets (s : State) : List Byte :=
  recordTag :: (be 2 s.cfg.deviceNumber ++ be 2 s.cfg.priority ++ be 1 (ownCompat s).toNat ++ be 4 s.epoch.toNat ++
    ((List.range 4).flatMap (fun l => be 2 (link s l).peerDev.toNat ++ be 1 (linkState s l) ++
      be 2 (6144 - (bookedMap s l true).length) ++ be 2 (6144 - (bookedMap s l false).length))) ++
    be 4 (80896 - ((loadsAt s (now s) none).foldl (fun m x => m + x.n) 0)) ++ be 4 s.grove.epochTag.toNat)

/-- LINK_STATE_RECORD: a joined member broadcasts its record, and its own table follows its links. -/
def execLinkStateRecord (s : State) : Outc :=
  if coreUp s && joinedGrove s then ok (originate (writeTable s) 1 true 0 (linkStateOctets s)) else ok s

/-! ## The epoch (R406, R416) -/

/-- EPOCH_ANNOUNCE: the Root announces E + 1 at least 64 base periods ahead; a member takes the announcement of its Root. -/
def execEpochAnnounce (epoch : Long) (device : BitVec 12) (target : BitVec 64) (s : State) : Outc :=
  let t : MT := ⟨target, 0⟩
  let me := decide (device.toNat = s.cfg.deviceNumber)
  if !coreUp s || !joinedGrove s then ok s
  else if decide (s.grove.role = .root) && me then
    if decide (epoch = s.epoch + 1) && inFuture (now s) t && decide (64 ≤ countTo (now s) t) then
      ok (originate (noteEpoch s epoch device.toNat target) 1 true 0 (announceTag :: be 4 epoch.toNat ++ be 2 device.toNat ++ be 8 target.toNat))
    else ok s
  else if me then ok s
  else ok (noteEpoch s epoch device.toNat target)

/-- EPOCH_ADVANCE: every announcement whose target has come sets the epoch and the tag. -/
def execEpochAdvance (s : State) : Outc :=
  let due (x : Long × Nat × Nat × BitVec 64) : Bool := isDue (now s) ⟨x.2.2.2, 0⟩
  let xs := s.grove.announced.filter due
  let s := setGrove s (fun g => { g with announced := g.announced.filter (fun x => !due x) })
  ok (xs.foldl (fun s x => setGrove (advanceEpoch s x.1 x.2.1 x.2.2.1 x.2.2.2.toNat) (fun g => { g with rootEpoch := x.1 })) s)

/-- GROVE_ID.RECONCILE ADOPT (R416), which needs a Root (R421). -/
def execAdopt (r : Req) (s : State) : Outc :=
  ok (writeCmd s r { obj := 0x0E10, role := engineer } (fun s =>
    if s.grove.state ≠ 4 || !rootHeard s then .error eState
    else .ok (setGrove s (fun g => { g with adoptAt := some (periodFrom (mtPlus (now s) (4 * 65536))) }))))

/-- ADOPT_EFFECT: the Root's epoch and tag are taken. -/
def execAdoptEffect (s : State) : Outc :=
  match s.grove.adoptAt with
  | some t =>
    if isDue (now s) t then
      let (k, s) := rootTag s
      ok { s with epoch := s.grove.rootEpoch, grove := { s.grove with state := 3, holdCause := 0, adoptAt := none, tagDue := false, epochTag := k } }
    else ok s
  | none => ok s

/-! ## Time steps (R417) -/

/-- Every block endpoint ramps from zero over 64 samples (R417). -/
def rampEndpoints (s : State) : State :=
  let ramp (x : EndPoint) : EndPoint := { x with starve := some (rampFromZero 64) }
  let s := eachPort s (fun p q => (List.range (portChans s p)).foldl (fun q i =>
    setChan q true i { chan q true i with starve := some (rampFromZero 64) }) q)
  let s := eachBridge s (fun _ b => { b with egress := { b.egress with ends := b.egress.ends.map (fun x => (x.1, ramp x.2)) } })
  eachLink s (fun _ k => { k with txEnds := k.txEnds.map (fun x => (x.1, ramp x.2)) })

/-- TIME_STEP at a base-period boundary after the fade: the count becomes the upstream's; a forward step applies the actions it
skipped, in target order; endpoints ramp from zero. -/
def execTimeStep (upstream : BitVec 64) (offsetNs : Int) (s : State) : Outc :=
  let e := countError s upstream
  match s.grove.stepFade with
  | none => ok s
  | some a =>
    if !isPeriod (now s) || !timeFar s e (1000 * offsetNs) || decide ((now s).count.toNat < a + 64) then ok s
    else
      let s := rampEndpoints (jumpTo s ⟨upstream, 0⟩)
      let s := setGrove s (fun g => { g with stepFade := none, timeErrNs := BitVec.ofInt 64 offsetNs, countErr := 0 })
      let s := if 0 < e then applyWhere s (fun x => isDue (now s) x.target) else s
      ok (detect s 0x5014 devUnit (BitVec.ofInt 32 e))

end Sys2Proof.Machine
end

