-- ==== Sys2Proof/Machine/RouteChoice.lean ====
section
/-! DEFINITION. The routes of streams as the Root chooses them from the link-state records (R418 to R420, R427). -/
namespace Sys2Proof.Machine

/-- This device's own record, as its neighbours would read it. -/
def ownRecord (s : State) : LsRecord := (recordOf (linkStateOctets s) (now s)).2

/-- The record of a member, this device's own among them. -/
def memberRecord (s : State) (d : Nat) : Option LsRecord :=
  if d = s.cfg.deviceNumber then some (ownRecord s) else tget none s.grove.records d

/-- A member takes streams: its compatibility level and its epoch are this device's, so that it is not HELD (R416, R418). -/
def takesStreams (s : State) (r : LsRecord) : Bool := decide (r.compat = ownCompat s) && decide (r.epoch = s.epoch)

/-- A link's state code: at full rate with a path UP (R400, R401). -/
def fullRate (state : Nat) : Bool := decide (2 ≤ state) && decide (state ≤ 4)

/-- Links of a member's record to a peer, at full rate; on this device itself they are joined too. -/
def linksTo (s : State) (d p : Nat) : List LsLink :=
  match memberRecord s d with
  | none => []
  | some r => (r.links.zipIdx.filter (fun x => decide (x.1.peer = p) && fullRate x.1.state && (decide (d ≠ s.cfg.deviceNumber) || joined s x.2))).map (·.1)

/-- What a hop needs: links between its two devices, each with so many free slots. -/
structure Need where
  slots : Nat
  links : Nat
  deriving DecidableEq, Repr

/-- A hop from `d` to `p`: enough links between the two with the free slots, at both ends. Records do not tell parallel links apart. -/
def hopOk (s : State) (n : Need) (d p : Nat) : Bool :=
  decide (n.links ≤ ((linksTo s d p).filter (fun l => decide (n.slots ≤ l.freeOut))).length) &&
    decide (n.links ≤ ((linksTo s p d).filter (fun l => decide (n.slots ≤ l.freeIn))).length)

/-- A member may lie on a route that asks `moves` of it. -/
def deviceOk (s : State) (moves d : Nat) : Bool :=
  match memberRecord s d with
  | none => false
  | some r => takesStreams s r && decide (moves ≤ r.moves)

/-- Devices from which `dst` is at most `k` hops away. -/
def reachIn (edge : Nat → Nat → Bool) (all : List Nat) (dst : Nat) : Nat → List Nat
  | 0 => [dst]
  | k + 1 =>
    let near := reachIn edge all dst k
    all.filter (fun d => near.contains d || near.any (edge d))

/-- From `d`, at most `k` hops from `dst`, the devices of the shortest route whose sequence of numbers is lowest; `all` rises. -/
def lowestRoute (edge : Nat → Nat → Bool) (all : List Nat) (dst : Nat) : Nat → Nat → Option (List Nat)
  | 0, d => if d = dst then some [d] else none
  | k + 1, d =>
    if d = dst then some [d]
    else
      let near := reachIn edge all dst k
      ((all.find? (fun p => near.contains p && edge d p)).bind (lowestRoute edge all dst k)).map (d :: ·)

/-- The best route from `src` to `dst` over 1 to 62 hops: the fewest, then the lowest sequence of device numbers. -/
def bestRoute (edge : Nat → Nat → Bool) (all : List Nat) (src dst : Nat) : Option (List Nat) :=
  if src = dst then none
  else match (List.range 63).find? (fun k => (reachIn edge all dst k).contains src) with
    | some k => lowestRoute edge all dst k src
    | none => none

/-- Ascending, without repeats. -/
def insertNat (x : Nat) : List Nat → List Nat
  | [] => [x]
  | y :: l => if x < y then x :: y :: l else if x = y then y :: l else y :: insertNat x l

/-- Every member with a record, this device among them, in ascending order. -/
def knownMembers (s : State) : List Nat := insertNat s.cfg.deviceNumber (s.grove.records.map (·.1))

/-- Devices of a route between its source and its receiver. -/
def interior (r : List Nat) : List Nat := (r.drop 1).dropLast

/-- The best route for `n` slots on every hop and `n` moves on every device that meets no device of `other` but its ends: the alternate of
a stream whose other route is `other`, the primary where that is empty. DESIGN CHOICE (notes/assumptions/77): beside another route of one
hop, a hop between the same two devices needs a second link; the source moves the samples of both. -/
def chooseRoute (s : State) (n src dst : Nat) (other : List Nat) : Option (List Nat) :=
  let all := (knownMembers s).filter (fun d => !(interior other).contains d && deviceOk s (if decide (d = src) && !other.isEmpty then 2 * n else n) d)
  let edge (d p : Nat) : Bool := hopOk s ⟨n, if other = [d, p] then 2 else 1⟩ d p
  if all.contains src && all.contains dst then bestRoute edge all src dst else none

/-- The arrival link of a route at this device, its receiver: the lowest that has the free slots, and is not `not'`. -/
def arrivalLink (s : State) (n : Nat) (route : List Nat) (not' : Option Nat) : Option Nat :=
  match route.dropLast.getLast? with
  | none => none
  | some p => (List.range 4).find? (fun l =>
      joined s l && fullRate (linkState s l) && decide ((link s l).peerDev.toNat = p) && decide (not' ≠ some l) &&
        decide (n + (bookedMap s l false).length ≤ 6144))

/-- Hops of a route. -/
def hopCount (route : List Nat) : Nat := route.length - 1

/-- A route that this device found still holds: every hop has a link at full rate. -/
def routeHolds (s : State) (route : List Nat) : Bool :=
  (route.zip (route.drop 1)).all (fun x => !(linksTo s x.1 x.2).isEmpty && !(linksTo s x.2 x.1).isEmpty)

end Sys2Proof.Machine
end

