-- ==== Sys2Proof/Machine/Streams.lean ====
section
/-! DEFINITION. Streams: their definition, admission of this device's share, starting and stopping, rerouting (R25, R27, R28, R34, R418 to
R427, R431, R432). -/
namespace Sys2Proof.Machine

def streamObj (e : Nat) : Nat := 0x4000 + e

/-- A write to an element of stream entry `e` (R431). -/
def streamCmd (s : State) (r : Req) (e role : Nat) (range idle : Bool) (body : State → Except Word State) : Outc :=
  ok (writeAt s r (decide (e < 8192)) { obj := streamObj e, role := role, range := range, idle := idle } body)

/-! ## Definition (R422) -/

/-- STREAM.SOURCE_DEF. -/
def execSourceDef (r : Req) (e : Nat) (cls channels : Byte) (latency : Word) (margin flags : Byte) (src : Endpoint) (reserved : BitVec 48)
    (s : State) : Outc :=
  let n := channels.toNat
  let a := epLong src
  let range := decide (cls.toNat ≤ 9) && decide (1 ≤ n) && decide (n ≤ 64) && decide (1 ≤ latency.toNat) && decide (latency.toNat ≤ 1024) &&
    decide (margin.toNat ≤ 15) && decide (flags.toNat ≤ 1) && decide (reserved = 0) && epRange s a n false
  let x := stream s e
  streamCmd s r e engineer range (decide (x.state = .free) || decide (x.state = .defined)) (fun s =>
    if !epMeets s a false cls.toNat then .error eConflict
    else if epSapling s a then .error eState
    else
      let d : SourceDef := ⟨cls.toNat, n, latency.toNat, margin.toNat, decide (flags = 1), a⟩
      let s := bumpEpoch { s with cfg := { s.cfg with sources := tset {} s.cfg.sources e d } }
      .ok (setStream s e { stream s e with
        state := .defined, source := true, id := BitVec.ofNat 32 (s.cfg.deviceNumber * 65536 + e), sdef := d }))

/-- STREAM.SUBSCRIBE: answered at once; the outcome follows (R424). -/
def execSubscribe (r : Req) (e : Nat) (stream : Long) (dst : Endpoint) (s : State) : Outc :=
  streamCmd s r e engineer true true (fun s =>
    if (Machine.stream s e).state ≠ .free then .error eState
    else .ok (setStream s e { Machine.stream s e with state := .pending, receiver := true, id := stream, dest := epLong dst, failDevice := 0xFFFF }))

/-! ## Slots and rings (R374, R377, R378, R425) -/

/-- Outbound slots in the order in which admission takes them: those whose moves may use a later window first (R23, R378). -/
def slotOrder (s : State) : List Nat :=
  let l := List.range 6144
  let late := l.filter (fun i => decide (1 ≤ lastWindow s i))
  late ++ l.filter (fun i => decide (lastWindow s i = 0))

/-- `n` free slots of a map; none when there are fewer. -/
def freeSlots (order : List Nat) (m : Tbl Nat) (n : Nat) : Option (List Nat) :=
  let l := (order.filter (fun i => decide (tget 0 m i = 0))).take n
  if l.length = n then some l else none

/-- The lowest start at which `w` words fit among a bank's rings. -/
def ringStart (l : List Ring) (w : Nat) : Option Nat :=
  let starts := 0 :: l.map (fun r => r.first + r.words)
  let fits (a : Nat) : Bool := decide (a + w ≤ 524288) && l.all (fun r => decide (a + w ≤ r.first) || decide (r.first + r.words ≤ a))
  (starts.filter fits).foldl (fun m a => match m with
    | none => some a
    | some b => some (min a b)) none

/-- Place a ring for arrivals on link `l` from boundary `t` on: in a PLAYOUT bank of that link, else in a FREE bank that is staged to
become one. -/
def placeRing (s : State) (t : MT) (l w : Nat) : Option (State × Ring) :=
  let ofLink (b : Nat) : Bool := (decide ((bank s b).kind = 2) && decide ((bank s b).id = l)) || decide (playoutStaged s b = some l)
  match (List.range 32).findSome? (fun b => if ofLink b then (ringStart (ringsIn s b) w).map (fun a => (b, a)) else none) with
  | some (b, a) => some (setBank s b { bank s b with emptySince := none }, ⟨b, a, w, t⟩)
  | none =>
    if 524288 < w then none
    else
      let promised (b : Nat) : Bool := (playoutStaged s b).isSome || s.clocks.sched.any (fun x => match x.act with
        | .lease b' _ _ _ _ => decide (b' = b)
        | _ => false)
      match (List.range 32).find? (fun b => decide ((bank s b).kind = 0) && !promised b) with
      | some b => some (stage s t (.playout b l), ⟨b, 0, w, t⟩)
      | none => none

/-- Words of a ring: 4 × C × m′ × (L − h + 1). -/
def ringWords (cls channels latency hops : Nat) : Nat := 4 * channels * slotsPer cls * (latency - hops + 1)

/-- A link takes streams: joined at equal levels, and at full rate (R400, R415). -/
def linkTakes (s : State) (l : Nat) : Bool := joined s l && levelEqual s l && linkUp s l && decide (linkState s l ≠ 5)

/-- A ring for an arriving copy, where L > h. -/
def arrivalRing (s : State) (t : MT) (l cls channels latency hops : Nat) : Except Word (State × Option Ring) :=
  if hops < latency then
    match placeRing s t l (ringWords cls channels latency hops) with
    | some (s, r) => .ok (s, some r)
    | none => .error eCapacity
  else .ok (s, none)

/-- What one arriving copy takes from boundary `t` on: inbound slots and, where L > h, a ring. -/
def arriveOn (s : State) (t : MT) (l cls channels latency hops : Nat) : Except Word (State × List Nat × Option Ring) :=
  if !linkTakes s l then .error eCapacity
  else match freeSlots (slotOrder s) (bookedMap s l false) (channels * slotsPer cls) with
    | none => .error eCapacity
    | some slots => (arrivalRing s t l cls channels latency hops).map (fun x => (x.1, slots, x.2))

/-- Slots of a link that an entry has or will have: not those that are staged to be free again. -/
def heldSlots (s : State) (l : Nat) (out : Bool) (e : Nat) : List Nat :=
  (entrySlots (bookedMap s l out) e).filter (fun i => !s.clocks.staged.any (fun x => match x.act with
    | .unmap l' o slots => decide (l' = l) && (o == out) && slots.contains i
    | _ => false))

/-- Outbound slots on a link for an entry from the boundary that is named on; they are kept where the entry has them already. A boundary
whose cutoff has passed is TOO_LATE, so that both ends of a link change at one frame (R377). -/
def leaveOn (s : State) (effective : BitVec 64) (e l cls channels : Nat) : Except Word State :=
  if !(heldSlots s l true e).isEmpty then .ok s
  else if namedLate s effective then .error eLate
  else if !linkTakes s l then .error eCapacity
  else match freeSlots (slotOrder s) (bookedMap s l true) (channels * slotsPer cls) with
    | none => .error eCapacity
    | some slots =>
      let s := stage s (stageAt s effective) (.map l true e slots)
      if admits s (now s) none [] then .ok s else .error eCapacity

/-! ## The outcome of a subscription (R424 to R426) -/

/-- An admission ends in an error: the entry is FREE, with the code and the device. -/
def notAdmitted (s : State) (e : Nat) (code device : Word) : State :=
  setStream s e { result := code, failDevice := device }

/-- The routes of a subscription as they end at its receiver: hops, arrival links, and the devices where this device found them. -/
structure Plan where
  hops : Nat
  link : Nat
  via : List Nat
  alt : Option (Nat × Nat × List Nat)
  deriving DecidableEq, Repr

/-- The routes that a Root finds for a subscription of its own. -/
def rootPlan (s : State) (src n : Nat) (protect : Bool) : Option Plan :=
  let me := s.cfg.deviceNumber
  match chooseRoute s n src me [] with
  | none => none
  | some p =>
    match arrivalLink s n p none, protect with
    | none, _ => none
    | some l, false => some ⟨hopCount p, l, p, none⟩
    | some l, true =>
      (chooseRoute s n src me p).bind (fun q => (arrivalLink s n q (some l)).map (fun k => ⟨hopCount p, l, p, some (hopCount q, k, q)⟩))

/-- The routes that the Root has told of; there are none of no hops or of more than 62. -/
def toldPlan (hops altHops link altLink : Nat) (protect : Bool) : Option Plan :=
  let real (h : Nat) : Bool := decide (1 ≤ h) && decide (h ≤ 62)
  if real hops && (!protect || real altHops) then some ⟨hops, link, [], if protect then some (altHops, altLink, []) else none⟩ else none

/-- Every route of a plan has h + MARGIN ≤ L (R424, step 3). -/
def planFits (p : Plan) (t : StreamTerms) : Bool :=
  let ok (h : Nat) : Bool := decide (h + t.margin.toNat ≤ t.latency.toNat)
  ok p.hops && p.alt.all (fun a => ok a.1)

/-- Steps 1 and 2 of R424, as the receiver judges them. -/
def subscribeFails (s : State) (e cls channels : Nat) : Option Word :=
  let x := stream s e
  if !epRange s x.dest channels true || decide (x.id.extractLsb' 28 4 ≠ 0) || decide (x.id.extractLsb' 13 3 ≠ 0) then some eRange
  else if !epMeets s x.dest true cls || destFed s x.dest channels (now s) none (some e) then some eConflict
  else if decide (s.grove.state ≠ 3) || !rootHeard s then some eState
  else none

/-- The receiver's own share: every change of a map and of a bank is staged for one boundary; the one that is named has not passed its
cutoff (R377). An error is its code. -/
def admitHere (s : State) (e : Nat) (p : Plan) (terms : StreamTerms) (cls channels : Nat) : Except Word State :=
  let x := stream s e
  let t := stageAt s terms.effective
  let latency := terms.latency.toNat
  if namedLate s terms.effective then .error eLate
  else if !admits s (now s) none (loads (isEng x.dest) cls channels) then .error eCapacity
  else do
    let (s, slots, ring) ← arriveOn s t p.link cls channels latency p.hops
    let s := stage s t (.map p.link false e slots)
    let (s, altRing) ← match p.alt with
      | none => pure (s, none)
      | some (h, l, _) => do
        let (s, slots, r) ← arriveOn s t l cls channels latency h
        pure (stage s t (.map l false e slots), r)
    return setStream s e { stream s e with
      state := .admitted, result := eOK, sdef := { cls := cls, channels := channels, latency := latency, margin := terms.margin.toNat, protect := terms.protect }
      hops := BitVec.ofNat 8 p.hops, altHops := BitVec.ofNat 8 (p.alt.elim 0xFF (·.1))
      ringPeriods := if ring.isSome then BitVec.ofNat 16 (latency - p.hops + 1) else 0
      ring := ring, altRing := altRing, link := some p.link, altLink := p.alt.map (·.2.1)
      via := p.via, altVia := p.alt.elim [] (·.2.2), effectiveAt := some t }

/-- The outcome at the receiver: its own checks in the order of R424, with the code that others have found between its steps 3 and 4. As
Root it finds the routes itself. -/
def receiverResult (s : State) (e : Nat) (code failDevice : Word) (told : Option Plan) (terms : StreamTerms) (cls channels : Nat) : State :=
  let x := stream s e
  let root := decide (s.grove.role = .root)
  match subscribeFails s e cls channels with
  | some c => notAdmitted s e c 0xFFFF
  | none =>
    let plan := (if root then rootPlan s (x.id.extractLsb' 16 12).toNat (channels * slotsPer cls) terms.protect else told).filter (planFits · terms)
    match plan with
    | none => if root || decide (code = eOK) then notAdmitted s e eCapacity 0xFFFF else notAdmitted s e code failDevice
    | some p =>
      if code ≠ eOK then notAdmitted s e code failDevice
      else match admitHere s e p terms cls channels with
        | .error k => notAdmitted s e k (BitVec.ofNat 16 s.cfg.deviceNumber)
        | .ok s => bumpEpoch { s with cfg := { s.cfg with subs := tset (0, 0) s.cfg.subs e (x.id, x.dest) } }

/-- The share of a transit device: inbound slots on one link and outbound slots on another; a device that cannot give both keeps
nothing. -/
def transitShare (s : State) (e : Nat) (terms : StreamTerms) (cls channels inLink outLink : Nat) : State :=
  let t := stageAt s terms.effective
  match freeSlots (slotOrder s) (bookedMap s inLink false) (channels * slotsPer cls) with
  | none => s
  | some slots =>
    let u := setStream (stage s t (.map inLink false e slots)) e { stream s e with
      state := .admitted, transit := true
      sdef := { cls := cls, channels := channels, latency := terms.latency.toNat, margin := terms.margin.toNat, protect := terms.protect }
      link := some inLink, altLink := some outLink, effectiveAt := some t }
    match linkTakes s inLink, leaveOn u terms.effective e outLink cls channels with
    | true, .ok u => u
    | _, _ => s

/-- The share of the source: outbound slots on the first link of each route. -/
def sourceShare (s : State) (e : Nat) (hops altHops : Byte) (terms : StreamTerms) (l altLink : Nat) : Except Word State :=
  let x := stream s e
  let t := terms.effective
  (leaveOn s t e l x.sdef.cls x.sdef.channels).bind (fun s =>
    (if altHops = 0xFF then .ok s else leaveOn s t e altLink x.sdef.cls x.sdef.channels).map (fun s =>
      setStream s e { stream s e with
        state := if x.state = .defined then .admitted else x.state
        link := some l, altLink := if altHops = 0xFF then x.altLink else some altLink
        hops := hops, altHops := altHops, result := eOK }))

/-- SUBSCRIBE_RESULT: at the receiver the outcome is written; at the source and in transit the device's share is admitted, and in transit
given up where the admission failed. A control core that restarts admits nothing (R34), nor does a HELD
member (R416). -/
def execSubscribeResult (e : Nat) (code : Word) (failDevice : Word) (hops altHops : Byte) (terms : StreamTerms) (cls chans : Byte)
    (link altLink : BitVec 2) (s : State) : Outc :=
  let x := stream s e
  if !coreUp s then ok s
  else match x.state with
    | .pending =>
      ok (receiverResult s e code failDevice (toldPlan hops.toNat altHops.toNat link.toNat altLink.toNat terms.protect) terms cls.toNat chans.toNat)
    | .free => if code ≠ eOK ∨ s.grove.state = 4 ∨ rootHeard s = false then ok s else ok (transitShare s e terms cls.toNat chans.toNat link.toNat altLink.toNat)
    | _ =>
      if x.transit && decide (code ≠ eOK) then ok (freeEntry s e (stageAt s terms.effective))
      else if !x.source || decide (code ≠ eOK) then ok (setStream s e { x with result := code, failDevice := failDevice })
      else if s.grove.state = 4 ∨ rootHeard s = false then ok (setStream s e { x with result := eState, failDevice := BitVec.ofNat 16 s.cfg.deviceNumber })
      else match sourceShare s e hops altHops terms link.toNat altLink.toNat with
        | .error k => ok (setStream s e { x with result := k, failDevice := BitVec.ofNat 16 s.cfg.deviceNumber })
        | .ok s => ok s

/-! ## Start, stop, release (R426, R431) -/

/-- An entry that REQUEST acts on: a source entry. -/
def isSource (x : Stream) : Bool := x.source && decide (x.state ≠ .free)

/-- REQUEST START or STOP. -/
def streamArm (s : State) (r : Req) (e : Nat) (reserved : Byte) (target : MT) (act : SchedAct) : Outc :=
  streamCmd s r e operator (decide (reserved = 0) && isPeriod target) true (fun s =>
    if !inTime (now s) target then .error eLate
    else if !isSource (stream s e) || dormant s then .error eState
    else if schedTaken s target act then .error eConflict
    else if !schedRoom s 1 then .error eCapacity
    else .ok (schedAdd s target [act]))

def execStreamStart (r : Req) (e : Nat) (reserved : Byte) (target : MT) (s : State) : Outc := streamArm s r e reserved target (.streamStart e)
def execStreamStop (r : Req) (e : Nat) (reserved : Byte) (target : MT) (s : State) : Outc := streamArm s r e reserved target (.streamStop e)

/-- REQUEST CANCEL (R71). -/
def execStreamCancel (r : Req) (e : Nat) (reserved : Byte) (target : MT) (s : State) : Outc :=
  streamCmd s r e operator (decide (reserved = 0) && isPeriod target) true (fun s =>
    if !inTime (now s) target then .error eLate
    else if !isSource (stream s e) || !schedTaken s target (.streamStart e) then .error eState
    else .ok (schedDrop s (fun x => decide (x.target = target) && sameItem x.act (.streamStart e))))

/-- STREAM.RELEASE; transit entries are released by admission only (R432). -/
def execStreamRelease (r : Req) (e : Nat) (v : Byte) (s : State) : Outc :=
  streamCmd s r e engineer (decide (v.toNat ≤ 1)) true (fun s =>
    let x := stream s e
    if v = 0 then .ok s
    else if decide (x.state = .running) || x.transit then .error eState
    else if x.state = .free then .ok s
    else
      let kept := decide (x.state ≠ .pending)
      let s := freeEntry { s with cfg := { s.cfg with sources := tset {} s.cfg.sources e {}, subs := tset (0, 0) s.cfg.subs e (0, 0) } } e (stageAt s 0)
      .ok (if kept then bumpEpoch s else s))

/-! ## Rerouting (R427) -/

/-- A copy of a stream has lost its route: its own link is DOWN, or a hop of the route that this device found. -/
def copyLost (s : State) (l : Option Nat) (via : List Nat) : Bool :=
  l.any (fun l => !(joined s l && linkUp s l)) || !routeHolds s via

/-- The copy that a reroute replaces: the alternate where it alone is lost. -/
def lostCopy (s : State) (x : Stream) : Bool := x.altLink.isSome && copyLost s x.altLink x.altVia && !copyLost s x.link x.via

/-- A staged route of the same copy. -/
def sameSwitch (e : Nat) (alt : Bool) (a : StageAct) : Bool :=
  match a with
  | .switch e' alt' _ _ _ _ => decide (e' = e) && (alt' == alt)
  | _ => false

/-- A copy's new route at its receiver, staged for boundary `t`: on the same link it keeps its slots, and a ring that is long enough. -/
def bookSwitch (s : State) (t : MT) (e : Nat) (alt : Bool) (l hops : Nat) : Except Word State :=
  let s := setClocks s (fun c => { c with staged := c.staged.filter (fun x => !sameSwitch e alt x.act) })
  let x := stream s e
  let d := x.sdef
  let ring := if alt then x.altRing else x.ring
  let book (x : State × List Nat × Option Ring) : State := stage x.1 t (.switch e alt l hops x.2.1 x.2.2)
  if decide ((if alt then x.altLink else x.link) = some l) then
    if hops < d.latency && !ring.any (fun r => decide (ringWords d.cls d.channels d.latency hops ≤ r.words)) then
      (arrivalRing s t l d.cls d.channels d.latency hops).map (fun x => book (x.1, [], x.2))
    else .ok (book (s, [], if hops < d.latency then ring.map (fun r => { r with since := t }) else none))
  else (arriveOn s t l d.cls d.channels d.latency hops).map book

/-- The route that takes a lost one's place at this receiver: hops, arrival link, boundary asked for, and devices. A Root finds it itself,
clear of the stream's other route. -/
def foundRoute (s : State) (e : Nat) (alt : Bool) (told : Option NewRoute) : Option (Nat × Nat × BitVec 64 × List Nat) :=
  let x := stream s e
  let n := x.sdef.channels * slotsPer x.sdef.cls
  if s.grove.role = .root then
    (chooseRoute s n (x.id.extractLsb' 16 12).toNat s.cfg.deviceNumber (if alt then x.via else x.altVia)).bind (fun r =>
      (arrivalLink s n r (if alt then x.link else x.altLink)).map (fun l => (hopCount r, l, 0, r)))
  else told.map (fun r => (r.hops.toNat, r.link.toNat, r.effective, []))

/-- No route fits: the entry reads REROUTING. -/
def noRoute (s : State) (e : Nat) : State :=
  let x := stream s e
  if x.state = .rerouting then s else detect (setStream s e { x with state := .rerouting }) 0x5017 devUnit (BitVec.ofNat 32 e)

/-- A receiver takes a new route for its lost copy from a boundary at least 4 base periods ahead. -/
def rerouteHere (s : State) (e : Nat) (told : Option NewRoute) : State :=
  let x := stream s e
  let alt := lostCopy s x
  if decide (s.grove.role = .root) && decide (x.state ≠ .rerouting) && !copyLost s x.link x.via && !alt then s
  else match foundRoute s e alt told with
    | none => noRoute s e
    | some (hops, l, effective, via) =>
      if hops = 0 ∨ 62 < hops ∨ x.sdef.latency < hops ∨ namedLate s effective = true then noRoute s e
      else match bookSwitch s (stageAt s effective) e alt l hops with
        | .error _ => noRoute s e
        | .ok s =>
          let x : Stream := { stream s e with state := if x.state = .rerouting then .admitted else x.state }
          setStream s e (if alt then { x with altVia := via } else { x with via := via })

/-- A source leaves on the first link of the new route, and its slots on links that are DOWN are free again. -/
def rerouteSource (s : State) (e : Nat) (r : NewRoute) : State :=
  let x := stream s e
  match leaveOn s r.effective e r.link.toNat x.sdef.cls x.sdef.channels with
  | .error _ => s
  | .ok s =>
    let s := (List.range 4).foldl (fun s l => if !linkUp s l && decide (l ≠ r.link.toNat) then unmap s e (some l) (stageAt s r.effective) else s) s
    setStream s e (if x.altLink.any (fun l => !linkUp s l) && x.link.all (linkUp s) then { x with altLink := some r.link.toNat, altHops := r.hops }
      else { x with link := some r.link.toNat, hops := r.hops })

/-- REROUTE: what this device does for the new route of a stream, or with none found. A transit share whose route is gone is given up. -/
def execReroute (e : Nat) (route : Option NewRoute) (s : State) : Outc :=
  let x := stream s e
  if !coreUp s || decide (x.state = .free) || decide (x.state = .pending) then ok s
  else if x.receiver then ok (rerouteHere s e route)
  else match route with
    | none => if x.transit then ok (freeEntry s e (stageAt s 0)) else ok s
    | some r => if x.source then ok (rerouteSource s e r) else ok s

/-- PLAYOUT_BANK_FREE: at a boundary at least 4 base periods after its last ring went (R425). -/
def execPlayoutBankFree (bank : Fin 32) (s : State) : Outc :=
  let b := Machine.bank s bank.val
  match b.emptySince with
  | some t =>
    if decide (b.kind = 2) && (ringsIn s bank.val).isEmpty && isDue (now s) (periodFrom (mtPlus t (4 * 65536))) then
      ok (setBank s bank.val { b with kind := 0, id := 0, emptySince := none })
    else ok s
  | none => ok s

end Sys2Proof.Machine
end

