-- ==== Sys2Proof/Machine/Dictionary.lean ====
section
/-! DEFINITION. The object dictionary: which objects and elements exist, with their types, access kinds, roles, ranges and
persistence (R33, R86, R131, R180, R273, R274, R307 to R309, R346, R347, R364, R401, R430, R431, R433 to R437, R464 to R468,
R470, R498 to R500, R518, R519). -/
namespace Sys2Proof.Machine

/-- Access kinds (R436). -/
inductive Access where
  | ro | rw | wo | rwi
  deriving DecidableEq, Repr

/-- Types (R435), as octets on the wire: numbers of one to eight octets, MEDIATIME, OCTETS(n), DOMAIN. -/
inductive Kind where
  | num (octets : Nat)
  | octets (n : Nat)
  | mt
  | domain
  deriving DecidableEq, Repr

/-- An element: its type, its access, its least role, its Range column as a test of the value, whether it is persistent. -/
structure Elem where
  kind : Kind
  access : Access := .ro
  role : Nat := operator
  range : Nat → Bool := fun _ => true
  keep : Bool := false

/-- Octets of a value. -/
def Elem.size (e : Elem) : Nat :=
  match e.kind with
  | .num n => n
  | .octets n => n
  | .mt => 10
  | .domain => 0

/-! ## Ranges -/

def upTo (k v : Nat) : Bool := decide (v ≤ k)
def between (a b v : Nat) : Bool := decide (a ≤ v) && decide (v ≤ b)
def orNone (k v : Nat) : Bool := decide (v ≤ k) || decide (v = 0xFF)
/-- A 32-bit two's-complement value from −k to k. -/
def within (k v : Nat) : Bool := decide ((BitVec.ofNat 32 v).toInt.natAbs ≤ k)

/-! ## Shorthand for the rows of the tables -/

def ro (n : Nat) (role : Nat := operator) : Elem := { kind := .num n, role := role }
def roMt : Elem := { kind := .mt }
def roOct (n : Nat) (role : Nat := operator) : Elem := { kind := .octets n, role := role }
/-- A number that may be written. -/
def rw (n role : Nat) (range : Nat → Bool := fun _ => true) (keep : Bool := true) : Elem :=
  { kind := .num n, access := .rw, role := role, range := range, keep := keep }
def rwi (n role : Nat) (range : Nat → Bool := fun _ => true) (keep : Bool := true) : Elem :=
  { kind := .num n, access := .rwi, role := role, range := range, keep := keep }
/-- A command or a clear element. -/
def wo (n role : Nat) (range : Nat → Bool) : Elem := { kind := .num n, access := .wo, role := role, range := range }
def woOct (n role : Nat) : Elem := { kind := .octets n, access := .wo, role := role }
/-- A clear element (R458). -/
def clear : Elem := wo 1 engineer (upTo 1)
def image (role : Nat) : Elem := { kind := .domain, access := .wo, role := role }

/-- Elements numbered from 0. -/
def seq (l : List Elem) (el : Nat) : Option Elem := l[el]?
/-- `n` elements alike. -/
def alike (n : Nat) (e : Elem) : List Elem := List.replicate n e

/-! ## Identity, state, sessions, interfaces, power (R464, R466, R498) -/

/-- The masks of IPv4: ones, then zeros. -/
def contiguous (v : Nat) : Bool := (List.range 33).any (fun k => decide (v = 2 ^ 32 - 2 ^ k))

def deviceElems (obj : Nat) : Option (Nat → Option Elem) :=
  match obj with
  | 0x0000 => some (seq [ro 2, ro 2, ro 4, ro 1, roOct 8])
  | 0x0001 => some (seq [ro 4, ro 1, ro 1, ro 1, ro 1, ro 1, ro 2])
  | 0x0100 => some (seq [ro 2])
  | 0x0101 => some (seq [rw 2 engineer (between 2 4) false, wo 2 custodian (between 1 1), rw 1 engineer (orNone 13), rw 2 engineer (upTo 1)])
  | 0x0102 => some (seq [ro 2, ro 2, ro 2, ro 2, ro 4, ro 4])
  | 0x0103 => some (seq [ro 2, ro 4, ro 2, ro 1, ro 2, ro 4, ro 4, ro 4])
  | 0x0110 => some (seq [ro 4])
  | 0x0111 => some (seq [wo 2 engineer (between 1 2), ro 2, ro 2, ro 1, ro 4, ro 4])
  | 0x0120 => some (seq (ro 2 :: (alike 16 (roOct 8 engineer) ++
      [ro 1, rw 2 custodian (between 10 3600), wo 1 custodian (upTo 15), ro 4, ro 1, clear])))
  | 0x0130 => some (seq [rw 1 custodian (upTo 1), rw 4 custodian, rw 4 custodian contiguous, rw 4 custodian,
      rw 2 custodian (between 1024 65535), roOct 6, ro 2, ro 4])
  | 0x0131 => some (seq [rw 1 custodian (upTo 1)])
  | 0x0132 => some (seq (alike 9 (ro 4) ++ [ro 1, ro 1, ro 1, ro 2, clear]))
  | 0x0140 => some (seq [image custodian, ro 2, wo 2 custodian (between 1 3), ro 4, ro 2, rw 2 custodian (between 60 65535), ro 4,
      rw 1 custodian (upTo 1) false])
  | _ => none

/-! ## Media time and clocks (R86, R131) -/

/-- Types 0 to 6 of REF_SELECT with the instances of R100. -/
def refCodeOk (v : Nat) : Bool :=
  let i := v % 256
  match v / 256 with
  | 0 | 1 | 2 | 3 => decide (i = 0)
  | 4 => decide (i ≤ 7)
  | 5 => decide (i ≤ 3) || decide (i = 0xFF)
  | 6 => decide (i ≤ 0x17)
  | _ => false

def clockElems (obj : Nat) : Option (Nat → Option Elem) :=
  match obj with
  | 0x0200 => some (seq [roMt, ro 2])
  | 0x0201 => some (seq [ro 2, rw 2 custodian (upTo 2) false, { kind := .mt, access := .rw, role := custodian }])
  | 0x0202 => some (seq [ro 1, roMt, ro 8, ro 2])
  | 0x0203 => some (seq [ro 2, ro 2, ro 4, ro 1, clear])
  | 0x0210 => some (seq (alike 8 (rw 2 engineer refCodeOk) ++ [rw 2 engineer (between 100 60000), rw 1 engineer (upTo 1)]))
  | 0x0211 => some (seq ([ro 2, ro 2, ro 4, ro 4, ro 4] ++ alike 8 (ro 2) ++ [ro 4, ro 1, clear]))
  | 0x0212 => some (seq [rw 2 engineer (upTo 2), rw 4 engineer (within 10000), rw 2 engineer (upTo 7), rw 2 engineer (upTo 2047),
      rw 4 engineer (within 1000000), rw 2 engineer (upTo 1), rw 4 engineer (within 1000000), rw 2 engineer (upTo 1),
      rw 2 engineer (upTo 2), rw 4 engineer (within 10000), rw 2 engineer (between 2 6)])
  | 0x0220 => some (seq [rw 2 engineer (upTo 3), rw 2 engineer (upTo 1), rw 2 engineer (between 1 100), rw 2 engineer (between 1 300),
      rw 1 engineer (upTo 1) false])
  | 0x0230 => some (seq [rw 2 engineer (upTo 1), ro 2, ro 4 engineer, ro 2 engineer, ro 2 engineer, ro 2 engineer,
      rwi 1 engineer (upTo 1) false, ro 4, ro 1, ro 4, ro 4, ro 1, clear])
  | 0x0240 => some (seq (alike 4 (rw 2 engineer (upTo 5)) ++ [rw 2 engineer (upTo 3), rw 2 engineer (upTo 1), rw 2 engineer (upTo 2),
      ro 2, rw 2 engineer (upTo 2)]))
  | 0x0250 => some (seq [ro 2, ro 1, ro 1, ro 4, ro 1])
  | _ => none

/-! ## Engines (R180) -/

def engineElems (off : Nat) : Option (Nat → Option Elem) :=
  match off with
  | 0 => some (seq [ro 2, wo 2 engineer (between 1 5), ro 2 engineer])
  | 1 => some (seq [image engineer, ro 4, ro 4, ro 2, ro 2, clear])
  | 2 => some (seq [rwi 2 engineer (upTo 9), ro 4])
  | 3 => some (seq [rw 2 engineer (upTo 1), ro 4, ro 1, ro 2, ro 2 engineer, ro 4 engineer, ro 4, clear])
  | 4 => some (seq [ro 4, ro 4, ro 4, ro 1 engineer, ro 1 engineer])
  | 5 => some (seq (alike 4 (ro 1)))
  | 6 => some (seq [ro 2, ro 2 engineer, ro 4, clear])
  | _ => none

/-! ## Ports (R346, R347) -/

def dirs : Nat → Bool := between 1 3

def sapElems (off : Nat) : Option (Nat → Option Elem) :=
  let chans := seq (alike 32 (ro 2) ++ [ro 4, ro 4, rw 4 engineer])
  match off with
  | 0 => some (seq [rw 1 engineer (upTo 1), rwi 2 engineer (upTo 2), rwi 1 engineer (between 2 32), rwi 2 engineer (upTo 2),
      rwi 2 engineer (upTo 2), rwi 2 engineer (upTo 4), rwi 4 engineer (between 32000 384000), rwi 2 engineer (upTo 1),
      rwi 2 engineer (upTo 1), rwi 2 engineer (upTo 1), rwi 2 engineer (upTo 1), rwi 2 engineer (upTo 1), rwi 2 engineer (upTo 1),
      rw 2 engineer (upTo 1), rw 2 engineer (upTo 1), rwi 1 engineer (between 1 6), rwi 1 engineer (upTo 8), rwi 2 engineer dirs])
  | 1 => some (seq [ro 2, ro 4, ro 4, ro 2, ro 4, ro 4, ro 4, ro 4, ro 4, ro 4, ro 4, ro 2, clear, ro 2])
  | 2 => some (seq [woOct 16 operator, rw 2 engineer (between 1 1000), ro 4])
  | 3 => some chans
  | 4 => some chans
  | 5 => some (seq [rw 1 engineer (orNone 15), rw 2 engineer (upTo 1), rw 4 engineer, ro 4])
  | _ => none

def aesElems (off : Nat) : Option (Nat → Option Elem) :=
  let bits : Elem := { kind := .octets 24, access := .rw, role := engineer, keep := true }
  match off with
  | 0 => some (seq [rw 1 engineer (upTo 1), rwi 2 engineer (fun v => decide (v ≤ 2) || decide (v = 4)), rwi 4 engineer (between 32000 192000),
      rwi 2 engineer dirs, rwi 2 engineer (upTo 8), rw 2 engineer (upTo 1), rw 2 engineer (upTo 1), rw 2 engineer (upTo 1),
      rw 2 engineer (upTo 1), rwi 1 engineer (between 1 6), rwi 1 engineer (upTo 8), rw 2 engineer (upTo 1)])
  | 1 => some (seq [ro 2, ro 4, ro 4, ro 2, ro 4, ro 4, ro 4, ro 4, ro 4, ro 4, ro 4, ro 2, clear, ro 2])
  | 2 => some (seq [roOct 24, roOct 24, roOct 24, roOct 24, ro 2, ro 4])
  | 3 => some (seq (alike 4 bits))
  | 4 => some (seq [woOct 16 operator, rw 2 engineer (between 1 1000), ro 4])
  | 5 => some (seq [ro 2, ro 2, ro 2, ro 2, ro 1, ro 1, rw 1 engineer (upTo 15)])
  | 6 => some (seq [rw 1 engineer (orNone 15), rw 2 engineer (upTo 1), rw 1 engineer (upTo 3), ro 4])
  | _ => none

/-! ## Bridges and links (R364, R401) -/

/-- A port code of RB_CFG: 0x00 to 0x17, or none. -/
def rbPort : Nat → Bool := orNone 0x17

def bridgeElems (off : Nat) : Option (Nat → Option Elem) :=
  match off with
  | 0 => some (seq [rw 1 engineer (upTo 1), rwi 1 engineer (upTo 32), rwi 1 engineer rbPort, rwi 1 engineer (upTo 31),
      rwi 2 engineer (upTo 3), rwi 1 engineer rbPort, rwi 1 engineer (upTo 31), rwi 2 engineer (upTo 3), rwi 2 engineer (upTo 2)])
  | 1 => some (seq [ro 2, ro 4, ro 4, ro 4, ro 2, ro 4, ro 4, ro 2, clear])
  | 2 => some (seq [ro 2, ro 4, ro 4, ro 4, ro 2, ro 4, ro 4, ro 2, clear])
  | _ => none

def linkElems (off : Nat) : Option (Nat → Option Elem) :=
  let path := seq [ro 2, ro 4, ro 4, ro 4 engineer, ro 4, ro 4, ro 4, ro 2, clear, roOct 8 engineer]
  match off with
  | 0 => some (seq [rw 1 engineer (upTo 1), rw 2 engineer (between 1 3), rw 4 engineer (within 100000), rw 1 engineer (upTo 15),
      rw 1 engineer (upTo 15), rw 2 engineer (upTo 2)])
  | 1 => some (seq [ro 2, ro 2, ro 1, ro 2, ro 2, ro 4, ro 4, ro 4, ro 4, ro 4, ro 4, ro 4, ro 2, clear])
  | 2 => some path
  | 3 => some path
  | 4 => some (seq [wo 2 engineer (between 1 2)])
  | _ => none

/-! ## Groves, streams, routes (R430, R431, R33) -/

def groveElems (obj : Nat) : Option (Nat → Option Elem) :=
  match obj with
  | 0x0E00 => some (seq [rw 2 custodian (upTo 32767), ro 2, ro 4, ro 4, ro 1, ro 1, ro 4, ro 1, ro 4, clear])
  | 0x0E01 => some (seq [woOct 14 custodian, ro 2, ro 2, roMt, ro 2])
  | 0x0E10 => some (seq [rw 4 custodian, rw 2 custodian (upTo 4095), ro 2, ro 2, ro 2, ro 2, ro 1, ro 8, ro 4, wo 2 engineer (between 1 1), ro 2])
  | 0x0E20 => some (seq [ro 2, ro 2, wo 2 custodian (fun _ => true), ro 1])
  | _ => none

def streamElems : Nat → Option Elem :=
  seq [ro 2, ro 1, ro 4, { kind := .octets 16, access := .rwi, role := engineer, keep := true }, woOct 8 engineer, woOct 12 operator,
    ro 2, ro 2, ro 1, ro 1, ro 2, ro 4, ro 1, clear]

def routeElems : Nat → Option Elem := seq [ro 2, woOct 24 engineer, ro 4, ro 4, ro 2, ro 2, ro 4, roMt, ro 2]

/-! ## Memories (R273, R274) -/

def memElems (obj : Nat) : Option (Nat → Option Elem) :=
  match obj with
  | 0x1000 => some (seq (alike 10 (ro 4) ++ [ro 2, ro 4 engineer, clear]))
  | 0x1001 => some (seq [rw 1 engineer (upTo 1), rw 2 engineer (between 1 720), wo 2 engineer (between 1 2)])
  | 0x1002 => some (seq [ro 2, ro 4, ro 4, ro 1, roMt, ro 2, ro 4, ro 4, clear])
  | 0x1003 => some (seq (alike 32 (ro 4) ++ [ro 1]))
  | 0x1004 => some (seq ([ro 4, wo 4 engineer (fun _ => true)] ++ alike 33 (ro 4) ++ [clear]))
  | 0x1005 => some (seq [woOct 8 engineer, ro 4 engineer])
  | 0x1010 => some (seq [ro 2, ro 4, ro 2, ro 1, ro 1, ro 1])
  | 0x1040 => some (seq [woOct 24 engineer])
  | _ =>
    if between 0x1020 0x103F obj then some (seq ([ro 2, ro 1, roMt, ro 1] ++ alike 7 (ro 4) ++ [ro 1, ro 1, clear]))
    else if between 0x1060 0x107F obj then some (seq (alike 16 (roOct 10 engineer)))
    else if between 0x1080 0x10FF obj then some (fun _ => some (rw 2 operator (fun _ => true) false))
    else none

/-! ## Events, injection, life cycle and keys (R467 to R469, R499, R518) -/

/-- Codes of R503 marked G or S. -/
def injectable : List Nat :=
  [0x1001, 0x1002, 0x1003, 0x1006, 0x1007, 0x1008, 0x1009, 0x100B, 0x100C, 0x100D, 0x100E,
   0x2001, 0x2002, 0x2003, 0x2004, 0x2005, 0x2006, 0x2007, 0x2012, 0x2014, 0x2015,
   0x3001, 0x3002, 0x3003, 0x3004, 0x3006,
   0x4001, 0x4003, 0x4004, 0x4005, 0x4006, 0x4007, 0x4008, 0x4009, 0x4010, 0x4011,
   0x5001, 0x5003, 0x5004, 0x5005, 0x5006, 0x5007, 0x5010, 0x5011, 0x5012, 0x5013, 0x5014, 0x5019,
   0x6001, 0x6003, 0x6005, 0x7002, 0x7003, 0x7004, 0x7005, 0x7006, 0x7007]

/-- Codes of R503 marked as notices. -/
def notices : List Nat :=
  [0x1004, 0x1005, 0x100A, 0x100F, 0x1010, 0x2010, 0x2011, 0x2013, 0x2020, 0x3005, 0x4002, 0x4012, 0x5002, 0x5015, 0x5016, 0x5017,
   0x5018, 0x6002, 0x6004, 0x6006, 0x6007, 0x6008, 0x6009, 0x7001, 0x7008, 0x7009, 0x700A]

def eventCode (c : Nat) : Bool := injectable.contains c || notices.contains c

def eventElems (obj : Nat) : Option (Nat → Option Elem) :=
  match obj with
  | 0x1100 => some (seq [ro 4, ro 4, rw 4 operator (fun _ => true) false, roOct 240, ro 4, ro 1, clear])
  | 0x1101 => some (seq [rw 2 operator (fun v => decide (v % 2 = 0) && decide (v < 256)) false])
  | 0x1102 => some (seq [ro 4, ro 1, roMt, clear])
  | 0x1104 => some (seq [ro 2, roMt, ro 2])
  | 0x1180 => some (seq [rw 1 engineer (upTo 1) false, rw 2 engineer (between 60 65535) false, ro 1, ro 4, ro 4, clear])
  | 0x1200 => some (seq [ro 2, woOct 10 custodian, ro 1, ro 2, rw 1 custodian (upTo 1), ro 4, ro 1])
  | 0x1210 => some (seq [woOct 72 custodian, ro 4, ro 4, ro 4, ro 4, ro 4])
  | _ =>
    if between 0x1111 0x1117 obj then
      some (fun el => if el = 0 then some clear else if decide (el < 0x40) && eventCode ((obj - 0x1110) * 0x1000 + el) then some (ro 4) else none)
    else if between 0x1181 0x1187 obj then
      some (fun el => if injectable.contains ((obj - 0x1180) * 0x1000 + el) then
        some { kind := .octets 12, access := .rw, role := engineer } else none)
    else none

/-! ## Commit groups, grafts, pages (R307 to R309) -/

def groupElems (g : Nat) : Option (Nat → Option Elem) :=
  if g = 0 then
    some (fun el =>
      if el < 0x20 then some (ro 2)
      else if el = 0x20 then some (woOct 16 engineer)
      else if between 0x40 0x5F el then some roMt
      else if between 0x60 0x9F el then some (ro 2)
      else none)
  else
    some (seq [ro 2, wo 2 operator (upTo 4095), wo 2 operator (upTo 4095), ro 2, rw 2 engineer (upTo 1) false,
      { kind := .mt, access := .wo }, wo 1 operator (upTo 1), roMt, ro 2, roMt, ro 2, ro 2, wo 1 operator (upTo 1),
      wo 2 engineer (upTo 4095), ro 2, ro 4])

def pageElems (el : Nat) : Option Elem :=
  if el < 0x40 then some (rw 2 operator (fun _ => true) false)
  else if 0x80 ≤ el then (if el < 0xC0 then some (ro 2) else none)
  else seq [ro 2, rw 2 operator (fun _ => true) false, rw 2 operator (upTo 1) false, ro 2, wo 2 operator (between 1 2), ro 1,
    wo 1 operator (upTo 1)] (el - 0x40)

/-! ## All objects (R433, R434) -/

/-- The elements of an object; none: no chapter lists it. -/
def objElems (obj : Nat) : Option (Nat → Option Elem) :=
  if obj < 0x0200 then deviceElems obj
  else if obj < 0x0400 then clockElems obj
  else if obj < 0x0800 then engineElems (obj % 32)
  else if obj < 0x0C00 then sapElems (obj % 64)
  else if obj < 0x0C80 then aesElems (obj % 16)
  else if obj < 0x0D00 then bridgeElems (obj % 8)
  else if obj < 0x0E00 then linkElems (obj % 64)
  else if obj < 0x1000 then groveElems obj
  else if obj < 0x1100 then memElems obj
  else if obj < 0x1300 then eventElems obj
  else if obj < 0x1400 then groupElems (obj - 0x1300)
  else if between 0x2000 0x2FFF obj then some pageElems
  else if between 0x4000 0x5FFF obj then some streamElems
  else if between 0x6000 0x7FFF obj then some routeElems
  else none

/-! ## Large values (R446) -/

/-- The octets that a DOMAIN element takes: a firmware image of R485, or 16 MiB (R435). -/
def domainLimit (obj : Nat) : Nat := if obj = 0x0140 then 1572864 else 16777216

end Sys2Proof.Machine
end

