-- ==== Sys2Proof/Machine/Values.lean ====
section
/-! DEFINITION. What a read of each element returns (R33, R86, R131, R142, R180, R273, R307 to R309, R346, R347, R364, R401,
R430, R431, R458, R464 to R468, R498, R499, R513, R518). -/
namespace Sys2Proof.Machine

/-- The octets of a signed value. -/
def beInt (n : Nat) (v : Int) : List Byte := be n (v % (2 ^ (8 * n) : Int)).toNat

/-- The octets of a long, a word, an optional target. -/
def beL (v : Long) : List Byte := be 4 v.toNat
def beW (v : Word) : List Byte := be 2 v.toNat
def beB (b : Bool) : List Byte := be 1 (bitOf b)
def beT (t : Option MT) : List Byte := mtBytes (t.getD MT.zero)

/-! ## Identity, state, sessions, interfaces, power (R464, R466, R498) -/

def devCode : DevState → Nat
  | .booting => 0
  | .sapling => 1
  | .run => 2
  | .quiet => 3
  | .dormant => 4
  | .fault => 5

def lifeCode : Life → Nat
  | .blank => 0
  | .provisioned => 1
  | .deployed => 2
  | .returned => 3
  | .ended => 4

def fwCode : FwState → Nat
  | .idle => 0
  | .writing => 1
  | .ready => 2
  | .trial => 3
  | .failed => 4

/-- The firmware slot that runs, and the other. -/
def runSlot (s : State) : FwSlot := if s.power.fwSlotB then s.power.slotB else s.power.slotA
def otherSlot (s : State) : FwSlot := if s.power.fwSlotB then s.power.slotA else s.power.slotB

/-- Engines whose logic is powered (R475); none in DORMANT before a wake has begun (R37, R478). -/
def poweredMask (s : State) : Nat :=
  if decide (s.power.dev = .dormant) && s.power.wake.isNone then 0 else maskOf 32 (fun n => decide ((eng s n).state ≠ .idle) || (eng s n).powered)

/-- What a SAVE would record now. -/
def snapshot (s : State) : Store :=
  { valid := true, epoch := s.epoch, cfg := s.cfg
    routes := s.routes.filterMap (fun kv =>
      if kv.2.state = .active ∨ kv.2.state = .removing then
        some (kv.1, { state := .active, source := kv.2.source, dest := kv.2.dest, channels := kv.2.channels, cls := kv.2.cls })
      else none)
    leases := (List.range 32).filterMap (fun b => if (bank s b).kind = 1 then some (b, (bank s b).id) else none)
    images := s.engines.filterMap (fun kv => if kv.2.active.codeWords ≠ 0 then some (kv.1, kv.2.active) else none) }

/-- The copy that a boot applies is B: of those that pass their CRC, the one with the later SAVE (R488). -/
def storeIsB (f : Flash) : Bool := if f.currentB then f.storeB.valid || !f.storeA.valid else f.storeB.valid && !f.storeA.valid

/-- The store's current copy, as a boot would apply it. -/
def currentStore (s : State) : Store := if storeIsB s.flash then s.flash.storeB else s.flash.storeA

/-- A persistent value differs from the store; an empty store stands for the defaults. -/
def dirtyStore (s : State) : Bool :=
  let c := currentStore s
  let c := if c.valid then c else {}
  decide ({ snapshot s with valid := false, epoch := 0 } ≠ { c with valid := false, epoch := 0 })

/-- SESSIONS.SESSIONk. -/
def sessionOctets (s : State) (k : Nat) : List Byte :=
  let x := session s k
  if x.phase = 2 then be 1 (ifaceNo x.iface + 1) ++ be 1 x.role ++ [x.keyIndex, 0] ++ beL x.address else be 8 0

/-- VIN as the part measures it at the read: no command carries it (R498). -/
def measured (s : State) : Word := Config.freeWord s.fresh

/-- The higher of the highest temperature so far and another. -/
def maxTj (m : Option Word) (tj : Word) : Word := m.elim tj (fun x => if x.toInt < tj.toInt then tj else x)

/-- Tj as the monitor has just read it (R498). -/
def noteTj (s : State) (tj : Word) : State :=
  { s with power := { s.power with tjC := tj, tjMaxC := some (maxTj s.power.tjMaxC tj) } }

/-- A read of POWER_STATUS measures Tj: no command carries it, so it is a free value, which TJ_MAX_C counts too (R498). -/
def senseTj (s : State) : State := noteTj { s with fresh := s.fresh + 1 } (Config.freeWord s.fresh)

def deviceValue (s : State) (k obj el : Nat) : List Byte :=
  let p := s.power
  match obj, el with
  | 0x0000, 0 => be 2 0x3232
  | 0x0000, 1 => be 2 1
  | 0x0000, 2 => beL (runSlot s).version
  | 0x0000, 3 => [ownCompat s]
  | 0x0000, _ => be 8 Config.serial.toNat
  | 0x0001, 0 => be 4 0xF
  | 0x0001, 1 => be 1 32
  | 0x0001, 2 => be 1 16
  | 0x0001, 3 => be 1 8
  | 0x0001, 4 => be 1 16
  | 0x0001, 5 => be 1 4
  | 0x0001, _ => be 2 32
  | 0x0100, _ => be 2 (devCode p.dev)
  | 0x0101, 0 => be 2 p.req
  | 0x0101, 2 => [s.cfg.power.wakeGpio]
  | 0x0101, _ => be 2 s.cfg.power.wakeEdge
  | 0x0102, 0 => beW p.vcoreMv
  | 0x0102, 1 => beW (measured s)
  | 0x0102, 2 => beW p.tjC
  | 0x0102, 3 => beW (p.tjMaxC.getD p.tjC)
  | 0x0102, 4 => be 4 (poweredMask s)
  | 0x0102, _ => beL p.slackEvents
  | 0x0103, 0 => be 2 p.resetCause
  | 0x0103, 1 => beL p.resetCount
  | 0x0103, 2 => be 2 (bitOf p.fwSlotB)
  | 0x0103, 3 => beB p.fwFallback
  | 0x0103, 4 => be 2 p.storeUsed
  | 0x0103, 5 => beL p.bootMs
  | 0x0103, 6 => beL p.engFail
  | 0x0103, _ => beL p.loadFail
  | 0x0110, _ => beL s.epoch
  | 0x0111, 1 => be 2 (bitOf p.saving)
  | 0x0111, 2 => beW p.saveResult
  | 0x0111, 3 => beB (dirtyStore s)
  | 0x0111, 4 => beL s.flash.savedEpoch
  | 0x0111, _ => beL p.saveCount
  | 0x0120, 0 => be 2 (maskOf 16 (fun k => decide ((session s k).phase = 2)))
  | 0x0120, 0x11 => be 1 k
  | 0x0120, 0x12 => beW s.cfg.mgmt.idleS
  | 0x0120, 0x14 => beL s.mgmt.authFail
  | 0x0120, 0x15 => beB s.mgmt.authOvf
  | 0x0120, _ => sessionOctets s (el - 1)
  | 0x0130, 0 => beB s.cfg.mgmt.netEnable
  | 0x0130, 1 => beL s.cfg.mgmt.address
  | 0x0130, 2 => beL s.cfg.mgmt.mask
  | 0x0130, 3 => beL s.cfg.mgmt.gateway
  | 0x0130, 4 => beW s.cfg.mgmt.udpPort
  | 0x0130, 5 => be 6 Config.macAddr.toNat
  | 0x0130, 6 => be 2 s.mgmt.netLink.toNat
  | 0x0130, _ => beL s.mgmt.activeAddr
  | 0x0131, _ => beB s.cfg.mgmt.hqEnable
  | 0x0132, 9 => be 1 s.mgmt.qEth.length
  | 0x0132, 10 => be 1 s.mgmt.qHq.length
  | 0x0132, 11 => be 1 s.mgmt.qGrove.length
  | 0x0132, 12 => beW s.mgmt.statsOvf
  | 0x0132, _ => beL (tget 0 s.mgmt.stats el)
  | 0x0140, 1 => be 2 (fwCode p.fwState)
  | 0x0140, 3 => beL (if (otherSlot s).valid then (otherSlot s).version else 0)
  | 0x0140, 4 => beW p.fwResult
  | 0x0140, 5 => beW s.cfg.power.trialS
  | 0x0140, 6 => beL s.fuses.rollbackMin
  | 0x0140, _ => beB p.compatChange
  | _, _ => []

/-! ## Media time and clocks (R86, R131) -/

def mcpllCode : Mcpll → Nat
  | .freerun => 0
  | .acquire => 1
  | .locked => 2
  | .holdover => 3

def ecpllCode : Ecpll → Nat
  | .off => 0
  | .search => 1
  | .acquire => 2
  | .verify => 3
  | .locked => 4

def refCodeOf : RefState → Nat
  | .empty => 0
  | .stopped => 1
  | .qualifying => 2
  | .qualified => 3
  | .disqGlitch => 4
  | .disqRate => 5
  | .ignored => 6

/-- REF_STATUS.STATEi (R131): EMPTY and IGNORED follow from the configuration; an entry that has seen no edge is STOPPED. -/
def refReport (s : State) (i : Nat) : Nat :=
  if refType s i = 0 then 0 else if refIgnored s i then 6
  else if (refMon s i).state = .empty then 1 else refCodeOf (refMon s i).state

/-- Whole seconds in HOLDOVER. -/
def holdSeconds (s : State) : Nat :=
  if s.clocks.mcpll = .holdover then mtDiff s.clocks.holdAt (now s) / (65536 * rateHz s.clocks.rate) else 0

def clockValue (s : State) (obj el : Nat) : List Byte :=
  let c := s.clocks
  let k := s.cfg.clocks
  match obj, el with
  | 0x0200, 0 => mtBytes c.mt
  | 0x0200, _ => be 2 (if !joinedGrove s then 0 else if s.grove.role = .root then 1 else 2)
  | 0x0201, 0 => be 2 c.rate
  | 0x0201, 1 => be 2 c.next
  | 0x0201, _ => beT c.rateTarget
  | 0x0202, 0 => beB c.taiValid
  | 0x0202, 1 => mtBytes c.anchorMt
  | 0x0202, 2 => be 8 c.anchorTai.toNat
  | 0x0202, _ => beW c.taiUtc
  | 0x0203, 0 => be 2 c.sched.length
  | 0x0203, 1 => be 2 1024
  | 0x0203, 2 => beL c.lateCount
  | 0x0203, _ => beB c.lateOvf
  | 0x0210, 8 => beW k.requalMs
  | 0x0210, 9 => beB k.revert
  | 0x0210, _ => beW (refCode s el)
  | 0x0211, 0 => beW (activeCode s)
  | 0x0211, 1 => be 2 (mcpllCode c.mcpll)
  | 0x0211, 2 => beL (BitVec.ofInt 32 (clampInt (-2147483648) 2147483647 c.phasePs))
  | 0x0211, 3 => beL (BitVec.ofInt 32 c.ntoPpb)
  | 0x0211, 4 => be 4 (holdSeconds s)
  | 0x0211, 0x0D => beL c.switchCount
  | 0x0211, 0x0E => beB c.switchOvf
  | 0x0211, _ => be 2 (refReport s (el - 5))
  | 0x0212, 0 => be 2 k.wckMult
  | 0x0212, 1 => beL k.wckOffset
  | 0x0212, 2 => be 2 k.vidRate
  | 0x0212, 3 => beW k.vidLines
  | 0x0212, 4 => beL k.vidOffset
  | 0x0212, 5 => be 2 k.ppsEdge
  | 0x0212, 6 => beL k.ppsOffset
  | 0x0212, 7 => be 2 k.todBaud
  | 0x0212, 8 => be 2 k.darsMult
  | 0x0212, 9 => beL k.darsOffset
  | 0x0212, _ => beW k.bufTarget
  | 0x0220, 0 => be 2 k.bandwidth
  | 0x0220, 1 => be 2 k.pull
  | 0x0220, 2 => beW k.slewPpm
  | 0x0220, 3 => beW k.holdAvgS
  | 0x0220, _ => beB c.forceHold
  | 0x0230, 0 => be 2 k.ecpllMode
  | 0x0230, 1 => be 2 (ecpllCode c.ecpll)
  | 0x0230, 2 => beL c.ceiling
  | 0x0230, 6 => be 1 0
  | 0x0230, 7 => beL c.gapCount
  | 0x0230, 8 => beB c.gapOvf
  | 0x0230, 9 => beL c.lastGap
  | 0x0230, 10 => beL c.tripCount
  | 0x0230, 11 => beB c.tripOvf
  | 0x0230, _ => beW (tget 0xFFFF c.bands (el - 3))
  | 0x0240, 4 => be 2 k.wckMode
  | 0x0240, 5 => be 2 k.wckDuty
  | 0x0240, 6 => be 2 k.syncMode
  | 0x0240, 7 => be 2 (c.wckPhase % (512 / wckMul c.clkoutApplied.wckMode))
  | 0x0240, 8 => be 2 k.ppsMode
  | 0x0240, _ => be 2 (tget 0 k.mclkOut el)
  | 0x0250, 0 => be 2 c.xoFreq
  | 0x0250, 1 => beB c.scpllLock
  | 0x0250, 2 => beB c.lkpllLock
  | 0x0250, 3 => beL c.todErr
  | 0x0250, _ => beB c.todErrOvf
  | _, _ => []

/-! ## Engines (R142, R180) -/

def engCode : EngState → Nat
  | .idle => 0
  | .run => 1
  | .sapling => 2
  | .halted => 3
  | .quarantined => 4
  | .gated => 5
  | .debug => 6

def engineValue (s : State) (n off el : Nat) : List Byte :=
  let e := eng s n
  let c := engClass s n
  match off, el with
  | 0, 0 => be 2 (engCode e.state)
  | 0, _ => beW e.haltPc
  | 1, 1 => beL e.active.id
  | 1, 2 => beL e.standby.id
  | 1, 3 => be 2 e.standbyState
  | 1, _ => beW e.loadResult
  | 2, 0 => be 2 c
  | 2, _ => be 4 (usable c)
  | 3, 0 => be 2 (engPolicy s n)
  | 3, 1 => beL e.faultCount
  | 3, 2 => beB e.faultOvf
  | 3, 3 => be 2 e.lastCause
  | 3, 4 => beW e.lastPc
  | 3, 5 => beL e.lastFrame
  | 3, _ => beL e.quarCount
  | 4, 0 => be 4 e.active.cost
  | 4, 1 => be 4 e.standby.cost
  | 4, 2 => be 4 (usable c - e.active.cost)
  | 4, 3 => be 1 e.active.callDepth
  | 4, _ => be 1 e.active.loopDepth
  | 5, _ => [bankNo e el]
  | 6, 0 => beW (estat e)
  | 6, 1 => beW e.stAtEnd
  | 6, _ => beL e.frameCtr
  | _, _ => []

/-! ## Ports (R341, R346, R347) -/

def portCode : PortState → Nat
  | .off => 0
  | .acquire => 1
  | .run => 2
  | .clockLost => 3
  | .alignFault => 4

/-- Channels that a mask names. -/
def maskCount (m : Long) : Nat := ((List.range 32).filter (fun i => m.getLsbD i)).length

/-- RING_FRAMES: L of R341 for the binding in force; 0 with none. -/
def ringFrames (q : Port) : Nat :=
  let c := maskCount q.capMask
  if decide (q.capRing = 0xFF) || decide (c = 0) then 0 else 524288 / (if q.capForm = 1 then 3 * c / 2 else 2 * c)

/-- The port is the active BUFFER reference: IN_DELAY_NS reports what is measured (R342). -/
def activeBuffer (s : State) (p : Nat) : Bool :=
  match s.clocks.active with
  | some i => decide (refType s i = 6) && decide (refUnit s i = p) && decide ((port s p).state = .run)
  | none => false

/-- MEAS_MHZ is measured at the read: no command carries it. -/
def statusValue (s : State) (p el : Nat) : List Byte :=
  let q := port s p
  match el with
  | 0 => be 2 (portCode q.state)
  | 1 => beL (if activeBuffer s p then unitsNs s q.measIn else q.inDelay)
  | 2 => beL q.outDelay
  | 3 => beW q.fill
  | 4 => beL (if q.state = .off then 0 else Config.freeLong s.fresh)
  | 0x0B => beW q.ovf
  | 0x0D => be 2 (if q.state = .acquire ∨ q.state = .clockLost then q.consistent else 0)
  | _ => beL (tget 0 q.counts el)

def chanMask (n : Nat) (q : Port) (out : Bool) (f : Chan → Bool) : Nat := maskOf n (fun i => f (chan q out i))

def sapChans (s : State) (p : Nat) (out : Bool) (el : Nat) : List Byte :=
  let q := port s p
  let c := portCfg s p
  if el < 32 then beW (chanUse (chan q out el))
  else if el = 32 then be 4 (chanMask 32 q out (·.muted))
  else if el = 33 then be 4 (chanMask 32 q out (·.stopped))
  else beL (if out then c.startMutedOut else c.startMutedIn)

def sapValue (s : State) (p off el : Nat) : List Byte :=
  let c := portCfg s p
  let q := port s p
  match off, el with
  | 0, 0 => beB c.enable
  | 0, 1 => be 2 c.format
  | 0, 2 => be 1 c.slots
  | 0, 3 => be 2 c.slotWidth
  | 0, 4 => be 2 c.dataWidth
  | 0, 5 => be 2 c.rate
  | 0, 6 => beL c.nominalHz
  | 0, 7 => be 2 c.bclkDir
  | 0, 8 => be 2 c.fsDir
  | 0, 9 => be 2 c.bclkEdge
  | 0, 10 => be 2 c.fsPol
  | 0, 11 => be 2 c.dataDelay
  | 0, 12 => be 2 c.fsWidth
  | 0, 13 => be 2 c.unused
  | 0, 14 => be 2 c.txRound
  | 0, 15 => be 1 c.fillSet
  | 0, 16 => be 1 c.group
  | 0, _ => be 2 c.directions
  | 1, _ => statusValue s p el
  | 2, 1 => beW c.zcTimeoutMs
  | 2, _ => beL q.timeouts
  | 3, _ => sapChans s p false el
  | 4, _ => sapChans s p true el
  | 5, 0 => [c.capRing]
  | 5, 1 => be 2 c.capForm
  | 5, 2 => beL c.capMask
  | 5, _ => be 4 (ringFrames q)
  | _, _ => []

def be192 (v : BitVec 192) : List Byte := be 24 v.toNat

def aesValue (s : State) (p off el : Nat) : List Byte :=
  let c := portCfg s p
  let q := port s p
  let both (f : Chan → Bool) : Nat := chanMask 2 q false f + 4 * chanMask 2 q true f
  match off, el with
  | 0, 0 => beB c.enable
  | 0, 1 => be 2 c.rate
  | 0, 2 => beL c.nominalHz
  | 0, 3 => be 2 c.directions
  | 0, 4 => be 2 c.txClock
  | 0, 5 => be 2 c.rxWord
  | 0, 6 => be 2 c.txWord
  | 0, 7 => be 2 c.vMode
  | 0, 8 => be 2 c.txRound
  | 0, 9 => be 1 c.fillSet
  | 0, 10 => be 1 c.group
  | 0, _ => be 2 c.txCsCrcc
  | 1, _ => statusValue s p el
  | 2, 0 => be192 q.csA
  | 2, 1 => be192 q.csB
  | 2, 2 => be192 q.uA
  | 2, 3 => be192 q.uB
  | 2, 4 => beW (if q.aesLocked then q.rxFlags ||| 0x0100 else q.rxFlags &&& 0xFEFF)
  | 2, _ => beL q.blocks
  | 3, 0 => be192 c.txCsA
  | 3, 1 => be192 c.txCsB
  | 3, 2 => be192 c.txUA
  | 3, _ => be192 c.txUB
  | 4, 1 => beW c.zcTimeoutMs
  | 4, _ => beL q.timeouts
  | 5, 0 => beW (chanUse (chan q false 0))
  | 5, 1 => beW (chanUse (chan q false 1))
  | 5, 2 => beW (chanUse (chan q true 0))
  | 5, 3 => beW (chanUse (chan q true 1))
  | 5, 4 => be 1 (both (·.muted))
  | 5, 5 => be 1 (both (·.stopped))
  | 5, _ => be 1 (c.startMutedIn.toNat % 4 + 4 * (c.startMutedOut.toNat % 4))
  | 6, 0 => [c.capRing]
  | 6, 1 => be 2 c.capForm
  | 6, 2 => be 1 c.capMask.toNat
  | 6, _ => be 4 (ringFrames q)
  | _, _ => []

/-! ## Bridges and links (R364, R401) -/

def sideCode : SideState → Nat
  | .off => 0
  | .unlocked => 1
  | .acquire => 2
  | .locked => 3

/-- A side's values: RATIO and PORT_MHZ from the estimate at the read (R354). -/
def sideValue (s : State) (b : Nat) (egress : Bool) (el : Nat) : List Byte :=
  let d := side s b egress
  let c := sideCfg (rbCfg s b) egress
  let est := (port s (estPort s c egress)).est
  let works := decide (d.state = .locked) || decide (d.state = .acquire)
  match el with
  | 0 => be 2 (sideCode d.state)
  | 1 => beL (if works then ratioOf est (mediaHz s c.cls) else 0)
  | 2 => beL (if d.state ≠ .off ∧ sideRuns s c egress then BitVec.ofNat 32 (est / 1000) else 0)
  | 3 => beL (if d.state = .locked then d.delayNs else 0)
  | 4 => beW d.fill
  | 5 => beL d.relocks
  | 6 => beL d.unlocks
  | _ => beW d.ovf

def bridgeValue (s : State) (b off el : Nat) : List Byte :=
  let c := rbCfg s b
  match off, el with
  | 0, 0 => beB c.enable
  | 0, 1 => be 1 c.split
  | 0, 2 => [c.inPort]
  | 0, 3 => be 1 c.inFirst
  | 0, 4 => be 2 c.inClass
  | 0, 5 => [c.outPort]
  | 0, 6 => be 1 c.outFirst
  | 0, 7 => be 2 c.outClass
  | 0, _ => be 2 c.trackBw
  | 1, _ => sideValue s b false el
  | 2, _ => sideValue s b true el
  | _, _ => []

def pathCode : PathState → Nat
  | .off => 0
  | .signal => 1
  | .block => 2
  | .adapt => 3
  | .frame => 4
  | .measure => 5
  | .up => 6
  | .delayFault => 7
  | .crossed => 8

/-- PATH.EQ: the codes that training left; the DFE's taps go on adapting while the path is UP, to values that no command carries (R367). -/
def eqOctets (fresh : Nat) (p : Path) : List Byte :=
  if p.state = .up then (be 8 p.eq.toNat).take 1 ++ beL (Config.freeLong fresh) ++ (beL (Config.freeLong (fresh + 1))).take 1 ++ be 2 0
  else be 8 p.eq.toNat

def pathValue (fresh : Nat) (p : Path) (el : Nat) : List Byte :=
  match el with
  | 0 => be 2 (pathCode p.state)
  | 1 => beL p.delayPs
  | 2 => beL p.offsetPs
  | 3 => beL p.residual
  | 7 => beW p.ovf
  | 9 => eqOctets fresh p
  | _ => beL (tget 0 p.counts el)

def linkValue (s : State) (l off el : Nat) : List Byte :=
  let c := linkCfg s l
  let k := link s l
  match off, el with
  | 0, 0 => beB c.enable
  | 0, 1 => be 2 c.paths
  | 0, 2 => beL c.asymPs
  | 0, 3 => be 1 c.txPre
  | 0, 4 => be 1 c.txPost
  | 0, _ => be 2 c.txSwing
  | 1, 0 => be 2 (linkState s l)
  | 1, 1 => beW k.peerDev
  | 1, 2 => [k.peerLink]
  | 1, 3 => be 2 (bookedMap s l true).length
  | 1, 4 => be 2 (bookedMap s l false).length
  | 1, 0x0C => beW k.ovf
  | 1, _ => beL (tget 0 k.counts el)
  | 2, _ => pathValue s.fresh k.pathA el
  | 3, _ => pathValue s.fresh k.pathB el
  | _, _ => []

/-! ## Groves, streams, routes (R33, R430, R431) -/

def roleCode : Role → Nat
  | .member => 0
  | .standby => 1
  | .claiming => 2
  | .root => 3
  | .withheld => 4

/-- The largest route hop count to the members known (R430). -/
def diameter (s : State) : Nat := (members s).foldl (fun m d => max m (hopsTo s d)) 0

def groveValue (s : State) (obj el : Nat) : List Byte :=
  let g := s.grove
  match obj, el with
  | 0x0E00, 0 => be 2 s.cfg.priority
  | 0x0E00, 1 => be 2 (roleCode g.role)
  | 0x0E00, 2 => beL (ownClaim s)
  | 0x0E00, 3 => beL g.heard
  | 0x0E00, 4 => [g.heardHops]
  | 0x0E00, 5 => be 1 (g.upstream.getD 0xFF)
  | 0x0E00, 6 => beL g.handovers
  | 0x0E00, 7 => beB g.handoverOvf
  | 0x0E00, _ => beL g.lastStepPs
  | 0x0E01, 1 => be 2 g.drillState
  | 0x0E01, 2 => be 2 g.drillResult
  | 0x0E01, 3 => mtBytes g.drillMt
  | 0x0E01, _ => beW g.drillNewRoot
  | 0x0E10, 0 => beL s.cfg.groveId
  | 0x0E10, 1 => be 2 s.cfg.deviceNumber
  | 0x0E10, 2 => be 2 g.state
  | 0x0E10, 3 => be 2 g.holdCause
  | 0x0E10, 4 => beW g.rootDevice
  | 0x0E10, 5 => be 2 (if joinedGrove s then (members s).length + 1 else 0)
  | 0x0E10, 6 => be 1 (diameter s)
  | 0x0E10, 7 => be 8 g.timeErrNs.toNat
  | 0x0E10, 8 => beL g.epochTag
  | 0x0E10, _ => be 2 ((List.range 4).foldl (fun m l => m + (link s l).join * 16 ^ l) 0)
  | 0x0E20, 0 => be 2 g.offerState
  | 0x0E20, 1 => beW g.offerDevice
  | 0x0E20, _ => [g.holds]
  | _, _ => []

def streamCode : StreamState → Nat
  | .free => 0
  | .defined => 1
  | .pending => 2
  | .admitted => 3
  | .running => 4
  | .rerouting => 5
  | .held => 6

/-- STREAM.STATE: a source or receiver that would carry audio reads HELD while the member is HELD (R416, R431). -/
def streamReport (s : State) (x : Stream) : StreamState :=
  if decide (s.grove.state = 4) && (decide (x.state = .admitted) || decide (x.state = .running) || decide (x.state = .rerouting)) &&
    (x.source || x.receiver) then .held else x.state

/-- SOURCE_DEF as written (R422). -/
def defOctets (x : Stream) : List Byte :=
  if !x.source then be 16 0
  else be 1 x.sdef.cls ++ be 1 x.sdef.channels ++ be 2 x.sdef.latency ++ be 1 x.sdef.margin ++ beB x.sdef.protect ++ beL x.sdef.source ++ be 6 0

def streamValue (s : State) (e el : Nat) : List Byte :=
  let x := stream s e
  match el with
  | 0 => be 2 (streamCode (streamReport s x))
  | 1 => be 1 (bitOf x.source + 2 * bitOf x.transit + 4 * bitOf x.receiver)
  | 2 => beL x.id
  | 3 => defOctets x
  | 6 => beW x.result
  | 7 => beW x.failDevice
  | 8 => [x.hops]
  | 9 => [x.altHops]
  | 10 => beW x.ringPeriods
  | 11 => beL x.subst
  | _ => beB x.substOvf

def routeCode : RouteState → Nat
  | .free => 0
  | .armed => 1
  | .active => 2
  | .removing => 3

def routeValue (s : State) (r el : Nat) : List Byte :=
  let x := route s r
  match el with
  | 0 => be 2 (routeCode x.state)
  | 2 => beL x.source
  | 3 => beL x.dest
  | 4 => be 2 x.channels
  | 5 => be 2 x.cls
  | 6 => be 4 x.moves
  | 7 => beT x.target
  | _ => beW x.result

/-! ## Memories (R250, R262, R273) -/

def patrolCode : PatrolState → Nat
  | .idle => 0
  | .copy => 1
  | .test => 2
  | .restore => 3
  | .paused => 4

/-- Keys held in sets `a` to `b`. -/
def keysHeld (s : State) (a b : Nat) : Nat := (s.heart.keys.filter (fun kv => between a b (kv.1 / 32))).length

/-- MEM_SPARES.ENGINEn: the two program banks, four local banks and the coefficient RAM. -/
def engineSpares (s : State) (n : Nat) : Nat := (List.range 7).foldl (fun m i => m + sparesUsed s (8 * n + i) * 16 ^ i) 0

/-- DLS_DESC.DESCi, of the run that issues (R250). -/
def descOctets (d : Desc) : List Byte :=
  be 1 (4 * bitOf d.packed3 + d.bank) ++ be 3 d.base ++ be 3 d.len ++ be 3 d.head

def memValue (s : State) (k obj el : Nat) : List Byte :=
  let m := s.mem
  let p := m.patrol
  match obj, el with
  | 0x1000, 0x0A => beW m.eccOvf
  | 0x1000, 0x0B => beL m.lastLoc
  | 0x1000, _ => beL (if el < 5 then tget 0 m.corr el else tget 0 m.uncorr (el - 5))
  | 0x1001, 0 => beB s.cfg.patrolOn
  | 0x1001, _ => beW s.cfg.patrolHours
  | 0x1002, 0 => be 2 (patrolCode p.state)
  | 0x1002, 1 => be 4 p.region
  | 0x1002, 2 => beL p.passes
  | 0x1002, 3 => beB p.passOvf
  | 0x1002, 4 => mtBytes p.lastEnd
  | 0x1002, 5 => be 2 p.lastResult
  | 0x1002, 6 => beL s.flash.repair.remapCount
  | 0x1002, _ => beL s.flash.repair.unrepaired
  | 0x1003, 32 => be 1 (sparesUsed s 256)
  | 0x1003, _ => be 4 (engineSpares s el)
  | 0x1004, 0 => be 4 (maskOf 32 (fun b => (cross s b).flag))
  | 0x1004, 0x22 => be 4 (maskOf 32 (fun b => (cross s b).ovf))
  | 0x1004, _ => beL (cross s (el - 2)).count
  | 0x1005, _ => beL (session s k).oldAtomic
  | 0x1010, 0 => be 2 s.heart.state
  | 0x1010, 1 => beL s.heart.wipeCount
  | 0x1010, 2 => be 2 s.heart.lastCause
  | 0x1010, 3 => be 1 (keysHeld s 4 4)
  | 0x1010, 4 => be 1 (keysHeld s 1 3)
  | 0x1010, _ => be 1 (keysHeld s 5 5)
  | _, _ =>
    if obj < 0x1060 then
      let b := bank s (obj - 0x1020)
      match el with
      | 0 => be 2 b.kind
      | 1 => be 1 b.id
      | 2 => beT b.leaseEnd
      | 3 => beB b.zeroPending
      | 0x0B => [b.waitOvf]
      | 0x0C => be 1 (sparesUsed s (257 + (obj - 0x1020)))
      | _ => beL (tget 0 b.waits (el - 4))
    else if obj < 0x1080 then descOctets (tget {} (eng s (obj - 0x1060)).ctx.descs el)
    else beW (tget 0 (cross s ((obj - 0x1080) / 4)).mem ((obj - 0x1080) % 4 * 256 + el))

/-! ## Events, injection, life cycle and keys (R467 to R469, R491, R499, R518) -/

/-- OLDEST_SEQ: of the oldest record held, or of the next. -/
def oldestSeq (s : State) : Long :=
  match s.events.log with
  | [] => s.events.nextSeq
  | v :: _ => v.seq

/-- An event record (R461). -/
def eventOctets (v : Event) : List Byte :=
  beW v.code ++ beW v.unit ++ beL v.seq ++ mtBytes v.mt ++ beL v.arg ++ be 1 (bitOf v.injected + 2 * bitOf v.lostBefore) ++ [0]

/-- Where READ begins for a session: CURSOR inside the log, else OLDEST_SEQ. -/
def readFrom (s : State) (k : Nat) : Long :=
  match (session s k).cursor with
  | some c => if (c - oldestSeq s).toNat ≤ (s.events.nextSeq - oldestSeq s).toNat then c else oldestSeq s
  | none => oldestSeq s

/-- The records that READ returns: at most 10. -/
def logPage (s : State) (k : Nat) : List Event := (s.events.log.drop (readFrom s k - oldestSeq s).toNat).take 10

/-- EVENT_LOG.READ: 240 octets, unused records zero. -/
def logOctets (s : State) (k : Nat) : List Byte :=
  let l := (logPage s k).flatMap eventOctets
  l ++ List.replicate (240 - l.length) 0

/-- Engine debug by life-cycle state (R489, R499): 0 LOCKED, 1 OPEN, 2 UNLOCKED, 3 CLOSED. -/
def debugCode (s : State) : Nat :=
  match s.fuses.life with
  | .deployed => if s.jtag.unlocked then 2 else 0
  | .ended => 3
  | _ => 1

/-- The condition of the keyless session (R491). -/
def keylessOpen (s : State) : Bool :=
  decide (keysHeld s 3 3 = 0) || decide (s.fuses.life = .blank) || decide (s.fuses.life = .returned)

/-- Mask of the keys held in a set. -/
def keyMap (s : State) (set' : Nat) : Nat := maskOf 32 (fun i => s.heart.keys.any (fun kv => decide (kv.1 = set' * 32 + i)))

/-- An injection request in force, with the firings still to come (R513). -/
def injOctets (x : Option Inj) : List Byte :=
  match x with
  | none => be 12 0
  | some i => be 1 (if i.periodic then 2 else 1) ++ [0] ++ beW i.unit ++ beL i.arg ++ beW i.period ++ be 2 (i.left.getD 0)

/-- Injections armed on the device. -/
def armedCount (s : State) : Nat := (s.events.inj.filter (fun kv => kv.2.isSome)).length

def eventValue (s : State) (k obj el : Nat) : List Byte :=
  let v := s.events
  match obj, el with
  | 0x1100, 0 => beL v.nextSeq
  | 0x1100, 1 => beL (oldestSeq s)
  | 0x1100, 2 => beL ((session s k).cursor.getD (oldestSeq s))
  | 0x1100, 3 => logOctets s k
  | 0x1100, 4 => beL v.lost
  | 0x1100, _ => beB v.lostOvf
  | 0x1101, _ => beW (session s k).mask
  | 0x1102, 0 => beL v.mismatches
  | 0x1102, 1 => be 1 (min 4 (v.window.filter (fun t => decide (mtDiff t (now s) < 3600 * rateHz s.clocks.rate * 65536))).length)
  | 0x1102, _ => mtBytes v.lastMismatch
  | 0x1104, 0 => be 2 s.power.faultCause
  | 0x1104, 1 => mtBytes s.power.faultMt
  | 0x1104, _ => be 2 s.power.lastFaultCause
  | 0x1180, 0 => beB v.injOn
  | 0x1180, 1 => beW v.lapseS
  | 0x1180, 2 => be 1 (armedCount s)
  | 0x1180, 3 => beL v.fired
  | 0x1180, _ => beL v.suppressed
  | 0x1200, 0 => be 2 (lifeCode s.fuses.life)
  | 0x1200, 2 => be 1 s.fuses.tamperCount
  | 0x1200, 3 => be 2 (debugCode s)
  | 0x1200, 4 => beB s.cfg.power.debugPermit
  | 0x1200, 5 => beL s.jtag.unlockCount
  | 0x1200, _ => beB (keylessOpen s)
  | 0x1210, _ => be 4 (keyMap s el)
  | _, _ =>
    if obj < 0x1180 then beL (tget 0 v.det ((obj - 0x1110) * 0x1000 + el))
    else injOctets (tget none v.inj ((obj - 0x1180) * 0x1000 + el))

/-! ## Commit groups, grafts, pages (R307 to R309) -/

def groupCode : GroupState → Nat
  | .empty => 0
  | .opened => 1
  | .preparing => 2
  | .armed => 3
  | .locked => 4

/-- GRAFT.STATEn. -/
def graftCode (e : Engine) : Nat :=
  if e.fade.isSome then 3
  else match e.graft with
    | some g => if g.locked then 2 else 1
    | none => 0

/-- FADE_POS: i + 1 of the latest fade frame. -/
def fadePos (s : State) (n : Nat) : Nat :=
  match (eng s n).fade with
  | some f => if isDue (eng s n).mtFrame f.start then fadeIndex s n f + 1 else 0
  | none => 0

def groupValue (s : State) (g el : Nat) : List Byte :=
  if g = 0 then
    let n := el % 32
    let e := eng s n
    if el < 0x20 then be 2 (graftCode e)
    else if el < 0x60 then beT (e.graft.map (·.target))
    else if el < 0x80 then be 2 (fadePos s n)
    else be 2 e.graftResult
  else
    let x := group s g
    match el with
    | 0 => be 2 (groupCode x.state)
    | 3 => be 2 x.pages.length
    | 4 => be 2 (bitOf x.grove)
    | 7 => beT x.target
    | 8 => be 2 x.lastResult
    | 9 => mtBytes x.lastMt
    | 0x0A => beW x.failMember
    | 0x0B => beW x.failCode
    | 0x0E => be 2 x.members.length
    | _ => be 4 (maskOf 32 (fun n => x.grafts.contains n))

def pageCode : PageState → Nat
  | .clean => 0
  | .dirty => 1
  | .armed => 2
  | .bound => 3
  | .gliding => 4
  | .levelling => 5

def pageValue (s : State) (n p el : Nat) : List Byte :=
  let e := eng s n
  let q := page e p
  if el < 0x40 then beW (tget 0 (otherCopy q) el)
  else if 0x80 ≤ el then beW (pageWord q (engClass s n) e.mtFrame false (el - 0x80))
  else match el with
    | 0x40 => be 2 (pageCode q.state)
    | 0x41 => beW q.glideFrames
    | 0x42 => be 2 q.glideForm
    | 0x43 => be 2 (if q.state = .gliding then glideK q (engClass s n) e.mtFrame else 0)
    | _ => [q.group]

/-! ## Any element -/

/-- The device as its ports and bridges report themselves: until a wake enables them again, by their last values (R477, R478). -/
def shown (s : State) : State :=
  if decide (s.power.dev = .dormant) && (s.power.wake.isNone || s.power.portsDue.isSome) then { s with ports := s.power.offPorts, bridges := s.power.offBridges } else s

/-- The value of a readable element at the arrival stamp, as session `k` reads it (R458). -/
def elemValue (s : State) (k obj el : Nat) : List Byte :=
  if obj < 0x0200 then deviceValue s k obj el
  else if obj < 0x0400 then clockValue s obj el
  else if obj < 0x0800 then engineValue s ((obj - 0x0400) / 32) (obj % 32) el
  else if obj < 0x0C00 then sapValue (shown s) ((obj - 0x0800) / 64) (obj % 64) el
  else if obj < 0x0C80 then aesValue (shown s) (16 + (obj - 0x0C00) / 16) (obj % 16) el
  else if obj < 0x0D00 then bridgeValue (shown s) ((obj - 0x0C80) / 8) (obj % 8) el
  else if obj < 0x0E00 then linkValue s ((obj - 0x0D00) / 64) (obj % 64) el
  else if obj < 0x1000 then groveValue s obj el
  else if obj < 0x1100 then memValue s k obj el
  else if obj < 0x1300 then eventValue s k obj el
  else if obj < 0x1400 then groupValue s (obj - 0x1300) el
  else if obj < 0x4000 then pageValue s ((obj - 0x2000) / 128) (obj % 128) el
  else if obj < 0x6000 then streamValue s (obj - 0x4000) el
  else routeValue s (obj - 0x6000) el

end Sys2Proof.Machine
end

