-- ==== Sys2Proof/Machine/Resets.lean ====
section
/-! DEFINITION. Full resets, firmware restarts, life-cycle advances, and what an accepted write does once its reply has been
sent (R415, R447, R454, R466, R480, R481, R484, R487, R489 to R491). -/
namespace Sys2Proof.Machine

def setPower (s : State) (f : Power → Power) : State := { s with power := f s.power }

/-! ## Full reset (R480, R481) -/

/-- The power block after a reset: what boot flash, fuses and the AON domain keep (R481, R484, R504), and the bank voltages, which stand
while VIN is applied (R522). -/
def powerKept (s : State) (cause : Nat) : Power :=
  let p := s.power
  let bad := decide (p.fwState = .writing)
  { resetCause := cause, resetCount := (satInc p.resetCount).1, saveCount := p.saveCount
    slotA := if bad && p.fwSlotB then {} else p.slotA, slotB := if bad && !p.fwSlotB then {} else p.slotB
    fwSlotB := p.fwSlotB, fwPreferredB := p.fwPreferredB
    aonCause := if cause = 1 ∨ cause = 2 then 0 else p.aonCause, bankMv := if cause = 1 ∨ cause = 2 then [] else p.bankMv
    brown := p.brown, rstLow := p.rstLow, held := p.brown || p.rstLow || s.jtag.scanHold }

/-- The regions of the boot flash (R484). -/
inductive FlashRegion where
  | control | slotA | slotB | storeA | storeB | repair | key | reserved | neighbours
  deriving DecidableEq, Repr

/-- Offset and size in octets of a region. -/
def flashRegion : FlashRegion → Nat × Nat
  | .control => (0x00000000, 0x10000)
  | .slotA => (0x00010000, 0x400000)
  | .slotB => (0x00410000, 0x400000)
  | .storeA => (0x00810000, 0x800000)
  | .storeB => (0x01010000, 0x800000)
  | .repair => (0x01810000, 0x10000)
  | .key => (0x01820000, 0x10000)
  | .reserved => (0x01830000, 0x7D0000)
  | .neighbours => (0x02000000, 0x2000000)

/-- The offset of the neighbour record of a link. -/
def neighbourAt (link : Fin 4) : Nat := 0x02000000 + 0x800000 * link.val

/-- What each of the two copies of the boot control block holds (R484). -/
structure BootControl where
  preferredB : Bool
  trial : Bool
  resetCount : Long
  lastCause : Nat
  deriving DecidableEq, Repr

def bootControl (s : State) : BootControl :=
  { preferredB := s.power.fwPreferredB, trial := decide (s.power.fwState = .trial), resetCount := s.power.resetCount, lastCause := s.power.resetCause }

/-- A full reset with its RESET_CAUSE: everything at its default but the queue of commands, fuses, boot flash, and the
neighbour records and identities in it. -/
def fullReset (s : State) (cause : Nat) : State :=
  { State.reset with
    pending := s.pending, fuses := s.fuses, fresh := s.fresh
    flash := { s.flash with writing := none }
    heart := { wipeCount := s.flash.wipeCount }
    power := powerKept s cause
    grove := { holds := s.grove.holds, holdsDev := s.grove.holdsDev, held := s.grove.held }
    jtag := { boundary := s.jtag.boundary, preload := s.jtag.preload, scanHold := s.jtag.scanHold, ir := s.jtag.ir } }

/-- A reset to which the spec gives no cause: RESET_CAUSE is a free value (R492, R485). -/
def resetUncaused (s : State) : State :=
  let (k, s) := draw s
  fullReset s (Config.freeWord k).toNat

/-- The holds on the part's reset, put together. -/
def holdReset (s : State) (brown rstLow scan : Bool) : State :=
  { s with
    power := { s.power with brown := brown, rstLow := rstLow, held := brown || rstLow || scan }
    jtag := { s.jtag with scanHold := scan } }

/-! ## Firmware restarts (R487) -/

/-- A changed compatibility level: links carry management only until the neighbours carry it too (R415, R487). -/
def recheckCompat (s : State) (old : Byte) : State :=
  if ownCompat s = old then s
  else
    let ls := (List.range 4).filter (fun l => decide ((link s l).join = 4))
    let s := ls.foldl (fun s l => endJoin s l 3) s
    if ls.isEmpty then s else setGrove s (fun g => { g with state := 5, holdCause := 2 })

/-- The control core restarts into the other slot's image, in a firmware state. -/
def restartOther (s : State) (st : FwState) : State :=
  let old := ownCompat s
  let s := beginRestart s 2
  recheckCompat (setPower s (fun p => { p with fwSlotB := !p.fwSlotB, fwState := st, trialMismatches := 0, trialAt := now s })) old

/-- A trial ends in the previous image; STATE reads FAILED (R487, R503). -/
def revertTrial (s : State) : State :=
  let s := restartOther s .failed
  detect s 0x6006 devUnit (s.power.fwResult.setWidth 32)

/-! ## Life-cycle advances (R489 to R491) -/

/-- The paths of R489. -/
def mayAdvance : Life → Life → Bool
  | .blank, t => decide (t = .provisioned) || decide (t = .ended)
  | .provisioned, t => decide (t = .deployed) || decide (t = .returned) || decide (t = .ended)
  | .deployed, t => decide (t = .returned) || decide (t = .ended)
  | .returned, t => decide (t = .ended)
  | .ended, _ => false

/-- An advance: the fuse, the wipe of Heartwood, and on entry to RETURNED the erased stores and neighbour records. -/
def advanceLife (s : State) (t : Life) : State :=
  let s := wipeHeart { s with fuses := { s.fuses with life := t } } 5
  let s : State := if t = .returned then
      { s with
        flash := { s.flash with storeA := {}, storeB := {}, writing := none }
        grove := { s.grove with holds := 0, holdsDev := [], held := [] } }
    else s
  let s := detect s 0x7008 devUnit 5
  detect s 0x7009 devUnit (BitVec.ofNat 32 (lifeCode t))

/-! ## Interfaces (R447, R466) -/

/-- The link-local address (R447). -/
def linkLocal : Long :=
  let x := 1 + Config.serial.toNat / 256 % 256 % 254
  let y := Config.serial.toNat % 256
  BitVec.ofNat 32 (0xA9FE0000 + x * 256 + (if y = 0 then 1 else if y = 255 then 254 else y))

/-- The settings of MGMT_NET and MGMT_HQ take effect; a link-local address that comes into use is announced by ARP, to all (R447). -/
def useMgmt (s : State) (c : MgmtCfg) : State :=
  let address := if !c.netEnable then 0 else if c.address = 0 then linkLocal else c.address
  let announce := c.netEnable && decide (c.address = 0) && decide (s.mgmt.activeAddr ≠ linkLocal)
  let s : State := { s with cfg := { s.cfg with mgmt := c }, mgmt := { s.mgmt with activeAddr := address } }
  if announce then sendTo s .ethernet 0xFFFFFFFF 0 .arp else s

/-! ## After the reply -/

/-- A commanded reset: what has been sent, the reply last, is sent before it (R480). -/
def commandReset (s : State) : State :=
  setMgmt (fullReset s 4) (fun _ => { outEth := s.mgmt.outEth, outHq := s.mgmt.outHq, outGrove := s.mgmt.outGrove })

def doAfter (s : State) : After → State
  | .close k => endSession s k
  | .mgmt c => useMgmt s c
  | .reset => commandReset s
  | .activate => restartOther s .trial
  | .revert => revertTrial s
  | .advance t => advanceLife s t

/-- What waited for the reply. -/
def afterReply (s : State) : State :=
  let l := s.mgmt.after
  l.foldl doAfter (setMgmt s (fun m => { m with after := [] }))

/-- Note something for the time after the reply. -/
def later (s : State) (a : After) : State := setMgmt s (fun m => { m with after := m.after ++ [a] })

end Sys2Proof.Machine
end

