-- ==== Sys2Proof/Machine/Power.lean ====
section
/-! DEFINITION. Power states, resets and the boot; adaptive VCORE (R33, R37, R38, R269, R343, R432, R438, R473 to R485, R488). -/
namespace Sys2Proof.Machine

/-! ## Requests (R476, R477) -/

/-- What bars DORMANT (R477). -/
def dormantBars (s : State) : Bool :=
  !s.clocks.sched.isEmpty ||
    s.engines.any (fun kv => kv.2.fade.isSome || kv.2.pages.any (fun p => decide (p.2.state = .gliding))) ||
    s.streams.any (fun kv => kv.2.transit || [StreamState.admitted, .running, .rerouting].contains kv.2.state) ||
    s.power.saving || decide (s.power.fwState = .writing)

/-- The first base-period boundary at or after the arrival stamp + 4 base periods. -/
def powerBoundary (s : State) : MT := periodFrom (mtPlus (now s) (4 * 65536))

/-- A write of POWER_REQ.STATE: the state in force changes nothing; a later request replaces an earlier one. -/
def powerReq (s : State) (r : Req) (code : Nat) : State :=
  writeCmd s r { obj := 0x0101, role := engineer } (fun s =>
    let d := s.power.dev
    if devCode d = code then .ok s
    else if d ≠ .run ∧ d ≠ .quiet ∧ d ≠ .dormant then .error eState
    else if decide (code = 4) && dormantBars s then .error eState
    else .ok (setPower s (fun p => match p.wake with
      | some (_, w) => { p with req := code, wake := some (code, w) }
      | none => { p with req := code, pendingTo := some (code, powerBoundary s) })))

def execQuiet (r : Req) (s : State) : Outc := ok (powerReq s r 3)
def execRun (r : Req) (s : State) : Outc := ok (powerReq s r 2)
def execDormant (r : Req) (s : State) : Outc := ok (powerReq s r 4)

/-! ## Transitions (R37, R38, R179, R476 to R479) -/

/-- An engine restarts at ENTRY with registers and RAM as left, its outputs ramping from zero (R476). -/
def restartEng (e : Engine) : Engine :=
  { e with
    state := .run, stage := .none, prepared := false, newRun := false, faulted := false, nextPub := none, boundaryAt := none
    ctx := freshRun e.ctx e.active.entry, outFade := some (rampFromZero 64) }

/-- An engine leaves GATED as the device returns from QUIET (R179). -/
def ungate (e : Engine) : Engine :=
  if e.state ≠ .gated then e
  else match e.before with
    | .run => restartEng e
    | .sapling | .halted => { e with state := .sapling, running := false, stage := .none }
    | .debug => { e with state := .debug, stage := .none, outFade := some (rampFromZero 64) }
    | b => { e with state := b, stage := .none }

/-- Patrol releases its region and stops (R269). -/
def stopPatrol (s : State) : State :=
  let p := s.mem.patrol
  if patrolBusy p then releaseRegion s true else setPatrol s { p with state := .paused }

/-- Patrol resumes at the next region. -/
def resumePatrol (s : State) : State :=
  let p := s.mem.patrol
  if !s.cfg.patrolOn then s
  else setPatrol s { p with state := if p.state = .paused then .idle else p.state, pauseReq := false }

/-- DORMANT begins: ECPLL and its gate off, ports, bridges and engine logic off, links to low rate. -/
def enterDormant (s : State) : State :=
  let s := setPower s (fun p => { p with dev := .dormant, dividerAt := some (now s), vcoreBefore := p.vcoreMv, pendingTo := none, offPorts := s.ports, offBridges := s.bridges })
  let s := setClocks s (fun c => { c with ecpll := .off, gateOpen := false, restart := false, gapStart := none })
  let s := eachPort s (fun _ q => if q.state = .off then q else { freshPort (now s) q with state := .acquire, aesLocked := false, aesRun := 0, aesBlock := 0 })
  let s := (List.range 16).foldl (fun s b => unlockSide (unlockSide s b false true false) b true true false) s
  let s := eachBridge s (fun _ b =>
    let off (d : Side) : Side := if d.state = .off then d else keepCounts d { state := .unlocked }
    { ingress := off b.ingress, egress := off b.egress })
  (List.range 4).foldl (fun s l => rateChange s l true) (stopPatrol s)

/-- Ports and bridges begin as their configuration enables them (R340, R345, R355). -/
def enablePorts (was : State) : State :=
  let s := setPower was (fun p => { p with portsDue := none })
  let s := (List.range 24).foldl (fun s p =>
    let c := portCfg s p
    if c.enable then
      setPort s p { freshPort (now s) (freshChans c (port s p)) with
        state := .acquire, qualAt := if masterPort s p then some (now s) else none
        capRing := c.capRing, capForm := c.capForm, capMask := c.capMask, capNext := [] }
    else s) s
  (List.range 16).foldl (fun s b =>
    let c := rbCfg s b
    let x := bridge s b
    if c.enable then
      setBridge s b { ingress := keepCounts x.ingress (sideStart s (sideCfg c false) false), egress := keepCounts x.egress (sideStart s (sideCfg c true) true) }
    else s) s

/-- A wake that has come to W + 3 ms enables the ports (R478). -/
def wakePorts (s : State) : State := if s.power.portsDue.any (isDue (now s)) then enablePorts s else s

/-- A wake begins at W (R249, R478): 20 mV more, the memories cleared, ECPLL acquiring, links to full rate; ports are enabled 3 ms later. -/
def beginWake (s : State) (code : Nat) (w : MT) : State :=
  let s := setPower s (fun p => { p with
    wake := some (code, w), pendingTo := none, portsDue := some (mtPlus w (msUnits s 3)), dividerAt := some (now s), vcoreMv := BitVec.ofNat 16 (min 780 (p.vcoreBefore.toNat + 20)) })
  let s := setClocks s (fun c => { c with ecpll := .acquire })
  let s := (List.range 32).foldl (fun s b => setCross (zeroBank s b) b { cross s b with mem := [], waitCc := [], waitLink := [] }) s
  let s := dropMarks s (fun l => decide (l / 2 ^ 29 = 4))
  resumePatrol ((List.range 4).foldl (fun s l => rateChange s l (link s l).lowPeer) s)

/-- POWER_TRANSITION: a requested change at its boundary. DORMANT follows the 64 samples of the output fade, which began at the boundary from
RUN and at the entry of QUIET: code 5 stands for what is left of the change. -/
def execPowerTransition (s : State) : Outc :=
  match s.power.pendingTo with
  | none => ok s
  | some (code, b) =>
    if !isDue (now s) b then ok s
    else
      let t := { s with power := { s.power with pendingTo := none } }
      match s.power.dev, code with
      | .run, 3 => ok (setPower (gateEngs t) (fun p => { p with dev := .quiet, quietAt := now s }))
      | .quiet, 2 => ok (setPower (eachEng t ungate) (fun p => { p with dev := .run }))
      | .run, 4 => ok (setPower (gateEngs t) (fun p => { p with pendingTo := some (5, mtPlus b (64 * 65536)) }))
      | .run, 5 => ok (enterDormant (gateEngs t))
      | .quiet, 4 =>
        let faded := mtPlus s.power.quietAt (64 * 65536)
        if isDue (now s) faded then ok (enterDormant (gateEngs t)) else ok (setPower t (fun p => { p with pendingTo := some (5, faded) }))
      | .quiet, 5 => ok (enterDormant (gateEngs t))
      | .dormant, _ => ok (beginWake t code b)
      | _, _ => ok t

/-- WAKE_PIN: the configured edge in DORMANT; the spec does not say which state it wakes to (R478). -/
def execWakePin (gpio : Fin 14) (falling : Bool) (s : State) : Outc :=
  let c := s.cfg.power
  if decide (s.power.dev = .dormant) && s.power.wake.isNone && decide (c.wakeGpio.toNat = gpio.val) && decide (c.wakeEdge = bitOf falling) then
    let (k, s) := draw s
    ok (setPower s (fun p => { p with pendingTo := some (2 + (Config.freeWord k).toNat % 2, boundaryFrom 3 (mtPlus (now s) 1)) }))
  else ok s

/-- An engine at the end of a wake (R479): registers at their start values, EMODE and descriptors from the image, RAM kept. -/
def wakeEng (e : Engine) : Engine :=
  if e.state ≠ .gated then e
  else
    let fresh : Engine := { e with ctx := { startCtx e.active e.ctx with cycle := 0 }, alt := {}, frameCtr := 0, ctrLatch := 0 }
    match e.before with
    | .run => fresh
    | .sapling | .halted => { e with state := .idle, active := {}, running := false, stage := .none, powered := false }
    | _ => fresh

/-- WAKE_COMPLETE: at the first base-period boundary at or after W + 40 ms. -/
def execWakeComplete (s : State) : Outc :=
  match s.power.wake with
  | none => ok s
  | some (code, w) =>
    if !(decide (s.power.dev = .dormant) && isPeriod (now s) && isDue (now s) (mtPlus w (msUnits s 40))) then ok s
    else
      let s := eachEng s wakeEng
      let s := if code = 2 then eachEng s ungate else gateEngs s
      ok (setPower s (fun p => { p with wake := none, portsDue := none, dev := if code = 2 then .run else .quiet }))

/-! ## Resets (R473, R480) -/

/-- POWER_REQ.CMD RESET: applied after the reply. -/
def resetCmd (s : State) (r : Req) : State := writeCmd s r { obj := 0x0101, role := custodian } (fun s => .ok (later s .reset))
def execReset (r : Req) (s : State) : Outc := ok (afterReply (resetCmd s r))

/-- POR: VIN has been above 1.70 V for 1 ms: power-on reset, or the end of a brown-out's. -/
def execPor (s : State) : Outc :=
  if s.power.brown then ok (holdReset s false s.power.rstLow s.jtag.scanHold) else ok (fullReset s 1)

def execBrownout (s : State) : Outc :=
  if s.power.brown then ok s
  else ok (fullReset (holdReset s true s.power.rstLow s.jtag.scanHold) 2)

/-- RESET_N held low resets the part; its rise releases it. -/
def execResetN (high : Bool) (s : State) : Outc :=
  if high then ok (holdReset s s.power.brown false s.jtag.scanHold)
  else if s.power.rstLow then ok s
  else ok (fullReset (holdReset s s.power.brown true s.jtag.scanHold) 3)

/-! ## Firmware images (R485) -/

/-- The layout that the boot ROM and a close check: MAGIC, FORMAT, reserved bytes and LENGTH. -/
def fwLayout (image : List Byte) : Bool :=
  decide (beAt image 0 4 = 0x46514657) && decide (beAt image 4 2 = 1) && decide (beAt image 7 1 = 0) &&
    decide (beAt image 8 4 = image.length) && between 128 1572864 image.length && ((image.drop 24).take 40).all (fun b => decide (b = 0))

/-- ROLLBACK is at least the fused minimum. -/
def fwRollback (s : State) (image : List Byte) : Bool := decide (s.fuses.rollbackMin.toNat ≤ beAt image 16 4)

/-- The signature verifies against the firmware key. -/
def fwSigned (image : List Byte) : Bool :=
  let n := image.length - 64
  Config.ecdsaVerify Config.firmwareKey (Config.sha256 (image.take n)) (image.drop n)

/-- What a slot holds once an image is in it. -/
def fwSlotOf (image : List Byte) : FwSlot :=
  { image := image, valid := true, version := BitVec.ofNat 32 (beAt image 12 4), compat := BitVec.ofNat 8 (beAt image 6 1)
    rollback := BitVec.ofNat 32 (beAt image 16 4) }

/-- What the boot ROM asks of a slot: an image, its layout and signature by the verdict `good`, and ROLLBACK. The image that an update
wrote is known, and checked here; of one from the factory the verdict is all there is. -/
def slotGood (x : FwSlot) (good : Bool) : Bool :=
  good && x.valid && (x.image.isEmpty || (fwLayout x.image && fwSigned x.image))

/-! ## Boot (R483, R488) -/

/-- The slot that the boot ROM starts, where it accepts one: the preferred first (R485). `okA` and `okB` are its verdicts on
layout and signature. -/
def bootSlot (s : State) (okA okB : Bool) : Option Bool :=
  let min := s.fuses.rollbackMin.toNat
  let a := slotGood s.power.slotA okA && decide (min ≤ s.power.slotA.rollback.toNat)
  let b := slotGood s.power.slotB okB && decide (min ≤ s.power.slotB.rollback.toNat)
  if s.power.fwPreferredB then (if b then some true else if a then some false else none)
  else (if a then some false else if b then some true else none)

/-- Steps 2 to 4: firmware, clocks, Heartwood from its record, SAPLING, and RESET as the first record. -/
def bootFirmware (s : State) (slotB : Bool) (straps : Nat) (okA okB : Bool) : State :=
  let f := s.flash
  let mine := decide (f.keyLife = s.fuses.life) && decide (f.keyTamper = s.fuses.tamperCount)
  let keys := if mine then f.keyRecord else []
  let s : State := { s with
    heart := { s.heart with keys := keys, identity := Config.identityKey Config.deviceSecret, state := if keys.isEmpty then 0 else 1 }
    power := { s.power with
      dev := .sapling, fwSlotB := slotB, fwFallback := slotB != s.power.fwPreferredB, vcoreMv := 780, recovery := false
      slotA := { s.power.slotA with valid := slotGood s.power.slotA okA }, slotB := { s.power.slotB with valid := slotGood s.power.slotB okB }
      lastFaultCause := s.power.aonCause }
    clocks := { s.clocks with xoFreq := straps, scpllLock := true, lkpllLock := true } }
  drainQueue (detect s 0x7001 devUnit (BitVec.ofNat 32 s.power.resetCause))

/-- Step 5: ECPLL searches every family and locks; engines are tested; links train. Which test failed, the bands and the
ceiling are carried by no command. -/
def bootSelfTest (s : State) (failed : Long) : State :=
  let (k, s) := draw s
  let s := [0, 1, 2].foldl (fun s f => storeBand s f (Config.freeWord (k + f)) s.power.tjC) { s with fresh := k + 3 }
  let s := setClocks s (fun c => { c with ceiling := Config.freeLong k, ecpll := .locked, gateOpen := true })
  let s := setPower s (fun p => { p with engFail := failed })
  (List.range 32).foldl (fun s n =>
    if failed.getLsbD n then
      let (k, s) := draw s
      detect (modEng s n (fun e => { e with selfTestFailed := true })) 0x2015 n (Config.freeLong k)
    else s) s

/-- The common boundary at which stored images and routes start: the first after RUN of every class in use (R483, R488). -/
def bootBoundary (s : State) : MT :=
  let c := (List.range 32).foldl (fun m n => max m (engClass s n)) 3
  boundaryFrom c (mtPlus (now s) 1)

/-- An image of the store, through the loader's checks into the standby bank, armed as a cut graft (R488). -/
def bootImage (t : MT) (s : State) (n : Nat) (raw : List Byte) : State :=
  let bad (s : State) : State := setPower s (fun p => { p with loadFail := p.loadFail ||| BitVec.ofNat 32 (2 ^ n) })
  if (eng s n).selfTestFailed then bad s
  else match loadImage s (Fin.ofNat 32 n) raw with
    | .error c => bad (loadFails s n c)
    | .ok b =>
      let s := modEng s n (fun e => { e with standby := b, standbyState := 3, loadResult := eOK, graft := some ⟨0, 0, 0, t, false⟩ })
      schedAdd s t [.graft n]

/-- A saved route, armed for the same boundary, or FREE with the code of the check that fails (R33). -/
def bootRoute (t : MT) (s : State) (r : Nat) (x : Route) : State :=
  if !epRange s x.source x.channels false || !epRange s x.dest x.channels true then setRoute s r { result := eRange }
  else match routeAdmit s r x.source x.dest x.cls x.channels t (.routeAdd r) with
    | some c => setRoute s r { result := c }
    | none =>
      setRoute (schedAdd s t [.routeAdd r]) r { x with
        state := .armed, moves := routeMoves s x.source x.dest x.cls x.channels, target := some t, result := eOK }

/-- Streams of the store: sources are defined, subscriptions wait for the device to join (R432). -/
def bootStreams (s : State) : State :=
  let s := s.cfg.sources.foldl (fun s kv => setStream s kv.1 { stream s kv.1 with
    state := .defined, source := true, id := BitVec.ofNat 32 (s.cfg.deviceNumber * 65536 + kv.1), sdef := kv.2 }) s
  s.cfg.subs.foldl (fun s kv => setStream s kv.1 { stream s kv.1 with state := .pending, receiver := true, id := kv.2.1, dest := kv.2.2 }) s

/-- A configuration is applied in the order of R488: values, ENGINE leases, images and routes for one boundary, streams. -/
def applyConfig (s : State) (cfg : Persist) (epoch : Long) (leases : List (Nat × Nat)) (images : Tbl (List Byte)) (routes : Tbl Route) : State :=
  let s : State := { s with cfg := cfg }
  let s := leases.foldl (fun s x => applyLease s x.1 1 x.2 false none) s
  let s : State := { s with epoch := epoch, grove := { s.grove with changeReported := false } }
  let t := bootBoundary s
  let s := images.foldl (fun s kv => bootImage t s kv.1 kv.2) s
  let s := routes.foldl (fun s kv => bootRoute t s kv.1 kv.2) s
  bootStreams s

/-- The octets of a store's images. -/
def storeImages (c : Store) : Tbl (List Byte) := c.images.map (fun kv => (kv.1, kv.2.raw))

/-- Step 6: the store's current copy in the order of R488, or defaults with their record. -/
def bootStore (s : State) : State :=
  let c := currentStore s
  if !c.valid then detect (setPower s (fun p => { p with storeUsed := 0 })) 0x6008 devUnit 0
  else applyConfig (setPower s (fun p => { p with storeUsed := if storeIsB s.flash then 2 else 1 })) c.cfg c.epoch c.leases (storeImages c) c.routes

/-- What the settings put in motion: paths in training, ports, the grove's role, patrol, the interfaces. -/
def bootSettings (s : State) : State :=
  let s := (List.range 4).foldl (fun s l => [false, true].foldl (fun s b =>
    if pathOn (linkCfg s l) b then startPath s l b else s) s) s
  let s := setGrove s (fun g => { g with role := quietRole s, state := if s.cfg.groveId = 0 then 0 else 1, firstJoin := false })
  let s := setPatrol s { s.mem.patrol with state := if s.cfg.patrolOn then .idle else .paused }
  let s := setClocks s (fun c => { c with clkoutApplied := s.cfg.clocks })
  useMgmt (enablePorts s) s.cfg.mgmt

/-- The voltages of the four banks, measured once VCORE is in regulation after power-on (R522): 1.8, 2.5 or 3.3 V, bank D 1.8 or 2.5 V. No
command carries them: they are free values. -/
def measureBanks (s : State) : State :=
  if !s.power.bankMv.isEmpty then s
  else
    let (k, s) := draw s
    let v := (Config.freeLong k).toNat
    let mv (b : Nat) : Nat := match v / 4 ^ b % (if b = 3 then 2 else 3) with
      | 0 => 1800
      | 1 => 2500
      | _ => 3300
    setPower s (fun p => { p with bankMv := (List.range 4).map (fun b => (b, mv b)) })

/-- The thresholds of a bank's inputs in mV, at or above which a ball is high and at or below which it is low, by its measured voltage (R522,
R526). -/
def bankThresholds (s : State) (b : Nat) : Option (Nat × Nat) :=
  match tget 0 s.power.bankMv b with
  | 1800 => some (1170, 630)
  | 2500 => some (1700, 700)
  | 3300 => some (2000, 800)
  | _ => none

/-- BOOT: from the release of reset to RUN; with no firmware accepted, recovery. -/
def execBoot (straps : BitVec 2) (failed : Long) (bootMs : Long) (slotA slotB : Bool) (s : State) : Outc :=
  if decide (s.power.dev ≠ .booting) || s.power.held then ok s
  else
    let s := measureBanks s
    match bootSlot s slotA slotB with
    | none => ok (setPower s (fun p => { p with recovery := true }))
    | some b =>
      let s := bootSelfTest (bootFirmware s b straps.toNat slotA slotB) failed
      ok (setPower (bootSettings (bootStore s)) (fun p => { p with dev := .run, req := 2, bootMs := bootMs }))

/-! ## Adaptive VCORE (R474) -/

/-- The power manager adjusts VCORE while the part is powered and out of reset. -/
def vcoreRuns (s : State) : Bool := !s.power.held

def execVcoreRaise (s : State) : Outc :=
  if vcoreRuns s then ok (setPower s (fun p => { p with vcoreMv := BitVec.ofNat 16 (min 780 (p.vcoreMv.toNat + 5)) })) else ok s

def execVcoreLower (s : State) : Outc :=
  if vcoreRuns s then ok (setPower s (fun p => { p with vcoreMv := BitVec.ofNat 16 (max 620 (p.vcoreMv.toNat - 5)) })) else ok s

/-- SLACK_LIMIT at 0.78 V. -/
def slackOut (s : State) (monitor : Nat) (inj : Bool) : State :=
  detectAs (setPower s (fun p => { p with slackEvents := satInc31 p.slackEvents })) 0x7002 devUnit (BitVec.ofNat 32 monitor) inj

def execSlackLimit (monitor : Fin 16) (s : State) : Outc := if s.power.vcoreMv = 780 then ok (slackOut s monitor.val false) else ok s

end Sys2Proof.Machine
end

