-- ==== Sys2Proof/Machine/Firmware.lean ====
section
/-! DEFINITION. Live firmware update, the life cycle, monitors and tamper, lockstep and restarts of the control core (R34, R35,
R271, R272, R484 to R487, R489 to R491, R493, R504 to R509). -/
namespace Sys2Proof.Machine

/-! ## Firmware updates (R486) -/

/-- The slot that is not running. -/
def setOtherSlot (p : Power) (x : FwSlot) : Power := if p.fwSlotB then { p with slotA := x } else { p with slotB := x }

/-- The checks of R486 at a close of FW_UPDATE.IMAGE, and the write begun. -/
def beginFwWrite (s : State) (image : List Byte) : Except Word State :=
  let p := s.power
  if p.fwState = .writing ∨ p.fwState = .trial then .error eState
  else if !fwLayout image || !fwRollback s image then .error eRange
  else if !fwSigned image then .error eIntegrity
  else if BitVec.ofNat 8 (beAt image 6 1) ≠ ownCompat s ∧ !p.compatChange then .error eConflict
  else .ok (setPower s (fun p => { setOtherSlot p {} with fwState := .writing, fwIncoming := some (fwSlotOf image) }))

def execFwImageWrite (r : Req) (image : List Byte) (s : State) : Outc :=
  ok (closeCmd s r { obj := 0x0140, role := custodian } image.length (fun s => beginFwWrite s image))

/-- FW_WRITE_COMPLETE: the slot written and read back, or invalid. -/
def execFwWriteComplete (good : Bool) (s : State) : Outc :=
  match s.power.fwState, s.power.fwIncoming with
  | .writing, some x =>
    if good then
      ok (setPower s (fun p => { setOtherSlot p x with fwState := .ready, fwIncoming := none, fwResult := eOK }))
    else
      let s := setPower s (fun p => { setOtherSlot p {} with fwState := .failed, fwIncoming := none, fwResult := eIntegrity })
      ok (detect s 0x6006 devUnit (eIntegrity.setWidth 32))
  | _, _ => ok s

/-! ## FW_UPDATE.CMD (R487) -/

/-- The device coordinates a commit group that is PREPARING or ARMED. -/
def coordinates (s : State) : Bool :=
  s.groups.any (fun kv => kv.2.coordinating && (decide (kv.2.state = .preparing) || decide (kv.2.state = .armed)))

def activateCmd (s : State) (r : Req) : State :=
  writeCmd s r { obj := 0x0140, role := custodian } (fun s =>
    if s.power.fwState ≠ .ready then .error eState
    else if s.power.saving then .error eBusy
    else if coordinates s then .error eState
    else .ok (later s .activate))

def execActivate (r : Req) (s : State) : Outc := ok (afterReply (activateCmd s r))

def confirmCmd (s : State) (r : Req) : State :=
  writeCmd s r { obj := 0x0140, role := custodian } (fun s =>
    if s.power.fwState ≠ .trial then .error eState
    else
      let x := (runSlot s).rollback
      .ok { s with
        power := { s.power with fwPreferredB := s.power.fwSlotB, fwState := .idle }
        fuses := { s.fuses with rollbackMin := if s.fuses.rollbackMin.toNat < x.toNat then x else s.fuses.rollbackMin } })

def execFwConfirm (r : Req) (s : State) : Outc := ok (confirmCmd s r)

def discardCmd (s : State) (r : Req) : State :=
  writeCmd s r { obj := 0x0140, role := custodian } (fun s =>
    match s.power.fwState with
    | .ready => .ok (setPower s (fun p => { setOtherSlot p {} with fwState := .idle }))
    | .trial => .ok (later s .revert)
    | _ => .error eState)

def execDiscard (r : Req) (s : State) : Outc := ok (afterReply (discardCmd s r))

/-- TRIAL_TIMEOUT: TRIAL_S has passed without a CONFIRM. -/
def execTrialTimeout (s : State) : Outc :=
  if decide (s.power.fwState = .trial) && passed s s.power.trialAt (1000 * s.cfg.power.trialS.toNat) then ok (revertTrial s) else ok s

/-- TRIAL_DICTIONARY_TIMEOUT: the dictionary has not returned within 2 s of the restart. -/
def execTrialDictionaryTimeout (s : State) : Outc :=
  if decide (s.power.fwState = .trial) && s.power.ccDown.isSome && passed s s.power.ccAt 2000 then ok (revertTrial s) else ok s

/-! ## LIFECYCLE.ADVANCE (R490) -/

/-- A life-cycle state by its code (R468). -/
def lifeOf (c : Byte) : Life :=
  match c.toNat with
  | 0 => .blank
  | 1 => .provisioned
  | 2 => .deployed
  | 3 => .returned
  | _ => .ended

/-- The advances that a keyless session may ask for: BLANK to PROVISIONED, and ENDED. -/
def keylessMay (life t : Life) : Bool := decide (t = .ended) || (decide (life = .blank) && decide (t = .provisioned))

def advanceCmd (s : State) (r : Req) (target reserved : Byte) (serial : BitVec 64) : State :=
  writeCmd s r
    { obj := 0x1200, role := custodian, keyless := true
      range := decide (target.toNat ≤ 4) && decide (reserved = 0) && decide (serial = Config.serial) } (fun s =>
    let t := lifeOf target
    if !mayAdvance s.fuses.life t then .error eState
    else if (session s r.sess.val).keyless && !keylessMay s.fuses.life t then .error eDenied
    else .ok (later s (.advance t)))

def execAdvance (r : Req) (target reserved : Byte) (serial : BitVec 64) (s : State) : Outc :=
  ok (afterReply (advanceCmd s r target reserved serial))

/-! ## Monitors and tamper (R493, R506, R507) -/

/-- A detection of the AON domain: made before media time runs, it carries MT 0 (R501, R507). -/
def detectAon (s : State) (code : Nat) (arg : Long) : State :=
  if s.power.dev = .booting then record (countDet s code) code devUnit arg MT.zero false else detect s code devUnit arg

/-- Steps 1 to 3 of R507: the wipe and the tamper count, sessions, then the trip's record and HEARTWOOD_WIPED. The 255th event
advances the device to ENDED. -/
def tripWipe (s : State) (cause code : Nat) (arg : Long) : State :=
  let s := wipeHeart s cause
  let n := min 255 (s.fuses.tamperCount + 1)
  let ends := decide (n = 255) && decide (s.fuses.life ≠ .ended)
  let s : State := { s with fuses := { s.fuses with tamperCount := n, life := if ends then .ended else s.fuses.life } }
  let s := detectAon (detectAon s code arg) 0x7008 (BitVec.ofNat 32 cause)
  if ends then detectAon s 0x7009 4 else s

def execTamper (s : State) : Outc := ok (tripWipe s 1 0x7004 0)

/-- VMON_TRIP: a voltage out of its range for 2 µs, VIN being above 1.62 V; the monitor runs in reset too. -/
def execVmonTrip (sram : Bool) (s : State) : Outc :=
  ok (enterFault (tripWipe s 2 0x7005 (if sram then 2 else 1)) 4)

/-- SCLK is divided for DORMANT. -/
def sclkDivided (s : State) : Bool := decide (s.power.dev = .dormant) && s.power.wake.isNone

/-- The counting window of 1 ms that ends now includes a change of SCLK's divider. -/
def windowCut (s : State) : Bool := s.power.dividerAt.any (fun t => !passed s t 1)

/-- The clock monitor counts while SCPLL reports lock; its band follows the divider, and a window that includes a change of it is discarded. -/
def execCmonTrip (mhz : Long) (s : State) : Outc :=
  let m := if sclkDivided s then 4 * mhz.toNat else mhz.toNat
  if !s.clocks.scpllLock || windowCut s || between 375 625 m then ok s else ok (enterFault (tripWipe s 3 0x7006 mhz) 5)

def execTmonTrip (tj : Word) (s : State) : Outc :=
  if decide (tj.toInt ≤ 125) && decide (-55 ≤ tj.toInt) then ok s
  else ok (enterFault (tripWipe (noteTj s tj) 4 0x7007 (tj.signExtend 32)) 6)

/-- TJ_WARNING: Tj rises through 105 °C. -/
def tjWarn (s : State) (arg : Long) (inj : Bool) : State := detectAs s 0x7003 devUnit arg inj

def execTjWarning (tj : Word) (s : State) : Outc :=
  if s.power.tjArmed && decide (105 ≤ tj.toInt) then
    ok (setPower (tjWarn (noteTj s tj) (tj.signExtend 32) false) (fun p => { p with tjArmed := false }))
  else ok (noteTj s tj)

/-- Tj has fallen below 100 °C. -/
def execTjWarningRearm (s : State) : Outc := ok (setPower s (fun p => { p with tjArmed := true }))

/-! ## Lockstep and restarts (R508, R509) -/

/-- The non-injected mismatches within the last 3,600 s. -/
def mismatchWindow (s : State) : List MT :=
  s.events.window.filter (fun t => decide (mtDiff t (now s) < msUnits s 3600000))

/-- A mismatch: both cores stop and a restart begins. The fifth within the window enters FAULT instead, and in a trial the
second restarts into the previous image; injected ones count for neither. -/
def lockstepHit (s : State) (cycle : Long) (inj : Bool) : State :=
  let w := mismatchWindow s
  let s := writeCut s (detectAs (beginRestart s 1) 0x6005 devUnit cycle inj)
  let s : State := { s with events := { s.events with
    mismatches := satInc31 s.events.mismatches, lastMismatch := now s, window := if inj then w else (w ++ [now s]).take 4 } }
  if inj then s
  else if 4 ≤ w.length then drainQueue (enterFault (setPower (skipRestart s) (fun p => { p with ccDown := none })) 3)
  else if s.power.fwState ≠ .trial then s
  else if s.power.trialMismatches + 1 = 2 then revertTrial s
  else setPower s (fun p => { p with trialMismatches := p.trialMismatches + 1 })

/-- The control core runs, so that its comparators have something to compare. -/
def execLockstep (cycle : Long) (s : State) : Outc := if coreUp s then ok (lockstepHit s cycle false) else ok s

/-- CC_RESTART: the dictionary returns. -/
def execCcRestart (s : State) : Outc :=
  match s.power.ccDown with
  | none => ok s
  | some c =>
    if decide (s.power.dev = .fault) && [1, 2, 5].contains s.power.faultCause || (decide (c = 3) && !s.clocks.scpllLock) then ok s
    else ok (resumePatrol (detect (drainQueue (setPower (skipRestart s) (fun p => { p with ccDown := none }))) 0x6004 devUnit (BitVec.ofNat 32 c)))

end Sys2Proof.Machine
end

