-- ==== Sys2Proof/Machine/Store.lean ====
section
/-! DEFINITION. The configuration store and the keys (R270, R272, R454, R465, R469, R488, R489, R491). -/
namespace Sys2Proof.Machine

/-! ## CONFIG_SAVE (R465) -/

/-- SAVE: every persistent value as it stands at the arrival stamp goes to the inactive copy. -/
def saveCmd (s : State) (r : Req) : State :=
  writeCmd s r { obj := 0x0111, role := engineer } (fun s =>
    if s.power.saving then .error eBusy
    else .ok { s with flash := { s.flash with writing := some (snapshot s) }, power := { s.power with saving := true } })

def execSave (r : Req) (s : State) : Outc := ok (saveCmd s r)

/-- SAVE_COMPLETE: the copy written and verified becomes the current one; a write failure leaves the previous copy current. -/
def execSaveComplete (good : Bool) (s : State) : Outc :=
  match s.flash.writing with
  | none => ok s
  | some c =>
    let f := { s.flash with writing := none }
    if good then
      ok { s with
        flash := { f with
          storeA := if storeIsB f then { c with valid := true } else f.storeA
          storeB := if storeIsB f then f.storeB else { c with valid := true }
          currentB := !storeIsB f, savedEpoch := c.epoch }
        power := { s.power with saving := false, saveResult := eOK, saveCount := (satInc s.power.saveCount).1 } }
    else
      ok (detect { s with flash := f, power := { s.power with saving := false, saveResult := eIntegrity } }
        0x6007 devUnit (eIntegrity.setWidth 32))

/-- ERASE_STORE: both copies empty; values in use, the repair record and the key record stay. -/
def eraseCmd (s : State) (r : Req) : State :=
  writeCmd s r { obj := 0x0111, role := custodian } (fun s =>
    if s.power.saving then .error eBusy else .ok { s with flash := { s.flash with storeA := {}, storeB := {} } })

def execEraseStore (r : Req) (s : State) : Outc := ok (eraseCmd s r)

/-! ## Keys (R469) -/

/-- Place of a key in Heartwood. -/
def keyAt (set index : Byte) : Nat := set.toNat * 32 + index.toNat

def zeros (l : List Byte) : Bool := l.all (fun b => decide (b = 0))

/-- SET, INDEX and octets 3 to 7 within their ranges, and 64 octets of material (check 1). -/
def keyFields (set index : Byte) (reserved : BitVec 40) (material : List Byte) : Bool :=
  between 1 5 set.toNat && decide (index.toNat ≤ if set = 4 then 15 else 31) && decide (reserved = 0) &&
    decide (material.length = 64)

/-- Life-cycle states that take no key of a set (R453, R489). -/
def keysBarred (s : State) (set : Byte) : Bool :=
  match s.fuses.life with
  | .blank | .ended => true
  | .returned => decide (set ≠ 5)
  | _ => false

/-- The key that material spells (check 2). -/
def keyOf (s : State) (r : Req) (set : Byte) (material : List Byte) : Option (List Byte) :=
  if set = 5 then if Config.onCurve material then some material else none
  else
    (Config.unwrapKey (Config.hmac (session s r.sess.val).sessKey [0x4B, 0x4D, 0x50, 0x2D, 0x57]) (material.take 40)).filter
      (fun k => decide (k.length = 32))

/-- Heartwood with other keys, written at once to the encrypted record (R272). -/
def storeKeys (s : State) (keys : Tbl (List Byte)) : State :=
  { s with
    heart := { s.heart with keys := keys, state := if keys.isEmpty then 0 else 1 }
    flash := { s.flash with keyRecord := keys, keyLife := s.fuses.life, keyTamper := s.fuses.tamperCount } }

/-- The sessions that `p` names end once the reply has been sent (R454). -/
def closeLater (s : State) (p : Session → Bool) : State :=
  (List.range 16).foldl (fun s k => if decide ((session s k).phase ≠ 0) && p (session s k) then later s (.close k) else s) s

/-- Sessions that a key opened. -/
def openedWith (set index : Byte) (x : Session) : Bool :=
  !x.keyless && decide (x.role = set.toNat) && decide (x.keyIndex = index)

def keyInstallCmd (s : State) (r : Req) (set index : Byte) (reserved : BitVec 40) (material : List Byte) : State :=
  writeCmd s r
    { obj := 0x1210, role := custodian, keyless := true
      range := keyFields set index reserved material && (decide (set = 5) || zeros (material.drop 40)) } (fun s =>
    if keysBarred s set then .error eState
    else match keyOf s r set material with
      | none => .error eIntegrity
      | some k =>
        let first := decide (set = 3) && decide (keysHeld s 3 3 = 0)
        let s := storeKeys s (tset [] s.heart.keys (keyAt set index) k)
        .ok (closeLater s (fun x => openedWith set index x || (first && x.keyless))))

def keyDeleteCmd (s : State) (r : Req) (set index : Byte) (reserved : BitVec 40) (material : List Byte) : State :=
  writeCmd s r
    { obj := 0x1210, role := custodian, keyless := true, range := keyFields set index reserved material && zeros material } (fun s =>
    if keysBarred s set && decide (s.fuses.life = .returned) then .error eState
    else if (tget [] s.heart.keys (keyAt set index)).isEmpty then .error eNoElement
    else if decide (set = 3) && decide (keysHeld s 3 3 = 1) then .error eConflict
    else
      let s := storeKeys s (tset [] s.heart.keys (keyAt set index) [])
      .ok (closeLater s (openedWith set index)))

def execKeyInstall (r : Req) (set index : Byte) (reserved : BitVec 40) (material : List Byte) (s : State) : Outc :=
  ok (afterReply (keyInstallCmd s r set index reserved material))

def execKeyDelete (r : Req) (set index : Byte) (reserved : BitVec 40) (material : List Byte) (s : State) : Outc :=
  ok (afterReply (keyDeleteCmd s r set index reserved material))

end Sys2Proof.Machine
end

