-- ==== Sys2Proof/Machine/Sessions.lean ====
section
/-! DEFINITION. Messages, sessions and transports (R440 to R442, R447 to R455, R459, R485, R491, R503). -/
namespace Sys2Proof.Machine

/-! ## Requests arrive (R442, R455, R459) -/

/-- The interface's number in events and SESSIONS (R466). -/
def ifaceArg (i : Iface) : Long := BitVec.ofNat 32 (ifaceNo i + 1)

/-- An interface that its ENABLE has not switched off. -/
def ifaceOn (s : State) (i : Iface) : Bool :=
  match i with
  | .ethernet => s.cfg.mgmt.netEnable
  | .hq => s.cfg.mgmt.hqEnable
  | .grove => true

/-- A message discarded and counted (R442). -/
def kmpDrop (s : State) (i : Iface) : State := countStat s 6 i

/-- A body that steps 1 and 2 of R456 refuse: shorter than 6 octets, or OP, COUNT or the reserved octet outside R443. -/
def badBody (body : List Byte) : Option Word :=
  let op := beAt body 0 1
  let n := beAt body 1 1
  if body.length < 6 then some eLength
  else if !between 1 6 op || !between 1 (if op ≤ 2 then 64 else 1) n || decide (beAt body 5 1 ≠ 0) then some eRange
  else none

/-- The session's open transfer of an element. -/
def transferOf (s : State) (r : Req) (obj : Word) (el : Byte) : Option Transfer :=
  (session s r.sess.val).transfer.filter (fun t => decide (t.obj = obj) && decide (t.elem = el))

/-- Octets received without a gap from offset 0. -/
def gapAfter : Tbl (Option Byte) → Nat → Nat
  | [], n => n
  | (k, _) :: l, n => if k = n then gapAfter l (n + 1) else n

def receivedOf (t : Transfer) : Nat := gapAfter t.octets 0

/-- RECEIVED of a reply. -/
def receivedNow (s : State) (r : Req) (obj : Word) (el : Byte) : List Byte :=
  be 4 ((transferOf s r obj el).elim 0 receivedOf)

/-- OBJECT and ELEMENT of a REQUEST's body (R443). -/
def bodyObj (body : List Byte) : Word := BitVec.ofNat 16 (beAt body 2 2)
def bodyElem (body : List Byte) : Byte := BitVec.ofNat 8 (beAt body 4 1)

/-- The data of a reply that reports a failure, by OP (R444): RECEIVED, or TOTAL of a value that is not read. -/
def failData (s : State) (r : Req) (op : Nat) (obj : Word) (el : Byte) : List Byte :=
  if op = 4 ∨ op = 5 then receivedNow s r obj el
  else if op = 6 then be 4 (Config.unreadTotal obj el).toNat
  else []

/-- R455 and R459: a cached reply again, STALE_SEQUENCE, BUSY, or a place in the queue. -/
def requestIn (s : State) (i : Iface) (r : Req) (body : List Byte) : State :=
  let k := r.sess.val
  let x := session s k
  let s := heardHost s k
  let answer (s : State) (st : Word) : State :=
    sendOn s k (.reply ⟨k, r.seq, beAt body 0 1, beAt body 1 1, st, 0xFF, now s, failData s r (beAt body 0 1) (bodyObj body) (bodyElem body)⟩)
  match x.cache.find? (fun c => decide (c.seq = r.seq)) with
  | some c => sendOn s k (.reply c)
  | none =>
    let stale := match x.high with
      | some h => between 1 32767 (h - r.seq).toNat
      | none => false
    if stale then answer s eStale
    else if 64 ≤ (queueOf s.mgmt i).length then detect (countStat (answer s eBusy) 3 i) 0x6003 devUnit (ifaceArg i)
    else setMgmt s (fun m => setQueue m i (queueOf m i ++ [(r, body)]))

/-- REQUEST. -/
def execRequest (i : Iface) (r : Req) (body : List Byte) (s : State) : Outc :=
  let x := session s r.sess.val
  if !dictPresent s || !ifaceOn s i then ok s
  else if x.phase ≠ 2 then ok (refuseUnbound s (some i) r)
  else if x.iface ≠ i ∨ 1444 < body.length then ok (kmpDrop s i)
  else ok (requestIn s i r body)

/-! ## Openings (R451 to R453, R491) -/

/-- T (R451). -/
def proofText (k : Nat) (x : Session) : List Byte :=
  be 1 k ++ be 1 x.role ++ [x.keyIndex] ++ x.cn ++ x.dn ++ be 8 Config.serial.toNat

/-- "KMP-" and a letter. -/
def label (c : Byte) : List Byte := [0x4B, 0x4D, 0x50, 0x2D, c]

/-- K: the role key of a session, or 32 zero octets (R451, R453). -/
def roleKey (s : State) (x : Session) : List Byte :=
  if x.keyless then List.replicate 32 0 else tget [] s.heart.keys (x.role * 32 + x.keyIndex.toNat)

/-- The session opens: its key, and its own CURSOR, MASK and pushes from here on (R451, R467). -/
def openSession (s : State) (k : Nat) (x : Session) : State :=
  setSession (heardHost s k) k { x with
    phase := 2, sessKey := Config.hmac (roleKey s x) (label 0x53 ++ x.cn ++ x.dn)
    high := none, cache := [], transfer := none, cursor := some (oldestSeq s), mask := 0, pushedTo := s.events.nextSeq }

/-- One of the free session numbers; the spec does not say which. -/
def pickSession (s : State) : Option (Nat × State) :=
  let l := (List.range 16).filter (fun k => decide ((session s k).phase = 0))
  match l with
  | [] => none
  | a :: _ =>
    let (n, s) := draw s
    some (l.getD ((Config.freeWord n).toNat % l.length) a, s)

/-- The number of the device in CHALLENGE. -/
def challengeNumber (s : State) : Word := if alone s then 0xFFFF else BitVec.ofNat 16 s.cfg.deviceNumber

/-- HELLO: the refusals of R452 in order, then CHALLENGE; a keyless opening is answered with WELCOME at once. -/
def helloIn (s : State) (i : Iface) (address : Long) (port : Word) (role keyIndex : Byte) (cn : List Byte) : State :=
  let keyless := keylessOpen s && decide (i = .hq) && decide (role = 3) && decide (keyIndex = 0xFF)
  let held := decide (s.fuses.life ≠ .blank) && between 1 3 role.toNat && decide (keyIndex.toNat ≤ 31) &&
    !(tget [] s.heart.keys (keyAt role keyIndex)).isEmpty
  let no (st : Word) : State := sendTo s i address port (.refuse 0xFF 0 st)
  if !keyless && !held then no eNotAuth
  else match pickSession s with
    | none => no eCapacity
    | some (k, t) =>
      if s.mgmt.lockout.any (fun x => decide (x.1 = ifaceNo i)) then no eBusy
      else
        let (n, t) := draw t
        let x : Session := {
          iface := i, address := address, port := port, keyIndex := keyIndex, keyless := keyless, cn := cn, dn := Config.freeNonce 16 n
          role := if keyless && decide (s.fuses.life = .ended) then 1 else role.toNat }
        if keyless then
          sendOn (openSession t k x) k (.welcome k (List.replicate 32 0) s.cfg.mgmt.idleS)
        else
          sendOn (setSession (heardHost t k) k { x with phase := 1 }) k (.challenge k x.dn (challengeNumber s) Config.serial)

def execHello (i : Iface) (address : Long) (port : Word) (role keyIndex : Byte) (cn : List Byte) (s : State) : Outc :=
  if !dictPresent s || !ifaceOn s i then ok s
  else if cn.length ≠ 16 then ok (kmpDrop s i)
  else ok (helloIn s i address port role keyIndex cn)

/-- A failed PROVE (R453): AUTH_FAIL, and the eighth within 60 s locks the interface out. -/
def authFail (s : State) (i : Iface) (inj : Bool) : State :=
  let k := ifaceNo i
  let (n, o) := satInc s.mgmt.authFail
  let recent := (tget [] s.mgmt.fails k).filter (fun t => decide (mtDiff t (now s) < msUnits s 60000)) ++ [now s]
  let out := decide (8 ≤ recent.length)
  let s := setMgmt s (fun m => { m with
    authFail := n, authOvf := m.authOvf || o
    fails := tset [] m.fails k (if out then [] else recent)
    lockout := if out && !m.lockout.any (fun x => decide (x.1 = k)) then m.lockout ++ [(k, now s)] else m.lockout })
  let s := detectAs s 0x6001 devUnit (ifaceArg i) inj
  if out then detectAs s 0x6002 devUnit (ifaceArg i) inj else s

/-- PROVE for a session in opening: wrong, of whatever length, it frees the number (R452). -/
def proveIn (s : State) (i : Iface) (k : Nat) (proof : List Byte) : State :=
  let x := session s k
  let key := roleKey s x
  if !key.isEmpty && decide (proof = Config.hmac key (label 0x43 ++ proofText k x)) then
    sendOn (openSession s k x) k (.welcome k (Config.hmac key (label 0x44 ++ proofText k x)) s.cfg.mgmt.idleS)
  else authFail (endSession (sendOn s k (.refuse k 0 eNotAuth)) k) i false

def execProve (i : Iface) (sess : Fin 16) (proof : List Byte) (s : State) : Outc :=
  let x := session s sess.val
  if !dictPresent s || !ifaceOn s i then ok s
  else if x.phase ≠ 1 ∨ x.iface ≠ i then ok (kmpDrop s i)
  else ok (proveIn s i sess.val proof)

/-- PROVE_TIMEOUT: 1 s after CHALLENGE. -/
def execProveTimeout (sess : Fin 16) (s : State) : Outc :=
  let k := sess.val
  if decide ((session s k).phase = 1) && passed s (heardFrom s k) 1000 && dictPresent s then ok (endSession (sendOn s k (.refuse k 0 eNotAuth)) k) else ok s

/-- LOCKOUT_END: 10 s after it began. -/
def execLockoutEnd (i : Iface) (s : State) : Outc :=
  ok (setMgmt s (fun m => { m with lockout := m.lockout.filter (fun x => !(decide (x.1 = ifaceNo i) && passed s x.2 10000)) }))

/-! ## Sessions end (R454) -/

def execBye (i : Iface) (sess : Fin 16) (s : State) : Outc :=
  let x := session s sess.val
  if !dictPresent s || !ifaceOn s i then ok s
  else if x.phase ≠ 2 ∨ x.iface ≠ i then ok (kmpDrop s i)
  else ok (endSession s sess.val)

/-- SESSION_IDLE_TIMEOUT: no REQUEST for IDLE_S; time during a restart is not counted. -/
def execSessionIdleTimeout (sess : Fin 16) (s : State) : Outc :=
  if decide ((session s sess.val).phase = 2) && s.power.ccDown.isNone && passed s (heardFrom s sess.val) (1000 * s.cfg.mgmt.idleS.toNat) then ok (endSession s sess.val) else ok s

/-- A write of SESSIONS.CLOSE: the session ends once the reply has been sent. -/
def closeSessionCmd (s : State) (r : Req) (k : Byte) : State :=
  writeCmd s r { obj := 0x0120, role := custodian, range := decide (k.toNat ≤ 15) } (fun s =>
    if (session s k.toNat).phase ≠ 2 then .error eState else .ok (later s (.close k.toNat)))

def execSessionsClose (r : Req) (k : Byte) (s : State) : Outc := ok (afterReply (closeSessionCmd s r k))

/-! ## Relays (R450) -/

/-- RELAY_LAPSE: IDLE_S without traffic. -/
def execRelayLapse (target : BitVec 12) (sess : Byte) (s : State) : Outc :=
  ok (setMgmt s (fun m => { m with relays := m.relays.filter (fun x =>
    !(decide (x.target = target) && decide (x.sess = sess) && passed s x.lastAt (1000 * s.cfg.mgmt.idleS.toNat))) }))

/-- A message for another member leaves over the grove: DOMAIN_DATA in a bulk unit, any other in cells (R449). The channel
number is the control core's own choice. -/
def sendOnward (s : State) (target : Nat) (m : List Byte) : State :=
  if decide (beAt m 1 1 = 1) && decide (beAt m 12 1 = 4) then
    match tget 0 s.grove.fwd target with
    | 0 => s
    | l + 1 =>
      let (n, s) := draw s
      let k := link s l
      setLink s l { k with
        bulkSeq := k.bulkSeq + 1
        bulkOut := k.bulkOut ++ [⟨k.bulkSeq + 1, BitVec.ofNat 8 (1 + (Config.freeWord n).toNat % 255), true, 0, m⟩] }
  else sendMessage s target m

/-- A host's message whose TARGET is another member. -/
def relayOut (s : State) (i : Iface) (address : Long) (port : Word) (m : List Byte) : State :=
  let target := BitVec.ofNat 12 (beAt m 8 2)
  let sess := BitVec.ofNat 8 (beAt m 2 1)
  let e : Relay := ⟨target, sess, i, address, port, now s⟩
  let same (x : Relay) : Bool := decide (x.target = target) && decide (x.sess = sess)
  let no (st : Word) : State := sendTo s i address port (.refuse sess.toNat (BitVec.ofNat 16 (beAt m 4 2)) st)
  let rest := s.mgmt.relays.filter (fun x => !same x)
  if s.grove.state ≠ 3 ∨ tget 0 s.grove.fwd target.toNat = 0 then no eState
  else if 64 ≤ rest.length then no eCapacity
  else sendOnward (setMgmt s (fun g => { g with relays := rest ++ [e] })) target.toNat m

/-- A member's message for a host behind this device; a CHALLENGE or WELCOME tells the session's number. -/
def relayBack (s : State) (src : Nat) (m : List Byte) : Option State :=
  let sess := BitVec.ofNat 8 (beAt m 2 1)
  let from' (n : Byte) : Option Relay := s.mgmt.relays.find? (fun x => decide (x.target.toNat = src) && decide (x.sess = n))
  let heard (e : Relay) : State :=
    setMgmt s (fun g => { g with relays := g.relays.map (fun x => if x = e then { x with lastAt := now s } else x) })
  match from' sess, from' 0xFF with
  | some e, _ => some (sendTo (heard e) e.iface e.address e.port (.relayed m))
  | none, some e =>
    let s := heard e
    let s := if decide (sess ≠ 0xFF) && decide (s.mgmt.relays.length < 64) then
        setMgmt s (fun g => { g with relays := g.relays ++ [{ e with sess := sess, lastAt := now s }] }) else s
    some (sendTo s e.iface e.address e.port (.relayed m))
  | none, none => none

/-! ## A message of octets (R440 to R442) -/

/-- Kinds that carry a MAC. -/
def sealedKind (k : Nat) : Bool := [1, 2, 3, 0x13, 0x14].contains k
def hostKind (k : Nat) : Bool := [1, 0x10, 0x12, 0x14].contains k
def deviceKind (k : Nat) : Bool := [2, 3, 0x11, 0x13, 0x14, 0x15].contains k

/-- Octets of the whole message, by its header. -/
def kmpSize (m : List Byte) : Nat := 12 + beAt m 6 2 + (if sealedKind (beAt m 1 1) then 16 else 0)

/-- VERSION, KIND, the reserved octets, TARGET and the size are as R440 and R441 say. -/
def kmpForm (m : List Byte) : Bool :=
  let k := beAt m 1 1
  let t := beAt m 8 2
  decide (12 ≤ m.length) && decide (m.length ≤ 1472) && decide (m.length = kmpSize m) && decide (beAt m 0 1 = 1) &&
    (hostKind k || deviceKind k) && decide (beAt m 3 1 = 0) && decide (beAt m 10 2 = 0) && (decide (t < 4096) || decide (t = 0xFFFF))

/-- The session's host: its interface, and on Ethernet and the grove its address (R453). `src` none: not known. -/
def boundHere (x : Session) (i : Iface) (address : Option Long) (port : Word) : Bool :=
  decide (x.iface = i) && (match address with
    | none => true
    | some a => decide (i = .hq) || (decide (x.address = a) && (decide (i ≠ .ethernet) || decide (x.port = port))))

/-- A well-formed message for this device. Where it came by a bulk unit, which names no sender, an answer to nobody known goes to a free
device (DESIGN CHOICE, notes/assumptions/171). -/
def kmpHere (s : State) (i : Iface) (address : Option Long) (port : Word) (m : List Byte) : State :=
  let kind := beAt m 1 1
  let k := beAt m 2 1
  let seq := BitVec.ofNat 16 (beAt m 4 2)
  let body := (m.drop 12).take (beAt m 6 2)
  let x := session s k
  let mac := decide (m.drop (12 + body.length) = macOf x.sessKey (m.take (12 + body.length)))
  let (n, s) := draw s
  let from' := address.getD ((Config.freeWord n).setWidth 32)
  if kind = 0x10 then
    if decide (k ≠ 0xFF) || decide (body.length ≠ 20) || decide (beAt body 2 2 ≠ 0) then kmpDrop s i
    else helloIn s i from' port (body.getD 0 0) (body.getD 1 0) (body.drop 4)
  else if h : k < 16 then
    if kind = 1 then
      if x.phase ≠ 2 then sendTo s i from' port (.refuse k seq eNotAuth)
      else if !boundHere x i address port || !mac then kmpDrop s i
      else requestIn s i ⟨⟨k, h⟩, seq⟩ body
    else if kind = 0x12 then
      if decide (x.phase ≠ 1) || !boundHere x i address port then kmpDrop s i else proveIn s i k body
    else if decide (x.phase ≠ 2) || !boundHere x i address port || !mac || !body.isEmpty then kmpDrop s i
    else endSession s k
  else if kind = 1 then sendTo s i from' port (.refuse k seq eNotAuth)
  else kmpDrop s i

/-- A message received on an interface from an address. -/
def kmpIn (s : State) (i : Iface) (address : Option Long) (port : Word) (m : List Byte) : State :=
  if !dictPresent s || !ifaceOn s i then s
  else if !kmpForm m then kmpDrop s i
  else
    let kind := beAt m 1 1
    let t := beAt m 8 2
    let mine := decide (t = 0xFFFF) || (!alone s && decide (t = s.cfg.deviceNumber))
    match (if deviceKind kind then address.bind (fun a => if i = .grove then relayBack s a.toNat m else none) else none) with
    | some s' => s'
    | none =>
      if !hostKind kind then kmpDrop s i
      else if mine then kmpHere s i address port m
      else if i = .grove then (if address.isNone then sendOnward s t m else kmpDrop s i)
      else relayOut s i (address.getD 0) port m

/-! ## Management Ethernet (R447) -/

/-- An ARP request for the address in use: opcode 1, its target address (RFC 826). -/
def arpAsks (s : State) (p : List Byte) : Bool :=
  decide (beAt p 6 2 = 1) && decide (beAt p 24 4 = s.mgmt.activeAddr.toNat) && decide (s.mgmt.activeAddr ≠ 0)

/-- A packet comes over a link that is up, at a rate that nothing here tells (DESIGN CHOICE, notes/assumptions/172): MGMT_NET.LINK (R466). -/
def linkSeen (s : State) : State :=
  if s.mgmt.netLink ≠ 0 then s
  else
    let (n, s) := draw s
    setMgmt s (fun m => { m with netLink := BitVec.ofNat 2 (1 + (Config.freeWord n).toNat % 3) })

/-- UDP_DATAGRAM: a packet from its EtherType on. IPv4 with options or in fragments is discarded; ICMP echo is answered; a UDP
datagram to MGMT_NET.PORT is one message. -/
def execUdpDatagram (srcAddr : Long) (srcPort : Word) (packet : List Byte) (s : State) : Outc :=
  let ip := packet.drop 2
  let data := (ip.take (beAt ip 2 2)).drop 20
  if !coreUp s || !s.cfg.mgmt.netEnable then ok s
  else
    let s := linkSeen s
    if beAt packet 0 2 = 0x0806 then ok (if arpAsks s ip then sendTo s .ethernet srcAddr 0 .arp else s)
    else if decide (beAt packet 0 2 ≠ 0x0800) || decide (beAt ip 0 1 ≠ 0x45) || decide (beAt ip 6 2 % 0x4000 ≠ 0) ||
        decide (beAt ip 16 4 ≠ s.mgmt.activeAddr.toNat) then ok s
    else if beAt ip 9 1 = 1 then
      ok (if beAt data 0 1 = 8 then sendTo s .ethernet srcAddr 0 (.icmpEcho (data.drop 4)) else s)
    else if decide (beAt ip 9 1 = 17) && decide (beAt data 2 2 = s.cfg.mgmt.udpPort.toNat) then
      ok (kmpIn s .ethernet (some srcAddr) srcPort ((data.take (beAt data 4 2)).drop 8))
    else ok s

/-! ## HQ (R448, R485) -/

/-- Octets taken in the inbound FIFO: each message with its LENGTH. -/
def hqUsed (s : State) : Nat := s.mgmt.hqIn.foldl (fun n m => n + 2 + m.length) 0

/-- PUT: the message waits in the FIFO, or is discarded whole for want of room. In recovery the boot ROM takes a firmware image, writes it to
slot A and resets. -/
def execPut (message : List Byte) (s : State) : Outc :=
  if s.power.recovery then
    if fwLayout message && fwRollback s message && fwSigned message then
      ok (resetUncaused (setPower s (fun p => { p with slotA := fwSlotOf message })))
    else ok s
  else if !s.cfg.mgmt.hqEnable then ok s
  else if 2048 < hqUsed s + 2 + message.length then ok (setMgmt s (fun m => { m with hqDiscard := true }))
  else ok (setMgmt s (fun m => { m with hqIn := m.hqIn ++ [message] }))

/-- What GET sends: LENGTH and the oldest outbound message, or a LENGTH of 0. -/
def hqAnswer (s : State) : List Byte :=
  match s.mgmt.outHq with
  | [] => [0, 0]
  | m :: _ => be 2 m.length ++ m

/-- GET: the oldest outbound message goes once HQ_CS_N has risen after its last octet. -/
def execGet (complete : Bool) (s : State) : Outc :=
  if complete && s.cfg.mgmt.hqEnable then ok (setMgmt s (fun m => { m with hqGot := hqAnswer s, outHq := m.outHq.drop 1 })) else ok s

/-- HQ_ATTN_N: driven low while OUT_PENDING = 1 (R448). -/
def hqAttnN (s : State) : Bool := s.mgmt.outHq.isEmpty

/-- STATUS: OUT_PENDING, IN_ROOM, DISCARD (cleared), READY. -/
def execStatus (s : State) : Outc :=
  ok (setMgmt s (fun m => { m with
    hqStatus := BitVec.ofNat 8 (bitOf (!hqAttnN s) + 2 * bitOf (decide (hqUsed s + 1500 ≤ 2048)) + 4 * bitOf m.hqDiscard + 8 * bitOf (dictPresent s)), hqDiscard := false }))

/-! ## The grove (R449) -/

/-- The control core handles what has arrived over the grove: link-state records, announcements and management messages. -/
def takeArrived (s : State) : State :=
  let l := s.grove.arrived
  l.foldl (fun s x =>
    let own := decide (x.1 ≠ 4096)
    if own && decide (x.2.head? = some recordTag) then noteRecord s x.2
    else if own && decide (x.2.head? = some announceTag) then noteAnnounce s x.2
    else if own && decide (x.2.head? = some reportTag) then noteReport s
    else if own && decide (x.2.head? = some dwellTag) then noteDwell s x.2
    else kmpIn s .grove (if x.1 = 4096 then none else some (BitVec.ofNat 32 x.1)) 0 (x.2.take (kmpSize x.2)))
    { s with grove := { s.grove with arrived := [] } }

/-- LINK_FRAME_RECEIVE. -/
def execLinkFrameReceive (l : Fin 4) (f : RxFrame) (s : State) : Outc := ok (takeArrived (receiveFrame l f s))

end Sys2Proof.Machine
end

