-- ==== Sys2Proof/Machine/Events.lean ====
section
/-! DEFINITION. Events as commands: detections that no other command carries, the rate limit, pushes, and the log's READ
(R261, R262, R461, R462, R467, R501 to R503). -/
namespace Sys2Proof.Machine

/-- A memory location in the form of LAST_LOC: its kind is 1 to 5 (R262). -/
def memoryLoc (loc : Nat) : Bool := between 1 5 (loc / 2 ^ 29)

/-- EVENT_RAISE: a detection raises its record and counts; codes that R503 does not list are never raised. An ECC error is found
in the SECDED unit of the location in ARG, where it stays until it is rewritten (R261). -/
def execEventRaise (code unit : Word) (arg : Long) (s : State) : Outc :=
  let c := code.toNat
  if !eventCode c then ok s
  else if c = 0x3001 ∨ c = 0x3002 then
    let loc := arg.toNat
    if memoryLoc loc then
      let bad := decide (c = 0x3002)
      let unit := if loc / 2 ^ 29 = 5 then dlsLoc (loc % 2 ^ 24) else loc
      ok (eccDetect { s with mem := { s.mem with ecc := tset 0 s.mem.ecc unit (max (if bad then 2 else 1) (eccMark s unit)) } } bad loc)
    else ok s
  else if s.power.dev = .booting then ok (record (countDet s c) c unit.toNat arg MT.zero false)
  else ok (detect s c unit.toNat arg)

/-- EVENT_RATE_LIMIT_END: the end of a detector's second. One record for what was counted in it, and another second; a quiet
second lets the next detection raise at once (R502). -/
def execEventRateLimitEnd (code unit : Word) (s : State) : Outc :=
  let key := code.toNat * 65536 + unit.toNat
  match s.events.limits.find? (fun l => decide (l.key = key)) with
  | none => ok s
  | some l =>
    let rest := s.events.limits.filter (fun x => decide (x.key ≠ key))
    if !passed s l.since 1000 then ok s
    else if l.count = 0 then ok { s with events := { s.events with limits := rest } }
    else
      let s : State := { s with events := { s.events with limits := rest ++ [⟨key, 0, l.lastMt, true, now s⟩] } }
      ok (record s code.toNat unit.toNat (BitVec.ofNat 32 l.count) l.lastMt l.allInj)

/-- The group of a record is in a session's MASK (R462). -/
def pushedTo (x : Session) (v : Event) : Bool := x.mask.getLsbD (v.code.toNat / 4096)

/-- EVENT_PUSH: up to 16 records that the session subscribes to and has not been sent. -/
def execEventPush (sess : Fin 16) (s : State) : Outc :=
  let k := sess.val
  let x := session s k
  if x.phase ≠ 2 ∨ !coreUp s then ok s
  else
    let newer := s.events.log.filter (fun v => decide ((v.seq - x.pushedTo).toNat < (s.events.nextSeq - x.pushedTo).toNat))
    let mine := newer.filter (pushedTo x)
    let sent := mine.take 16
    let upTo := if mine.length ≤ 16 then s.events.nextSeq else (match sent.getLast? with
      | some v => v.seq + 1
      | none => s.events.nextSeq)
    let s := setSession s k { x with pushedTo := upTo }
    if sent.isEmpty then ok s
    else ok (sendOn s k (.event k (sent.map (fun v => BitVec.ofNat 192 (beNat (eventOctets v))))))

/-- CURSOR advances past the records that READ returns. -/
def passPage (s : State) (k : Nat) : State :=
  setSession s k { session s k with cursor := some (readFrom s k + BitVec.ofNat 32 (logPage s k).length) }

/-- EVENT_LOG_READ: EVENT_LOG.READ. -/
def execEventLogRead (r : Req) (s : State) : Outc :=
  let k := r.sess.val
  ok (runRequest s r 1 1 (fun s => (gateFails s r { obj := 0x1100, role := operator, keyless := true }).map (·, 0))
    (fun s => .ok (passPage s k, logOctets s k)))

end Sys2Proof.Machine
end

