-- ==== Sys2Proof/Machine/Debug.lean ====
section
/-! DEFINITION. JTAG: boundary scan, the debug unlock, and the debug port (R166, R167, R240, R243, R264, R492 to R497). -/
namespace Sys2Proof.Machine

def setDebug (s : State) (f : Debug → Debug) : State := { s with jtag := f s.jtag }

/-! ## The TAP and boundary scan (R492, R494, R536) -/

/-- The instruction that a code of the instruction register selects: a code not listed is BYPASS (R494). -/
def decodeIr (code : BitVec 5) : BitVec 5 :=
  if [0x00, 0x01, 0x02, 0x03, 0x10, 0x11, 0x12, 0x13, 0x14].contains code.toNat then code else 0x1F

/-- An instruction is selected. While it is EXTEST or CLAMP the part is held in reset; the spec names no cause for that reset. -/
def selectIr (s : State) (code : BitVec 5) : State :=
  let s := setDebug s (fun d => { d with ir := decodeIr code })
  if decide (code = 0x00) || decide (code = 0x03) then
    if s.jtag.scanHold then s else resetUncaused (holdReset s s.power.brown s.power.rstLow true)
  else if s.jtag.scanHold then holdReset s s.power.brown s.power.rstLow false
  else s

/-- A reset of the TAP, by TRST_N (R536): it leaves EXTEST and CLAMP. PRESUMED (notes/assumptions/149): IDCODE is selected, as IEEE 1149.1
has it. -/
def tapReset (s : State) : State := selectIr s 0x01

/-- EXTEST; deselected, by a reset of the TAP. -/
def execExtest (selected : Bool) (s : State) : Outc := ok (if selected then selectIr s 0x00 else tapReset s)
def execClamp (selected : Bool) (s : State) : Outc := ok (if selected then selectIr s 0x03 else tapReset s)

/-- IDCODE: the identification register. -/
def execIdcode (s : State) : Outc := ok (setDebug (selectIr s 0x01) (fun d => { d with idOut := Config.idcode }))

/-- SAMPLE/PRELOAD: the boundary register captures the pins, and what is shifted in after it preloads the output cells. The command carries
neither: both are free values. -/
def execSamplePreload (s : State) : Outc :=
  let (k, s) := draw (selectIr s 0x02)
  let (m, s) := draw s
  ok (setDebug s (fun d => { d with boundary := Config.boundaryCapture k, preload := Config.freeLong m }))

/-- What boundary scan drives on the pins: the preloaded cells while EXTEST or CLAMP is selected, else nothing. -/
def drivenPins (s : State) : Option Long :=
  if decide (s.jtag.ir = 0x00) || decide (s.jtag.ir = 0x03) then some s.jtag.preload else none

/-- BYPASS: one bit. -/
def execBypass (tdi : Bool) (s : State) : Outc := ok (setDebug (selectIr s 0x1F) (fun d => { d with tdo := tdi }))

/-! ## Unlock (R492) -/

/-- DBG_CHALLENGE: the nonce; one is issued for the first read, and none between a failed response and its reissue. -/
def execDbgChallenge (s : State) : Outc :=
  let s := selectIr s 0x10
  if decide (s.fuses.life = .deployed) && s.jtag.nonce.isNone && !s.jtag.nonceUsed then
    let (k, s) := draw s
    ok (setDebug s (fun d => { d with nonce := some (Config.freeNonce 32 k) }))
  else ok s

/-- A signature over the nonce and SERIAL by a program-signing key of index 28 to 31. -/
def unlockSigned (s : State) (nonce sig : List Byte) : Bool :=
  let digest := Config.sha256 (nonce ++ be 8 Config.serial.toNat)
  s.heart.keys.any (fun kv => between (5 * 32 + 28) (5 * 32 + 31) kv.1 && Config.ecdsaVerify kv.2 digest sig)

/-- DBG_RESPONSE: the unlock, or the nonce is consumed. -/
def execDbgResponse (sig : List Byte) (s : State) : Outc :=
  let s := selectIr s 0x11
  match s.fuses.life, s.jtag.nonce with
  | .deployed, some n =>
    if unlockSigned s n sig && s.cfg.power.debugPermit then
      ok (detect (setDebug s (fun d => { d with unlocked := true, unlockCount := satInc31 d.unlockCount })) 0x700A devUnit 0)
    else ok (setDebug s (fun d => { d with nonce := none, nonceUsed := true, failAt := now s }))
  | _, _ => ok s

/-- A new nonce, 1 s after a failed response. -/
def execDbgNonceReissue (s : State) : Outc :=
  if s.jtag.nonceUsed && passed s s.jtag.failAt 1000 then
    let (k, s) := draw s
    ok (setDebug s (fun d => { d with nonce := some (Config.freeNonce 32 k), nonceUsed := false }))
  else ok s

/-! ## Commands (R495, R497) -/

/-- DBG_STATUS.OPEN (R497, R499). -/
def debugOpen (s : State) : Bool := decide (debugCode s = 1) || decide (debugCode s = 2)

/-- Errors of R497. -/
def dbgLocked : Nat := 1
def dbgState : Nat := 2
def dbgRange : Nat := 3
def dbgAccess : Nat := 4
def dbgDrop : Nat := 5

def setError (s : State) (e : Nat) : State := setDebug s (fun d => { d with error := e })

/-- Reads of an ended transfer that still wait on a shared slot go. -/
def dropReads (s : State) : State :=
  (List.range 32).foldl (fun s b =>
    if (bank s b).queue.any (fun q => decide (q.who = 6) && q.write.isNone) then
      setBank s b { bank s b with queue := (bank s b).queue.filter (fun q => !(decide (q.who = 6) && q.write.isNone)) }
    else s) s

/-- DBG_CMD: LOCKED, then its fields, then the state it is accepted in: a command that fails sets ERROR and does nothing else. One that is
accepted clears ERROR and ends the transfer before it. -/
def dbgCmd (s : State) (range accepted : Bool) (effect : State → State) : Outc :=
  let s := selectIr s 0x12
  if !debugOpen s then ok (setError s dbgLocked)
  else if !range then ok (setError s dbgRange)
  else if !accepted then ok (setError s dbgState)
  else ok (effect (dropReads (setDebug s (fun d => { d with error := 0, xfer := none }))))

def engUnit (unit : Byte) : Bool := decide (unit.toNat < 32)

/-- A Sapling program is running. -/
def saplRuns (e : Engine) : Bool := decide (e.state = .sapling) && e.running

def execBreakEng (unit : Byte) (addr : BitVec 24) (_count : Byte) (s : State) : Outc :=
  let n := unit.toNat
  let e := eng s n
  dbgCmd s (engUnit unit && decide (addr = 0)) (decide (e.state = .run) || saplRuns e)
    (fun s => modEng s n (fun e => { e with breakReq := true }))

/-- A halted engine goes on at its next word; a PACED run whose frame was over, at its next frame boundary. -/
def goOn (e : Engine) (step : Bool) : Engine :=
  { e with state := .sapling, running := true, stage := if e.atEnd then .none else .program, atEnd := false, haltByDebug := false, stepReq := step, breakReq := false }

/-- STEP: one frame from DEBUG; from HALTED after a break or a step, one word or one held-off sequence. -/
def execStep (unit : Byte) (addr : BitVec 24) (_count : Byte) (s : State) : Outc :=
  let n := unit.toNat
  let e := eng s n
  dbgCmd s (engUnit unit && decide (addr = 0)) (decide (e.state = .debug) || decide (e.state = .halted)) (fun s =>
    if e.state = .debug then modEng s n (fun e => { e with stepReq := true })
    else if e.haltByDebug then modEng s n (fun e => goOn e true)
    else s)

def execResume (unit : Byte) (addr : BitVec 24) (_count : Byte) (s : State) : Outc :=
  let n := unit.toNat
  let e := eng s n
  dbgCmd s (engUnit unit && decide (addr = 0)) (decide (e.state = .debug) || (decide (e.state = .halted) && e.haltByDebug)) (fun s =>
    modEng s n (fun e =>
      if e.state = .debug then { e with state := .run, stage := .none, prepared := false, stepReq := false, breakReq := false }
      else goOn e false))

def execSetBreak (unit : Byte) (addr : BitVec 24) (_count : Byte) (s : State) : Outc :=
  let n := unit.toNat
  dbgCmd s (engUnit unit && (decide (addr.toNat < 0x4000) || decide (addr = 0xFFFF))) true (fun s =>
    modEng s n (fun e => { e with breakAddr := if addr = 0xFFFF then none else some addr.toNat }))

/-! ## Reads -/

/-- Values for DBG_DATA, and ERROR ACCESS where one of them could not be read. -/
def readyValues (s : State) (op unit addr : Nat) (l : List (Option Long)) : State :=
  let s := setDebug s (fun d => { d with xfer := some ⟨false, op, unit, addr, 0, l.map (fun v => v.getD 0), []⟩ })
  if l.any (fun v => v.isNone) then setError s dbgAccess else s

/-- Transfers of a command. -/
def dbgCount (count : Byte) : Nat := count.toNat + 1

/-- A data-space word as the test port reads it; an uncorrectable word counts as detected. -/
def debugWord (s : State) (n a : Nat) : Option Long :=
  if 0x10000 ≤ a then none
  else
    let w := BitVec.ofNat 16 a
    if wordBad s n w then none else (peekWord s n w).map (fun v => v.setWidth 32)

/-- The ECC detections of the words a debug read passes. -/
def debugEcc (s : State) (l : List Nat) : State := l.foldl eccRead s

def execReadData (unit : Byte) (addr : BitVec 24) (count : Byte) (s : State) : Outc :=
  let n := unit.toNat
  let as := (List.range (dbgCount count)).map (fun i => addr.toNat + i)
  dbgCmd s (engUnit unit && decide (addr.toNat < 0x10000)) true (fun s =>
    let vs := as.map (debugWord s n)
    readyValues (debugEcc s (as.flatMap (fun a => if a < 0x10000 then eccLocs s n (BitVec.ofNat 16 a) else []))) 0x10 n addr.toNat vs)

/-- A register of R496 as its transfers; `pc` is what code 0x3B reads. -/
def regValues (c : Ctx) (pc code : Nat) : List Long :=
  if code ≤ 0x2D then [(rW c code).setWidth 32]
  else if between 0x30 0x33 code then
    let v := acc c (code - 0x30)
    [(v.extractLsb' 64 8).setWidth 32, v.extractLsb' 32 32, v.extractLsb' 0 32]
  else if between 0x34 0x35 code then
    let v := tget 0 c.prods (code - 0x34)
    [v.extractLsb' 32 32, v.extractLsb' 0 32]
  else if between 0x36 0x39 code then [tget 0 c.taps (code - 0x36)]
  else if code = 0x3A then [(c.guards ||| 1).setWidth 32]
  else if code = 0x3B then [BitVec.ofNat 32 pc]
  else if code = 0x3C then [c.emode.setWidth 32]
  else []

/-- Transfers of a register; 0: no such register. -/
def regTransfers (code : Nat) : Nat := (regValues {} 0 code).length

/-- The last code that `n` transfers from `code` reach is a register's, and so is every one before it. -/
def regsThere : Nat → Nat → Nat → Bool
  | 0, _, n => decide (n = 0)
  | f + 1, code, n => decide (n = 0) || (decide (regTransfers code ≠ 0) && regsThere f (code + 1) (n - regTransfers code))

/-- The registers as READ_REG finds them: in DEBUG and HALTED with every result in flight landed (R496). -/
def debugCtx (s : State) (n : Nat) : Ctx :=
  let e := eng s n
  if decide (e.state = .debug) || decide (e.state = .halted) then (eng (landAll s n) n).ctx else e.ctx

def execReadReg (unit : Byte) (addr : BitVec 24) (count : Byte) (s : State) : Outc :=
  let n := unit.toNat
  let e := eng s n
  let k := dbgCount count
  dbgCmd s (engUnit unit && decide (addr.toNat < 0x100) && regsThere 64 addr.toNat k)
    (decide (e.state = .debug) || decide (e.state = .halted) || decide (e.state = .sapling)) (fun s =>
      let c := debugCtx s n
      let pc := if e.state = .debug then e.active.entry else c.pc
      readyValues s 0x12 n addr.toNat
        ((((List.range 64).flatMap (fun i => regValues c pc (addr.toNat + i))).take k).map some))

def execReadProg (unit : Byte) (addr : BitVec 24) (count : Byte) (s : State) : Outc :=
  let n := unit.toNat
  let e := eng s n
  let standby := addr.getLsbD 16
  let half := bitOf (e.actBank != standby)
  let b := if standby then e.standby else e.active
  let first := addr.toNat % 0x4000
  let as := (List.range (dbgCount count)).map (fun i => first + i)
  let loc (a : Nat) : Option Nat := if a < 0x4000 then some (locOf 1 n (half * 0x4000 + a)) else none
  dbgCmd s (engUnit unit && decide (addr.toNat &&& 0xFEC000 = 0)) true (fun s =>
    let vs := as.map (fun a => (loc a).bind (fun l => if eccMark s l = 2 then none else some (tget 0 b.words a)))
    readyValues (debugEcc s (as.filterMap loc)) 0x14 n first vs)

/-- A bank named by UNIT and by ADDR alike, and transfers that stay in it. -/
def dlsRange (unit : Byte) (addr : BitVec 24) (count : Byte) : Bool :=
  decide (addr.toNat / 0x80000 = unit.toNat) && decide (addr.toNat % 0x80000 + dbgCount count ≤ 0x80000)

def execReadDls (unit : Byte) (addr : BitVec 24) (count : Byte) (s : State) : Outc :=
  let b := unit.toNat
  dbgCmd s (dlsRange unit addr count) true (fun s =>
    let s := setDebug s (fun d => { d with xfer := some ⟨false, 0x20, b, addr.toNat, dbgCount count, [], []⟩ })
    queueShared s b ((List.range (dbgCount count)).map (fun i => ⟨6, addr.toNat % 0x80000 + i, 1, none⟩)))

/-! ## Writes -/

/-- A write command opens; its values come by DBG_DATA. -/
def openWrite (s : State) (op unit addr : Nat) (count : Byte) : State :=
  setDebug s (fun d => { d with xfer := some ⟨true, op, unit, addr, dbgCount count, [], []⟩ })

/-- Local RAM, or the engine's own crossing-RAM block. -/
def debugWritable (a n : Nat) : Bool := decide (a + n ≤ 0x8000) || (decide (0xB000 ≤ a) && decide (a + n ≤ 0xB400))

def writesData (e : Engine) : Bool := decide (e.state = .debug) || decide (e.state = .halted) || decide (e.state = .sapling)
def writesRegs (e : Engine) : Bool := decide (e.state = .debug) || decide (e.state = .halted)

def execWriteData (unit : Byte) (addr : BitVec 24) (count : Byte) (s : State) : Outc :=
  let n := unit.toNat
  dbgCmd s (engUnit unit && debugWritable addr.toNat (dbgCount count)) (writesData (eng s n))
    (fun s => openWrite s 0x11 n addr.toNat count)

/-- WRITE_REG: any register but PC. -/
def execWriteReg (unit : Byte) (addr : BitVec 24) (count : Byte) (s : State) : Outc :=
  let n := unit.toNat
  let k := dbgCount count
  let codes := (List.range 64).filter (fun i =>
    decide (((List.range i).map (fun j => regTransfers (addr.toNat + j))).sum < k))
  dbgCmd s (engUnit unit && decide (addr.toNat < 0x100) && regsThere 64 addr.toNat k &&
      codes.all (fun i => decide (addr.toNat + i ≠ 0x3B))) (writesRegs (eng s n))
    (fun s => openWrite s 0x13 n addr.toNat count)

def execWriteDls (unit : Byte) (addr : BitVec 24) (count : Byte) (s : State) : Outc :=
  let b := unit.toNat
  dbgCmd s (dlsRange unit addr count) (decide ((bank s b).kind = 0)) (fun s => openWrite s 0x21 b addr.toNat count)

/-- A register written from its transfers; ST takes every field, the sticky bits included. -/
def writeRegValue (c : Ctx) (code : Nat) (l : List Long) : Ctx :=
  let v (i : Nat) : Long := l.getD i 0
  if code ≤ 0x2D then wW c code ((v 0).setWidth 16)
  else if code ≤ 0x33 then { c with acs := tset 0 c.acs (code - 0x30) (((v 0).setWidth 8 ++ v 1) ++ v 2) }
  else if code ≤ 0x35 then { c with prods := tset 0 c.prods (code - 0x34) (v 0 ++ v 1) }
  else if code ≤ 0x39 then { c with taps := tset 0 c.taps (code - 0x36) (v 0) }
  else if code = 0x3A then { c with guards := (v 0).setWidth 8 ||| 1 }
  else { c with emode := (v 0).setWidth 16 &&& 0x1F }

/-- The transfer is over, or waits for its next value. -/
def nextTransfer (s : State) (x : DbgXfer) : State :=
  setDebug s (fun d => { d with xfer := if x.left ≤ 1 then none else some { x with left := x.left - 1 } })

/-- One value of a write command. -/
def takeValue (s : State) (x : DbgXfer) (data : Long) : State :=
  match x.op with
  | 0x11 =>
    let s := nextTransfer s { x with addr := x.addr + 1 }
    if writesData (eng s x.unit) then storeWord s x.unit (BitVec.ofNat 16 x.addr) (data.setWidth 16) else setError s dbgState
  | 0x13 =>
    let part := x.part ++ [data]
    if part.length < regTransfers x.addr then nextTransfer s { x with part := part }
    else
      let s := nextTransfer s { x with addr := x.addr + 1, part := [] }
      if !writesRegs (eng s x.unit) then setError s dbgState
      else if decide (x.addr = 0x3C) && decide (data.toNat / 2 % 4 = 3) then setError s dbgRange
      else modEng s x.unit (fun e => { e with ctx := writeRegValue e.ctx x.addr part })
  | _ =>
    if (bank s x.unit).queue.any (fun q => decide (q.who = 6)) then setError s dbgDrop
    else queueShared (nextTransfer s { x with addr := x.addr + 1 }) x.unit [⟨6, x.addr % 0x80000, 1, some [data.setWidth 16]⟩]

/-- What Update-DR of DBG_CMD does with the 48 bits shifted in: the command that they spell (R495); the spec gives other OP values no effect. -/
def debugWordIn (w : BitVec 48) (s : State) : Outc :=
  match decodeDebug w with
  | none => ok (selectIr s 0x12)
  | some (op, u, a, c) => match op with
    | .breakEng => execBreakEng u a c s
    | .step => execStep u a c s
    | .resume => execResume u a c s
    | .setBreak => execSetBreak u a c s
    | .readData => execReadData u a c s
    | .writeData => execWriteData u a c s
    | .readReg => execReadReg u a c s
    | .writeReg => execWriteReg u a c s
    | .readProg => execReadProg u a c s
    | .readDls => execReadDls u a c s
    | .writeDls => execWriteDls u a c s

/-- DBG_DATA (R497): a read shifts the next value out, VALID = 0 where it is not ready; a write shifts one in. -/
def execDbgData (valid : Bool) (data : Long) (s : State) : Outc :=
  let s := selectIr s 0x13
  match s.jtag.xfer with
  | none => ok (setDebug s (fun d => { d with dataOut := 0 }))
  | some x =>
    if x.write then (if valid then ok (takeValue s x data) else ok s)
    else match x.values with
      | [] => ok (setDebug s (fun d => { d with dataOut := 0 }))
      | v :: l =>
        let rest := x.left - 1
        ok (setDebug s (fun d => { d with
          dataOut := 1#1 ++ v, xfer := if l.isEmpty && decide (rest = 0) then none else some { x with values := l, left := rest } }))

/-- DBG_STATUS (R497). -/
def debugStatus (s : State) : Word :=
  let d := s.jtag
  let busy := match d.xfer with
    | some x => if x.write then (bank s x.unit).queue.any (fun q => decide (x.op = 0x21) && decide (q.who = 6)) else x.values.isEmpty
    | none => false
  BitVec.ofNat 16 (d.error * 256 + 4 * bitOf busy + 2 * bitOf d.unlocked + bitOf (debugOpen s))

/-- The data register that the instruction register selects, as it is shifted out, least significant bit first: its value and its bits (R494).
The nonce is taken with its first octet most significant; DBG_RESPONSE and DBG_CMD are written only. -/
def shiftedOut (s : State) : Nat × Nat :=
  let d := s.jtag
  match d.ir.toNat with
  | 0x00 => (d.boundary.toNat, 32)
  | 0x01 => (Config.idcode.toNat, 32)
  | 0x02 => (d.boundary.toNat, 32)
  | 0x10 => (beNat (d.nonce.getD []), 256)
  | 0x11 => (0, 512)
  | 0x12 => (0, 48)
  | 0x13 => (d.dataOut.toNat, 33)
  | 0x14 => ((debugStatus s).toNat, 16)
  | _ => (bitOf d.tdo, 1)

end Sys2Proof.Machine
end

