-- ==== Sys2Proof/Machine/Delay.lean ====
section
/-! DEFINITION. Delay-line words and atomics (R214 to R217, R253, R255). -/
namespace Sys2Proof.Machine

/-- DWR: bits [31:8] of Ls at the head; the row it merges into must be readable (R214, R261). -/
def execDwr (w : Issue) (k : Fin 16) (src : Fin 12) (s : State) : Outc :=
  ok (issueWord s w (.dwr w k src) (fun s n _ =>
    let e := eng s n
    match lineBank e k.val 1 with
    | .error f => .error f
    | .ok b =>
      let ws := slotAddrs b (desc e k.val) (desc e k.val).head
      match ws.find? (rowBad s) with
      | some a => .error { cause := 4, loc := dlsLoc a }
      | none => .ok { dls := ws, dwr := some (k.val, rL e.ctx src.val) }))

/-- A tap: the descriptor's checks, the limited delay, the samples and the value (R214, R215, R255). -/
def effTap (s : State) (n : Nat) (kind : TapKind) (lat t k x : Nat) : Except Flt Eff :=
  let e := eng s n
  match lineBank e k (tapLeast kind) with
  | .error f => .error f
  | .ok b =>
    let d := desc e k
    let (i, f) := tapDelay kind d.len (rL e.ctx x)
    let js := (tapTaps kind i).map (slotOf d)
    let ws := js.flatMap (slotAddrs b d)
    match ws.find? (rowBad s) with
    | some a => .error { cause := 4, loc := dlsLoc a }
    | none => .ok { acts := [landing lat (.tap t (tapValue kind f (js.map (slotRead (bank s b).mem d))))], dls := ws }

def execDrd (w : Issue) (t : Fin 4) (k : Fin 16) (x : Fin 8) (s : State) : Outc :=
  ok (issueWord s w (.drd w t k x) (fun s n _ => effTap s n .drd 6 t.val k.val x.val))
def execDrl (w : Issue) (t : Fin 4) (k : Fin 16) (x : Fin 8) (s : State) : Outc :=
  ok (issueWord s w (.drl w t k x) (fun s n _ => effTap s n .drl 7 t.val k.val x.val))
def execDrf (w : Issue) (t : Fin 4) (k : Fin 16) (x : Fin 8) (s : State) : Outc :=
  ok (issueWord s w (.drf w t k x) (fun s n _ => effTap s n .drf 8 t.val k.val x.val))

/-- An atomic: its address is checked at issue, its read and write come in cycle c + 4, its tap lands at c + 7. -/
def effAtomic (s : State) (n : Nat) (swap : Bool) (t : Nat) (at' : AtomArgs) (src : Nat) : Except Flt Eff :=
  let e := eng s n
  let v := rL e.ctx src
  match at' with
  | .cross an =>
    let a := (rW e.ctx (codeA an.val)).toNat
    if a % 2 = 1 || a < 0xB000 || 0xB3FE < a then .error { cause := 2, addr := BitVec.ofNat 16 a }
    else
      let o := a - 0xB000
      match [locOf 4 n o, locOf 4 n (o + 1)].find? (fun l => decide (eccMark s l = 2)) with
      | some l => .error { cause := 4, loc := l }
      | none => .ok { acts := [landing 5 (.atomCross swap o v t)] }
  | .line k x =>
    match lineBank e k.val 1 with
    | .error f => .error f
    | .ok b =>
      let d := desc e k.val
      let o := (d.base + 2 * ((rL e.ctx x.val).toNat % d.len)) % 0x80000
      if rowBad s (b * 0x80000 + o) then .error { cause := 4, loc := dlsLoc (b * 0x80000 + o) }
      else .ok { acts := [landing 5 (.atomDls swap b o v t)], dls := [b * 0x80000 + o] }

def execAadd (w : Issue) (t : Fin 4) (at' : AtomArgs) (src : Fin 8) (s : State) : Outc :=
  ok (issueWord s w (.aadd w t at' src) (fun s n _ => effAtomic s n false t.val at' src.val))
def execAswp (w : Issue) (t : Fin 4) (at' : AtomArgs) (src : Fin 8) (s : State) : Outc :=
  ok (issueWord s w (.aswp w t at' src) (fun s n _ => effAtomic s n true t.val at' src.val))

end Sys2Proof.Machine
end

