-- ==== Sys2Proof/Machine/Inject.lean ====
section
/-! DEFINITION. Injection (R512 to R517). -/
namespace Sys2Proof.Machine

/-! ## Requests (R512 to R514) -/

/-- Nothing is armed any more. -/
def cancelInjections (s : State) : State := { s with events := { s.events with inj := [] } }

/-- INJECT_ENABLE.ENABLE: set, it lapses after the LAPSE_S of now; cleared, it cancels every injection (R512). -/
def enableInject (s : State) (on : Bool) : State :=
  if on then
    { s with events := { s.events with injOn := true, injUntil := mtPlus (now s) (msUnits s (1000 * s.events.lapseS.toNat)) } }
  else cancelInjections { s with events := { s.events with injOn := false } }

def execInjectEnable (r : Req) (v : Byte) (s : State) : Outc :=
  ok (writeCmd s r { obj := 0x1180, role := engineer, range := decide (v.toNat ≤ 1) } (fun s => .ok (enableInject s (decide (v = 1)))))

/-- INJECT_LAPSE: LAPSE_S after ENABLE was last written to 1. -/
def execInjectLapse (s : State) : Outc := if s.events.injOn && isDue (now s) s.events.injUntil then ok (enableInject s false) else ok s

def execCancelAll (r : Req) (v : Byte) (s : State) : Outc :=
  ok (writeCmd s r { obj := 0x1180, role := engineer, range := decide (v.toNat ≤ 1) } (fun s =>
    .ok (if v = 1 then cancelInjections s else s)))

/-- UNIT exists for the detector (R501, R514). -/
def injectUnit (code unit : Nat) : Bool :=
  match code / 4096 with
  | 1 => if code ≤ 0x1003 then decide (unit < 8) else decide (unit = 0xFFFF)
  | 2 => decide (unit < 32)
  | 3 => if code = 0x3006 then decide (unit < 32) else between 1 5 unit
  | 4 =>
    if code = 0x4007 ∨ code = 0x4008 then between 16 23 unit
    else if code = 0x4010 ∨ code = 0x4011 then decide (unit < 16)
    else decide (unit < 24)
  | 5 => if code ≤ 0x5012 then decide (unit < 4) else decide (unit = 0xFFFF)
  | _ => decide (unit = 0xFFFF)

/-- The detectors whose injection names a path. -/
def pathDetector (code : Nat) : Bool := [0x5001, 0x5004, 0x5005].contains code

/-- ARG, PERIOD_MS and COUNT within R513. -/
def injectFields (code : Nat) (periodic : Bool) (reserved : Byte) (arg : Long) (period count : Word) : Bool :=
  let most := if pathDetector code then 1 else if code = 0x2007 ∨ code = 0x2014 then 15 else 0
  decide (reserved = 0) && decide (arg.toNat ≤ most) &&
    (if periodic then between 10 60000 period.toNat else decide (period = 0) && decide (count = 0))

/-- The detector can fire on the unit (R514, step 3). -/
def injectState (s : State) (code unit : Nat) (arg : Long) : Bool :=
  let locked (b : Bool) : Bool := decide ((side s unit b).state = .locked)
  match code / 4096 with
  | 1 =>
    if code ≤ 0x1003 then decide ((refMon s unit).state = .qualified) && decide (s.clocks.active = some unit)
    else if between 0x1007 0x1009 code then decide (s.clocks.ecpll = .locked)
    else true
  | 2 => decide ((eng s unit).state = .run)
  | 4 => if code = 0x4010 ∨ code = 0x4011 then locked false || locked true else decide ((port s unit).state = .run)
  | 5 =>
    if pathDetector code then pathUp s unit (arg.getLsbD 0)
    else if code ≤ 0x5007 then linkUp s unit
    else true
  | _ => true

/-- The first base period that begins after `t`, at phase 0x8000 (R515). -/
def firstFiring (t : MT) : MT := ⟨t.count + 1, 0x8000⟩

/-- The request in force on a detector's element. -/
def injAt (s : State) (code : Nat) : Option Inj := tget none s.events.inj code
def setInj (s : State) (code : Nat) (v : Option Inj) : State :=
  { s with events := { s.events with inj := tset none s.events.inj code v } }

/-- The checks of R514 on a request, and its arm. -/
def injectBody (s : State) (code : Nat) (periodic : Bool) (reserved : Byte) (unit : Word) (arg : Long) (period count : Word) :
    Except Word State :=
  if !s.events.injOn then .error eInject
  else if !injectFields code periodic reserved arg period count || !injectUnit code unit.toNat then .error eRange
  else if !injectState s code unit.toNat arg then .error eState
  else if (injAt s code).isNone && decide (16 ≤ armedCount s) then .error eCapacity
  else .ok (setInj s code (some {
    periodic := periodic, unit := unit, arg := arg, period := period, fireAt := firstFiring (now s)
    left := if !periodic then some 1 else if count = 0 then none else some count.toNat }))

/-- A write to the INJECT element of a code, if there is one. -/
def injectCmd (s : State) (r : Req) (code : Word) (body : State → Except Word State) : State :=
  let c := code.toNat
  if injectable.contains c then writeCmd s r { obj := 0x1180 + c / 4096, role := engineer } body
  else runRequest s r 2 1 (fun _ => some (if between 1 7 (c / 4096) then eNoElement else eNoObject, 0)) (fun s => .ok (s, []))

def execOneShot (r : Req) (code : Word) (reserved : Byte) (unit : Word) (arg : Long) (period count : Word) (s : State) : Outc :=
  ok (injectCmd s r code (fun s => injectBody s code.toNat false reserved unit arg period count))

def execPeriodic (r : Req) (code : Word) (reserved : Byte) (unit : Word) (arg : Long) (period count : Word) (s : State) : Outc :=
  ok (injectCmd s r code (fun s => injectBody s code.toNat true reserved unit arg period count))

/-- A cancel is checked by step 1 only. -/
def cancelInjection (s : State) (code : Nat) : Except Word State :=
  if s.events.injOn then .ok (setInj s code none) else .error eInject

def execInjectCancel (r : Req) (code : Word) (s : State) : Outc := ok (injectCmd s r code (fun s => cancelInjection s code.toNat))

/-! ## Genuine firings (R516) -/

/-- A value that a real detection would have measured: free. -/
def freeNat (s : State) (n : Nat) : Nat × State :=
  let (k, s) := draw s
  ((Config.freeLong k).toNat % n, s)

/-- Which side of a bridge a firing strikes: the one that is LOCKED; of two, the spec does not say which. -/
def injectSide (s : State) (b : Nat) : Bool × State :=
  let l (e : Bool) : Bool := decide ((side s b e).state = .locked)
  if l false && l true then
    let (x, s) := freeNat s 2
    (decide (x = 1), s)
  else (l true, s)

/-- Which direction of a port a firing strikes: one that it has; of two, the spec does not say which. -/
def injectDir (s : State) (p : Nat) : Nat × State :=
  let d := (portCfg s p).directions
  if decide (p < 16) && decide (d = 3) then freeNat s 2
  else if decide (p < 16) && decide (d = 2) then (1, s)
  else if decide (16 ≤ p) then freeNat s 2
  else (0, s)

/-- The stamp that an injected underrun takes: the next after the last. -/
def missedStamp (s : State) (p : Nat) : MT :=
  let c := portClass s p
  match (port s p).lastStamp with
  | some t => mtPlus t (frameUnits c)
  | none => boundaryFrom c (now s)

/-- The oldest outbound frame that waits for its edge repeats the samples of the one before it (R24, R326). -/
def repeatOut (s : State) (p : Nat) : State :=
  let q := port s p
  match q.outReady with
  | [] => s
  | e :: l => setPort s p { q with outReady := { e with samples := if q.lastOut.isEmpty then e.samples else q.lastOut } :: l }

/-- An injected underrun, inbound or outbound (R326). -/
def injectUnderrun (s : State) (p dir : Nat) : State :=
  if dir = 1 then bufferOff (detectAs (portCount (repeatOut s p) p (xrunElem p 2)) 0x4004 p 1 true) p
  else if (portCfg s p).rate = 4 then bufferOff (detectAs (portCount s p (xrunElem p 0)) 0x4004 p 0 true) p
  else underrunIn s p (missedStamp s p) true

/-- An injected overrun: the newest frame of the direction is discarded (R326). -/
def injectOverrun (s : State) (p dir : Nat) : State :=
  let q := port s p
  overrun (setPort s p (if dir = 0 then { q with inFifo := q.inFifo.dropLast } else { q with outReady := q.outReady.dropLast })) p dir true

/-- An injected uncorrectable error strikes the reader of its location: PROG_ECC or DATA_ECC in the engine that the location names (R261). -/
def injectEcc (s : State) (kind : Nat) : State :=
  let (k, s) := freeNat s (2 ^ 29)
  let n := k / 2 ^ 24
  let s := eccDetect s true (kind * 2 ^ 29 + k) true
  if kind ≤ 4 && decide ((eng s n).state = .run) then
    modEng s n (fun e => { e with injFaults := e.injFaults ++ [(if kind = 1 then 3 else 4, 0)] })
  else s

/-- An injected inconsistent frame (R333). -/
def injectFrameErr (s : State) (p : Nat) : State :=
  let q := port s p
  let w := (true :: q.window).take 64
  let s := setPort s p { q with window := w }
  if 8 < (w.filter (fun b => b)).length then clockLost s p 3 true
  else
    let s := detectAs (if p < 16 then portCount s p 0x09 else s) 0x4006 p 0 true
    if hasIn s p then injectUnderrun s p 0 else s

/-- An injected timeout strikes a channel that waits, if one does (R338). -/
def injectZc (s : State) (p : Nat) : State :=
  let find (out : Bool) : Option Nat := (List.range (portChans s p)).find? (fun i => waiting (chan (port s p) out i))
  match find false, find true with
  | some i, _ => zcOut s p false i true
  | none, some i => zcOut s p true i true
  | none, none =>
    let (i, s) := freeNat s (max 1 (portChans s p))
    detectAs (setPort s p { port s p with timeouts := satInc31 (port s p).timeouts }) 0x4009 p (BitVec.ofNat 32 i) true

/-- An injected loss of one segment: its slots take their substitutes (R391, R392). -/
def injectSegLost (s : State) (l : Nat) : State :=
  let (j, s) := freeNat s 60
  let s := detectAs (linkCount s l 0x07) 0x5006 l 0 true
  let m := (link s l).rxMap
  m.foldl (fun s kv =>
    if (708 + kv.1 / 2) / 63 = j then
      let k := link s l
      linkCount (setLink s l { k with rx := tset {} k.rx kv.1 (slotLost (slotPos s m kv.1).1 (tget {} k.rx (slotBefore s m kv.1))) }) l 0x08
    else s) s

/-- An injected LINK_DOWN: every path of the link leaves UP and trains again. -/
def injectLinkDown (s : State) (l : Nat) : State :=
  let s := [false, true].foldl (fun s b => if pathUp s l b then pathOut s l b .signal else s) s
  detectAs (linkDown s l) 0x5003 l 0 true

/-- The unit is already in the detector's reaction, so that a firing is suppressed (R517). -/
def inReaction (s : State) (code unit : Nat) (arg : Long) : Bool :=
  match code / 4096 with
  | 1 =>
    if code = 0x100B then s.clocks.xoLost
    else if code = 0x100D then !s.clocks.lkpllLock
    else
    if code ≤ 0x1003 then decide ((refMon s unit).state ≠ .qualified)
    else if code = 0x1006 then decide (s.clocks.mcpll ≠ .locked)
    else if between 0x1007 0x1009 code then decide (s.clocks.ecpll ≠ .locked)
    else if code = 0x100C then !s.clocks.scpllLock
    else false
  | 2 => decide ((eng s unit).state ≠ .run) || (decide (code = 0x2012) && (eng s unit).ovf)
  | 4 => if code = 0x4010 ∨ code = 0x4011 then !injectState s code unit arg else decide ((port s unit).state ≠ .run)
  | 5 =>
    if code = 0x5010 ∨ code = 0x5011 then decide ((link s unit).join = code - 0x500E)
    else if code = 0x5012 ∨ code = 0x5013 then decide (s.grove.state = 4)
    else if code = 0x5019 then decide (16 ≤ s.grove.noRoot) && decide (s.grove.role ≠ .root)
    else !injectState s code unit arg
  | 6 => decide (code = 0x6005) && !coreUp s
  | 3 => decide (code = 0x3006) && (cross s unit).flag
  | 7 => between 0x7005 0x7007 code && decide (s.power.dev = .fault)
  | _ => false

/-- The reaction of a genuine firing, by its detector. -/
def fireGenuine (s : State) (code unit : Nat) (arg : Long) : State :=
  match code with
  | 0x1001 => refStop s unit true
  | 0x1002 => disqualify s unit .disqGlitch 0x1002 true
  | 0x1003 => disqualify s unit .disqRate 0x1003 true
  | 0x1006 => let (k, s) := draw s; mcpllOut s (Config.freeLong k) true
  | 0x1007 => ecpllLost s true
  | 0x1008 => let (k, s) := freeNat s 2; eclkTripped s (decide (k = 1)) true
  | 0x1009 =>
    detectAs (setClocks (closeGate s) (fun c => { c with ecpll := .search })) 0x1009 devUnit (BitVec.ofNat 32 s.clocks.rate) true
  | 0x100C => scpllLost s true
  | 0x100E => todError s true
  | 0x3001 => let (k, s) := freeNat s (2 ^ 29); eccDetect s false (unit * 2 ^ 29 + k) true
  | 0x3002 => injectEcc s unit
  | 0x4001 => let (k, s) := freeNat s (if unit < 16 then 3 else 2); clockLost s unit (if unit < 16 then k + 1 else k + 3) true
  | 0x4003 => alignFaults s unit true
  | 0x4004 => let (d, s) := injectDir s unit; injectUnderrun s unit d
  | 0x4005 => let (d, s) := injectDir s unit; injectOverrun s unit d
  | 0x4006 => injectFrameErr s unit
  | 0x4007 => let (k, s) := freeNat s 2; detectAs (portCount s unit 0x07) 0x4007 unit (BitVec.ofNat 32 k) true
  | 0x4008 =>
    let (k, s) := freeNat s 2
    let s := setPort s unit { port s unit with holdNext := some k }
    detectAs (portCount s unit 0x05) 0x4008 unit (BitVec.ofNat 32 k) true
  | 0x4009 => injectZc s unit
  | 0x4010 => let (e, s) := injectSide s unit; slip s unit e true
  | 0x4011 => let (e, s) := injectSide s unit; unlockSide s unit e false true
  | 0x5001 => let (k, s) := freeNat s 4; losePath s unit (arg.getLsbD 0) .signal 0x5001 (pathArg (arg.getLsbD 0) (k + 1)) true
  | 0x5003 => injectLinkDown s unit
  | 0x5004 => losePath s unit (arg.getLsbD 0) .delayFault 0x5004 arg true
  | 0x5006 => injectSegLost s unit
  | 0x6001 =>
    let (k, s) := freeNat s 3
    authFail s (if k = 0 then .ethernet else if k = 1 then .hq else .grove) true
  | 0x6005 => let (k, s) := draw s; lockstepHit s (Config.freeLong k) true
  | 0x7002 => let (k, s) := freeNat s 16; slackOut s k true
  | 0x7003 => tjWarn s (s.power.tjC.signExtend 32) true
  | _ => modEng s unit (fun e => { e with injFaults := e.injFaults ++ [(code % 256, arg.toNat)] })

/-! ## Simulated firings (R516) -/

def simulated : List Nat :=
  [0x100B, 0x100D, 0x2015, 0x3003, 0x3004, 0x3006, 0x5005, 0x5007, 0x5010, 0x5011, 0x5012, 0x5013, 0x5014, 0x5019, 0x6003,
   0x7004, 0x7005, 0x7006, 0x7007]

/-- Only the record and its count: ARG is 0 or the path where R503 fixes it, and free otherwise. -/
def fireSimulated (s : State) (code unit : Nat) (arg : Long) : State :=
  if [0x100B, 0x100D, 0x5005, 0x5007, 0x5019, 0x7004].contains code then detectAs s code unit arg true
  else
    let (k, s) := draw s
    detectAs s code unit (Config.freeLong k) true

/-! ## INJECTION_FIRE (R515, R517) -/

/-- A real detection of the code on the unit was made in this cycle: record or count. -/
def coincides (s : State) (code unit : Nat) : Bool :=
  let t := now s
  let key := code * 65536 + unit
  (s.events.log ++ s.events.hwq).any (fun v =>
      decide (v.code.toNat = code) && decide (v.unit.toNat = unit) && decide (v.mt = t) && !v.injected) ||
    s.events.limits.any (fun l => decide (l.key = key) && decide (0 < l.count) && decide (l.lastMt = t) && !l.allInj)

/-- The firing is used up: the request goes, or waits for its next firing. -/
def useFiring (s : State) (code : Nat) (i : Inj) : State :=
  let at' := nextFiring s i.fireAt i.period.toNat
  match i.left with
  | none => setInj s code (some { i with fireAt := at' })
  | some n => setInj s code (if n ≤ 1 then none else some { i with left := some (n - 1), fireAt := at' })

def execInjectionFire (code : Word) (s : State) : Outc :=
  let c := code.toNat
  match injAt s c with
  | none => ok s
  | some i =>
    if !isDue (now s) i.fireAt then ok s
    else
      let s := useFiring s c i
      if s.power.ccDown.isSome then ok s
      else
        let s : State := { s with events := { s.events with fired := satInc31 s.events.fired } }
        let u := i.unit.toNat
        if coincides s c u then ok s
        else if inReaction s c u i.arg then ok (suppress s)
        else if simulated.contains c then ok (fireSimulated s c u i.arg)
        else ok (fireGenuine s c u i.arg)

end Sys2Proof.Machine
end

