-- ==== Sys2Proof/Machine/Moves.lean ====
section
/-! DEFINITION. Moves, loads and stores (R201, R202). -/
namespace Sys2Proof.Machine

/-- MOV: Wd := Ws. -/
def execMov (w : Issue) (d src : Fin 46) (s : State) : Outc :=
  ok (regWord s w (.mov w d src) (fun c _ => [wordAct 1 d.val (rW c src.val)]))

/-- MOVL: Ld := Ls or a tap. -/
def execMovl (w : Issue) (d : Fin 8) (src : Fin 12) (s : State) : Outc :=
  ok (regWord s w (.movl w d src) (fun c _ => longActs 1 d.val (rL c src.val)))

/-- LDI: Wd := imm. -/
def execLdi (w : Issue) (d : Fin 46) (imm : Word) (s : State) : Outc :=
  ok (regWord s w (.ldi w d imm) (fun _ _ => [wordAct 1 d.val imm]))

/-- LDIL: Ld := imm under R191. -/
def execLdil (w : Issue) (d : Fin 8) (field : BitVec 18) (s : State) : Outc :=
  ok (regWord s w (.ldil w d field) (fun _ ext => longActs 1 d.val (immOf 18 32 true ext field.toNat)))

/-- MOVP: a half of Pn. -/
def execMovp (w : Issue) (d : Fin 8) (p : Fin 2) (low : Bool) (s : State) : Outc :=
  ok (regWord s w (.movp w d p low) (fun c _ =>
    let v := tget 0 c.prods p.val
    longActs 1 d.val (if low then v.extractLsb' 0 32 else v.extractLsb' 32 32)))

/-- Load a word into a word register, latency 2. -/
def effLd (s : State) (n code : Nat) (m : MemOp) : Except Flt Eff :=
  let (a, an) := effAddr (eng s n).ctx m 1
  match loadWord s n a with
  | .error f => .error f
  | .ok v => .ok { acts := addrAct m.an.val an ++ [wordAct 2 code v], loads := [a] }

/-- Store a word register in the issue cycle. -/
def effSt (s : State) (n code : Nat) (m : MemOp) : Except Flt Eff :=
  let c := (eng s n).ctx
  let (a, an) := effAddr c m 1
  match storeOne s n a (rW c code) with
  | .error f => .error f
  | .ok ws => .ok { acts := addrAct m.an.val an, stores := ws }

/-- Load a long, latency 2. -/
def effLdl (s : State) (n d : Nat) (m : MemOp) : Except Flt Eff :=
  let (a, an) := effAddr (eng s n).ctx m 2
  match loadLong s n a with
  | .error f => .error f
  | .ok v => .ok { acts := addrAct m.an.val an ++ longActs 2 d v, loads := [a, a + 1] }

/-- Store a long in the issue cycle. -/
def effStl (s : State) (n : Nat) (v : Long) (m : MemOp) : Except Flt Eff :=
  let (a, an) := effAddr (eng s n).ctx m 2
  match storeLong s n a v with
  | .error f => .error f
  | .ok ws => .ok { acts := addrAct m.an.val an, stores := ws }

def execLd (w : Issue) (d : Fin 46) (m : MemOp) (s : State) : Outc :=
  ok (issueWord s w (.ld w d m) (fun s n _ => effLd s n d.val m))

def execSt (w : Issue) (src : Fin 46) (m : MemOp) (s : State) : Outc :=
  ok (issueWord s w (.st w src m) (fun s n _ => effSt s n src.val m))

def execLdl (w : Issue) (d : Fin 8) (m : MemOp) (s : State) : Outc :=
  ok (issueWord s w (.ldl w d m) (fun s n _ => effLdl s n d.val m))

def execStl (w : Issue) (src : Fin 12) (m : MemOp) (s : State) : Outc :=
  ok (issueWord s w (.stl w src m) (fun s n _ => effStl s n (rL (eng s n).ctx src.val) m))

end Sys2Proof.Machine
end

