-- ==== Sys2Proof/Machine/Multiply.lean ====
section
/-! DEFINITION. Multiply, accumulate and accumulator operations (R206 to R211, R224 to R235). -/
namespace Sys2Proof.Machine

/-- A MAC-class result: fitted before it lands and before it is forwarded (R150, R230, R231). -/
def macResult (c : Ctx) (n : Nat) (v : Int) : List (Nat × Option Nat × Act) :=
  let (x, o) := fit72 (accm c) v
  (3, some n, .acc n x) :: (if o then [landing 3 (.setAov n)] else [])

/-- A latency-1 accumulator result with its overflow. -/
def accResult (n : Nat) (r : Acc × Bool) : List (Nat × Option Nat × Act) :=
  landing 1 (.acc n r.1) :: (if r.2 then [landing 1 (.setAov n)] else [])

/-- ACn := ACn ± product. -/
def macActs (c : Ctx) (n : Nat) (sgn : Int) (p : Int) : List (Nat × Option Nat × Act) :=
  macResult c n ((accMac c n).toInt + sgn * p)

def execMul (w : Issue) (p : Fin 2) (a b : Fin 12) (s : State) : Outc :=
  ok (regWord s w (.mul w p a b) (fun c _ => [landing 3 (.prod p.val (prodP (rL c a.val) (rL c b.val)))]))
def execMac (w : Issue) (n : Fin 4) (a b : Fin 12) (s : State) : Outc :=
  ok (regWord s w (.mac w n a b) (fun c _ => macActs c n.val 1 (prodSS (rL c a.val) (rL c b.val))))
def execMsu (w : Issue) (n : Fin 4) (a b : Fin 12) (s : State) : Outc :=
  ok (regWord s w (.msu w n a b) (fun c _ => macActs c n.val (-1) (prodSS (rL c a.val) (rL c b.val))))
def execMacs (w : Issue) (n : Fin 4) (a b : Fin 12) (s : State) : Outc :=
  ok (regWord s w (.macs w n a b) (fun c _ => macActs c n.val 1 (prodSU (rL c a.val) (rL c b.val))))

/-- The even accumulator of a pair (R208). -/
def pairBase (q : Bool) : Nat := if q then 2 else 0

/-- CMAC and CMSU: both parts are added or subtracted (R208). -/
def cmacActs (c : Ctx) (q : Bool) (sgn : Int) (p : Int × Int) : List (Nat × Option Nat × Act) :=
  macActs c (pairBase q) sgn p.1 ++ macActs c (pairBase q + 1) sgn p.2

def execCmul (w : Issue) (j q : Bool) (a b : Fin 8) (s : State) : Outc :=
  ok (regWord s w (.cmul w j q a b) (fun c _ =>
    let p := prodC (rL c a.val) (rL c b.val) j
    [landing 3 (.acc (pairBase q) (BitVec.ofInt 72 p.1)), landing 3 (.acc (pairBase q + 1) (BitVec.ofInt 72 p.2))]))
def execCmac (w : Issue) (j q : Bool) (a b : Fin 8) (s : State) : Outc :=
  ok (regWord s w (.cmac w j q a b) (fun c _ => cmacActs c q 1 (prodC (rL c a.val) (rL c b.val) j)))
def execCmsu (w : Issue) (j q : Bool) (a b : Fin 8) (s : State) : Outc :=
  ok (regWord s w (.cmsu w j q a b) (fun c _ => cmacActs c q (-1) (prodC (rL c a.val) (rL c b.val) j)))

def execAclr (w : Issue) (n : Fin 4) (s : State) : Outc :=
  ok (regWord s w (.aclr w n) (fun _ _ => [landing 1 (.acc n.val 0)]))
def execAshf (w : Issue) (n : Fin 4) (amount : BitVec 6) (s : State) : Outc :=
  ok (regWord s w (.ashf w n amount) (fun c _ => accResult n.val (ashfV (accm c) (acc c n.val) amount.toInt)))
def execArnd (w : Issue) (n : Fin 4) (rm : Fin 4) (s : State) : Outc :=
  ok (regWord s w (.arnd w n rm) (fun c _ => accResult n.val (arndV (accm c) (acc c n.val) (roundingOf c rm.val))))
def execAnrm (w : Issue) (n : Fin 4) (d : Fin 16) (s : State) : Outc :=
  ok (regWord s w (.anrm w n d) (fun c _ =>
    let r := anrmV (acc c n.val)
    [landing 1 (.acc n.val r.1), wordAct 1 d.val r.2]))

/-- The comparisons of ACMP: EQ, LT, LE (R209). -/
def accCond (cc : Nat) (a b : Acc) : Bool :=
  match cc with
  | 0 => a == b
  | 1 => a.slt b
  | _ => a.sle b

def execAcmp (w : Issue) (g : Fin 8) (a b : Fin 4) (cc : Fin 4) (s : State) : Outc :=
  ok (regWord s w (.acmp w g a b cc) (fun c _ => [landing 1 (.guard g.val (accCond cc.val (acc c a.val) (acc c b.val)))]))
def execAsat (w : Issue) (n : Fin 4) (s : State) : Outc :=
  ok (regWord s w (.asat w n) (fun c _ =>
    let r := asatV (acc c n.val)
    landing 1 (.acc n.val r.1) :: (if r.2 then [landing 1 .setSat] else [])))

/-- The flag write of a saturating store. -/
def satAct (b : Bool) : List (Nat × Option Nat × Act) := if b then [landing 1 .setSat] else []

/-- ASTL to a register (R211). -/
def astlReg (c : Ctx) (d n rm : Nat) : List (Nat × Option Nat × Act) :=
  let r := astlV (acc c n) (roundingOf c rm)
  longActs 1 d r.1 ++ satAct r.2

def execAstl (w : Issue) (dst : AstlDest) (n : Fin 4) (rm : Fin 4) (s : State) : Outc :=
  ok (issueWord s w (.astl w dst n rm) (fun s e _ =>
    let c := (eng s e).ctx
    match dst with
    | .reg d => .ok { acts := astlReg c d.val n.val rm.val }
    | .mem m =>
      let r := astlV (acc c n.val) (roundingOf c rm.val)
      match effStl s e r.1 m with
      | .error f => .error f
      | .ok x => .ok { x with acts := x.acts ++ satAct r.2 }))

end Sys2Proof.Machine
end

