-- ==== Sys2Proof/Machine/Pair.lean ====
section
/-! DEFINITION. Pair words (R153 to R155, R218, R219). -/
namespace Sys2Proof.Machine

/-- A slot's memory operand. -/
def slotMem (an : Fin 8) (m : SMode) : MemOp := ⟨an, smodeFull m⟩

/-- A slot has the effect of its long-format counterpart, with J = 0 and rounding mode 3 (R219). -/
def slotEff (s : State) (n : Nat) : Slot → Except Flt Eff
  | .snop => .ok {}
  | .ldl d an m => effLdl s n d.val (slotMem an m)
  | .stl src an m => effStl s n (rL (eng s n).ctx src.val) (slotMem an m)
  | .ld d an m => effLd s n d.val (slotMem an m)
  | .st src an m => effSt s n src.val (slotMem an m)
  | .mac k a b => let c := (eng s n).ctx; .ok { acts := macActs c k.val 1 (prodSS (rL c a.val) (rL c b.val)) }
  | .msu k a b => let c := (eng s n).ctx; .ok { acts := macActs c k.val (-1) (prodSS (rL c a.val) (rL c b.val)) }
  | .mul p a b => let c := (eng s n).ctx; .ok { acts := [landing 3 (.prod p.val (prodP (rL c a.val) (rL c b.val)))] }
  | .cmac q a b => let c := (eng s n).ctx; .ok { acts := cmacActs c q 1 (prodC (rL c a.val) (rL c b.val) false) }
  | .cmsu q a b => let c := (eng s n).ctx; .ok { acts := cmacActs c q (-1) (prodC (rL c a.val) (rL c b.val) false) }
  | .movl d src => .ok { acts := longActs 1 d.val (rL (eng s n).ctx src.val) }
  | .addl d a b => .ok { acts := aluActs (eng s n).ctx none true fnAdd (.longReg d a b) }
  | .subl d a b => .ok { acts := aluActs (eng s n).ctx none true fnSub (.longReg d a b) }
  | .mov d src => .ok { acts := [wordAct 1 d.val (rW (eng s n).ctx src.val)] }
  | .astl d k => .ok { acts := astlReg (eng s n).ctx d.val k.val 3 }
  | .aclr k => .ok { acts := [landing 1 (.acc k.val 0)] }

/-- A destination as R154 compares them: register words, accumulators, products, and memory words. -/
inductive Dest where
  | word (code : Nat) | acc (n : Nat) | prod (n : Nat) | mem (a : Word)
  deriving DecidableEq, Repr

/-- The destinations of a slot; status flags are none (R155). -/
def destsOf (f : Eff) : List Dest :=
  f.acts.filterMap (fun a => match a.2.2 with
    | .word code _ => some (.word code)
    | .acc n _ => some (.acc n)
    | .prod n _ => some (.prod n)
    | _ => none) ++ f.stores.map (fun p => .mem p.1)

/-- A write of C. -/
def writesC (a : Nat × Option Nat × Act) : Bool :=
  match a.2.2 with
  | .flagC _ => true
  | _ => false

/-- Both slots together: on a conflict slot L's writes are suppressed and PCF is set (R154); of two writes of C slot
H's lands (R155). -/
def pairEff (h l : Eff) : Eff :=
  if (destsOf h).any (fun d => (destsOf l).contains d) then
    { h with acts := h.acts ++ [landing 1 .setPcf], loads := h.loads ++ l.loads }
  else
    let la := if h.acts.any writesC then l.acts.filter (fun a => !writesC a) else l.acts
    { acts := h.acts ++ la, stores := h.stores ++ l.stores, loads := h.loads ++ l.loads, dls := h.dls ++ l.dls, dwr := none }

/-- PAIR_WORD: both slots read what stood before the word; a fault in either is the word's (R153, R220). DESIGN CHOICE
(notes/assumptions/134): where both fault, the record is slot H's. -/
def execPairWord (w : Issue) (h l : Slot) (s : State) : Outc :=
  ok (issueWord s w (.pairWord w h l) (fun s n _ =>
    match slotEff s n h with
    | .error f => .error f
    | .ok eh => match slotEff s n l with
      | .error f => .error f
      | .ok el => .ok (pairEff eh el)))

end Sys2Proof.Machine
end

