-- ==== Sys2Proof/Machine/Period.lean ====
section
/-! DEFINITION. The base-period boundary: the count, what counts base periods, claims, MCPLL, and the actions that no frame touches
(R43, R45, R66, R79, R96, R123, R409 to R412, R478). -/
namespace Sys2Proof.Machine

/-- One base period more since the router last delivered to an endpoint (R123). -/
def starves (x : EndPoint) : EndPoint := { x with starved := x.starved + 1 }

/-- One base period more since an SOF arrived on a path in UP (R389). -/
def noFrameYet (p : Path) : Path := if p.state = .up then { p with noSof := p.noSof + 1 } else p

/-- A base period in which no frame came on a link with a path UP: every segment of it is lost (R391). -/
def loseFrame (s : State) (l : Nat) : State :=
  let low := if pathUp s l false then (path s l false).low else (path s l true).low
  (List.range (if low then 4 else 60)).foldl (fun s _ => detect (linkCount s l 0x07) 0x5006 l 0) s

/-- The GROVE references of a link stop once neither of its paths has been UP for 2 base periods (R396). -/
def linkStops (s : State) (l : Nat) : State :=
  let n := if linkUp s l then 0 else min 2 ((link s l).noPath + 1)
  let s := setLink s l { link s l with noPath := n }
  if n = 2 then (List.range 8).foldl (fun s i => if decide (refType s i = 5) && decide (groveLink s i = some l) then refStop s i false else s) s else s

/-- What counts base periods without waiting for a command: silence on links, claims, a Root that yields, starved
endpoints (R123, R409, R411, R412). -/
def periodCounts (s : State) : State :=
  let yields := decide (s.grove.role = .root) && s.links.any (fun kv => decide (4 ≤ kv.2.higherRun))
  let s : State := { s with grove := { s.grove with
    role := if yields then (if s.cfg.priority = 0 then .member else .standby) else s.grove.role
    noRoot := s.grove.noRoot + 1
    claimRun := if s.grove.role = .claiming then s.grove.claimRun + 1 else 0 } }
  let s := s.links.foldl (fun s kv =>
    let s := linkStops s kv.1
    let s := if 0 < (link s kv.1).silent then loseSlots (if linkUp s kv.1 then loseFrame s kv.1 else s) kv.1 else s
    let l := link s kv.1
    setLink s kv.1 { l with
      pathA := noFrameYet l.pathA, pathB := noFrameYet l.pathB
      silent := l.silent + 1, tx := l.txNext, txNext := [], txEnds := l.txEnds.map (fun x => (x.1, starves x.2))
      rxNow := l.rx.map (fun x => (x.1, (x.2.sample, x.2.valid))) }) s
  let s := eachBridge s (fun _ b => { b with egress := { b.egress with ends := b.egress.ends.map (fun x => (x.1, starves x.2)) } })
  eachPort s (fun _ q => { q with chOut := q.chOut.map (fun x => (x.1, { x.2 with starved := x.2.starved + 1 })) })

/-- BASE_PERIOD_BOUNDARY: the count advances by one (R45), clock settings and staged slot maps, playout banks and routes take effect
(R133, R377), due actions that no
running frame touches are applied, and after a gap all of them (R66, R79). The samples stamped with the new boundary come after those
actions: its first router window takes them (R68, R337). -/
def execBasePeriodBoundary (s : State) : Outc :=
  if !timeRuns s then ok s
  else
    let t : MT := ⟨(now s).count + 1, 0⟩
    let s : State := { s with clocks := { s.clocks with mt := t, clkoutApplied := s.cfg.clocks } }
    let s := if t.count = 0 then detect s 0x100F devUnit 0 else s
    let s := s.ports.foldl (fun s kv => lostForeign s kv.1 t) (allStamps s (mtMinus t 1))
    let s := if s.clocks.gateOpen then
        endLeases (applyWhere s (fun x => isDue t x.target && (touched s x.act).all (fun n => decide ((eng s n).stage = .none) || freeRun (eng s n))))
      else eachBridge s (fun b x => { x with ingress := gapSide t (rbCfg s b).inClass x.ingress })
    let s := endGap s (now s)
    let s := periodCounts (applyStaged (ppsOut s (now s)))
    let s := rootSteers (if alone s then s else hearClaims (joinsNow s))
    let s := dropTails (bufferWatch (mcpllTick s)) (now s)
    let s := (List.range 32).foldl settlePortB s
    ok (wakePorts (eachEng s (powerUp s)))

end Sys2Proof.Machine
end

