-- ==== Sys2Proof/Machine/Replace.lean ====
section
/-! DEFINITION. Like-for-like replacement: the configuration record of a member, its holders, and the device that takes its place (R7, R34,
R406, R428, R429, R469). -/
namespace Sys2Proof.Machine

/-! ## The record (R428) -/

/-- The key sets as octets, by their places in Heartwood. -/
def keyOctets (s : State) : List Byte := stringsOctets s.heart.keys

/-- The public identity key of the device at the other end of a link. -/
def readIdentity (s : State) : List Byte × State := (Config.peerIdentity s.fresh, { s with fresh := s.fresh + 1 })

/-- This member's record, with its keys wrapped to the identity key `to'`. DEDUCED (notes/assumptions/148): persistent objects as a
CONFIG_SAVE would record them now, and the images that the configuration store records. -/
def ownConfig (s : State) (to' : List Byte) : Record :=
  let c := snapshot s
  { device := s.cfg.deviceNumber, epoch := s.epoch, tag := s.grove.epochTag, cfg := c.cfg, routes := c.routes, leases := c.leases
    keys := Config.sealKeys to' (keyOctets s), images := if (currentStore s).valid then storeImages (currentStore s) else [] }

/-- The octets of a copy of the store after its header: persistent values, leases, routes and images, laid out as a neighbour's record is
(notes/assumptions/148). -/
def storeOctets (c : Store) : List Byte :=
  recordOctets { device := 0, epoch := c.epoch, tag := 0, cfg := c.cfg, routes := c.routes, leases := c.leases, keys := [], images := storeImages c }

/-- The header of a copy of the store: its length, the saved CONFIG_EPOCH and the CRC-32C over what follows (R371, R488). -/
def storeHeader (c : Store) : List Byte := be 4 (storeOctets c).length ++ beL c.epoch ++ beL (crc32c (storeOctets c))

/-- The units that carry a record: 3,800 octets each but the last, in SEQ order from `seq` on (R386). -/
def recordUnits (seq : Word) (m : List Byte) : List BulkUnit :=
  let n := (m.length + 3799) / 3800
  (List.range n).map (fun i => ⟨seq + BitVec.ofNat 16 i, 0, decide (i + 1 = n), 0, (m.drop (3800 * i)).take 3800⟩)

/-- Queue a record on a link's bulk channel. -/
def sendRecord (s : State) (l : Nat) (r : Record) : State :=
  let k := link s l
  let us := recordUnits (k.bulkSeq + 1) (recordOctets r)
  setLink s l { k with bulkSeq := k.bulkSeq + BitVec.ofNat 16 us.length, bulkOut := k.bulkOut ++ us }

/-- Insert by the peer's device number. -/
def insertPeer (x : Nat × Nat) : List (Nat × Nat) → List (Nat × Nat)
  | [] => [x]
  | y :: l => if x.1 ≤ y.1 then x :: y :: l else y :: insertPeer x l

/-- The links to the two joined neighbours with the lowest device numbers; of several links to one, the lowest. -/
def holderLinks (s : State) : List Nat :=
  let ns := ((List.range 4).filter (fun l => (link s l).joinDone)).map (fun l => ((link s l).peerDev.toNat, l))
  let one := ns.foldl (fun l x => if l.any (fun y => decide (y.1 = x.1)) then l else l ++ [x]) []
  ((one.foldl (fun l x => insertPeer x l) []).take 2).map (·.2)

/-- CONFIG_RECORD_SEND: the record goes to its holders, the keys wrapped to each of them. -/
def execConfigRecordSend (s : State) : Outc :=
  if !coreUp s || !joinedGrove s then ok s
  else ok ((holderLinks s).foldl (fun s l =>
    let (k, s) := readIdentity s
    sendRecord s l (ownConfig s k)) s)

/-! ## Replacement (R429) -/

/-- A peer with ID 0 has appeared on a link (R429, step 2): its ID was the first thing that the join asked for. -/
def newPeer (s : State) (l : Nat) : Bool := linkUp s l && decide ((link s l).join = 1) && decide ((link s l).peerGrove = 0)

/-- REPLACE_OFFER: a holder offers its record to a new peer once the failed member has been absent from the link-state records for
10 s; the peer, alone, sees the offer, and a second holder's beside it. A control core that restarts offers nothing (R34). -/
def execReplaceOffer (l : Fin 4) (compat : Byte) (rightPosition : Bool) (serialLow : Long) (s : State) : Outc :=
  let n := l.val
  let stands (g : Grove) : Grove := { g with offers := if g.offers.contains n then g.offers else g.offers ++ [n] }
  if !coreUp s then ok s
  else if alone s then
    if s.grove.offers.isEmpty then
      let (k, s) := draw s
      ok (setGrove s (fun g => { g with offerState := 1, offerDevice := Config.freeWord k &&& 0x0FFF, offers := [n], incoming := [] }))
    else ok (setGrove s stands)
  else if !s.grove.holds.getLsbD n || !recordAbsent s (tget 0 s.grove.holdsDev n) || !newPeer s n then ok s
  else if rightPosition && decide (compat = ownCompat s) then ok (setGrove s stands)
  else ok (detect s 0x5018 n serialLow)

/-- The links whose peer had a device number, and whose record is held. -/
def holdersOf (s : State) (device : Nat) : List Nat := (s.grove.holdsDev.filter (fun kv => decide (kv.2 = device))).map (·.1)

/-- The record held for a link's peer. -/
def recordHeld (s : State) (l : Nat) : Record := recordFrom (tget [] s.grove.held l)

/-- The crypto unit opens the key sets of a record it holds and wraps them to another identity key. -/
def rewrap (s : State) (to' : List Byte) (r : Record) : Record :=
  { r with keys := match Config.openKeys s.heart.identity r.keys with
      | some k => Config.sealKeys to' k
      | none => [] }

/-- GROVE_REPLACE.CONFIRM on a holder: the record goes out on the link where it is offered. -/
def execConfirm (r : Req) (device : Word) (s : State) : Outc :=
  ok (writeCmd s r { obj := 0x0E20, role := custodian, range := decide (device.toNat < 4096) } (fun s =>
    let ls := holdersOf s device.toNat
    if ls.isEmpty then .error eNoElement
    else match ls.find? (fun l => s.grove.offers.contains l) with
      | none => .error eState
      | some l =>
        let (k, s) := readIdentity s
        .ok (setGrove (sendRecord s l (rewrap s k (recordHeld s l))) (fun g => { g with offers := g.offers.filter (fun j => decide (j ≠ l)) }))))

/-- Links follow their settings: a path that they enable begins training, one that they disable is off (R388). -/
def followLinks (s : State) : State :=
  (List.range 4).foldl (fun s l => [false, true].foldl (fun s b =>
    let on := pathOn (linkCfg s l) b
    if on && decide ((path s l b).state = .off) then startPath s l b
    else if !on && decide ((path s l b).state ≠ .off) then sendPath s l b .off
    else s) s) s

/-- The replacement takes a record with the failed member's identity: Heartwood is provisioned, the configuration applied as a boot
applies the store, its references monitored anew; it joins as for the first time, and its streams wait to be readmitted (R406, R429,
R432). -/
def takeIdentity (s : State) (r : Record) (grove : Long) (device : Nat) : State :=
  let s := match Config.openKeys s.heart.identity r.keys with
    | some k => storeKeys s (stringsOf 192 k)
    | none => s
  let s := applyConfig s { r.cfg with groveId := grove, deviceNumber := device } s.epoch r.leases r.images r.routes
  let s := steer (setClocks s (fun c => { c with refs := [] }))
  let s := followLinks (useMgmt (enablePorts s) s.cfg.mgmt)
  let s := setPatrol s { s.mem.patrol with state := if s.cfg.patrolOn then s.mem.patrol.state else .paused }
  freshGrove s

/-- REPLACE_TRANSFER_DONE on the replacement: the verified record is applied, and it joins (R406, R429); without a record nothing was
transferred. -/
def execReplaceTransferDone (good : Bool) (grove : Long) (device : BitVec 12) (s : State) : Outc :=
  if !coreUp s || !alone s || s.grove.incoming.isEmpty then ok s
  else if good then
    let s := takeIdentity s (recordFrom s.grove.incoming) grove device.toNat
    ok (setGrove s (fun g => { g with offerState := 4, offers := [], incoming := [] }))
  else ok (setGrove s (fun g => { g with offerState := 5, offers := [], incoming := [] }))

end Sys2Proof.Machine
end

