-- ==== Sys2Proof/Machine/Settings.lean ====
section
/-! DEFINITION. What a write of an element without a command row of its own does: settings and clear elements, and the checks of
their owning chapters (R86, R88, R132, R133, R181, R202, R286, R315, R336, R341, R345, R348, R364, R402, R408, R416, R458,
R462, R466, R467, R498, R518). -/
namespace Sys2Proof.Machine

/-! ## Owning units that are idle (R436) -/

/-- A port action is armed on a port (R336). -/
def portArmed (s : State) (p : Nat) : Bool :=
  s.clocks.sched.any (fun x => match x.act with
    | .port q _ _ _ _ _ => decide (q = p)
    | _ => false)

/-- Step 9 of R456 for an RWI element: an engine in IDLE, a port in OFF, a bridge with ENABLE = 0, SAPLING for RESEARCH, a stream
entry that is FREE or DEFINED; SLOTS waits for the port's armed actions too. -/
def unitIdle (s : State) (obj el : Nat) : Bool :=
  if obj = 0x0230 then decide (s.power.dev = .sapling)
  else if between 0x0400 0x07FF obj then decide ((eng s ((obj - 0x0400) / 32)).state = .idle)
  else if between 0x0800 0x0BFF obj then
    let p := (obj - 0x0800) / 64
    !(portCfg s p).enable && (decide (el ≠ 2) || !portArmed s p)
  else if between 0x0C00 0x0C7F obj then !(portCfg s (16 + (obj - 0x0C00) / 16)).enable
  else if between 0x0C80 0x0CFF obj then !(rbCfg s ((obj - 0x0C80) / 8)).enable
  else if between 0x4000 0x5FFF obj then decide ((stream s (obj - 0x4000)).state = .free) || decide ((stream s (obj - 0x4000)).state = .defined)
  else true

/-! ## Device, sessions, interfaces, firmware (R466, R487, R498) -/

def setPowerCfg (s : State) (f : PowerCfg → PowerCfg) : State := { s with cfg := { s.cfg with power := f s.cfg.power } }

/-- The management settings as earlier elements of the request leave them. -/
def mgmtNext (s : State) : MgmtCfg :=
  match s.mgmt.after.getLast? with
  | some (.mgmt c) => c
  | _ => s.cfg.mgmt

/-- A write of MGMT_NET or MGMT_HQ: CONFLICT where it disables the interface that carries it, or the last one that is not the
grove; otherwise it takes effect after the reply. -/
def mgmtWrite (s : State) (r : Req) (c : MgmtCfg) : Except Word State :=
  let old := mgmtNext s
  let i := (session s r.sess.val).iface
  let netOff := old.netEnable && !c.netEnable
  let hqOff := old.hqEnable && !c.hqEnable
  if (netOff && decide (i = .ethernet)) || (hqOff && decide (i = .hq)) || ((netOff || hqOff) && !c.netEnable && !c.hqEnable) then
    .error eConflict
  else .ok (later s (.mgmt c))

def clearElems (t : Tbl Long) (l : List Nat) : Tbl Long := l.foldl (fun t k => tset 0 t k 0) t

def deviceSet (s : State) (r : Req) (obj el v : Nat) : Except Word State :=
  let m := mgmtNext s
  match obj, el with
  | 0x0101, 2 => .ok (setPowerCfg s (fun p => { p with wakeGpio := BitVec.ofNat 8 v }))
  | 0x0101, 3 => .ok (setPowerCfg s (fun p => { p with wakeEdge := v }))
  | 0x0120, 0x12 => .ok { s with cfg := { s.cfg with mgmt := { s.cfg.mgmt with idleS := BitVec.ofNat 16 v } } }
  | 0x0120, 0x16 => .ok (if v = 1 then setMgmt s (fun m => { m with authFail := 0, authOvf := false }) else s)
  | 0x0130, 0 => mgmtWrite s r { m with netEnable := decide (v = 1) }
  | 0x0130, 1 => mgmtWrite s r { m with address := BitVec.ofNat 32 v }
  | 0x0130, 2 => mgmtWrite s r { m with mask := BitVec.ofNat 32 v }
  | 0x0130, 3 => mgmtWrite s r { m with gateway := BitVec.ofNat 32 v }
  | 0x0130, 4 => mgmtWrite s r { m with udpPort := BitVec.ofNat 16 v }
  | 0x0131, _ => mgmtWrite s r { m with hqEnable := decide (v = 1) }
  | 0x0132, 0x0D => .ok (if v = 1 then setMgmt s (fun m => { m with stats := clearElems m.stats (List.range 9), statsOvf := 0 }) else s)
  | 0x0140, 5 => .ok (setPowerCfg s (fun p => { p with trialS := BitVec.ofNat 16 v }))
  | 0x0140, 7 => .ok (setPower s (fun p => { p with compatChange := decide (v = 1) }))
  | 0x1200, 4 => .ok (setPowerCfg s (fun p => { p with debugPermit := decide (v = 1) }))
  | _, _ => .ok s

/-! ## Clocks (R86, R131 to R133) -/

def setClockCfg (s : State) (f : ClockCfg → ClockCfg) : State := { s with cfg := { s.cfg with clocks := f s.cfg.clocks } }

/-- Another VID_RATE has another sequence, whose origin is sought anew (R101). -/
def seekAgain (s : State) : State :=
  (List.range 8).foldl (fun s i => if refType s i = 2 then setRefMon s i { refMon s i with origin := none, tried := 0, nearest := none } else s) s

/-- Another VID_OFFSET moves the sequence: its origin is the base-period boundary nearest to where the origin's edge now belongs (R101,
R110); one that is still sought is sought anew. -/
def moveOrigins (s : State) (old : Long) : State :=
  (List.range 8).foldl (fun s i =>
    let m := refMon s i
    let d := offsetOf s s.cfg.clocks.vidOffset - offsetOf s old
    if refType s i ≠ 2 then s
    else setRefMon s i { m with
      tried := 0, nearest := none
      origin := m.origin.map (fun c =>
        ((2 * ((c * onePeriod : Nat) + m.phasePs * rateHz s.clocks.rate + d) + onePeriod).fdiv (2 * onePeriod)).toNat)
      phasePs := match m.origin with
        | some _ => (nearGrid (m.phasePs * rateHz s.clocks.rate + d) onePeriod 1).fdiv (rateHz s.clocks.rate)
        | none => m.phasePs }) s

def clockSet (s : State) (obj el v : Nat) : Except Word State :=
  let w := BitVec.ofNat 16 v
  let l := BitVec.ofNat 32 v
  let set (f : ClockCfg → ClockCfg) : Except Word State := .ok (setClockCfg s f)
  -- a change of BANDWIDTH, PULL or an offset starts ACQUIRE (R97, R109)
  let shift (f : ClockCfg → ClockCfg) : Except Word State :=
    .ok (if f s.cfg.clocks = s.cfg.clocks then s else reacquireRef (setClockCfg s f))
  let clr (f : Clocks → Clocks) : Except Word State := .ok (if v = 1 then setClocks s f else s)
  match obj, el with
  | 0x0201, 1 => if follower s then .error eState else .ok (setClocks s (fun c => { c with next := v }))
  | 0x0203, 4 => clr (fun c => { c with lateCount := 0, lateOvf := false })
  | 0x0210, 8 => set (fun k => { k with requalMs := w })
  | 0x0210, 9 => set (fun k => { k with revert := decide (v = 1) })
  | 0x0210, _ =>
    -- DESIGN CHOICE (notes/assumptions/128): a code that moves to another entry is monitored anew there
    if refCode s el = w then .ok s
    else .ok (setClockCfg (setRefMon s el {}) (fun k => { k with entries := tset 0 k.entries el w }))
  | 0x0211, _ => clr (fun c => { c with switchCount := 0, switchOvf := false })
  | 0x0212, 0 => set (fun k => { k with wckMult := v })
  | 0x0212, 1 => shift (fun k => { k with wckOffset := l })
  | 0x0212, 2 => .ok (if s.cfg.clocks.vidRate = v then s else seekAgain (setClockCfg s (fun k => { k with vidRate := v })))
  | 0x0212, 3 => set (fun k => { k with vidLines := w })
  | 0x0212, 4 =>
    .ok (if s.cfg.clocks.vidOffset = l then s
      else reacquireRef (moveOrigins (setClockCfg s (fun k => { k with vidOffset := l })) s.cfg.clocks.vidOffset))
  | 0x0212, 5 => set (fun k => { k with ppsEdge := v })
  | 0x0212, 6 => shift (fun k => { k with ppsOffset := l })
  | 0x0212, 7 => set (fun k => { k with todBaud := v })
  | 0x0212, 8 => set (fun k => { k with darsMult := v })
  | 0x0212, 9 => shift (fun k => { k with darsOffset := l })
  | 0x0212, _ => set (fun k => { k with bufTarget := w })
  | 0x0220, 0 => shift (fun k => { k with bandwidth := v })
  | 0x0220, 1 => shift (fun k => { k with pull := v })
  | 0x0220, 2 => set (fun k => { k with slewPpm := w })
  | 0x0220, 3 => set (fun k => { k with holdAvgS := w })
  | 0x0220, _ => .ok (setClocks s (fun c => { c with forceHold := decide (v = 1) }))
  | 0x0230, 0 => set (fun k => { k with ecpllMode := v })
  | 0x0230, 12 => clr (fun c => { c with gapCount := 0, gapOvf := false, lastGap := 0, tripCount := 0, tripOvf := false })
  | 0x0240, 4 => set (fun k => { k with wckMode := v })
  | 0x0240, 5 => set (fun k => { k with wckDuty := v })
  | 0x0240, 6 => set (fun k => { k with syncMode := v })
  | 0x0240, 8 => set (fun k => { k with ppsMode := v })
  | 0x0240, _ => set (fun k => { k with mclkOut := tset 0 k.mclkOut el v })
  | _, _ => .ok s

/-- R132 on REF_SELECT as the request leaves it, then steering as R106, R107 and R109 say; `old` is what steered before. -/
def clockFinish (s : State) (obj : Nat) (old : Word) : Except Word State :=
  let codes := (List.range 8).map (fun i => (refCode s i).toNat)
  let twice := codes.any (fun c => decide (c ≠ 0) && decide (2 ≤ codes.count c))
  let buffers := (codes.filter (fun c => decide (c / 256 = 6))).length
  if obj = 0x0210 ∨ obj = 0x0220 then
    if twice || decide (2 ≤ buffers) then .error eConflict else .ok (steerFrom s old)
  else .ok s

/-! ## Engines (R180, R181) -/

def engineSet (s : State) (n off el v : Nat) : Except Word State :=
  match off, el with
  | 2, 0 => .ok { s with cfg := { s.cfg with engClass := tset 3 s.cfg.engClass n v } }
  | 3, 0 => .ok { s with cfg := { s.cfg with engPolicy := tset 0 s.cfg.engPolicy n v } }
  | 3, 7 =>
    .ok (if v = 1 then modEng s n (fun e => { e with
      faultCount := 0, faultOvf := false, lastCause := 0, lastPc := 0, lastFrame := 0, quarCount := 0, quarOvf := false }) else s)
  | _, _ => .ok s

/-! ## Ports (R340, R341, R346, R347) -/

def modPortCfg (s : State) (p : Nat) (f : PortCfg → PortCfg) : State := setPortCfg s p (f (portCfg s p))

/-- Counters of a port cleared (R346, R347). -/
def clearPort (s : State) (p : Nat) : State :=
  let q := port s p
  setPort s p { q with counts := clearElems q.counts [5, 6, 7, 8, 9, 10], ovf := 0 }

/-- RING, FORM and CHAN_MASK, and the boundary from which they hold: arrival + 4 base periods (R341). -/
def captureSet (s : State) (p el v : Nat) : State :=
  let s := modPortCfg s p (fun c => match el with
    | 0 => { c with capRing := BitVec.ofNat 8 v }
    | 1 => { c with capForm := v }
    | _ => { c with capMask := BitVec.ofNat 32 v })
  let t := periodFrom (mtPlus (now s) (4 * 65536))
  let c := portCfg s p
  setPort s p { port s p with capNext := (port s p).capNext.filter (fun x => decide (x.at' ≠ t)) ++ [⟨t, c.capRing, c.capForm, c.capMask⟩] }

def sapSet (s : State) (p off el v : Nat) : Except Word State :=
  let set (f : PortCfg → PortCfg) : Except Word State := .ok (modPortCfg s p f)
  match off, el with
  | 0, 1 => set (fun c => { c with format := v })
  | 0, 2 => set (fun c => { c with slots := v })
  | 0, 3 => set (fun c => { c with slotWidth := v })
  | 0, 4 => set (fun c => { c with dataWidth := v })
  | 0, 5 => set (fun c => { c with rate := v })
  | 0, 6 => set (fun c => { c with nominalHz := BitVec.ofNat 32 v })
  | 0, 7 => set (fun c => { c with bclkDir := v })
  | 0, 8 => set (fun c => { c with fsDir := v })
  | 0, 9 => set (fun c => { c with bclkEdge := v })
  | 0, 10 => set (fun c => { c with fsPol := v })
  | 0, 11 => set (fun c => { c with dataDelay := v })
  | 0, 12 => set (fun c => { c with fsWidth := v })
  | 0, 13 => set (fun c => { c with unused := v })
  | 0, 14 => set (fun c => { c with txRound := v })
  | 0, 15 => set (fun c => { c with fillSet := v })
  | 0, 16 => set (fun c => { c with group := v })
  | 0, 17 => set (fun c => { c with directions := v })
  | 1, 12 => .ok (if v = 1 then clearPort s p else s)
  | 2, 1 => set (fun c => { c with zcTimeoutMs := BitVec.ofNat 16 v })
  | 3, 0x22 => set (fun c => { c with startMutedIn := BitVec.ofNat 32 v })
  | 4, 0x22 => set (fun c => { c with startMutedOut := BitVec.ofNat 32 v })
  | 5, _ => .ok (captureSet s p el v)
  | _, _ => .ok s

def aesSet (s : State) (p off el v : Nat) : Except Word State :=
  let set (f : PortCfg → PortCfg) : Except Word State := .ok (modPortCfg s p f)
  match off, el with
  | 0, 1 => set (fun c => { c with rate := v })
  | 0, 2 => set (fun c => { c with nominalHz := BitVec.ofNat 32 v })
  | 0, 3 => set (fun c => { c with directions := v })
  | 0, 4 => set (fun c => { c with txClock := v })
  | 0, 5 => set (fun c => { c with rxWord := v })
  | 0, 6 => set (fun c => { c with txWord := v })
  | 0, 7 => set (fun c => { c with vMode := v })
  | 0, 8 => set (fun c => { c with txRound := v })
  | 0, 9 => set (fun c => { c with fillSet := v })
  | 0, 10 => set (fun c => { c with group := v })
  | 0, 11 => set (fun c => { c with txCsCrcc := v })
  | 1, 12 => .ok (if v = 1 then clearPort s p else s)
  | 3, 0 => set (fun c => { c with txCsA := BitVec.ofNat 192 v })
  | 3, 1 => set (fun c => { c with txCsB := BitVec.ofNat 192 v })
  | 3, 2 => set (fun c => { c with txUA := BitVec.ofNat 192 v })
  | 3, 3 => set (fun c => { c with txUB := BitVec.ofNat 192 v })
  | 4, 1 => set (fun c => { c with zcTimeoutMs := BitVec.ofNat 16 v })
  | 5, 6 => set (fun c => { c with startMutedIn := BitVec.ofNat 32 (v % 4), startMutedOut := BitVec.ofNat 32 (v / 4) })
  | 6, _ => .ok (captureSet s p el v)
  | _, _ => .ok s

/-- The checks of R341 on a port's capture values as the request leaves them. -/
def captureFinish (s : State) (p : Nat) : Except Word State :=
  let c := portCfg s p
  if decide (c.capForm = 1) && decide (maskCount c.capMask % 2 = 1) then .error eRange
  else if decide (c.capRing ≠ 0xFF) && (List.range 24).any (fun q => decide (q ≠ p) && decide ((portCfg s q).capRing = c.capRing)) then
    .error eConflict
  else if decide (c.capRing ≠ 0xFF) && !admits s (periodFrom (mtPlus (now s) (4 * 65536))) none [] then .error eCapacity
  else .ok s

/-! ## Bridges and links (R364, R401, R402) -/

def bridgeSet (s : State) (b off el v : Nat) : Except Word State :=
  let set (f : RbCfg → RbCfg) : Except Word State := .ok (setRbCfg s b (f (rbCfg s b)))
  let clr (d : Side) : Side := { d with relocks := 0, unlocks := 0, ovf := 0 }
  let x := bridge s b
  match off, el with
  | 0, 1 => set (fun c => { c with split := v })
  | 0, 2 => set (fun c => { c with inPort := BitVec.ofNat 8 v })
  | 0, 3 => set (fun c => { c with inFirst := v })
  | 0, 4 => set (fun c => { c with inClass := v })
  | 0, 5 => set (fun c => { c with outPort := BitVec.ofNat 8 v })
  | 0, 6 => set (fun c => { c with outFirst := v })
  | 0, 7 => set (fun c => { c with outClass := v })
  | 0, 8 => set (fun c => { c with trackBw := v })
  | 1, 8 => .ok (if v = 1 then setBridge s b { x with ingress := clr x.ingress } else s)
  | 2, 8 => .ok (if v = 1 then setBridge s b { x with egress := clr x.egress } else s)
  | _, _ => .ok s

/-- A link's ENABLE or PATHS: refused where it takes the last UP path of a link that carries streams; a path that goes is OFF,
one that comes trains (R388, R402). -/
def linkPaths (s : State) (l : Nat) (c : LinkCfg) : Except Word State :=
  let left := [false, true].any (fun b => pathOn c b && pathUp s l b)
  if linkCarries s l && !left && (!c.enable || linkUp s l) then .error eState
  else
    let s := setLinkCfg s l c
    .ok ([false, true].foldl (fun s b =>
      let off := decide ((path s l b).state = .off)
      if pathOn c b then (if off then startPath s l b else s)
      else if off then s else sendPath s l b .off) s)

def clearPath (p : Path) : Path := { p with counts := clearElems p.counts [4, 5, 6], ovf := 0 }

def linkSet (s : State) (l off el v : Nat) : Except Word State :=
  let c := linkCfg s l
  let set (c : LinkCfg) : Except Word State := .ok (setLinkCfg s l c)
  let k := link s l
  match off, el with
  | 0, 0 => linkPaths s l { c with enable := decide (v = 1) }
  | 0, 1 => linkPaths s l { c with paths := v }
  | 0, 2 => set { c with asymPs := BitVec.ofNat 32 v }
  | 0, 3 => set { c with txPre := v }
  | 0, 4 => set { c with txPost := v }
  | 0, 5 => set { c with txSwing := v }
  | 1, 13 => .ok (if v = 1 then setLink s l { k with counts := clearElems k.counts [5, 6, 7, 8, 9, 10, 11], ovf := 0 } else s)
  | 2, 8 => .ok (if v = 1 then setLink s l { k with pathA := clearPath k.pathA } else s)
  | 3, 8 => .ok (if v = 1 then setLink s l { k with pathB := clearPath k.pathB } else s)
  | _, _ => .ok s

/-! ## Grove, memories, events, groups, pages -/

/-- ROOT_CLAIM.PRIORITY: 0 never claims (R408). -/
def prioritySet (s : State) (v : Nat) : State :=
  let s : State := { s with cfg := { s.cfg with priority := v } }
  if v = 0 then setGrove s (fun g => { g with role := .member, claimRun := 0 })
  else setGrove s (fun g => { g with role := if g.role = .member then .standby else g.role })

def groveSet (s : State) (obj el v : Nat) : Except Word State :=
  match obj, el with
  | 0x0E00, 0 => .ok (prioritySet s v)
  | 0x0E00, 9 => .ok (if v = 1 then setGrove s (fun g => { g with handovers := 0, handoverOvf := false, lastStepPs := 0 }) else s)
  | _, _ => .ok s

def memSet (s : State) (r : Req) (obj el v : Nat) : Except Word State :=
  let p := s.mem.patrol
  match obj, el with
  | 0x1000, _ => .ok (if v = 1 then { s with mem := { s.mem with corr := [], uncorr := [], eccOvf := 0, lastLoc := 0 } } else s)
  | 0x1001, 1 => .ok { s with cfg := { s.cfg with patrolHours := BitVec.ofNat 16 v } }
  | 0x1002, _ => .ok (if v = 1 then setPatrol s { p with passes := 0, passOvf := false } else s)
  | 0x1004, _ =>
    .ok (if v = 1 then (List.range 32).foldl (fun s b => setCross s b { cross s b with count := 0, ovf := false }) s else s)
  | _, _ =>
    if obj < 0x1040 then
      let b := obj - 0x1020
      .ok (if v = 1 then setBank s b { bank s b with waits := [], waitOvf := 0 } else s)
    else if 0x1080 ≤ obj then
      .ok (queueCross s ((obj - 0x1080) / 4) ((obj - 0x1080) % 4 * 256 + el) (BitVec.ofNat 16 v) (r.sess.val * 65536 + r.seq.toNat))
    else .ok s

/-- CURSOR, MASK and the clears of the event objects. -/
def eventSet (s : State) (k obj el v : Nat) : Except Word State :=
  let x := session s k
  let ev := s.events
  match obj, el with
  | 0x1100, 2 => .ok (setSession s k { x with cursor := some (BitVec.ofNat 32 v) })
  | 0x1100, _ => .ok (if v = 1 then { s with events := { ev with lost := 0, lostOvf := false } } else s)
  | 0x1101, _ =>
    .ok (setSession s k { x with mask := BitVec.ofNat 16 v, pushedTo := if x.mask = 0 then ev.nextSeq else x.pushedTo })
  | 0x1102, _ => .ok (if v = 1 then { s with events := { ev with mismatches := 0, lastMismatch := MT.zero } } else s)
  | 0x1180, 1 => .ok { s with events := { ev with lapseS := BitVec.ofNat 16 v } }
  | _, _ =>
    if between 0x1111 0x1117 obj then
      .ok (if v = 1 then { s with events := { ev with det := ev.det.filter (fun kv => decide (kv.1 / 4096 ≠ obj - 0x1110)) } } else s)
    else .ok s

/-- PAGE.GLIDE_FRAMES and GLIDE_FORM while the page is CLEAN or DIRTY, and words of the shadow copy (R277, R286). -/
def pageSet (s : State) (n p el v : Nat) : Except Word State :=
  let x := page (eng s n) p
  if el < 0x40 then
    match shadowBars s x with
    | some c => .error c
    | none => .ok (shadowWrite s n p el [BitVec.ofNat 16 v])
  else if x.state ≠ .clean ∧ x.state ≠ .dirty then .error eState
  else if el = 0x41 then .ok (modPage s n p (fun q => { q with glideFrames := BitVec.ofNat 16 v }))
  else .ok (modPage s n p (fun q => { q with glideForm := v }))

/-! ## All of them -/

/-- A value written to an element without a command row. -/
def setElem (s : State) (r : Req) (obj el v : Nat) : Except Word State :=
  if obj < 0x0200 ∨ between 0x1200 0x12FF obj then deviceSet s r obj el v
  else if obj < 0x0400 then clockSet s obj el v
  else if obj < 0x0800 then engineSet s ((obj - 0x0400) / 32) (obj % 32) el v
  else if obj < 0x0C00 then sapSet s ((obj - 0x0800) / 64) (obj % 64) el v
  else if obj < 0x0C80 then aesSet s (16 + (obj - 0x0C00) / 16) (obj % 16) el v
  else if obj < 0x0D00 then bridgeSet s ((obj - 0x0C80) / 8) (obj % 8) el v
  else if obj < 0x0E00 then linkSet s ((obj - 0x0D00) / 64) (obj % 64) el v
  else if obj < 0x1000 then groveSet s obj el v
  else if obj < 0x1100 then memSet s r obj el v
  else if obj < 0x1200 then eventSet s r.sess.val obj el v
  else if between 0x2000 0x2FFF obj then pageSet s ((obj - 0x2000) / 128) (obj % 128) el v
  else .ok s

/-- The checks of an object on its values as the whole request leaves them; `old` is the reference code that steered before. -/
def finishWrite (s : State) (obj : Nat) (old : Word) : Except Word State :=
  if between 0x0200 0x03FF obj then clockFinish s obj old
  else if between 0x0800 0x0BFF obj && decide (obj % 64 = 5) then captureFinish s ((obj - 0x0800) / 64)
  else if between 0x0C00 0x0C7F obj && decide (obj % 16 = 6) then captureFinish s (16 + (obj - 0x0C00) / 16)
  else .ok s

end Sys2Proof.Machine
end

