-- ==== Sys2Proof/Machine/Write.lean ====
section
/-! DEFINITION. READ, WRITE and the DOMAIN operations on any element of the dictionary (R435, R436, R438, R443 to R446, R456 to
R458). -/
namespace Sys2Proof.Machine

/-! ## The steps of R456 -/

/-- An element that some chapter lists; element numbers have one octet. -/
def lookup (obj el : Nat) : Option Elem :=
  match objElems obj with
  | none => none
  | some f => if el < 256 then f el else none

/-- The first failure, in step order and then in element order: each step tells an element's failure by its place. -/
def firstFailure (n : Nat) (steps : List (Nat → Option Word)) : Option (Word × Byte) :=
  steps.findSome? (fun st => (List.range n).findSome? (fun i => (st i).map (·, BitVec.ofNat 8 i)))

/-- A check of the element at a place, where there is one. -/
def onElem (obj el : Nat) (f : Elem → Option Word) (i : Nat) : Option Word :=
  match lookup obj (el + i) with
  | none => none
  | some e => f e

def failIf (b : Bool) (c : Word) : Option Word := if b then some c else none

/-- Steps 2 to 6 and the first half of 7, for a write or a read of `n` elements. -/
def accessSteps (s : State) (r : Req) (obj el : Nat) (write domain : Bool) (role : Nat → Elem → Nat) : List (Nat → Option Word) :=
  [fun _ => failIf (objElems obj).isNone eNoObject,
   fun i => failIf (lookup obj (el + i)).isNone eNoElement,
   fun i => onElem obj el (fun e =>
     failIf (decide ((session s r.sess.val).role < role i e) ||
       (write && keylessBars s r && !(decide (obj = 0x1210) && decide (el + i = 0)) && !(decide (obj = 0x1200) && decide (el + i = 1)))) eDenied) i,
   fun i => onElem obj el (fun e => failIf (decide (e.access = (if write then .ro else .wo))) eDenied) i,
   fun i => onElem obj el (fun e => failIf (decide (e.kind = .domain) != domain) eType) i]

/-! ## READ -/

/-- A crossing-RAM word named by CROSS.WORD (R273). -/
def crossLoc (obj el : Nat) : Option Nat :=
  if between 0x1080 0x10FF obj then some (locOf 4 ((obj - 0x1080) / 4) ((obj - 0x1080) % 4 * 256 + el)) else none

/-- What refuses a READ; an uncorrectable word answers INTEGRITY (R261). -/
def readGate (s : State) (r : Req) (obj el n : Nat) : Option (Word × Byte) :=
  if !between 1 64 n then some (eRange, 0xFF)
  else
    firstFailure n (accessSteps s r obj el false false (fun _ e => e.role) ++
      [fun _ => failIf (!dictAdmits s obj) eState,
       fun i => match crossLoc obj (el + i) with
         | some loc => failIf (decide (eccMark s loc = 2)) eIntegrity
         | none => none])

/-- READ of `count` elements: their values in element order, each as it stands at the arrival stamp (R458). -/
def execRead (r : Req) (obj : Word) (elem : Byte) (count : Nat) (s : State) : Outc :=
  let o := obj.toNat
  let el := elem.toNat
  let k := r.sess.val
  let s := if (crossLoc o el).isSome then settlePortB s ((o - 0x1080) / 4) else s
  let g := readGate s r o el count
  let reach : Bool := match g with
    | none => true
    | some (c, _) => decide (c = eIntegrity)
  let s' := if dictPresent s && decide ((session s k).phase = 2) && reach then
      (List.range count).foldl (fun s i => match crossLoc o (el + i) with
        | some loc => eccRead s loc
        | none => s) s
    else s
  ok (runRequest s' r 1 count (fun _ => g) (fun s =>
    let s := if o = 0x0102 then senseTj s else s
    let vs := (List.range count).flatMap (fun i => elemValue { s with fresh := s.fresh + 2 * i } k o (el + i))
    let s : State := { s with fresh := s.fresh + 2 * count }
    .ok (if decide (o = 0x1100) && between el (el + count - 1) 3 then passPage s k else s, vs)))

/-! ## WRITE -/

/-- Octet `i` of a value. -/
def oct (b : List Byte) (i : Nat) : Byte := b.getD i 0
def wordAt (b : List Byte) (i : Nat) : Word := BitVec.ofNat 16 (beAt b i 2)
def longAt (b : List Byte) (i : Nat) : Long := BitVec.ofNat 32 (beAt b i 4)
/-- An endpoint (R423). -/
def epAt (b : List Byte) (i : Nat) : Endpoint := ⟨oct b i, oct b (i + 1), wordAt b (i + 2)⟩
def zeroFrom (b : List Byte) (i n : Nat) : Bool := decide (beAt b i n = 0)

/-- A meaning as a change of State, for those that always go on. -/
def runs (f : State → Outc) (s : State) : State :=
  match f s with
  | .next t => t
  | _ => s

/-- A command of an element, or the code of a request that no operation of its chapter spells. -/
abbrev Cmd := Except Word (State → State)

def cmd (f : State → Outc) : Option Cmd := some (.ok (runs f))
def bad : Option Cmd := some (.error eRange)

def sysCmd (r : Req) (obj el : Nat) (b : List Byte) : Option Cmd :=
  let v := beNat b
  match obj, el with
  | 0x0101, 0 => some (.ok (fun s => powerReq s r v))
  | 0x0101, 1 => some (.ok (fun s => resetCmd s r))
  | 0x0111, 0 => some (.ok (fun s => if v = 1 then saveCmd s r else eraseCmd s r))
  | 0x0120, 0x13 => some (.ok (fun s => closeSessionCmd s r (oct b 0)))
  | 0x0140, 2 => some (.ok (fun s => if v = 1 then activateCmd s r else if v = 2 then confirmCmd s r else discardCmd s r))
  | 0x0201, 2 => cmd (execBaseRateArm r (mtAt b 0))
  | 0x0230, 6 =>
    if v = 0 then none
    else some (.ok (fun s =>
      let f (i : Nat) : Word := Config.freeWord (s.fresh + i)
      runs (execResearch r (f 0) (f 1) (f 2) (f 3)) { s with fresh := s.fresh + 4 }))
  | 0x1001, 0 => cmd (execPatrolEnable r (oct b 0))
  | 0x1001, 2 => if v = 1 then cmd (execRestartPass r) else cmd (execPatrolAbort r)
  | 0x1004, 1 => cmd (execCollClear r (longAt b 0))
  | 0x1005, 0 => cmd (execCrossAtomic r (wordAt b 0) (oct b 2) (oct b 3) (longAt b 4) false)
  | 0x1040, 0 =>
    if (oct b 3).getLsbD 1 then cmd (execDlsLeaseCancel r (oct b 0) (oct b 1) (oct b 2) (oct b 3) (mtAt b 4) (mtAt b 14))
    else cmd (execDlsLease r (oct b 0) (oct b 1) (oct b 2) (oct b 3) (mtAt b 4) (mtAt b 14))
  | 0x1180, 0 => cmd (execInjectEnable r (oct b 0))
  | 0x1180, 5 => cmd (execCancelAll r (oct b 0))
  | 0x1200, 1 => some (.ok (fun s => advanceCmd s r (oct b 0) (oct b 1) (BitVec.ofNat 64 (beAt b 2 8))))
  | 0x1210, 0 =>
    let rest : BitVec 40 := BitVec.ofNat 40 (beAt b 3 5)
    if oct b 2 = 1 then some (.ok (fun s => keyInstallCmd s r (oct b 0) (oct b 1) rest (b.drop 8)))
    else if oct b 2 = 2 then some (.ok (fun s => keyDeleteCmd s r (oct b 0) (oct b 1) rest (b.drop 8)))
    else bad
  | _, _ => none

def engineCmd (r : Req) (n : Fin 32) (off el : Nat) (b : List Byte) : Option Cmd :=
  match off, el with
  | 0, 1 =>
    match beNat b with
    | 1 => cmd (execEnterSapling r n)
    | 2 => cmd (execStart r n)
    | 3 => cmd (execExitSapling r n)
    | 4 => cmd (execRelease r n)
    | _ => cmd (execHsr r n)
  | 1, 5 => cmd (execClearStandby r n (oct b 0))
  | 6, 3 => cmd (execOvfClear r n (oct b 0))
  | _, _ => none

/-- REQUEST of a port (R336). -/
def portReq (r : Req) (p : Fin 24) (b : List Byte) : Option Cmd :=
  let c (f : Req → Fin 24 → Byte → Byte → Byte → Word → MT → State → Outc) : Option Cmd :=
    cmd (f r p (oct b 1) (oct b 2) (oct b 3) (wordAt b 4) (mtAt b 6))
  match (oct b 0).toNat with
  | 1 => c execPortStart
  | 2 => c execPortStop
  | 3 => c execMute
  | 4 => c execUnmute
  | 5 => c execGain
  | 6 => c execPortCancel
  | _ => bad

def portCmd (r : Req) (p : Fin 24) (off el : Nat) (b : List Byte) : Option Cmd :=
  if decide (off = 0) && decide (el = 0) then cmd (execPortEnable r p (oct b 0))
  else if decide (off = (if p.val < 16 then 2 else 4)) && decide (el = 0) then portReq r p b
  else none

def groveCmd (r : Req) (obj el : Nat) (b : List Byte) : Option Cmd :=
  match obj, el with
  | 0x0E01, 0 =>
    match (oct b 0).toNat with
    | 1 => cmd (execHandover r (oct b 1) (wordAt b 2) (mtAt b 4))
    | 2 => cmd (execRoundTrip r (oct b 1) (wordAt b 2) (mtAt b 4))
    | 3 => cmd (execDrillCancel r (oct b 1) (wordAt b 2) (mtAt b 4))
    | _ => bad
  | 0x0E10, 0 => cmd (execGroveIdWrite r false (longAt b 0))
  | 0x0E10, 1 => cmd (execGroveIdWrite r true ((wordAt b 0).setWidth 32))
  | 0x0E10, 9 => cmd (execAdopt r)
  | 0x0E20, 2 => cmd (execConfirm r (wordAt b 0))
  | _, _ => none

def streamElemCmd (r : Req) (e el : Nat) (b : List Byte) : Option Cmd :=
  match el with
  | 3 => cmd (execSourceDef r e (oct b 0) (oct b 1) (wordAt b 2) (oct b 4) (oct b 5) (epAt b 6) (BitVec.ofNat 48 (beAt b 10 6)))
  | 4 => cmd (execSubscribe r e (longAt b 0) (epAt b 4))
  | 5 =>
    match (oct b 0).toNat with
    | 1 => cmd (execStreamStart r e (oct b 1) (mtAt b 2))
    | 2 => cmd (execStreamStop r e (oct b 1) (mtAt b 2))
    | 3 => cmd (execStreamCancel r e (oct b 1) (mtAt b 2))
    | _ => bad
  | 0x0D => cmd (execStreamRelease r e (oct b 0))
  | _ => none

/-- REQUEST of a route: REMOVE and CANCEL name nothing but the entry and the target (R31). -/
def routeElemCmd (r : Req) (e el : Nat) (b : List Byte) : Option Cmd :=
  if el ≠ 1 then none
  else if !zeroFrom b 22 2 then bad
  else if oct b 0 = 1 then cmd (execRouteAdd r e (oct b 1) (wordAt b 2) (epAt b 4) (epAt b 8) (mtAt b 12))
  else if !zeroFrom b 1 11 then bad
  else if oct b 0 = 2 then cmd (execRouteRemove r e (mtAt b 12))
  else if oct b 0 = 3 then cmd (execRouteCancel r e (mtAt b 12))
  else bad

/-- An INJECT element: MODE 0 cancels, 1 is one shot, 2 periodic (R513); with ENABLE = 0 nothing else is looked at. -/
def injectElemCmd (r : Req) (code : Nat) (b : List Byte) : Option Cmd :=
  let c := BitVec.ofNat 16 code
  match (oct b 0).toNat with
  | 0 => cmd (execInjectCancel r c)
  | 1 => cmd (execOneShot r c (oct b 1) (wordAt b 2) (longAt b 4) (wordAt b 8) (wordAt b 10))
  | 2 => cmd (execPeriodic r c (oct b 1) (wordAt b 2) (longAt b 4) (wordAt b 8) (wordAt b 10))
  | _ => some (.ok (fun s => injectCmd s r c (fun s => .error (if s.events.injOn then eRange else eInject))))

/-- GRAFT (R289). -/
def graftElemCmd (r : Req) (b : List Byte) : Option Cmd :=
  let c (f : Req → Byte → Byte → Byte → Word → MT → State → Outc) : Option Cmd :=
    cmd (f r (oct b 0) (oct b 2) (oct b 3) (wordAt b 4) (mtAt b 6))
  match (oct b 1).toNat with
  | 1 => c execGraftArm
  | 2 => c execGraftCancel
  | 3 => c execAbortFinish
  | 4 => c execAbortRevert
  | _ => bad

def groupElemCmd (r : Req) (g el : Nat) (b : List Byte) : Option Cmd :=
  if g = 0 then (if el = 0x20 then graftElemCmd r b else none)
  else match el with
    | 1 => cmd (execAddPage r g (wordAt b 0))
    | 2 => cmd (execRemovePage r g (wordAt b 0))
    | 4 => cmd (execScope r g (wordAt b 0))
    | 5 => cmd (execArm r g (mtAt b 0))
    | 6 => cmd (execCancel r g (oct b 0))
    | 0x0C => cmd (execGroupRelease r g (oct b 0))
    | 0x0D => cmd (execAddMember r g (wordAt b 0))
    | _ => none

def pageElemCmd (r : Req) (e : Fin 32) (p : Fin 128) (el : Nat) (b : List Byte) : Option Cmd :=
  if el = 0x44 then (if beNat b = 1 then cmd (execGlideAbortFinish r e p) else cmd (execGlideAbortRevert r e p))
  else if el = 0x46 then cmd (execPageLevel r e p (oct b 0))
  else none

/-- The command that a value written to an element is; none: the element is a setting. -/
def elemCmd (r : Req) (obj el : Nat) (b : List Byte) : Option Cmd :=
  if between 0x0400 0x07FF obj then engineCmd r (Fin.ofNat 32 ((obj - 0x0400) / 32)) (obj % 32) el b
  else if between 0x0800 0x0BFF obj then portCmd r (Fin.ofNat 24 ((obj - 0x0800) / 64)) (obj % 64) el b
  else if between 0x0C00 0x0C7F obj then portCmd r (Fin.ofNat 24 (16 + (obj - 0x0C00) / 16)) (obj % 16) el b
  else if between 0x0C80 0x0CFF obj then
    if decide (obj % 8 = 0) && decide (el = 0) then cmd (execRbEnable r (Fin.ofNat 16 ((obj - 0x0C80) / 8)) (oct b 0)) else none
  else if between 0x0D00 0x0DFF obj then
    if decide (obj % 64 = 4) && decide (el = 0) then cmd (execRetrain r (Fin.ofNat 4 ((obj - 0x0D00) / 64)) (wordAt b 0)) else none
  else if between 0x0E00 0x0EFF obj then groveCmd r obj el b
  else if between 0x1181 0x1187 obj then injectElemCmd r ((obj - 0x1180) * 0x1000 + el) b
  else if between 0x1300 0x13FF obj then groupElemCmd r (obj - 0x1300) el b
  else if between 0x2000 0x2FFF obj then pageElemCmd r (Fin.ofNat 32 ((obj - 0x2000) / 128)) (Fin.ofNat 128 ((obj - 0x2000) % 128)) el b
  else if between 0x4000 0x5FFF obj then streamElemCmd r (obj - 0x4000) el b
  else if between 0x6000 0x7FFF obj then routeElemCmd r (obj - 0x6000) el b
  else sysCmd r obj el b

/-- The part of the data that holds the value at place `i`, by its offset and size. -/
def placeOf (obj el : Nat) : Nat → Nat
  | 0 => 0
  | i + 1 => placeOf obj el i + ((lookup obj (el + i)).map Elem.size).getD 0

def valueAt (obj el : Nat) (data : List Byte) (i : Nat) : List Byte :=
  (data.drop (placeOf obj el i)).take (((lookup obj (el + i)).map Elem.size).getD 0)

/-- The least role, which the value or the group's scope may raise (R281, R465). -/
def roleFor (s : State) (obj el : Nat) (data : List Byte) (i : Nat) (e : Elem) : Nat :=
  if decide (obj = 0x0111) && decide (beNat (valueAt obj el data i) = 2) && decide (el + i = 0) then custodian
  else if between 0x1301 0x13FF obj && decide (el + i = 5) && (group s (obj - 0x1300)).grove then engineer
  else e.role

/-- Step 8 for a value whose Range column depends on the state: a target of BASE_RATE (R81, R86). -/
def liveRange (s : State) (obj el : Nat) (b : List Byte) : Bool :=
  !(decide (obj = 0x0201) && decide (el = 2)) || rateTargetOk s (mtAt b 0)

/-- Steps 2 to 9 for a WRITE. -/
def writeGate (s : State) (r : Req) (obj el n : Nat) (data : List Byte) : Option (Word × Byte) :=
  if !between 1 64 n then some (eRange, 0xFF)
  else
    match firstFailure n (accessSteps s r obj el true false (roleFor s obj el data) ++
      [fun i => failIf (decide (data.length < placeOf obj el (i + 1))) eType]) with
    | some f => some f
    | none =>
      if data.length ≠ placeOf obj el n then some (eType, if n = 1 then 0 else 0xFF)
      else firstFailure n [
        fun i => onElem obj el (fun e =>
          failIf (!e.range (beNat (valueAt obj el data i)) || !liveRange s obj (el + i) (valueAt obj el data i)) eRange) i,
        fun i => onElem obj el (fun e => failIf (!dictAdmits s obj || (decide (e.access = .rwi) && !unitIdle s obj (el + i))) eState) i]

/-- A command inside a block: its effect without a reply of its own. -/
def inBlock (s : State) (r : Req) (f : State → State) : Except Word State :=
  let k := r.sess.val
  let t := f s
  match (session t k).cache with
  | [] => .error eState
  | rep :: _ =>
    if rep.status ≠ eOK then .error rep.status
    else
      let t := setSession t k { session t k with high := (session s k).high, cache := (session s k).cache }
      .ok (setMgmt t (fun m => { m with
        stats := s.mgmt.stats, statsOvf := s.mgmt.statsOvf, outEth := s.mgmt.outEth, outHq := s.mgmt.outHq, outGrove := s.mgmt.outGrove }))

/-- Step 10 and the effect for one element. -/
def putElem (s : State) (r : Req) (obj el : Nat) (b : List Byte) : Except Word State :=
  match elemCmd r obj el b with
  | some (.error c) => .error c
  | some (.ok f) => inBlock s r f
  | none => setElem s r obj el (beNat b)

/-- All elements in order; the failure with its place. -/
def putAll (r : Req) (obj el : Nat) (data : List Byte) : List Nat → State → Except (Word × Byte) State
  | [], s => .ok s
  | i :: l, s =>
    match putElem s r obj (el + i) (valueAt obj el data i) with
    | .error c => .error (c, BitVec.ofNat 8 i)
    | .ok s' => putAll r obj el data l s'

/-- One advance of CONFIG_EPOCH for a whole request that changed a persistent element (R416, R438). -/
def oneEpoch (s t : State) (keep : Bool) : State :=
  if keep || decide (t.epoch ≠ s.epoch) || decide (t.grove.changeReported ≠ s.grove.changeReported) then
    if joinedGrove s then { t with epoch := s.epoch, grove := { t.grove with changeReported := true } }
    else { t with epoch := s.epoch + 1, grove := { t.grove with changeReported := s.grove.changeReported } }
  else t

/-- The values of a WRITE, applied together. -/
def putBlock (s : State) (r : Req) (obj el n : Nat) (data : List Byte) : Except (Word × Byte) State :=
  match putAll r obj el data (List.range n) s with
  | .error f => .error f
  | .ok t =>
    match finishWrite t obj (activeCode s) with
    | .error c => .error (c, 0)
    | .ok t => .ok (oneEpoch s t ((List.range n).any (fun i => ((lookup obj (el + i)).map Elem.keep).getD false)))

/-- WRITE. A scalar write of a command is that command; a block lands whole or not at all (R457). -/
def execWrite (r : Req) (obj : Word) (elem : Byte) (count : Nat) (data : List Byte) (s : State) : Outc :=
  let o := obj.toNat
  let el := elem.toNat
  let gate := writeGate s r o el count data
  let single : Option (State → State) :=
    if decide (count = 1) && gate.isNone && dictPresent s && decide ((session s r.sess.val).phase = 2) then
      match elemCmd r o el data with
      | some (.ok f) => some f
      | _ => none
    else none
  match single with
  | some f => ok (afterReply (f s))
  | none =>
    ok (afterReply (runRequest s r 2 count
      (fun s => match gate with
        | some f => some f
        | none => match putBlock s r o el count data with
          | .error f => some f
          | .ok _ => none)
      (fun s => match putBlock s r o el count data with
        | .error f => .error f.1
        | .ok t => .ok (t, []))))

/-! ## DOMAIN operations -/

/-- Steps 3 to 9 for a DOMAIN operation. `fits`: the data length matches the operation (step 7). -/
def domainGate (s : State) (r : Req) (obj el : Nat) (write : Bool) (fits : Bool := true) : Option (Word × Byte) :=
  firstFailure 1 (accessSteps s r obj el write true (fun _ e => e.role) ++ [fun _ => failIf (!fits) eType, fun _ => failIf (!dictAdmits s obj) eState])

def setTransfer (s : State) (k : Nat) (t : Option Transfer) : State := setSession s k { session s k with transfer := t }

/-- The session's transfer of an element has received an operation (R446). -/
def touchTransfer (s : State) (r : Req) (obj : Word) (el : Byte) : State :=
  match transferOf s r obj el with
  | some t => if dictPresent s then setTransfer s r.sess.val (some { t with lastAt := now s }) else s
  | none => s

/-- Octets of all open transfers but a session's own. -/
def buffered (s : State) (k : Nat) : Nat :=
  (List.range 16).foldl (fun n j => n + (if j = k then 0 else (session s j).transfer.elim 0 Transfer.total)) 0

/-- DOMAIN_OPEN. -/
def execDomainOpen (r : Req) (obj : Word) (elem : Byte) (total : Nat) (digest : List Byte) (s : State) : Outc :=
  let k := r.sess.val
  ok (runRequest s r 3 1
    (fun s => domainGate s r obj.toNat elem.toNat true (decide (digest.length = 32)))
    (fun s =>
      if domainLimit obj.toNat < total then .error eRange
      else if 4194304 < buffered s k + total then .error eCapacity
      else .ok (setTransfer s k (some { obj := obj, elem := elem, total := total, digest := digest, octets := [], lastAt := now s }), [])))

/-- Octets placed from an offset on. -/
def placeOctets : Tbl (Option Byte) → Nat → List Byte → Tbl (Option Byte)
  | t, _, [] => t
  | t, i, b :: l => placeOctets (tset none t i (some b)) (i + 1) l

/-- DOMAIN_DATA: octets at any offset. -/
def execDomainData (r : Req) (obj : Word) (elem : Byte) (offset : Nat) (data : List Byte) (s : State) : Outc :=
  let k := r.sess.val
  ok (touchTransfer (runRequest s r 4 1 (fun s => domainGate s r obj.toNat elem.toNat true (between 1 1024 data.length))
    (fun s => match transferOf s r obj elem with
      | none => .error eState
      | some t =>
        if t.total < offset + data.length then .error eRange
        else
          let t : Transfer := { t with octets := placeOctets t.octets offset data }
          .ok (setTransfer s k (some t), be 4 (receivedOf t)))
    (fun s => receivedNow s r obj elem)) r obj elem)

/-- The octets of a complete transfer. -/
def transferBytes (t : Transfer) : List Byte := t.octets.map (fun kv => kv.2.getD 0)

/-- The value reaches its object (R445). -/
def landDomain (s : State) (obj : Nat) (image : List Byte) : Except Word State :=
  if obj = 0x0140 then beginFwWrite s image else closeImage s (Fin.ofNat 32 ((obj - 0x0400) / 32)) image

/-- DOMAIN_CLOSE: LENGTH with octets missing, INTEGRITY and no more transfer on a wrong digest, else one write of the value. -/
def execDomainClose (r : Req) (obj : Word) (elem : Byte) (s : State) : Outc :=
  let k := r.sess.val
  let t := transferOf s r obj elem
  let whole := t.any (fun t => decide (receivedOf t = t.total))
  let wrong := t.any (fun t => decide (Config.sha256 (transferBytes t) ≠ t.digest))
  let gate (s : State) : Option (Word × Byte) := domainGate s r obj.toNat elem.toNat true
  let lands := whole && !wrong && (gate s).isNone && decide (obj ≠ 0x0140)
  let s := noteRefusal s r ((obj.toNat - 0x0400) / 32 % 32) lands
  let s' := runRequest s r 5 1 gate
    (fun s => match t with
      | none => .error eState
      | some t =>
        if !whole then .error eLength
        else if wrong then .error eIntegrity
        else match landDomain s obj.toNat (transferBytes t) with
          | .error c => .error c
          | .ok s' => .ok (setTransfer s' k none, be 4 t.total))
    (fun s => receivedNow s r obj elem)
  ok (if whole && wrong && (gate s).isNone && dictPresent s && decide ((session s k).phase = 2) then setTransfer s' k none else touchTransfer s' r obj elem)

/-- DOMAIN_READ: no DOMAIN element may be read, and no other element has the type. -/
def execDomainRead (r : Req) (obj : Word) (elem : Byte) (_offset _length : Nat) (s : State) : Outc :=
  ok (runRequest s r 6 1 (fun s => domainGate s r obj.toNat elem.toNat false) (fun _ => .error eDenied) (fun s => failData s r 6 obj elem))

/-- DOMAIN_IDLE_TIMEOUT: 10 s without an operation. -/
def execDomainIdleTimeout (sess : Fin 16) (s : State) : Outc :=
  ok (if (session s sess.val).transfer.any (fun t => passed s t.lastAt 10000) then setTransfer s sess.val none else s)

end Sys2Proof.Machine
end

