-- ==== Sys2Proof/Machine/Dispatch.lean ====
section
/-! DEFINITION. The dispatch: one arm per command, each a direct call of its meaning. -/
namespace Sys2Proof.Machine

/-- The effect of a command on everything but the queue. -/
def exec (i : Instr) (s : State) : Host.Outcome State Fault Refusal :=
  match i with
  | .nop w => Sys2Proof.Machine.execNop w s
  | .endFrame w => Sys2Proof.Machine.execEndFrame w s
  | .halt w => Sys2Proof.Machine.execHalt w s
  | .trap w k => Sys2Proof.Machine.execTrap w k s
  | .rpt w n => Sys2Proof.Machine.execRpt w n s
  | .rptx w d => Sys2Proof.Machine.execRptx w d s
  | .blk w field len => Sys2Proof.Machine.execBlk w field len s
  | .immExt w ext => Sys2Proof.Machine.execImmExt w ext s
  | .call w addr => Sys2Proof.Machine.execCall w addr s
  | .ret w => Sys2Proof.Machine.execRet w s
  | .callm w addr mask => Sys2Proof.Machine.execCallm w addr mask s
  | .retm w mask => Sys2Proof.Machine.execRetm w mask s
  | .br w addr => Sys2Proof.Machine.execBr w addr s
  | .brc w cc d addr => Sys2Proof.Machine.execBrc w cc d addr s
  | .mov w d src => Sys2Proof.Machine.execMov w d src s
  | .movl w d src => Sys2Proof.Machine.execMovl w d src s
  | .ldi w d imm => Sys2Proof.Machine.execLdi w d imm s
  | .ldil w d field => Sys2Proof.Machine.execLdil w d field s
  | .movp w d p low => Sys2Proof.Machine.execMovp w d p low s
  | .ld w d m => Sys2Proof.Machine.execLd w d m s
  | .st w src m => Sys2Proof.Machine.execSt w src m s
  | .ldl w d m => Sys2Proof.Machine.execLdl w d m s
  | .stl w src m => Sys2Proof.Machine.execStl w src m s
  | .pairWord w h l => Sys2Proof.Machine.execPairWord w h l s
  | .add w a => Sys2Proof.Machine.execAdd w a s
  | .addc w a => Sys2Proof.Machine.execAddc w a s
  | .sub w a => Sys2Proof.Machine.execSub w a s
  | .subc w a => Sys2Proof.Machine.execSubc w a s
  | .neg w a => Sys2Proof.Machine.execNeg w a s
  | .abs w a => Sys2Proof.Machine.execAbs w a s
  | .min w a => Sys2Proof.Machine.execMin w a s
  | .max w a => Sys2Proof.Machine.execMax w a s
  | .and w a => Sys2Proof.Machine.execAnd w a s
  | .or w a => Sys2Proof.Machine.execOr w a s
  | .xor w a => Sys2Proof.Machine.execXor w a s
  | .not w a => Sys2Proof.Machine.execNot w a s
  | .shl w a => Sys2Proof.Machine.execShl w a s
  | .shr w a => Sys2Proof.Machine.execShr w a s
  | .asr w a => Sys2Proof.Machine.execAsr w a s
  | .rol w a => Sys2Proof.Machine.execRol w a s
  | .cmpeq w a => Sys2Proof.Machine.execCmpeq w a s
  | .cmpne w a => Sys2Proof.Machine.execCmpne w a s
  | .cmplt w a => Sys2Proof.Machine.execCmplt w a s
  | .cmple w a => Sys2Proof.Machine.execCmple w a s
  | .cmpltu w a => Sys2Proof.Machine.execCmpltu w a s
  | .cmpleu w a => Sys2Proof.Machine.execCmpleu w a s
  | .gset w d => Sys2Proof.Machine.execGset w d s
  | .gclr w d => Sys2Proof.Machine.execGclr w d s
  | .gand w d a b => Sys2Proof.Machine.execGand w d a b s
  | .gor w d a b => Sys2Proof.Machine.execGor w d a b s
  | .gxor w d a b => Sys2Proof.Machine.execGxor w d a b s
  | .gnot w d a => Sys2Proof.Machine.execGnot w d a s
  | .mul w p a b => Sys2Proof.Machine.execMul w p a b s
  | .mac w n a b => Sys2Proof.Machine.execMac w n a b s
  | .msu w n a b => Sys2Proof.Machine.execMsu w n a b s
  | .macs w n a b => Sys2Proof.Machine.execMacs w n a b s
  | .cmul w j q a b => Sys2Proof.Machine.execCmul w j q a b s
  | .cmac w j q a b => Sys2Proof.Machine.execCmac w j q a b s
  | .cmsu w j q a b => Sys2Proof.Machine.execCmsu w j q a b s
  | .aclr w n => Sys2Proof.Machine.execAclr w n s
  | .ashf w n amount => Sys2Proof.Machine.execAshf w n amount s
  | .arnd w n rm => Sys2Proof.Machine.execArnd w n rm s
  | .anrm w n d => Sys2Proof.Machine.execAnrm w n d s
  | .acmp w g a b cc => Sys2Proof.Machine.execAcmp w g a b cc s
  | .asat w n => Sys2Proof.Machine.execAsat w n s
  | .astl w dst n rm => Sys2Proof.Machine.execAstl w dst n rm s
  | .bfx w d src pos wid sign => Sys2Proof.Machine.execBfx w d src pos wid sign s
  | .bfi w d src pos wid => Sys2Proof.Machine.execBfi w d src pos wid s
  | .clz w d src => Sys2Proof.Machine.execClz w d src s
  | .cls w d src => Sys2Proof.Machine.execCls w d src s
  | .bperm w d src sel => Sys2Proof.Machine.execBperm w d src sel s
  | .padd w d a b ci => Sys2Proof.Machine.execPadd w d a b ci s
  | .psub w d a b ci => Sys2Proof.Machine.execPsub w d a b ci s
  | .dadj w d src ci => Sys2Proof.Machine.execDadj w d src ci s
  | .pcmp w g a b cc => Sys2Proof.Machine.execPcmp w g a b cc s
  | .dwr w k src => Sys2Proof.Machine.execDwr w k src s
  | .drd w t k x => Sys2Proof.Machine.execDrd w t k x s
  | .drl w t k x => Sys2Proof.Machine.execDrl w t k x s
  | .drf w t k x => Sys2Proof.Machine.execDrf w t k x s
  | .aadd w t at' src => Sys2Proof.Machine.execAadd w t at' src s
  | .aswp w t at' src => Sys2Proof.Machine.execAswp w t at' src s
  | .resultLand e => Sys2Proof.Machine.execResultLand e s
  | .frameBoundary e => Sys2Proof.Machine.execFrameBoundary e s
  | .frameEnd e => Sys2Proof.Machine.execFrameEnd e s
  | .scheduleLock => Sys2Proof.Machine.execScheduleLock s
  | .hostServiceInterrupt e => Sys2Proof.Machine.execHostServiceInterrupt e s
  | .debugBreakTaken e => Sys2Proof.Machine.execDebugBreakTaken e s
  | .basePeriodBoundary => Sys2Proof.Machine.execBasePeriodBoundary s
  | .routerWindow win => Sys2Proof.Machine.execRouterWindow win s
  | .baseRateArm r target => Sys2Proof.Machine.execBaseRateArm r target s
  | .refEdge entry posDev freqDev edge => Sys2Proof.Machine.execRefEdge entry posDev freqDev edge s
  | .refStopped entry => Sys2Proof.Machine.execRefStopped entry s
  | .refQualified entry => Sys2Proof.Machine.execRefQualified entry s
  | .mcpllLocked => Sys2Proof.Machine.execMcpllLocked s
  | .mcpllUnlock ppb => Sys2Proof.Machine.execMcpllUnlock ppb s
  | .todMessage line sincePpsMs untilPpsMs => Sys2Proof.Machine.execTodMessage line sincePpsMs untilPpsMs s
  | .syncIn mclk => Sys2Proof.Machine.execSyncIn mclk s
  | .ecpllLoss => Sys2Proof.Machine.execEcpllLoss s
  | .eclkTrip absolute => Sys2Proof.Machine.execEclkTrip absolute s
  | .ecpllFallback => Sys2Proof.Machine.execEcpllFallback s
  | .ecpllLock => Sys2Proof.Machine.execEcpllLock s
  | .eclkRestored => Sys2Proof.Machine.execEclkRestored s
  | .ecpllCeilingRecal word => Sys2Proof.Machine.execEcpllCeilingRecal word s
  | .ecpllBandStore band temp => Sys2Proof.Machine.execEcpllBandStore band temp s
  | .research r b32 b44 b48 temp => Sys2Proof.Machine.execResearch r b32 b44 b48 temp s
  | .eclkGapSubstitute ep => Sys2Proof.Machine.execEclkGapSubstitute ep s
  | .xoLost => Sys2Proof.Machine.execXoLost s
  | .scpllUnlock => Sys2Proof.Machine.execScpllUnlock s
  | .lkpllUnlock => Sys2Proof.Machine.execLkpllUnlock s
  | .enterSapling r e => Sys2Proof.Machine.execEnterSapling r e s
  | .start r e => Sys2Proof.Machine.execStart r e s
  | .exitSapling r e => Sys2Proof.Machine.execExitSapling r e s
  | .release r e => Sys2Proof.Machine.execRelease r e s
  | .hsr r e => Sys2Proof.Machine.execHsr r e s
  | .imageLoad r e image => Sys2Proof.Machine.execImageLoad r e image s
  | .loadComplete e => Sys2Proof.Machine.execLoadComplete e s
  | .clearStandby r e v => Sys2Proof.Machine.execClearStandby r e v s
  | .ovfClear r e v => Sys2Proof.Machine.execOvfClear r e v s
  | .routeAdd r entry cls channels src dst target => Sys2Proof.Machine.execRouteAdd r entry cls channels src dst target s
  | .routeRemove r entry target => Sys2Proof.Machine.execRouteRemove r entry target s
  | .routeCancel r entry target => Sys2Proof.Machine.execRouteCancel r entry target s
  | .dlsLease r bank kind id flags startAt endAt => Sys2Proof.Machine.execDlsLease r bank kind id flags startAt endAt s
  | .dlsLeaseCancel r bank kind id flags startAt endAt => Sys2Proof.Machine.execDlsLeaseCancel r bank kind id flags startAt endAt s
  | .zeroFillComplete bank => Sys2Proof.Machine.execZeroFillComplete bank s
  | .sharedSlotAccess slot => Sys2Proof.Machine.execSharedSlotAccess slot s
  | .portBAccess block link word request sameCycle => Sys2Proof.Machine.execPortBAccess block link word request sameCycle s
  | .crossAtomic r addr op reserved operand sameCycle => Sys2Proof.Machine.execCrossAtomic r addr op reserved operand sameCycle s
  | .collClear r mask => Sys2Proof.Machine.execCollClear r mask s
  | .patrolRegionStart => Sys2Proof.Machine.execPatrolRegionStart s
  | .patrolRedirect => Sys2Proof.Machine.execPatrolRedirect s
  | .patrolTestDone defects => Sys2Proof.Machine.execPatrolTestDone defects s
  | .patrolRelease => Sys2Proof.Machine.execPatrolRelease s
  | .restartPass r => Sys2Proof.Machine.execRestartPass r s
  | .patrolAbort r => Sys2Proof.Machine.execPatrolAbort r s
  | .patrolEnable r v => Sys2Proof.Machine.execPatrolEnable r v s
  | .pageWrite r e p first values => Sys2Proof.Machine.execPageWrite r e p first values s
  | .pageLevel r e p v => Sys2Proof.Machine.execPageLevel r e p v s
  | .levellingComplete e p => Sys2Proof.Machine.execLevellingComplete e p s
  | .glideAbortFinish r e p => Sys2Proof.Machine.execGlideAbortFinish r e p s
  | .glideAbortRevert r e p => Sys2Proof.Machine.execGlideAbortRevert r e p s
  | .glideAbortEffect e p => Sys2Proof.Machine.execGlideAbortEffect e p s
  | .glideComplete e p => Sys2Proof.Machine.execGlideComplete e p s
  | .addPage r g page => Sys2Proof.Machine.execAddPage r g page s
  | .removePage r g page => Sys2Proof.Machine.execRemovePage r g page s
  | .scope r g v => Sys2Proof.Machine.execScope r g v s
  | .addMember r g device => Sys2Proof.Machine.execAddMember r g device s
  | .arm r g target => Sys2Proof.Machine.execArm r g target s
  | .cancel r g v => Sys2Proof.Machine.execCancel r g v s
  | .groupRelease r g v => Sys2Proof.Machine.execGroupRelease r g v s
  | .graftArm r engine curve group fade target => Sys2Proof.Machine.execGraftArm r engine curve group fade target s
  | .graftCancel r engine curve group fade target => Sys2Proof.Machine.execGraftCancel r engine curve group fade target s
  | .abortFinish r engine curve group fade target => Sys2Proof.Machine.execAbortFinish r engine curve group fade target s
  | .abortRevert r engine curve group fade target => Sys2Proof.Machine.execAbortRevert r engine curve group fade target s
  | .graftAbortEffect e => Sys2Proof.Machine.execGraftAbortEffect e s
  | .fadeComplete e => Sys2Proof.Machine.execFadeComplete e s
  | .prepare src msgId g target epoch => Sys2Proof.Machine.execPrepare src msgId g target epoch s
  | .prepAck src g target code => Sys2Proof.Machine.execPrepAck src g target code s
  | .ackDeadline g => Sys2Proof.Machine.execAckDeadline g s
  | .portEnable r port v => Sys2Proof.Machine.execPortEnable r port v s
  | .portInboundFrame port f => Sys2Proof.Machine.execPortInboundFrame port f s
  | .portOutboundFrame port edge => Sys2Proof.Machine.execPortOutboundFrame port edge s
  | .portQualified port => Sys2Proof.Machine.execPortQualified port s
  | .portAlign port edgeIn edgeOut fill spread => Sys2Proof.Machine.execPortAlign port edgeIn edgeOut fill spread s
  | .groupAlignTimeout g => Sys2Proof.Machine.execGroupAlignTimeout g s
  | .alignRecheck port ok => Sys2Proof.Machine.execAlignRecheck port ok s
  | .portClockLost port criterion => Sys2Proof.Machine.execPortClockLost port criterion s
  | .aesRxLock port => Sys2Proof.Machine.execAesRxLock port s
  | .aesBlockCapture port csA csB uA uB vSeen => Sys2Proof.Machine.execAesBlockCapture port csA csB uA uB vSeen s
  | .aesTxUpdate port => Sys2Proof.Machine.execAesTxUpdate port s
  | .portStart r port dir first count gain target => Sys2Proof.Machine.execPortStart r port dir first count gain target s
  | .portStop r port dir first count gain target => Sys2Proof.Machine.execPortStop r port dir first count gain target s
  | .mute r port dir first count gain target => Sys2Proof.Machine.execMute r port dir first count gain target s
  | .unmute r port dir first count gain target => Sys2Proof.Machine.execUnmute r port dir first count gain target s
  | .gain r port dir first count gain target => Sys2Proof.Machine.execGain r port dir first count gain target s
  | .portCancel r port dir first count gain target => Sys2Proof.Machine.execPortCancel r port dir first count gain target s
  | .zeroCrossing port out ch => Sys2Proof.Machine.execZeroCrossing port out ch s
  | .zcTimeout port out ch => Sys2Proof.Machine.execZcTimeout port out ch s
  | .portRampEnd port out ch => Sys2Proof.Machine.execPortRampEnd port out ch s
  | .captureBindingApply port => Sys2Proof.Machine.execCaptureBindingApply port s
  | .rbEnable r b v => Sys2Proof.Machine.execRbEnable r b v s
  | .bridgeLocked b egress ratio portMhz => Sys2Proof.Machine.execBridgeLocked b egress ratio portMhz s
  | .bridgeSlip b egress => Sys2Proof.Machine.execBridgeSlip b egress s
  | .bridgeUnlock b egress portLost => Sys2Proof.Machine.execBridgeUnlock b egress portLost s
  | .linkFrameSend l pathB residual => Sys2Proof.Machine.execLinkFrameSend l pathB residual s
  | .linkFrameReceive l f => Sys2Proof.Machine.execLinkFrameReceive l f s
  | .messageReassemblyTimeout src msgId => Sys2Proof.Machine.execMessageReassemblyTimeout src msgId s
  | .cdrLock l pathB => Sys2Proof.Machine.execCdrLock l pathB s
  | .blockLock l pathB => Sys2Proof.Machine.execBlockLock l pathB s
  | .adaptDone l pathB eq => Sys2Proof.Machine.execAdaptDone l pathB eq s
  | .frameLock l pathB => Sys2Proof.Machine.execFrameLock l pathB s
  | .measureDone l pathB peer peerLink peerPathB delayPs offsetPs => Sys2Proof.Machine.execMeasureDone l pathB peer peerLink peerPathB delayPs offsetPs s
  | .trainingTimeout l pathB => Sys2Proof.Machine.execTrainingTimeout l pathB s
  | .pathDown l pathB criterion => Sys2Proof.Machine.execPathDown l pathB criterion s
  | .delayFaultClear l pathB => Sys2Proof.Machine.execDelayFaultClear l pathB s
  | .retrain r l v => Sys2Proof.Machine.execRetrain r l v s
  | .linkRateChange l low => Sys2Proof.Machine.execLinkRateChange l low s
  | .linkJoin l peerGrove proof nonces peer compat => Sys2Proof.Machine.execLinkJoin l peerGrove proof nonces peer compat s
  | .joinReauth l proof nonces => Sys2Proof.Machine.execJoinReauth l proof nonces s
  | .groveIdWrite r numbered v => Sys2Proof.Machine.execGroveIdWrite r numbered v s
  | .rootLost => Sys2Proof.Machine.execRootLost s
  | .rootIncumbency => Sys2Proof.Machine.execRootIncumbency s
  | .handover r reserved dwell target => Sys2Proof.Machine.execHandover r reserved dwell target s
  | .roundTrip r reserved dwell target => Sys2Proof.Machine.execRoundTrip r reserved dwell target s
  | .drillCancel r reserved dwell target => Sys2Proof.Machine.execDrillCancel r reserved dwell target s
  | .drillDwellEnd => Sys2Proof.Machine.execDrillDwellEnd s
  | .drillNoTakeover => Sys2Proof.Machine.execDrillNoTakeover s
  | .linkStateRecord => Sys2Proof.Machine.execLinkStateRecord s
  | .epochAnnounce epoch device target => Sys2Proof.Machine.execEpochAnnounce epoch device target s
  | .epochAdvance => Sys2Proof.Machine.execEpochAdvance s
  | .adopt r => Sys2Proof.Machine.execAdopt r s
  | .adoptEffect => Sys2Proof.Machine.execAdoptEffect s
  | .timeStep upstream offsetNs => Sys2Proof.Machine.execTimeStep upstream offsetNs s
  | .sourceDef r e cls channels latency margin flags src reserved => Sys2Proof.Machine.execSourceDef r e cls channels latency margin flags src reserved s
  | .subscribe r e stream dst => Sys2Proof.Machine.execSubscribe r e stream dst s
  | .subscribeResult e code failDevice hops altHops terms cls chans link altLink => Sys2Proof.Machine.execSubscribeResult e code failDevice hops altHops terms cls chans link altLink s
  | .streamStart r e reserved target => Sys2Proof.Machine.execStreamStart r e reserved target s
  | .streamStop r e reserved target => Sys2Proof.Machine.execStreamStop r e reserved target s
  | .streamCancel r e reserved target => Sys2Proof.Machine.execStreamCancel r e reserved target s
  | .streamRelease r e v => Sys2Proof.Machine.execStreamRelease r e v s
  | .reroute e route => Sys2Proof.Machine.execReroute e route s
  | .playoutBankFree bank => Sys2Proof.Machine.execPlayoutBankFree bank s
  | .configRecordSend => Sys2Proof.Machine.execConfigRecordSend s
  | .replaceOffer l compat rightPosition serialLow => Sys2Proof.Machine.execReplaceOffer l compat rightPosition serialLow s
  | .confirm r device => Sys2Proof.Machine.execConfirm r device s
  | .replaceTransferDone good grove device => Sys2Proof.Machine.execReplaceTransferDone good grove device s
  | .request ifc r body => Sys2Proof.Machine.execRequest ifc r body s
  | .read r obj elem count => Sys2Proof.Machine.execRead r obj elem count s
  | .write r obj elem count data => Sys2Proof.Machine.execWrite r obj elem count data s
  | .domainOpen r obj elem total digest => Sys2Proof.Machine.execDomainOpen r obj elem total digest s
  | .domainData r obj elem offset data => Sys2Proof.Machine.execDomainData r obj elem offset data s
  | .domainClose r obj elem => Sys2Proof.Machine.execDomainClose r obj elem s
  | .domainRead r obj elem offset length => Sys2Proof.Machine.execDomainRead r obj elem offset length s
  | .domainIdleTimeout sess => Sys2Proof.Machine.execDomainIdleTimeout sess s
  | .hello ifc address port role keyIndex cn => Sys2Proof.Machine.execHello ifc address port role keyIndex cn s
  | .prove ifc sess proof => Sys2Proof.Machine.execProve ifc sess proof s
  | .proveTimeout sess => Sys2Proof.Machine.execProveTimeout sess s
  | .lockoutEnd ifc => Sys2Proof.Machine.execLockoutEnd ifc s
  | .bye ifc sess => Sys2Proof.Machine.execBye ifc sess s
  | .sessionIdleTimeout sess => Sys2Proof.Machine.execSessionIdleTimeout sess s
  | .sessionsClose r k => Sys2Proof.Machine.execSessionsClose r k s
  | .relayLapse target sess => Sys2Proof.Machine.execRelayLapse target sess s
  | .udpDatagram srcAddr srcPort packet => Sys2Proof.Machine.execUdpDatagram srcAddr srcPort packet s
  | .put message => Sys2Proof.Machine.execPut message s
  | .get complete => Sys2Proof.Machine.execGet complete s
  | .status => Sys2Proof.Machine.execStatus s
  | .eventRaise code unit arg => Sys2Proof.Machine.execEventRaise code unit arg s
  | .eventRateLimitEnd code unit => Sys2Proof.Machine.execEventRateLimitEnd code unit s
  | .eventPush sess => Sys2Proof.Machine.execEventPush sess s
  | .eventLogRead r => Sys2Proof.Machine.execEventLogRead r s
  | .save r => Sys2Proof.Machine.execSave r s
  | .saveComplete ok => Sys2Proof.Machine.execSaveComplete ok s
  | .eraseStore r => Sys2Proof.Machine.execEraseStore r s
  | .keyInstall r set index reserved material => Sys2Proof.Machine.execKeyInstall r set index reserved material s
  | .keyDelete r set index reserved material => Sys2Proof.Machine.execKeyDelete r set index reserved material s
  | .quiet r => Sys2Proof.Machine.execQuiet r s
  | .run r => Sys2Proof.Machine.execRun r s
  | .dormant r => Sys2Proof.Machine.execDormant r s
  | .powerTransition => Sys2Proof.Machine.execPowerTransition s
  | .wakePin gpio falling => Sys2Proof.Machine.execWakePin gpio falling s
  | .wakeComplete => Sys2Proof.Machine.execWakeComplete s
  | .reset r => Sys2Proof.Machine.execReset r s
  | .por => Sys2Proof.Machine.execPor s
  | .brownout => Sys2Proof.Machine.execBrownout s
  | .resetN high => Sys2Proof.Machine.execResetN high s
  | .boot straps failed bootMs slotA slotB => Sys2Proof.Machine.execBoot straps failed bootMs slotA slotB s
  | .vcoreRaise => Sys2Proof.Machine.execVcoreRaise s
  | .vcoreLower => Sys2Proof.Machine.execVcoreLower s
  | .slackLimit monitor => Sys2Proof.Machine.execSlackLimit monitor s
  | .fwImageWrite r image => Sys2Proof.Machine.execFwImageWrite r image s
  | .fwWriteComplete ok => Sys2Proof.Machine.execFwWriteComplete ok s
  | .activate r => Sys2Proof.Machine.execActivate r s
  | .fwConfirm r => Sys2Proof.Machine.execFwConfirm r s
  | .discard r => Sys2Proof.Machine.execDiscard r s
  | .trialTimeout => Sys2Proof.Machine.execTrialTimeout s
  | .advance r target reserved serial => Sys2Proof.Machine.execAdvance r target reserved serial s
  | .tamper => Sys2Proof.Machine.execTamper s
  | .vmonTrip sram => Sys2Proof.Machine.execVmonTrip sram s
  | .cmonTrip mhz => Sys2Proof.Machine.execCmonTrip mhz s
  | .tmonTrip tj => Sys2Proof.Machine.execTmonTrip tj s
  | .tjWarning tj => Sys2Proof.Machine.execTjWarning tj s
  | .lockstep cycle => Sys2Proof.Machine.execLockstep cycle s
  | .ccRestart => Sys2Proof.Machine.execCcRestart s
  | .breakEng unit addr count => Sys2Proof.Machine.execBreakEng unit addr count s
  | .step unit addr count => Sys2Proof.Machine.execStep unit addr count s
  | .resume unit addr count => Sys2Proof.Machine.execResume unit addr count s
  | .setBreak unit addr count => Sys2Proof.Machine.execSetBreak unit addr count s
  | .readData unit addr count => Sys2Proof.Machine.execReadData unit addr count s
  | .writeData unit addr count => Sys2Proof.Machine.execWriteData unit addr count s
  | .readReg unit addr count => Sys2Proof.Machine.execReadReg unit addr count s
  | .writeReg unit addr count => Sys2Proof.Machine.execWriteReg unit addr count s
  | .readProg unit addr count => Sys2Proof.Machine.execReadProg unit addr count s
  | .readDls unit addr count => Sys2Proof.Machine.execReadDls unit addr count s
  | .writeDls unit addr count => Sys2Proof.Machine.execWriteDls unit addr count s
  | .dbgData valid data => Sys2Proof.Machine.execDbgData valid data s
  | .dbgChallenge => Sys2Proof.Machine.execDbgChallenge s
  | .dbgResponse sig => Sys2Proof.Machine.execDbgResponse sig s
  | .extest selected => Sys2Proof.Machine.execExtest selected s
  | .idcode => Sys2Proof.Machine.execIdcode s
  | .samplePreload => Sys2Proof.Machine.execSamplePreload s
  | .clamp selected => Sys2Proof.Machine.execClamp selected s
  | .bypass tdi => Sys2Proof.Machine.execBypass tdi s
  | .injectEnable r v => Sys2Proof.Machine.execInjectEnable r v s
  | .injectLapse => Sys2Proof.Machine.execInjectLapse s
  | .oneShot r code reserved unit arg period count => Sys2Proof.Machine.execOneShot r code reserved unit arg period count s
  | .periodic r code reserved unit arg period count => Sys2Proof.Machine.execPeriodic r code reserved unit arg period count s
  | .injectCancel r code => Sys2Proof.Machine.execInjectCancel r code s
  | .cancelAll r v => Sys2Proof.Machine.execCancelAll r v s
  | .injectionFire code => Sys2Proof.Machine.execInjectionFire code s
  | .scpllRelock => Sys2Proof.Machine.execScpllRelock s
  | .scpllRelockTimeout => Sys2Proof.Machine.execScpllRelockTimeout s
  | .lkpllRelock => Sys2Proof.Machine.execLkpllRelock s
  | .tjWarningRearm => Sys2Proof.Machine.execTjWarningRearm s
  | .trialDictionaryTimeout => Sys2Proof.Machine.execTrialDictionaryTimeout s
  | .dbgNonceReissue => Sys2Proof.Machine.execDbgNonceReissue s

end Sys2Proof.Machine
end

