-- ==== Sys2Proof/Machine/Serve.lean ====
section
/-! DEFINITION. What the control core and the clock do while no command waits: messages leave the inbound FIFO of HQ, requests are executed
from the heads of the three queues in rotation, and time passes (R443, R448, R455, R456, R458, R459). -/
namespace Sys2Proof.Machine

/-! ## Requests are executed (R443, R455, R456) -/

/-- The interfaces in the order of their turns after one (R459). -/
def turns : Iface → List Iface
  | .ethernet => [.hq, .grove, .ethernet]
  | .hq => [.grove, .ethernet, .hq]
  | .grove => [.ethernet, .hq, .grove]

/-- The request whose turn it is: the head of the next queue that is not empty. -/
def nextRequest (g : Mgmt) : Option (Iface × Req × List Byte) :=
  (turns g.lastServed).findSome? (fun i => (queueOf g i).head?.map (fun x => (i, x)))

/-- The head of an interface's queue leaves it without being executed. -/
def dropHead (s : State) (i : Iface) : State := setMgmt s (fun m => setQueue m i ((queueOf m i).drop 1))

/-- A request that a check refuses before its operation. -/
def refuseBody (s : State) (r : Req) (body : List Byte) (gate : State → Option (Word × Byte)) : State :=
  let op := beAt body 0 1
  runRequest s r op (beAt body 1 1) gate (fun s => .ok (s, [])) (fun s => failData s r op (bodyObj body) (bodyElem body))

/-- The operation that a body names and spells (R443). Data behind a READ or a DOMAIN_CLOSE, which take none, fail step 7 of R456. -/
def runBody (r : Req) (body : List Byte) (s : State) : Outc :=
  let n := beAt body 1 1
  let obj := bodyObj body
  let el := bodyElem body
  let data := body.drop 6
  match beAt body 0 1 with
  | 1 =>
    if data.isEmpty then exec (.read r obj el n) s
    else ok (refuseBody s r body (fun s =>
      firstFailure n (accessSteps s r obj.toNat el.toNat false false (fun _ e => e.role) ++ [fun (_ : Nat) => (some eType : Option Word)])))
  | 2 => exec (.write r obj el n data) s
  | 3 => exec (.domainOpen r obj el (beAt data 0 4) (data.drop 4)) s
  | 4 => exec (.domainData r obj el (beAt data 0 4) (data.drop 4)) s
  | 5 =>
    if data.isEmpty then exec (.domainClose r obj el) s
    else ok (touchTransfer (refuseBody s r body (fun s => domainGate s r obj.toNat el.toNat true false)) r obj el)
  | _ => exec (.domainRead r obj el (beAt data 0 4) (beAt data 4 2)) s

/-- The request whose turn it is. A copy that came before the reply of the first was cached is answered from the cache at its turn (DESIGN CHOICE,
notes/assumptions/43). -/
def serve (s : State) (i : Iface) (r : Req) (body : List Byte) : Outc :=
  let x := session s r.sess.val
  if decide (x.phase ≠ 2) || decide (x.iface ≠ i) then ok (dropHead s i)
  else match x.cache.find? (fun c => decide (c.seq = r.seq)) with
    | some c => ok (sendOn (dropHead s i) r.sess.val (.reply c))
    | none => match badBody body with
      | some c => ok (refuseBody s r body (fun _ => some (c, 0xFF)))
      | none => runBody r body s

/-! ## No command waits -/

/-- What happens while no command waits. DESIGN CHOICE (notes/assumptions/1): the oldest message in the FIFO of HQ, else the request whose turn it
is, else one phase unit of media time. -/
def idle (s : State) : Outc :=
  match s.mgmt.hqIn with
  | m :: l => ok (kmpIn (setMgmt s (fun g => { g with hqIn := l })) .hq (some 0) 0 m)
  | [] =>
    match nextRequest s.mgmt with
    | none => ok (timePasses s)
    | some (i, r, body) => if !dictPresent s || decide (s.mgmt.lastStamp = some (now s)) then ok (timePasses s) else serve s i r body

end Sys2Proof.Machine
end

