-- ==== Sys2Proof/Safety.lean ====
section
/-! DEFINITION. What claims are stated in terms of: steps that go on, fuses that only burn, memories in canonical form, requests that
are served, and engine words that issue. -/
namespace Sys2Proof.Machine

/-- The step goes on. -/
def Goes (s : State) : Prop := ∃ t, step s = .next t

/-- The registers and output buffers of a run are in canonical form. -/
def CtxCanon (c : Ctx) : Prop :=
  Tbl.wf 0 c.regs = true ∧ Tbl.wf 0 c.acs = true ∧ Tbl.wf 0 c.prods = true ∧ Tbl.wf 0 c.taps = true ∧
  Tbl.wf 0 c.outCur = true ∧ Tbl.wf 0 c.outAlt = true

/-- The registers and memories of an engine, and the data of its program banks, are in canonical form. -/
def EngCanon (e : Engine) : Prop :=
  CtxCanon e.ctx ∧ CtxCanon e.alt ∧ Tbl.wf 0 e.localRam = true ∧ Tbl.wf 0 e.inCur = true ∧ Tbl.wf 0 e.inAlt = true ∧
  Tbl.wf {} e.pages = true ∧ (∀ p, Tbl.wf 0 (page e p).copy0 = true ∧ Tbl.wf 0 (page e p).copy1 = true) ∧
  Tbl.wf 0 e.active.data = true ∧ Tbl.wf 0 e.standby.data = true ∧ ∀ b, e.loading = some b → Tbl.wf 0 b.data = true

/-- Every table of units and every memory lists its keys in rising order and nothing that an unlisted key reads as. -/
def Canon (s : State) : Prop :=
  Tbl.wf {} s.engines = true ∧ Tbl.wf {} s.routes = true ∧ Tbl.wf {} s.groups = true ∧ Tbl.wf {} s.ports = true ∧
  Tbl.wf {} s.bridges = true ∧ Tbl.wf {} s.links = true ∧ Tbl.wf {} s.streams = true ∧ Tbl.wf {} s.mgmt.sessions = true ∧
  Tbl.wf {} s.mem.banks = true ∧ Tbl.wf {} s.mem.cross = true ∧ Tbl.wf 0 s.mem.ecc = true ∧
  (∀ n, EngCanon (eng s n)) ∧ (∀ b, Tbl.wf 0 (bank s b).mem = true) ∧ ∀ b, Tbl.wf 0 (cross s b).mem = true

/-! ## Engine words -/

/-- Engine `n` where a word of its current cycle begins: results due before that cycle have landed (R146). -/
def landed (s : State) (n : Nat) : State :=
  let s := landUpTo s n ((eng s n).ctx.cycle - 1)
  setCross s n { cross s n with portA := [] }

/-- The IMM extension that waits for the word (R192). -/
def prefixOf (s : State) (n : Nat) : Option (BitVec 21) := (eng (landed s n) n).ctx.imm

/-- What the word sees: its own program word has been read (R261) and a waiting IMM extension is taken. -/
def sees (s : State) (n : Nat) : State :=
  let s := landed s n
  let e := eng s n
  modEng (eccRead s (progLoc e n)) n (fun e =>
    { e with ctx := { e.ctx with imm := none }, breakHit := e.breakHit || decide (e.breakAddr = some e.ctx.pc) })

/-- The registers of the issuing run as the word sees them. -/
def seenCtx (s : State) (n : Nat) : Ctx := (eng (sees s n) n).ctx

/-- Engine `w.eng` issues a word that program RAM holds without an uncorrectable error (R54, R168, R169). -/
def Issues (s : State) (w : Issue) : Prop :=
  canIssue s w.eng.val = true ∧ eccMark (sees s w.eng.val) (progLoc (eng (landed s w.eng.val) w.eng.val) w.eng.val) ≠ 2

/-- The guard of the word, as the registers stand that it sees (R151). -/
def GuardTrue (s : State) (w : Issue) : Prop := guardHolds (eng (landed s w.eng.val) w.eng.val).ctx w = true

/-- The word issues, its guard holds and its encoding is defined: it has its effect (R151, R220, R221). -/
def Runs (s : State) (w : Issue) (i : Instr) : Prop :=
  Issues s w ∧ GuardTrue s w ∧ wordDefined i (prefixOf s w.eng.val) = true

/-- The state after a word with effect `f` has issued: its stores, its results in flight, what lands in this cycle, and the
engine at its next word (R146 to R149, R158, R161). -/
def afterWord (s : State) (n : Nat) (f : Eff) : State := advance (commit (sees s n) n f) n

/-- `i` runs with effect `f`, and with nothing else. -/
def Does (s : State) (w : Issue) (i : Instr) (f : Eff) : Prop := exec i s = .next (afterWord s w.eng.val f)

/-! ### What the chapter's tables compute, in integers -/

/-- A row of R203's table: how an immediate is extended, d from a, b and C, and the flag C it writes. -/
structure AluRule where
  word : Issue → AluArgs → Instr
  signed : Bool
  value : (n : Nat) → BitVec n → BitVec n → Bool → BitVec n
  carry : Nat → Nat → Nat → Nat → Option Bool

/-- R203, minor codes 0 to 3 and 6 to 10. -/
def aluRules : List AluRule :=
  [⟨.add, true, fun _ a b _ => a + b, fun n a b _ => some (decide (2 ^ n ≤ a + b))⟩,
   ⟨.addc, true, fun n a b c => a + b + BitVec.ofNat n c.toNat, fun n a b c => some (decide (2 ^ n ≤ a + b + c))⟩,
   ⟨.sub, true, fun _ a b _ => a - b, fun _ a b _ => some (decide (a < b))⟩,
   ⟨.subc, true, fun n a b c => a - b - BitVec.ofNat n c.toNat, fun _ a b c => some (decide (a < b + c))⟩,
   ⟨.min, true, fun _ a b _ => if a.toInt ≤ b.toInt then a else b, fun _ _ _ _ => none⟩,
   ⟨.max, true, fun _ a b _ => if b.toInt ≤ a.toInt then a else b, fun _ _ _ _ => none⟩,
   ⟨.and, false, fun _ a b _ => a &&& b, fun _ _ _ _ => none⟩,
   ⟨.or, false, fun _ a b _ => a ||| b, fun _ _ _ _ => none⟩,
   ⟨.xor, false, fun _ a b _ => a ^^^ b, fun _ _ _ _ => none⟩]

/-- The landing write of C beside a result. -/
def carryAct : Option Bool → List (Nat × Option Nat × Act)
  | none => []
  | some b => [landing 1 (.flagC b)]

/-- The landing set of ST.SAT beside a result. -/
def satLands (b : Bool) : List (Nat × Option Nat × Act) := if b then [landing 1 .setSat] else []

/-- Dd := v, landing in the issue cycle. -/
def wordLands (d : Nat) (v : Word) : List (Nat × Option Nat × Act) := [landing 1 (.word d v)]

/-- R203, minor codes 12 to 15: the result of a shift or rotate by `k`. -/
def shiftRules : List ((Issue → AluArgs → Instr) × ((n : Nat) → BitVec n → Nat → BitVec n)) :=
  [(.shl, fun n a k => BitVec.ofNat n (a.toNat * 2 ^ k)),
   (.shr, fun n a k => BitVec.ofNat n (a.toNat / 2 ^ k)),
   (.asr, fun n a k => BitVec.ofInt n (a.toInt / 2 ^ k)),
   (.rol, fun n a k => BitVec.ofNat n (a.toNat * 2 ^ (k % n) % 2 ^ n + a.toNat / 2 ^ (n - k % n)))]

/-- R203, R204, minor codes 4, 5 and 11: the result and whether SAT is set. -/
def unaryRules : List ((Issue → UnArgs → Instr) × ((n : Nat) → BitVec n → BitVec n × Bool)) :=
  [(.neg, fun n a => if a.toInt = -(2 ^ (n - 1)) then (BitVec.ofInt n (2 ^ (n - 1) - 1), true) else (BitVec.ofInt n (-a.toInt), false)),
   (.abs, fun n a => if a.toInt = -(2 ^ (n - 1)) then (BitVec.ofInt n (2 ^ (n - 1) - 1), true) else (BitVec.ofInt n a.toInt.natAbs, false)),
   (.not, fun n a => (BitVec.ofNat n (2 ^ n - 1 - a.toNat), false))]

/-- R205: the condition of a compare. -/
def compareRules : List ((Issue → CmpArgs → Instr) × ((n : Nat) → BitVec n → BitVec n → Bool)) :=
  [(.cmpeq, fun _ a b => decide (a.toNat = b.toNat)), (.cmpne, fun _ a b => decide (a.toNat ≠ b.toNat)),
   (.cmplt, fun _ a b => decide (a.toInt < b.toInt)), (.cmple, fun _ a b => decide (a.toInt ≤ b.toInt)),
   (.cmpltu, fun _ a b => decide (a.toNat < b.toNat)), (.cmpleu, fun _ a b => decide (a.toNat ≤ b.toNat))]

/-- R207, R230: an exact accumulator result under EMODE.ACCM, and whether it left the 72-bit range. -/
def accFit (wrap : Bool) (v : Int) : Acc × Bool :=
  let out := decide (v < -(2 ^ 71)) || decide (2 ^ 71 ≤ v)
  (if out && !wrap then BitVec.ofInt 72 (if v < 0 then -(2 ^ 71) else 2 ^ 71 - 1) else BitVec.ofInt 72 v, out)

/-- A MAC-class result: ACn at latency 3, forwarded (R150), and AOVn where it left the range (R138). -/
def macLands (c : Ctx) (n : Nat) (delta : Int) : List (Nat × Option Nat × Act) :=
  let r := accFit (accm c) ((accMac c n).toInt + delta)
  (3, some n, .acc n r.1) :: (if r.2 then [landing 3 (.setAov n)] else [])

/-- The real and imaginary parts of a complex product, in units of 2⁻⁶³ (R208). -/
def complexParts (a b : Long) (j : Bool) : Int × Int :=
  let ar := (a.extractLsb' 16 16).toInt
  let ai := (a.extractLsb' 0 16).toInt
  let br := (b.extractLsb' 16 16).toInt
  let bi := (b.extractLsb' 0 16).toInt
  if j then (2 ^ 33 * (ar * br + ai * bi), 2 ^ 33 * (ai * br - ar * bi))
  else (2 ^ 33 * (ar * br - ai * bi), 2 ^ 33 * (ar * bi + ai * br))

/-- An accumulator result of latency 1. -/
def accLands (n : Nat) (r : Acc × Bool) : List (Nat × Option Nat × Act) :=
  landing 1 (.acc n r.1) :: (if r.2 then [landing 1 (.setAov n)] else [])

/-- The even accumulator of pair Q (R208). -/
def evenAcc (q : Bool) : Nat := if q then 2 else 0

/-- Wd := v at latency `lat`: a write of ST clears its sticky bits by 1 (R137), any other register takes the word. -/
def codeLands (lat d : Nat) (v : Word) : List (Nat × Option Nat × Act) :=
  [landing lat (if d = 0x2D then .stWrite v else .word d v)]

/-- An after the access, where the addressing mode changes it (R187). -/
def stepsAn (c : Ctx) (m : MemOp) (sz : Nat) : List (Nat × Option Nat × Act) :=
  match (effAddr c m sz).2 with
  | none => []
  | some v => [landing 1 (.word (0x10 + m.an.val) v)]

/-- The two halves of a long at an even address, high word first (R9, R189). -/
def longStores (a : Word) (v : Long) : List (Word × Word) := [(a, v.extractLsb' 16 16), (a + 1, v.extractLsb' 0 16)]

/-- The data-space word at `a` is mapped and readable (R140, R261). -/
def Readable (s : State) (n : Nat) (a : Word) : Prop := (peekWord s n a).isSome = true ∧ wordBad s n a = false

/-- The word a program of engine `n` reads at a mapped address (R140). -/
def wordSeen (s : State) (n : Nat) (a : Word) : Word := (peekWord s n a).getD 0

/-- R210: bits [71:32] of an accumulator after rounding at bit 32 under mode `rm` 0, 1 or 2. -/
def rounded (a : Acc) (rm : Nat) : Int :=
  let v := a.toInt
  match rm with
  | 0 => v / 2 ^ 32
  | 1 => (v + 2 ^ 31) / 2 ^ 32
  | _ =>
    let q := (v + 2 ^ 31) / 2 ^ 32
    if v % 2 ^ 32 = 2 ^ 31 then q / 2 * 2 else q

/-- R210: the mode a word names; 3 is EMODE.RND. -/
def modeOf (c : Ctx) (rm : Nat) : Nat := if rm = 3 then c.emode.toNat / 2 % 4 else rm

/-- A signed 32-bit value limited to its range, and whether the limit changed it (R211). -/
def limit32 (v : Int) : Long × Bool :=
  if 2 ^ 31 ≤ v then (0x7FFFFFFF, true) else if v < -(2 ^ 31) then (0x80000000, true) else (BitVec.ofInt 32 v, false)

/-- Digit `i` of a packed word (R213). -/
def digit (v : Word) (i : Nat) : Nat := v.toNat / 16 ^ i % 16

/-- R213: one digit and the carry to the next, for PADD (0), PSUB (1) and DADJ (2). -/
def digitStep (op : Nat) (x y c : Nat) : Nat × Nat :=
  if op = 1 then
    let v : Int := (x : Int) - y - c
    if v < 0 then (((v + 10) % 16).toNat, 1) else (v.toNat, 0)
  else
    let v := if op = 0 then x + y + c else x + c
    if 10 ≤ v then ((v - 10) % 16, 1) else (v, 0)

/-- R213: the four digits in order, with HC and DC: result word, HC2 to HC0, DC. -/
def digitRule (op : Nat) (a b : Word) (c : Nat) : Word × BitVec 3 × Bool :=
  let r0 := digitStep op (digit a 0) (digit b 0) c
  let r1 := digitStep op (digit a 1) (digit b 1) r0.2
  let r2 := digitStep op (digit a 2) (digit b 2) r1.2
  let r3 := digitStep op (digit a 3) (digit b 3) r2.2
  (BitVec.ofNat 16 (r0.1 + 16 * r1.1 + 256 * r2.1 + 4096 * r3.1), BitVec.ofNat 3 (r0.2 + 2 * r1.2 + 4 * r2.2), decide (r3.2 = 1))

/-- The samples a tap reads are readable: the DLS rows of slots x[j] for each delay `j` (R253, R261). -/
def TapReadable (s : State) (b : Nat) (d : Desc) (js : List Nat) : Prop :=
  ∀ a ∈ js.flatMap (fun j => slotAddrs b d (slotOf d j)), rowBad s a = false

/-- A tap word has its effect: `t` receives `v` at latency `lat`, and the rows of delays `js` are read. -/
def tapLands (lat t b : Nat) (d : Desc) (js : List Nat) (v : Long) : Eff :=
  { acts := [landing lat (.tap t v)], dls := js.flatMap (fun j => slotAddrs b d (slotOf d j)) }

/-- Sample x[j] of a delay line (R253). -/
def sample (s : State) (b : Nat) (d : Desc) (j : Nat) : Int := (slotRead (bank s b).mem d (slotOf d j)).toInt

/-- The long-format word that a slot stands for (R219). -/
def counterpart (w : Issue) : Slot → Instr
  | .snop => .nop w
  | .ldl d an m => .ldl w d (slotMem an m)
  | .stl v an m => .stl w ⟨v.val, by omega⟩ (slotMem an m)
  | .ld d an m => .ld w ⟨d.val, by omega⟩ (slotMem an m)
  | .st v an m => .st w ⟨v.val, by omega⟩ (slotMem an m)
  | .mac n a b => .mac w n ⟨a.val, by omega⟩ ⟨b.val, by omega⟩
  | .msu n a b => .msu w n ⟨a.val, by omega⟩ ⟨b.val, by omega⟩
  | .mul p a b => .mul w p ⟨a.val, by omega⟩ ⟨b.val, by omega⟩
  | .cmac q a b => .cmac w false q a b
  | .cmsu q a b => .cmsu w false q a b
  | .movl d v => .movl w d v
  | .addl d a b => .add w (.longReg d a b)
  | .subl d a b => .sub w (.longReg d a b)
  | .mov d v => .mov w ⟨d.val, by omega⟩ ⟨v.val, by omega⟩
  | .astl d n => .astl w (.reg d) n 3
  | .aclr n => .aclr w n

/-- The issue of an engine word; none for the other commands. -/
def engWord : Instr → Option Issue
  | .nop w | .endFrame w | .halt w | .trap w _ | .rpt w _ | .rptx w _ | .blk w _ _ | .immExt w _ | .call w _ | .ret w
  | .callm w _ _ | .retm w _ | .br w _ | .brc w _ _ _ | .mov w _ _ | .movl w _ _ | .ldi w _ _ | .ldil w _ _ | .movp w _ _ _
  | .ld w _ _ | .st w _ _ | .ldl w _ _ | .stl w _ _ | .pairWord w _ _ | .add w _ | .addc w _ | .sub w _ | .subc w _
  | .neg w _ | .abs w _ | .min w _ | .max w _ | .and w _ | .or w _ | .xor w _ | .not w _ | .shl w _ | .shr w _ | .asr w _
  | .rol w _ | .cmpeq w _ | .cmpne w _ | .cmplt w _ | .cmple w _ | .cmpltu w _ | .cmpleu w _ | .gset w _ | .gclr w _
  | .gand w _ _ _ | .gor w _ _ _ | .gxor w _ _ _ | .gnot w _ _ | .mul w _ _ _ | .mac w _ _ _ | .msu w _ _ _ | .macs w _ _ _
  | .cmul w _ _ _ _ | .cmac w _ _ _ _ | .cmsu w _ _ _ _ | .aclr w _ | .ashf w _ _ | .arnd w _ _ | .anrm w _ _
  | .acmp w _ _ _ _ | .asat w _ | .astl w _ _ _ | .bfx w _ _ _ _ _ | .bfi w _ _ _ _ | .clz w _ _ | .cls w _ _
  | .bperm w _ _ _ | .padd w _ _ _ _ | .psub w _ _ _ _ | .dadj w _ _ _ | .pcmp w _ _ _ _ | .dwr w _ _ | .drd w _ _ _
  | .drl w _ _ _ | .drf w _ _ _ | .aadd w _ _ _ | .aswp w _ _ _ => some w
  | _ => none

/-- The result is an atomic's read and write, which leaves a landing of its own. -/
def Act.isAtomic : Act → Bool
  | .atomCross .. | .atomDls .. => true
  | _ => false

/-- What a word whose guard is false still does: it takes its cycles (R151). -/
inductive IdleKind where
  | plain
  /-- END: one cycle more in FREE Sapling mode (R195) -/
  | frameEnd
  /-- IMM: the word it extends decides for both (R192) -/
  | ext (x : BitVec 21)
  /-- a transfer word: its delay slot issues and no transfer follows (R151, R198); the words it would have moved -/
  | transfer (k : Nat)
  deriving DecidableEq, Repr

/-- How a word with a false guard takes its cycles. -/
def idleKind : Instr → IdleKind
  | .endFrame _ => .frameEnd
  | .immExt _ x => .ext x
  | .call _ _ | .ret _ | .br _ _ | .brc _ _ _ _ => .transfer 0
  | .callm _ _ mask | .retm _ mask => .transfer (movedRegs mask).length
  | _ => .plain

/-! ## Management requests (R455 to R458) -/

/-- A request of an open session, with the dictionary present: it is executed. -/
def Heard (s : State) (r : Req) : Prop :=
  dictPresent s = true ∧ (session s r.sess.val).phase = 2 ∧ s.mgmt.lastStamp ≠ some (now s)

/-- A command to object `obj` that its session's role and key, and the device state, allow (R439, R456, R491). -/
def Served (s : State) (r : Req) (obj role : Nat) : Prop :=
  Heard s r ∧ role ≤ (session s r.sess.val).role ∧ keylessBars s r = false ∧ dictAdmits s obj = true

/-- Execution has taken the request from its interface's queue (R459). -/
def taken (s : State) (r : Req) : State := dequeue s (session s r.sess.val).iface r

/-- The request is answered OK, and its effect on the machine is `t`. -/
def Accepts (i : Instr) (s : State) (r : Req) (t : State) : Prop := exec i s = .next (sendReply t r 2 1 eOK 0xFF [])

/-- The request is answered with error `c` and has no other effect (R457). -/
def Refuses (i : Instr) (s : State) (r : Req) (c : Word) : Prop := exec i s = .next (sendReply (taken s r) r 2 1 c 0 [])

/-- The request is answered with an error and has no other effect. -/
def Fails (i : Instr) (s : State) (r : Req) : Prop := ∃ c, c ≠ eOK ∧ Refuses i s r c

end Sys2Proof.Machine
end

