-- ==== Sys2Proof/Certificates/Slice0/Obligations.lean ====
section
/-! DEFINITION. The statements for the provers. -/
open Sys2Proof Sys2Proof.Machine

/-! ## Engine words -/

/-- R203, R191: ADD, ADDC, SUB, SUBC, MIN, MAX, AND, OR and XOR, in every operand form, write the result of the table's row at
latency 1 and, for the first four, C with it. -/
def Obligations.AluResults : Prop :=
  ∀ (s : State) (w : Issue), ∀ p ∈ aluRules,
    let c := seenCtx s w.eng.val
    let x := prefixOf s w.eng.val
    let cy := (st c).getLsbD 6
    (∀ d a b : Fin 16, Runs s w (p.word w (.wordReg d a b)) →
      Does s w (p.word w (.wordReg d a b)) ⟨wordLands d (p.value 16 (rW c a) (rW c b) cy) ++
        carryAct (p.carry 16 (rW c a).toNat (rW c b).toNat cy.toNat), [], [], [], none⟩) ∧
    (∀ (d a : Fin 16) (f : BitVec 8), Runs s w (p.word w (.wordImm d a f)) →
      let b : Word := immOf 8 16 p.signed x f.toNat
      Does s w (p.word w (.wordImm d a f)) ⟨wordLands d (p.value 16 (rW c a) b cy) ++
        carryAct (p.carry 16 (rW c a).toNat b.toNat cy.toNat), [], [], [], none⟩) ∧
    (∀ d a b : Fin 8, Runs s w (p.word w (.longReg d a b)) →
      Does s w (p.word w (.longReg d a b)) ⟨longActs 1 d (p.value 32 (rL c a) (rL c b) cy) ++
        carryAct (p.carry 32 (rL c a).toNat (rL c b).toNat cy.toNat), [], [], [], none⟩) ∧
    (∀ (d a : Fin 8) (f : BitVec 10), Runs s w (p.word w (.longImm d a f)) →
      let b : Long := immOf 10 32 p.signed x f.toNat
      Does s w (p.word w (.longImm d a f)) ⟨longActs 1 d (p.value 32 (rL c a) b cy) ++
        carryAct (p.carry 32 (rL c a).toNat b.toNat cy.toNat), [], [], [], none⟩)

/-- R203, R204: SHL, SHR, ASR and ROL by an immediate below n or by bits [5:0] of a register, without a flag; NEG, ABS and NOT,
where NEG and ABS of the most negative value give the largest and set SAT. -/
def Obligations.ShiftResults : Prop :=
  (∀ (s : State) (w : Issue), ∀ p ∈ shiftRules,
    let c := seenCtx s w.eng.val
    (∀ d a b : Fin 16, Runs s w (p.1 w (.wordReg d a b)) →
      Does s w (p.1 w (.wordReg d a b)) { acts := wordLands d (p.2 16 (rW c a) ((rW c b).extractLsb' 0 6).toNat) }) ∧
    (∀ (d a : Fin 16) (f : BitVec 8), Runs s w (p.1 w (.wordImm d a f)) →
      f.toNat < 16 ∧ Does s w (p.1 w (.wordImm d a f)) { acts := wordLands d (p.2 16 (rW c a) f.toNat) }) ∧
    (∀ d a b : Fin 8, Runs s w (p.1 w (.longReg d a b)) →
      Does s w (p.1 w (.longReg d a b)) { acts := longActs 1 d (p.2 32 (rL c a) ((rL c b).extractLsb' 0 6).toNat) }) ∧
    (∀ (d a : Fin 8) (f : BitVec 10), Runs s w (p.1 w (.longImm d a f)) →
      f.toNat < 32 ∧ Does s w (p.1 w (.longImm d a f)) { acts := longActs 1 d (p.2 32 (rL c a) f.toNat) })) ∧
  ∀ (s : State) (w : Issue), ∀ p ∈ unaryRules,
    let c := seenCtx s w.eng.val
    (∀ d a : Fin 16, Runs s w (p.1 w (.word d a)) →
      let r := p.2 16 (rW c a)
      Does s w (p.1 w (.word d a)) { acts := wordLands d r.1 ++ satLands r.2 }) ∧
    (∀ d a : Fin 8, Runs s w (p.1 w (.long d a)) →
      let r := p.2 32 (rL c a)
      Does s w (p.1 w (.long d a)) { acts := longActs 1 d r.1 ++ satLands r.2 })

/-- R205: the six compares in every operand form, and the guard logic, write their guard, and no flag, at latency 1. -/
def Obligations.CompareResults : Prop :=
  (∀ (s : State) (w : Issue) (g : Fin 8), ∀ p ∈ compareRules,
    let c := seenCtx s w.eng.val
    let x := prefixOf s w.eng.val
    (∀ a b : Fin 16, Runs s w (p.1 w (.wordReg g a b)) →
      Does s w (p.1 w (.wordReg g a b)) { acts := [landing 1 (.guard g (p.2 16 (rW c a) (rW c b)))] }) ∧
    (∀ (a : Fin 16) (f : BitVec 9), Runs s w (p.1 w (.wordImm g a f)) →
      Does s w (p.1 w (.wordImm g a f)) { acts := [landing 1 (.guard g (p.2 16 (rW c a) (immOf 9 16 true x f.toNat)))] }) ∧
    (∀ a b : Fin 8, Runs s w (p.1 w (.longReg g a b)) →
      Does s w (p.1 w (.longReg g a b)) { acts := [landing 1 (.guard g (p.2 32 (rL c a) (rL c b)))] }) ∧
    (∀ (a : Fin 8) (f : BitVec 10), Runs s w (p.1 w (.longImm g a f)) →
      Does s w (p.1 w (.longImm g a f)) { acts := [landing 1 (.guard g (p.2 32 (rL c a) (immOf 10 32 true x f.toNat)))] })) ∧
  ∀ (s : State) (w : Issue) (d a b : Fin 8),
    let g (k : Fin 8) : Bool := guard (seenCtx s w.eng.val) k
    let writes (i : Instr) (v : Bool) : Prop := Runs s w i → Does s w i { acts := [landing 1 (.guard d v)] }
    writes (.gset w d) true ∧ writes (.gclr w d) false ∧ writes (.gand w d a b) (decide (g a = true ∧ g b = true)) ∧
    writes (.gor w d a b) (decide (g a = true ∨ g b = true)) ∧ writes (.gxor w d a b) (decide (g a ≠ g b)) ∧
    writes (.gnot w d a) (decide (g a = false))

/-- R201, R137: MOV, MOVL, LDI, LDIL and MOVP write their destination at latency 1 and set no flag. -/
def Obligations.MoveResults : Prop :=
  ∀ (s : State) (w : Issue),
    let c := seenCtx s w.eng.val
    let x := prefixOf s w.eng.val
    let writes (i : Instr) (l : List (Nat × Option Nat × Act)) : Prop := Runs s w i → Does s w i { acts := l }
    (∀ d a : Fin 46, writes (.mov w d a) (codeLands 1 d (rW c a))) ∧
    (∀ (d : Fin 8) (a : Fin 12), writes (.movl w d a) (longActs 1 d (rL c a))) ∧
    (∀ (d : Fin 46) (v : Word), writes (.ldi w d v) (codeLands 1 d v)) ∧
    (∀ (d : Fin 8) (f : BitVec 18), writes (.ldil w d f) (longActs 1 d (immOf 18 32 true x f.toNat))) ∧
    (∀ (d : Fin 8) (p : Fin 2), writes (.movp w d p false) (longActs 1 d ((tget 0 c.prods p).extractLsb' 32 32)) ∧
      writes (.movp w d p true) (longActs 1 d ((tget 0 c.prods p).extractLsb' 0 32)))

/-- R201, R187, R189: LD and LDL read at the effective address in their issue cycle and write their destination at latency 2;
ST and STL write memory in the issue cycle; An changes as the addressing mode says; no flag is set. -/
def Obligations.LoadStoreResults : Prop :=
  ∀ (s : State) (w : Issue) (m : MemOp),
    let n := w.eng.val
    let u := sees s n
    let c := seenCtx s n
    let a1 := (effAddr c m 1).1
    let a2 := (effAddr c m 2).1
    (∀ d : Fin 46, Runs s w (.ld w d m) → Readable u n a1 →
      Does s w (.ld w d m) { acts := stepsAn c m 1 ++ codeLands 2 d (wordSeen u n a1), loads := [a1] }) ∧
    (∀ d : Fin 8, Runs s w (.ldl w d m) → a2.toNat % 2 = 0 → Readable u n a2 → Readable u n (a2 + 1) →
      Does s w (.ldl w d m)
        { acts := stepsAn c m 2 ++ longActs 2 d (wordSeen u n a2 ++ wordSeen u n (a2 + 1)), loads := [a2, a2 + 1] }) ∧
    (∀ v : Fin 46, Runs s w (.st w v m) → writeOk (eng u n) a1 (rW c v) = true →
      Does s w (.st w v m) { acts := stepsAn c m 1, stores := [(a1, rW c v)] }) ∧
    (∀ v : Fin 12, Runs s w (.stl w v m) → a2.toNat % 2 = 0 →
      (∀ p ∈ longStores a2 (rL c v), writeOk (eng u n) p.1 p.2 = true) →
      Does s w (.stl w v m) { acts := stepsAn c m 2, stores := longStores a2 (rL c v) })

/-- R206, R207, R208, R230: the products, sums and differences of the multiply group, placed in the accumulators at latency 3. -/
def Obligations.MultiplyResults : Prop :=
  ∀ (s : State) (w : Issue),
    let c := seenCtx s w.eng.val
    let does (i : Instr) (l : List (Nat × Option Nat × Act)) : Prop := Runs s w i → Does s w i { acts := l }
    (∀ (p : Fin 2) (a b : Fin 12), does (.mul w p a b) [landing 3 (.prod p
      (if rL c a = 0x80000000 ∧ rL c b = 0x80000000 then 0x7FFFFFFFFFFFFFFF
       else BitVec.ofInt 64 (2 * ((rL c a).toInt * (rL c b).toInt))))]) ∧
    (∀ (n : Fin 4) (a b : Fin 12),
      let x := (rL c a).toInt
      let y := (rL c b).toInt
      does (.mac w n a b) (macLands c n (2 * (x * y))) ∧
      does (.msu w n a b) (macLands c n (-(2 * (x * y)))) ∧
      does (.macs w n a b) (macLands c n (x * ((rL c b).toNat : Int)))) ∧
    (∀ (j q : Bool) (a b : Fin 8),
      let z := complexParts (rL c a) (rL c b) j
      does (.cmul w j q a b)
        [landing 3 (.acc (evenAcc q) (BitVec.ofInt 72 z.1)), landing 3 (.acc (evenAcc q + 1) (BitVec.ofInt 72 z.2))] ∧
      does (.cmac w j q a b) (macLands c (evenAcc q) z.1 ++ macLands c (evenAcc q + 1) z.2) ∧
      does (.cmsu w j q a b) (macLands c (evenAcc q) (-z.1) ++ macLands c (evenAcc q + 1) (-z.2)))

/-- R209, R210, R211, R230, R233 to R235: ACLR, ASHF, ARND, ANRM, ACMP, ASAT and ASTL at latency 1, with AOVn or SAT where the
range is left; ASTL to memory stores in the issue cycle. -/
def Obligations.AccumulatorResults : Prop :=
  ∀ (s : State) (w : Issue) (n : Fin 4),
    let u := sees s w.eng.val
    let c := seenCtx s w.eng.val
    let v := (acc c n).toInt
    let does (i : Instr) (l : List (Nat × Option Nat × Act)) : Prop := Runs s w i → Does s w i { acts := l }
    does (.aclr w n) [landing 1 (.acc n 0)] ∧
    (∀ k : BitVec 6, does (.ashf w n k) (accLands n
      (if k.toInt ≤ 0 then (BitVec.ofInt 72 (v / 2 ^ (-k.toInt).toNat), false) else accFit (accm c) (v * 2 ^ k.toInt.toNat)))) ∧
    (∀ rm : Fin 4, does (.arnd w n rm) (accLands n
      (let q := rounded (acc c n) (modeOf c rm)
       if q < 2 ^ 39 then (BitVec.ofInt 72 (q * 2 ^ 32), false)
       else (BitVec.ofInt 72 (if accm c then q * 2 ^ 32 else (2 ^ 39 - 1) * 2 ^ 32), true)))) ∧
    (∀ d : Fin 16, v = 0 → does (.anrm w n d) [landing 1 (.acc n 0), landing 1 (.word d 64)]) ∧
    (∀ (d : Fin 16) (k : Int), v = -1 ∧ k = 62 ∨
        (-8 ≤ k ∧ k ≤ 62 ∧ (let r := v * 2 ^ (k + 8).toNat / 2 ^ 8
          (2 ^ 62 ≤ r ∧ r < 2 ^ 63) ∨ (-(2 ^ 63) ≤ r ∧ r < -(2 ^ 62)))) →
      does (.anrm w n d)
        [landing 1 (.acc n (BitVec.ofInt 72 (v * 2 ^ (k + 8).toNat / 2 ^ 8))), landing 1 (.word d (BitVec.ofInt 16 k))]) ∧
    (∀ (g : Fin 8) (b : Fin 4),
      let y := (acc c b).toInt
      does (.acmp w g n b 0) [landing 1 (.guard g (decide (v = y)))] ∧
      does (.acmp w g n b 1) [landing 1 (.guard g (decide (v < y)))] ∧
      does (.acmp w g n b 2) [landing 1 (.guard g (decide (v ≤ y)))]) ∧
    does (.asat w n)
      (if (2 ^ 31 - 1) * 2 ^ 32 < v then landing 1 (.acc n (BitVec.ofInt 72 ((2 ^ 31 - 1) * 2 ^ 32))) :: satLands true
       else if v < -(2 ^ 63) then landing 1 (.acc n (BitVec.ofInt 72 (-(2 ^ 63)))) :: satLands true
       else [landing 1 (.acc n (acc c n))]) ∧
    (∀ rm : Fin 4,
      let r := limit32 (rounded (acc c n) (modeOf c rm))
      (∀ d : Fin 8, does (.astl w (.reg d) n rm) (longActs 1 d r.1 ++ satLands r.2)) ∧
      (∀ m : MemOp,
        let a := (effAddr c m 2).1
        Runs s w (.astl w (.mem m) n rm) → a.toNat % 2 = 0 →
        (∀ p ∈ longStores a r.1, writeOk (eng u w.eng.val) p.1 p.2 = true) →
        Does s w (.astl w (.mem m) n rm) { acts := stepsAn c m 2 ++ satLands r.2, stores := longStores a r.1 }))

/-- R212: BFX, BFI, CLZ, CLS and BPERM write the bits the table names at latency 1 and set no flag. -/
def Obligations.BitResults : Prop :=
  ∀ (s : State) (w : Issue) (d src : Fin 8) (pos wid : Nat),
    let c := seenCtx s w.eng.val
    let v := rL c src
    let long (i : Instr) (p : Long → Prop) : Prop := Runs s w i → ∃ r, p r ∧ Does s w i { acts := longActs 1 d r }
    let count (dd : Fin 16) (i : Instr) (p : Nat → Prop) : Prop :=
      Runs s w i → ∃ k, p k ∧ Does s w i { acts := wordLands dd (BitVec.ofNat 16 k) }
    long (.bfx w d src pos wid false) (fun r => ∀ k < 32, r.getLsbD k = (decide (k < wid) && v.getLsbD (pos + k))) ∧
    long (.bfx w d src pos wid true) (fun r => ∀ k < 32, r.getLsbD k = v.getLsbD (pos + min k (wid - 1))) ∧
    long (.bfi w d src pos wid) (fun r => ∀ k < 32, r.getLsbD k =
      if pos ≤ k ∧ k < pos + wid then v.getLsbD (k - pos) else (rL c d).getLsbD k) ∧
    (∀ dd : Fin 16, count dd (.clz w dd src) (fun k => k ≤ 32 ∧ (∀ j < k, v.getLsbD (31 - j) = false) ∧
      (k < 32 → v.getLsbD (31 - k) = true))) ∧
    (∀ dd : Fin 16, count dd (.cls w dd src) (fun k => k ≤ 31 ∧ (∀ j < k, v.getLsbD (30 - j) = v.getLsbD 31) ∧
      (k < 31 → v.getLsbD (30 - k) ≠ v.getLsbD 31))) ∧
    (∀ sel : BitVec 8, long (.bperm w d src sel) (fun r => ∀ i < 4,
      r.extractLsb' (8 * i) 8 = v.extractLsb' (8 * (sel.extractLsb' (2 * i) 2).toNat) 8))

/-- R213: PADD, PSUB and DADJ work from digit 0 to digit 3 with the carry from ST.DC when CI = 1, and write Dd, DC and HC;
PCMP compares unsigned, or tests every digit of Da, and writes only its guard. -/
def Obligations.DigitResults : Prop :=
  ∀ (s : State) (w : Issue) (a b : Fin 16) (ci : Bool),
    let c := seenCtx s w.eng.val
    let x := rW c a
    let y := rW c b
    let c0 := (ci && (st c).getLsbD 7).toNat
    let packs (i : Instr) (d : Fin 16) (r : Word × BitVec 3 × Bool) : Prop :=
      Runs s w i → Does s w i { acts := wordLands d r.1 ++ [landing 1 (.flagD r.2.2 r.2.1)] }
    (∀ d : Fin 16, packs (.padd w d a b ci) d (digitRule 0 x y c0) ∧ packs (.psub w d a b ci) d (digitRule 1 x y c0) ∧
      packs (.dadj w d a ci) d (digitRule 2 x 0 c0)) ∧
    (∀ (g : Fin 8) (cc : Fin 4), Runs s w (.pcmp w g a b cc) →
      Does s w (.pcmp w g a b cc) { acts := [landing 1 (.guard g
        (if cc.val = 0 then decide (x = y) else if cc.val = 1 then decide (x.toNat < y.toNat)
         else if cc.val = 2 then decide (x.toNat ≤ y.toNat) else decide (digit x 0 ≤ 9 ∧ digit x 1 ≤ 9 ∧ digit x 2 ≤ 9 ∧ digit x 3 ≤ 9)))] })

/-- R214, R215, R253, R255: DWR stores bits [31:8] at the head in its issue cycle; DRD, DRL and DRF write the limited tap's
value to Tn at latency 6, 7 and 8; a descriptor too short, or without a bank, raises ACCESS with the descriptor's number. -/
def Obligations.DelayResults : Prop :=
  ∀ (s : State) (w : Issue) (t : Fin 4) (k : Fin 16) (x : Fin 8) (src : Fin 12),
    let n := w.eng.val
    let u := sees s n
    let c := seenCtx s n
    let d := desc (eng u n) k
    let b := (bankNo (eng u n) d.bank).toNat
    let l := (rL c x).toNat
    let faults (i : Instr) : Prop := exec i s = .next (engFault u n { cause := 2, arg := k.val })
    let tap (i : Instr) (lat : Nat) (js : List Nat) (v : Long) : Prop := TapReadable u b d js → Does s w i (tapLands lat t b d js v)
    (Runs s w (.dwr w k src) →
      (d.len = 0 ∨ b = 0xFF → faults (.dwr w k src)) ∧
      (d.len ≠ 0 → b ≠ 0xFF → (∀ a ∈ slotAddrs b d d.head, rowBad u a = false) →
        Does s w (.dwr w k src) { dls := slotAddrs b d d.head, dwr := some (k.val, rL c src) })) ∧
    (Runs s w (.drd w t k x) →
      (d.len = 0 ∨ b = 0xFF → faults (.drd w t k x)) ∧
      (d.len ≠ 0 → b ≠ 0xFF →
        let i := min (l % 2 ^ 24) (d.len - 1)
        tap (.drd w t k x) 6 [i] (slotRead (bank u b).mem d (slotOf d i)))) ∧
    (Runs s w (.drl w t k x) →
      (d.len < 2 ∨ b = 0xFF → faults (.drl w t k x)) ∧
      (2 ≤ d.len → b ≠ 0xFF →
        let p := min l ((d.len - 2) * 65536)
        let i := p / 65536
        let f : Int := p % 65536
        let v := (65536 - f) * sample u b d i + f * sample u b d (i + 1)
        tap (.drl w t k x) 7 [i, i + 1] (sat32 (roundEven v 65536)))) ∧
    (Runs s w (.drf w t k x) →
      (d.len < 4 ∨ b = 0xFF → faults (.drf w t k x)) ∧
      (4 ≤ d.len → b ≠ 0xFF →
        let p := max 65536 (min l ((d.len - 3) * 65536))
        let i := p / 65536
        let f : Int := p % 65536
        let o : Int := 65536
        let v := (-f ^ 3 + 2 * f ^ 2 * o - f * o ^ 2) * sample u b d (i - 1) + (3 * f ^ 3 - 5 * f ^ 2 * o + 2 * o ^ 3) * sample u b d i
          + (-3 * f ^ 3 + 4 * f ^ 2 * o + f * o ^ 2) * sample u b d (i + 1) + (f ^ 3 - f ^ 2 * o) * sample u b d (i + 2)
        tap (.drf w t k x) 8 [i - 1, i, i + 1, i + 2] (sat32 (roundEven v (2 * 65536 ^ 3)))))

/-- R252: the words of slot k in either form, and their content; bits [7:0] are written as 0 by DWR, and an atomic stores all 32; a
slot reads back what it holds, with bits [7:0] zero in packed-3 form, and every other slot reads as before. -/
def Obligations.DelaySlotReadBack : Prop :=
  (∀ (m : Tbl Word) (d : Desc) (j : Nat) (v : Long), Tbl.wf 0 m = true →
    let m' := slotWrite m d j v
    let o := if d.packed3 then d.base + 3 * (j / 2) else d.base + 2 * j
    (d.packed3 = false → tget 0 m' o = v.extractLsb' 16 16 ∧ tget 0 m' (o + 1) = v.extractLsb' 8 8 ++ 0#8 ∧
      ∀ k, k ≠ o → k ≠ o + 1 → tget 0 m' k = tget 0 m k) ∧
    (d.packed3 = true → j % 2 = 0 → tget 0 m' o = v.extractLsb' 16 16 ∧
      tget 0 m' (o + 1) = v.extractLsb' 8 8 ++ (tget 0 m (o + 1)).extractLsb' 0 8 ∧
      ∀ k, k ≠ o → k ≠ o + 1 → tget 0 m' k = tget 0 m k) ∧
    (d.packed3 = true → j % 2 = 1 → tget 0 m' (o + 1) = (tget 0 m (o + 1)).extractLsb' 8 8 ++ v.extractLsb' 24 8 ∧
      tget 0 m' (o + 2) = v.extractLsb' 8 16 ∧ ∀ k, k ≠ o + 1 → k ≠ o + 2 → tget 0 m' k = tget 0 m k) ∧
    slotRead m' d j = (v &&& 0xFFFFFF00) ∧ (∀ i, i ≠ j → slotRead m' d i = slotRead m d i) ∧
    (d.packed3 = true → ∀ i, (slotRead m d i).extractLsb' 0 8 = 0) ∧ Tbl.wf 0 m' = true) ∧
  ∀ (s : State) (n b a : Nat) (f : Flight) (op : Long) (t : Nat) (swap : Bool), Canon s → f.act = .atomDls swap b a op t →
    let m := (bank s b).mem
    let m' := (bank (applyAct s n f) b).mem
    let new : Long := if swap then op else tget 0 m a ++ tget 0 m (a + 1) + op
    tget 0 m' a ++ tget 0 m' (a + 1) = new ∧ ∀ k, k ≠ a → k ≠ a + 1 → tget 0 m' k = tget 0 m k

/-- R216, R217: an atomic's read and write take place in cycle c + 4 and its tap lands at latency 8; the new long is old + Ls or
Ls; an odd or foreign crossing address raises ACCESS. -/
def Obligations.AtomicResults : Prop :=
  ∀ (s : State) (w : Issue) (t : Fin 4) (src : Fin 8) (swap : Bool),
    let n := w.eng.val
    let u := sees s n
    let c := seenCtx s n
    let i (a : AtomArgs) : Instr := if swap then .aswp w t a src else .aadd w t a src
    (∀ an : Fin 8,
      let a := (rW c (0x10 + an.val)).toNat
      Runs s w (i (.cross an)) →
      (a % 2 = 1 ∨ a < 0xB000 ∨ 0xB3FE < a →
        exec (i (.cross an)) s = .next (engFault u n { cause := 2, addr := rW c (0x10 + an.val) })) ∧
      (a % 2 = 0 → 0xB000 ≤ a → a ≤ 0xB3FE →
        eccMark u (locOf 4 n (a - 0xB000)) ≠ 2 → eccMark u (locOf 4 n (a - 0xB000 + 1)) ≠ 2 →
        Does s w (i (.cross an)) { acts := [landing 5 (.atomCross swap (a - 0xB000) (rL c src) t)] })) ∧
    (∀ (k : Fin 16) (x : Fin 8),
      let d := desc (eng u n) k
      let b := (bankNo (eng u n) d.bank).toNat
      let o := (d.base + 2 * ((rL c x).toNat % d.len)) % 0x80000
      Runs s w (i (.line k x)) →
      (d.len = 0 ∨ b = 0xFF → exec (i (.line k x)) s = .next (engFault u n { cause := 2, arg := k.val })) ∧
      (d.len ≠ 0 → b ≠ 0xFF → rowBad u (b * 0x80000 + o) = false →
        Does s w (i (.line k x)) { acts := [landing 5 (.atomDls swap b o (rL c src) t)], dls := [b * 0x80000 + o] })) ∧
    (∀ (f : Flight) (a : Nat) (op : Long), f.act = .atomCross swap a op t →
      let old : Long := tget 0 (cross s n).mem a ++ tget 0 (cross s n).mem (a + 1)
      let new : Long := if swap then op else old + op
      ∃ c', (cross (applyAct s n f) n).mem = tset 0 (tset 0 (cross s n).mem a (new.extractLsb' 16 16)) (a + 1) (new.extractLsb' 0 16) ∧
        (applyAct s n f).engines = (modEng s n (fun e => { e with ctx := c' })).engines ∧
        c'.inflight = (eng s n).ctx.inflight ++ [⟨f.due + 3, f.iss, none, .tap t old⟩])

/-- R153 to R155, R218 to R220: a slot beside SNOP does what its long-format counterpart does; two slots act together, with
slot H's C; where their destinations overlap slot L's writes are suppressed and PCF is set; a fault in either slot is the word's. -/
def Obligations.PairResults : Prop :=
  ∀ (s : State) (w : Issue) (h l : Slot),
    let n := w.eng.val
    let u := sees s n
    (Runs s w (.pairWord w h .snop) → Runs s w (counterpart w h) → exec (.pairWord w h .snop) s = exec (counterpart w h) s) ∧
    (Runs s w (.pairWord w h l) →
      (∀ f, slotEff u n h = .error f → exec (.pairWord w h l) s = .next (engFault (if f.cause = 4 then eccDetect u true f.loc else u) n f)) ∧
      (∀ eh f, slotEff u n h = .ok eh → slotEff u n l = .error f →
        exec (.pairWord w h l) s = .next (engFault (if f.cause = 4 then eccDetect u true f.loc else u) n f)) ∧
      (∀ eh el, slotEff u n h = .ok eh → slotEff u n l = .ok el →
        ((∃ d ∈ destsOf eh, d ∈ destsOf el) →
          Does s w (.pairWord w h l) { eh with acts := eh.acts ++ [landing 1 .setPcf], loads := eh.loads ++ el.loads }) ∧
        ((∀ d ∈ destsOf eh, d ∉ destsOf el) →
          Does s w (.pairWord w h l)
            { acts := eh.acts ++ (if eh.acts.any writesC then el.acts.filter (fun a => !writesC a) else el.acts)
              stores := eh.stores ++ el.stores, loads := eh.loads ++ el.loads })))

/-- R156, R158, R191, R194 to R197: NOP, END, HALT, TRAP, RPT, RPTX, BLK and IMM. -/
def Obligations.ControlResults : Prop :=
  ∀ (s : State) (w : Issue),
    let n := w.eng.val
    let u := sees s n
    let c := seenCtx s n
    let e := eng u n
    let goes (i : Instr) (t : State) : Prop := Runs s w i → exec i s = .next t
    let traps (i : Instr) (cause arg : Nat) : Prop := Runs s w i → exec i s = .next (engFault u n { cause := cause, arg := arg })
    let next (k : Nat) (c : Ctx) : Ctx := { c with pc := (c.pc + 1) % 0x4000, cycle := k }
    (Runs s w (.nop w) → Does s w (.nop w) {}) ∧
    (e.fade.isSome = true → e.newRun = false → goes (.endFrame w) (switchRun (landUpTo u n c.cycle) n)) ∧
    (e.fade = none ∨ e.newRun = true → freeRun e = false →
      goes (.endFrame w) (modEng (landUpTo u n c.cycle) n (fun e =>
        { e with stage := .ended, ctx := { e.ctx with loops := [], pc := (e.ctx.pc + 1) % 0x4000, cycle := c.cycle + 1 } }))) ∧
    (e.fade = none ∨ e.newRun = true → freeRun e = true →
      goes (.endFrame w) (afterStep (modEng (landUpTo u n c.cycle) n (fun e =>
        { e with
          ctx := { e.ctx with pc := e.active.entry, cycle := c.cycle + 2, loops := [], defer := [], rpt := none, xfer := none }
          frameCtr := e.frameCtr + 1, ctrLatch := (e.frameCtr + 1).extractLsb' 16 16
          mtFrame := ⟨(landUpTo u n c.cycle).clocks.mt.count, 0⟩ })) n)) ∧
    (saplMode e = true → goes (.halt w) (modEng (landAll u n) n (fun e =>
      { e with state := .halted, haltByDebug := false, running := false, stage := .ended, stepReq := false
               haltPc := BitVec.ofNat 16 c.pc }))) ∧
    (saplMode e = false → traps (.halt w) 1 0) ∧
    (∀ k : Fin 16, traps (.trap w k) 7 k) ∧
    (∀ k : Nat, (repeatBad e = true → traps (.rpt w k) 1 0) ∧
      (repeatBad e = false → goes (.rpt w k)
        (modCtx (landUpTo u n c.cycle) n (fun x => { next (c.cycle + 1) x with rpt := some k })))) ∧
    (∀ d : Fin 16, (saplMode e = false ∨ repeatBad e = true → traps (.rptx w d) 1 0) ∧
      (saplMode e = true → repeatBad e = false →
        (rW c d ≠ 0 → goes (.rptx w d)
          (modCtx (landUpTo u n c.cycle) n (fun x => { next (c.cycle + 1) x with rpt := some (rW c d).toNat }))) ∧
        (rW c d = 0 → goes (.rptx w d)
          (modCtx (landUpTo u n c.cycle) n (fun x => { pastWord x ((x.pc + 1) % 0x4000) with cycle := c.cycle + 1 }))))) ∧
    (∀ (f : BitVec 9) (len : Nat), (4 ≤ c.loops.length → traps (.blk w f len) 1 0) ∧
      (c.loops.length < 4 → goes (.blk w f len)
        (modCtx (commit u n { acts := [landing 1 (.word (0x28 + c.loops.length) (immOf 9 16 false (prefixOf s n) f.toNat))] }) n
          (fun x => { next (x.cycle + 1) x with loops := ⟨x.pc + 1, x.pc + len, c.loops.length⟩ :: x.loops })))) ∧
    (∀ x : BitVec 21, goes (.immExt w x)
      (modCtx (landUpTo u n c.cycle) n (fun k => { pastWord k k.pc with imm := some x, cycle := k.cycle + 1 })))

/-- R161, R162, R165, R198, R199: CALL, RET, CALLM, RETM, BR and BRC leave their transfer to the delay slot; CALL and CALLM land the
return address in LK; a nonzero mask in Sapling mode raises MODE, an area that may not be accessed ACCESS; BR and BRC are
illegal outside Sapling mode. When the delay slot of a transfer that moves no registers has issued in cycle c + 1, the target issues in
cycle c + 3; after a transfer not taken the word after the slot does. -/
def Obligations.TransferResults : Prop :=
  (∀ (s : State) (w : Issue) (addr : BitVec 14) (mask : Word),
    let n := w.eng.val
    let u := sees s n
    let c := seenCtx s n
    let e := eng u n
    let k := (movedRegs mask).length
    let ret := (c.pc + 2) % 0x4000
    let back := if e.inh then (e.ira &&& 0x3FFF).toNat else (rW c 0x2C).toNat
    let low := rW c 0x17 - BitVec.ofNat 16 k
    let a7 (v : Word) : List (Nat × Option Nat × Act) := if k = 0 then [] else [landing (2 + k) (.word 0x17 v)]
    let waits (i : Instr) (f : Eff) (x : Xfer) : Prop := Runs s w i → exec i s = .next (awaitSlot (commit u n f) n x)
    let traps (i : Instr) (f : Flt) : Prop := Runs s w i → exec i s = .next (engFault u n f)
    waits (.call w addr) { acts := [landing 3 (.word 0x2C (BitVec.ofNat 16 ret))] } (.call addr.toNat ret 0 0) ∧
    (Runs s w (.ret w) → exec (.ret w) s = .next (awaitSlot u n (.ret back 0 0 e.inh))) ∧
    (saplMode e = true → mask ≠ 0 → traps (.callm w addr mask) { cause := 6 } ∧ traps (.retm w mask) { cause := 6 }) ∧
    (saplMode e = false ∨ mask = 0 →
      ((∀ p ∈ saveArea mask low, canWrite e p.2 = true) →
        waits (.callm w addr mask) { acts := a7 low ++ [landing (3 + k) (.word 0x2C (BitVec.ofNat 16 ret))] }
          (.call addr.toNat ret mask low)) ∧
      ((∃ p ∈ saveArea mask low, canWrite e p.2 = false) → Runs s w (.callm w addr mask) →
        ∃ a, exec (.callm w addr mask) s = .next (engFault u n { cause := 2, addr := a })) ∧
      ((∀ p ∈ saveArea mask (rW c 0x17), Readable u n p.2) →
        waits (.retm w mask) { acts := a7 (rW c 0x17 + BitVec.ofNat 16 k) } (.ret back mask (rW c 0x17) e.inh)) ∧
      ((∃ p ∈ saveArea mask (rW c 0x17), peekWord u n p.2 = none) → Runs s w (.retm w mask) →
        ∃ a, exec (.retm w mask) s = .next (engFault u n { cause := 2, addr := a }))) ∧
    (saplMode e = false → traps (.br w addr) { cause := 1 } ∧ (∀ cc d, traps (.brc w cc d addr) { cause := 1 })) ∧
    (saplMode e = true →
      (Runs s w (.br w addr) → exec (.br w addr) s = .next (awaitSlot u n (.branch addr.toNat))) ∧
      (∀ (cc : Fin 4) (d : Fin 16), Runs s w (.brc w cc d addr) →
        let z := decide (rW c d = 0)
        let neg := (rW c d).getLsbD 15
        let taken := if cc.val = 0 then z else if cc.val = 1 then !z else if cc.val = 2 then neg else !neg
        exec (.brc w cc d addr) s = .next (awaitSlot u n (if taken then .branch addr.toNat else .fallThrough 0))))) ∧
  ∀ (s : State) (w : Issue) (x : Xfer) (target : Nat),
    let n := w.eng.val
    let c := seenCtx s n
    Runs s w (.nop w) → c.xfer = some x → c.rpt = none → c.loops = [] → c.defer = [] → (eng (sees s n) n).stepReq = false →
    (∃ ret low, x = .call target ret 0 low) ∨ (∃ low inh, x = .ret target 0 low inh) ∨ x = .branch target ∨
      (x = .fallThrough 0 ∧ target = (c.pc + 1) % 0x4000) →
    ∃ t, exec (.nop w) s = .next t ∧ (eng t n).ctx.pc = target ∧ (eng t n).ctx.cycle = c.cycle + 2 ∧ (eng t n).ctx.xfer = none

/-- R151, R168, R169, R220, R221: for every engine word: on an engine that issues none nothing happens; an uncorrectable program
word raises PROG_ECC; under a false guard a word writes nothing and only takes its cycles; with a true guard an undefined encoding
raises ILLEGAL. -/
def Obligations.WordStops : Prop :=
  ∀ (s : State) (i : Instr) (w : Issue), engWord i = some w →
    let n := w.eng.val
    let u := sees s n
    (canIssue s n = false → exec i s = .next s) ∧
    (canIssue s n = true → eccMark u (progLoc (eng (landed s n) n) n) = 2 → exec i s = .next (engFault u n { cause := 3 })) ∧
    (Issues s w → GuardTrue s w → wordDefined i (prefixOf s n) = false → exec i s = .next (engFault u n { cause := 1 })) ∧
    (Issues s w → ¬ GuardTrue s w →
      let v := landUpTo u n (eng u n).ctx.cycle
      exec i s = .next (match idleKind i with
        | .plain => advance v n
        | .frameEnd => if freeRun (eng v n) then modCtx (advance v n) n (fun c => { c with cycle := c.cycle + 1 }) else advance v n
        | .ext x => modCtx (landUpTo v n (eng v n).ctx.cycle) n (fun c => { pastWord c c.pc with imm := some x, cycle := c.cycle + 1 })
        | .transfer k => awaitSlot v n (.fallThrough k)))

/-- R56, R146: once the results of a cycle have landed, none due by then is left in flight; where none is due nothing changes; and
results all due in that cycle land in the order of their issue, sticky sets last (R149, R232): of results of one cycle the one of the
earlier-issued word lands first, whatever their order in the list.
R136 to R138, R150, R232: what a landing result leaves: its register reads the new value, a write to G0 and to LK bits [15:14] is
discarded, ST changes in the bits the write names, AOVn sets ESTAT.OVF too; every other register keeps its value. -/
def Obligations.LandingResults : Prop :=
  (∀ (s : State) (n c : Nat), (eng s n).stage ≠ .none →
    (∀ f ∈ (eng (landUpTo s n c) n).ctx.inflight, c < f.due) ∧
    ((∀ f ∈ (eng s n).ctx.inflight, c < f.due) → landUpTo s n c = s) ∧
    (∀ f, nextFlight c (eng s n).ctx.inflight = some f → f ∈ (eng s n).ctx.inflight ∧ f.due ≤ c ∧
      ∀ g ∈ (eng s n).ctx.inflight, g.due ≤ c → f.due < g.due ∨ (f.due = g.due ∧
        (sticky f.act = false ∨ sticky g.act = true) ∧ (sticky f.act = sticky g.act → f.iss ≤ g.iss))) ∧
    ((eng s n).ctx.inflight ≠ [] → (∀ f ∈ (eng s n).ctx.inflight, f.due = c ∧ f.act.isAtomic = false) →
      (eng s n).ctx.inflight.Pairwise (fun f g => f.iss ≤ g.iss) →
      let l := (eng s n).ctx.inflight
      landUpTo s n c = (l.filter (fun f => !sticky f.act) ++ l.filter (fun f => sticky f.act)).foldl (fun s f => applyAct s n f)
        (modCtx s n (fun c => { c with inflight := [] })))) ∧
  (∀ (s : State) (n : Nat) (f : Flight), Canon s →
    let c := (eng s n).ctx
    let t := applyAct s n f
    let c' := (eng t n).ctx
    let quiet : Prop := { t with engines := s.engines } = s ∧ ∀ k, k ≠ n → eng t k = eng s k
    let here : Prop := { eng t n with ctx := c } = eng s n
    let words (d : Nat) (v : Word) : Prop := { c' with regs := c.regs } = c ∧ ∀ j, rW c' j = if j = d then v else rW c j
    let status (p : Nat → Bool → Bool) : Prop := { c' with regs := c.regs } = c ∧ (∀ j, j ≠ 0x2D → rW c' j = rW c j) ∧
      ∀ b < 11, (st c').getLsbD b = p b ((st c).getLsbD b)
    (∀ d v, f.act = .word d v → quiet ∧ here ∧ words d (if d = 0x2C then v &&& 0x3FFF else if d = 0x2D then v &&& 0x07FF else v)) ∧
    (∀ k v, f.act = .acc k v → quiet ∧ here ∧ { c' with acs := c.acs } = c ∧ ∀ j, acc c' j = if j = k then v else acc c j) ∧
    (∀ k v, f.act = .prod k v → quiet ∧ here ∧ { c' with prods := c.prods } = c ∧
      ∀ j, tget 0 c'.prods j = if j = k then v else tget 0 c.prods j) ∧
    (∀ k v, f.act = .tap k v → quiet ∧ here ∧ { c' with taps := c.taps } = c ∧
      ∀ j, tget 0 c'.taps j = if j = k then v else tget 0 c.taps j) ∧
    (∀ g v, f.act = .guard g v → quiet ∧ here ∧ { c' with guards := c.guards } = c ∧
      ∀ j < 8, guard c' j = if j = g ∧ g ≠ 0 then v else guard c j) ∧
    (∀ v, f.act = .stWrite v → quiet ∧ here ∧ status (fun b old => if b < 6 then old && !v.getLsbD b else v.getLsbD b)) ∧
    (∀ v, f.act = .flagC v → quiet ∧ here ∧ status (fun b old => if b = 6 then v else old)) ∧
    (∀ dc hc, f.act = .flagD dc hc → quiet ∧ here ∧
      status (fun b old => if b = 7 then dc else if 8 ≤ b then hc.getLsbD (b - 8) else old)) ∧
    (f.act = .setSat → quiet ∧ here ∧ status (fun b old => old || decide (b = 4))) ∧
    (f.act = .setPcf → quiet ∧ here ∧ status (fun b old => old || decide (b = 5))) ∧
    (∀ k, f.act = .setAov k → k < 4 → status (fun b old => old || decide (b = k)) ∧ (eng t n).ovf = true ∧
      { eng t n with ctx := c, ovf := (eng s n).ovf } = eng s n ∧ { t with engines := s.engines, events := s.events } = s ∧
      ((eng s n).ovf = true → t.events = s.events) ∧
      ((eng s n).ovf = false → tget 0 t.events.det 0x2012 = satInc31 (tget 0 s.events.det 0x2012))))

/-- R137, R138, R140, R141, R144, R147, R548: a word stored reads back and every other word of the data space reads as before; a
store changes its own engine and its crossing block alone; ESTAT clears by 1 and EMODE takes its defined bits; where no live route
mirrors the engine's output the stores of a word are these alone. -/
def Obligations.StoredWords : Prop :=
  ∀ (s : State) (n : Nat) (a v : Word), Canon s → writeOk (eng s n) a v = true →
    let e := eng s n
    let t := storeWord s n a v
    let e' := eng t n
    (a.toNat < 0xF000 → ∀ b, peekWord t n b = if b = a then some v else peekWord s n b) ∧
    { t with engines := s.engines, mem := s.mem } = s ∧ (∀ k, k ≠ n → eng t k = eng s k ∧ (cross t k).mem = (cross s k).mem) ∧
    (a.toNat < 0x8000 → { e' with localRam := e.localRam } = e ∧ t.mem.cross = s.mem.cross) ∧
    (0xA800 ≤ a.toNat → a.toNat < 0xB000 → { e' with ctx := { e'.ctx with outCur := e.ctx.outCur } } = e ∧ t.mem = s.mem) ∧
    (0xB000 ≤ a.toNat → a.toNat < 0xB400 → t.engines = s.engines) ∧
    (a = 0xF000 → t.mem = s.mem ∧ e' = { e with ovf := e.ovf && !v.getLsbD 0, hsrPend := e.hsrPend && !v.getLsbD 2
                                                hsrWait := e.hsrWait && !v.getLsbD 2 }) ∧
    (a = 0xF004 → t.mem = s.mem ∧ e' = { e with ctx := { e.ctx with emode := v &&& 0x1F } }) ∧
    { t.mem with cross := s.mem.cross, ecc := s.mem.ecc } = s.mem ∧
    ((∀ kv ∈ s.routes, (routeLive kv.2 && mirrored s kv.2 && decide (epUnit kv.2.source = n)) = false) →
      ∀ l : List (Word × Word), storeAll s n l = l.foldl (fun s p => storeWord s n p.1 p.2) s)

/-- R142, R169 to R171: a fault of a frame program outside a fade records its cause, argument, word address and effective address,
counts, ends the frame's issue and raises the event of its cause. -/
def Obligations.FrameFault : Prop :=
  ∀ (s : State) (n : Nat) (f : Flt), (eng s n).ctx.xfer = none → (eng s n).fade = none → freeRun (eng s n) = false →
    let e := eng s n
    let t := engFault s n f
    (eng t n).faultCause = f.cause ∧ (eng t n).faultArg = f.arg ∧ (eng t n).faultAddr = f.addr ∧
    (eng t n).faultPc = BitVec.ofNat 16 e.ctx.pc ∧ (eng t n).lastCause = f.cause ∧ (eng t n).lastPc = BitVec.ofNat 16 e.ctx.pc ∧
    (eng t n).lastFrame = e.frameCtr ∧ (eng t n).faultCount = (satInc e.faultCount).1 ∧ (eng t n).faulted = true ∧
    (eng t n).stage = .ended ∧ (eng t n).ctx = e.ctx ∧
    tget 0 t.events.det (0x2000 + f.cause) = satInc31 (tget 0 s.events.det (0x2000 + f.cause)) ∧
    { t with engines := s.engines, events := s.events } = s ∧ (∀ k, k ≠ n → eng t k = eng s k)

/-- R17, R140, R141: an engine word changes its own engine, the memories, the events and the idle input buffers that mirrored
routes feed, and nothing else of the machine. -/
def Obligations.EngineWordFrame : Prop :=
  ∀ (s t : State) (i : Instr) (w : Issue), Canon s → engWord i = some w → exec i s = .next t →
    { t with engines := s.engines, mem := s.mem, events := s.events } = s ∧ t.mem.patrol = s.mem.patrol ∧
    (∀ k, k ≠ w.eng.val → { eng t k with inAlt := (eng s k).inAlt } = eng s k) ∧
    (∀ k, k ≠ w.eng.val → (cross t k).mem = (cross s k).mem) ∧
    (∀ b, { bank t b with mem := (bank s b).mem } = bank s b)

/-! ## Engine commands and the loader -/

/-- R138, R166, R171, R178 to R180: ENTER_SAPLING, START, EXIT_SAPLING, RELEASE, HSR, CLEAR_STANDBY and OVF_CLEAR: in the states
the table allows each has its effect, in any other it answers STATE (a load running: BUSY) and changes nothing. -/
def Obligations.EngineCommands : Prop :=
  ∀ (s : State) (r : Req) (e : Fin 32) (v : Byte),
    let n := e.val
    let g := eng s n
    let u := taken s r
    let sapling := g.state = .sapling ∨ g.state = .halted
    let startable := sapling ∧ g.active.sapling = true ∧ g.active.codeWords ≠ 0
    let enters := (g.state = .idle ∨ g.state = .quarantined) ∧ usesExchange s n = false ∧ s.fuses.life ≠ .ended
    (Served s r (0x0400 + 32 * n) engineer →
      (enters → Accepts (.enterSapling r e) s r (modEng u n (fun g =>
        { g with state := .sapling, running := false, stage := .none, prepared := false, outFade := none, releaseReq := false
                 powered := true, haltByDebug := false }))) ∧
      (¬ enters → Refuses (.enterSapling r e) s r eState) ∧
      (startable → ∃ t, Accepts (.start r e) s r t ∧ { t with engines := u.engines, mem := u.mem } = u ∧
        (let k := eng t n
         k.state = .sapling ∧ k.running = true ∧ k.ctx.pc = g.active.entry ∧ k.ctx.cycle = 0 ∧ k.ctx.inflight = [] ∧
         k.localRam = g.active.data ∧ k.stage = (if g.active.paced then .none else .program) ∧
         k.frameCtr = (if g.active.paced then 0 else 1)) ∧ (∀ j, j ≠ n → eng t j = eng s j)) ∧
      (¬ startable → Refuses (.start r e) s r eState) ∧
      (sapling → Accepts (.exitSapling r e) s r (modEng u n (fun g =>
        { g with state := .idle, active := {}, running := false, stage := .none, prepared := false, powered := false
                 ctx := { g.ctx with inflight := [] } }))) ∧
      (¬ sapling → Refuses (.exitSapling r e) s r eState) ∧
      (g.state = .quarantined → Accepts (.release r e) s r (modEng u n (fun g => { g with releaseReq := true }))) ∧
      (g.state ≠ .quarantined → Refuses (.release r e) s r eState) ∧
      Accepts (.hsr r e) s r (modEng u n (fun g => { g with hsrPend := true, hsrWait := saplMode g }))) ∧
    (Served s r (0x0401 + 32 * n) engineer →
      (v = 0 → Accepts (.clearStandby r e v) s r u) ∧
      (v = 1 → g.standbyState ≠ 3 → g.fade = none → g.loading = none →
        Accepts (.clearStandby r e v) s r (modEng u n (fun g => { g with standby := {}, standbyState := 0 }))) ∧
      (v = 1 → g.standbyState = 3 ∨ g.fade ≠ none → Refuses (.clearStandby r e v) s r eState) ∧
      (v = 1 → g.standbyState ≠ 3 → g.fade = none → g.loading ≠ none → Refuses (.clearStandby r e v) s r eBusy) ∧
      (1 < v.toNat → Refuses (.clearStandby r e v) s r eRange)) ∧
    (Served s r (0x0406 + 32 * n) engineer →
      (v = 0 → Accepts (.ovfClear r e v) s r u) ∧
      (v = 1 → Accepts (.ovfClear r e v) s r (modEng u n (fun g => { g with ovf := false }))) ∧
      (1 < v.toNat → Refuses (.ovfClear r e v) s r eRange))

/-- R173 to R177, R446: the close of an image domain is refused with BUSY while a load runs and with STATE while the standby bank is ARMED or
a fade runs, and LOAD_RESULT and an event tell of it; else it is answered OK with the octets received, and the load goes on: with an image
the loader accepts the bank is LOADING, else the load fails with its code in LOAD_RESULT and an event; when it completes the image
is in the standby bank (frame) or in the active one (Sapling). -/
def Obligations.ImageLoading : Prop :=
  ∀ (s : State) (r : Req) (e : Fin 32) (image : List Byte) (b : ProgBank) (c : Word), Canon s →
    let n := e.val
    let g := eng s n
    let u := taken s r
    let loads (t : State) : Prop := exec (.imageLoad r e image) s = .next (sendReply t r 5 1 eOK 0xFF (be 4 image.length))
    let fails (t : State) (c : Word) : State := detect (modEng t n (fun g => { g with loadResult := c })) 0x2013 n (c.setWidth 32)
    let refused (c : Word) : Prop :=
      exec (.imageLoad r e image) s = .next (sendReply (taken (fails s c) r) r 5 1 c 0 (be 4 image.length))
    (Served s r (0x0401 + 32 * n) engineer →
      (g.loading ≠ none → refused eBusy) ∧
      (g.loading = none → g.standbyState = 3 ∨ g.fade ≠ none → refused eState) ∧
      (g.loading = none → g.standbyState ≠ 3 → g.fade = none →
        (loadImage u e image = .ok b →
          loads (modEng u n (fun g => { g with loading := some b, standbyState := if b.sapling then g.standbyState else 1 }))) ∧
        (loadImage u e image = .error c → loads (fails u c)))) ∧
    (g.loading = none → exec (.loadComplete e) s = .next s) ∧
    (g.loading = some b → ∃ t, exec (.loadComplete e) s = .next t ∧
      (eng t n).loading = none ∧
      (b.sapling = false → (eng t n).standby = b ∧ (eng t n).standbyState = 2 ∧ (eng t n).loadResult = eOK ∧
        (eng t n).active = g.active) ∧
      (b.sapling = true → g.state = .sapling ∨ g.state = .halted →
        (eng t n).active = b ∧ (eng t n).state = .sapling ∧ (eng t n).running = false ∧ (eng t n).loadResult = eOK) ∧
      (b.sapling = true → g.state ≠ .sapling → g.state ≠ .halted →
        (eng t n).active = g.active ∧ (eng t n).loadResult = eState) ∧
      { t with engines := s.engines, mem := s.mem, events := s.events } = s ∧ (∀ k, k ≠ n → eng t k = eng s k))

/-! ## Exchange routes -/

/-- R31, R33, R71: ADD arms a FREE entry with its moves, REMOVE arms the removal of an ACTIVE route and CANCEL takes an armed change
back; each leaves its action in the schedule table or takes it out, and an entry above 8,191 does not exist. -/
def Obligations.RouteRequests : Prop :=
  ∀ (s : State) (r : Req) (k : Nat) (cls : Byte) (channels : Word) (src dst : Endpoint) (t : MT),
    let a := epLong src
    let b := epLong dst
    let n := channels.toNat
    let x := route s k
    let u := taken s r
    let drop := schedDrop u (fun y => decide (y.target = t) && sameItem y.act (.routeAdd k))
    let aligned := isPeriod t = true ∧ epBoundary s x.source t = true ∧ epBoundary s x.dest t = true
    (Heard s r → 8192 ≤ k → Refuses (.routeAdd r k cls channels src dst t) s r eNoObject ∧
      Refuses (.routeRemove r k t) s r eNoObject ∧ Refuses (.routeCancel r k t) s r eNoObject) ∧
    (Served s r (0x6000 + k) engineer → k < 8192 →
      (cls.toNat ≤ 9 → 1 ≤ n → n ≤ 1024 → epRange s a n false = true → epRange s b n true = true → isPeriod t = true →
        epBoundary s a t = true → epBoundary s b t = true → inTime (now s) t = true → x.state = .free →
        epSapling s a = false → epSapling s b = false → dormant s = false →
        routeAdmit u k a b cls.toNat n t (.routeAdd k) = none →
        Accepts (.routeAdd r k cls channels src dst t) s r (setRoute (schedAdd u t [.routeAdd k]) k
          { state := .armed, source := a, dest := b, channels := n, cls := cls.toNat
            moves := routeMoves s a b cls.toNat n, target := some t, result := eOK })) ∧
      (aligned → inTime (now s) t = true → x.state = .active → epSapling s x.source = false → epSapling s x.dest = false →
        dormant s = false → schedTaken s t (.routeRemove k) = false → schedRoom s 1 = true →
        Accepts (.routeRemove r k t) s r (setRoute (schedAdd u t [.routeRemove k]) k
          { x with state := .removing, target := some t, result := eOK })) ∧
      (aligned → inTime (now s) t = true → x.target = some t → epSapling s x.source = false → epSapling s x.dest = false →
        (x.state = .armed → Accepts (.routeCancel r k t) s r (setRoute drop k { result := eOK })) ∧
        (x.state = .removing → destFed s x.dest x.channels t (some k) none = false →
          admits u t (some k) (routeLoads x.source x.dest x.cls x.channels) = true →
          Accepts (.routeCancel r k t) s r (setRoute drop k { x with state := .active, target := none, result := eOK }))) ∧
      (aligned → inTime (now s) t = false →
        Refuses (.routeRemove r k t) s r eLate ∧ Refuses (.routeCancel r k t) s r eLate))

/-! ## Memories -/

/-- R241 to R249, R274: a lease or its release becomes a pending action, CANCEL takes it out, and a bank whose zero-fill has
completed no longer waits for it. -/
def Obligations.LeaseRequests : Prop :=
  ∀ (s : State) (r : Req) (bank' kind id flags : Byte) (t u : MT),
    let b := bank'.toNat
    let act : SchedAct := .lease b kind.toNat id.toNat (flags.getLsbD 0) (if u = MT.zero then none else some u)
    let v := leasesBefore (taken s r) t
    let old := bank v b
    (Served s r 0x1040 engineer →
      (leaseRange (taken s r) false b kind.toNat id.toNat flags.toNat t u = true → inTime (now s) t = true →
        (kind = 0 ↔ old.kind ≠ 0) → schedTaken s t act = false → (kind = 1 → fifthBank (taken s r) t id.toNat act = false) →
        schedRoom s 1 = true → dormant s = false →
        (old.kind = 1 → ∀ i, bankIndex (eng v old.id) b = some i → bankNeeded (eng s old.id) i = false) →
        Accepts (.dlsLease r bank' kind id flags t u) s r (schedAdd (taken s r) t [act])) ∧
      (leaseRange (taken s r) true b kind.toNat id.toNat flags.toNat t u = true → inTime (now s) t = true →
        (schedTaken s t (.lease b 0 0 false none) = true →
          Accepts (.dlsLeaseCancel r bank' kind id flags t u) s r
            (schedDrop (taken s r) (fun x => decide (x.target = t) && sameItem x.act (.lease b 0 0 false none)))) ∧
        (schedTaken s t (.lease b 0 0 false none) = false → Refuses (.dlsLeaseCancel r bank' kind id flags t u) s r eState))) ∧
    (∀ k : Fin 32, exec (.zeroFillComplete k) s = .next (setBank s k.val { bank s k.val with zeroPending := false }))

/-- R243 to R245, R261: the shared slot takes what has arrived behind what waits, in order of cycle and then of requester, and serves the
oldest request: every other requester with one waiting counts it; a read of up to one row returns its words, and no words where an ECC error
is uncorrectable; a write reaches a FREE bank alone. -/
def Obligations.SharedAccesses : Prop :=
  ∀ (s : State) (x : SharedSlot) (q : SharedReq) (l : List SharedReq), Canon s →
    let n := x.bank.val
    let b := bank s n
    let run : Outc := exec (.sharedSlotAccess x) s
    let out (t : State) : Option (List Word) := tget none t.mem.sharedOut q.who
    (b.queue = [] → x.arrivals = [] → run = .next s) ∧
    (∀ a c, x.arrivals = [a, c] → b.queue = [q] → ∃ t, run = .next t ∧
      (q.who ≠ 5 → (bank t n).queue =
        if c.cycle.val < a.cycle.val ∨ (c.cycle = a.cycle ∧ c.who.val < a.who.val) then [sharedReq c, sharedReq a] else [sharedReq a, sharedReq c])) ∧
    (b.queue = q :: l → x.arrivals = [] → ∃ t, run = .next t ∧
      (q.who ≠ 5 → (bank t n).queue = l) ∧
      (∀ k < 7, tget 0 (bank t n).waits k =
        if l.any (fun y => decide (y.who = k)) then (satInc (tget 0 b.waits k)).1 else tget 0 b.waits k) ∧
      (∀ m, m ≠ n → bank t m = bank s m) ∧ (bank t n).kind = b.kind ∧
      (q.write = none → (bank t n).mem = b.mem ∧
        out t = if rowBad s (n * 0x80000 + q.addr) then none else some ((List.range q.words).map (fun i => tget 0 b.mem (q.addr + i)))) ∧
      (∀ ws, q.write = some ws →
        (b.kind ≠ 0 → (bank t n).mem = b.mem ∧ out t = none) ∧
        (b.kind = 0 → out t = some [] ∧ ∀ k, tget 0 (bank t n).mem k =
          if q.addr ≤ k ∧ k < q.addr + ws.length then ws.getD (k - q.addr) 0 else tget 0 b.mem k)))

/-- R256 to R260, R274: a request at port B joins its side's others and the next access is carried out, the two sides taking turns; a
read returns the word before the cycle; a write stands unless port A writes a different value in the same cycle, which collides; an
atomic acts on the long after what waits, and leaves the old long in the session; COLL.CLEAR clears the flags written 1. -/
def Obligations.CrossingPorts : Prop :=
  ∀ (s : State) (n : Fin 32), Canon s →
    let x := cross s n
    (∀ (link : Bool) (word : Fin 1024) (v : Word) (same : Bool), x.waitCc = [] → x.waitLink = [] →
      let s1 := setCross s n { x with lastCc := !link, lastTag := none }
      let at' : Option PortA := if same then portAOf x word else none
      let write : Outc := exec (.portBAccess n link word (.write v) same) s
      let stands := write = .next (portBWrite s1 n word v)
      exec (.portBAccess n link word .none same) s = .next (setCross s n x) ∧
      exec (.portBAccess n link word .read same) s =
        .next (eccRead (setCross s1 n { cross s1 n with readB := at'.elim (tget 0 x.mem word) PortA.before }) (locOf 4 n word)) ∧
      (at' = none → stands) ∧
      (∀ a, at' = some a →
        (a.wrote = none → stands) ∧
        (∀ y, a.wrote = some y →
          (a.atomic = true → stands) ∧
          (a.atomic = false → y = v → write = .next s1) ∧
          (a.atomic = false → y ≠ v → write = .next (collide s1 n word))))) ∧
    (∀ (a b : PortB) (word : Fin 1024) (same : Bool), x.waitCc = [a] → x.waitLink = [b] → a.tag = none → b.tag = none →
      ∃ t, exec (.portBAccess n true word .none same) s = .next t ∧ (cross t n).lastCc = !x.lastCc ∧
        (cross t n).waitCc = (if x.lastCc then [a] else []) ∧ (cross t n).waitLink = if x.lastCc then [] else [b]) ∧
    (∀ (r : Req) (mask : Long), Served s r 0x1004 engineer → Accepts (.collClear r mask) s r
      ((List.range 32).foldl (fun s b => if mask.getLsbD b then setCross s b { cross s b with flag := false } else s) (taken s r))) ∧
    (cross (settlePortB s n) n).waitCc = [] ∧ (cross (settlePortB s n) n).waitLink = [] ∧
    (∀ (r : Req) (addr : Word) (swap : Bool) (v : Long) (same : Bool),
      let k := addr.toNat / 1024 % 32
      let w := addr.toNat % 1024
      let s0 := settlePortB s k
      let u := taken s0 r
      let old : Long := tget 0 (cross s0 k).mem w ++ tget 0 (cross s0 k).mem (w + 1)
      let new : Long := if swap then v else old + v
      let written := portBWrite (portBWrite u k w (new.extractLsb' 16 16)) k (w + 1) (new.extractLsb' 0 16)
      let took := setCross written k { cross written k with lastCc := true, lastTag := none, readB := old.extractLsb' 0 16 }
      Served s r 0x1005 engineer → addr.toNat < 0x8000 → w % 2 = 0 →
      eccMark s0 (locOf 4 k w) = 0 → eccMark s0 (locOf 4 k (w + 1)) = 0 →
      Accepts (.crossAtomic r addr (if swap then 1 else 0) 0 v same) s r
        (setSession took r.sess { session took r.sess with oldAtomic := old }))

/-- R263 to R269, R275: a region is copied, redirected once its copy is complete, tested, restored and released in turn; March C− finds every stuck cell of its units, and a failing region takes the first free
spare or is skipped from then on; the pass ends after its last region or by an abort; ABORT is too late in the last region. -/
def Obligations.PatrolSequence : Prop :=
  ∀ (s : State) (k : Nat),
    let p := s.mem.patrol
    let f := s.flash.repair
    (nextRegion s p.region = some k → p.state = .idle → s.cfg.patrolOn = true → dormant s = false → s.power.ccDown = none →
      s.power.dev ≠ .booting → regionFilling s k = false → ∃ t, exec .patrolRegionStart s = .next t ∧
      t.mem.patrol = { p with state := .copy, region := k, redirected := false, left := stepAccesses k 1
                              cutoff := if (nextRegion s (k + 1)).isNone then some (now s) else none }) ∧
    (p.state = .copy → p.left = 0 → ∃ t, exec .patrolRedirect s = .next t ∧
      t.mem.patrol = { p with state := .test, redirected := true, left := stepAccesses p.region 20 }) ∧
    (∀ defects : List CellDefect, marchPasses k defects = true ↔ ∀ d ∈ defects, d.unit < unitsOf k → d.low = 0 ∧ d.high = 0) ∧
    (∀ defects : List CellDefect, p.state = .test → p.left = 0 →
      ∃ t, exec (.patrolTestDone defects) s = .next t ∧
        t.mem.patrol = { p with state := .restore, left := stepAccesses p.region 1, cells := marchedCells p.region defects } ∧
        (marchPasses p.region defects = true → t.flash = s.flash ∧ t.events = s.events) ∧
        (marchPasses p.region defects = false → sparesUsed s (repairBank p.region) < 8 →
          t.flash.repair = { f with remaps := tset 0 f.remaps p.region (sparesUsed s (repairBank p.region) + 1)
                                    remapCount := (satInc f.remapCount).1 }) ∧
        (marchPasses p.region defects = false → 8 ≤ sparesUsed s (repairBank p.region) →
          t.flash.repair = { f with skipped := f.skipped ++ [p.region], unrepaired := (satInc f.unrepaired).1 })) ∧
    (p.state = .restore → p.left = 0 → ∃ t, exec .patrolRelease s = .next t ∧
      t.mem.patrol.state = (if p.pauseReq then .paused else .idle) ∧ t.mem.patrol.redirected = false ∧ t.mem.patrol.cells = [] ∧
      (p.abortReq = false → p.restartReq = false → nextRegion s (p.region + 1) = some k →
        t.mem.patrol.region = p.region + 1 ∧ t.events = s.events) ∧
      (p.abortReq = true ∨ p.restartReq = true →
        t.mem.patrol.region = 0 ∧ t.mem.patrol.lastResult = 2 ∧ t.mem.patrol.lastEnd = now s) ∧
      (p.abortReq = false → p.restartReq = false → nextRegion s (p.region + 1) = none →
        t.mem.patrol.region = 0 ∧ t.mem.patrol.lastResult = 1 ∧ t.mem.patrol.passes = (satInc p.passes).1)) ∧
    (∀ r : Req, Served s r 0x1001 engineer →
      let u := taken s r
      (patrolBusy p = true → Accepts (.restartPass r) s r (setPatrol u { p with restartReq := true })) ∧
      (patrolBusy p = false → Accepts (.restartPass r) s r (endPass u 2)) ∧
      (p.cutoff ≠ none → Refuses (.patrolAbort r) s r eLate) ∧
      (p.cutoff = none → patrolBusy p = true → Accepts (.patrolAbort r) s r (setPatrol u { p with abortReq := true })) ∧
      (p.cutoff = none → patrolBusy p = false → Accepts (.patrolAbort r) s r (endPass u 2)) ∧
      (∃ t, Accepts (.patrolEnable r 1) s r t ∧ t.cfg.patrolOn = true ∧
        t.mem.patrol.state = (if p.state = .paused then .idle else p.state)) ∧
      (∃ t, Accepts (.patrolEnable r 0) s r t ∧ t.cfg.patrolOn = false ∧
        t.mem.patrol.state = (if p.state = .idle then .paused else p.state) ∧
        (patrolBusy p = true → t.mem.patrol.pauseReq = true)))

/-! ## Coefficient pages, commit groups and grafts -/

/-- R276 to R279, R284, R287: a host's words land in the shadow copy of a page that is CLEAN, DIRTY or ARMED in time; LEVEL levels a
DIRTY page; a glide's end levels it; an abort is taken to a boundary and finishes or reverts there. -/
def Obligations.PageCommands : Prop :=
  ∀ (s : State) (r : Req) (e : Fin 32) (p : Fin 128),
    let q := page (eng s e) p
    let u := taken s r
    let set (s : State) (f : Page → Page) : State := modPage s e p f
    let b := boundaryFrom (max 3 (engClass s e)) (mtPlus (now s) (4 * 65536))
    let ends := mtPlus q.glideStart (q.glideN * frameUnits (engClass s e))
    (Served s r (0x2000 + 128 * e.val + p.val) operator →
      (∀ (first : Nat) (vs : List Word), vs ≠ [] → first + vs.length ≤ 64 →
        (q.state = .clean ∨ q.state = .dirty ∨ (q.state = .armed ∧ inTime (now s) (groupTarget s q.group.toNat) = true) →
          ∃ t, exec (.pageWrite r e p first vs) s = .next (sendReply t r 2 vs.length eOK 0xFF []) ∧
            { t with engines := s.engines, mem := s.mem } = { u with engines := s.engines, mem := s.mem } ∧
            t.engines = (set u (fun q => { (if q.view1 then { q with copy0 := tsetRun 0 q.copy0 first vs }
              else { q with copy1 := tsetRun 0 q.copy1 first vs }) with
                dirty := true, state := if q.state = .armed then .armed else .dirty })).engines) ∧
        (q.state = .bound ∨ q.state = .gliding →
          exec (.pageWrite r e p first vs) s = .next (sendReply u r 2 vs.length eState 0 [])) ∧
        (q.state = .levelling → exec (.pageWrite r e p first vs) s = .next (sendReply u r 2 vs.length eBusy 0 []))) ∧
      (q.state = .clean → Accepts (.pageLevel r e p 1) s r u) ∧
      (q.state = .dirty → Accepts (.pageLevel r e p 1) s r (set u (fun q => { q with state := .levelling }))) ∧
      (q.state ≠ .clean → q.state ≠ .dirty → Refuses (.pageLevel r e p 1) s r eState) ∧
      (q.state = .gliding → q.abort = none →
        (inFuture b ends = true →
          Accepts (.glideAbortFinish r e p) s r (set u (fun q => { q with abort := some (b, false) })) ∧
          Accepts (.glideAbortRevert r e p) s r (set u (fun q => { q with abort := some (b, true) }))) ∧
        (inFuture b ends = false → Refuses (.glideAbortFinish r e p) s r eLate ∧ Refuses (.glideAbortRevert r e p) s r eLate)) ∧
      (q.state ≠ .gliding → Refuses (.glideAbortFinish r e p) s r eState ∧ Refuses (.glideAbortRevert r e p) s r eState)) ∧
    (q.state = .levelling → ∃ t, exec (.levellingComplete e p) s = .next t ∧
      t.engines = (set s (fun q => { (if q.view1 then { q with copy0 := q.copy1 } else { q with copy1 := q.copy0 }) with
        dirty := false, state := .clean })).engines ∧ { t with engines := s.engines, mem := s.mem } = s) ∧
    (q.state = .gliding → q.bindAfter = false →
      (isDue (now s) ends = true →
        exec (.glideComplete e p) s = .next (set s (fun q => { q with state := .levelling, abort := none, bindAfter := false }))) ∧
      (∀ t, q.abort = some (t, false) → isDue (now s) t = true →
        exec (.glideAbortEffect e p) s = .next (set s (fun q => { q with state := .levelling, abort := none, bindAfter := false }))) ∧
      (∀ t, q.abort = some (t, true) → isDue (now s) t = true →
        exec (.glideAbortEffect e p) s = .next (set s (fun q =>
          { q with view1 := !q.view1, state := .dirty, dirty := true, group := 0, abort := none, bindAfter := false }))))

/-- R280 to R282, R302, R308, R71: ADD_PAGE, REMOVE_PAGE, SCOPE, ADD_MEMBER, ARM of a LOCAL group, CANCEL and RELEASE. -/
def Obligations.GroupCommands : Prop :=
  ∀ (s : State) (r : Req) (g : Nat) (k v : Word) (t : MT), 1 ≤ g → g ≤ 255 →
    let x := group s g
    let u := taken s r
    let q := page (eng s (k.toNat / 128)) (k.toNat % 128)
    let isOpen := x.state = .empty ∨ x.state = .opened
    let armed := x.state = .preparing ∨ x.state = .armed ∨ x.state = .locked
    let setP (f : Page → Page) : State := modPage u (k.toNat / 128) (k.toNat % 128) f
    (Served s r (0x1300 + g) operator → k.toNat < 4096 →
      ((q.group.toNat = 0 ∨ q.group.toNat = g) → q.state ≠ .bound → q.state ≠ .gliding → isOpen →
        Accepts (.addPage r g k) s r (setGroup (setP (fun q => { q with group := BitVec.ofNat 8 g })) g
          { x with state := .opened, pages := if x.pages.contains k.toNat then x.pages else x.pages ++ [k.toNat] })) ∧
      ((q.group.toNat ≠ 0 ∧ q.group.toNat ≠ g) ∨ q.state = .bound ∨ q.state = .gliding → Refuses (.addPage r g k) s r eConflict) ∧
      (isOpen → x.pages.contains k.toNat = true →
        Accepts (.removePage r g k) s r (setGroup (setP (fun q => { q with group := 0 })) g
          { x with pages := x.pages.filter (fun j => decide (j ≠ k.toNat)) })) ∧
      (¬ isOpen ∨ x.pages.contains k.toNat = false → Refuses (.removePage r g k) s r eState)) ∧
    (Served s r (0x1300 + g) engineer →
      (isOpen → Accepts (.scope r g 0) s r (setGroup u g { x with grove := false }) ∧
        Accepts (.scope r g 1) s r (setGroup u g { x with grove := true, state := .opened })) ∧
      (¬ isOpen → Refuses (.scope r g 0) s r eState ∧ Refuses (.scope r g 1) s r eState) ∧
      (v.toNat < 4096 → isOpen → x.members.length < 256 → x.members.contains v.toNat = false →
        Accepts (.addMember r g v) s r (setGroup u g { x with state := .opened, members := x.members ++ [v.toNat] })) ∧
      (v.toNat < 4096 → isOpen → x.members.contains v.toNat = true →
        Accepts (.addMember r g v) s r (setGroup u g { x with state := .opened })) ∧
      (v.toNat < 4096 → isOpen → x.members.length = 256 → x.members.contains v.toNat = false →
        Refuses (.addMember r g v) s r eCapacity)) ∧
    (Served s r (0x1300 + g) operator →
      (x.grove = false →
        (armFails u g t = none → Accepts (.arm r g t) s r (armGroup u g t .armed)) ∧
        (∀ c, armFails u g t = some c → Refuses (.arm r g t) s r c)) ∧
      (armed → x.coordinating = false → inTime (now s) (x.target.getD MT.zero) = true →
        Accepts (.cancel r g 1) s r (disarm u g 2)) ∧
      (armed → inTime (now s) (x.target.getD MT.zero) = false → Refuses (.cancel r g 1) s r eLate) ∧
      (¬ armed → Refuses (.cancel r g 1) s r eState) ∧
      (armed → Refuses (.groupRelease r g 1) s r eState) ∧
      (¬ armed → x.grafts = [] → Accepts (.groupRelease r g 1) s r
        (setGroup (x.pages.foldl (fun s k => modPage s (k / 128) (k % 128) (fun q => { q with group := 0 })) u) g
          { lastResult := x.lastResult, lastMt := x.lastMt, failMember := x.failMember, failCode := x.failCode
            prepares := x.prepares, cancelled := x.cancelled })))

/-- R281, R282, R305: what arming leaves: every page of the group ARMED with the N and form taken then, one action per engine at the
target in the schedule table, and the group's target; disarming takes the actions out, counts nothing and reports the result. -/
def Obligations.ArmedGroup : Prop :=
  ∀ (s : State) (g n result : Nat) (t : MT) (st : GroupState), st = .preparing ∨ st = .armed →
    let x := group s g
    let a := armGroup s g t st
    let d := disarm s g result
    (∀ k ∈ x.pages,
      let q := page (eng s (k / 128)) (k % 128)
      let q' := page (eng a (k / 128)) (k % 128)
      q'.state = .armed ∧ q'.glideN = q.glideFrames.toNat ∧ q'.glideLong = decide (q.glideForm = 1) ∧ q'.view1 = q.view1) ∧
    a.clocks.sched = s.clocks.sched ++ (groupEngines x).map (fun n => ⟨t, .commit g n, false⟩) ∧
    (group a g).state = st ∧ (group a g).target = some t ∧ (group a g).pages = x.pages ∧
    { a with engines := s.engines, groups := s.groups, clocks := s.clocks } = s ∧
    (∀ y ∈ d.clocks.sched, y.act ≠ .commit g n) ∧ (∀ y ∈ s.clocks.sched, (∀ m, y.act ≠ .commit g m) → y ∈ d.clocks.sched) ∧
    (group d g).state = .opened ∧ (group d g).target = none ∧ (group d g).lastResult = result ∧
    (group d g).lastMt = x.target.getD MT.zero ∧ (group d g).pages = x.pages ∧
    { d with engines := s.engines, groups := s.groups, clocks := s.clocks, events := s.events } = s

/-- R302 to R305: a coordinator arms its group PREPARING and sends PREPARE; a member arms the group at the cell's arrival and
acknowledges with its code, ignores a second copy, and takes a CANCEL of the same coordinator, target and stamp last (R72); the
coordinator's group is ARMED once every member has acknowledged OK, and cancelled on a failing code or at the deadline. -/
def Obligations.GroveCommit : Prop :=
  ∀ (s : State) (g : Nat) (target : MT), 1 ≤ g → g ≤ 255 → coreUp s = true →
    let x := group s g
    (∀ (r : Req), Served s r (0x1300 + g) engineer → x.grove = true →
      let u := taken s r
      let w := armGroup u g target .preparing
      let me := s.cfg.deviceNumber
      let v := setGroup w g { group w g with coordinating := true, coordinator := some me, deadline := ackBy u x target
                                             acked := if x.members.contains me then [me] else [] }
      (armFails u g target = none → inFuture (ackBy u x target) (now s) = false →
        Accepts (.arm r g target) s r (ackDone (originate v 3 true 0 (groupOctets g target ++ be 4 s.epoch.toNat)) g)) ∧
      (∀ c, armFails u g target = some c → inFuture (ackBy u x target) (now s) = false → Refuses (.arm r g target) s r c) ∧
      (inFuture (ackBy u x target) (now s) = true → Refuses (.arm r g target) s r eLate)) ∧
    (∀ (src : BitVec 12) (m : Word) (ep : Long),
      let u := decoded s 3 src g target
      let came := cellArrival s 3 src g target
      let who := src.toNat
      let heard := setGroup u g { x with prepares := x.prepares ++ [(who, target)] }
      let w := armGroup heard g target .armed
      let armed := setGroup w g { group w g with coordinator := some who }
      (x.prepares.contains (who, target) = true → exec (.prepare src m g target ep) s = .next u) ∧
      (x.grove = true → x.members.contains who = true → who ≠ s.cfg.deviceNumber → x.prepares.contains (who, target) = false →
      let answers (t : State) (c : Word) : Prop :=
        exec (.prepare src m g target ep) s = .next (originate t 4 false who (groupOctets g target ++ be 2 c.toNat))
      (x.state = .opened → s.epoch = ep → armFailsAt came u g target = none →
        answers (if x.cancelled = some (who, target, came) then disarm armed g 3 else armed) eOK) ∧
      (x.state ≠ .opened → answers heard eState) ∧
      (x.state = .opened → s.epoch ≠ ep → answers heard eEpoch) ∧
      (∀ c, x.state = .opened → s.epoch = ep → armFailsAt came u g target = some c → c ≠ eOK → answers heard c))) ∧
    (∀ (src : BitVec 12) (code : Word),
      let u := decoded s 4 src g target
      let who := src.toNat
      let acked := if x.acked.contains who then x.acked else x.acked ++ [who]
      (inFuture x.deadline (cellArrival s 4 src g target) = true → exec (.prepAck src g target code) s = .next u) ∧
      (x.coordinating = true → x.state = .preparing → x.target = some target → x.members.contains who = true →
       inFuture x.deadline (cellArrival s 4 src g target) = false →
      (code = eOK → (∃ d ∈ x.members, acked.contains d = false) → Canon s → ∃ t, exec (.prepAck src g target code) s = .next t ∧
        (group t g) = { x with acked := acked }) ∧
      (code = eOK → (∀ d ∈ x.members, acked.contains d = true) → Canon s → ∃ t, exec (.prepAck src g target code) s = .next t ∧
        (group t g) = { x with acked := acked, state := .armed }) ∧
      (code ≠ eOK → exec (.prepAck src g target code) s = .next (coordinatorCancels u g who code)))) ∧
    (∀ d, x.coordinating = true → x.state = .preparing → isDue (now s) x.deadline = true →
      x.members.find? (fun d => !x.acked.contains d) = some d →
      exec (.ackDeadline g) s =
        .next (coordinatorCancels { s with fresh := s.fresh + 1 } g d (missedCode s.fresh)))

/-- R289, R292, R298, R301: GRAFT.REQUEST arms a READY image, alone at its target or bound to an OPEN group, cancels it, and aborts
a running fade; the abort and the fade's end take effect at their boundaries. -/
def Obligations.GraftCommands : Prop :=
  ∀ (s : State) (r : Req) (engine curve grp : Byte) (fade : Word) (target : MT) (e : Fin 32),
    let n := engine.toNat
    let f := fade.toNat
    let g := eng s n
    let u := taken s r
    let lone := grp = 0
    let bound := if g.state = .idle then u else (replacedPages g.standby).foldl (fun s x => bindOn s n x.1 x.2) u
    let v := modEng bound n (fun e => { e with standbyState := 3, graft := some ⟨curve.toNat, grp.toNat, f, target, false⟩ })
    (Served s r 0x1300 engineer →
      (n < 32 → curve.toNat ≤ 1 → graftState s n f = true → (0 < f → g.active.cost + g.standby.cost ≤ usable (engClass s n)) →
        (lone → engBoundary s n target = true → inTime (now s) target = true → graftClash s n f (some target) = false →
          schedTaken s target (.graft n) = false → schedRoom s 1 = true →
          Accepts (.graftArm r engine curve grp fade target) s r (schedAdd v target [.graft n])) ∧
        (¬ lone → target = MT.zero → (group s grp.toNat).state = .opened → graftClash s n f none = false →
          Accepts (.graftArm r engine curve grp fade target) s r
            (setGroup v grp.toNat { group v grp.toNat with grafts := (group v grp.toNat).grafts ++ [n] }))) ∧
      (n < 32 → ∀ a, g.graft = some a → a.group = 0 →
        (inTime (now s) a.target = true → Accepts (.graftCancel r engine 0 grp fade MT.zero) s r
          (cancelGraft (schedDrop u (fun x => decide (x.act = .graft n))) n)) ∧
        (inTime (now s) a.target = false → Refuses (.graftCancel r engine 0 grp fade MT.zero) s r eLate)) ∧
      (n < 32 → g.graft = none → Refuses (.graftCancel r engine 0 grp fade MT.zero) s r eState) ∧
      (n < 32 → ∀ fd, g.fade = some fd → fd.abort = none →
        let b := boundaryFrom (engClass s n) (mtPlus (now s) (4 * 65536))
        let ab (rev : Bool) : State := modEng u n (fun e => { e with fade := some { fd with abort := some (b, rev) } })
        (inFuture b (fadeEnd s n fd) = true →
          Accepts (.abortFinish r engine 0 grp fade MT.zero) s r (ab false) ∧
          Accepts (.abortRevert r engine 0 grp fade MT.zero) s r (ab true)) ∧
        (inFuture b (fadeEnd s n fd) = false →
          Refuses (.abortFinish r engine 0 grp fade MT.zero) s r eLate ∧
          Refuses (.abortRevert r engine 0 grp fade MT.zero) s r eLate)) ∧
      (n < 32 → g.fade = none → Refuses (.abortFinish r engine 0 grp fade MT.zero) s r eState ∧
        Refuses (.abortRevert r engine 0 grp fade MT.zero) s r eState)) ∧
    (∀ fd, (eng s e).fade = some fd →
      (isDue (now s) (fadeEnd s e fd) = true → exec (.fadeComplete e) s = .next (endFade s e 1)) ∧
      (∀ b rev, fd.abort = some (b, rev) → isDue (now s) b = true →
        exec (.graftAbortEffect e) s = .next (endFade s e (if rev then 4 else 3)))) ∧
    (∀ fd result, (eng s e).fade = some fd → Canon s →
      let t := endFade s e result
      let k := eng s e
      let keeps := result = 1 ∨ result = 3
      (eng t e).fade = none ∧ (eng t e).graftResult = result ∧ (eng t e).newRun = false ∧
      (eng t e).ctx = (if keeps = k.newRun then k.ctx else k.alt) ∧
      (keeps → (eng t e).active = k.active ∧ (eng t e).standby = k.standby ∧ (eng t e).actBank = k.actBank) ∧
      (¬ keeps → (eng t e).active = k.standby ∧ (eng t e).standby = k.active ∧ (eng t e).actBank = !k.actBank) ∧
      { t with engines := s.engines } = s)

/-! ## Sequencing -/

/-- R17, R54, R56, R57, R139, R170, R171, R253: what a frame leaves, and what the boundary after it does. A frame that ended without a
fault hands its outputs to the boundary and clears EFAULT.RUN; a faulted one repeats the outputs published before; with POLICY 1 or
the fourth in a row the engine is QUARANTINED. The next frame is prepared with the counter advanced, the heads advanced and the
program at ENTRY; at the boundary both buffer pairs swap, the outputs are published and cycle 0 issues; registers are kept. -/
def Obligations.FrameSequence : Prop :=
  ∀ (s : State) (e : Fin 32),
    let n := e.val
    let g := eng s n
    let quiet := g.state = .run ∧ g.fade = none ∧ g.breakReq = false ∧ g.breakHit = false ∧ g.injFaults = []
    s.clocks.gateOpen = true → s.clocks.restart = false → quiet →
    (∀ x ∈ s.clocks.sched, (touched s x.act).contains n = false) →
    (g.prepared = false → g.stage = .ended → g.ctx.inflight = [] → engClass s n ≤ 3 → ∃ t, exec (.frameEnd e) s = .next t ∧
      (let k := eng t n
       k.stage = .none ∧ k.stAtEnd = st g.ctx ∧ k.pflt = g.faulted ∧
       (g.faulted = false → k.state = .run ∧ k.nextPub = some g.ctx.outCur ∧ k.faultRun = 0) ∧
       (g.faulted = true → engPolicy s n = 0 → g.faultRun < 4 → k.state = .run ∧ k.nextPub = some g.pub ∧ k.faultRun = g.faultRun) ∧
       (g.faulted = true → engPolicy s n = 1 ∨ 4 ≤ g.faultRun →
         k.state = .quarantined ∧ k.prepared = false ∧ k.quarCount = (satInc g.quarCount).1) ∧
       (k.state = .run → k.prepared = true ∧ k.frameCtr = g.frameCtr + 1 ∧ k.mtFrame = nextBoundary (engClass s n) (now s) ∧
         k.ctx.pc = g.active.entry ∧ k.ctx.cycle = 0 ∧ k.ctx.regs = g.ctx.regs ∧ k.ctx.acs = g.ctx.acs ∧ k.ctx.guards = g.ctx.guards ∧
         k.ctx.descs = advanceHeads g.ctx.descs))) ∧
    (g.prepared = true → g.stage = .none → isBoundary (engClass s n) (now s) = true → g.boundaryAt ≠ some (now s) →
      ∃ t, exec (.frameBoundary e) s = .next t ∧ { t with engines := s.engines } = s ∧ (∀ k, k ≠ n → eng t k = eng s k) ∧
      (let k := eng t n
       k.stage = .program ∧ k.prepared = false ∧ k.boundaryAt = some (now s) ∧ k.inCur = g.inAlt ∧
       k.ctx.outCur = g.ctx.outAlt ∧ k.ctx.outAlt = g.ctx.outCur ∧ k.pub = g.nextPub.getD g.pub ∧ k.nextPub = none ∧
       k.ctx.pc = g.active.entry ∧ k.ctx.cycle = 0 ∧ k.frameCtr = g.frameCtr ∧ k.mtFrame = now s ∧ k.ctx.regs = g.ctx.regs ∧
       k.localRam = g.localRam))

/-- R56, R75, R166, R167, R310, R495: a result in flight on an engine that issues no more lands, or is discarded at cycle U; entries
a base period away are LOCKED with their groups; an enabled host service request saves the pc in IRA and goes to 0x0010; a break
halts a Sapling engine and puts a frame engine in DEBUG after its frame. -/
def Obligations.LocksAndInterrupts : Prop :=
  ∀ (s : State) (e : Fin 32),
    let n := e.val
    let g := eng s n
    (g.stage = .program ∨ g.ctx.inflight = [] → exec (.resultLand e) s = .next s) ∧
    (∀ c, g.stage ≠ .program → (∃ f ∈ g.ctx.inflight, f.due = c) → (∀ f ∈ g.ctx.inflight, c ≤ f.due) →
      (freeRun g = true ∨ c < usable (engClass s n) → exec (.resultLand e) s = .next (landUpTo s n c)) ∧
      (freeRun g = false → usable (engClass s n) ≤ c → exec (.resultLand e) s =
        .next (modEng s n (fun g => { g with ctx := { g.ctx with inflight := [] } })))) ∧
    (∃ t, exec .scheduleLock s = .next t ∧
      t.clocks.sched = s.clocks.sched.map (fun x =>
        if isDue (mtPlus (now s) 65536) x.target then { x with locked := true } else x) ∧
      { t with clocks := s.clocks, groups := s.groups, engines := s.engines } = s ∧
      (∀ x ∈ s.clocks.sched, ∀ k m, x.act = .commit k m → isDue (mtPlus (now s) 65536) x.target = true →
        (group s k).state = .armed → (group t k).state = .locked)) ∧
    (mayInterrupt s n = true → g.hsrWait = true → g.ctx.emode.getLsbD 3 = true →
      exec (.hostServiceInterrupt e) s = .next (modEng (landAll s n) n (fun g =>
        { g with ira := BitVec.ofNat 16 g.ctx.pc, inh := true, hsrWait := false
                 ctx := { g.ctx with pc := 0x0010, cycle := g.ctx.cycle + 2 } }))) ∧
    (mayInterrupt s n = false ∨ g.hsrWait = false ∨ g.ctx.emode.getLsbD 3 = false → exec (.hostServiceInterrupt e) s = .next s) ∧
    (mayInterrupt s n = true → g.breakReq = true ∨ g.breakAddr = some g.ctx.pc → ∃ t, exec (.debugBreakTaken e) s = .next t ∧
      (eng t n).state = .halted ∧ (eng t n).haltByDebug = true ∧ (eng t n).haltPc = BitVec.ofNat 16 g.ctx.pc ∧
      (eng t n).breakReq = false ∧ (eng t n).running = false) ∧
    (g.state = .run → g.stage = .none → g.fade = none → g.breakReq = true ∨ g.breakHit = true →
      exec (.debugBreakTaken e) s = .next (modEng s n (fun g => { g with state := .debug, breakReq := false, breakHit := false })))

/-- R45, R65, R66, R79, R82, R98, R133, R377: a base-period boundary. While time does not run it does nothing. Else the count goes on by one and
the clock settings and staged changes take effect; MCPLL's word moves by at most 10 ppm per ms; pending actions that are due take effect
while ECLK runs and wait in a gap: a route begins, a route ends, a base-rate change rescales the count; port B's accesses are carried out
(by the boundary at the latest: the model's choice, notes/assumptions/138). What waits keeps its place, but for the streams that a new Root
releases, which a device alone does not have. -/
def Obligations.BasePeriod : Prop :=
  ∀ (s : State),
    let cmd : Instr := .basePeriodBoundary
    let c := s.clocks
    let t0 : MT := ⟨c.mt.count + 1, 0⟩
    let hops := c.gateOpen = true ∧ ∃ x ∈ c.sched, isDue t0 x.target = true ∧ ∃ k, x.act = .baseRate k
    let waits := c.gateOpen = false ∨ ∀ x ∈ c.sched, isDue t0 x.target = false
    (timeRuns s = false → exec cmd s = .next s) ∧
    (timeRuns s = true → ∃ t, exec cmd s = .next t ∧
      (¬ hops → t.clocks.mt = t0 ∧ t.clocks.rate = c.rate ∧ t.clocks.clkoutApplied = s.cfg.clocks ∧ t.cfg = s.cfg ∧
        (t.clocks.ntoPpb - c.ntoPpb).natAbs ≤ 10000000 / rateHz c.rate) ∧
      (waits → t.routes = s.routes) ∧
      (waits → alone s = true → t.clocks.sched = c.sched ∧ t.clocks.staged = c.staged.filter (fun x => !isDue t0 x.target)) ∧
      (Canon s → ∀ b < 32, (cross t b).waitCc = [] ∧ (cross t b).waitLink = [])) ∧
    (timeRuns s = true → c.gateOpen = true → ∀ k l, c.sched = [⟨t0, .routeAdd k, l⟩] → ∃ t, exec cmd s = .next t ∧
      route t k = { route s k with state := .active, target := none, since := t0 } ∧ (∀ j, j ≠ k → route t j = route s j) ∧
      (alone s = true → t.clocks.sched = [])) ∧
    (timeRuns s = true → c.gateOpen = true → ∀ k l, c.sched = [⟨t0, .routeRemove k, l⟩] → ∃ t, exec cmd s = .next t ∧
      (Canon s → route t k = { result := (route s k).result }) ∧ (∀ j, j ≠ k → route t j = route s j) ∧
      (alone s = true → t.clocks.sched = [])) ∧
    (timeRuns s = true → c.gateOpen = true → ∀ k l, c.sched = [⟨t0, .baseRate k, l⟩] → ∃ t, exec cmd s = .next t ∧
      t.clocks.rate = k ∧ t.clocks.mt = mtOf (t0.count.toNat * rateHz k / rateHz c.rate * 65536))

/-- R29, R32, R60, R61: at the window of the consumer's boundary, or for a sub-rate consumer in the base period before it, the router
delivers the published outputs of an engine to the engine its route feeds, in no other window, and not before the route carries them;
while ECLK is gated it moves nothing; it changes no route, no setting, no time and no pending action. -/
def Obligations.RouterMoves : Prop :=
  ∀ (s : State) (win : Fin 8),
    (∃ t, exec (.routerWindow win) s = .next t ∧
      { t with engines := s.engines, ports := s.ports, bridges := s.bridges, links := s.links, streams := s.streams, mem := s.mem
               events := s.events, clocks := s.clocks } = s ∧
      t.clocks.mt = s.clocks.mt ∧ t.clocks.sched = s.clocks.sched ∧ t.clocks.staged = s.clocks.staged ∧
      ((∀ i < 8, refType s i ≠ 6) → t.clocks = s.clocks) ∧
      (s.clocks.gateOpen = false → { t with ports := s.ports, events := s.events, clocks := s.clocks } = s)) ∧
    (∀ k r, Canon s → s.clocks.gateOpen = true → s.power.dev = .run → s.ports = [] → s.bridges = [] → s.streams = [] → s.tails = [] →
      s.routes = [(k, r)] → routeLive r = true → epKind r.source = 1 → epKind r.dest = 1 →
      let t : MT := ⟨(now s).count, BitVec.ofNat 16 (win.val * 8192)⟩
      let d := engClass s (epUnit r.dest)
      let f := nextBoundary d t
      let due : Prop := if 4 ≤ d then mtPlus t 65536 = f else isBoundary d t = true
      let carried : Prop := mirrored s r = false ∧ notBefore r.since (inputKey s r d f) = true
      (due → carried → exec (.routerWindow win) s = .next ((List.range r.channels).foldl (fun u i =>
        putIn u (epUnit r.dest) (epFirst r.dest + i) (outSample s (epUnit r.source) (epFirst r.source + i))) s)) ∧
      (¬ due ∨ ¬ carried → exec (.routerWindow win) s = .next s))

/-- R81, R84, R88: BASE_RATE.TARGET arms the hop to NEXT at a whole second in time, 0 takes an armed hop back, any other value is out of
range, and a device that follows a Root answers STATE. (That 0 with nothing armed is answered OK is the model's choice,
notes/assumptions/125.) -/
def Obligations.BaseRateRequests : Prop :=
  ∀ (s : State) (r : Req) (t : MT), Served s r 0x0201 custodian →
    let c := s.clocks
    let u := taken s r
    let alone' := joinedGrove s = false ∨ s.grove.role = .root
    let whole := t = MT.zero ∨ (t.phase = 0 ∧ t.count.toNat % rateHz c.rate = 0)
    (¬ whole → Refuses (.baseRateArm r t) s r eRange) ∧
    (whole → ¬ alone' → Refuses (.baseRateArm r t) s r eState) ∧
    (alone' → t ≠ MT.zero → dormant s = false → t.phase = 0 → t.count.toNat % rateHz c.rate = 0 → inTime (now s) t = true →
      s.engines.any (fun kv => imageBars c.next kv.2.active || imageBars c.next kv.2.standby) = false →
      schedTaken s t (.baseRate c.next) = false → schedRoom s 1 = true →
      Accepts (.baseRateArm r t) s r
        { u with clocks := { c with sched := c.sched ++ [⟨t, .baseRate c.next, false⟩], rateTarget := some t } }) ∧
    (alone' → t ≠ MT.zero → dormant s = false → t.phase = 0 → t.count.toNat % rateHz c.rate = 0 → inTime (now s) t = false →
      Refuses (.baseRateArm r t) s r eLate) ∧
    (alone' → c.rateTarget = none → Accepts (.baseRateArm r MT.zero) s r u) ∧
    (alone' → ∀ x, c.rateTarget = some x → inTime (now s) x = false → Refuses (.baseRateArm r MT.zero) s r eLate) ∧
    (alone' → ∀ x, c.rateTarget = some x → inTime (now s) x = true → ∃ v, Accepts (.baseRateArm r MT.zero) s r v ∧
      v.clocks.rateTarget = lastRateTarget v.clocks.sched ∧ (∀ y ∈ v.clocks.sched, ∀ k, y.act = .baseRate k → y.target ≠ x) ∧
      { v with clocks := c } = { u with clocks := c })

/-! ## Clocks -/

/-- R47, R96, R97, R99, R102, R104 to R109, R113 to R115, R131: edges, stops and qualification of the reference entries, the choice of the
entry that steers MCPLL, what an edge of it steers, MCPLL's lock and its loss, and time-of-day messages. -/
def Obligations.ReferenceCommands : Prop :=
  ∀ (s : State) (i : Fin 8) (posDev freqDev : Int) (x : EdgePos),
    let m := refMon s i
    let glitch := 50000000 < posDev.natAbs
    let far := freqDev < -pullBelow s ∨ pullAbove s < freqDev
    let counted := refType s i ≠ 0 ∧ refType s i ≠ 6 ∧ (refType s i = 5 → groveFed s i = true) ∧ (x.line = true → refType s i = 2 ∧ s.cfg.clocks.vidLines ≠ 0)
    let counts (t : State) (code : Nat) : Prop := tget 0 t.events.det code = satInc31 (tget 0 s.events.det code)
    (¬ counted → exec (.refEdge i posDev freqDev x) s = .next s) ∧
    (counted → m.state = .qualified →
      let l := nearGlitches s i (if glitch then now s :: m.glitches else m.glitches)
      let run := if glitch ∨ x.line = true then m.rateRun else if far then m.rateRun + 1 else 0
      ∃ t, exec (.refEdge i posDev freqDev x) s = .next t ∧
        (4 ≤ l.length → (refMon t i).state = .disqGlitch ∧ counts t 0x1002) ∧
        (l.length < 4 → 8 ≤ run → (refMon t i).state = .disqRate ∧ counts t 0x1003) ∧
        (l.length < 4 → run < 8 → (refMon t i).state = .qualified ∧ (refMon t i).glitches = l ∧ (refMon t i).rateRun = run ∧
          t.events = s.events ∧
          (s.clocks.active = some i.val → ¬ glitch → x.line = false →
            t.clocks.refPpb = (if far then s.clocks.refPpb else freqDev) ∧ t.clocks.phasePs = (refMon t i).phasePs ∧
            t.clocks.acqEdges = (if phaseNear t t.clocks.phasePs then s.clocks.acqEdges + 1 else 0)))) ∧
    (counted → m.state ≠ .qualified → ∃ t, exec (.refEdge i posDev freqDev x) s = .next t ∧
      (x.line = false → ¬ glitch → ¬ far → (refMon t i).state = .qualifying ∧
        (refMon t i).conforming = (if m.state = .qualifying ∧ m.conforming ≠ 0 then m.conforming + 1 else 1)) ∧
      (glitch ∨ (x.line = false ∧ far) → m.state = .qualifying → (refMon t i).state = .qualifying ∧ (refMon t i).conforming = 0)) ∧
    (refType s i ≠ 0 → refType s i ≠ 6 → m.state ≠ .stopped → ∃ t, exec (.refStopped i) s = .next t ∧
      (refMon t i).state = .stopped ∧ counts t 0x1001 ∧ t.clocks.active = refChoice (setRefMon s i { state := .stopped })) ∧
    (mayQualify s i = true → msUnits s s.cfg.clocks.requalMs.toNat ≤ mtDiff m.since (now s) ∧
      (refType s i ≠ 6 → 4 ≤ m.conforming) ∧ (refType s i = 3 → 2 ≤ s.clocks.todRun)) ∧
    (mayQualify s i = true → ∃ t, exec (.refQualified i) s = .next t ∧ (refMon t i).state = .qualified ∧
      t.clocks.active = refChoice (setRefMon s i { state := .qualified })) ∧
    (mayQualify s i = false → exec (.refQualified i) s = .next s) ∧
    (let held : Prop := s.clocks.mcpll = .acquire ∧ aSecond s s.clocks.nearSince = true ∧
        (2 ≤ s.clocks.acqEdges ∨ (∃ j, s.clocks.active = some j ∧ refType s j = 6))
     (held → exec .mcpllLocked s = .next { s with clocks := { s.clocks with mcpll := .locked, offSince := none } }) ∧
     (¬ held → exec .mcpllLocked s = .next s)) ∧
    (∀ ppb : Long,
      (∀ j, s.clocks.mcpll = .locked → s.clocks.active = some j → 60000 < ppb.toInt.natAbs → aSecond s s.clocks.offSince = true →
        exec (.mcpllUnlock ppb) s = .next (detect (acquire s j) 0x1006 devUnit ppb) ∧ (acquire s j).clocks.mcpll = .acquire) ∧
      (s.clocks.mcpll ≠ .locked ∨ ppb.toInt.natAbs ≤ 60000 ∨ aSecond s s.clocks.offSince = false →
        exec (.mcpllUnlock ppb) s = .next s)) ∧
    (∀ (line : List Byte) (a b : Nat),
      (todParse line = none ∨ a < 100 ∨ b < 100 → ∃ t, exec (.todMessage line a b) s = .next t ∧
        t.clocks = { s.clocks with
          todErr := (satInc s.clocks.todErr).1, todErrOvf := s.clocks.todErrOvf || (satInc s.clocks.todErr).2, todRun := 0 } ∧
        counts t 0x100E) ∧
      (∀ tai utc, todParse line = some (tai, utc) → 100 ≤ a → 100 ≤ b → (s.clocks.taiValid = true → taiAhead s b = tai) →
        ∃ t, exec (.todMessage line a b) s = .next t ∧ t.clocks.todLast = some (BitVec.ofNat 64 tai) ∧ t.clocks.todFresh = true ∧
          t.clocks.taiUtc = BitVec.ofInt 16 utc ∧ { t with clocks := s.clocks } = s ∧
          t.clocks.todRun = (if s.clocks.todLast.map (· + 1) = some (BitVec.ofNat 64 tai) then s.clocks.todRun + 1 else 1)))

/-- R77, R78, R116 to R122: a loss or a trip closes the gate and reacquires; a fallback searches; a lock is verified, and only a
verified clock opens the gate, with a restart to come, before which no frame runs; bands and the ceiling are stored, and the tuning word
never lies above the ceiling; RESEARCH stores all three bands. -/
def Obligations.EcpllCommands : Prop :=
  ∀ (s : State) (absolute : Bool) (word band temp : Word) (ceil : Long),
    let c := s.clocks
    let counts (t : State) (code : Nat) : Prop := tget 0 t.events.det code = satInc31 (tget 0 s.events.det code)
    let runs := c.ecpll = .locked ∨ c.ecpll = .verify
    let gap (t : State) : Prop := t.clocks.ecpll = .acquire ∧ t.clocks.gateOpen = false ∧
      (c.gateOpen = true → t.clocks.gapStart = some c.mt ∧ t.clocks.gapCount = (satInc c.gapCount).1 ∧
        ∀ n, freeRun (eng s n) = false → (eng t n).stage = .none)
    (runs → Canon s →
      (∃ t, exec .ecpllLoss s = .next t ∧ gap t ∧ counts t 0x1007) ∧
      (∃ t, exec (.eclkTrip absolute) s = .next t ∧ gap t ∧ counts t 0x1008 ∧ t.clocks.tripCount = (satInc c.tripCount).1)) ∧
    (¬ runs → exec .ecpllLoss s = .next s ∧ exec (.eclkTrip absolute) s = .next s) ∧
    (c.ecpll = .acquire →
      exec .ecpllFallback s =
        .next (detect { s with clocks := { c with ecpll := .search } } 0x1009 devUnit (BitVec.ofNat 32 c.rate)) ∧
      exec .ecpllLock s = .next { s with
        fresh := s.fresh + 1, clocks := { c with ecpll := .verify, ecWord := underCeiling c.ceiling (Config.freeLong s.fresh) } }) ∧
    (c.ecpll = .search → exec .ecpllLock s = .next { s with
      fresh := s.fresh + 2
      clocks := { c with ecpll := .verify, bands := tset 0xFFFF c.bands c.rate (Config.freeWord s.fresh)
                         bandTemps := tset 0 c.bandTemps c.rate s.power.tjC, ceiling := Config.freeLong (s.fresh + 1)
                         ecWord := underCeiling (Config.freeLong (s.fresh + 1)) (Config.freeLong s.fresh) } }) ∧
    (c.ecpll = .verify → c.gateOpen = false → s.power.dev ≠ .booting → s.power.dev ≠ .dormant → ∃ t, exec .eclkRestored s = .next t ∧
      t.clocks.ecpll = .locked ∧ t.clocks.gateOpen = true ∧ t.clocks.restart = true ∧ t.clocks.hopping = false ∧
      t.clocks.mt = c.mt ∧ t.clocks.sched = c.sched ∧
      { t with clocks := c, ports := s.ports, bridges := s.bridges, events := s.events } = s ∧
      (s.ports = [] → s.bridges = [] → t =
        { s with clocks := { c with ecpll := .locked, gateOpen := true, restart := true, hopping := false } })) ∧
    (c.gateOpen = true → c.restart = true → ∀ e : Fin 32, exec (.frameBoundary e) s = .next s ∧ exec (.frameEnd e) s = .next s) ∧
    (c.ecpll ≠ .verify → exec .eclkRestored s = .next s) ∧
    exec (.ecpllCeilingRecal ceil) s = .next { s with clocks := { c with ceiling := ceil, ecWord := underCeiling ceil c.ecWord } } ∧
    (∀ w : Long, (underCeiling ceil w).toNat ≤ ceil.toNat) ∧
    (c.ecpll = .locked → exec (.ecpllBandStore band temp) s = .next { s with
      clocks := { c with bands := tset 0xFFFF c.bands c.rate band, bandTemps := tset 0 c.bandTemps c.rate temp } }) ∧
    (∀ r : Req, Served s r 0x0230 engineer →
      (s.power.dev ≠ .sapling → Refuses (.research r word band word temp) s r eState) ∧
      (s.power.dev = .sapling → ∃ t, Accepts (.research r word band word temp) s r t ∧ t.clocks.gateOpen = false ∧
        t.clocks.ecpll = (if s.cfg.clocks.ecpllMode = 1 then .search else .acquire) ∧
        t.clocks.bands = tset 0xFFFF (tset 0xFFFF (tset 0xFFFF c.bands 0 word) 1 band) 2 word))

/-- R92, R95, R123, R126 to R128, R504: SYNC_IN restarts every enabled divider four MCLK cycles later, once or always; an endpoint
starved for 64 base periods of a gap begins its fade; a lost crystal is FAULT cause 1 and takes the links down; SCPLL's loss begins a
restart, its relock ends it in time or FAULT cause 2 follows; LKPLL's loss takes the links down. -/
def Obligations.ClockLosses : Prop :=
  ∀ (s : State) (mclk : Nat),
    let c := s.clocks
    let k := c.clkoutApplied
    (k.syncMode = 0 → exec (.syncIn mclk) s = .next s) ∧
    (1 ≤ k.syncMode → s.power.dev ≠ .booting → c.hopping = false → ∃ t, exec (.syncIn mclk) s = .next t ∧
      (k.wckMode ≠ 0 → t.clocks.wckPhase = (mclk + 4) % (512 / wckMul k.wckMode)) ∧
      (k.wckMode = 0 → t.clocks.wckPhase = c.wckPhase) ∧
      (∀ j < 4, tget 0 k.mclkOut j ≠ 0 → Tbl.wf 0 c.outPhase = true →
        tget 0 t.clocks.outPhase j = (mclk + 4) % 2 ^ (tget 0 k.mclkOut j - 1)) ∧
      (k.syncMode = 1 → t.cfg.clocks.syncMode = 0 ∧ t.clocks.clkoutApplied.syncMode = 0) ∧
      (k.syncMode = 2 → t.cfg = s.cfg ∧ t.clocks.clkoutApplied = k)) ∧
    (∀ ep : Endpoint,
      (c.gateOpen = true → exec (.eclkGapSubstitute ep) s = .next s) ∧
      (c.gateOpen = false →
        let n := ep.unit.toNat
        let j := ep.first.toNat
        let begins : Option Fader := some ⟨false, 64, 0, 1, 1⟩
        (ep.kind = 4 →
          let d := (bridge s n).egress
          let e := tget {} d.ends j
          e.starve = none → 64 ≤ e.starved → exec (.eclkGapSubstitute ep) s =
            .next (setBridge s n { bridge s n with egress := { d with ends := tset {} d.ends j { e with starve := begins } } })) ∧
        (ep.kind = 5 →
          let e := tget {} (link s n).txEnds j
          e.starve = none → 64 ≤ e.starved → exec (.eclkGapSubstitute ep) s =
            .next (setLink s n { link s n with txEnds := tset {} (link s n).txEnds j { e with starve := begins } })) ∧
        (ep.kind = 2 ∨ ep.kind = 3 →
          let p := if ep.kind = 2 then n else 16 + n
          let e := chan (port s p) true j
          (e.starve = none → 64 ≤ e.starved → exec (.eclkGapSubstitute ep) s =
            .next (setPort s p (setChan (port s p) true j { e with starve := begins }))) ∧
          (Canon s → Tbl.wf {} (port s p).chOut = true → e.starved < 64 → ∃ t, exec (.eclkGapSubstitute ep) s = .next t ∧
            (chan (port t p) true j).starve = e.starve)))) ∧
    (c.xoLost = false → running s = true → Canon s → ∃ t, exec .xoLost s = .next t ∧ t.power.dev = .fault ∧ t.power.faultCause = 1 ∧
      t.power.faultMt = now s ∧ t.clocks.xoLost = true ∧ t.clocks.scpllLock = false ∧ t.clocks.lkpllLock = false ∧
      (∀ l < 4, linkUp t l = false)) ∧
    (c.scpllLock = true → Canon s → ∃ t, exec .scpllUnlock s = .next t ∧ t.clocks.scpllLock = false ∧ t.power.ccDown = some 3 ∧
      t.mgmt.qEth = [] ∧ t.mgmt.qHq = [] ∧ t.mgmt.qGrove = [] ∧ (∀ j < 16, (session t j).transfer = none)) ∧
    (c.scpllLock = false → s.power.ccDown = some 3 →
      (passed s s.power.ccAt 100 = true → running s = true → ∃ t, exec .scpllRelockTimeout s = .next t ∧
        t.power.dev = .fault ∧ t.power.faultCause = 2) ∧
      (passed s s.power.ccAt 100 = false → exec .scpllRelockTimeout s = .next s)) ∧
    (c.xoLost = false →
      exec .scpllRelock s = .next { s with clocks := { c with scpllLock := true } } ∧
      exec .lkpllRelock s = .next { s with clocks := { c with lkpllLock := true } }) ∧
    (c.lkpllLock = true → ∃ t, exec .lkpllUnlock s = .next t ∧ t.clocks.lkpllLock = false ∧ ∀ l < 4, linkUp t l = false)

/-! ## Ports and rate bridges -/

/-- R316, R318 to R322, R325, R326, R333, R335, R343: an inbound frame counts towards qualification, or takes the stamp nearest to its edge
plus D_in, or is late, an overrun or inconsistent; an outbound frame carries the samples of the stamp nearest to its edge minus D_out, or
is muted, or is an overrun; AES3 receivers lose their lock after two frames without preambles, subframes sent have even parity, blocks
replace the capture as a whole unless their CRCC fails, and the octets written go out whole at a Z preamble. -/
def Obligations.PortFrames : Prop :=
  ∀ (s : State) (port : Fin 24) (f : InFrame) (edge : MT), Canon s →
    let p := port.val
    let q := Machine.port s p
    let c := portCfg s p
    let arrives : Outc := exec (.portInboundFrame port f) s
    let sends : Outc := exec (.portOutboundFrame port edge) s
    let good := consistentFrame s p f
    let counts (t : State) (code : Nat) : Prop := tget 0 t.events.det code = satInc31 (tget 0 s.events.det code)
    let n := portChans s p
    let clean := p < 16 ∨ (f.preambles = true ∧ ∀ b ∈ f.parity ++ f.coding, b = false)
    let seen : Port := if p < 16 then q else { q with
      aesRun := aesRunNext s q f, aesMiss := 0, aesPeriod := f.period
      aesBlock := if q.aesLocked then min 192 (q.aesBlock + 1) else 0 }
    (portsReceive s = false ∨ (p < 16 ∧ c.enable = false) → arrives = .next s) ∧
    (portsReceive s = true → c.enable = true → clean → q.state = .acquire ∨ q.state = .clockLost ∨ q.state = .alignFault →
      masterPort s p = false →
      (c.rate ≠ 4 → timesSides s p = false → arrives = .next (setPort s p { seen with
        lastEdge := some f.edge, consistent := if good then min 1000 (q.consistent + 1) else 0 })) ∧
      (∃ t, arrives = .next t ∧ (Machine.port t p).consistent = if good then min 1000 (q.consistent + 1) else 0)) ∧
    (portsReceive s = true → c.enable = true → clean → q.state = .run →
      let w := ((!good) :: q.window).take 64
      let m := nearestStamp s p (mtNat f.edge + q.dIn)
      let x := mtOf m
      let u : Port := { seen with
        lastEdge := some f.edge, window := w, fill := BitVec.ofNat 16 (fillOf s p (mtNat f.edge) m), measIn := m - mtNat f.edge
        holdNext := none }
      let inTime' := completesBy s p (mtNat f.edge) m = true ∧ ∀ a, q.lastStamp = some a → inFuture a x = true
      let room := q.inFifo.length < 8 ∧ ∀ y ∈ q.inFifo, y.stamp ≠ x
      (good = true → hasIn s p = true → c.rate ≠ 4 →
        (inTime' → room → ∃ t, arrives = .next t ∧ (Machine.port t p).inFifo = q.inFifo ++ [frameEntry s p f x] ∧
          (timesSides s p = false → t = setPort s p { u with inFifo := q.inFifo ++ [frameEntry s p f x] })) ∧
        (¬ inTime' → ∃ t, arrives = .next t ∧ (Machine.port t p).inFifo = q.inFifo ∧ (timesSides s p = false → t = setPort s p u)) ∧
        (inTime' → ¬ room → ∃ t, arrives = .next t ∧ counts t 0x4005 ∧ (Machine.port t p).inFifo = q.inFifo)) ∧
      (good = true → c.rate = 4 → ∃ t, arrives = .next t ∧ (Machine.port t p).window = w ∧ (Machine.port t p).state = .run) ∧
      (good = false → 8 < (w.filter id).length → ∃ t, arrives = .next t ∧ (Machine.port t p).state = .clockLost ∧ counts t 0x4001) ∧
      (good = false → (w.filter id).length ≤ 8 → ∃ t, arrives = .next t ∧
        (Machine.port t p).state = .run ∧ (Machine.port t p).inFifo = q.inFifo ∧ (Machine.port t p).window = w ∧ counts t 0x4006)) ∧
    (portsReceive s = true → 16 ≤ p → f.preambles = false → 1 ≤ q.aesMiss → ∃ t, arrives = .next t ∧ (Machine.port t p).aesLocked = false ∧
      (q.state = .run → aesReceives s p = true → (Machine.port t p).state = .clockLost ∧ counts t 0x4001)) ∧
    (portsReceive s = true → 16 ≤ p → f.preambles = true → q.aesLocked = true → hasIn s p = true → f.coding = [] →
      f.parity = [true, false] ∨ f.parity = [false, true] → ∃ t, arrives = .next t ∧ counts t 0x4008) ∧
    (s.power.dev = .booting ∨ s.power.dev = .dormant ∨ c.directions < 2 ∨
        (16 ≤ p ∧ c.txClock ≠ 0 ∧ (Machine.port s (15 + c.txClock)).aesLocked = false) →
      sends = .next (setPort s p { q with wire := [], wireV := [], wireSub := [], txFrame := 0 })) ∧
    (wireLow s p = false → s.power.dev = .sapling ∨ s.power.dev = .fault → ∃ t, sends = .next t ∧ { t with ports := s.ports } = s ∧
      (Machine.port t p).wire = List.replicate n (some 0) ∧ (Machine.port t p).wireV = List.replicate n true) ∧
    (wireLow s p = false → s.power.dev = .quiet ∨ s.power.dev = .run → c.rate ≠ 4 → q.state ≠ .run → ∃ t, sends = .next t ∧
      { t with ports := s.ports } = s ∧
      (Machine.port t p).wire = List.replicate n (outSlot s p none) ∧ (Machine.port t p).wireV = List.replicate n true) ∧
    (wireLow s p = false → s.power.dev = .quiet ∨ s.power.dev = .run → q.state = .run → c.rate ≠ 4 →
      let x := mtOf (nearestStamp s p (mtNat (mtMinus edge q.dOut)))
      let v := outStamps s p x
      ((∃ a, q.outSent = some a ∧ inFuture a x = false) → ∃ t, sends = .next t ∧ counts t 0x4005 ∧
        (Machine.port t p).wire = q.lastOut.map (outSlot s p)) ∧
      ((∀ a, q.outSent = some a → inFuture a x = true) → inFuture q.alignedAt x = true →
        ∀ y, (Machine.port v p).outReady.find? (fun y => decide (y.stamp = x)) = some y → ∃ t, sends = .next t ∧
          (Machine.port t p).lastOut = y.samples ∧ (Machine.port t p).wire = y.samples.map (outSlot s p) ∧
          (Machine.port t p).wireV = (List.range n).map (fun i => (chan (Machine.port v p) true i).stopped) ∧
          (y.under = true → tget 0 t.events.det 0x4004 = satInc31 (tget 0 v.events.det 0x4004)) ∧
          (y.under = false → t.events = v.events))) ∧
    (∀ (preamble : Nat) (x : Long) (v u' c' : Bool),
      let b := (subFrame preamble x v u' c').bits
      ((List.range 28).filter (fun i => b.getLsbD i)).length % 2 = 0 ∧ b.extractLsb' 0 24 = x.extractLsb' 8 24 ∧
      b.getLsbD 24 = v ∧ b.getLsbD 25 = u' ∧ b.getLsbD 26 = c') ∧
    (∀ (a : Fin 8) (csA csB uA uB : List Byte) (v : BitVec 2),
      let k := 16 + a.val
      let x := Machine.port s k
      let ok' (l : List Byte) : Prop := csPro l = false ∨ csGood l = true
      let whole := x.aesLocked = true ∧ 192 ≤ x.aesBlock ∧ portsReceive s = true
      let captures : Outc := exec (.aesBlockCapture a csA csB uA uB v) s
      (x.aesLocked = false → 8 ≤ x.aesRun → portsReceive s = true →
        exec (.aesRxLock a) s = .next (setPort s k { x with aesLocked := true, aesBlock := 0 })) ∧
      (x.aesLocked = true ∨ x.aesRun < 8 → exec (.aesRxLock a) s = .next s) ∧
      (¬ whole → captures = .next s) ∧
      (whole → ok' csA → ok' csB → ∃ t, captures = .next t ∧ { t with ports := s.ports } = s ∧
        (let y := Machine.port t k
         y.csA = csOf csA ∧ y.csB = csOf csB ∧ y.uA = csOf uA ∧ y.uB = csOf uB ∧ y.blocks = x.blocks + 1)) ∧
      (whole → csPro csA = true → csGood csA = false → ok' csB → ∃ t, captures = .next t ∧ counts t 0x4007 ∧
        (let y := Machine.port t k
         y.csA = x.csA ∧ y.uA = x.uA ∧ y.csB = csOf csB ∧ y.uB = csOf uB ∧ y.blocks = x.blocks + 1)) ∧
      (x.txFrame = 0 → exec (.aesTxUpdate a) s = .next (setPort s k { x with
        sendCsA := csSent (portCfg s k) (portCfg s k).txCsA, sendCsB := csSent (portCfg s k) (portCfg s k).txCsB
        sendUA := (portCfg s k).txUA, sendUB := (portCfg s k).txUB })) ∧
      (x.txFrame ≠ 0 → exec (.aesTxUpdate a) s = .next s))

/-- R312, R314, R324, R327, R330, R331, R333, R335, R340, R341, R345: enabling a port that its configuration allows starts it in ACQUIRE
with every channel at unity gain, disabling drops its pending actions; a port that has counted 1,000 frames qualifies, and aligns with
its group's delays, the largest D_out of its qualified members among them, or faults; D_in places the stamp of a frame at least 16 MCLK
cycles after it has completed; a clock that the port has and loses; a capture binding's boundary. -/
def Obligations.PortStates : Prop :=
  ∀ (s : State) (port : Fin 24),
    let p := port.val
    let q := Machine.port s p
    let c := portCfg s p
    let counts (t : State) (code : Nat) : Prop := tget 0 t.events.det code = satInc31 (tget 0 s.events.det code)
    (∀ r : Req, Served s r (portObj p) engineer →
      let u := taken s r
      (c.enable = false → portConfigOk u p = true → ∃ t, Accepts (.portEnable r port 1) s r t ∧ (portCfg t p) = { c with enable := true } ∧
        (Machine.port t p).state = .acquire ∧ (Machine.port t p).inFifo = [] ∧
        (Machine.port t p).qualAt = (if masterPort u p then some (now s) else none) ∧
        (∀ i < 32, chan (Machine.port t p) false i = { muted := c.startMutedIn.getLsbD i } ∧
          chan (Machine.port t p) true i = { muted := c.startMutedOut.getLsbD i }) ∧
        { t with ports := s.ports, cfg := s.cfg, epoch := s.epoch, grove := s.grove } =
          { u with ports := s.ports, cfg := s.cfg, epoch := s.epoch, grove := s.grove }) ∧
      (c.enable = false → portConfigOk u p = false → Refuses (.portEnable r port 1) s r eRange) ∧
      (c.enable = true → Accepts (.portEnable r port 1) s r (bumpEpoch u)) ∧
      (c.enable = true → portUsed u p = true → Refuses (.portEnable r port 0) s r eState) ∧
      (c.enable = true → portUsed u p = false → Canon s → Tbl.wf {} s.cfg.ports = true → ∃ t, Accepts (.portEnable r port 0) s r t ∧
        (portCfg t p) = { c with enable := false } ∧ (Machine.port t p).state = .off ∧ (Machine.port t p).inDelay = 0 ∧
        (∀ x ∈ t.clocks.sched, ∀ o op g f m, x.act ≠ .port p o op g f m)) ∧
      (∀ v : Byte, 1 < v.toNat → Refuses (.portEnable r port v) s r eRange)) ∧
    (∀ k : Nat,
      (watched s p k = false → k ≠ 4 ∨ p < 16 → exec (.portClockLost port k) s = .next s) ∧
      (watched s p k = true → q.state = .run → (k = 3 → 8 < (q.window.filter id).length) → Canon s →
        ∃ t, exec (.portClockLost port k) s = .next t ∧ (Machine.port t p).state = .clockLost ∧ counts t 0x4001 ∧
          (Machine.port t p).fading = (hasIn s p || q.fading) ∧ (Machine.port t p).consistent = 0 ∧
          (k = 4 → (Machine.port t p).aesLocked = false))) ∧
    (let due := (q.state = .acquire ∨ q.state = .clockLost) ∧ q.qualAt = none ∧ (masterPort s p = true ∨ 1000 ≤ q.consistent)
     (due → exec (.portQualified port) s = .next (setPort s p { q with qualAt := some (now s) })) ∧
     (¬ due → exec (.portQualified port) s = .next s)) ∧
    (∀ (ei eo : Nat) (fill : Word) (spread : Bool),
      let run : Outc := exec (.portAlign port ei eo fill spread) s
      let aligned (t : State) (i o : Nat) : Prop := (Machine.port t p).state = .run ∧
        (Machine.port t p).dIn = i ∧ (Machine.port t p).dOut = o ∧ (Machine.port t p).alignedAt = now s ∧
        (Machine.port t p).inDelay = unitsNs s i ∧ (Machine.port t p).outDelay = unitsNs s o ∧
        (Machine.port t p).rampIn = some (rampFromZero 32) ∧ (Machine.port t p).rampOut = some (rampFromZero 32) ∧
        ((q.state = .clockLost ∨ q.state = .alignFault) → counts t 0x4002)
      let d := alignDelays s p
      let fits := c.group = 0 ∨ fitsGroup s p d.1 (alignedBefore s p) = true
      (mayAlign s p = false → run = .next s) ∧
      (mayAlign s p = true → c.rate = 4 → ∃ t, run = .next t ∧ aligned t 0 0) ∧
      (mayAlign s p = true → c.rate ≠ 4 → fits → ∃ t, run = .next t ∧ aligned t d.1 d.2) ∧
      (mayAlign s p = true → c.rate ≠ 4 → ¬ fits → ∃ t, run = .next t ∧ (Machine.port t p).state = .alignFault ∧ counts t 0x4003) ∧
      (c.group = 0 → d = (ownDelayIn s p q, ownDelayOut s p q)) ∧
      (c.group ≠ 0 → ∀ i o x, groupDelays s c.group = some (i, o, x) → d = (i, o)) ∧
      (c.group ≠ 0 → groupDelays s c.group = none → ∀ k ∈ groupMates s c.group, (Machine.port s k).qualAt ≠ none →
        ownDelayOut s k (Machine.port s k) ≤ d.2)) ∧
    (let e := edgeIn s p q
     let b := (dataDelay s p).2
     (0 < b → completion s p e + (guardUnits + (alignFill s p - 1) * portUnits s p) * b ≤ (e + ownDelayIn s p q) * b ∧
       (e + ownDelayIn s p q) % portUnits s p = 0) ∧ 65536 + guardUnits ≤ ownDelayOut s p q) ∧
    (∀ g : Fin 8,
      let mates := groupMates s (g.val + 1)
      let late := ∃ k ∈ mates, ∃ t, (Machine.port s k).qualAt = some t ∧ isDue (now s) (mtPlus t (msUnits s 2000)) = true
      (¬ late → exec (.groupAlignTimeout g) s = .next s) ∧
      (late → ∃ t, exec (.groupAlignTimeout g) s = .next t ∧ { t with ports := s.ports } = s ∧
        (∀ k ∈ mates, (Machine.port s k).qualAt ≠ none → (Machine.port t k).groupGo = true) ∧
        (∀ k, k ∉ mates ∨ (Machine.port s k).qualAt = none → Machine.port t k = Machine.port s k))) ∧
    (∀ ok' : Bool,
      let run : Outc := exec (.alignRecheck port ok') s
      let due := q.state = .alignFault ∧ (masterPort s p = true ∨ 1000 ≤ q.consistent)
      (¬ due → run = .next s) ∧
      (due → ∀ i o x, groupDelays s c.group = some (i, o, x) →
        (fitsGroup s p i true = true → isPeriod (now s) = true → ∃ t, run = .next t ∧ (Machine.port t p).state = .run ∧
          (Machine.port t p).dIn = i ∧ (Machine.port t p).dOut = o ∧ counts t 0x4002) ∧
        (fitsGroup s p i true = true → isPeriod (now s) = false → run = .next (setPort s p { q with qualAt := some (now s) })) ∧
        (fitsGroup s p i true = false → run = .next (setPort s p { q with consistent := 0 }))) ∧
      (due → groupDelays s c.group = none → run = .next (setPort s p { q with state := .acquire, qualAt := some (now s) }))) ∧
    (∀ x, q.capNext = [x] →
      (isDue (now s) x.at' = true → exec (.captureBindingApply port) s =
        .next (setPort s p { q with capNext := [], capRing := x.ring, capForm := x.form, capMask := x.mask })) ∧
      (isDue (now s) x.at' = false → exec (.captureBindingApply port) s = .next (setPort s p q)))

/-- R336 to R340: START, STOP, MUTE, UNMUTE and GAIN arm their action at the target, CANCEL takes exactly it out; at a zero crossing the
waiting action applies at once, at its timeout it ramps and is counted, and a ramp that has run its length leaves its mark. -/
def Obligations.PortActions : Prop :=
  ∀ (s : State) (r : Req) (port : Fin 24) (dir first count : Byte) (gain : Word) (target : MT),
    let p := port.val
    let out := decide (dir = 1)
    let f := first.toNat
    let n := count.toNat
    let u := taken s r
    let act (op : Nat) (g : Word) : SchedAct := .port p out op g f n
    let arms (i : Instr) (op : Nat) (g : Word) : Prop :=
      schedTaken s target (act op g) = false → schedRoom s 1 = true → Accepts i s r (schedAdd u target [act op g])
    let inRange := dir.toNat ≤ 1 ∧ 1 ≤ n ∧ f + n ≤ portChans s p ∧ target.phase = 0
    let hit (x : Sched) : Bool := decide (x.target = target) && (match x.act with
      | .port p' o _ _ f' n' => decide (p' = p) && decide (o = out) && decide (f' = f) && decide (n' = n)
      | _ => false)
    (Served s r (portReqObj p) operator →
      (inRange → inTime (now s) target = true → dormant s = false →
        arms (.portStart r port dir first count 0 target) 1 0 ∧ arms (.portStop r port dir first count 0 target) 2 0 ∧
        arms (.mute r port dir first count 0 target) 3 0 ∧ arms (.unmute r port dir first count 0 target) 4 0 ∧
        arms (.gain r port dir first count gain target) 5 gain) ∧
      (inRange → inTime (now s) target = false → Refuses (.gain r port dir first count gain target) s r eLate ∧
        Refuses (.portStart r port dir first count 0 target) s r eLate ∧ Refuses (.portStop r port dir first count 0 target) s r eLate ∧
        Refuses (.mute r port dir first count 0 target) s r eLate ∧ Refuses (.unmute r port dir first count 0 target) s r eLate) ∧
      (¬ inRange ∨ gain ≠ 0 → Refuses (.portStart r port dir first count gain target) s r eRange ∧
        Refuses (.portStop r port dir first count gain target) s r eRange ∧ Refuses (.mute r port dir first count gain target) s r eRange ∧
        Refuses (.unmute r port dir first count gain target) s r eRange) ∧
      (inRange → inTime (now s) target = true →
        ((∃ x ∈ s.clocks.sched, hit x = true) → ∃ t, Accepts (.portCancel r port dir first count 0 target) s r t ∧
          { t with ports := s.ports } = schedDrop u hit ∧
          (Canon s → Tbl.wf {} (Machine.port s p).chIn = true → Tbl.wf {} (Machine.port s p).chOut = true → ∀ o ch,
            (chan (Machine.port s p) o ch).begun = [] → chan (Machine.port t p) o ch = chan (Machine.port s p) o ch)) ∧
        ((∀ x ∈ s.clocks.sched, hit x = false) → Refuses (.portCancel r port dir first count 0 target) s r eState))) ∧
    (∀ (o : Bool) (ch : Fin 32) (a : ChanAct) (l : List ChanAct),
      let c := chan (Machine.port s p) o ch
      let done (t : State) : Chan := chan (Machine.port t p) o ch
      (crossed c = false → exec (.zeroCrossing port o ch) s = .next s) ∧
      (c.ramp = none → c.acts = [a] → a.forced = false → ∀ len t ms raw,
        (zeroCross c.last raw = true → (chanSample len t ms c (1, 1) (1, 1) raw).1.acts = []) ∧
        (zeroCross c.last raw = false → (chanSample len t ms c (1, 1) (1, 1) raw).1.acts = [a])) ∧
      (crossed c = true → c.acts = [a] → ∃ t, exec (.zeroCrossing port o ch) s = .next t ∧ { t with ports := s.ports } = s ∧
        (Canon s → Tbl.wf {} (Machine.port s p).chIn = true → Tbl.wf {} (Machine.port s p).chOut = true →
          (done t).acts = [] ∧ (done t).ramp = none ∧
          (done t).stopped = (if a.op = 2 then true else if a.op = 1 then false else c.stopped) ∧
          (done t).muted = (if a.op = 3 then true else if a.op = 4 then false else c.muted) ∧
          (done t).gain = (if a.op = 5 then a.gain else c.gain))) ∧
      (c.ramp = none → c.acts = a :: l → a.forced = false → isDue (now s) (mtPlus a.since (msUnits s a.limitMs)) = true →
        ∃ t, exec (.zcTimeout port o ch) s = .next t ∧ (Machine.port t p).timeouts = satInc31 (Machine.port s p).timeouts ∧
          (done t).ramp = some ⟨chanUse c, actGain c a, 0, rampLen s p, decide (a.op = 2)⟩ ∧ (done t).acts = l ∧
          tget 0 t.events.det 0x4009 = satInc31 (tget 0 s.events.det 0x4009)) ∧
      (∀ k, c.ramp = some k → k.len ≤ k.k → c.acts = [] → ∃ t, exec (.portRampEnd port o ch) s = .next t ∧ { t with ports := s.ports } = s ∧
        (Canon s → Tbl.wf {} (Machine.port s p).chIn = true → Tbl.wf {} (Machine.port s p).chOut = true →
          (done t).ramp = none ∧ (done t).stopped = (c.stopped || k.stop) ∧ (done t).gain = c.gain ∧ (done t).muted = c.muted)))

/-- R349, R352, R353, R355 to R357, R359 to R361: enabling a bridge whose sides are in range and free binds them, disabling needs it
unused; a side that locks, with all of its estimator, fixes its group delay and ramps in; a slip fades and then acquires again; a side
whose port is lost unlocks. -/
def Obligations.BridgeCommands : Prop :=
  ∀ (s : State) (b : Fin 16) (egress : Bool),
    let n := b.val
    let c := rbCfg s n
    let x := bridge s n
    let d := side s n egress
    let k := sideCfg c egress
    let counts (t : State) (code : Nat) : Prop := tget 0 t.events.det code = satInc31 (tget 0 s.events.det code)
    (∀ r : Req, Served s r (rbObj n) engineer →
      let u := taken s r
      let i := sideCfg c false
      let o := sideCfg c true
      let ranged := sideRange u i = true ∧ sideRange u o = true
      let free := sidePort u i false = true ∧ sidePort u o true = true ∧ sideTaken u n i false = false ∧ sideTaken u n o true = false
      let starts (k : SideCfg) (eg : Bool) (y : Side) : Prop :=
        y.state = (if sideRuns s k eg = true ∧ ratioOk s k eg = true then .acquire else .unlocked) ∧ y.fader = none
      (c.enable = false → ranged → free → ∃ t, Accepts (.rbEnable r b 1) s r t ∧
        rbCfg t n = { c with enable := true } ∧ starts i false (bridge t n).ingress ∧ starts o true (bridge t n).egress ∧
        (bridge t n).ingress.relocks = x.ingress.relocks ∧ (bridge t n).egress.unlocks = x.egress.unlocks) ∧
      (c.enable = true → ranged → free → Accepts (.rbEnable r b 1) s r (bumpEpoch u)) ∧
      (¬ ranged → Refuses (.rbEnable r b 1) s r eRange) ∧
      (ranged → ¬ free → Refuses (.rbEnable r b 1) s r eConflict) ∧
      (c.enable = false → Accepts (.rbEnable r b 0) s r (bumpEpoch u)) ∧
      (c.enable = true → bridgeUsed u n = true → Refuses (.rbEnable r b 0) s r eState) ∧
      (c.enable = true → bridgeUsed u n = false → Canon s → ∃ t, Accepts (.rbEnable r b 0) s r t ∧
        (bridge t n).ingress.state = .off ∧ (bridge t n).egress.state = .off ∧ (bridge t n).ingress.unlocks = x.ingress.unlocks)) ∧
    (∀ ratio mhz : Long,
      let p := estPort s k egress
      let run : Outc := exec (.bridgeLocked b egress ratio mhz) s
      let steady := withinPpm (Machine.port s p).est mhz.toNat = true
      (mayLock s (n, egress) = true → d.state = .acquire ∧ fadeOver d.fader = true ∧ sideRuns s k egress = true ∧ ratioOk s k egress = true) ∧
      (mayLock s (n, egress) = false ∨ ¬ steady → run = .next s) ∧
      (mayLock s (n, egress) = true → steady → c.enable = true → ∃ t, run = .next t ∧
        side t n egress = { d with
          state := .locked, delayNs := BitVec.ofNat 32 (groupDelayNs s k), delay := groupDelayUnits s k, fader := some (rampFromZero 32) } ∧
        (∀ y ∈ estSides s p, mayLock s y = true → (side t y.1 y.2).state = .locked) ∧
        ((estSides s p).filter (mayLock s) = [(n, egress)] → counts t 0x4012))) ∧
    (d.state = .locked →
      (d.slipping = true → exec (.bridgeSlip b egress) s = .next s) ∧
      (d.slipping = false → ∃ t, exec (.bridgeSlip b egress) s = .next t ∧ (side t n egress).state = .locked ∧
        (side t n egress).slipping = true ∧
        (side t n egress).fader = some (fadeDown d.fader 32) ∧ (side t n egress).relocks = (satInc d.relocks).1 ∧ counts t 0x4010) ∧
      (∀ lost : Bool, ∃ t, exec (.bridgeUnlock b egress lost) s = .next t ∧ (side t n egress).state = .unlocked ∧
        (side t n egress).delayNs = 0 ∧ (side t n egress).unlocks = (satInc d.unlocks).1 ∧ counts t 0x4011 ∧
        (d.slipping = false → egress = false ∨ lost = false → (side t n egress).fader = some (fadeDown d.fader 32)) ∧
        (egress = true → lost = true → fadeOver (side t n egress).fader = true))) ∧
    (∀ t, d.slipping = true →
      (fadeOver d.fader = true → (fadeEnds t d).state = .acquire ∧ (fadeEnds t d).delayNs = 0 ∧ (fadeEnds t d).slipping = false) ∧
      (fadeOver d.fader = false → fadeEnds t d = d)) ∧
    (∀ lost : Bool,
      (d.state = .acquire → ∃ t, exec (.bridgeUnlock b egress lost) s = .next t ∧ (side t n egress).state = .unlocked ∧ t.events = s.events) ∧
      (d.state = .off ∨ d.state = .unlocked → exec (.bridgeUnlock b egress lost) s = .next s))

/-! ## Links and groves -/

/-- R379, R388 to R390, R399 to R402: the states of training, each entered from the one before; the peer's identity and the delay
condition decide between UP, CROSSED and DELAY_FAULT; a lost path retrains and its exit is counted; RETRAIN and a rate change. -/
def Obligations.LinkTraining : Prop :=
  ∀ (s : State) (l : Fin 4) (b : Bool),
    let n := l.val
    let p := path s n b
    let o := path s n (!b)
    let counts (t : State) (code : Nat) : Prop := tget 0 t.events.det code = satInc31 (tget 0 s.events.det code)
    let exits (t : State) : Prop := tget 0 (path t n b).counts 6 = (satInc (tget 0 p.counts 6)).1
    let goes (i : Instr) (from' : PathState) (q : Path) : Prop :=
      (p.state = from' → exec i s = .next (setPath s n b q)) ∧ (p.state ≠ from' → exec i s = .next s)
    let ready := p.fromUp = false ∨ msUnits s 1 ≤ mtDiff p.enteredAt (now s)
    (p.state = .signal → ready → exec (.cdrLock l b) s = .next (setPath s n b { p with
      state := .block, enteredAt := now s, txSet := ((linkCfg s n).txPre, (linkCfg s n).txPost, (linkCfg s n).txSwing) })) ∧
    (p.state ≠ .signal ∨ ¬ ready → exec (.cdrLock l b) s = .next s) ∧
    goes (.blockLock l b) .block { p with state := .adapt, enteredAt := now s } ∧
    (∀ eq : List Byte, goes (.adaptDone l b eq) .adapt { p with
      state := .frame, enteredAt := now s, eq := BitVec.ofNat 64 (beAt eq 0 8 / 65536 * 65536) }) ∧
    goes (.frameLock l b) .frame { p with state := .measure, enteredAt := now s } ∧
    (let low := (link s n).lowWanted && !p.stays
     (trainLimit s p.state = none → exec (.trainingTimeout l b) s = .next s) ∧
     (∀ m, trainLimit s p.state = some m →
       (low = true ∨ m ≤ mtDiff p.enteredAt (now s) → exec (.trainingTimeout l b) s = .next (setPath s n b { p with
         state := .signal, meas := [], enteredAt := now s, fromUp := false, stays := p.stays || low })) ∧
       (low = false → mtDiff p.enteredAt (now s) < m → exec (.trainingTimeout l b) s = .next s))) ∧
    (∀ (peer : BitVec 12) (pl : BitVec 2) (pb : Bool) (d f : Long), p.state = .measure →
      let crossed := pb ≠ b ∨ (o.state = .up ∧ o.peer ≠ some (peer, pl))
      let fits := (d.toNat : Int) + f.toInt.natAbs ≤ 250000
      ∃ t, exec (.measureDone l b peer pl pb d f) s = .next t ∧ (path t n b).peer = some (peer, pl) ∧ (path t n b).delayPs = d ∧
        (path t n b).offsetPs = f ∧
        (crossed → (path t n b).state = .crossed ∧ counts t 0x5005) ∧
        (¬ crossed → ¬ fits → (path t n b).state = .delayFault ∧ counts t 0x5004) ∧
        (¬ crossed → fits → (path t n b).state = .up ∧ counts t 0x5002 ∧ (link t n).peerDev = peer.setWidth 16 ∧
          (link t n).peerLink = pl.setWidth 8)) ∧
    (p.state = .delayFault → 64 ≤ p.slow →
      (o.state ≠ .up ∨ o.peer = p.peer → ∃ t, exec (.delayFaultClear l b) s = .next t ∧ (path t n b).state = .up ∧ counts t 0x5002) ∧
      (o.state = .up → o.peer ≠ p.peer → ∃ t, exec (.delayFaultClear l b) s = .next t ∧ (path t n b).state = .crossed ∧ counts t 0x5005)) ∧
    (p.state ≠ .delayFault ∨ p.slow < 64 → exec (.delayFaultClear l b) s = .next s) ∧
    (∀ k : Nat, (p.state ≠ .up ∨ downBy p k = false → exec (.pathDown l b k) s = .next s) ∧
      (p.state = .up → downBy p k = true → ∃ t, exec (.pathDown l b k) s = .next t ∧ (path t n b).state = .signal ∧ exits t ∧ counts t 0x5001 ∧
        (o.state = .up → (link t n).join = (link s n).join ∧ (link t n).peerDev = (link s n).peerDev) ∧
        (o.state ≠ .up → counts t 0x5003 ∧ (link t n).join = 0 ∧ (link t n).joinDone = false ∧ (link t n).peerDev = 0xFFFF))) ∧
    (∀ r : Req, Served s r (linkObj n + 4) engineer →
      let cmd : Instr := .retrain r l (if b then 2 else 1)
      (linkCarries s n = true → o.state ≠ .up → Refuses cmd s r eState) ∧
      (linkCarries s n = false ∨ o.state = .up → p.state = .off → Accepts cmd s r (taken s r)) ∧
      (linkCarries s n = false ∨ o.state = .up → p.state ≠ .off → ∃ t, Accepts cmd s r t ∧ (path t n b).state = .signal ∧
        path t n (!b) = o ∧ (p.state = .up → exits t) ∧ (p.state = .up → o.state ≠ .up → counts t 0x5003))) ∧
    (∀ asked : Bool,
      let low := asked || ownLow s
      (low = true → linkCarries s n = true → exec (.linkRateChange l asked) s = .next s) ∧
      (low = false ∨ linkCarries s n = false →
        let pa := path s n false
        let pb := path s n true
        let free (x : Path) : Path := { x with stays := x.stays && low }
        (pa.state = .up → pa.low ≠ (low && !pa.stays) → ∃ t, exec (.linkRateChange l asked) s = .next t ∧
          (link t n).lowWanted = low ∧ (link t n).lowPeer = asked ∧ (path t n false).state = .signal ∧ path t n true = free pb) ∧
        (pa.low = (low && !pa.stays) → pb.low = (low && !pb.stays) → exec (.linkRateChange l asked) s =
          .next (setLink s n { link s n with lowPeer := asked, lowWanted := low, pathA := free pa, pathB := free pb }))))

/-- R368 to R373, R378, R384, R386, R387, R391, R392, R395, R449: the frame of a base period is composed once and sent once on every path
that sends, with that path's RESIDUAL and ARRIVAL; a frame received whole gives its header, its acknowledgement and its delay measurement, the
median of the last 16; a lost segment is counted and its slots are replaced; an incomplete message is given up after 100 ms. What a path
sends is 60 segments, or 4, of 63 content blocks and a check block after the SOF, every block of a defined kind, and the descrambler takes
the scrambler back (the order of a block's bits is the model's reading, notes/assumptions/146). -/
def Obligations.LinkFrames : Prop :=
  ∀ (s : State) (l : Fin 4) (b : Bool) (residual : Long) (f : RxFrame),
    let n := l.val
    let k := link s n
    let p := path s n b
    let a := k.pathA
    let once := sends k.pathB = false ∧ a.state = .up
    let low := pathLow s n p
    let arrival := arrivalOf s p
    let sentNow := (((now s).count, residual) :: p.sentRes).take 2
    let clean := (f.strayA ++ f.segsA.flatMap (·.odd)).filter (fun x => blockBad x.1 x.2) = [] ∧ ∀ x ∈ f.segsA, x.crcGood = true
    let whole := (∀ j < 60, f.segsA.any (copyValid a f.hdr.mtCount j) = true) ∧ clean ∧ f.cells = [] ∧ f.bulk.payload = [] ∧
      f.hdr.low = false ∧ f.hdr.hold = false
    let crcs := (false :: a.crcWin).take 64
    (frameDue s n p = false → exec (.linkFrameSend l b residual) s = .next s) ∧
    (frameDue s n p = true → ∀ g, k.sent = some g → g.hdr.mtCount = (now s).count → ∃ t, exec (.linkFrameSend l b residual) s = .next t ∧
      (link t n).sent = some { g with hdr := { g.hdr with low := low, residual := residual, arrival := arrival } } ∧
      (path t n b) = { p with residual := residual, sentRes := sentNow } ∧ (link t n).outCells = k.outCells ∧ (link t n).bulkOut = k.bulkOut) ∧
    (frameDue s n p = true → s.mgmt.outGrove = [] → s.grove.changeReported = false → s.grove.role ≠ .withheld →
      (∀ g, k.sent = some g → g.hdr.mtCount ≠ (now s).count) →
      ∃ t g, exec (.linkFrameSend l b residual) s = .next t ∧ (link t n).sent = some g ∧
        g.hdr = frameHdr s n low residual arrival ∧
        (linkUp s n = true → g.cells = (takeCells k.outCells).1.map (·.2) ∧ (link t n).outCells = (takeCells k.outCells).2) ∧
        (linkUp s n = false → g.cells = [] ∧ (link t n).outCells = k.outCells ∧ (link t n).bulkOut = k.bulkOut) ∧
        (low = true → g.slots = [] ∧ g.bulk = noUnit k.bulkRx) ∧
        (low = false → g.slots = if levelEqual s n then (frameSlots s n).1 else []) ∧
        (low = false → linkUp s n = true → ∀ u v, k.bulkOut = u :: v → (u.seq - k.bulkAck).toNat ≤ 16 →
          g.bulk = { u with ack := k.bulkRx } ∧ (link t n).bulkOut = v)) ∧
    (s.grove.arrived = [] → sends a = false → sends k.pathB = false → exec (.linkFrameReceive l f) s = .next s) ∧
    (s.grove.arrived = [] → once → whole → joined s n = false → k.rxMap = [] →
      (f.hdr.arrival = 0x80000000 ∨ ownResidual s a = none → exec (.linkFrameReceive l f) s =
        .next (setLink s n { k with
          silent := 0, rxHdr := some f.hdr, bulkAck := f.bulk.ack
          pathA := { a with lastU := f.uA, uFrame := some (now s).count, noSof := 0, crcWin := crcs } })) ∧
      (∀ own, f.hdr.arrival ≠ 0x80000000 → ownResidual s a = some own →
        let asym := (linkCfg s n).asymPs.toInt
        let d := (f.uA.toInt + f.hdr.arrival.toInt - own.toInt - f.hdr.residual.toInt + asym) / 2
        let th := (f.uA.toInt - f.hdr.arrival.toInt - f.hdr.residual.toInt + own.toInt - asym) / 2
        let ms := ((BitVec.ofInt 32 d, BitVec.ofInt 32 th) :: a.meas).take 16
        let md := median (ms.map (fun x => x.1.toInt))
        let mth := median (ms.map (fun x => x.2.toInt))
        md + mth.natAbs ≤ 250000 → exec (.linkFrameReceive l f) s =
          .next (setLink s n { k with silent := 0, rxHdr := some f.hdr, bulkAck := f.bulk.ack
                                      pathA := { a with lastU := f.uA, uFrame := some (now s).count, meas := ms, delayPs := BitVec.ofInt 32 md
                                                        offsetPs := BitVec.ofInt 32 mth, slow := 0, noSof := 0, crcWin := crcs } }))) ∧
    (s.grove.arrived = [] → once → f.hdr.arrival = 0x80000000 → f.segsA = [] → f.strayA = [] → f.hdr.low = false →
      ∀ i e, k.rxMap = [(i, e)] → ∃ t, exec (.linkFrameReceive l f) s = .next t ∧ (link t n).rxHdr = k.rxHdr ∧
        tget {} (link t n).rx i = slotLost (slotPos s k.rxMap i).1 (tget {} k.rx i) ∧
        (link t n).bulkAck = k.bulkAck ∧ tget 0 (link t n).counts 7 ≠ 0) ∧
    (∀ (src : BitVec 12) (id : Word), ∃ t, exec (.messageReassemblyTimeout src id) s = .next t ∧ { t with grove := s.grove } = s ∧
      ∀ x, x ∈ t.grove.reasm ↔ x ∈ s.grove.reasm ∧ ¬ (x.src = src ∧ x.msgId = id ∧ passed s x.since 100 = true)) ∧
    (∀ (st : BitVec 58) (bits : List Bool), descramble st (scramble st bits) = bits) ∧
    (∀ g : TxFrame,
      (contentBlocks g).length = (if g.hdr.low then 4 else 60) * 63 ∧
      (frameBlocks g b).length = 1 + (if g.hdr.low then 4 else 60) * 64 ∧
      (∀ x ∈ frameBlocks g b, syncGood x.sync = true ∧ blockBad x.sync (x.bits.extractLsb' 56 8) = false))

/-- R404 to R407, R416, R419, R428, R429: the checks of a join in their order, and the challenge again on a joined link; a new identity
starts the joining afresh; epochs announced, reached and adopted; link-state records; the records of like-for-like replacement. -/
def Obligations.GroveMembership : Prop :=
  ∀ (s : State) (l : Fin 4) (pg : Long) (proof nonces : List Byte) (peer : BitVec 12) (compat : Byte),
    let n := l.val
    let k := link s n
    let join : Instr := .linkJoin l pg proof nonces peer compat
    let counts (t : State) (code : Nat) : Prop := tget 0 t.events.det code = satInc31 (tget 0 s.events.det code)
    let ends (t : State) (c : Nat) : Prop := (link t n).join = c ∧ (link t n).joinDone = false ∧ (link t n).rxHdr = none
    (linkUp s n = false ∨ s.cfg.groveId = 0 → exec join s = .next s) ∧
    (linkUp s n = true → s.cfg.groveId ≠ 0 →
      (pg ≠ s.cfg.groveId → ∃ t, exec join s = .next t ∧ ends t 1 ∧ t.events = s.events) ∧
      (pg = s.cfg.groveId → joinProof s pg peer.toNat proof nonces = false → ∃ t, exec join s = .next t ∧ ends t 2 ∧
        t.grove.holdCause = 1 ∧ counts t 0x5010) ∧
      (pg = s.cfg.groveId → joinProof s pg peer.toNat proof nonces = true →
        (compat ≠ ownCompat s → ∃ t, exec join s = .next t ∧ ends t 3 ∧ t.grove.holdCause = 2 ∧ counts t 0x5011) ∧
        (compat = ownCompat s → peer.toNat = s.cfg.deviceNumber → joinedGrove s = false → ∃ t, exec join s = .next t ∧ ends t 3 ∧
          t.grove.holdCause = 3 ∧ t.grove.state = 4 ∧ counts t 0x5012) ∧
        (compat = ownCompat s → joinedGrove s = true ∨ (peer.toNat ≠ s.cfg.deviceNumber ∧ tget none s.grove.records s.cfg.deviceNumber = none) →
          ∃ t, exec join s = .next t ∧ (link t n) = { k with join := 4, peerGrove := pg } ∧
          t.grove.state =
            (if s.grove.state = 0 ∨ s.grove.state = 1 ∨ s.grove.state = 5 ∨ (s.grove.state = 4 ∧ s.grove.holdCause = 3) then 2 else s.grove.state)))) ∧
    (k.join ≠ 4 ∨ joinProof s k.peerGrove k.peerDev.toNat proof nonces = true → exec (.joinReauth l proof nonces) s = .next s) ∧
    (k.join = 4 → joinProof s k.peerGrove k.peerDev.toNat proof nonces = false → ∃ t, exec (.joinReauth l proof nonces) s = .next t ∧
      ends t 2 ∧ t.grove.holdCause = 1 ∧ counts t 0x5010) ∧
    (∀ (r : Req) (numbered : Bool) (v : Long), Served s r 0x0E10 custodian → (numbered = true → v.toNat < 4096) →
      ((∃ x ∈ s.streams, x.2.state ≠ .free) → Refuses (.groveIdWrite r numbered v) s r eState) ∧
      ((∀ x ∈ s.streams, x.2.state = .free) → Canon s → ∃ t, Accepts (.groveIdWrite r numbered v) s r t ∧
        t.cfg = (if numbered then { s.cfg with deviceNumber := v.toNat } else { s.cfg with groveId := v }) ∧
        t.grove.state = (if t.cfg.groveId = 0 then 0 else 1) ∧ t.grove.firstJoin = true ∧ t.grove.records = [] ∧
        t.grove.heardHops = 0xFF ∧ (∀ j < 4, (link t j).join = 0 ∧ (link t j).joinDone = false))) ∧
    (∀ r : Req, Served s r 0x0E10 engineer →
      (s.grove.state ≠ 4 ∨ rootHeard s = false → Refuses (.adopt r) s r eState) ∧
      (s.grove.state = 4 → rootHeard s = true → Accepts (.adopt r) s r { taken s r with
        grove := { s.grove with adoptAt := some (periodFrom (mtPlus (now s) (4 * 65536))) } })) ∧
    (∀ t, s.grove.adoptAt = some t →
      (isDue (now s) t = false → exec .adoptEffect s = .next s) ∧
      (isDue (now s) t = true →
        let adopted (tag : Long) : Grove := { s.grove with state := 3, holdCause := 0, adoptAt := none, tagDue := false, epochTag := tag }
        (∀ x, rootRecord s = some x → exec .adoptEffect s = .next { s with epoch := s.grove.rootEpoch, grove := adopted x.tag }) ∧
        (rootRecord s = none → exec .adoptEffect s = .next { s with
          epoch := s.grove.rootEpoch, fresh := s.fresh + 1, grove := adopted (Config.freeLong s.fresh) }))) ∧
    (∀ (e : Long) (d : BitVec 12) (target : BitVec 64), coreUp s = true → joinedGrove s = true →
      let noted (t : State) : Prop := t.grove.announced = s.grove.announced ++ [(e, 0, d.toNat, target)] ∧ t.epoch = s.epoch
      (d.toNat ≠ s.cfg.deviceNumber → inFuture (now s) ⟨target, 0⟩ = true →
        ∃ t, exec (.epochAnnounce e d target) s = .next t ∧ noted t) ∧
      (d.toNat = s.cfg.deviceNumber → s.grove.role = .root → e = s.epoch + 1 → inFuture (now s) ⟨target, 0⟩ = true →
        64 ≤ countTo (now s) ⟨target, 0⟩ → ∃ t, exec (.epochAnnounce e d target) s = .next t ∧ noted t) ∧
      (d.toNat = s.cfg.deviceNumber → s.grove.role ≠ .root → exec (.epochAnnounce e d target) s = .next s)) ∧
    (∀ (e : Long) (kind origin : Nat) (target : BitVec 64), s.grove.announced = [(e, kind, origin, target)] →
      (isDue (now s) ⟨target, 0⟩ = false → exec .epochAdvance s = .next s) ∧
      (isDue (now s) ⟨target, 0⟩ = true → exec .epochAdvance s = .next { s with
        epoch := e, grove := { s.grove with
          announced := [], rootEpoch := e
          epochTag := crc32c (be 4 s.grove.epochTag.toNat ++ be 4 e.toNat ++ be 1 kind ++ be 2 origin ++ be 8 target.toNat) } })) ∧
    (coreUp s = true → joinedGrove s = true →
      exec .linkStateRecord s = .next (originate (writeTable s) 1 true 0 (linkStateOctets s)) ∧
      ((∀ j < 4, (link s j).joinDone = true ↔ j = n) →
        let v : State := { s with fresh := s.fresh + 1 }
        exec .configRecordSend s = .next (sendRecord v n (ownConfig v (Config.peerIdentity s.fresh))))) ∧
    (∀ (seq : Word) (m : List Byte), m ≠ [] →
      let us := recordUnits seq m
      us.flatMap (·.payload) = m ∧ (∀ u ∈ us, u.payload.length ≤ 3800 ∧ u.channel = 0) ∧ us.getLast?.map (·.last) = some true) ∧
    (coreUp s = false ∨ joinedGrove s = false → exec .linkStateRecord s = .next s ∧ exec .configRecordSend s = .next s) ∧
    (∀ (right : Bool) (serial : Long),
      let offer : Instr := .replaceOffer l compat right serial
      (coreUp s = false → exec offer s = .next s) ∧
      let stands : State := { s with grove := { s.grove with offers := if s.grove.offers.contains n then s.grove.offers else s.grove.offers ++ [n] } }
      let held := s.grove.holds.getLsbD n = true ∧ recordAbsent s (tget 0 s.grove.holdsDev n) = true ∧ newPeer s n = true
      (coreUp s = true → s.cfg.groveId = 0 →
        (s.grove.offers = [] → exec offer s = .next { s with
          fresh := s.fresh + 1
          grove := { s.grove with offerState := 1, offerDevice := Config.freeWord s.fresh &&& 0x0FFF, offers := [n], incoming := [] } }) ∧
        (s.grove.offers ≠ [] → exec offer s = .next stands)) ∧
      (coreUp s = true → s.cfg.groveId ≠ 0 → held →
        (right = true → compat = ownCompat s → exec offer s = .next stands) ∧
        (right = false ∨ compat ≠ ownCompat s → exec offer s = .next (detect s 0x5018 n serial))) ∧
      (s.cfg.groveId ≠ 0 → ¬ held → exec offer s = .next s)) ∧
    (∀ (r : Req) (d : Word), Served s r 0x0E20 custodian → d.toNat < 4096 →
      let ls := holdersOf s d.toNat
      (ls = [] → Refuses (.confirm r d) s r eNoElement) ∧
      (ls ≠ [] → (∀ j ∈ ls, s.grove.offers.contains j = false) → Refuses (.confirm r d) s r eState) ∧
      (∀ j, ls.find? (fun l => s.grove.offers.contains l) = some j → ∃ t, Accepts (.confirm r d) s r t ∧
        t.grove = { s.grove with offers := s.grove.offers.filter (fun k => decide (k ≠ j)) } ∧
        (link t j).bulkOut = (link s j).bulkOut ++
          recordUnits ((link s j).bulkSeq + 1) (recordOctets (rewrap s (Config.peerIdentity s.fresh) (recordHeld s j))))) ∧
    (∀ (g : Long) (d : BitVec 12),
      let taken' := coreUp s = true ∧ alone s = true ∧ s.grove.incoming ≠ []
      let x := recordFrom s.grove.incoming
      (¬ taken' → ∀ good, exec (.replaceTransferDone good g d) s = .next s) ∧
      (taken' → exec (.replaceTransferDone false g d) s =
        .next { s with grove := { s.grove with offerState := 5, offers := [], incoming := [] } }) ∧
      (taken' → ∃ t, exec (.replaceTransferDone true g d) s = .next t ∧ t.cfg.groveId = g ∧ t.cfg.deviceNumber = d.toNat ∧
        t.cfg.priority = x.cfg.priority ∧ (∀ k, Config.openKeys s.heart.identity x.keys = some k → t.heart.keys = stringsOf 192 k) ∧
        t.grove.offerState = 4 ∧ t.grove.incoming = [] ∧ t.grove.state = (if g = 0 then 0 else 1) ∧ t.grove.firstJoin = true))

/-- R47, R411 to R414, R417: 16 base periods without a Root make a Root-capable member claim, 64 of claiming make it the Root, which starts media time at 0 where the
grove forms without PPS; drills are
armed by the Root alone, hand over, come back, or end without a takeover; a time step takes the upstream's count. -/
def Obligations.RootAndTime : Prop :=
  ∀ (s : State) (r : Req) (dwell : Word) (target : MT),
    let g := s.grove
    let counts (t : State) (code : Nat) : Prop := tget 0 t.events.det code = satInc31 (tget 0 s.events.det code)
    (anyJoined s = true → 16 ≤ g.noRoot → g.role ≠ .root → g.role ≠ .claiming → ∃ t, exec .rootLost s = .next t ∧ counts t 0x5019 ∧
      t.grove.role = (if s.cfg.priority ≠ 0 ∧ g.role ≠ .withheld then .claiming else g.role)) ∧
    (anyJoined s = false ∨ g.noRoot < 16 ∨ g.role = .root ∨ g.role = .claiming → exec .rootLost s = .next s) ∧
    (g.role = .claiming → 64 ≤ g.claimRun → ∃ t, exec .rootIncumbency s = .next t ∧ t.grove.role = .root ∧ t.grove.claimRun = 0 ∧
      t.grove.rootEpoch = s.epoch ∧ t.epoch = s.epoch ∧
      (let forms := g.state ≠ 3 ∧ g.rootDevice = 0xFFFF
       (forms → (∀ i < 8, refType s i ≠ 3) → t.clocks.mt = MT.zero ∧ t.clocks.taiValid = false) ∧
       (¬ forms → t.clocks.mt = s.clocks.mt ∧ t.clocks.taiValid = s.clocks.taiValid))) ∧
    (g.role ≠ .claiming ∨ g.claimRun < 64 → exec .rootIncumbency s = .next s) ∧
    (Served s r 0x0E01 custodian → target.phase = 0 →
      let u := taken s r
      let arms (i : Instr) (d : Option Nat) : Prop :=
        (inTime (now s) target = false → Refuses i s r eLate) ∧
        (inTime (now s) target = true → g.role ≠ .root ∨ standbyKnown u = false ∨ dormant s = true → Refuses i s r eState) ∧
        (inTime (now s) target = true → g.role = .root → standbyKnown u = true → dormant s = false →
          (schedTaken s target (.drill d) = true → Refuses i s r eConflict) ∧
          (schedTaken s target (.drill d) = false → schedRoom s 1 = false → Refuses i s r eCapacity) ∧
          (schedTaken s target (.drill d) = false → schedRoom s 1 = true →
            Accepts i s r { schedAdd u target [.drill d] with grove := { g with drillState := 1 } }))
      arms (.handover r 0 dwell target) none ∧
      (1 ≤ dwell.toNat → dwell.toNat ≤ 3600 → arms (.roundTrip r 0 dwell target) (some dwell.toNat)) ∧
      (dwell = 0 ∨ 3600 < dwell.toNat → Refuses (.roundTrip r 0 dwell target) s r eRange) ∧
      (inTime (now s) target = false → Refuses (.drillCancel r 0 dwell target) s r eLate) ∧
      (inTime (now s) target = true → (∀ x ∈ s.clocks.sched, ∀ d, x.act ≠ .drill d) → Refuses (.drillCancel r 0 dwell target) s r eState) ∧
      (∀ d, inTime (now s) target = true → ⟨target, .drill d, false⟩ ∈ s.clocks.sched → ∃ t, Accepts (.drillCancel r 0 dwell target) s r t ∧
        (∀ x ∈ t.clocks.sched, x ∈ s.clocks.sched ∧ ¬ (x.target = target ∧ ∃ d, x.act = .drill d)) ∧
        t.grove = { g with drillResult := 3, drillMt := now s, drillState := 0 })) ∧
    (let ends (d : Nat) : Prop := g.role = .root ∧ isDue (now s) (mtPlus g.rootSince (msUnits s (1000 * d))) = true
     (∀ d, g.drillAsked = some d →
       (ends d → ∃ t, exec .drillDwellEnd s = .next t ∧ t.grove.role = .withheld ∧ t.grove.drillState = 2 ∧
         t.grove.withheldAt = now s ∧ t.grove.drillDwell = none ∧ t.grove.drillAsked = none) ∧
       (¬ ends d → exec .drillDwellEnd s = .next s)) ∧
     (g.drillAsked = none → exec .drillDwellEnd s = .next s)) ∧
    (g.role = .withheld → isDue (now s) (mtPlus g.withheldAt (msUnits s 1000)) = true → ∃ t, exec .drillNoTakeover s = .next t ∧
      t.grove.role = .claiming ∧ t.grove.drillResult = 4 ∧ t.grove.drillState = 0 ∧ t.grove.drillMt = now s ∧ counts t 0x5016) ∧
    (∀ (up : BitVec 64) (ns : Int) (a : Nat), g.stepFade = some a →
      let e := (up - (now s).count).toInt
      let far := 8 * onePeriod ≤ (e * onePeriod + 1000 * ns * rateHz s.clocks.rate).natAbs
      (¬ far ∨ (now s).count.toNat < a + 64 ∨ (now s).phase ≠ 0 → exec (.timeStep up ns) s = .next s) ∧
      (far → a + 64 ≤ (now s).count.toNat → (now s).phase = 0 → (∀ x ∈ s.clocks.sched, isDue ⟨up, 0⟩ x.target = false) →
        ∃ t, exec (.timeStep up ns) s = .next t ∧ t.clocks.mt = ⟨up, 0⟩ ∧ t.clocks.sched = s.clocks.sched ∧
          { t.grove with withheldAt := g.withheldAt, rootSince := g.rootSince, reasm := g.reasm, records := g.records } =
            { g with stepFade := none, timeErrNs := BitVec.ofInt 64 ns, countErr := 0 } ∧ counts t 0x5014 ∧
          (Canon s → (∀ k, (eng t k).prepared = false) ∧ (∀ k, (Machine.port t k).inFifo = []))))

/-- R28, R34, R377, R420 to R427, R431, R432: a source is defined, a subscription waits for its outcome, whose slots and banks are staged for
a boundary; a START or STOP is armed and taken back, an entry is released with all it holds, a stream's new route is staged, an empty
playout bank returns to FREE. -/
def Obligations.StreamCommands : Prop :=
  ∀ (s : State) (e : Nat), e < 8192 →
    let x := stream s e
    let counts (t : State) (code : Nat) : Prop := tget 0 t.events.det code = satInc31 (tget 0 s.events.det code)
    (∀ (r : Req) (cls ch : Byte) (lat : Word) (margin flags : Byte) (src : Endpoint), Served s r (streamObj e) engineer →
      let cmd : Instr := .sourceDef r e cls ch lat margin flags src 0
      let d : SourceDef := ⟨cls.toNat, ch.toNat, lat.toNat, margin.toNat, decide (flags = 1), epLong src⟩
      let inRange := cls.toNat ≤ 9 ∧ 1 ≤ ch.toNat ∧ ch.toNat ≤ 64 ∧ 1 ≤ lat.toNat ∧ lat.toNat ≤ 1024 ∧ margin.toNat ≤ 15 ∧
        flags.toNat ≤ 1 ∧ epRange s (epLong src) ch.toNat false = true
      (¬ inRange → Refuses cmd s r eRange) ∧
      (inRange → x.state ≠ .free → x.state ≠ .defined → Refuses cmd s r eState) ∧
      (inRange → x.state = .free ∨ x.state = .defined →
        (epMeets (taken s r) (epLong src) false cls.toNat = false → Refuses cmd s r eConflict) ∧
        (epMeets (taken s r) (epLong src) false cls.toNat = true → epSapling s (epLong src) = false → ∃ t, Accepts cmd s r t ∧
          stream t e = { x with
            state := .defined, source := true, id := BitVec.ofNat 32 (s.cfg.deviceNumber * 65536 + e), sdef := d } ∧
          tget {} t.cfg.sources e = d ∧ { t with streams := s.streams, cfg := s.cfg, epoch := s.epoch, grove := s.grove } =
            { taken s r with streams := s.streams, cfg := s.cfg, epoch := s.epoch, grove := s.grove }))) ∧
    (∀ (r : Req) (id : Long) (dst : Endpoint), Served s r (streamObj e) engineer →
      (x.state ≠ .free → Refuses (.subscribe r e id dst) s r eState) ∧
      (x.state = .free → Accepts (.subscribe r e id dst) s r
        (setStream (taken s r) e { x with state := .pending, receiver := true, id := id, dest := epLong dst, failDevice := 0xFFFF }))) ∧
    (∀ (code dev : Word) (h ah : Byte) (terms : StreamTerms) (cls ch : Byte) (l l2 : BitVec 2),
      let cmd : Instr := .subscribeResult e code dev h ah terms cls ch l l2
      let root := s.grove.role = .root
      let fails := subscribeFails s e cls.toNat ch.toNat
      let found := if root then rootPlan s (x.id.extractLsb' 16 12).toNat (ch.toNat * slotsPer cls.toNat) terms.protect
        else toldPlan h.toNat ah.toNat l.toNat l2.toNat terms.protect
      let plan := found.filter (planFits · terms)
      (coreUp s = false → exec cmd s = .next s) ∧
      (coreUp s = true → x.state = .pending →
        (∀ c, fails = some c → exec cmd s = .next (setStream s e { result := c, failDevice := 0xFFFF })) ∧
        (fails = none →
          (plan = none → root ∨ code = eOK → exec cmd s = .next (setStream s e { result := eCapacity, failDevice := 0xFFFF })) ∧
          (code ≠ eOK → ¬ root ∨ plan ≠ none → exec cmd s = .next (setStream s e { result := code, failDevice := dev })) ∧
          (∀ p, plan = some p → p.hops + terms.margin.toNat ≤ terms.latency.toNat ∧ (code = eOK →
            (∀ c, admitHere s e p terms cls.toNat ch.toNat = .error c →
              exec cmd s = .next (setStream s e { result := c, failDevice := BitVec.ofNat 16 s.cfg.deviceNumber })) ∧
            (∀ v, admitHere s e p terms cls.toNat ch.toNat = .ok v →
              ∃ t, exec cmd s = .next t ∧ (stream t e).state = .admitted ∧ (stream t e).result = eOK ∧
                (stream t e).hops = BitVec.ofNat 8 p.hops ∧ (stream t e).link = some p.link ∧
                (stream t e).effectiveAt = some (stageAt s terms.effective) ∧
                (∀ k, (link t k).rxMap = (link s k).rxMap ∧ (link t k).txMap = (link s k).txMap) ∧
                (x.id ≠ 0 ∨ x.dest ≠ 0 → tget (0, 0) t.cfg.subs e = (x.id, x.dest))))))) ∧
      (mtNat (now s) < 2 ^ 79 → 4 * 65536 ≤ mtDiff (now s) (stageAt s terms.effective)) ∧
      (coreUp s = true → x.state = .free → code ≠ eOK ∨ s.grove.state = 4 ∨ rootHeard s = false → exec cmd s = .next s) ∧
      (coreUp s = true → x.state ≠ .pending → x.state ≠ .free → x.transit = false → x.source = false ∨ code ≠ eOK →
        exec cmd s = .next (setStream s e { x with result := code, failDevice := dev })) ∧
      (coreUp s = true → x.state = .defined → x.transit = false → x.source = true → code = eOK →
        (s.grove.state = 4 ∨ rootHeard s = false → exec cmd s =
          .next (setStream s e { x with result := eState, failDevice := BitVec.ofNat 16 s.cfg.deviceNumber })) ∧
        (s.grove.state ≠ 4 → rootHeard s = true → ah = 0xFF → heldSlots s l.toNat true e ≠ [] → exec cmd s = .next (setStream s e { x with
          state := .admitted, link := some l.toNat, hops := h, altHops := 0xFF, result := eOK })))) ∧
    (∀ (r : Req) (target : MT), Served s r (streamObj e) operator → target.phase = 0 →
      let u := taken s r
      let arms (i : Instr) (a : SchedAct) : Prop :=
        (inTime (now s) target = false → Refuses i s r eLate) ∧
        (inTime (now s) target = true → x.source = false ∨ x.state = .free → Refuses i s r eState) ∧
        (inTime (now s) target = true → x.source = true → x.state ≠ .free → dormant s = false → schedTaken s target a = false →
          schedRoom s 1 = true → Accepts i s r (schedAdd u target [a]))
      arms (.streamStart r e 0 target) (.streamStart e) ∧ arms (.streamStop r e 0 target) (.streamStop e) ∧
      (inTime (now s) target = true → x.source = true → x.state ≠ .free →
        (schedTaken s target (.streamStart e) = false → Refuses (.streamCancel r e 0 target) s r eState) ∧
        (schedTaken s target (.streamStart e) = true → Accepts (.streamCancel r e 0 target) s r
          (schedDrop u (fun y => decide (y.target = target) && sameItem y.act (.streamStart e)))))) ∧
    (∀ r : Req, Served s r (streamObj e) engineer →
      (x.state = .running ∨ x.transit = true → Refuses (.streamRelease r e 1) s r eState) ∧
      (x.state = .free → x.transit = false → Accepts (.streamRelease r e 1) s r (taken s r)) ∧
      Accepts (.streamRelease r e 0) s r (taken s r) ∧
      (x.state ≠ .running → x.state ≠ .free → x.transit = false → Canon s → ∃ t, Accepts (.streamRelease r e 1) s r t ∧
        stream t e = {} ∧ (∀ y ∈ t.clocks.sched, y.act ≠ .streamStart e ∧ y.act ≠ .streamStop e) ∧
        (∀ y ∈ t.clocks.staged, ofEntry e y.act = false) ∧
        (∀ k out, let slots := entrySlots (if out then (link s k).txMap else (link s k).rxMap) e
          slots ≠ [] → ⟨stageAt s 0, .unmap k out slots⟩ ∈ t.clocks.staged))) ∧
    (∀ rt : Option NewRoute, coreUp s = false ∨ x.state = .free ∨ x.state = .pending → exec (.reroute e rt) s = .next s) ∧
    (coreUp s = true → x.receiver = true → x.state ≠ .free → x.state ≠ .pending → s.grove.role ≠ .root →
      (x.state = .rerouting → exec (.reroute e none) s = .next s) ∧
      (x.state ≠ .rerouting → ∃ t, exec (.reroute e none) s = .next t ∧ stream t e = { x with state := .rerouting } ∧ counts t 0x5017) ∧
      (∀ nr : NewRoute,
        let h := nr.hops.toNat
        (h = 0 ∨ 62 < h ∨ x.sdef.latency < h ∨ namedLate s nr.effective = true → exec (.reroute e (some nr)) s = .next (noRoute s e)) ∧
        (1 ≤ h → h ≤ 62 → h ≤ x.sdef.latency → namedLate s nr.effective = false → ∀ v, bookSwitch s (stageAt s nr.effective) e (lostCopy s x) nr.link.toNat h = .ok v →
          ∃ t slots ring, exec (.reroute e (some nr)) s = .next t ∧
            (stream t e).state = (if x.state = .rerouting then .admitted else x.state) ∧
            (stream t e).link = x.link ∧ (stream t e).hops = x.hops ∧ (stream t e).ring = x.ring ∧
            ⟨stageAt s nr.effective, .switch e (lostCopy s x) nr.link.toNat h slots ring⟩ ∈ t.clocks.staged))) ∧
    (∀ b : Fin 32, ∀ t, (bank s b).emptySince = some t →
      ((bank s b).kind = 2 → ringsIn s b = [] → isDue (now s) (periodFrom (mtPlus t (4 * 65536))) = true →
        exec (.playoutBankFree b) s = .next (setBank s b { bank s b with kind := 0, id := 0, emptySince := none })) ∧
      ((bank s b).kind ≠ 2 ∨ ringsIn s b ≠ [] ∨ isDue (now s) (periodFrom (mtPlus t (4 * 65536))) = false →
        exec (.playoutBankFree b) s = .next s))

/-! ## Management -/

/-- R435, R436, R442 to R448, R455 to R459: a request waits at its interface, or is answered from the cache, as stale, or BUSY; READ
answers the values of its elements in order, WRITE lands whole or not at all, a DOMAIN value lands at its close; the messages of UDP
datagrams and of HQ. -/
def Obligations.ManagementMessages : Prop :=
  ∀ (s : State) (r : Req) (obj : Word) (elem : Byte) (n : Nat) (data : List Byte), dictPresent s = true →
    let k := r.sess.val
    let x := session s k
    let u := taken s r
    let o := obj.toNat
    let el := elem.toNat
    let heard := x.phase = 2 ∧ s.mgmt.lastStamp ≠ some (now s)
    (x.phase ≠ 2 → o < 0x1080 ∨ 0x10FF < o → exec (.read r obj elem n) s = .next (refuseUnbound s none r)) ∧
    (x.phase = 2 → s.mgmt.lastStamp = some (now s) → timeRuns s = true → (now s).phase.toNat < 65535 →
      exec (.save r) s = exec (.save r) (timePasses s)) ∧
    (heard → o < 0x1080 ∨ 0x10FF < o →
      let v := if o = 0x0102 then senseTj u else u
      (∀ c i, readGate s r o el n = some (c, i) → exec (.read r obj elem n) s = .next (sendReply u r 1 n c i [])) ∧
      (readGate s r o el n = none → o ≠ 0x1100 → exec (.read r obj elem n) s =
        .next (sendReply { v with fresh := v.fresh + 2 * n } r 1 n eOK 0xFF
          ((List.range n).flatMap (fun i => elemValue { v with fresh := v.fresh + 2 * i } k o (el + i)))))) ∧
    (heard → 0x1080 ≤ o → o ≤ 0x10FF →
      let v := settlePortB s ((o - 0x1080) / 4)
      (∀ i < n, eccMark v (locOf 4 ((o - 0x1080) / 4) ((o - 0x1080) % 4 * 256 + (el + i))) = 0) →
      (∀ c i, readGate v r o el n = some (c, i) → exec (.read r obj elem n) s = .next (sendReply (taken v r) r 1 n c i [])) ∧
      (readGate v r o el n = none → exec (.read r obj elem n) s =
        .next (sendReply { taken v r with fresh := v.fresh + 2 * n } r 1 n eOK 0xFF
          ((List.range n).flatMap (fun i => elemValue { taken v r with fresh := v.fresh + 2 * i } k o (el + i)))))) ∧
    (heard → s.mgmt.after = [] →
      (∀ c i, writeGate s r o el n data = some (c, i) →
        exec (.write r obj elem n data) s = .next (sendReply u r 2 n c i [])) ∧
      (writeGate s r o el n data = none → n ≠ 1 ∨ elemCmd r o el data = none →
        (∀ c i, putBlock u r o el n data = .error (c, i) → exec (.write r obj elem n data) s = .next (sendReply u r 2 n c i [])) ∧
        (∀ t, putBlock u r o el n data = .ok t →
          exec (.write r obj elem n data) s = .next (afterReply (sendReply t r 2 n eOK 0xFF []))))) ∧
    (∀ a b : Byte, Served s r 0x0E00 custodian → s.mgmt.after = [] →
      let v := a.toNat * 256 + b.toNat
      (32767 < v → exec (.write r 0x0E00 0 1 [a, b]) s = .next (sendReply u r 2 1 eRange 0 [])) ∧
      (v ≤ 32767 → ∃ t, exec (.write r 0x0E00 0 1 [a, b]) s = .next (sendReply t r 2 1 eOK 0xFF []) ∧ t.cfg = { s.cfg with priority := v } ∧
        (joinedGrove s = false → t.epoch = s.epoch + 1) ∧ (joinedGrove s = true → t.epoch = s.epoch ∧ t.grove.changeReported = true) ∧
        { t with cfg := s.cfg, epoch := s.epoch, grove := s.grove } = u)) ∧
    (heard →
      let touched (t : State) : State := touchTransfer t r obj elem
      (∀ (total : Nat) (digest : List Byte), domainGate u r o el true = none →
        (digest.length ≠ 32 → exec (.domainOpen r obj elem total digest) s = .next (sendReply u r 3 1 eType 0 [])) ∧
        (digest.length = 32 → domainLimit o < total → exec (.domainOpen r obj elem total digest) s = .next (sendReply u r 3 1 eRange 0 [])) ∧
        (digest.length = 32 → total ≤ domainLimit o → 4194304 < buffered u k + total →
          exec (.domainOpen r obj elem total digest) s = .next (sendReply u r 3 1 eCapacity 0 [])) ∧
        (digest.length = 32 → total ≤ domainLimit o → buffered u k + total ≤ 4194304 → exec (.domainOpen r obj elem total digest) s =
          .next (sendReply (setSession u k { x with transfer := some ⟨obj, elem, total, digest, [], now s⟩ }) r 3 1 eOK 0xFF []))) ∧
      (domainGate u r o el true = none → ∀ t, transferOf s r obj elem = some t →
        (∀ offset, 1 ≤ data.length → data.length ≤ 1024 → offset + data.length ≤ t.total →
          let t' : Transfer := { t with octets := placeOctets t.octets offset data }
          exec (.domainData r obj elem offset data) s =
            .next (touched (sendReply (setSession u k { x with transfer := some t' }) r 4 1 eOK 0xFF (be 4 (receivedOf t'))))) ∧
        (∀ offset, data.length = 0 ∨ 1024 < data.length →
          exec (.domainData r obj elem offset data) s = .next (touched (sendReply u r 4 1 eType 0 (be 4 (receivedOf t))))) ∧
        (∀ offset, 1 ≤ data.length → data.length ≤ 1024 → t.total < offset + data.length →
          exec (.domainData r obj elem offset data) s = .next (touched (sendReply u r 4 1 eRange 0 (be 4 (receivedOf t))))) ∧
        (receivedOf t ≠ t.total → exec (.domainClose r obj elem) s = .next (touched (sendReply u r 5 1 eLength 0 (be 4 (receivedOf t))))) ∧
        (receivedOf t = t.total → Config.sha256 (transferBytes t) = t.digest → ∀ v, landDomain u o (transferBytes t) = .ok v →
          exec (.domainClose r obj elem) s = .next (sendReply (setTransfer v k none) r 5 1 eOK 0xFF (be 4 t.total))) ∧
        (receivedOf t = t.total → Config.sha256 (transferBytes t) ≠ t.digest →
          exec (.domainClose r obj elem) s = .next (setTransfer (sendReply u r 5 1 eIntegrity 0 (be 4 t.total)) k none))) ∧
      (∀ a b : Nat, ∃ c i, c ≠ eOK ∧ exec (.domainRead r obj elem a b) s =
        .next (sendReply u r 6 1 c i (be 4 (Config.unreadTotal obj elem).toNat)))) ∧
    (∀ j : Fin 16,
      let idle := (session s j).transfer.any (fun t => passed s t.lastAt 10000)
      (idle = true → exec (.domainIdleTimeout j) s = .next (setSession s j { session s j with transfer := none })) ∧
      (idle = false → exec (.domainIdleTimeout j) s = .next s)) ∧
    (∀ (i : Iface) (body : List Byte), ifaceOn s i = true →
      let q := queueOf s.mgmt i
      let cmd : Instr := .request i r body
      let h := heardHost s k
      let answer (st : Word) : State := sendOn h k (.reply ⟨k, r.seq, beAt body 0 1, beAt body 1 1, st, 0xFF, now s, failData h r (beAt body 0 1) (bodyObj body) (bodyElem body)⟩)
      (x.phase ≠ 2 → exec cmd s = .next (refuseUnbound s (some i) r)) ∧
      (x.phase = 2 → x.iface ≠ i ∨ 1444 < body.length → exec cmd s = .next (countStat s 6 i)) ∧
      (x.phase = 2 → x.iface = i → body.length ≤ 1444 →
        (∀ c, x.cache.find? (fun c => decide (c.seq = r.seq)) = some c → exec cmd s = .next (sendOn h k (.reply c))) ∧
        (x.cache.find? (fun c => decide (c.seq = r.seq)) = none →
          (∀ w, x.high = some w → 1 ≤ (w - r.seq).toNat → (w - r.seq).toNat ≤ 32767 → exec cmd s = .next (answer eStale)) ∧
          ((∀ w, x.high = some w → w = r.seq ∨ 32767 < (w - r.seq).toNat) →
            (64 ≤ q.length → exec cmd s = .next (detect (countStat (answer eBusy) 3 i) 0x6003 devUnit (ifaceArg i))) ∧
            (q.length < 64 → exec cmd s = .next { h with mgmt := setQueue h.mgmt i (q ++ [(r, body)]) }))))) ∧
    (∀ (a : Long) (p : Word) (packet : List Byte), s.cfg.mgmt.netEnable = true →
      let s' := linkSeen s
      let cmd : Instr := .udpDatagram a p packet
      let ip := packet.drop 2
      let rest := (ip.take (beAt ip 2 2)).drop 20
      (beAt packet 0 2 = 0x0806 → beAt ip 6 2 = 1 → beAt ip 24 4 = s.mgmt.activeAddr.toNat → s.mgmt.activeAddr ≠ 0 →
        exec cmd s = .next (sendTo s' .ethernet a 0 .arp)) ∧
      (beAt packet 0 2 = 0x0800 → beAt ip 0 1 = 0x45 → beAt ip 6 2 % 0x4000 = 0 → beAt ip 16 4 = s.mgmt.activeAddr.toNat →
        (beAt ip 9 1 = 1 → beAt rest 0 1 = 8 → exec cmd s = .next (sendTo s' .ethernet a 0 (.icmpEcho (rest.drop 4)))) ∧
        (beAt ip 9 1 = 17 → beAt rest 2 2 = s.cfg.mgmt.udpPort.toNat →
          exec cmd s = .next (kmpIn s' .ethernet (some a) p ((rest.take (beAt rest 4 2)).drop 8))) ∧
        (beAt ip 9 1 = 17 → beAt rest 2 2 ≠ s.cfg.mgmt.udpPort.toNat → exec cmd s = .next s') ∧
        (s.mgmt.netLink ≠ 0 → s' = s) ∧ (s.mgmt.netLink = 0 → s'.mgmt.netLink ≠ 0 ∧ { s' with mgmt := s.mgmt, fresh := s.fresh } = s))) ∧
    (∀ m : List Byte, s.power.recovery = false → s.cfg.mgmt.hqEnable = true →
      (2048 < hqUsed s + 2 + m.length → exec (.put m) s = .next { s with mgmt := { s.mgmt with hqDiscard := true } }) ∧
      (hqUsed s + 2 + m.length ≤ 2048 → exec (.put m) s = .next { s with mgmt := { s.mgmt with hqIn := s.mgmt.hqIn ++ [m] } })) ∧
    (s.cfg.mgmt.hqEnable = true → exec (.get false) s = .next s ∧
      (s.mgmt.outHq = [] → exec (.get true) s = .next { s with mgmt := { s.mgmt with hqGot := [0, 0] } }) ∧
      (∀ m l, s.mgmt.outHq = m :: l → exec (.get true) s = .next { s with mgmt := { s.mgmt with hqGot := be 2 m.length ++ m, outHq := l } })) ∧
    (exec .status s = .next { s with mgmt := { s.mgmt with
      hqDiscard := false
      hqStatus := BitVec.ofNat 8 ((if s.mgmt.outHq = [] then 0 else 1) + (if hqUsed s + 1500 ≤ 2048 then 2 else 0) + (if s.mgmt.hqDiscard then 4 else 0) + 8) } })

/-- R442, R450 to R454, R491: a message of an interface that is off, or while the control core is away, does nothing; HELLO opens one of the
free sessions with a new nonce (that the number is any of the free ones is the model's reading, notes/assumptions/107), PROVE completes it
with the session key that both sides derive, and every wrong one frees the number and is counted; sessions end by BYE, by silence and by
SESSIONS.CLOSE, with the requests that wait for them; a lockout ends after 10 s; a relay entry lapses. -/
def Obligations.SessionCommands : Prop :=
  ∀ (s : State) (i : Iface) (sess : Fin 16),
    let k := sess.val
    let x := session s k
    let up := dictPresent s = true ∧ ifaceOn s i = true
    let counts (t : State) (code : Nat) : Prop := tget 0 t.events.det code = satInc31 (tget 0 s.events.det code)
    (∀ (a : Long) (p : Word) (role idx : Byte) (cn : List Byte),
      let cmd : Instr := .hello i a p role idx cn
      let keyless := keylessOpen s = true ∧ i = .hq ∧ role = 3 ∧ idx = 0xFF
      let held := s.fuses.life ≠ .blank ∧ 1 ≤ role.toNat ∧ role.toNat ≤ 3 ∧ idx.toNat ≤ 31 ∧ tget [] s.heart.keys (keyAt role idx) ≠ []
      let no (c : Word) : Prop := exec cmd s = .next (sendTo s i a p (.refuse 0xFF 0 c))
      let free (j : Nat) : Prop := j < 16 ∧ (session s j).phase = 0
      let locked := ∃ since, (ifaceNo i, since) ∈ s.mgmt.lockout
      let dn := Config.freeNonce 16 (s.fresh + 1)
      (¬ up → exec cmd s = .next s) ∧
      (up → cn.length ≠ 16 → exec cmd s = .next (countStat s 6 i)) ∧
      (up → cn.length = 16 →
        (¬ keyless → ¬ held → no eNotAuth) ∧
        (keyless ∨ held → (∀ j, ¬ free j) → no eCapacity) ∧
        (keyless ∨ held → (∃ j, free j) → locked → ∃ t, exec cmd s = .next t ∧
          t = { sendTo s i a p (.refuse 0xFF 0 eBusy) with fresh := t.fresh }) ∧
        (¬ keyless → held → (∃ j, free j) → ¬ locked → ∃ j t, free j ∧ exec cmd s = .next t ∧
          session t j = { phase := 1, iface := i, address := a, port := p, role := role.toNat, keyIndex := idx, cn := cn, dn := dn } ∧
          t.mgmt.heardAt = tset MT.zero s.mgmt.heardAt j (now s) ∧ t.events = s.events ∧ ∀ m, m ≠ j → session t m = session s m) ∧
        (keyless → (∃ j, free j) → ¬ locked → ∃ j t, free j ∧ exec cmd s = .next t ∧
          session t j = {
            phase := 2, iface := i, address := a, port := p, role := if s.fuses.life = .ended then 1 else 3, keyIndex := 0xFF, keyless := true
            cn := cn, dn := dn, sessKey := Config.hmac (List.replicate 32 0) (label 0x53 ++ cn ++ dn)
            cursor := some (oldestSeq s), pushedTo := s.events.nextSeq } ∧
          t.mgmt.heardAt = tset MT.zero s.mgmt.heardAt j (now s) ∧ t.events = s.events ∧ ∀ m, m ≠ j → session t m = session s m))) ∧
    (∀ proof : List Byte,
      let cmd : Instr := .prove i sess proof
      let key := roleKey s x
      let right := key ≠ [] ∧ proof = Config.hmac key (label 0x43 ++ proofText k x)
      let opening := x.phase = 1 ∧ x.iface = i
      (¬ up → exec cmd s = .next s) ∧
      (up → ¬ opening → exec cmd s = .next (countStat s 6 i)) ∧
      (up → opening → right → ∃ t, exec cmd s = .next t ∧
        session t k = { x with
          phase := 2, sessKey := Config.hmac key (label 0x53 ++ x.cn ++ x.dn), high := none, cache := []
          transfer := none, cursor := some (oldestSeq s), mask := 0, pushedTo := s.events.nextSeq } ∧
        t.mgmt.heardAt = tset MT.zero s.mgmt.heardAt k (now s) ∧ t.events = s.events ∧ ∀ m, m ≠ k → session t m = session s m) ∧
      (up → opening → ¬ right → ∃ t, exec cmd s = .next t ∧ t.mgmt.authFail = (satInc s.mgmt.authFail).1 ∧ counts t 0x6001 ∧
        (Canon s → session t k = {}) ∧ ∀ m, m ≠ k → session t m = session s m)) ∧
    (let late := x.phase = 1 ∧ passed s (heardFrom s k) 1000 = true ∧ dictPresent s = true
     (late → exec (.proveTimeout sess) s = .next (endSession (sendOn s k (.refuse k 0 eNotAuth)) k)) ∧
     (¬ late → exec (.proveTimeout sess) s = .next s)) ∧
    (exec (.lockoutEnd i) s = .next { s with mgmt := { s.mgmt with lockout := s.mgmt.lockout.filter (fun y => !(decide (y.1 = ifaceNo i) && passed s y.2 10000)) } }) ∧
    (¬ up → exec (.bye i sess) s = .next s) ∧
    (up → x.phase ≠ 2 ∨ x.iface ≠ i → exec (.bye i sess) s = .next (countStat s 6 i)) ∧
    (up → x.phase = 2 → x.iface = i → exec (.bye i sess) s = .next (endSession s k)) ∧
    (let idle := x.phase = 2 ∧ s.power.ccDown = none ∧ passed s (heardFrom s k) (1000 * s.cfg.mgmt.idleS.toNat) = true
     (idle → exec (.sessionIdleTimeout sess) s = .next (endSession s k)) ∧
     (¬ idle → exec (.sessionIdleTimeout sess) s = .next s)) ∧
    (let t := endSession s k
     (Canon s → session t k = {}) ∧ (∀ m, m ≠ k → session t m = session s m) ∧
     ∀ j, queueOf t.mgmt j = (queueOf s.mgmt j).filter (fun y => decide (y.1.sess ≠ sess))) ∧
    (∀ (r : Req) (b : Byte), Served s r 0x0120 custodian →
      let cmd : Instr := .sessionsClose r b
      let opened := (session s b.toNat).phase = 2
      (s.mgmt.after = [] → 15 < b.toNat → Refuses cmd s r eRange) ∧
      (s.mgmt.after = [] → b.toNat ≤ 15 → ¬ opened → Refuses cmd s r eState) ∧
      (b.toNat ≤ 15 → opened → ∃ t, exec cmd s = .next t ∧ (s.mgmt.after = [] → t.mgmt.after = [] ∧
        (Canon s → session t b.toNat = {}) ∧ ∀ m, m ≠ b.toNat → m ≠ r.sess.val → session t m = session s m))) ∧
    (∀ (target : BitVec 12) (b : Byte), exec (.relayLapse target b) s = .next { s with mgmt := { s.mgmt with
      relays := s.mgmt.relays.filter (fun y =>
        !(decide (y.target = target) && decide (y.sess = b) && passed s y.lastAt (1000 * s.cfg.mgmt.idleS.toNat))) } })

/-! ## Events and injection -/

/-- R461, R462, R467, R501 to R503, R512 to R517: a detection is counted and recorded, a limited one once a second; a session is pushed
what its MASK takes, and READ advances its CURSOR; an injection is armed by its checks in order, cancelled, and fires once due. -/
def Obligations.EventsAndInjection : Prop :=
  ∀ (s : State) (code unit : Word) (arg : Long),
    let c := code.toNat
    let key := c * 65536 + unit.toNat
    let ev := s.events
    (eventCode c = false → exec (.eventRaise code unit arg) s = .next s) ∧
    (eventCode c = true → c ≠ 0x3001 → c ≠ 0x3002 → s.power.dev ≠ .booting →
      exec (.eventRaise code unit arg) s = .next (detect s c unit.toNat arg)) ∧
    (eventCode c = true → c ≠ 0x3001 → c ≠ 0x3002 → coreUp s = true → rateLimited c = false → ∃ t,
      exec (.eventRaise code unit arg) s = .next t ∧ tget 0 t.events.det c = satInc31 (tget 0 ev.det c) ∧
      t.events.nextSeq = ev.nextSeq + 1 ∧
      (let v : Event := ⟨code, unit, ev.nextSeq, now s, arg, false, ev.lostBefore⟩
       ((∀ y, ev.log.getLast? = some y → laterInCycle v y = false) ∨ ev.lostBefore = true → t.events.log.getLast? = some v) ∧
       (∀ y, ev.log.getLast? = some y → laterInCycle v y = true → ev.lostBefore = false →
         t.events.log.getLast? = some { y with seq := y.seq + 1 })) ∧
      { t with events := ev } = s) ∧
    (∀ bad : Bool, memoryLoc arg.toNat = true → ∃ t, exec (.eventRaise (if bad then 0x3002 else 0x3001) unit arg) s = .next t ∧
      (let unit := if arg.toNat / 2 ^ 29 = 5 then dlsLoc (arg.toNat % 2 ^ 24) else arg.toNat
       eccMark t unit = max (if bad then 2 else 1) (eccMark s unit)) ∧
      (bad = true → t.mem.lastLoc = arg)) ∧
    (ev.limits.find? (fun l => decide (l.key = key)) = none → exec (.eventRateLimitEnd code unit) s = .next s) ∧
    (∀ l, ev.limits.find? (fun l => decide (l.key = key)) = some l →
      let rest := ev.limits.filter (fun y => decide (y.key ≠ key))
      (passed s l.since 1000 = false → exec (.eventRateLimitEnd code unit) s = .next s) ∧
      (passed s l.since 1000 = true → l.count = 0 → exec (.eventRateLimitEnd code unit) s = .next { s with events := { ev with limits := rest } }) ∧
      (passed s l.since 1000 = true → l.count ≠ 0 → exec (.eventRateLimitEnd code unit) s =
        .next (record { s with events := { ev with limits := rest ++ [⟨key, 0, l.lastMt, true, now s⟩] } } c unit.toNat (BitVec.ofNat 32 l.count)
          l.lastMt l.allInj))) ∧
    (∀ j : Fin 16,
      let x := session s j
      let mine := (ev.log.filter (fun v => decide ((v.seq - x.pushedTo).toNat < (ev.nextSeq - x.pushedTo).toNat))).filter (pushedTo x)
      (x.phase ≠ 2 ∨ coreUp s = false → exec (.eventPush j) s = .next s) ∧
      (x.phase = 2 → coreUp s = true → mine = [] →
        exec (.eventPush j) s = .next (setSession s j { x with pushedTo := ev.nextSeq })) ∧
      (x.phase = 2 → coreUp s = true → mine ≠ [] → mine.length ≤ 16 → exec (.eventPush j) s =
        .next (sendOn (setSession s j { x with pushedTo := ev.nextSeq }) j
          (.event j (mine.map (fun v => BitVec.ofNat 192 (beNat (eventOctets v)))))))) ∧
    (∀ r : Req, Heard s r → operator ≤ (session s r.sess).role → dictAdmits s 0x1100 = true → exec (.eventLogRead r) s =
      .next (sendReply (passPage (taken s r) r.sess) r 1 1 eOK 0xFF (logOctets (taken s r) r.sess))) ∧
    (∀ r : Req, Served s r 0x1180 engineer →
      let u := taken s r
      Accepts (.injectEnable r 1) s r { u with events := { ev with
        injOn := true, injUntil := mtPlus (now s) (msUnits s (1000 * ev.lapseS.toNat)) } } ∧
      Accepts (.injectEnable r 0) s r { u with events := { ev with injOn := false, inj := [] } } ∧
      Accepts (.cancelAll r 1) s r { u with events := { ev with inj := [] } } ∧ Accepts (.cancelAll r 0) s r u) ∧
    (ev.injOn = true → isDue (now s) ev.injUntil = true →
      exec .injectLapse s = .next { s with events := { ev with injOn := false, inj := [] } }) ∧
    (ev.injOn = false ∨ isDue (now s) ev.injUntil = false → exec .injectLapse s = .next s) ∧
    (∀ (r : Req) (period count : Word), injectable.contains c = true → Served s r (0x1180 + c / 4096) engineer →
      let u := taken s r
      let arms (i : Instr) (per : Bool) (left : Option Nat) (ok' : Bool) : Prop :=
        (ev.injOn = false → Refuses i s r eInject) ∧
        (ev.injOn = true → ok' = false ∨ injectUnit c unit.toNat = false → Refuses i s r eRange) ∧
        (ev.injOn = true → ok' = true → injectUnit c unit.toNat = true → injectState u c unit.toNat arg = false → Refuses i s r eState) ∧
        (ev.injOn = true → ok' = true → injectUnit c unit.toNat = true → injectState u c unit.toNat arg = true →
          injAt s c ≠ none ∨ armedCount s < 16 → Accepts i s r (setInj u c (some {
            periodic := per, unit := unit, arg := arg, period := period, fireAt := ⟨(now s).count + 1, 0x8000⟩, left := left })))
      arms (.oneShot r code 0 unit arg period count) false (some 1) (injectFields c false 0 arg period count) ∧
      arms (.periodic r code 0 unit arg period count) true (if count = 0 then none else some count.toNat)
        (injectFields c true 0 arg period count) ∧
      (ev.injOn = true → Accepts (.injectCancel r code) s r (setInj u c none)) ∧
      (ev.injOn = false → Refuses (.injectCancel r code) s r eInject)) ∧
    (injAt s c = none → exec (.injectionFire code) s = .next s) ∧
    (∀ i, injAt s c = some i →
      let v := useFiring s c i
      let w : State := { v with events := { v.events with fired := satInc31 ev.fired } }
      (isDue (now s) i.fireAt = false → exec (.injectionFire code) s = .next s) ∧
      (isDue (now s) i.fireAt = true →
        (s.power.ccDown ≠ none → exec (.injectionFire code) s = .next v) ∧
        (s.power.ccDown = none → coincides s c i.unit.toNat = true → exec (.injectionFire code) s = .next w) ∧
        (s.power.ccDown = none → coincides s c i.unit.toNat = false → inReaction s c i.unit.toNat i.arg = true →
          exec (.injectionFire code) s = .next { w with events := { w.events with suppressed := satInc31 ev.suppressed } }) ∧
        (let fires := s.power.ccDown = none ∧ coincides s c i.unit.toNat = false ∧ inReaction s c i.unit.toNat i.arg = false
         (fires → simulated.contains c = true → exec (.injectionFire code) s = .next (fireSimulated w c i.unit.toNat i.arg)) ∧
         (fires → simulated.contains c = false → exec (.injectionFire code) s = .next (fireGenuine w c i.unit.toNat i.arg))) ∧
        (s.power.ccDown = none → coincides s c i.unit.toNat = false → 0x2001 ≤ c → c ≤ 0x2007 → (eng s i.unit.toNat).state = .run → ∃ t, exec (.injectionFire code) s = .next t ∧
          (eng t i.unit.toNat).injFaults = (eng s i.unit.toNat).injFaults ++ [(c % 256, i.arg.toNat)])))

/-! ## Store, keys, firmware, life cycle -/

/-- R465, R469, R485 to R491: SAVE and its completion, ERASE_STORE, keys installed and deleted with the sessions they opened, the
firmware slots through READY, TRIAL, CONFIRM and back, and the life cycle's advances. -/
def Obligations.StoreCommands : Prop :=
  ∀ (s : State) (r : Req), s.mgmt.after = [] → Heard s r →
    let p := s.power
    let f := s.flash
    let u := taken s r
    let counts (t : State) (code : Nat) : Prop := tget 0 t.events.det code = satInc31 (tget 0 s.events.det code)
    let admitted (obj role : Nat) : Prop := role ≤ (session s r.sess).role ∧ dictAdmits s obj = true
    (admitted 0x0111 engineer → keylessBars s r = false →
      (p.saving = true → Refuses (.save r) s r eBusy) ∧
      (p.saving = false → Accepts (.save r) s r { u with
        flash := { f with writing := some (snapshot u) }, power := { p with saving := true } })) ∧
    (f.writing = none → ∀ b, exec (.saveComplete b) s = .next s) ∧
    (∀ c, f.writing = some c →
      (∃ t, exec (.saveComplete true) s = .next t ∧ t.flash.currentB = (!storeIsB f) ∧ t.power.saving = false ∧
        t.power.saveResult = eOK ∧ t.flash.savedEpoch = c.epoch ∧ currentStore t = { c with valid := true } ∧ t.cfg = s.cfg ∧
        (storeIsB f = true → t.flash.storeB = f.storeB) ∧ (storeIsB f = false → t.flash.storeA = f.storeA)) ∧
      (∃ t, exec (.saveComplete false) s = .next t ∧ t.flash = { f with writing := none } ∧ t.power.saving = false ∧
        t.power.saveResult = eIntegrity ∧ counts t 0x6007)) ∧
    (admitted 0x0111 custodian → keylessBars s r = false →
      (p.saving = true → Refuses (.eraseStore r) s r eBusy) ∧
      (p.saving = false → Accepts (.eraseStore r) s r { u with flash := { f with storeA := {}, storeB := {} } })) ∧
    (admitted 0x1210 custodian → Canon s → Tbl.wf [] s.heart.keys = true → ∀ (set idx : Byte) (m : List Byte),
      let inst : Instr := .keyInstall r set idx 0 m
      let del : Instr := .keyDelete r set idx 0 m
      let fields := 1 ≤ set.toNat ∧ set.toNat ≤ 5 ∧ idx.toNat ≤ (if set = 4 then 15 else 31) ∧ m.length = 64
      let ended (t : State) : Prop := ∀ j < 16, openedWith set idx (session s j) = true → (session t j).phase = 0
      (¬ fields ∨ (set ≠ 5 ∧ zeros (m.drop 40) = false) → Refuses inst s r eRange) ∧
      (¬ fields ∨ zeros m = false → Refuses del s r eRange) ∧
      (fields → set = 5 ∨ zeros (m.drop 40) = true → keysBarred s set = true → Refuses inst s r eState) ∧
      (fields → set = 5 ∨ zeros (m.drop 40) = true → keysBarred s set = false →
        match keyOf s r set m with
        | none => Refuses inst s r eIntegrity
        | some v => ∃ t, exec inst s = .next t ∧ tget [] t.heart.keys (keyAt set idx) = v ∧
            (∀ j, j ≠ keyAt set idx → tget [] t.heart.keys j = tget [] s.heart.keys j) ∧ t.flash.keyRecord = t.heart.keys ∧ ended t) ∧
      (fields → zeros m = true → ¬ (keysBarred s set = true ∧ s.fuses.life = .returned) →
        (tget [] s.heart.keys (keyAt set idx) = [] → Refuses del s r eNoElement) ∧
        (tget [] s.heart.keys (keyAt set idx) ≠ [] → set = 3 → keysHeld s 3 3 = 1 → Refuses del s r eConflict) ∧
        (tget [] s.heart.keys (keyAt set idx) ≠ [] → set ≠ 3 ∨ keysHeld s 3 3 ≠ 1 → ∃ t, exec del s = .next t ∧
          tget [] t.heart.keys (keyAt set idx) = [] ∧ (∀ j, j ≠ keyAt set idx → tget [] t.heart.keys j = tget [] s.heart.keys j) ∧
          t.flash.keyRecord = t.heart.keys ∧ ended t))) ∧
    (admitted 0x0140 custodian → keylessBars s r = false →
      (∀ image : List Byte,
        let ends (c : Word) (i : Byte) (t : State) : Prop :=
          exec (.fwImageWrite r image) s = .next (sendReply t r 5 1 c i (be 4 image.length))
        (p.fwState = .writing ∨ p.fwState = .trial → ends eState 0 u) ∧
        (p.fwState ≠ .writing → p.fwState ≠ .trial →
          (fwLayout image = false ∨ fwRollback s image = false → ends eRange 0 u) ∧
          (fwLayout image = true → fwRollback s image = true →
            if fwSigned image = false then ends eIntegrity 0 u
            else if BitVec.ofNat 8 (beAt image 6 1) ≠ ownCompat s ∧ p.compatChange = false then ends eConflict 0 u
            else ends eOK 0xFF { u with power := { setOtherSlot p {} with fwState := .writing, fwIncoming := some (fwSlotOf image) } }))) ∧
      (p.fwState ≠ .ready → Refuses (.activate r) s r eState) ∧
      (p.fwState = .ready → p.saving = true → Refuses (.activate r) s r eBusy) ∧
      (p.fwState = .ready → p.saving = false → coordinates u = true → Refuses (.activate r) s r eState) ∧
      (p.fwState = .ready → p.saving = false → coordinates u = false → ∃ t, exec (.activate r) s = .next t ∧ t.power.fwState = .trial ∧
        t.power.fwSlotB = (!p.fwSlotB) ∧ t.power.ccDown = some 2 ∧ t.fuses = s.fuses) ∧
      (p.fwState ≠ .trial → Refuses (.fwConfirm r) s r eState) ∧
      (p.fwState = .trial → ∃ t, Accepts (.fwConfirm r) s r t ∧ t.power = { p with fwPreferredB := p.fwSlotB, fwState := .idle } ∧
        t.fuses.rollbackMin.toNat = max s.fuses.rollbackMin.toNat (runSlot s).rollback.toNat ∧ t.fuses.life = s.fuses.life) ∧
      (p.fwState = .ready → Accepts (.discard r) s r { u with power := { setOtherSlot p {} with fwState := .idle } }) ∧
      (p.fwState = .trial → ∃ t, exec (.discard r) s = .next t ∧ t.power.fwState = .failed ∧ t.power.fwSlotB = (!p.fwSlotB)) ∧
      (p.fwState ≠ .ready → p.fwState ≠ .trial → Refuses (.discard r) s r eState)) ∧
    (∀ x, p.fwState = .writing → p.fwIncoming = some x →
      exec (.fwWriteComplete true) s = .next { s with
        power := { setOtherSlot p x with fwState := .ready, fwIncoming := none, fwResult := eOK } } ∧
      ∃ t, exec (.fwWriteComplete false) s = .next t ∧ counts t 0x6006 ∧
        t.power = { setOtherSlot p {} with fwState := .failed, fwIncoming := none, fwResult := eIntegrity }) ∧
    (let ended := passed s p.trialAt (1000 * s.cfg.power.trialS.toNat)
     (p.fwState = .trial → ended = true → ∃ t, exec .trialTimeout s = .next t ∧ t.power.fwState = .failed ∧
        t.power.fwSlotB = (!p.fwSlotB) ∧ t.power.ccDown = some 2 ∧ counts t 0x6006) ∧
     (p.fwState ≠ .trial ∨ ended = false → exec .trialTimeout s = .next s)) ∧
    (admitted 0x1200 custodian → (session s r.sess).keyless = false → ∀ target : Byte, target.toNat ≤ 4 →
      let cmd : Instr := .advance r target 0 Config.serial
      (mayAdvance s.fuses.life (lifeOf target) = false → Refuses cmd s r eState) ∧
      (mayAdvance s.fuses.life (lifeOf target) = true → Canon s → ∃ t, exec cmd s = .next t ∧ t.fuses = { s.fuses with life := lifeOf target } ∧
        t.heart.keys = [] ∧ t.heart.identity = [] ∧ (∀ j < 16, session t j = {}) ∧
        (lifeOf target = .returned → t.flash.storeA = {} ∧ t.flash.storeB = {} ∧ t.grove.holds = 0)))

/-! ## Power, resets, monitors -/

/-- R34, R36 to R38, R76, R271, R343, R473 to R484, R487, R504 to R509, R522: power states are changed at their boundaries, DORMANT
once QUIET's fade is over, a wake takes 40 ms, a reset leaves its cause and what boot flash and fuses keep, a boot with no accepted slot
waits in recovery, and the first boot after power-on measures the I/O banks, whose thresholds follow; each monitor wipes the keys and
stops the device in FAULT; a mismatch restarts the control core. -/
def Obligations.PowerCommands : Prop :=
  ∀ (s : State),
    let p := s.power
    let counts (t : State) (code : Nat) : Prop := tget 0 t.events.det code = satInc31 (tget 0 s.events.det code)
    let kept (t : State) : Prop := t.pending = s.pending ∧ t.fuses = s.fuses ∧ t.flash = { s.flash with writing := none } ∧
      t.engines = [] ∧ t.routes = [] ∧ t.cfg = {} ∧ t.events = {} ∧ t.power.dev = .booting ∧ t.epoch = 0
    let wiped (t : State) (cause : Nat) : Prop := t.heart.keys = [] ∧ t.heart.identity = [] ∧ t.heart.lastCause = cause ∧
      t.fuses.tamperCount = min 255 (s.fuses.tamperCount + 1) ∧ t.fuses.rollbackMin = s.fuses.rollbackMin ∧ counts t 0x7008
    (∀ r : Req, Served s r 0x0101 engineer →
      let u := taken s r
      let asks (i : Instr) (code : Nat) : Prop :=
        (devCode p.dev = code → Accepts i s r u) ∧
        (devCode p.dev ≠ code → p.dev ≠ .run → p.dev ≠ .quiet → p.dev ≠ .dormant → Refuses i s r eState) ∧
        (devCode p.dev ≠ code → p.dev = .run ∨ p.dev = .quiet ∨ p.dev = .dormant → code ≠ 4 ∨ dormantBars u = false →
          (p.wake = none → Accepts i s r
            { u with power := { p with req := code, pendingTo := some (code, periodFrom (mtPlus (now s) (4 * 65536))) } }) ∧
          (∀ c w, p.wake = some (c, w) → Accepts i s r { u with power := { p with req := code, wake := some (code, w) } }))
      asks (.run r) 2 ∧ asks (.quiet r) 3 ∧ asks (.dormant r) 4 ∧
      (p.dev = .run ∨ p.dev = .quiet → dormantBars u = true → Refuses (.dormant r) s r eState)) ∧
    (p.pendingTo = none → exec .powerTransition s = .next s) ∧
    (∀ code b, p.pendingTo = some (code, b) →
      (isDue (now s) b = false → exec .powerTransition s = .next s) ∧
      (isDue (now s) b = true →
        (p.dev = .run → code = 3 → ∃ t, exec .powerTransition s = .next t ∧
          t.power = { p with dev := .quiet, pendingTo := none, quietAt := now s } ∧
          (Canon s → ∀ k, (eng s k).state = .run → (eng t k).state = .gated ∧ (eng t k).before = .run)) ∧
        (p.dev = .quiet → code = 2 → ∃ t, exec .powerTransition s = .next t ∧ t.power = { p with dev := .run, pendingTo := none } ∧
          (Canon s → ∀ k, (eng s k).state = .gated → (eng s k).before = .run → (eng t k).state = .run ∧ (eng t k).stage = .none ∧
            (eng t k).ctx.pc = (eng s k).active.entry ∧ (eng t k).localRam = (eng s k).localRam)) ∧
        (p.dev = .run → code = 4 → ∃ t, exec .powerTransition s = .next t ∧
          t.power = { p with pendingTo := some (5, mtPlus b (64 * 65536)) }) ∧
        (let faded := mtPlus p.quietAt (64 * 65536)
         p.dev = .quiet → code = 4 → isDue (now s) faded = false →
          exec .powerTransition s = .next { s with power := { p with pendingTo := some (5, faded) } }) ∧
        (code = 5 ∧ (p.dev = .run ∨ p.dev = .quiet) ∨ (p.dev = .quiet ∧ code = 4 ∧ isDue (now s) (mtPlus p.quietAt (64 * 65536)) = true) → ∃ t, exec .powerTransition s = .next t ∧ t.power.dev = .dormant ∧
          t.power.vcoreBefore = p.vcoreMv ∧ t.power.dividerAt = some (now s) ∧ t.clocks.gateOpen = false ∧ t.clocks.ecpll = .off) ∧
        (p.dev = .dormant → ∃ t, exec .powerTransition s = .next t ∧ t.power.wake = some (code, b) ∧ t.power.dev = .dormant ∧
          t.power.vcoreMv = BitVec.ofNat 16 (min 780 (p.vcoreBefore.toNat + 20)) ∧ t.clocks.ecpll = .acquire ∧
          t.power.portsDue = some (mtPlus b (msUnits s 3)) ∧ t.power.dividerAt = some (now s) ∧
          (Canon s → ∀ k < 32, (cross t k).mem = [])))) ∧
    (∀ (g : Fin 14) (falling : Bool),
      let hit := p.dev = .dormant ∧ p.wake = none ∧ s.cfg.power.wakeGpio.toNat = g.val ∧ s.cfg.power.wakeEdge = (if falling then 1 else 0)
      (¬ hit → exec (.wakePin g falling) s = .next s) ∧
      (hit → exec (.wakePin g falling) s = .next { s with
        fresh := s.fresh + 1
        power := { p with pendingTo := some (2 + (Config.freeWord s.fresh).toNat % 2, boundaryFrom 3 (mtPlus (now s) 1)) } })) ∧
    (∀ code w, p.wake = some (code, w) → p.dev = .dormant → (now s).phase = 0 →
      (isDue (now s) (mtPlus w (msUnits s 40)) = false → exec .wakeComplete s = .next s) ∧
      (isDue (now s) (mtPlus w (msUnits s 40)) = true → ∃ t, exec .wakeComplete s = .next t ∧
        t.power = { p with wake := none, portsDue := none, dev := if code = 2 then .run else .quiet })) ∧
    (∀ r : Req, Served s r 0x0101 custodian → s.mgmt.after = [] → ∃ t, exec (.reset r) s = .next t ∧ kept t ∧ t.power.resetCause = 4 ∧
      t.power.resetCount = (satInc p.resetCount).1 ∧
      (let g := (sendReply (taken s r) r 2 1 eOK 0xFF []).mgmt
       t.mgmt = { outEth := g.outEth, outHq := g.outHq, outGrove := g.outGrove })) ∧
    (p.brown = false → ∃ t, exec .por s = .next t ∧ kept t ∧ t.mgmt = {} ∧ t.power.resetCause = 1) ∧
    (p.brown = true → ∃ t, exec .por s = .next t ∧ t.power.brown = false ∧
      t.power.held = (p.rstLow || s.jtag.scanHold) ∧ { t with power := p } = s) ∧
    (p.brown = false → ∃ t, exec .brownout s = .next t ∧ kept t ∧ t.mgmt = {} ∧ t.power.resetCause = 2 ∧ t.power.brown = true ∧ t.power.held = true) ∧
    (p.rstLow = false → ∃ t, exec (.resetN false) s = .next t ∧ kept t ∧ t.mgmt = {} ∧ t.power.resetCause = 3 ∧ t.power.held = true) ∧
    (∃ t, exec (.resetN true) s = .next t ∧ t.power.rstLow = false ∧ t.power.held = (p.brown || s.jtag.scanHold) ∧
      { t with power := p } = s) ∧
    (∀ (straps : BitVec 2) (failed bootMs : Long) (a b : Bool),
      let cmd : Instr := .boot straps failed bootMs a b
      let m := measureBanks s
      (p.dev ≠ .booting ∨ p.held = true → exec cmd s = .next s) ∧
      (p.dev = .booting → p.held = false → bootSlot s a b = none →
        exec cmd s = .next { m with power := { m.power with recovery := true } }) ∧
      (∀ x, p.dev = .booting → p.held = false → bootSlot s a b = some x → ∃ t, exec cmd s = .next t ∧ t.power.dev = .run ∧
        t.power.fwSlotB = x ∧ t.power.bootMs = bootMs ∧ t.power.engFail = failed ∧ t.power.recovery = false ∧ t.clocks.gateOpen = true ∧
        t.clocks.xoFreq = straps.toNat ∧ t.heart.identity = Config.identityKey Config.deviceSecret ∧ t.fuses = s.fuses ∧
        t.power.bankMv = m.power.bankMv ∧
        ((currentStore s).valid = true → t.cfg = (currentStore s).cfg) ∧ ((currentStore s).valid = false → t.cfg = s.cfg)) ∧
      (p.bankMv ≠ [] → m = s) ∧
      (p.bankMv = [] → { m with fresh := s.fresh, power := { m.power with bankMv := [] } } = s ∧
        (∀ i < 3, tget 0 m.power.bankMv i = 1800 ∨ tget 0 m.power.bankMv i = 2500 ∨ tget 0 m.power.bankMv i = 3300) ∧
        (tget 0 m.power.bankMv 3 = 1800 ∨ tget 0 m.power.bankMv 3 = 2500))) ∧
    (∀ i : Nat, let mv := tget 0 p.bankMv i
      (mv = 1800 → bankThresholds s i = some (1170, 630)) ∧ (mv = 2500 → bankThresholds s i = some (1700, 700)) ∧
      (mv = 3300 → bankThresholds s i = some (2000, 800))) ∧
    (p.held = false → exec .vcoreRaise s = .next { s with power := { p with vcoreMv := BitVec.ofNat 16 (min 780 (p.vcoreMv.toNat + 5)) } } ∧
      exec .vcoreLower s = .next { s with power := { p with vcoreMv := BitVec.ofNat 16 (max 620 (p.vcoreMv.toNat - 5)) } }) ∧
    (∀ m : Fin 16, (p.vcoreMv ≠ 780 → exec (.slackLimit m) s = .next s) ∧
      (p.vcoreMv = 780 → ∃ t, exec (.slackLimit m) s = .next t ∧ t.power = { p with slackEvents := satInc31 p.slackEvents } ∧ counts t 0x7002)) ∧
    (∃ t, exec .tamper s = .next t ∧ wiped t 1 ∧ counts t 0x7004 ∧ t.power.dev = p.dev) ∧
    (∀ b : Bool, running s = true → ∃ t, exec (.vmonTrip b) s = .next t ∧ wiped t 2 ∧ counts t 0x7005 ∧
      t.power.dev = .fault ∧ t.power.faultCause = 4 ∧ t.power.aonCause = 4) ∧
    (∀ mhz : Long, s.clocks.scpllLock = true → sclkDivided s = false →
      (∀ d, p.dividerAt = some d → passed s d 1 = false → exec (.cmonTrip mhz) s = .next s) ∧
      ((∀ d, p.dividerAt = some d → passed s d 1 = true) →
      (375 ≤ mhz.toNat → mhz.toNat ≤ 625 → exec (.cmonTrip mhz) s = .next s) ∧
      (mhz.toNat < 375 ∨ 625 < mhz.toNat → running s = true → ∃ t, exec (.cmonTrip mhz) s = .next t ∧ wiped t 3 ∧ counts t 0x7006 ∧
        t.power.dev = .fault ∧ t.power.faultCause = 5))) ∧
    (∀ tj : Word,
      (-55 ≤ tj.toInt → tj.toInt ≤ 125 → exec (.tmonTrip tj) s = .next s) ∧
      (tj.toInt < -55 ∨ 125 < tj.toInt → running s = true → ∃ t, exec (.tmonTrip tj) s = .next t ∧ wiped t 4 ∧ counts t 0x7007 ∧
        t.power.dev = .fault ∧ t.power.faultCause = 6 ∧ t.power.tjC = tj) ∧
      (p.tjArmed = true → 105 ≤ tj.toInt → ∃ t, exec (.tjWarning tj) s = .next t ∧ counts t 0x7003 ∧ t.power.tjArmed = false ∧
        t.power.tjC = tj) ∧
      (p.tjArmed = false ∨ tj.toInt < 105 → exec (.tjWarning tj) s = .next { s with
        power := { p with tjC := tj, tjMaxC := some (p.tjMaxC.elim tj (fun m => if m.toInt < tj.toInt then tj else m)) } })) ∧
    (exec .tjWarningRearm s = .next { s with power := { p with tjArmed := true } }) ∧
    (∀ cycle : Long, coreUp s = true →
      ((mismatchWindow s).length < 4 → p.fwState ≠ .trial → ∃ t, exec (.lockstep cycle) s = .next t ∧ t.power.ccDown = some 1 ∧
        counts t 0x6005 ∧ t.events.window = mismatchWindow s ++ [now s] ∧ t.mgmt.qEth = [] ∧ t.mgmt.qHq = [] ∧ t.mgmt.qGrove = []) ∧
      (4 ≤ (mismatchWindow s).length → running s = true → ∃ t, exec (.lockstep cycle) s = .next t ∧ t.power.dev = .fault ∧
        t.power.faultCause = 3 ∧ counts t 0x6005)) ∧
    (∀ cause, p.ccDown = some cause →
      (p.fwState = .trial → passed s p.ccAt 2000 = true → ∃ t, exec .trialDictionaryTimeout s = .next t ∧ t.power.fwState = .failed ∧
        t.power.fwSlotB = (!p.fwSlotB) ∧ counts t 0x6006) ∧
      (p.fwState ≠ .trial ∨ passed s p.ccAt 2000 = false → exec .trialDictionaryTimeout s = .next s) ∧
      (let stays := (p.dev = .fault ∧ (p.faultCause = 1 ∨ p.faultCause = 2 ∨ p.faultCause = 5)) ∨ (cause = 3 ∧ s.clocks.scpllLock = false)
       (stays → exec .ccRestart s = .next s) ∧
       (¬ stays → p.dev ≠ .booting → p.held = false → ∃ t, exec .ccRestart s = .next t ∧ t.power = { p with ccDown := none } ∧
        counts t 0x6004 ∧ t.events.hwq = [] ∧ t.events.hwOvf = 0)))

/-! ## JTAG and debug -/

/-- R166, R167, R492 to R497: every JTAG row selects its instruction, a code not listed selects BYPASS, and a selection other than EXTEST and
CLAMP ends the hold of boundary scan (that the rows act so is the model's reading, notes/assumptions/149); challenge and response; a debug
command that is LOCKED, out of RANGE or in the wrong STATE sets ERROR and does nothing else; one that is accepted ends the transfer before
it and has its effect; what reads and writes transfer through DBG_DATA. What is shifted into the boundary register, and the pins it
captures, are free values (notes/assumptions/180). -/
def Obligations.DebugCommands : Prop :=
  ∀ (s : State) (unit : Byte) (addr : BitVec 24) (count : Byte),
    let n := unit.toNat
    let v := selectIr s 0x12
    let e := eng s n
    let k := count.toNat + 1
    let words := (List.range k).map (fun i => addr.toNat + i)
    let clean := dropReads { v with jtag := { v.jtag with error := 0, xfer := none } }
    let fails (i : Instr) (c : Nat) : Prop := exec i s = .next { v with jtag := { v.jtag with error := c } }
    let does (i : Instr) (range accepted : Prop) (t : State) : Prop :=
      (debugOpen v = false → fails i 1) ∧ (debugOpen v = true → ¬ range → fails i 3) ∧
      (debugOpen v = true → range → ¬ accepted → fails i 2) ∧ (debugOpen v = true → range → accepted → exec i s = .next t)
    let transfer (write : Bool) (op left : Nat) (l : List Long) : State :=
      { clean with jtag := { v.jtag with error := 0, xfer := some ⟨write, op, n, addr.toNat, left, l, []⟩ } }
    let own := n < 32 ∧ addr = 0
    let bankRange := addr.toNat / 0x80000 = n ∧ addr.toNat % 0x80000 + k ≤ 0x80000
    let stopped := e.state = .debug ∨ e.state = .halted
    let goes (step : Bool) : Engine → Engine := fun e => { e with
      state := .sapling, running := true, stage := if e.atEnd then .none else .program, atEnd := false, haltByDebug := false
      stepReq := step, breakReq := false }
    let c := debugCtx clean n
    let regs := (List.range 64).flatMap (fun i => regValues c (if e.state = .debug then e.active.entry else c.pc) (addr.toNat + i))
    let registers := n < 32 ∧ addr.toNat < 0x100 ∧ regsThere 64 addr.toNat k = true
    let pcReached := ∃ i < 64, ((List.range i).map (fun j => regTransfers (addr.toNat + j))).sum < k ∧ addr.toNat + i = 0x3B
    ((∀ b < 32, ∀ q ∈ (bank v b).queue, q.who = 6 → q.write ≠ none) → clean = { v with jtag := { v.jtag with error := 0, xfer := none } }) ∧
    does (.breakEng unit addr count) own (e.state = .run ∨ (e.state = .sapling ∧ e.running = true))
      (modEng clean n (fun e => { e with breakReq := true })) ∧
    does (.step unit addr count) own stopped
      (if e.state = .debug then modEng clean n (fun e => { e with stepReq := true })
       else if e.haltByDebug then modEng clean n (goes true)
       else clean) ∧
    does (.resume unit addr count) own (e.state = .debug ∨ (e.state = .halted ∧ e.haltByDebug = true))
      (modEng clean n (fun e =>
        if e.state = .debug then { e with state := .run, stage := .none, prepared := false, stepReq := false, breakReq := false }
        else goes false e)) ∧
    does (.setBreak unit addr count) (n < 32 ∧ (addr.toNat < 0x4000 ∨ addr = 0xFFFF)) True
      (modEng clean n (fun e => { e with breakAddr := if addr = 0xFFFF then none else some addr.toNat })) ∧
    does (.readData unit addr count) (n < 32 ∧ addr.toNat < 0x10000) True
      (readyValues (debugEcc clean (words.flatMap (fun a => if a < 0x10000 then eccLocs clean n (BitVec.ofNat 16 a) else []))) 0x10 n addr.toNat
        (words.map (debugWord clean n))) ∧
    (n < 32 → addr.toNat < 0x8000 → count = 0 → eccMark clean (locOf 2 n addr.toNat) = 0 →
      debugOpen v = true → exec (.readData unit addr count) s =
        .next (transfer false 0x10 0 [(wordSeen clean n (BitVec.ofNat 16 addr.toNat)).setWidth 32])) ∧
    does (.writeData unit addr count) (n < 32 ∧ debugWritable addr.toNat k = true) (stopped ∨ e.state = .sapling) (transfer true 0x11 k []) ∧
    does (.readReg unit addr count) registers (stopped ∨ e.state = .sapling) (transfer false 0x12 0 (regs.take k)) ∧
    (addr.toNat < 0x2E → count = 0 → regs.take k = [(rW c addr.toNat).setWidth 32]) ∧
    does (.writeReg unit addr count) (registers ∧ ¬ pcReached) stopped (transfer true 0x13 k []) ∧
    (n < 32 → addr.toNat < 0x4000 → count = 0 → eccMark clean (locOf 1 n ((if e.actBank then 0x4000 else 0) + addr.toNat)) = 0 →
      debugOpen v = true →
      exec (.readProg unit addr count) s = .next (transfer false 0x14 0 [tget 0 e.active.words addr.toNat])) ∧
    (let first := addr.toNat % 0x4000
     let half := if e.actBank = addr.getLsbD 16 then 0 else 0x4000
     let held (a : Nat) : Option Nat := if a < 0x4000 then some (locOf 1 n (half + a)) else none
     let at' := (List.range k).map (fun i => first + i)
     let code := (if addr.getLsbD 16 then e.standby else e.active).words
     does (.readProg unit addr count) (n < 32 ∧ addr &&& 0xFEC000 = 0) True
       (readyValues (debugEcc clean (at'.filterMap held)) 0x14 n first
         (at'.map (fun a => if a < 0x4000 ∧ eccMark clean (locOf 1 n (half + a)) ≠ 2 then some (tget 0 code a) else none)))) ∧
    does (.writeDls unit addr count) bankRange ((bank s n).kind = 0) (transfer true 0x21 k []) ∧
    does (.readDls unit addr count) bankRange True
      (setBank (transfer false 0x20 k []) n { bank clean n with
        queue := (bank clean n).queue ++ (List.range k).map (fun i => ⟨6, addr.toNat % 0x80000 + i, 1, none⟩) }) ∧
    (∀ (valid : Bool) (data : Long),
      let cmd : Instr := .dbgData valid data
      let w := selectIr s 0x13
      let d := w.jtag
      (d.xfer = none → exec cmd s = .next { w with jtag := { d with dataOut := 0 } }) ∧
      (∀ x, d.xfer = some x → x.write = false → x.values = [] → exec cmd s = .next { w with jtag := { d with dataOut := 0 } }) ∧
      (∀ x a l, d.xfer = some x → x.write = false → x.values = a :: l → exec cmd s = .next { w with jtag := { d with
        dataOut := 1#1 ++ a
        xfer := if l = [] ∧ x.left ≤ 1 then none else some { x with values := l, left := x.left - 1 } } }) ∧
      (∀ x, d.xfer = some x → x.write = true → valid = false → exec cmd s = .next w) ∧
      (∀ x, d.xfer = some x → x.write = true → valid = true →
        let after (x : DbgXfer) : State := { w with jtag := { d with xfer := if x.left ≤ 1 then none else some { x with left := x.left - 1 } } }
        let error (t : State) (c : Nat) : State := { t with jtag := { t.jtag with error := c } }
        let moved := after { x with addr := x.addr + 1 }
        let part := x.part ++ [data]
        let whole := after { x with addr := x.addr + 1, part := [] }
        (x.op = 0x11 → exec cmd s = .next (if writesData (eng w x.unit) then
          storeWord moved x.unit (BitVec.ofNat 16 x.addr) (data.setWidth 16) else error moved 2)) ∧
        (x.op = 0x13 → part.length < regTransfers x.addr → exec cmd s = .next (after { x with part := part })) ∧
        (x.op = 0x13 → regTransfers x.addr ≤ part.length → exec cmd s = .next (
          if writesRegs (eng w x.unit) = false then error whole 2
          else if x.addr = 0x3C ∧ data.toNat / 2 % 4 = 3 then error whole 3
          else modEng whole x.unit (fun e => { e with ctx := writeRegValue e.ctx x.addr part }))) ∧
        (x.op = 0x21 → exec cmd s = .next (if ∃ q ∈ (bank w x.unit).queue, q.who = 6 then error w 5 else
          queueShared moved x.unit [⟨6, x.addr % 0x80000, 1, some [data.setWidth 16]⟩])))) ∧
    (let w := selectIr s 0x10
     let issues := s.fuses.life = .deployed ∧ w.jtag.nonce = none ∧ w.jtag.nonceUsed = false
     (¬ issues → exec .dbgChallenge s = .next w) ∧
     (issues → exec .dbgChallenge s = .next { w with
       fresh := s.fresh + 1, jtag := { w.jtag with nonce := some (Config.freeNonce 32 s.fresh) } })) ∧
    (∀ (a sig : List Byte), s.fuses.life = .deployed → s.jtag.nonce = some a →
      let w := selectIr s 0x11
      let good := unlockSigned s a sig && s.cfg.power.debugPermit
      ∃ t, exec (.dbgResponse sig) s = .next t ∧
        (good = true → t.jtag = { w.jtag with unlocked := true, unlockCount := satInc31 s.jtag.unlockCount } ∧
          tget 0 t.events.det 0x700A = satInc31 (tget 0 s.events.det 0x700A)) ∧
        (good = false → t = { w with jtag := { w.jtag with nonce := none, nonceUsed := true, failAt := now s } })) ∧
    (s.fuses.life ≠ .deployed ∨ s.jtag.nonce = none → ∀ sig, exec (.dbgResponse sig) s = .next (selectIr s 0x11)) ∧
    (s.jtag.nonceUsed = true → passed s s.jtag.failAt 1000 = true → exec .dbgNonceReissue s = .next { s with
      fresh := s.fresh + 1, jtag := { s.jtag with nonce := some (Config.freeNonce 32 s.fresh), nonceUsed := false } }) ∧
    (s.jtag.nonceUsed = false ∨ passed s s.jtag.failAt 1000 = false → exec .dbgNonceReissue s = .next s) ∧
    (let w := selectIr s 0x01
     exec .idcode s = .next { w with jtag := { w.jtag with idOut := Config.idcode } }) ∧
    (let w := selectIr s 0x02
     exec .samplePreload s = .next { w with
       fresh := s.fresh + 2
       jtag := { w.jtag with boundary := Config.boundaryCapture s.fresh, preload := Config.freeLong (s.fresh + 1) } }) ∧
    (∀ tdi : Bool,
      let w := selectIr s 0x1F
      exec (.bypass tdi) s = .next { w with jtag := { w.jtag with tdo := tdi } }) ∧
    (∀ code : BitVec 5, code ≠ 0x00 → code ≠ 0x03 →
      let listed := code.toNat = 1 ∨ code.toNat = 2 ∨ (0x10 ≤ code.toNat ∧ code.toNat ≤ 0x14)
      let ir := if listed then code else 0x1F
      (s.jtag.scanHold = false → selectIr s code = { s with jtag := { s.jtag with ir := ir } }) ∧
      (s.jtag.scanHold = true → selectIr s code = { s with
        jtag := { s.jtag with ir := ir, scanHold := false }, power := { s.power with held := s.power.brown || s.power.rstLow } })) ∧
    (∀ code : BitVec 5, s.jtag.scanHold = true → code = 0x00 ∨ code = 0x03 →
      selectIr s code = { s with jtag := { s.jtag with ir := code } }) ∧
    (exec (.extest true) s = .next (selectIr s 0x00)) ∧ (exec (.clamp true) s = .next (selectIr s 0x03)) ∧
    (exec (.extest false) s = .next (selectIr s 0x01)) ∧ (exec (.clamp false) s = .next (selectIr s 0x01)) ∧
    (∀ code : BitVec 5, s.jtag.scanHold = false → code = 0x00 ∨ code = 0x03 →
      let t := selectIr s code
      t.jtag.ir = code ∧ t.jtag.scanHold = true ∧ drivenPins t = some t.jtag.preload ∧ t.power.held = true ∧ t.power.dev = .booting ∧
      t.engines = [] ∧ t.power.resetCause = (Config.freeWord s.fresh).toNat ∧ t.fuses = s.fuses)

/-! ## The whole machine -/

/-- The model's own step (notes/assumptions/1.md): it takes the command at the front of the queue and runs it on the queue's rest; with
no command waiting, the oldest message in the FIFO of HQ is taken, else the request whose turn it is is executed (R459), else one phase
unit of media time passes where time runs and the period is not over. -/
def Obligations.StepRunsFront : Prop :=
  (∀ (s : State) (c : Instr), step { s with pending := c :: s.pending } = exec c s) ∧
  (∀ s : State, s.pending = [] →
    (∀ m l, s.mgmt.hqIn = m :: l → step s = .next (kmpIn { s with mgmt := { s.mgmt with hqIn := l } } .hq (some 0) 0 m)) ∧
    (s.mgmt.hqIn = [] →
      (nextRequest s.mgmt = none ∨ dictPresent s = false ∨ s.mgmt.lastStamp = some (now s) → ∃ t, step s = .next t ∧
        t.clocks.mt.count = s.clocks.mt.count ∧ s.clocks.mt.phase.toNat ≤ t.clocks.mt.phase.toNat ∧ { t with clocks := s.clocks } = s) ∧
      (∀ i r body, nextRequest s.mgmt = some (i, r, body) → dictPresent s = true → s.mgmt.lastStamp ≠ some (now s) →
        let x := session s r.sess
        (queueOf s.mgmt i).head? = some (r, body) ∧
        (x.phase = 2 → x.iface = i → x.cache.find? (fun c => decide (c.seq = r.seq)) = none → badBody body = none →
          (beAt body 0 1 = 1 → body.length = 6 → step s = exec (.read r (bodyObj body) (bodyElem body) (beAt body 1 1)) s) ∧
          (beAt body 0 1 = 2 → step s = exec (.write r (bodyObj body) (bodyElem body) (beAt body 1 1) (body.drop 6)) s)))))

/-- R42, R131, R307, R345, R430, R437, R464, R480: the machine right after reset: no command waits, BOOTING at media time 0, the clocks'
settings, engines, ports, links and streams at their defaults, BLANK fuses, and every table in its canonical form. -/
def Obligations.ResetLeaves : Prop :=
  let s := State.reset
  s.pending = [] ∧ s.power.dev = .booting ∧ now s = ⟨0, 0⟩ ∧ s.clocks.gateOpen = false ∧ s.epoch = 0 ∧ s.fuses.life = .blank ∧
  s.fuses.tamperCount = 0 ∧ s.heart.keys = [] ∧ s.cfg.groveId = 0 ∧ s.grove.role = .member ∧ s.grove.heardHops = 0xFF ∧
  s.grove.rootDevice = 0xFFFF ∧ s.mgmt.after = [] ∧ s.events.log = [] ∧ s.events.injOn = false ∧ Canon s ∧
  (∀ n : Nat, (eng s n).state = .idle ∧ (eng s n).ctx.inflight = [] ∧ (eng s n).localRam = [] ∧ engClass s n = 3) ∧
  (∀ g : Nat, (group s g).state = .empty) ∧ (∀ r : Nat, (route s r).state = .free) ∧
  (∀ p : Nat, (Machine.port s p).state = .off ∧ (portCfg s p).enable = false) ∧
  (∀ b : Nat, (bridge s b).ingress.state = .off ∧ (bridge s b).egress.state = .off) ∧
  (∀ l : Nat, (link s l).pathA.state = .off ∧ (linkCfg s l).enable = true ∧ (link s l).peerDev = 0xFFFF) ∧
  (∀ e : Nat, (stream s e).state = .free ∧ (stream s e).failDevice = 0xFFFF) ∧ (∀ k : Nat, (session s k).phase = 0)

/-- Every command is executed and leaves the queue of those that wait as it is; a failing management request leaves every part of the
machine as it was, but for the reply, its session, the counters of requests and refusals, and its place in the interface's queue (R457). -/
def Obligations.QueueUntouched : Prop :=
  (∀ (c : Instr) (s : State), ∃ t, exec c s = .next t ∧ t.pending = s.pending) ∧
  (∀ (s : State) (r : Req) (op n : Nat) (gate : State → Option (Word × Byte)) (body : State → Except Word (State × List Byte)),
    Heard s r → (∀ v, body (taken s r) ≠ .ok v) ∨ (∃ f, gate (taken s r) = some f) → ∃ c i, runRequest s r op n gate body =
      sendReply (taken s r) r op n c i [] ∧
      { runRequest s r op n gate body with mgmt := s.mgmt, clocks := s.clocks } = s)

/-- R271, R481, R486, R489, R490: no step, a reset included, unburns a fuse: the tamper count stays a count up to 255 and never falls,
the least acceptable ROLLBACK never falls, and a device in ENDED stays there. -/
def Obligations.FusesOnlyBurn : Prop :=
  ∀ (s t : State), s.fuses.tamperCount ≤ 255 → step s = .next t →
    t.fuses.tamperCount ≤ 255 ∧ s.fuses.tamperCount ≤ t.fuses.tamperCount ∧ s.fuses.rollbackMin.toNat ≤ t.fuses.rollbackMin.toNat ∧
    (s.fuses.life = .ended → (∀ a ∈ s.mgmt.after, ∀ x, a ≠ .advance x) →
      t.fuses.life = .ended ∧ ∀ a ∈ t.mgmt.after, ∀ x, a ≠ .advance x)

/-- Every step keeps every table of units and every memory in its one canonical form: keys strictly rising, nothing listed that an
unlisted key reads as. -/
def Obligations.CanonKept : Prop := ∀ (s t : State), Canon s → step s = .next t → Canon t
end

