-- ==== Sys2Proof/Laws/Table.lean ====
section
/-! SUPPORT. Sparse tables: what reads back after a write, and that every operation keeps the canonical form. -/
namespace Sys2Proof.Machine

variable {α : Type}

theorem tget_tput_self (d : α) (t : Tbl α) (k : Nat) (v : α) : tget d (tput t k v) k = v := by
  induction t with
  | nil => simp [tput, tget]
  | cons p t ih =>
    obtain ⟨j, u⟩ := p
    simp only [tput]
    split
    · simp [tget]
    · split
      · simp [tget]
      · simp [tget, *]

theorem tget_tput_ne (d : α) (t : Tbl α) {k i : Nat} (v : α) (h : i ≠ k) : tget d (tput t k v) i = tget d t i := by
  induction t with
  | nil => simp [tput, tget, Ne.symm h]
  | cons p t ih =>
    obtain ⟨j, u⟩ := p
    simp only [tput]
    split
    · next e => subst e; simp [tget, Ne.symm h]
    · split
      · simp [tget, Ne.symm h]
      · simp [tget, ih]

theorem tget_tdel_ne (d : α) (t : Tbl α) {k i : Nat} (h : i ≠ k) : tget d (tdel t k) i = tget d t i := by
  induction t with
  | nil => simp [tdel]
  | cons p t ih =>
    obtain ⟨j, u⟩ := p
    simp only [tdel]
    split
    · next e => subst e; simp [tget, Ne.symm h]
    · split
      · simp [tget]
      · simp [tget, ih]

theorem tdel_tput (t : Tbl α) (k : Nat) (v : α) : tdel (tput t k v) k = tdel t k := by
  induction t with
  | nil => simp [tput, tdel]
  | cons p t ih =>
    obtain ⟨j, u⟩ := p
    simp only [tput]
    split
    · next e => simp [tdel, e]
    · split
      · next h => simp [tdel, h, Nat.ne_of_gt h]
      · next h1 h2 => simp [tdel, h1, h2, ih]

theorem tput_tput (t : Tbl α) (k : Nat) (v w : α) : tput (tput t k v) k w = tput t k w := by
  induction t with
  | nil => simp [tput]
  | cons p t ih =>
    obtain ⟨j, u⟩ := p
    by_cases h : j = k
    · simp [tput, h]
    · by_cases h' : k < j
      · simp [tput, h, h']
      · simp [tput, h, h', ih]

variable [DecidableEq α]

theorem tget_tset_of_ne (d : α) (t : Tbl α) {k : Nat} {v : α} (h : v ≠ d) : tget d (tset d t k v) k = v := by
  simp [tset, h, tget_tput_self]

@[simp] theorem tget_tset_other (d : α) (t : Tbl α) {k i : Nat} (v : α) (h : i ≠ k) : tget d (tset d t k v) i = tget d t i := by
  simp only [tset]
  split
  · exact tget_tdel_ne d t h
  · exact tget_tput_ne d t v h

/-- A second write to a key that was listed with another value than the default replaces the first. -/
theorem tset_tset (d : α) (t : Tbl α) {k : Nat} {v : α} (w : α) (h : v ≠ d) : tset d (tset d t k v) k w = tset d t k w := by
  simp only [tset, h, if_false]
  split
  · exact tdel_tput t k v
  · exact tput_tput t k v w

/-! ## The canonical form -/

theorem Tbl.wfFrom_mono {d : α} {t : Tbl α} {a b : Nat} (h : a ≤ b) (w : Tbl.wfFrom d b t = true) : Tbl.wfFrom d a t = true := by
  cases t with
  | nil => rfl
  | cons p t =>
    simp only [Tbl.wfFrom, Bool.and_eq_true, decide_eq_true_eq] at w ⊢
    exact ⟨⟨Nat.le_trans h w.1.1, w.1.2⟩, w.2⟩

theorem tget_of_lt {d : α} {t : Tbl α} {a k : Nat} (h : k < a) (w : Tbl.wfFrom d a t = true) : tget d t k = d := by
  induction t generalizing a with
  | nil => rfl
  | cons p t ih =>
    obtain ⟨j, u⟩ := p
    simp only [Tbl.wfFrom, Bool.and_eq_true, decide_eq_true_eq] at w
    have hj : j ≠ k := by omega
    simp only [tget, hj, if_false]
    exact ih (a := j + 1) (by omega) w.2

theorem tdel_wfFrom {d : α} {t : Tbl α} {a : Nat} (k : Nat) (w : Tbl.wfFrom d a t = true) : Tbl.wfFrom d a (tdel t k) = true := by
  induction t generalizing a with
  | nil => rfl
  | cons p t ih =>
    obtain ⟨j, u⟩ := p
    have w' := w
    simp only [Tbl.wfFrom, Bool.and_eq_true, decide_eq_true_eq] at w'
    simp only [tdel]
    split
    · exact Tbl.wfFrom_mono (by omega) w'.2
    · split
      · exact w
      · simp only [Tbl.wfFrom, Bool.and_eq_true, decide_eq_true_eq]
        exact ⟨w'.1, ih w'.2⟩

theorem tput_wfFrom {d : α} {t : Tbl α} {a k : Nat} {v : α} (hk : a ≤ k) (hv : v ≠ d) (w : Tbl.wfFrom d a t = true) :
    Tbl.wfFrom d a (tput t k v) = true := by
  induction t generalizing a with
  | nil => simp [tput, Tbl.wfFrom, hk, hv]
  | cons p t ih =>
    obtain ⟨j, u⟩ := p
    have w' := w
    simp only [Tbl.wfFrom, Bool.and_eq_true, decide_eq_true_eq] at w'
    simp only [tput]
    split
    · next e => subst e; simp [Tbl.wfFrom, hk, hv, w'.2]
    · split
      · next h1 h2 =>
        simp only [Tbl.wfFrom, Bool.and_eq_true, decide_eq_true_eq]
        exact ⟨⟨hk, hv⟩, ⟨by omega, w'.1.2⟩, w'.2⟩
      · next h1 h2 =>
        simp only [Tbl.wfFrom, Bool.and_eq_true, decide_eq_true_eq]
        exact ⟨w'.1, ih (by omega) w'.2⟩

theorem tset_wf {d : α} {t : Tbl α} (k : Nat) (v : α) (w : Tbl.wf d t = true) : Tbl.wf d (tset d t k v) = true := by
  simp only [tset]
  split
  · exact tdel_wfFrom k w
  · next h => exact tput_wfFrom (Nat.zero_le k) h w

theorem tsetRun_wf {d : α} {t : Tbl α} (k : Nat) (l : List α) (w : Tbl.wf d t = true) : Tbl.wf d (tsetRun d t k l) = true := by
  induction l generalizing t k with
  | nil => exact w
  | cons v l ih => exact ih (k + 1) (tset_wf k v w)

theorem filter_wfFrom {d : α} {t : Tbl α} {a : Nat} (p : Nat × α → Bool) (w : Tbl.wfFrom d a t = true) :
    Tbl.wfFrom d a (t.filter p) = true := by
  induction t generalizing a with
  | nil => rfl
  | cons q t ih =>
    have w' := w
    obtain ⟨j, u⟩ := q
    simp only [Tbl.wfFrom, Bool.and_eq_true, decide_eq_true_eq] at w'
    by_cases h : p (j, u) = true
    · simp only [List.filter_cons, h, if_true, Tbl.wfFrom, Bool.and_eq_true, decide_eq_true_eq]
      exact ⟨w'.1, ih w'.2⟩
    · simp only [List.filter_cons, h]
      exact Tbl.wfFrom_mono (by omega) (ih w'.2)

theorem tget_tdel_self {d : α} {t : Tbl α} {k : Nat} (w : Tbl.wf d t = true) : tget d (tdel t k) k = d := by
  suffices h : ∀ a, Tbl.wfFrom d a t = true → tget d (tdel t k) k = d from h 0 w
  intro a
  induction t generalizing a with
  | nil => intro _; rfl
  | cons p t ih =>
    obtain ⟨j, u⟩ := p
    intro w
    have w' := w
    simp only [Tbl.wfFrom, Bool.and_eq_true, decide_eq_true_eq] at w'
    simp only [tdel]
    split
    · next e => subst e; exact tget_of_lt (Nat.lt_succ_self _) w'.2
    · split
      · next h1 h2 => simp only [tget, h1, if_false]; exact tget_of_lt (a := j + 1) (by omega) w'.2
      · next h1 h2 => simp only [tget, h1, if_false]; exact ih (Tbl.wfFrom_mono (Nat.zero_le _) w'.2) _ w'.2

/-- In a canonical table every write reads back. -/
theorem tget_tset_self {d : α} {t : Tbl α} {k : Nat} (v : α) (w : Tbl.wf d t = true) : tget d (tset d t k v) k = v := by
  by_cases h : v = d
  · simp only [tset, h, if_true]; exact tget_tdel_self w
  · exact tget_tset_of_ne d t h

/-- A write says all that a read can see of it. -/
theorem tget_tset {d : α} {t : Tbl α} (k i : Nat) (v : α) (w : Tbl.wf d t = true) :
    tget d (tset d t k v) i = if i = k then v else tget d t i := by
  by_cases h : i = k
  · subst h; simp [tget_tset_self v w]
  · simp [h]

end Sys2Proof.Machine
end

