-- ==== Sys2Proof/Laws/State.lean ====
section
/-! SUPPORT. What each update of State leaves: one lemma for each field and update, true by unfolding, and what is read back of a
unit after a write to its table. -/
namespace Sys2Proof.Machine

variable (s : State)

/-! ### setEng -/

@[simp] theorem setEng_pending (n : Nat) (v : Engine) : (setEng s n v).pending = s.pending := rfl
@[simp] theorem setEng_clocks (n : Nat) (v : Engine) : (setEng s n v).clocks = s.clocks := rfl
@[simp] theorem setEng_routes (n : Nat) (v : Engine) : (setEng s n v).routes = s.routes := rfl
@[simp] theorem setEng_tails (n : Nat) (v : Engine) : (setEng s n v).tails = s.tails := rfl
@[simp] theorem setEng_mem (n : Nat) (v : Engine) : (setEng s n v).mem = s.mem := rfl
@[simp] theorem setEng_groups (n : Nat) (v : Engine) : (setEng s n v).groups = s.groups := rfl
@[simp] theorem setEng_ports (n : Nat) (v : Engine) : (setEng s n v).ports = s.ports := rfl
@[simp] theorem setEng_bridges (n : Nat) (v : Engine) : (setEng s n v).bridges = s.bridges := rfl
@[simp] theorem setEng_links (n : Nat) (v : Engine) : (setEng s n v).links = s.links := rfl
@[simp] theorem setEng_grove (n : Nat) (v : Engine) : (setEng s n v).grove = s.grove := rfl
@[simp] theorem setEng_streams (n : Nat) (v : Engine) : (setEng s n v).streams = s.streams := rfl
@[simp] theorem setEng_leaving (n : Nat) (v : Engine) : (setEng s n v).leaving = s.leaving := rfl
@[simp] theorem setEng_mgmt (n : Nat) (v : Engine) : (setEng s n v).mgmt = s.mgmt := rfl
@[simp] theorem setEng_events (n : Nat) (v : Engine) : (setEng s n v).events = s.events := rfl
@[simp] theorem setEng_heart (n : Nat) (v : Engine) : (setEng s n v).heart = s.heart := rfl
@[simp] theorem setEng_power (n : Nat) (v : Engine) : (setEng s n v).power = s.power := rfl
@[simp] theorem setEng_jtag (n : Nat) (v : Engine) : (setEng s n v).jtag = s.jtag := rfl
@[simp] theorem setEng_fuses (n : Nat) (v : Engine) : (setEng s n v).fuses = s.fuses := rfl
@[simp] theorem setEng_flash (n : Nat) (v : Engine) : (setEng s n v).flash = s.flash := rfl
@[simp] theorem setEng_cfg (n : Nat) (v : Engine) : (setEng s n v).cfg = s.cfg := rfl
@[simp] theorem setEng_epoch (n : Nat) (v : Engine) : (setEng s n v).epoch = s.epoch := rfl
@[simp] theorem setEng_fresh (n : Nat) (v : Engine) : (setEng s n v).fresh = s.fresh := rfl
@[simp] theorem setEng_route (n : Nat) (v : Engine) (k : Nat) : route (setEng s n v) k = route s k := rfl
@[simp] theorem setEng_group (n : Nat) (v : Engine) (k : Nat) : group (setEng s n v) k = group s k := rfl
@[simp] theorem setEng_port (n : Nat) (v : Engine) (k : Nat) : port (setEng s n v) k = port s k := rfl
@[simp] theorem setEng_bridge (n : Nat) (v : Engine) (k : Nat) : bridge (setEng s n v) k = bridge s k := rfl
@[simp] theorem setEng_link (n : Nat) (v : Engine) (k : Nat) : link (setEng s n v) k = link s k := rfl
@[simp] theorem setEng_stream (n : Nat) (v : Engine) (k : Nat) : stream (setEng s n v) k = stream s k := rfl
@[simp] theorem setEng_bank (n : Nat) (v : Engine) (k : Nat) : bank (setEng s n v) k = bank s k := rfl
@[simp] theorem setEng_cross (n : Nat) (v : Engine) (k : Nat) : cross (setEng s n v) k = cross s k := rfl
@[simp] theorem setEng_session (n : Nat) (v : Engine) (k : Nat) : session (setEng s n v) k = session s k := rfl
@[simp] theorem setEng_portCfg (n : Nat) (v : Engine) (k : Nat) : portCfg (setEng s n v) k = portCfg s k := rfl
@[simp] theorem setEng_rbCfg (n : Nat) (v : Engine) (k : Nat) : rbCfg (setEng s n v) k = rbCfg s k := rfl
@[simp] theorem setEng_linkCfg (n : Nat) (v : Engine) (k : Nat) : linkCfg (setEng s n v) k = linkCfg s k := rfl
@[simp] theorem setEng_engClass (n : Nat) (v : Engine) (k : Nat) : engClass (setEng s n v) k = engClass s k := rfl
@[simp] theorem setEng_engPolicy (n : Nat) (v : Engine) (k : Nat) : engPolicy (setEng s n v) k = engPolicy s k := rfl
@[simp] theorem setEng_now (n : Nat) (v : Engine) : now (setEng s n v) = now s := rfl

/-! ### modEng -/

@[simp] theorem modEng_pending (n : Nat) (f : Engine → Engine) : (modEng s n f).pending = s.pending := rfl
@[simp] theorem modEng_clocks (n : Nat) (f : Engine → Engine) : (modEng s n f).clocks = s.clocks := rfl
@[simp] theorem modEng_routes (n : Nat) (f : Engine → Engine) : (modEng s n f).routes = s.routes := rfl
@[simp] theorem modEng_tails (n : Nat) (f : Engine → Engine) : (modEng s n f).tails = s.tails := rfl
@[simp] theorem modEng_mem (n : Nat) (f : Engine → Engine) : (modEng s n f).mem = s.mem := rfl
@[simp] theorem modEng_groups (n : Nat) (f : Engine → Engine) : (modEng s n f).groups = s.groups := rfl
@[simp] theorem modEng_ports (n : Nat) (f : Engine → Engine) : (modEng s n f).ports = s.ports := rfl
@[simp] theorem modEng_bridges (n : Nat) (f : Engine → Engine) : (modEng s n f).bridges = s.bridges := rfl
@[simp] theorem modEng_links (n : Nat) (f : Engine → Engine) : (modEng s n f).links = s.links := rfl
@[simp] theorem modEng_grove (n : Nat) (f : Engine → Engine) : (modEng s n f).grove = s.grove := rfl
@[simp] theorem modEng_streams (n : Nat) (f : Engine → Engine) : (modEng s n f).streams = s.streams := rfl
@[simp] theorem modEng_leaving (n : Nat) (f : Engine → Engine) : (modEng s n f).leaving = s.leaving := rfl
@[simp] theorem modEng_mgmt (n : Nat) (f : Engine → Engine) : (modEng s n f).mgmt = s.mgmt := rfl
@[simp] theorem modEng_events (n : Nat) (f : Engine → Engine) : (modEng s n f).events = s.events := rfl
@[simp] theorem modEng_heart (n : Nat) (f : Engine → Engine) : (modEng s n f).heart = s.heart := rfl
@[simp] theorem modEng_power (n : Nat) (f : Engine → Engine) : (modEng s n f).power = s.power := rfl
@[simp] theorem modEng_jtag (n : Nat) (f : Engine → Engine) : (modEng s n f).jtag = s.jtag := rfl
@[simp] theorem modEng_fuses (n : Nat) (f : Engine → Engine) : (modEng s n f).fuses = s.fuses := rfl
@[simp] theorem modEng_flash (n : Nat) (f : Engine → Engine) : (modEng s n f).flash = s.flash := rfl
@[simp] theorem modEng_cfg (n : Nat) (f : Engine → Engine) : (modEng s n f).cfg = s.cfg := rfl
@[simp] theorem modEng_epoch (n : Nat) (f : Engine → Engine) : (modEng s n f).epoch = s.epoch := rfl
@[simp] theorem modEng_fresh (n : Nat) (f : Engine → Engine) : (modEng s n f).fresh = s.fresh := rfl
@[simp] theorem modEng_route (n : Nat) (f : Engine → Engine) (k : Nat) : route (modEng s n f) k = route s k := rfl
@[simp] theorem modEng_group (n : Nat) (f : Engine → Engine) (k : Nat) : group (modEng s n f) k = group s k := rfl
@[simp] theorem modEng_port (n : Nat) (f : Engine → Engine) (k : Nat) : port (modEng s n f) k = port s k := rfl
@[simp] theorem modEng_bridge (n : Nat) (f : Engine → Engine) (k : Nat) : bridge (modEng s n f) k = bridge s k := rfl
@[simp] theorem modEng_link (n : Nat) (f : Engine → Engine) (k : Nat) : link (modEng s n f) k = link s k := rfl
@[simp] theorem modEng_stream (n : Nat) (f : Engine → Engine) (k : Nat) : stream (modEng s n f) k = stream s k := rfl
@[simp] theorem modEng_bank (n : Nat) (f : Engine → Engine) (k : Nat) : bank (modEng s n f) k = bank s k := rfl
@[simp] theorem modEng_cross (n : Nat) (f : Engine → Engine) (k : Nat) : cross (modEng s n f) k = cross s k := rfl
@[simp] theorem modEng_session (n : Nat) (f : Engine → Engine) (k : Nat) : session (modEng s n f) k = session s k := rfl
@[simp] theorem modEng_portCfg (n : Nat) (f : Engine → Engine) (k : Nat) : portCfg (modEng s n f) k = portCfg s k := rfl
@[simp] theorem modEng_rbCfg (n : Nat) (f : Engine → Engine) (k : Nat) : rbCfg (modEng s n f) k = rbCfg s k := rfl
@[simp] theorem modEng_linkCfg (n : Nat) (f : Engine → Engine) (k : Nat) : linkCfg (modEng s n f) k = linkCfg s k := rfl
@[simp] theorem modEng_engClass (n : Nat) (f : Engine → Engine) (k : Nat) : engClass (modEng s n f) k = engClass s k := rfl
@[simp] theorem modEng_engPolicy (n : Nat) (f : Engine → Engine) (k : Nat) : engPolicy (modEng s n f) k = engPolicy s k := rfl
@[simp] theorem modEng_now (n : Nat) (f : Engine → Engine) : now (modEng s n f) = now s := rfl

/-! ### setRoute -/

@[simp] theorem setRoute_pending (n : Nat) (v : Route) : (setRoute s n v).pending = s.pending := rfl
@[simp] theorem setRoute_clocks (n : Nat) (v : Route) : (setRoute s n v).clocks = s.clocks := rfl
@[simp] theorem setRoute_engines (n : Nat) (v : Route) : (setRoute s n v).engines = s.engines := rfl
@[simp] theorem setRoute_tails (n : Nat) (v : Route) : (setRoute s n v).tails = s.tails := rfl
@[simp] theorem setRoute_mem (n : Nat) (v : Route) : (setRoute s n v).mem = s.mem := rfl
@[simp] theorem setRoute_groups (n : Nat) (v : Route) : (setRoute s n v).groups = s.groups := rfl
@[simp] theorem setRoute_ports (n : Nat) (v : Route) : (setRoute s n v).ports = s.ports := rfl
@[simp] theorem setRoute_bridges (n : Nat) (v : Route) : (setRoute s n v).bridges = s.bridges := rfl
@[simp] theorem setRoute_links (n : Nat) (v : Route) : (setRoute s n v).links = s.links := rfl
@[simp] theorem setRoute_grove (n : Nat) (v : Route) : (setRoute s n v).grove = s.grove := rfl
@[simp] theorem setRoute_streams (n : Nat) (v : Route) : (setRoute s n v).streams = s.streams := rfl
@[simp] theorem setRoute_leaving (n : Nat) (v : Route) : (setRoute s n v).leaving = s.leaving := rfl
@[simp] theorem setRoute_mgmt (n : Nat) (v : Route) : (setRoute s n v).mgmt = s.mgmt := rfl
@[simp] theorem setRoute_events (n : Nat) (v : Route) : (setRoute s n v).events = s.events := rfl
@[simp] theorem setRoute_heart (n : Nat) (v : Route) : (setRoute s n v).heart = s.heart := rfl
@[simp] theorem setRoute_power (n : Nat) (v : Route) : (setRoute s n v).power = s.power := rfl
@[simp] theorem setRoute_jtag (n : Nat) (v : Route) : (setRoute s n v).jtag = s.jtag := rfl
@[simp] theorem setRoute_fuses (n : Nat) (v : Route) : (setRoute s n v).fuses = s.fuses := rfl
@[simp] theorem setRoute_flash (n : Nat) (v : Route) : (setRoute s n v).flash = s.flash := rfl
@[simp] theorem setRoute_cfg (n : Nat) (v : Route) : (setRoute s n v).cfg = s.cfg := rfl
@[simp] theorem setRoute_epoch (n : Nat) (v : Route) : (setRoute s n v).epoch = s.epoch := rfl
@[simp] theorem setRoute_fresh (n : Nat) (v : Route) : (setRoute s n v).fresh = s.fresh := rfl
@[simp] theorem setRoute_eng (n : Nat) (v : Route) (k : Nat) : eng (setRoute s n v) k = eng s k := rfl
@[simp] theorem setRoute_group (n : Nat) (v : Route) (k : Nat) : group (setRoute s n v) k = group s k := rfl
@[simp] theorem setRoute_port (n : Nat) (v : Route) (k : Nat) : port (setRoute s n v) k = port s k := rfl
@[simp] theorem setRoute_bridge (n : Nat) (v : Route) (k : Nat) : bridge (setRoute s n v) k = bridge s k := rfl
@[simp] theorem setRoute_link (n : Nat) (v : Route) (k : Nat) : link (setRoute s n v) k = link s k := rfl
@[simp] theorem setRoute_stream (n : Nat) (v : Route) (k : Nat) : stream (setRoute s n v) k = stream s k := rfl
@[simp] theorem setRoute_bank (n : Nat) (v : Route) (k : Nat) : bank (setRoute s n v) k = bank s k := rfl
@[simp] theorem setRoute_cross (n : Nat) (v : Route) (k : Nat) : cross (setRoute s n v) k = cross s k := rfl
@[simp] theorem setRoute_session (n : Nat) (v : Route) (k : Nat) : session (setRoute s n v) k = session s k := rfl
@[simp] theorem setRoute_portCfg (n : Nat) (v : Route) (k : Nat) : portCfg (setRoute s n v) k = portCfg s k := rfl
@[simp] theorem setRoute_rbCfg (n : Nat) (v : Route) (k : Nat) : rbCfg (setRoute s n v) k = rbCfg s k := rfl
@[simp] theorem setRoute_linkCfg (n : Nat) (v : Route) (k : Nat) : linkCfg (setRoute s n v) k = linkCfg s k := rfl
@[simp] theorem setRoute_engClass (n : Nat) (v : Route) (k : Nat) : engClass (setRoute s n v) k = engClass s k := rfl
@[simp] theorem setRoute_engPolicy (n : Nat) (v : Route) (k : Nat) : engPolicy (setRoute s n v) k = engPolicy s k := rfl
@[simp] theorem setRoute_now (n : Nat) (v : Route) : now (setRoute s n v) = now s := rfl

/-! ### setGroup -/

@[simp] theorem setGroup_pending (n : Nat) (v : Group) : (setGroup s n v).pending = s.pending := rfl
@[simp] theorem setGroup_clocks (n : Nat) (v : Group) : (setGroup s n v).clocks = s.clocks := rfl
@[simp] theorem setGroup_engines (n : Nat) (v : Group) : (setGroup s n v).engines = s.engines := rfl
@[simp] theorem setGroup_routes (n : Nat) (v : Group) : (setGroup s n v).routes = s.routes := rfl
@[simp] theorem setGroup_tails (n : Nat) (v : Group) : (setGroup s n v).tails = s.tails := rfl
@[simp] theorem setGroup_mem (n : Nat) (v : Group) : (setGroup s n v).mem = s.mem := rfl
@[simp] theorem setGroup_ports (n : Nat) (v : Group) : (setGroup s n v).ports = s.ports := rfl
@[simp] theorem setGroup_bridges (n : Nat) (v : Group) : (setGroup s n v).bridges = s.bridges := rfl
@[simp] theorem setGroup_links (n : Nat) (v : Group) : (setGroup s n v).links = s.links := rfl
@[simp] theorem setGroup_grove (n : Nat) (v : Group) : (setGroup s n v).grove = s.grove := rfl
@[simp] theorem setGroup_streams (n : Nat) (v : Group) : (setGroup s n v).streams = s.streams := rfl
@[simp] theorem setGroup_leaving (n : Nat) (v : Group) : (setGroup s n v).leaving = s.leaving := rfl
@[simp] theorem setGroup_mgmt (n : Nat) (v : Group) : (setGroup s n v).mgmt = s.mgmt := rfl
@[simp] theorem setGroup_events (n : Nat) (v : Group) : (setGroup s n v).events = s.events := rfl
@[simp] theorem setGroup_heart (n : Nat) (v : Group) : (setGroup s n v).heart = s.heart := rfl
@[simp] theorem setGroup_power (n : Nat) (v : Group) : (setGroup s n v).power = s.power := rfl
@[simp] theorem setGroup_jtag (n : Nat) (v : Group) : (setGroup s n v).jtag = s.jtag := rfl
@[simp] theorem setGroup_fuses (n : Nat) (v : Group) : (setGroup s n v).fuses = s.fuses := rfl
@[simp] theorem setGroup_flash (n : Nat) (v : Group) : (setGroup s n v).flash = s.flash := rfl
@[simp] theorem setGroup_cfg (n : Nat) (v : Group) : (setGroup s n v).cfg = s.cfg := rfl
@[simp] theorem setGroup_epoch (n : Nat) (v : Group) : (setGroup s n v).epoch = s.epoch := rfl
@[simp] theorem setGroup_fresh (n : Nat) (v : Group) : (setGroup s n v).fresh = s.fresh := rfl
@[simp] theorem setGroup_eng (n : Nat) (v : Group) (k : Nat) : eng (setGroup s n v) k = eng s k := rfl
@[simp] theorem setGroup_route (n : Nat) (v : Group) (k : Nat) : route (setGroup s n v) k = route s k := rfl
@[simp] theorem setGroup_port (n : Nat) (v : Group) (k : Nat) : port (setGroup s n v) k = port s k := rfl
@[simp] theorem setGroup_bridge (n : Nat) (v : Group) (k : Nat) : bridge (setGroup s n v) k = bridge s k := rfl
@[simp] theorem setGroup_link (n : Nat) (v : Group) (k : Nat) : link (setGroup s n v) k = link s k := rfl
@[simp] theorem setGroup_stream (n : Nat) (v : Group) (k : Nat) : stream (setGroup s n v) k = stream s k := rfl
@[simp] theorem setGroup_bank (n : Nat) (v : Group) (k : Nat) : bank (setGroup s n v) k = bank s k := rfl
@[simp] theorem setGroup_cross (n : Nat) (v : Group) (k : Nat) : cross (setGroup s n v) k = cross s k := rfl
@[simp] theorem setGroup_session (n : Nat) (v : Group) (k : Nat) : session (setGroup s n v) k = session s k := rfl
@[simp] theorem setGroup_portCfg (n : Nat) (v : Group) (k : Nat) : portCfg (setGroup s n v) k = portCfg s k := rfl
@[simp] theorem setGroup_rbCfg (n : Nat) (v : Group) (k : Nat) : rbCfg (setGroup s n v) k = rbCfg s k := rfl
@[simp] theorem setGroup_linkCfg (n : Nat) (v : Group) (k : Nat) : linkCfg (setGroup s n v) k = linkCfg s k := rfl
@[simp] theorem setGroup_engClass (n : Nat) (v : Group) (k : Nat) : engClass (setGroup s n v) k = engClass s k := rfl
@[simp] theorem setGroup_engPolicy (n : Nat) (v : Group) (k : Nat) : engPolicy (setGroup s n v) k = engPolicy s k := rfl
@[simp] theorem setGroup_now (n : Nat) (v : Group) : now (setGroup s n v) = now s := rfl

/-! ### setPort -/

@[simp] theorem setPort_pending (n : Nat) (v : Port) : (setPort s n v).pending = s.pending := rfl
@[simp] theorem setPort_clocks (n : Nat) (v : Port) : (setPort s n v).clocks = s.clocks := rfl
@[simp] theorem setPort_engines (n : Nat) (v : Port) : (setPort s n v).engines = s.engines := rfl
@[simp] theorem setPort_routes (n : Nat) (v : Port) : (setPort s n v).routes = s.routes := rfl
@[simp] theorem setPort_tails (n : Nat) (v : Port) : (setPort s n v).tails = s.tails := rfl
@[simp] theorem setPort_mem (n : Nat) (v : Port) : (setPort s n v).mem = s.mem := rfl
@[simp] theorem setPort_groups (n : Nat) (v : Port) : (setPort s n v).groups = s.groups := rfl
@[simp] theorem setPort_bridges (n : Nat) (v : Port) : (setPort s n v).bridges = s.bridges := rfl
@[simp] theorem setPort_links (n : Nat) (v : Port) : (setPort s n v).links = s.links := rfl
@[simp] theorem setPort_grove (n : Nat) (v : Port) : (setPort s n v).grove = s.grove := rfl
@[simp] theorem setPort_streams (n : Nat) (v : Port) : (setPort s n v).streams = s.streams := rfl
@[simp] theorem setPort_leaving (n : Nat) (v : Port) : (setPort s n v).leaving = s.leaving := rfl
@[simp] theorem setPort_mgmt (n : Nat) (v : Port) : (setPort s n v).mgmt = s.mgmt := rfl
@[simp] theorem setPort_events (n : Nat) (v : Port) : (setPort s n v).events = s.events := rfl
@[simp] theorem setPort_heart (n : Nat) (v : Port) : (setPort s n v).heart = s.heart := rfl
@[simp] theorem setPort_power (n : Nat) (v : Port) : (setPort s n v).power = s.power := rfl
@[simp] theorem setPort_jtag (n : Nat) (v : Port) : (setPort s n v).jtag = s.jtag := rfl
@[simp] theorem setPort_fuses (n : Nat) (v : Port) : (setPort s n v).fuses = s.fuses := rfl
@[simp] theorem setPort_flash (n : Nat) (v : Port) : (setPort s n v).flash = s.flash := rfl
@[simp] theorem setPort_cfg (n : Nat) (v : Port) : (setPort s n v).cfg = s.cfg := rfl
@[simp] theorem setPort_epoch (n : Nat) (v : Port) : (setPort s n v).epoch = s.epoch := rfl
@[simp] theorem setPort_fresh (n : Nat) (v : Port) : (setPort s n v).fresh = s.fresh := rfl
@[simp] theorem setPort_eng (n : Nat) (v : Port) (k : Nat) : eng (setPort s n v) k = eng s k := rfl
@[simp] theorem setPort_route (n : Nat) (v : Port) (k : Nat) : route (setPort s n v) k = route s k := rfl
@[simp] theorem setPort_group (n : Nat) (v : Port) (k : Nat) : group (setPort s n v) k = group s k := rfl
@[simp] theorem setPort_bridge (n : Nat) (v : Port) (k : Nat) : bridge (setPort s n v) k = bridge s k := rfl
@[simp] theorem setPort_link (n : Nat) (v : Port) (k : Nat) : link (setPort s n v) k = link s k := rfl
@[simp] theorem setPort_stream (n : Nat) (v : Port) (k : Nat) : stream (setPort s n v) k = stream s k := rfl
@[simp] theorem setPort_bank (n : Nat) (v : Port) (k : Nat) : bank (setPort s n v) k = bank s k := rfl
@[simp] theorem setPort_cross (n : Nat) (v : Port) (k : Nat) : cross (setPort s n v) k = cross s k := rfl
@[simp] theorem setPort_session (n : Nat) (v : Port) (k : Nat) : session (setPort s n v) k = session s k := rfl
@[simp] theorem setPort_portCfg (n : Nat) (v : Port) (k : Nat) : portCfg (setPort s n v) k = portCfg s k := rfl
@[simp] theorem setPort_rbCfg (n : Nat) (v : Port) (k : Nat) : rbCfg (setPort s n v) k = rbCfg s k := rfl
@[simp] theorem setPort_linkCfg (n : Nat) (v : Port) (k : Nat) : linkCfg (setPort s n v) k = linkCfg s k := rfl
@[simp] theorem setPort_engClass (n : Nat) (v : Port) (k : Nat) : engClass (setPort s n v) k = engClass s k := rfl
@[simp] theorem setPort_engPolicy (n : Nat) (v : Port) (k : Nat) : engPolicy (setPort s n v) k = engPolicy s k := rfl
@[simp] theorem setPort_now (n : Nat) (v : Port) : now (setPort s n v) = now s := rfl

/-! ### setBridge -/

@[simp] theorem setBridge_pending (n : Nat) (v : Bridge) : (setBridge s n v).pending = s.pending := rfl
@[simp] theorem setBridge_clocks (n : Nat) (v : Bridge) : (setBridge s n v).clocks = s.clocks := rfl
@[simp] theorem setBridge_engines (n : Nat) (v : Bridge) : (setBridge s n v).engines = s.engines := rfl
@[simp] theorem setBridge_routes (n : Nat) (v : Bridge) : (setBridge s n v).routes = s.routes := rfl
@[simp] theorem setBridge_tails (n : Nat) (v : Bridge) : (setBridge s n v).tails = s.tails := rfl
@[simp] theorem setBridge_mem (n : Nat) (v : Bridge) : (setBridge s n v).mem = s.mem := rfl
@[simp] theorem setBridge_groups (n : Nat) (v : Bridge) : (setBridge s n v).groups = s.groups := rfl
@[simp] theorem setBridge_ports (n : Nat) (v : Bridge) : (setBridge s n v).ports = s.ports := rfl
@[simp] theorem setBridge_links (n : Nat) (v : Bridge) : (setBridge s n v).links = s.links := rfl
@[simp] theorem setBridge_grove (n : Nat) (v : Bridge) : (setBridge s n v).grove = s.grove := rfl
@[simp] theorem setBridge_streams (n : Nat) (v : Bridge) : (setBridge s n v).streams = s.streams := rfl
@[simp] theorem setBridge_leaving (n : Nat) (v : Bridge) : (setBridge s n v).leaving = s.leaving := rfl
@[simp] theorem setBridge_mgmt (n : Nat) (v : Bridge) : (setBridge s n v).mgmt = s.mgmt := rfl
@[simp] theorem setBridge_events (n : Nat) (v : Bridge) : (setBridge s n v).events = s.events := rfl
@[simp] theorem setBridge_heart (n : Nat) (v : Bridge) : (setBridge s n v).heart = s.heart := rfl
@[simp] theorem setBridge_power (n : Nat) (v : Bridge) : (setBridge s n v).power = s.power := rfl
@[simp] theorem setBridge_jtag (n : Nat) (v : Bridge) : (setBridge s n v).jtag = s.jtag := rfl
@[simp] theorem setBridge_fuses (n : Nat) (v : Bridge) : (setBridge s n v).fuses = s.fuses := rfl
@[simp] theorem setBridge_flash (n : Nat) (v : Bridge) : (setBridge s n v).flash = s.flash := rfl
@[simp] theorem setBridge_cfg (n : Nat) (v : Bridge) : (setBridge s n v).cfg = s.cfg := rfl
@[simp] theorem setBridge_epoch (n : Nat) (v : Bridge) : (setBridge s n v).epoch = s.epoch := rfl
@[simp] theorem setBridge_fresh (n : Nat) (v : Bridge) : (setBridge s n v).fresh = s.fresh := rfl
@[simp] theorem setBridge_eng (n : Nat) (v : Bridge) (k : Nat) : eng (setBridge s n v) k = eng s k := rfl
@[simp] theorem setBridge_route (n : Nat) (v : Bridge) (k : Nat) : route (setBridge s n v) k = route s k := rfl
@[simp] theorem setBridge_group (n : Nat) (v : Bridge) (k : Nat) : group (setBridge s n v) k = group s k := rfl
@[simp] theorem setBridge_port (n : Nat) (v : Bridge) (k : Nat) : port (setBridge s n v) k = port s k := rfl
@[simp] theorem setBridge_link (n : Nat) (v : Bridge) (k : Nat) : link (setBridge s n v) k = link s k := rfl
@[simp] theorem setBridge_stream (n : Nat) (v : Bridge) (k : Nat) : stream (setBridge s n v) k = stream s k := rfl
@[simp] theorem setBridge_bank (n : Nat) (v : Bridge) (k : Nat) : bank (setBridge s n v) k = bank s k := rfl
@[simp] theorem setBridge_cross (n : Nat) (v : Bridge) (k : Nat) : cross (setBridge s n v) k = cross s k := rfl
@[simp] theorem setBridge_session (n : Nat) (v : Bridge) (k : Nat) : session (setBridge s n v) k = session s k := rfl
@[simp] theorem setBridge_portCfg (n : Nat) (v : Bridge) (k : Nat) : portCfg (setBridge s n v) k = portCfg s k := rfl
@[simp] theorem setBridge_rbCfg (n : Nat) (v : Bridge) (k : Nat) : rbCfg (setBridge s n v) k = rbCfg s k := rfl
@[simp] theorem setBridge_linkCfg (n : Nat) (v : Bridge) (k : Nat) : linkCfg (setBridge s n v) k = linkCfg s k := rfl
@[simp] theorem setBridge_engClass (n : Nat) (v : Bridge) (k : Nat) : engClass (setBridge s n v) k = engClass s k := rfl
@[simp] theorem setBridge_engPolicy (n : Nat) (v : Bridge) (k : Nat) : engPolicy (setBridge s n v) k = engPolicy s k := rfl
@[simp] theorem setBridge_now (n : Nat) (v : Bridge) : now (setBridge s n v) = now s := rfl

/-! ### setLink -/

@[simp] theorem setLink_pending (n : Nat) (v : Link) : (setLink s n v).pending = s.pending := rfl
@[simp] theorem setLink_clocks (n : Nat) (v : Link) : (setLink s n v).clocks = s.clocks := rfl
@[simp] theorem setLink_engines (n : Nat) (v : Link) : (setLink s n v).engines = s.engines := rfl
@[simp] theorem setLink_routes (n : Nat) (v : Link) : (setLink s n v).routes = s.routes := rfl
@[simp] theorem setLink_tails (n : Nat) (v : Link) : (setLink s n v).tails = s.tails := rfl
@[simp] theorem setLink_mem (n : Nat) (v : Link) : (setLink s n v).mem = s.mem := rfl
@[simp] theorem setLink_groups (n : Nat) (v : Link) : (setLink s n v).groups = s.groups := rfl
@[simp] theorem setLink_ports (n : Nat) (v : Link) : (setLink s n v).ports = s.ports := rfl
@[simp] theorem setLink_bridges (n : Nat) (v : Link) : (setLink s n v).bridges = s.bridges := rfl
@[simp] theorem setLink_grove (n : Nat) (v : Link) : (setLink s n v).grove = s.grove := rfl
@[simp] theorem setLink_streams (n : Nat) (v : Link) : (setLink s n v).streams = s.streams := rfl
@[simp] theorem setLink_leaving (n : Nat) (v : Link) : (setLink s n v).leaving = s.leaving := rfl
@[simp] theorem setLink_mgmt (n : Nat) (v : Link) : (setLink s n v).mgmt = s.mgmt := rfl
@[simp] theorem setLink_events (n : Nat) (v : Link) : (setLink s n v).events = s.events := rfl
@[simp] theorem setLink_heart (n : Nat) (v : Link) : (setLink s n v).heart = s.heart := rfl
@[simp] theorem setLink_power (n : Nat) (v : Link) : (setLink s n v).power = s.power := rfl
@[simp] theorem setLink_jtag (n : Nat) (v : Link) : (setLink s n v).jtag = s.jtag := rfl
@[simp] theorem setLink_fuses (n : Nat) (v : Link) : (setLink s n v).fuses = s.fuses := rfl
@[simp] theorem setLink_flash (n : Nat) (v : Link) : (setLink s n v).flash = s.flash := rfl
@[simp] theorem setLink_cfg (n : Nat) (v : Link) : (setLink s n v).cfg = s.cfg := rfl
@[simp] theorem setLink_epoch (n : Nat) (v : Link) : (setLink s n v).epoch = s.epoch := rfl
@[simp] theorem setLink_fresh (n : Nat) (v : Link) : (setLink s n v).fresh = s.fresh := rfl
@[simp] theorem setLink_eng (n : Nat) (v : Link) (k : Nat) : eng (setLink s n v) k = eng s k := rfl
@[simp] theorem setLink_route (n : Nat) (v : Link) (k : Nat) : route (setLink s n v) k = route s k := rfl
@[simp] theorem setLink_group (n : Nat) (v : Link) (k : Nat) : group (setLink s n v) k = group s k := rfl
@[simp] theorem setLink_port (n : Nat) (v : Link) (k : Nat) : port (setLink s n v) k = port s k := rfl
@[simp] theorem setLink_bridge (n : Nat) (v : Link) (k : Nat) : bridge (setLink s n v) k = bridge s k := rfl
@[simp] theorem setLink_stream (n : Nat) (v : Link) (k : Nat) : stream (setLink s n v) k = stream s k := rfl
@[simp] theorem setLink_bank (n : Nat) (v : Link) (k : Nat) : bank (setLink s n v) k = bank s k := rfl
@[simp] theorem setLink_cross (n : Nat) (v : Link) (k : Nat) : cross (setLink s n v) k = cross s k := rfl
@[simp] theorem setLink_session (n : Nat) (v : Link) (k : Nat) : session (setLink s n v) k = session s k := rfl
@[simp] theorem setLink_portCfg (n : Nat) (v : Link) (k : Nat) : portCfg (setLink s n v) k = portCfg s k := rfl
@[simp] theorem setLink_rbCfg (n : Nat) (v : Link) (k : Nat) : rbCfg (setLink s n v) k = rbCfg s k := rfl
@[simp] theorem setLink_linkCfg (n : Nat) (v : Link) (k : Nat) : linkCfg (setLink s n v) k = linkCfg s k := rfl
@[simp] theorem setLink_engClass (n : Nat) (v : Link) (k : Nat) : engClass (setLink s n v) k = engClass s k := rfl
@[simp] theorem setLink_engPolicy (n : Nat) (v : Link) (k : Nat) : engPolicy (setLink s n v) k = engPolicy s k := rfl
@[simp] theorem setLink_now (n : Nat) (v : Link) : now (setLink s n v) = now s := rfl

/-! ### setStream -/

@[simp] theorem setStream_pending (n : Nat) (v : Stream) : (setStream s n v).pending = s.pending := rfl
@[simp] theorem setStream_clocks (n : Nat) (v : Stream) : (setStream s n v).clocks = s.clocks := rfl
@[simp] theorem setStream_engines (n : Nat) (v : Stream) : (setStream s n v).engines = s.engines := rfl
@[simp] theorem setStream_routes (n : Nat) (v : Stream) : (setStream s n v).routes = s.routes := rfl
@[simp] theorem setStream_tails (n : Nat) (v : Stream) : (setStream s n v).tails = s.tails := rfl
@[simp] theorem setStream_mem (n : Nat) (v : Stream) : (setStream s n v).mem = s.mem := rfl
@[simp] theorem setStream_groups (n : Nat) (v : Stream) : (setStream s n v).groups = s.groups := rfl
@[simp] theorem setStream_ports (n : Nat) (v : Stream) : (setStream s n v).ports = s.ports := rfl
@[simp] theorem setStream_bridges (n : Nat) (v : Stream) : (setStream s n v).bridges = s.bridges := rfl
@[simp] theorem setStream_links (n : Nat) (v : Stream) : (setStream s n v).links = s.links := rfl
@[simp] theorem setStream_grove (n : Nat) (v : Stream) : (setStream s n v).grove = s.grove := rfl
@[simp] theorem setStream_leaving (n : Nat) (v : Stream) : (setStream s n v).leaving = s.leaving := rfl
@[simp] theorem setStream_mgmt (n : Nat) (v : Stream) : (setStream s n v).mgmt = s.mgmt := rfl
@[simp] theorem setStream_events (n : Nat) (v : Stream) : (setStream s n v).events = s.events := rfl
@[simp] theorem setStream_heart (n : Nat) (v : Stream) : (setStream s n v).heart = s.heart := rfl
@[simp] theorem setStream_power (n : Nat) (v : Stream) : (setStream s n v).power = s.power := rfl
@[simp] theorem setStream_jtag (n : Nat) (v : Stream) : (setStream s n v).jtag = s.jtag := rfl
@[simp] theorem setStream_fuses (n : Nat) (v : Stream) : (setStream s n v).fuses = s.fuses := rfl
@[simp] theorem setStream_flash (n : Nat) (v : Stream) : (setStream s n v).flash = s.flash := rfl
@[simp] theorem setStream_cfg (n : Nat) (v : Stream) : (setStream s n v).cfg = s.cfg := rfl
@[simp] theorem setStream_epoch (n : Nat) (v : Stream) : (setStream s n v).epoch = s.epoch := rfl
@[simp] theorem setStream_fresh (n : Nat) (v : Stream) : (setStream s n v).fresh = s.fresh := rfl
@[simp] theorem setStream_eng (n : Nat) (v : Stream) (k : Nat) : eng (setStream s n v) k = eng s k := rfl
@[simp] theorem setStream_route (n : Nat) (v : Stream) (k : Nat) : route (setStream s n v) k = route s k := rfl
@[simp] theorem setStream_group (n : Nat) (v : Stream) (k : Nat) : group (setStream s n v) k = group s k := rfl
@[simp] theorem setStream_port (n : Nat) (v : Stream) (k : Nat) : port (setStream s n v) k = port s k := rfl
@[simp] theorem setStream_bridge (n : Nat) (v : Stream) (k : Nat) : bridge (setStream s n v) k = bridge s k := rfl
@[simp] theorem setStream_link (n : Nat) (v : Stream) (k : Nat) : link (setStream s n v) k = link s k := rfl
@[simp] theorem setStream_bank (n : Nat) (v : Stream) (k : Nat) : bank (setStream s n v) k = bank s k := rfl
@[simp] theorem setStream_cross (n : Nat) (v : Stream) (k : Nat) : cross (setStream s n v) k = cross s k := rfl
@[simp] theorem setStream_session (n : Nat) (v : Stream) (k : Nat) : session (setStream s n v) k = session s k := rfl
@[simp] theorem setStream_portCfg (n : Nat) (v : Stream) (k : Nat) : portCfg (setStream s n v) k = portCfg s k := rfl
@[simp] theorem setStream_rbCfg (n : Nat) (v : Stream) (k : Nat) : rbCfg (setStream s n v) k = rbCfg s k := rfl
@[simp] theorem setStream_linkCfg (n : Nat) (v : Stream) (k : Nat) : linkCfg (setStream s n v) k = linkCfg s k := rfl
@[simp] theorem setStream_engClass (n : Nat) (v : Stream) (k : Nat) : engClass (setStream s n v) k = engClass s k := rfl
@[simp] theorem setStream_engPolicy (n : Nat) (v : Stream) (k : Nat) : engPolicy (setStream s n v) k = engPolicy s k := rfl
@[simp] theorem setStream_now (n : Nat) (v : Stream) : now (setStream s n v) = now s := rfl

/-! ### setBank -/

@[simp] theorem setBank_pending (n : Nat) (v : Bank) : (setBank s n v).pending = s.pending := rfl
@[simp] theorem setBank_clocks (n : Nat) (v : Bank) : (setBank s n v).clocks = s.clocks := rfl
@[simp] theorem setBank_engines (n : Nat) (v : Bank) : (setBank s n v).engines = s.engines := rfl
@[simp] theorem setBank_routes (n : Nat) (v : Bank) : (setBank s n v).routes = s.routes := rfl
@[simp] theorem setBank_tails (n : Nat) (v : Bank) : (setBank s n v).tails = s.tails := rfl
@[simp] theorem setBank_groups (n : Nat) (v : Bank) : (setBank s n v).groups = s.groups := rfl
@[simp] theorem setBank_ports (n : Nat) (v : Bank) : (setBank s n v).ports = s.ports := rfl
@[simp] theorem setBank_bridges (n : Nat) (v : Bank) : (setBank s n v).bridges = s.bridges := rfl
@[simp] theorem setBank_links (n : Nat) (v : Bank) : (setBank s n v).links = s.links := rfl
@[simp] theorem setBank_grove (n : Nat) (v : Bank) : (setBank s n v).grove = s.grove := rfl
@[simp] theorem setBank_streams (n : Nat) (v : Bank) : (setBank s n v).streams = s.streams := rfl
@[simp] theorem setBank_leaving (n : Nat) (v : Bank) : (setBank s n v).leaving = s.leaving := rfl
@[simp] theorem setBank_mgmt (n : Nat) (v : Bank) : (setBank s n v).mgmt = s.mgmt := rfl
@[simp] theorem setBank_events (n : Nat) (v : Bank) : (setBank s n v).events = s.events := rfl
@[simp] theorem setBank_heart (n : Nat) (v : Bank) : (setBank s n v).heart = s.heart := rfl
@[simp] theorem setBank_power (n : Nat) (v : Bank) : (setBank s n v).power = s.power := rfl
@[simp] theorem setBank_jtag (n : Nat) (v : Bank) : (setBank s n v).jtag = s.jtag := rfl
@[simp] theorem setBank_fuses (n : Nat) (v : Bank) : (setBank s n v).fuses = s.fuses := rfl
@[simp] theorem setBank_flash (n : Nat) (v : Bank) : (setBank s n v).flash = s.flash := rfl
@[simp] theorem setBank_cfg (n : Nat) (v : Bank) : (setBank s n v).cfg = s.cfg := rfl
@[simp] theorem setBank_epoch (n : Nat) (v : Bank) : (setBank s n v).epoch = s.epoch := rfl
@[simp] theorem setBank_fresh (n : Nat) (v : Bank) : (setBank s n v).fresh = s.fresh := rfl
@[simp] theorem setBank_mem_cross (n : Nat) (v : Bank) : (setBank s n v).mem.cross = s.mem.cross := rfl
@[simp] theorem setBank_mem_ecc (n : Nat) (v : Bank) : (setBank s n v).mem.ecc = s.mem.ecc := rfl
@[simp] theorem setBank_mem_corr (n : Nat) (v : Bank) : (setBank s n v).mem.corr = s.mem.corr := rfl
@[simp] theorem setBank_mem_uncorr (n : Nat) (v : Bank) : (setBank s n v).mem.uncorr = s.mem.uncorr := rfl
@[simp] theorem setBank_mem_eccOvf (n : Nat) (v : Bank) : (setBank s n v).mem.eccOvf = s.mem.eccOvf := rfl
@[simp] theorem setBank_mem_lastLoc (n : Nat) (v : Bank) : (setBank s n v).mem.lastLoc = s.mem.lastLoc := rfl
@[simp] theorem setBank_mem_patrol (n : Nat) (v : Bank) : (setBank s n v).mem.patrol = s.mem.patrol := rfl
@[simp] theorem setBank_mem_sharedOut (n : Nat) (v : Bank) : (setBank s n v).mem.sharedOut = s.mem.sharedOut := rfl
@[simp] theorem setBank_eng (n : Nat) (v : Bank) (k : Nat) : eng (setBank s n v) k = eng s k := rfl
@[simp] theorem setBank_route (n : Nat) (v : Bank) (k : Nat) : route (setBank s n v) k = route s k := rfl
@[simp] theorem setBank_group (n : Nat) (v : Bank) (k : Nat) : group (setBank s n v) k = group s k := rfl
@[simp] theorem setBank_port (n : Nat) (v : Bank) (k : Nat) : port (setBank s n v) k = port s k := rfl
@[simp] theorem setBank_bridge (n : Nat) (v : Bank) (k : Nat) : bridge (setBank s n v) k = bridge s k := rfl
@[simp] theorem setBank_link (n : Nat) (v : Bank) (k : Nat) : link (setBank s n v) k = link s k := rfl
@[simp] theorem setBank_stream (n : Nat) (v : Bank) (k : Nat) : stream (setBank s n v) k = stream s k := rfl
@[simp] theorem setBank_cross (n : Nat) (v : Bank) (k : Nat) : cross (setBank s n v) k = cross s k := rfl
@[simp] theorem setBank_session (n : Nat) (v : Bank) (k : Nat) : session (setBank s n v) k = session s k := rfl
@[simp] theorem setBank_portCfg (n : Nat) (v : Bank) (k : Nat) : portCfg (setBank s n v) k = portCfg s k := rfl
@[simp] theorem setBank_rbCfg (n : Nat) (v : Bank) (k : Nat) : rbCfg (setBank s n v) k = rbCfg s k := rfl
@[simp] theorem setBank_linkCfg (n : Nat) (v : Bank) (k : Nat) : linkCfg (setBank s n v) k = linkCfg s k := rfl
@[simp] theorem setBank_engClass (n : Nat) (v : Bank) (k : Nat) : engClass (setBank s n v) k = engClass s k := rfl
@[simp] theorem setBank_engPolicy (n : Nat) (v : Bank) (k : Nat) : engPolicy (setBank s n v) k = engPolicy s k := rfl
@[simp] theorem setBank_now (n : Nat) (v : Bank) : now (setBank s n v) = now s := rfl

/-! ### setCross -/

@[simp] theorem setCross_pending (n : Nat) (v : Cross) : (setCross s n v).pending = s.pending := rfl
@[simp] theorem setCross_clocks (n : Nat) (v : Cross) : (setCross s n v).clocks = s.clocks := rfl
@[simp] theorem setCross_engines (n : Nat) (v : Cross) : (setCross s n v).engines = s.engines := rfl
@[simp] theorem setCross_routes (n : Nat) (v : Cross) : (setCross s n v).routes = s.routes := rfl
@[simp] theorem setCross_tails (n : Nat) (v : Cross) : (setCross s n v).tails = s.tails := rfl
@[simp] theorem setCross_groups (n : Nat) (v : Cross) : (setCross s n v).groups = s.groups := rfl
@[simp] theorem setCross_ports (n : Nat) (v : Cross) : (setCross s n v).ports = s.ports := rfl
@[simp] theorem setCross_bridges (n : Nat) (v : Cross) : (setCross s n v).bridges = s.bridges := rfl
@[simp] theorem setCross_links (n : Nat) (v : Cross) : (setCross s n v).links = s.links := rfl
@[simp] theorem setCross_grove (n : Nat) (v : Cross) : (setCross s n v).grove = s.grove := rfl
@[simp] theorem setCross_streams (n : Nat) (v : Cross) : (setCross s n v).streams = s.streams := rfl
@[simp] theorem setCross_leaving (n : Nat) (v : Cross) : (setCross s n v).leaving = s.leaving := rfl
@[simp] theorem setCross_mgmt (n : Nat) (v : Cross) : (setCross s n v).mgmt = s.mgmt := rfl
@[simp] theorem setCross_events (n : Nat) (v : Cross) : (setCross s n v).events = s.events := rfl
@[simp] theorem setCross_heart (n : Nat) (v : Cross) : (setCross s n v).heart = s.heart := rfl
@[simp] theorem setCross_power (n : Nat) (v : Cross) : (setCross s n v).power = s.power := rfl
@[simp] theorem setCross_jtag (n : Nat) (v : Cross) : (setCross s n v).jtag = s.jtag := rfl
@[simp] theorem setCross_fuses (n : Nat) (v : Cross) : (setCross s n v).fuses = s.fuses := rfl
@[simp] theorem setCross_flash (n : Nat) (v : Cross) : (setCross s n v).flash = s.flash := rfl
@[simp] theorem setCross_cfg (n : Nat) (v : Cross) : (setCross s n v).cfg = s.cfg := rfl
@[simp] theorem setCross_epoch (n : Nat) (v : Cross) : (setCross s n v).epoch = s.epoch := rfl
@[simp] theorem setCross_fresh (n : Nat) (v : Cross) : (setCross s n v).fresh = s.fresh := rfl
@[simp] theorem setCross_mem_banks (n : Nat) (v : Cross) : (setCross s n v).mem.banks = s.mem.banks := rfl
@[simp] theorem setCross_mem_ecc (n : Nat) (v : Cross) : (setCross s n v).mem.ecc = s.mem.ecc := rfl
@[simp] theorem setCross_mem_corr (n : Nat) (v : Cross) : (setCross s n v).mem.corr = s.mem.corr := rfl
@[simp] theorem setCross_mem_uncorr (n : Nat) (v : Cross) : (setCross s n v).mem.uncorr = s.mem.uncorr := rfl
@[simp] theorem setCross_mem_eccOvf (n : Nat) (v : Cross) : (setCross s n v).mem.eccOvf = s.mem.eccOvf := rfl
@[simp] theorem setCross_mem_lastLoc (n : Nat) (v : Cross) : (setCross s n v).mem.lastLoc = s.mem.lastLoc := rfl
@[simp] theorem setCross_mem_patrol (n : Nat) (v : Cross) : (setCross s n v).mem.patrol = s.mem.patrol := rfl
@[simp] theorem setCross_mem_sharedOut (n : Nat) (v : Cross) : (setCross s n v).mem.sharedOut = s.mem.sharedOut := rfl
@[simp] theorem setCross_eng (n : Nat) (v : Cross) (k : Nat) : eng (setCross s n v) k = eng s k := rfl
@[simp] theorem setCross_route (n : Nat) (v : Cross) (k : Nat) : route (setCross s n v) k = route s k := rfl
@[simp] theorem setCross_group (n : Nat) (v : Cross) (k : Nat) : group (setCross s n v) k = group s k := rfl
@[simp] theorem setCross_port (n : Nat) (v : Cross) (k : Nat) : port (setCross s n v) k = port s k := rfl
@[simp] theorem setCross_bridge (n : Nat) (v : Cross) (k : Nat) : bridge (setCross s n v) k = bridge s k := rfl
@[simp] theorem setCross_link (n : Nat) (v : Cross) (k : Nat) : link (setCross s n v) k = link s k := rfl
@[simp] theorem setCross_stream (n : Nat) (v : Cross) (k : Nat) : stream (setCross s n v) k = stream s k := rfl
@[simp] theorem setCross_bank (n : Nat) (v : Cross) (k : Nat) : bank (setCross s n v) k = bank s k := rfl
@[simp] theorem setCross_session (n : Nat) (v : Cross) (k : Nat) : session (setCross s n v) k = session s k := rfl
@[simp] theorem setCross_portCfg (n : Nat) (v : Cross) (k : Nat) : portCfg (setCross s n v) k = portCfg s k := rfl
@[simp] theorem setCross_rbCfg (n : Nat) (v : Cross) (k : Nat) : rbCfg (setCross s n v) k = rbCfg s k := rfl
@[simp] theorem setCross_linkCfg (n : Nat) (v : Cross) (k : Nat) : linkCfg (setCross s n v) k = linkCfg s k := rfl
@[simp] theorem setCross_engClass (n : Nat) (v : Cross) (k : Nat) : engClass (setCross s n v) k = engClass s k := rfl
@[simp] theorem setCross_engPolicy (n : Nat) (v : Cross) (k : Nat) : engPolicy (setCross s n v) k = engPolicy s k := rfl
@[simp] theorem setCross_now (n : Nat) (v : Cross) : now (setCross s n v) = now s := rfl

/-! ### setPatrol -/

@[simp] theorem setPatrol_pending (p : Patrol) : (setPatrol s p).pending = s.pending := rfl
@[simp] theorem setPatrol_clocks (p : Patrol) : (setPatrol s p).clocks = s.clocks := rfl
@[simp] theorem setPatrol_engines (p : Patrol) : (setPatrol s p).engines = s.engines := rfl
@[simp] theorem setPatrol_routes (p : Patrol) : (setPatrol s p).routes = s.routes := rfl
@[simp] theorem setPatrol_tails (p : Patrol) : (setPatrol s p).tails = s.tails := rfl
@[simp] theorem setPatrol_groups (p : Patrol) : (setPatrol s p).groups = s.groups := rfl
@[simp] theorem setPatrol_ports (p : Patrol) : (setPatrol s p).ports = s.ports := rfl
@[simp] theorem setPatrol_bridges (p : Patrol) : (setPatrol s p).bridges = s.bridges := rfl
@[simp] theorem setPatrol_links (p : Patrol) : (setPatrol s p).links = s.links := rfl
@[simp] theorem setPatrol_grove (p : Patrol) : (setPatrol s p).grove = s.grove := rfl
@[simp] theorem setPatrol_streams (p : Patrol) : (setPatrol s p).streams = s.streams := rfl
@[simp] theorem setPatrol_leaving (p : Patrol) : (setPatrol s p).leaving = s.leaving := rfl
@[simp] theorem setPatrol_mgmt (p : Patrol) : (setPatrol s p).mgmt = s.mgmt := rfl
@[simp] theorem setPatrol_events (p : Patrol) : (setPatrol s p).events = s.events := rfl
@[simp] theorem setPatrol_heart (p : Patrol) : (setPatrol s p).heart = s.heart := rfl
@[simp] theorem setPatrol_power (p : Patrol) : (setPatrol s p).power = s.power := rfl
@[simp] theorem setPatrol_jtag (p : Patrol) : (setPatrol s p).jtag = s.jtag := rfl
@[simp] theorem setPatrol_fuses (p : Patrol) : (setPatrol s p).fuses = s.fuses := rfl
@[simp] theorem setPatrol_flash (p : Patrol) : (setPatrol s p).flash = s.flash := rfl
@[simp] theorem setPatrol_cfg (p : Patrol) : (setPatrol s p).cfg = s.cfg := rfl
@[simp] theorem setPatrol_epoch (p : Patrol) : (setPatrol s p).epoch = s.epoch := rfl
@[simp] theorem setPatrol_fresh (p : Patrol) : (setPatrol s p).fresh = s.fresh := rfl
@[simp] theorem setPatrol_mem_banks (p : Patrol) : (setPatrol s p).mem.banks = s.mem.banks := rfl
@[simp] theorem setPatrol_mem_cross (p : Patrol) : (setPatrol s p).mem.cross = s.mem.cross := rfl
@[simp] theorem setPatrol_mem_ecc (p : Patrol) : (setPatrol s p).mem.ecc = s.mem.ecc := rfl
@[simp] theorem setPatrol_mem_corr (p : Patrol) : (setPatrol s p).mem.corr = s.mem.corr := rfl
@[simp] theorem setPatrol_mem_uncorr (p : Patrol) : (setPatrol s p).mem.uncorr = s.mem.uncorr := rfl
@[simp] theorem setPatrol_mem_eccOvf (p : Patrol) : (setPatrol s p).mem.eccOvf = s.mem.eccOvf := rfl
@[simp] theorem setPatrol_mem_lastLoc (p : Patrol) : (setPatrol s p).mem.lastLoc = s.mem.lastLoc := rfl
@[simp] theorem setPatrol_mem_sharedOut (p : Patrol) : (setPatrol s p).mem.sharedOut = s.mem.sharedOut := rfl
@[simp] theorem setPatrol_eng (p : Patrol) (k : Nat) : eng (setPatrol s p) k = eng s k := rfl
@[simp] theorem setPatrol_route (p : Patrol) (k : Nat) : route (setPatrol s p) k = route s k := rfl
@[simp] theorem setPatrol_group (p : Patrol) (k : Nat) : group (setPatrol s p) k = group s k := rfl
@[simp] theorem setPatrol_port (p : Patrol) (k : Nat) : port (setPatrol s p) k = port s k := rfl
@[simp] theorem setPatrol_bridge (p : Patrol) (k : Nat) : bridge (setPatrol s p) k = bridge s k := rfl
@[simp] theorem setPatrol_link (p : Patrol) (k : Nat) : link (setPatrol s p) k = link s k := rfl
@[simp] theorem setPatrol_stream (p : Patrol) (k : Nat) : stream (setPatrol s p) k = stream s k := rfl
@[simp] theorem setPatrol_bank (p : Patrol) (k : Nat) : bank (setPatrol s p) k = bank s k := rfl
@[simp] theorem setPatrol_cross (p : Patrol) (k : Nat) : cross (setPatrol s p) k = cross s k := rfl
@[simp] theorem setPatrol_session (p : Patrol) (k : Nat) : session (setPatrol s p) k = session s k := rfl
@[simp] theorem setPatrol_portCfg (p : Patrol) (k : Nat) : portCfg (setPatrol s p) k = portCfg s k := rfl
@[simp] theorem setPatrol_rbCfg (p : Patrol) (k : Nat) : rbCfg (setPatrol s p) k = rbCfg s k := rfl
@[simp] theorem setPatrol_linkCfg (p : Patrol) (k : Nat) : linkCfg (setPatrol s p) k = linkCfg s k := rfl
@[simp] theorem setPatrol_engClass (p : Patrol) (k : Nat) : engClass (setPatrol s p) k = engClass s k := rfl
@[simp] theorem setPatrol_engPolicy (p : Patrol) (k : Nat) : engPolicy (setPatrol s p) k = engPolicy s k := rfl
@[simp] theorem setPatrol_now (p : Patrol) : now (setPatrol s p) = now s := rfl

/-! ### setSession -/

@[simp] theorem setSession_pending (n : Nat) (v : Session) : (setSession s n v).pending = s.pending := rfl
@[simp] theorem setSession_clocks (n : Nat) (v : Session) : (setSession s n v).clocks = s.clocks := rfl
@[simp] theorem setSession_engines (n : Nat) (v : Session) : (setSession s n v).engines = s.engines := rfl
@[simp] theorem setSession_routes (n : Nat) (v : Session) : (setSession s n v).routes = s.routes := rfl
@[simp] theorem setSession_tails (n : Nat) (v : Session) : (setSession s n v).tails = s.tails := rfl
@[simp] theorem setSession_mem (n : Nat) (v : Session) : (setSession s n v).mem = s.mem := rfl
@[simp] theorem setSession_groups (n : Nat) (v : Session) : (setSession s n v).groups = s.groups := rfl
@[simp] theorem setSession_ports (n : Nat) (v : Session) : (setSession s n v).ports = s.ports := rfl
@[simp] theorem setSession_bridges (n : Nat) (v : Session) : (setSession s n v).bridges = s.bridges := rfl
@[simp] theorem setSession_links (n : Nat) (v : Session) : (setSession s n v).links = s.links := rfl
@[simp] theorem setSession_grove (n : Nat) (v : Session) : (setSession s n v).grove = s.grove := rfl
@[simp] theorem setSession_streams (n : Nat) (v : Session) : (setSession s n v).streams = s.streams := rfl
@[simp] theorem setSession_leaving (n : Nat) (v : Session) : (setSession s n v).leaving = s.leaving := rfl
@[simp] theorem setSession_events (n : Nat) (v : Session) : (setSession s n v).events = s.events := rfl
@[simp] theorem setSession_heart (n : Nat) (v : Session) : (setSession s n v).heart = s.heart := rfl
@[simp] theorem setSession_power (n : Nat) (v : Session) : (setSession s n v).power = s.power := rfl
@[simp] theorem setSession_jtag (n : Nat) (v : Session) : (setSession s n v).jtag = s.jtag := rfl
@[simp] theorem setSession_fuses (n : Nat) (v : Session) : (setSession s n v).fuses = s.fuses := rfl
@[simp] theorem setSession_flash (n : Nat) (v : Session) : (setSession s n v).flash = s.flash := rfl
@[simp] theorem setSession_cfg (n : Nat) (v : Session) : (setSession s n v).cfg = s.cfg := rfl
@[simp] theorem setSession_epoch (n : Nat) (v : Session) : (setSession s n v).epoch = s.epoch := rfl
@[simp] theorem setSession_fresh (n : Nat) (v : Session) : (setSession s n v).fresh = s.fresh := rfl
@[simp] theorem setSession_mgmt_heardAt (n : Nat) (v : Session) : (setSession s n v).mgmt.heardAt = s.mgmt.heardAt := rfl
@[simp] theorem setSession_mgmt_qEth (n : Nat) (v : Session) : (setSession s n v).mgmt.qEth = s.mgmt.qEth := rfl
@[simp] theorem setSession_mgmt_qHq (n : Nat) (v : Session) : (setSession s n v).mgmt.qHq = s.mgmt.qHq := rfl
@[simp] theorem setSession_mgmt_qGrove (n : Nat) (v : Session) : (setSession s n v).mgmt.qGrove = s.mgmt.qGrove := rfl
@[simp] theorem setSession_mgmt_lastServed (n : Nat) (v : Session) : (setSession s n v).mgmt.lastServed = s.mgmt.lastServed := rfl
@[simp] theorem setSession_mgmt_lastStamp (n : Nat) (v : Session) : (setSession s n v).mgmt.lastStamp = s.mgmt.lastStamp := rfl
@[simp] theorem setSession_mgmt_hqIn (n : Nat) (v : Session) : (setSession s n v).mgmt.hqIn = s.mgmt.hqIn := rfl
@[simp] theorem setSession_mgmt_hqGot (n : Nat) (v : Session) : (setSession s n v).mgmt.hqGot = s.mgmt.hqGot := rfl
@[simp] theorem setSession_mgmt_netLink (n : Nat) (v : Session) : (setSession s n v).mgmt.netLink = s.mgmt.netLink := rfl
@[simp] theorem setSession_mgmt_outEth (n : Nat) (v : Session) : (setSession s n v).mgmt.outEth = s.mgmt.outEth := rfl
@[simp] theorem setSession_mgmt_outHq (n : Nat) (v : Session) : (setSession s n v).mgmt.outHq = s.mgmt.outHq := rfl
@[simp] theorem setSession_mgmt_outGrove (n : Nat) (v : Session) : (setSession s n v).mgmt.outGrove = s.mgmt.outGrove := rfl
@[simp] theorem setSession_mgmt_hqDiscard (n : Nat) (v : Session) : (setSession s n v).mgmt.hqDiscard = s.mgmt.hqDiscard := rfl
@[simp] theorem setSession_mgmt_hqStatus (n : Nat) (v : Session) : (setSession s n v).mgmt.hqStatus = s.mgmt.hqStatus := rfl
@[simp] theorem setSession_mgmt_relays (n : Nat) (v : Session) : (setSession s n v).mgmt.relays = s.mgmt.relays := rfl
@[simp] theorem setSession_mgmt_authFail (n : Nat) (v : Session) : (setSession s n v).mgmt.authFail = s.mgmt.authFail := rfl
@[simp] theorem setSession_mgmt_authOvf (n : Nat) (v : Session) : (setSession s n v).mgmt.authOvf = s.mgmt.authOvf := rfl
@[simp] theorem setSession_mgmt_fails (n : Nat) (v : Session) : (setSession s n v).mgmt.fails = s.mgmt.fails := rfl
@[simp] theorem setSession_mgmt_lockout (n : Nat) (v : Session) : (setSession s n v).mgmt.lockout = s.mgmt.lockout := rfl
@[simp] theorem setSession_mgmt_stats (n : Nat) (v : Session) : (setSession s n v).mgmt.stats = s.mgmt.stats := rfl
@[simp] theorem setSession_mgmt_statsOvf (n : Nat) (v : Session) : (setSession s n v).mgmt.statsOvf = s.mgmt.statsOvf := rfl
@[simp] theorem setSession_mgmt_activeAddr (n : Nat) (v : Session) : (setSession s n v).mgmt.activeAddr = s.mgmt.activeAddr := rfl
@[simp] theorem setSession_mgmt_after (n : Nat) (v : Session) : (setSession s n v).mgmt.after = s.mgmt.after := rfl
@[simp] theorem setSession_eng (n : Nat) (v : Session) (k : Nat) : eng (setSession s n v) k = eng s k := rfl
@[simp] theorem setSession_route (n : Nat) (v : Session) (k : Nat) : route (setSession s n v) k = route s k := rfl
@[simp] theorem setSession_group (n : Nat) (v : Session) (k : Nat) : group (setSession s n v) k = group s k := rfl
@[simp] theorem setSession_port (n : Nat) (v : Session) (k : Nat) : port (setSession s n v) k = port s k := rfl
@[simp] theorem setSession_bridge (n : Nat) (v : Session) (k : Nat) : bridge (setSession s n v) k = bridge s k := rfl
@[simp] theorem setSession_link (n : Nat) (v : Session) (k : Nat) : link (setSession s n v) k = link s k := rfl
@[simp] theorem setSession_stream (n : Nat) (v : Session) (k : Nat) : stream (setSession s n v) k = stream s k := rfl
@[simp] theorem setSession_bank (n : Nat) (v : Session) (k : Nat) : bank (setSession s n v) k = bank s k := rfl
@[simp] theorem setSession_cross (n : Nat) (v : Session) (k : Nat) : cross (setSession s n v) k = cross s k := rfl
@[simp] theorem setSession_portCfg (n : Nat) (v : Session) (k : Nat) : portCfg (setSession s n v) k = portCfg s k := rfl
@[simp] theorem setSession_rbCfg (n : Nat) (v : Session) (k : Nat) : rbCfg (setSession s n v) k = rbCfg s k := rfl
@[simp] theorem setSession_linkCfg (n : Nat) (v : Session) (k : Nat) : linkCfg (setSession s n v) k = linkCfg s k := rfl
@[simp] theorem setSession_engClass (n : Nat) (v : Session) (k : Nat) : engClass (setSession s n v) k = engClass s k := rfl
@[simp] theorem setSession_engPolicy (n : Nat) (v : Session) (k : Nat) : engPolicy (setSession s n v) k = engPolicy s k := rfl
@[simp] theorem setSession_now (n : Nat) (v : Session) : now (setSession s n v) = now s := rfl

/-! ### setPortCfg -/

@[simp] theorem setPortCfg_pending (n : Nat) (v : PortCfg) : (setPortCfg s n v).pending = s.pending := rfl
@[simp] theorem setPortCfg_clocks (n : Nat) (v : PortCfg) : (setPortCfg s n v).clocks = s.clocks := rfl
@[simp] theorem setPortCfg_engines (n : Nat) (v : PortCfg) : (setPortCfg s n v).engines = s.engines := rfl
@[simp] theorem setPortCfg_routes (n : Nat) (v : PortCfg) : (setPortCfg s n v).routes = s.routes := rfl
@[simp] theorem setPortCfg_tails (n : Nat) (v : PortCfg) : (setPortCfg s n v).tails = s.tails := rfl
@[simp] theorem setPortCfg_mem (n : Nat) (v : PortCfg) : (setPortCfg s n v).mem = s.mem := rfl
@[simp] theorem setPortCfg_groups (n : Nat) (v : PortCfg) : (setPortCfg s n v).groups = s.groups := rfl
@[simp] theorem setPortCfg_ports (n : Nat) (v : PortCfg) : (setPortCfg s n v).ports = s.ports := rfl
@[simp] theorem setPortCfg_bridges (n : Nat) (v : PortCfg) : (setPortCfg s n v).bridges = s.bridges := rfl
@[simp] theorem setPortCfg_links (n : Nat) (v : PortCfg) : (setPortCfg s n v).links = s.links := rfl
@[simp] theorem setPortCfg_grove (n : Nat) (v : PortCfg) : (setPortCfg s n v).grove = s.grove := rfl
@[simp] theorem setPortCfg_streams (n : Nat) (v : PortCfg) : (setPortCfg s n v).streams = s.streams := rfl
@[simp] theorem setPortCfg_leaving (n : Nat) (v : PortCfg) : (setPortCfg s n v).leaving = s.leaving := rfl
@[simp] theorem setPortCfg_mgmt (n : Nat) (v : PortCfg) : (setPortCfg s n v).mgmt = s.mgmt := rfl
@[simp] theorem setPortCfg_events (n : Nat) (v : PortCfg) : (setPortCfg s n v).events = s.events := rfl
@[simp] theorem setPortCfg_heart (n : Nat) (v : PortCfg) : (setPortCfg s n v).heart = s.heart := rfl
@[simp] theorem setPortCfg_power (n : Nat) (v : PortCfg) : (setPortCfg s n v).power = s.power := rfl
@[simp] theorem setPortCfg_jtag (n : Nat) (v : PortCfg) : (setPortCfg s n v).jtag = s.jtag := rfl
@[simp] theorem setPortCfg_fuses (n : Nat) (v : PortCfg) : (setPortCfg s n v).fuses = s.fuses := rfl
@[simp] theorem setPortCfg_flash (n : Nat) (v : PortCfg) : (setPortCfg s n v).flash = s.flash := rfl
@[simp] theorem setPortCfg_epoch (n : Nat) (v : PortCfg) : (setPortCfg s n v).epoch = s.epoch := rfl
@[simp] theorem setPortCfg_fresh (n : Nat) (v : PortCfg) : (setPortCfg s n v).fresh = s.fresh := rfl
@[simp] theorem setPortCfg_cfg_clocks (n : Nat) (v : PortCfg) : (setPortCfg s n v).cfg.clocks = s.cfg.clocks := rfl
@[simp] theorem setPortCfg_cfg_engClass (n : Nat) (v : PortCfg) : (setPortCfg s n v).cfg.engClass = s.cfg.engClass := rfl
@[simp] theorem setPortCfg_cfg_engPolicy (n : Nat) (v : PortCfg) : (setPortCfg s n v).cfg.engPolicy = s.cfg.engPolicy := rfl
@[simp] theorem setPortCfg_cfg_bridges (n : Nat) (v : PortCfg) : (setPortCfg s n v).cfg.bridges = s.cfg.bridges := rfl
@[simp] theorem setPortCfg_cfg_links (n : Nat) (v : PortCfg) : (setPortCfg s n v).cfg.links = s.cfg.links := rfl
@[simp] theorem setPortCfg_cfg_priority (n : Nat) (v : PortCfg) : (setPortCfg s n v).cfg.priority = s.cfg.priority := rfl
@[simp] theorem setPortCfg_cfg_groveId (n : Nat) (v : PortCfg) : (setPortCfg s n v).cfg.groveId = s.cfg.groveId := rfl
@[simp] theorem setPortCfg_cfg_deviceNumber (n : Nat) (v : PortCfg) : (setPortCfg s n v).cfg.deviceNumber = s.cfg.deviceNumber := rfl
@[simp] theorem setPortCfg_cfg_sources (n : Nat) (v : PortCfg) : (setPortCfg s n v).cfg.sources = s.cfg.sources := rfl
@[simp] theorem setPortCfg_cfg_subs (n : Nat) (v : PortCfg) : (setPortCfg s n v).cfg.subs = s.cfg.subs := rfl
@[simp] theorem setPortCfg_cfg_patrolOn (n : Nat) (v : PortCfg) : (setPortCfg s n v).cfg.patrolOn = s.cfg.patrolOn := rfl
@[simp] theorem setPortCfg_cfg_patrolHours (n : Nat) (v : PortCfg) : (setPortCfg s n v).cfg.patrolHours = s.cfg.patrolHours := rfl
@[simp] theorem setPortCfg_cfg_mgmt (n : Nat) (v : PortCfg) : (setPortCfg s n v).cfg.mgmt = s.cfg.mgmt := rfl
@[simp] theorem setPortCfg_cfg_power (n : Nat) (v : PortCfg) : (setPortCfg s n v).cfg.power = s.cfg.power := rfl
@[simp] theorem setPortCfg_eng (n : Nat) (v : PortCfg) (k : Nat) : eng (setPortCfg s n v) k = eng s k := rfl
@[simp] theorem setPortCfg_route (n : Nat) (v : PortCfg) (k : Nat) : route (setPortCfg s n v) k = route s k := rfl
@[simp] theorem setPortCfg_group (n : Nat) (v : PortCfg) (k : Nat) : group (setPortCfg s n v) k = group s k := rfl
@[simp] theorem setPortCfg_port (n : Nat) (v : PortCfg) (k : Nat) : port (setPortCfg s n v) k = port s k := rfl
@[simp] theorem setPortCfg_bridge (n : Nat) (v : PortCfg) (k : Nat) : bridge (setPortCfg s n v) k = bridge s k := rfl
@[simp] theorem setPortCfg_link (n : Nat) (v : PortCfg) (k : Nat) : link (setPortCfg s n v) k = link s k := rfl
@[simp] theorem setPortCfg_stream (n : Nat) (v : PortCfg) (k : Nat) : stream (setPortCfg s n v) k = stream s k := rfl
@[simp] theorem setPortCfg_bank (n : Nat) (v : PortCfg) (k : Nat) : bank (setPortCfg s n v) k = bank s k := rfl
@[simp] theorem setPortCfg_cross (n : Nat) (v : PortCfg) (k : Nat) : cross (setPortCfg s n v) k = cross s k := rfl
@[simp] theorem setPortCfg_session (n : Nat) (v : PortCfg) (k : Nat) : session (setPortCfg s n v) k = session s k := rfl
@[simp] theorem setPortCfg_rbCfg (n : Nat) (v : PortCfg) (k : Nat) : rbCfg (setPortCfg s n v) k = rbCfg s k := rfl
@[simp] theorem setPortCfg_linkCfg (n : Nat) (v : PortCfg) (k : Nat) : linkCfg (setPortCfg s n v) k = linkCfg s k := rfl
@[simp] theorem setPortCfg_engClass (n : Nat) (v : PortCfg) (k : Nat) : engClass (setPortCfg s n v) k = engClass s k := rfl
@[simp] theorem setPortCfg_engPolicy (n : Nat) (v : PortCfg) (k : Nat) : engPolicy (setPortCfg s n v) k = engPolicy s k := rfl
@[simp] theorem setPortCfg_now (n : Nat) (v : PortCfg) : now (setPortCfg s n v) = now s := rfl

/-! ### setRbCfg -/

@[simp] theorem setRbCfg_pending (n : Nat) (v : RbCfg) : (setRbCfg s n v).pending = s.pending := rfl
@[simp] theorem setRbCfg_clocks (n : Nat) (v : RbCfg) : (setRbCfg s n v).clocks = s.clocks := rfl
@[simp] theorem setRbCfg_engines (n : Nat) (v : RbCfg) : (setRbCfg s n v).engines = s.engines := rfl
@[simp] theorem setRbCfg_routes (n : Nat) (v : RbCfg) : (setRbCfg s n v).routes = s.routes := rfl
@[simp] theorem setRbCfg_tails (n : Nat) (v : RbCfg) : (setRbCfg s n v).tails = s.tails := rfl
@[simp] theorem setRbCfg_mem (n : Nat) (v : RbCfg) : (setRbCfg s n v).mem = s.mem := rfl
@[simp] theorem setRbCfg_groups (n : Nat) (v : RbCfg) : (setRbCfg s n v).groups = s.groups := rfl
@[simp] theorem setRbCfg_ports (n : Nat) (v : RbCfg) : (setRbCfg s n v).ports = s.ports := rfl
@[simp] theorem setRbCfg_bridges (n : Nat) (v : RbCfg) : (setRbCfg s n v).bridges = s.bridges := rfl
@[simp] theorem setRbCfg_links (n : Nat) (v : RbCfg) : (setRbCfg s n v).links = s.links := rfl
@[simp] theorem setRbCfg_grove (n : Nat) (v : RbCfg) : (setRbCfg s n v).grove = s.grove := rfl
@[simp] theorem setRbCfg_streams (n : Nat) (v : RbCfg) : (setRbCfg s n v).streams = s.streams := rfl
@[simp] theorem setRbCfg_leaving (n : Nat) (v : RbCfg) : (setRbCfg s n v).leaving = s.leaving := rfl
@[simp] theorem setRbCfg_mgmt (n : Nat) (v : RbCfg) : (setRbCfg s n v).mgmt = s.mgmt := rfl
@[simp] theorem setRbCfg_events (n : Nat) (v : RbCfg) : (setRbCfg s n v).events = s.events := rfl
@[simp] theorem setRbCfg_heart (n : Nat) (v : RbCfg) : (setRbCfg s n v).heart = s.heart := rfl
@[simp] theorem setRbCfg_power (n : Nat) (v : RbCfg) : (setRbCfg s n v).power = s.power := rfl
@[simp] theorem setRbCfg_jtag (n : Nat) (v : RbCfg) : (setRbCfg s n v).jtag = s.jtag := rfl
@[simp] theorem setRbCfg_fuses (n : Nat) (v : RbCfg) : (setRbCfg s n v).fuses = s.fuses := rfl
@[simp] theorem setRbCfg_flash (n : Nat) (v : RbCfg) : (setRbCfg s n v).flash = s.flash := rfl
@[simp] theorem setRbCfg_epoch (n : Nat) (v : RbCfg) : (setRbCfg s n v).epoch = s.epoch := rfl
@[simp] theorem setRbCfg_fresh (n : Nat) (v : RbCfg) : (setRbCfg s n v).fresh = s.fresh := rfl
@[simp] theorem setRbCfg_cfg_clocks (n : Nat) (v : RbCfg) : (setRbCfg s n v).cfg.clocks = s.cfg.clocks := rfl
@[simp] theorem setRbCfg_cfg_engClass (n : Nat) (v : RbCfg) : (setRbCfg s n v).cfg.engClass = s.cfg.engClass := rfl
@[simp] theorem setRbCfg_cfg_engPolicy (n : Nat) (v : RbCfg) : (setRbCfg s n v).cfg.engPolicy = s.cfg.engPolicy := rfl
@[simp] theorem setRbCfg_cfg_ports (n : Nat) (v : RbCfg) : (setRbCfg s n v).cfg.ports = s.cfg.ports := rfl
@[simp] theorem setRbCfg_cfg_links (n : Nat) (v : RbCfg) : (setRbCfg s n v).cfg.links = s.cfg.links := rfl
@[simp] theorem setRbCfg_cfg_priority (n : Nat) (v : RbCfg) : (setRbCfg s n v).cfg.priority = s.cfg.priority := rfl
@[simp] theorem setRbCfg_cfg_groveId (n : Nat) (v : RbCfg) : (setRbCfg s n v).cfg.groveId = s.cfg.groveId := rfl
@[simp] theorem setRbCfg_cfg_deviceNumber (n : Nat) (v : RbCfg) : (setRbCfg s n v).cfg.deviceNumber = s.cfg.deviceNumber := rfl
@[simp] theorem setRbCfg_cfg_sources (n : Nat) (v : RbCfg) : (setRbCfg s n v).cfg.sources = s.cfg.sources := rfl
@[simp] theorem setRbCfg_cfg_subs (n : Nat) (v : RbCfg) : (setRbCfg s n v).cfg.subs = s.cfg.subs := rfl
@[simp] theorem setRbCfg_cfg_patrolOn (n : Nat) (v : RbCfg) : (setRbCfg s n v).cfg.patrolOn = s.cfg.patrolOn := rfl
@[simp] theorem setRbCfg_cfg_patrolHours (n : Nat) (v : RbCfg) : (setRbCfg s n v).cfg.patrolHours = s.cfg.patrolHours := rfl
@[simp] theorem setRbCfg_cfg_mgmt (n : Nat) (v : RbCfg) : (setRbCfg s n v).cfg.mgmt = s.cfg.mgmt := rfl
@[simp] theorem setRbCfg_cfg_power (n : Nat) (v : RbCfg) : (setRbCfg s n v).cfg.power = s.cfg.power := rfl
@[simp] theorem setRbCfg_eng (n : Nat) (v : RbCfg) (k : Nat) : eng (setRbCfg s n v) k = eng s k := rfl
@[simp] theorem setRbCfg_route (n : Nat) (v : RbCfg) (k : Nat) : route (setRbCfg s n v) k = route s k := rfl
@[simp] theorem setRbCfg_group (n : Nat) (v : RbCfg) (k : Nat) : group (setRbCfg s n v) k = group s k := rfl
@[simp] theorem setRbCfg_port (n : Nat) (v : RbCfg) (k : Nat) : port (setRbCfg s n v) k = port s k := rfl
@[simp] theorem setRbCfg_bridge (n : Nat) (v : RbCfg) (k : Nat) : bridge (setRbCfg s n v) k = bridge s k := rfl
@[simp] theorem setRbCfg_link (n : Nat) (v : RbCfg) (k : Nat) : link (setRbCfg s n v) k = link s k := rfl
@[simp] theorem setRbCfg_stream (n : Nat) (v : RbCfg) (k : Nat) : stream (setRbCfg s n v) k = stream s k := rfl
@[simp] theorem setRbCfg_bank (n : Nat) (v : RbCfg) (k : Nat) : bank (setRbCfg s n v) k = bank s k := rfl
@[simp] theorem setRbCfg_cross (n : Nat) (v : RbCfg) (k : Nat) : cross (setRbCfg s n v) k = cross s k := rfl
@[simp] theorem setRbCfg_session (n : Nat) (v : RbCfg) (k : Nat) : session (setRbCfg s n v) k = session s k := rfl
@[simp] theorem setRbCfg_portCfg (n : Nat) (v : RbCfg) (k : Nat) : portCfg (setRbCfg s n v) k = portCfg s k := rfl
@[simp] theorem setRbCfg_linkCfg (n : Nat) (v : RbCfg) (k : Nat) : linkCfg (setRbCfg s n v) k = linkCfg s k := rfl
@[simp] theorem setRbCfg_engClass (n : Nat) (v : RbCfg) (k : Nat) : engClass (setRbCfg s n v) k = engClass s k := rfl
@[simp] theorem setRbCfg_engPolicy (n : Nat) (v : RbCfg) (k : Nat) : engPolicy (setRbCfg s n v) k = engPolicy s k := rfl
@[simp] theorem setRbCfg_now (n : Nat) (v : RbCfg) : now (setRbCfg s n v) = now s := rfl

/-! ### setLinkCfg -/

@[simp] theorem setLinkCfg_pending (n : Nat) (v : LinkCfg) : (setLinkCfg s n v).pending = s.pending := rfl
@[simp] theorem setLinkCfg_clocks (n : Nat) (v : LinkCfg) : (setLinkCfg s n v).clocks = s.clocks := rfl
@[simp] theorem setLinkCfg_engines (n : Nat) (v : LinkCfg) : (setLinkCfg s n v).engines = s.engines := rfl
@[simp] theorem setLinkCfg_routes (n : Nat) (v : LinkCfg) : (setLinkCfg s n v).routes = s.routes := rfl
@[simp] theorem setLinkCfg_tails (n : Nat) (v : LinkCfg) : (setLinkCfg s n v).tails = s.tails := rfl
@[simp] theorem setLinkCfg_mem (n : Nat) (v : LinkCfg) : (setLinkCfg s n v).mem = s.mem := rfl
@[simp] theorem setLinkCfg_groups (n : Nat) (v : LinkCfg) : (setLinkCfg s n v).groups = s.groups := rfl
@[simp] theorem setLinkCfg_ports (n : Nat) (v : LinkCfg) : (setLinkCfg s n v).ports = s.ports := rfl
@[simp] theorem setLinkCfg_bridges (n : Nat) (v : LinkCfg) : (setLinkCfg s n v).bridges = s.bridges := rfl
@[simp] theorem setLinkCfg_links (n : Nat) (v : LinkCfg) : (setLinkCfg s n v).links = s.links := rfl
@[simp] theorem setLinkCfg_grove (n : Nat) (v : LinkCfg) : (setLinkCfg s n v).grove = s.grove := rfl
@[simp] theorem setLinkCfg_streams (n : Nat) (v : LinkCfg) : (setLinkCfg s n v).streams = s.streams := rfl
@[simp] theorem setLinkCfg_leaving (n : Nat) (v : LinkCfg) : (setLinkCfg s n v).leaving = s.leaving := rfl
@[simp] theorem setLinkCfg_mgmt (n : Nat) (v : LinkCfg) : (setLinkCfg s n v).mgmt = s.mgmt := rfl
@[simp] theorem setLinkCfg_events (n : Nat) (v : LinkCfg) : (setLinkCfg s n v).events = s.events := rfl
@[simp] theorem setLinkCfg_heart (n : Nat) (v : LinkCfg) : (setLinkCfg s n v).heart = s.heart := rfl
@[simp] theorem setLinkCfg_power (n : Nat) (v : LinkCfg) : (setLinkCfg s n v).power = s.power := rfl
@[simp] theorem setLinkCfg_jtag (n : Nat) (v : LinkCfg) : (setLinkCfg s n v).jtag = s.jtag := rfl
@[simp] theorem setLinkCfg_fuses (n : Nat) (v : LinkCfg) : (setLinkCfg s n v).fuses = s.fuses := rfl
@[simp] theorem setLinkCfg_flash (n : Nat) (v : LinkCfg) : (setLinkCfg s n v).flash = s.flash := rfl
@[simp] theorem setLinkCfg_epoch (n : Nat) (v : LinkCfg) : (setLinkCfg s n v).epoch = s.epoch := rfl
@[simp] theorem setLinkCfg_fresh (n : Nat) (v : LinkCfg) : (setLinkCfg s n v).fresh = s.fresh := rfl
@[simp] theorem setLinkCfg_cfg_clocks (n : Nat) (v : LinkCfg) : (setLinkCfg s n v).cfg.clocks = s.cfg.clocks := rfl
@[simp] theorem setLinkCfg_cfg_engClass (n : Nat) (v : LinkCfg) : (setLinkCfg s n v).cfg.engClass = s.cfg.engClass := rfl
@[simp] theorem setLinkCfg_cfg_engPolicy (n : Nat) (v : LinkCfg) : (setLinkCfg s n v).cfg.engPolicy = s.cfg.engPolicy := rfl
@[simp] theorem setLinkCfg_cfg_ports (n : Nat) (v : LinkCfg) : (setLinkCfg s n v).cfg.ports = s.cfg.ports := rfl
@[simp] theorem setLinkCfg_cfg_bridges (n : Nat) (v : LinkCfg) : (setLinkCfg s n v).cfg.bridges = s.cfg.bridges := rfl
@[simp] theorem setLinkCfg_cfg_priority (n : Nat) (v : LinkCfg) : (setLinkCfg s n v).cfg.priority = s.cfg.priority := rfl
@[simp] theorem setLinkCfg_cfg_groveId (n : Nat) (v : LinkCfg) : (setLinkCfg s n v).cfg.groveId = s.cfg.groveId := rfl
@[simp] theorem setLinkCfg_cfg_deviceNumber (n : Nat) (v : LinkCfg) : (setLinkCfg s n v).cfg.deviceNumber = s.cfg.deviceNumber := rfl
@[simp] theorem setLinkCfg_cfg_sources (n : Nat) (v : LinkCfg) : (setLinkCfg s n v).cfg.sources = s.cfg.sources := rfl
@[simp] theorem setLinkCfg_cfg_subs (n : Nat) (v : LinkCfg) : (setLinkCfg s n v).cfg.subs = s.cfg.subs := rfl
@[simp] theorem setLinkCfg_cfg_patrolOn (n : Nat) (v : LinkCfg) : (setLinkCfg s n v).cfg.patrolOn = s.cfg.patrolOn := rfl
@[simp] theorem setLinkCfg_cfg_patrolHours (n : Nat) (v : LinkCfg) : (setLinkCfg s n v).cfg.patrolHours = s.cfg.patrolHours := rfl
@[simp] theorem setLinkCfg_cfg_mgmt (n : Nat) (v : LinkCfg) : (setLinkCfg s n v).cfg.mgmt = s.cfg.mgmt := rfl
@[simp] theorem setLinkCfg_cfg_power (n : Nat) (v : LinkCfg) : (setLinkCfg s n v).cfg.power = s.cfg.power := rfl
@[simp] theorem setLinkCfg_eng (n : Nat) (v : LinkCfg) (k : Nat) : eng (setLinkCfg s n v) k = eng s k := rfl
@[simp] theorem setLinkCfg_route (n : Nat) (v : LinkCfg) (k : Nat) : route (setLinkCfg s n v) k = route s k := rfl
@[simp] theorem setLinkCfg_group (n : Nat) (v : LinkCfg) (k : Nat) : group (setLinkCfg s n v) k = group s k := rfl
@[simp] theorem setLinkCfg_port (n : Nat) (v : LinkCfg) (k : Nat) : port (setLinkCfg s n v) k = port s k := rfl
@[simp] theorem setLinkCfg_bridge (n : Nat) (v : LinkCfg) (k : Nat) : bridge (setLinkCfg s n v) k = bridge s k := rfl
@[simp] theorem setLinkCfg_link (n : Nat) (v : LinkCfg) (k : Nat) : link (setLinkCfg s n v) k = link s k := rfl
@[simp] theorem setLinkCfg_stream (n : Nat) (v : LinkCfg) (k : Nat) : stream (setLinkCfg s n v) k = stream s k := rfl
@[simp] theorem setLinkCfg_bank (n : Nat) (v : LinkCfg) (k : Nat) : bank (setLinkCfg s n v) k = bank s k := rfl
@[simp] theorem setLinkCfg_cross (n : Nat) (v : LinkCfg) (k : Nat) : cross (setLinkCfg s n v) k = cross s k := rfl
@[simp] theorem setLinkCfg_session (n : Nat) (v : LinkCfg) (k : Nat) : session (setLinkCfg s n v) k = session s k := rfl
@[simp] theorem setLinkCfg_portCfg (n : Nat) (v : LinkCfg) (k : Nat) : portCfg (setLinkCfg s n v) k = portCfg s k := rfl
@[simp] theorem setLinkCfg_rbCfg (n : Nat) (v : LinkCfg) (k : Nat) : rbCfg (setLinkCfg s n v) k = rbCfg s k := rfl
@[simp] theorem setLinkCfg_engClass (n : Nat) (v : LinkCfg) (k : Nat) : engClass (setLinkCfg s n v) k = engClass s k := rfl
@[simp] theorem setLinkCfg_engPolicy (n : Nat) (v : LinkCfg) (k : Nat) : engPolicy (setLinkCfg s n v) k = engPolicy s k := rfl
@[simp] theorem setLinkCfg_now (n : Nat) (v : LinkCfg) : now (setLinkCfg s n v) = now s := rfl

/-! ### setClocks -/

@[simp] theorem setClocks_pending (f : Clocks → Clocks) : (setClocks s f).pending = s.pending := rfl
@[simp] theorem setClocks_engines (f : Clocks → Clocks) : (setClocks s f).engines = s.engines := rfl
@[simp] theorem setClocks_routes (f : Clocks → Clocks) : (setClocks s f).routes = s.routes := rfl
@[simp] theorem setClocks_tails (f : Clocks → Clocks) : (setClocks s f).tails = s.tails := rfl
@[simp] theorem setClocks_mem (f : Clocks → Clocks) : (setClocks s f).mem = s.mem := rfl
@[simp] theorem setClocks_groups (f : Clocks → Clocks) : (setClocks s f).groups = s.groups := rfl
@[simp] theorem setClocks_ports (f : Clocks → Clocks) : (setClocks s f).ports = s.ports := rfl
@[simp] theorem setClocks_bridges (f : Clocks → Clocks) : (setClocks s f).bridges = s.bridges := rfl
@[simp] theorem setClocks_links (f : Clocks → Clocks) : (setClocks s f).links = s.links := rfl
@[simp] theorem setClocks_grove (f : Clocks → Clocks) : (setClocks s f).grove = s.grove := rfl
@[simp] theorem setClocks_streams (f : Clocks → Clocks) : (setClocks s f).streams = s.streams := rfl
@[simp] theorem setClocks_leaving (f : Clocks → Clocks) : (setClocks s f).leaving = s.leaving := rfl
@[simp] theorem setClocks_mgmt (f : Clocks → Clocks) : (setClocks s f).mgmt = s.mgmt := rfl
@[simp] theorem setClocks_events (f : Clocks → Clocks) : (setClocks s f).events = s.events := rfl
@[simp] theorem setClocks_heart (f : Clocks → Clocks) : (setClocks s f).heart = s.heart := rfl
@[simp] theorem setClocks_power (f : Clocks → Clocks) : (setClocks s f).power = s.power := rfl
@[simp] theorem setClocks_jtag (f : Clocks → Clocks) : (setClocks s f).jtag = s.jtag := rfl
@[simp] theorem setClocks_fuses (f : Clocks → Clocks) : (setClocks s f).fuses = s.fuses := rfl
@[simp] theorem setClocks_flash (f : Clocks → Clocks) : (setClocks s f).flash = s.flash := rfl
@[simp] theorem setClocks_cfg (f : Clocks → Clocks) : (setClocks s f).cfg = s.cfg := rfl
@[simp] theorem setClocks_epoch (f : Clocks → Clocks) : (setClocks s f).epoch = s.epoch := rfl
@[simp] theorem setClocks_fresh (f : Clocks → Clocks) : (setClocks s f).fresh = s.fresh := rfl
@[simp] theorem setClocks_eng (f : Clocks → Clocks) (k : Nat) : eng (setClocks s f) k = eng s k := rfl
@[simp] theorem setClocks_route (f : Clocks → Clocks) (k : Nat) : route (setClocks s f) k = route s k := rfl
@[simp] theorem setClocks_group (f : Clocks → Clocks) (k : Nat) : group (setClocks s f) k = group s k := rfl
@[simp] theorem setClocks_port (f : Clocks → Clocks) (k : Nat) : port (setClocks s f) k = port s k := rfl
@[simp] theorem setClocks_bridge (f : Clocks → Clocks) (k : Nat) : bridge (setClocks s f) k = bridge s k := rfl
@[simp] theorem setClocks_link (f : Clocks → Clocks) (k : Nat) : link (setClocks s f) k = link s k := rfl
@[simp] theorem setClocks_stream (f : Clocks → Clocks) (k : Nat) : stream (setClocks s f) k = stream s k := rfl
@[simp] theorem setClocks_bank (f : Clocks → Clocks) (k : Nat) : bank (setClocks s f) k = bank s k := rfl
@[simp] theorem setClocks_cross (f : Clocks → Clocks) (k : Nat) : cross (setClocks s f) k = cross s k := rfl
@[simp] theorem setClocks_session (f : Clocks → Clocks) (k : Nat) : session (setClocks s f) k = session s k := rfl
@[simp] theorem setClocks_portCfg (f : Clocks → Clocks) (k : Nat) : portCfg (setClocks s f) k = portCfg s k := rfl
@[simp] theorem setClocks_rbCfg (f : Clocks → Clocks) (k : Nat) : rbCfg (setClocks s f) k = rbCfg s k := rfl
@[simp] theorem setClocks_linkCfg (f : Clocks → Clocks) (k : Nat) : linkCfg (setClocks s f) k = linkCfg s k := rfl
@[simp] theorem setClocks_engClass (f : Clocks → Clocks) (k : Nat) : engClass (setClocks s f) k = engClass s k := rfl
@[simp] theorem setClocks_engPolicy (f : Clocks → Clocks) (k : Nat) : engPolicy (setClocks s f) k = engPolicy s k := rfl

/-! ### setPower -/

@[simp] theorem setPower_pending (f : Power → Power) : (setPower s f).pending = s.pending := rfl
@[simp] theorem setPower_clocks (f : Power → Power) : (setPower s f).clocks = s.clocks := rfl
@[simp] theorem setPower_engines (f : Power → Power) : (setPower s f).engines = s.engines := rfl
@[simp] theorem setPower_routes (f : Power → Power) : (setPower s f).routes = s.routes := rfl
@[simp] theorem setPower_tails (f : Power → Power) : (setPower s f).tails = s.tails := rfl
@[simp] theorem setPower_mem (f : Power → Power) : (setPower s f).mem = s.mem := rfl
@[simp] theorem setPower_groups (f : Power → Power) : (setPower s f).groups = s.groups := rfl
@[simp] theorem setPower_ports (f : Power → Power) : (setPower s f).ports = s.ports := rfl
@[simp] theorem setPower_bridges (f : Power → Power) : (setPower s f).bridges = s.bridges := rfl
@[simp] theorem setPower_links (f : Power → Power) : (setPower s f).links = s.links := rfl
@[simp] theorem setPower_grove (f : Power → Power) : (setPower s f).grove = s.grove := rfl
@[simp] theorem setPower_streams (f : Power → Power) : (setPower s f).streams = s.streams := rfl
@[simp] theorem setPower_leaving (f : Power → Power) : (setPower s f).leaving = s.leaving := rfl
@[simp] theorem setPower_mgmt (f : Power → Power) : (setPower s f).mgmt = s.mgmt := rfl
@[simp] theorem setPower_events (f : Power → Power) : (setPower s f).events = s.events := rfl
@[simp] theorem setPower_heart (f : Power → Power) : (setPower s f).heart = s.heart := rfl
@[simp] theorem setPower_jtag (f : Power → Power) : (setPower s f).jtag = s.jtag := rfl
@[simp] theorem setPower_fuses (f : Power → Power) : (setPower s f).fuses = s.fuses := rfl
@[simp] theorem setPower_flash (f : Power → Power) : (setPower s f).flash = s.flash := rfl
@[simp] theorem setPower_cfg (f : Power → Power) : (setPower s f).cfg = s.cfg := rfl
@[simp] theorem setPower_epoch (f : Power → Power) : (setPower s f).epoch = s.epoch := rfl
@[simp] theorem setPower_fresh (f : Power → Power) : (setPower s f).fresh = s.fresh := rfl
@[simp] theorem setPower_eng (f : Power → Power) (k : Nat) : eng (setPower s f) k = eng s k := rfl
@[simp] theorem setPower_route (f : Power → Power) (k : Nat) : route (setPower s f) k = route s k := rfl
@[simp] theorem setPower_group (f : Power → Power) (k : Nat) : group (setPower s f) k = group s k := rfl
@[simp] theorem setPower_port (f : Power → Power) (k : Nat) : port (setPower s f) k = port s k := rfl
@[simp] theorem setPower_bridge (f : Power → Power) (k : Nat) : bridge (setPower s f) k = bridge s k := rfl
@[simp] theorem setPower_link (f : Power → Power) (k : Nat) : link (setPower s f) k = link s k := rfl
@[simp] theorem setPower_stream (f : Power → Power) (k : Nat) : stream (setPower s f) k = stream s k := rfl
@[simp] theorem setPower_bank (f : Power → Power) (k : Nat) : bank (setPower s f) k = bank s k := rfl
@[simp] theorem setPower_cross (f : Power → Power) (k : Nat) : cross (setPower s f) k = cross s k := rfl
@[simp] theorem setPower_session (f : Power → Power) (k : Nat) : session (setPower s f) k = session s k := rfl
@[simp] theorem setPower_portCfg (f : Power → Power) (k : Nat) : portCfg (setPower s f) k = portCfg s k := rfl
@[simp] theorem setPower_rbCfg (f : Power → Power) (k : Nat) : rbCfg (setPower s f) k = rbCfg s k := rfl
@[simp] theorem setPower_linkCfg (f : Power → Power) (k : Nat) : linkCfg (setPower s f) k = linkCfg s k := rfl
@[simp] theorem setPower_engClass (f : Power → Power) (k : Nat) : engClass (setPower s f) k = engClass s k := rfl
@[simp] theorem setPower_engPolicy (f : Power → Power) (k : Nat) : engPolicy (setPower s f) k = engPolicy s k := rfl
@[simp] theorem setPower_now (f : Power → Power) : now (setPower s f) = now s := rfl

/-! ### setMgmt -/

@[simp] theorem setMgmt_pending (f : Mgmt → Mgmt) : (setMgmt s f).pending = s.pending := rfl
@[simp] theorem setMgmt_clocks (f : Mgmt → Mgmt) : (setMgmt s f).clocks = s.clocks := rfl
@[simp] theorem setMgmt_engines (f : Mgmt → Mgmt) : (setMgmt s f).engines = s.engines := rfl
@[simp] theorem setMgmt_routes (f : Mgmt → Mgmt) : (setMgmt s f).routes = s.routes := rfl
@[simp] theorem setMgmt_tails (f : Mgmt → Mgmt) : (setMgmt s f).tails = s.tails := rfl
@[simp] theorem setMgmt_mem (f : Mgmt → Mgmt) : (setMgmt s f).mem = s.mem := rfl
@[simp] theorem setMgmt_groups (f : Mgmt → Mgmt) : (setMgmt s f).groups = s.groups := rfl
@[simp] theorem setMgmt_ports (f : Mgmt → Mgmt) : (setMgmt s f).ports = s.ports := rfl
@[simp] theorem setMgmt_bridges (f : Mgmt → Mgmt) : (setMgmt s f).bridges = s.bridges := rfl
@[simp] theorem setMgmt_links (f : Mgmt → Mgmt) : (setMgmt s f).links = s.links := rfl
@[simp] theorem setMgmt_grove (f : Mgmt → Mgmt) : (setMgmt s f).grove = s.grove := rfl
@[simp] theorem setMgmt_streams (f : Mgmt → Mgmt) : (setMgmt s f).streams = s.streams := rfl
@[simp] theorem setMgmt_leaving (f : Mgmt → Mgmt) : (setMgmt s f).leaving = s.leaving := rfl
@[simp] theorem setMgmt_events (f : Mgmt → Mgmt) : (setMgmt s f).events = s.events := rfl
@[simp] theorem setMgmt_heart (f : Mgmt → Mgmt) : (setMgmt s f).heart = s.heart := rfl
@[simp] theorem setMgmt_power (f : Mgmt → Mgmt) : (setMgmt s f).power = s.power := rfl
@[simp] theorem setMgmt_jtag (f : Mgmt → Mgmt) : (setMgmt s f).jtag = s.jtag := rfl
@[simp] theorem setMgmt_fuses (f : Mgmt → Mgmt) : (setMgmt s f).fuses = s.fuses := rfl
@[simp] theorem setMgmt_flash (f : Mgmt → Mgmt) : (setMgmt s f).flash = s.flash := rfl
@[simp] theorem setMgmt_cfg (f : Mgmt → Mgmt) : (setMgmt s f).cfg = s.cfg := rfl
@[simp] theorem setMgmt_epoch (f : Mgmt → Mgmt) : (setMgmt s f).epoch = s.epoch := rfl
@[simp] theorem setMgmt_fresh (f : Mgmt → Mgmt) : (setMgmt s f).fresh = s.fresh := rfl
@[simp] theorem setMgmt_eng (f : Mgmt → Mgmt) (k : Nat) : eng (setMgmt s f) k = eng s k := rfl
@[simp] theorem setMgmt_route (f : Mgmt → Mgmt) (k : Nat) : route (setMgmt s f) k = route s k := rfl
@[simp] theorem setMgmt_group (f : Mgmt → Mgmt) (k : Nat) : group (setMgmt s f) k = group s k := rfl
@[simp] theorem setMgmt_port (f : Mgmt → Mgmt) (k : Nat) : port (setMgmt s f) k = port s k := rfl
@[simp] theorem setMgmt_bridge (f : Mgmt → Mgmt) (k : Nat) : bridge (setMgmt s f) k = bridge s k := rfl
@[simp] theorem setMgmt_link (f : Mgmt → Mgmt) (k : Nat) : link (setMgmt s f) k = link s k := rfl
@[simp] theorem setMgmt_stream (f : Mgmt → Mgmt) (k : Nat) : stream (setMgmt s f) k = stream s k := rfl
@[simp] theorem setMgmt_bank (f : Mgmt → Mgmt) (k : Nat) : bank (setMgmt s f) k = bank s k := rfl
@[simp] theorem setMgmt_cross (f : Mgmt → Mgmt) (k : Nat) : cross (setMgmt s f) k = cross s k := rfl
@[simp] theorem setMgmt_portCfg (f : Mgmt → Mgmt) (k : Nat) : portCfg (setMgmt s f) k = portCfg s k := rfl
@[simp] theorem setMgmt_rbCfg (f : Mgmt → Mgmt) (k : Nat) : rbCfg (setMgmt s f) k = rbCfg s k := rfl
@[simp] theorem setMgmt_linkCfg (f : Mgmt → Mgmt) (k : Nat) : linkCfg (setMgmt s f) k = linkCfg s k := rfl
@[simp] theorem setMgmt_engClass (f : Mgmt → Mgmt) (k : Nat) : engClass (setMgmt s f) k = engClass s k := rfl
@[simp] theorem setMgmt_engPolicy (f : Mgmt → Mgmt) (k : Nat) : engPolicy (setMgmt s f) k = engPolicy s k := rfl
@[simp] theorem setMgmt_now (f : Mgmt → Mgmt) : now (setMgmt s f) = now s := rfl

/-! ### setGrove -/

@[simp] theorem setGrove_pending (f : Grove → Grove) : (setGrove s f).pending = s.pending := rfl
@[simp] theorem setGrove_clocks (f : Grove → Grove) : (setGrove s f).clocks = s.clocks := rfl
@[simp] theorem setGrove_engines (f : Grove → Grove) : (setGrove s f).engines = s.engines := rfl
@[simp] theorem setGrove_routes (f : Grove → Grove) : (setGrove s f).routes = s.routes := rfl
@[simp] theorem setGrove_tails (f : Grove → Grove) : (setGrove s f).tails = s.tails := rfl
@[simp] theorem setGrove_mem (f : Grove → Grove) : (setGrove s f).mem = s.mem := rfl
@[simp] theorem setGrove_groups (f : Grove → Grove) : (setGrove s f).groups = s.groups := rfl
@[simp] theorem setGrove_ports (f : Grove → Grove) : (setGrove s f).ports = s.ports := rfl
@[simp] theorem setGrove_bridges (f : Grove → Grove) : (setGrove s f).bridges = s.bridges := rfl
@[simp] theorem setGrove_links (f : Grove → Grove) : (setGrove s f).links = s.links := rfl
@[simp] theorem setGrove_streams (f : Grove → Grove) : (setGrove s f).streams = s.streams := rfl
@[simp] theorem setGrove_leaving (f : Grove → Grove) : (setGrove s f).leaving = s.leaving := rfl
@[simp] theorem setGrove_mgmt (f : Grove → Grove) : (setGrove s f).mgmt = s.mgmt := rfl
@[simp] theorem setGrove_events (f : Grove → Grove) : (setGrove s f).events = s.events := rfl
@[simp] theorem setGrove_heart (f : Grove → Grove) : (setGrove s f).heart = s.heart := rfl
@[simp] theorem setGrove_power (f : Grove → Grove) : (setGrove s f).power = s.power := rfl
@[simp] theorem setGrove_jtag (f : Grove → Grove) : (setGrove s f).jtag = s.jtag := rfl
@[simp] theorem setGrove_fuses (f : Grove → Grove) : (setGrove s f).fuses = s.fuses := rfl
@[simp] theorem setGrove_flash (f : Grove → Grove) : (setGrove s f).flash = s.flash := rfl
@[simp] theorem setGrove_cfg (f : Grove → Grove) : (setGrove s f).cfg = s.cfg := rfl
@[simp] theorem setGrove_epoch (f : Grove → Grove) : (setGrove s f).epoch = s.epoch := rfl
@[simp] theorem setGrove_fresh (f : Grove → Grove) : (setGrove s f).fresh = s.fresh := rfl
@[simp] theorem setGrove_eng (f : Grove → Grove) (k : Nat) : eng (setGrove s f) k = eng s k := rfl
@[simp] theorem setGrove_route (f : Grove → Grove) (k : Nat) : route (setGrove s f) k = route s k := rfl
@[simp] theorem setGrove_group (f : Grove → Grove) (k : Nat) : group (setGrove s f) k = group s k := rfl
@[simp] theorem setGrove_port (f : Grove → Grove) (k : Nat) : port (setGrove s f) k = port s k := rfl
@[simp] theorem setGrove_bridge (f : Grove → Grove) (k : Nat) : bridge (setGrove s f) k = bridge s k := rfl
@[simp] theorem setGrove_link (f : Grove → Grove) (k : Nat) : link (setGrove s f) k = link s k := rfl
@[simp] theorem setGrove_stream (f : Grove → Grove) (k : Nat) : stream (setGrove s f) k = stream s k := rfl
@[simp] theorem setGrove_bank (f : Grove → Grove) (k : Nat) : bank (setGrove s f) k = bank s k := rfl
@[simp] theorem setGrove_cross (f : Grove → Grove) (k : Nat) : cross (setGrove s f) k = cross s k := rfl
@[simp] theorem setGrove_session (f : Grove → Grove) (k : Nat) : session (setGrove s f) k = session s k := rfl
@[simp] theorem setGrove_portCfg (f : Grove → Grove) (k : Nat) : portCfg (setGrove s f) k = portCfg s k := rfl
@[simp] theorem setGrove_rbCfg (f : Grove → Grove) (k : Nat) : rbCfg (setGrove s f) k = rbCfg s k := rfl
@[simp] theorem setGrove_linkCfg (f : Grove → Grove) (k : Nat) : linkCfg (setGrove s f) k = linkCfg s k := rfl
@[simp] theorem setGrove_engClass (f : Grove → Grove) (k : Nat) : engClass (setGrove s f) k = engClass s k := rfl
@[simp] theorem setGrove_engPolicy (f : Grove → Grove) (k : Nat) : engPolicy (setGrove s f) k = engPolicy s k := rfl
@[simp] theorem setGrove_now (f : Grove → Grove) : now (setGrove s f) = now s := rfl

/-! ### setDebug -/

@[simp] theorem setDebug_pending (f : Debug → Debug) : (setDebug s f).pending = s.pending := rfl
@[simp] theorem setDebug_clocks (f : Debug → Debug) : (setDebug s f).clocks = s.clocks := rfl
@[simp] theorem setDebug_engines (f : Debug → Debug) : (setDebug s f).engines = s.engines := rfl
@[simp] theorem setDebug_routes (f : Debug → Debug) : (setDebug s f).routes = s.routes := rfl
@[simp] theorem setDebug_tails (f : Debug → Debug) : (setDebug s f).tails = s.tails := rfl
@[simp] theorem setDebug_mem (f : Debug → Debug) : (setDebug s f).mem = s.mem := rfl
@[simp] theorem setDebug_groups (f : Debug → Debug) : (setDebug s f).groups = s.groups := rfl
@[simp] theorem setDebug_ports (f : Debug → Debug) : (setDebug s f).ports = s.ports := rfl
@[simp] theorem setDebug_bridges (f : Debug → Debug) : (setDebug s f).bridges = s.bridges := rfl
@[simp] theorem setDebug_links (f : Debug → Debug) : (setDebug s f).links = s.links := rfl
@[simp] theorem setDebug_grove (f : Debug → Debug) : (setDebug s f).grove = s.grove := rfl
@[simp] theorem setDebug_streams (f : Debug → Debug) : (setDebug s f).streams = s.streams := rfl
@[simp] theorem setDebug_leaving (f : Debug → Debug) : (setDebug s f).leaving = s.leaving := rfl
@[simp] theorem setDebug_mgmt (f : Debug → Debug) : (setDebug s f).mgmt = s.mgmt := rfl
@[simp] theorem setDebug_events (f : Debug → Debug) : (setDebug s f).events = s.events := rfl
@[simp] theorem setDebug_heart (f : Debug → Debug) : (setDebug s f).heart = s.heart := rfl
@[simp] theorem setDebug_power (f : Debug → Debug) : (setDebug s f).power = s.power := rfl
@[simp] theorem setDebug_fuses (f : Debug → Debug) : (setDebug s f).fuses = s.fuses := rfl
@[simp] theorem setDebug_flash (f : Debug → Debug) : (setDebug s f).flash = s.flash := rfl
@[simp] theorem setDebug_cfg (f : Debug → Debug) : (setDebug s f).cfg = s.cfg := rfl
@[simp] theorem setDebug_epoch (f : Debug → Debug) : (setDebug s f).epoch = s.epoch := rfl
@[simp] theorem setDebug_fresh (f : Debug → Debug) : (setDebug s f).fresh = s.fresh := rfl
@[simp] theorem setDebug_eng (f : Debug → Debug) (k : Nat) : eng (setDebug s f) k = eng s k := rfl
@[simp] theorem setDebug_route (f : Debug → Debug) (k : Nat) : route (setDebug s f) k = route s k := rfl
@[simp] theorem setDebug_group (f : Debug → Debug) (k : Nat) : group (setDebug s f) k = group s k := rfl
@[simp] theorem setDebug_port (f : Debug → Debug) (k : Nat) : port (setDebug s f) k = port s k := rfl
@[simp] theorem setDebug_bridge (f : Debug → Debug) (k : Nat) : bridge (setDebug s f) k = bridge s k := rfl
@[simp] theorem setDebug_link (f : Debug → Debug) (k : Nat) : link (setDebug s f) k = link s k := rfl
@[simp] theorem setDebug_stream (f : Debug → Debug) (k : Nat) : stream (setDebug s f) k = stream s k := rfl
@[simp] theorem setDebug_bank (f : Debug → Debug) (k : Nat) : bank (setDebug s f) k = bank s k := rfl
@[simp] theorem setDebug_cross (f : Debug → Debug) (k : Nat) : cross (setDebug s f) k = cross s k := rfl
@[simp] theorem setDebug_session (f : Debug → Debug) (k : Nat) : session (setDebug s f) k = session s k := rfl
@[simp] theorem setDebug_portCfg (f : Debug → Debug) (k : Nat) : portCfg (setDebug s f) k = portCfg s k := rfl
@[simp] theorem setDebug_rbCfg (f : Debug → Debug) (k : Nat) : rbCfg (setDebug s f) k = rbCfg s k := rfl
@[simp] theorem setDebug_linkCfg (f : Debug → Debug) (k : Nat) : linkCfg (setDebug s f) k = linkCfg s k := rfl
@[simp] theorem setDebug_engClass (f : Debug → Debug) (k : Nat) : engClass (setDebug s f) k = engClass s k := rfl
@[simp] theorem setDebug_engPolicy (f : Debug → Debug) (k : Nat) : engPolicy (setDebug s f) k = engPolicy s k := rfl
@[simp] theorem setDebug_now (f : Debug → Debug) : now (setDebug s f) = now s := rfl

/-! ### Reading back -/

@[simp] theorem eng_setEng_ne {k n : Nat} (v : Engine) (h : k ≠ n) : eng (setEng s n v) k = eng s k := tget_tset_other _ _ _ h
theorem eng_setEng_some {n : Nat} {v : Engine} (h : v ≠ {}) : eng (setEng s n v) n = v := tget_tset_of_ne _ _ h
theorem eng_setEng_self {s : State} (n : Nat) (v : Engine) (w : Tbl.wf {} s.engines = true) : eng (setEng s n v) n = v := tget_tset_self _ w
theorem setEng_wf {s : State} (n : Nat) (v : Engine) (w : Tbl.wf {} s.engines = true) : Tbl.wf {} (setEng s n v).engines = true := tset_wf _ _ w
@[simp] theorem route_setRoute_ne {k n : Nat} (v : Route) (h : k ≠ n) : route (setRoute s n v) k = route s k := tget_tset_other _ _ _ h
theorem route_setRoute_some {n : Nat} {v : Route} (h : v ≠ {}) : route (setRoute s n v) n = v := tget_tset_of_ne _ _ h
theorem route_setRoute_self {s : State} (n : Nat) (v : Route) (w : Tbl.wf {} s.routes = true) : route (setRoute s n v) n = v := tget_tset_self _ w
theorem setRoute_wf {s : State} (n : Nat) (v : Route) (w : Tbl.wf {} s.routes = true) : Tbl.wf {} (setRoute s n v).routes = true := tset_wf _ _ w
@[simp] theorem group_setGroup_ne {k n : Nat} (v : Group) (h : k ≠ n) : group (setGroup s n v) k = group s k := tget_tset_other _ _ _ h
theorem group_setGroup_some {n : Nat} {v : Group} (h : v ≠ {}) : group (setGroup s n v) n = v := tget_tset_of_ne _ _ h
theorem group_setGroup_self {s : State} (n : Nat) (v : Group) (w : Tbl.wf {} s.groups = true) : group (setGroup s n v) n = v := tget_tset_self _ w
theorem setGroup_wf {s : State} (n : Nat) (v : Group) (w : Tbl.wf {} s.groups = true) : Tbl.wf {} (setGroup s n v).groups = true := tset_wf _ _ w
@[simp] theorem port_setPort_ne {k n : Nat} (v : Port) (h : k ≠ n) : port (setPort s n v) k = port s k := tget_tset_other _ _ _ h
theorem port_setPort_some {n : Nat} {v : Port} (h : v ≠ {}) : port (setPort s n v) n = v := tget_tset_of_ne _ _ h
theorem port_setPort_self {s : State} (n : Nat) (v : Port) (w : Tbl.wf {} s.ports = true) : port (setPort s n v) n = v := tget_tset_self _ w
theorem setPort_wf {s : State} (n : Nat) (v : Port) (w : Tbl.wf {} s.ports = true) : Tbl.wf {} (setPort s n v).ports = true := tset_wf _ _ w
@[simp] theorem bridge_setBridge_ne {k n : Nat} (v : Bridge) (h : k ≠ n) : bridge (setBridge s n v) k = bridge s k := tget_tset_other _ _ _ h
theorem bridge_setBridge_some {n : Nat} {v : Bridge} (h : v ≠ {}) : bridge (setBridge s n v) n = v := tget_tset_of_ne _ _ h
theorem bridge_setBridge_self {s : State} (n : Nat) (v : Bridge) (w : Tbl.wf {} s.bridges = true) : bridge (setBridge s n v) n = v := tget_tset_self _ w
theorem setBridge_wf {s : State} (n : Nat) (v : Bridge) (w : Tbl.wf {} s.bridges = true) : Tbl.wf {} (setBridge s n v).bridges = true := tset_wf _ _ w
@[simp] theorem link_setLink_ne {k n : Nat} (v : Link) (h : k ≠ n) : link (setLink s n v) k = link s k := tget_tset_other _ _ _ h
theorem link_setLink_some {n : Nat} {v : Link} (h : v ≠ {}) : link (setLink s n v) n = v := tget_tset_of_ne _ _ h
theorem link_setLink_self {s : State} (n : Nat) (v : Link) (w : Tbl.wf {} s.links = true) : link (setLink s n v) n = v := tget_tset_self _ w
theorem setLink_wf {s : State} (n : Nat) (v : Link) (w : Tbl.wf {} s.links = true) : Tbl.wf {} (setLink s n v).links = true := tset_wf _ _ w
@[simp] theorem stream_setStream_ne {k n : Nat} (v : Stream) (h : k ≠ n) : stream (setStream s n v) k = stream s k := tget_tset_other _ _ _ h
theorem stream_setStream_some {n : Nat} {v : Stream} (h : v ≠ {}) : stream (setStream s n v) n = v := tget_tset_of_ne _ _ h
theorem stream_setStream_self {s : State} (n : Nat) (v : Stream) (w : Tbl.wf {} s.streams = true) : stream (setStream s n v) n = v := tget_tset_self _ w
theorem setStream_wf {s : State} (n : Nat) (v : Stream) (w : Tbl.wf {} s.streams = true) : Tbl.wf {} (setStream s n v).streams = true := tset_wf _ _ w
@[simp] theorem bank_setBank_ne {k n : Nat} (v : Bank) (h : k ≠ n) : bank (setBank s n v) k = bank s k := tget_tset_other _ _ _ h
theorem bank_setBank_some {n : Nat} {v : Bank} (h : v ≠ {}) : bank (setBank s n v) n = v := tget_tset_of_ne _ _ h
theorem bank_setBank_self {s : State} (n : Nat) (v : Bank) (w : Tbl.wf {} s.mem.banks = true) : bank (setBank s n v) n = v := tget_tset_self _ w
theorem setBank_wf {s : State} (n : Nat) (v : Bank) (w : Tbl.wf {} s.mem.banks = true) : Tbl.wf {} (setBank s n v).mem.banks = true := tset_wf _ _ w
@[simp] theorem cross_setCross_ne {k n : Nat} (v : Cross) (h : k ≠ n) : cross (setCross s n v) k = cross s k := tget_tset_other _ _ _ h
theorem cross_setCross_some {n : Nat} {v : Cross} (h : v ≠ {}) : cross (setCross s n v) n = v := tget_tset_of_ne _ _ h
theorem cross_setCross_self {s : State} (n : Nat) (v : Cross) (w : Tbl.wf {} s.mem.cross = true) : cross (setCross s n v) n = v := tget_tset_self _ w
theorem setCross_wf {s : State} (n : Nat) (v : Cross) (w : Tbl.wf {} s.mem.cross = true) : Tbl.wf {} (setCross s n v).mem.cross = true := tset_wf _ _ w
@[simp] theorem session_setSession_ne {k n : Nat} (v : Session) (h : k ≠ n) : session (setSession s n v) k = session s k := tget_tset_other _ _ _ h
theorem session_setSession_some {n : Nat} {v : Session} (h : v ≠ {}) : session (setSession s n v) n = v := tget_tset_of_ne _ _ h
theorem session_setSession_self {s : State} (n : Nat) (v : Session) (w : Tbl.wf {} s.mgmt.sessions = true) : session (setSession s n v) n = v := tget_tset_self _ w
theorem setSession_wf {s : State} (n : Nat) (v : Session) (w : Tbl.wf {} s.mgmt.sessions = true) : Tbl.wf {} (setSession s n v).mgmt.sessions = true := tset_wf _ _ w
@[simp] theorem portCfg_setPortCfg_ne {k n : Nat} (v : PortCfg) (h : k ≠ n) : portCfg (setPortCfg s n v) k = portCfg s k := tget_tset_other _ _ _ h
theorem portCfg_setPortCfg_some {n : Nat} {v : PortCfg} (h : v ≠ {}) : portCfg (setPortCfg s n v) n = v := tget_tset_of_ne _ _ h
theorem portCfg_setPortCfg_self {s : State} (n : Nat) (v : PortCfg) (w : Tbl.wf {} s.cfg.ports = true) : portCfg (setPortCfg s n v) n = v := tget_tset_self _ w
theorem setPortCfg_wf {s : State} (n : Nat) (v : PortCfg) (w : Tbl.wf {} s.cfg.ports = true) : Tbl.wf {} (setPortCfg s n v).cfg.ports = true := tset_wf _ _ w
@[simp] theorem rbCfg_setRbCfg_ne {k n : Nat} (v : RbCfg) (h : k ≠ n) : rbCfg (setRbCfg s n v) k = rbCfg s k := tget_tset_other _ _ _ h
theorem rbCfg_setRbCfg_some {n : Nat} {v : RbCfg} (h : v ≠ {}) : rbCfg (setRbCfg s n v) n = v := tget_tset_of_ne _ _ h
theorem rbCfg_setRbCfg_self {s : State} (n : Nat) (v : RbCfg) (w : Tbl.wf {} s.cfg.bridges = true) : rbCfg (setRbCfg s n v) n = v := tget_tset_self _ w
theorem setRbCfg_wf {s : State} (n : Nat) (v : RbCfg) (w : Tbl.wf {} s.cfg.bridges = true) : Tbl.wf {} (setRbCfg s n v).cfg.bridges = true := tset_wf _ _ w
@[simp] theorem linkCfg_setLinkCfg_ne {k n : Nat} (v : LinkCfg) (h : k ≠ n) : linkCfg (setLinkCfg s n v) k = linkCfg s k := tget_tset_other _ _ _ h
theorem linkCfg_setLinkCfg_some {n : Nat} {v : LinkCfg} (h : v ≠ {}) : linkCfg (setLinkCfg s n v) n = v := tget_tset_of_ne _ _ h
theorem linkCfg_setLinkCfg_self {s : State} (n : Nat) (v : LinkCfg) (w : Tbl.wf {} s.cfg.links = true) : linkCfg (setLinkCfg s n v) n = v := tget_tset_self _ w
theorem setLinkCfg_wf {s : State} (n : Nat) (v : LinkCfg) (w : Tbl.wf {} s.cfg.links = true) : Tbl.wf {} (setLinkCfg s n v).cfg.links = true := tset_wf _ _ w

@[simp] theorem eng_modEng_ne {k n : Nat} (f : Engine → Engine) (h : k ≠ n) : eng (modEng s n f) k = eng s k := tget_tset_other _ _ _ h
theorem eng_modEng_self {s : State} (n : Nat) (f : Engine → Engine) (w : Tbl.wf {} s.engines = true) :
    eng (modEng s n f) n = f (eng s n) := tget_tset_self _ w
theorem eng_modEng_some {n : Nat} {f : Engine → Engine} (h : f (eng s n) ≠ {}) : eng (modEng s n f) n = f (eng s n) :=
  tget_tset_of_ne _ _ h

end Sys2Proof.Machine
end

