-- ==== Sys2Proof/Laws/Ops.lean ====
section
/-! SUPPORT. The shared operations: what each leaves as it was, one lemma for each field; what a detection counts, what a request that
is served does, and how an engine word that runs has its effect. -/
namespace Sys2Proof.Machine

variable (s : State)

/-! ### countDet -/

@[simp] theorem countDet_pending (c : Nat) : (countDet s c).pending = s.pending := rfl
@[simp] theorem countDet_clocks (c : Nat) : (countDet s c).clocks = s.clocks := rfl
@[simp] theorem countDet_engines (c : Nat) : (countDet s c).engines = s.engines := rfl
@[simp] theorem countDet_routes (c : Nat) : (countDet s c).routes = s.routes := rfl
@[simp] theorem countDet_tails (c : Nat) : (countDet s c).tails = s.tails := rfl
@[simp] theorem countDet_mem (c : Nat) : (countDet s c).mem = s.mem := rfl
@[simp] theorem countDet_groups (c : Nat) : (countDet s c).groups = s.groups := rfl
@[simp] theorem countDet_ports (c : Nat) : (countDet s c).ports = s.ports := rfl
@[simp] theorem countDet_bridges (c : Nat) : (countDet s c).bridges = s.bridges := rfl
@[simp] theorem countDet_links (c : Nat) : (countDet s c).links = s.links := rfl
@[simp] theorem countDet_grove (c : Nat) : (countDet s c).grove = s.grove := rfl
@[simp] theorem countDet_streams (c : Nat) : (countDet s c).streams = s.streams := rfl
@[simp] theorem countDet_leaving (c : Nat) : (countDet s c).leaving = s.leaving := rfl
@[simp] theorem countDet_mgmt (c : Nat) : (countDet s c).mgmt = s.mgmt := rfl
@[simp] theorem countDet_heart (c : Nat) : (countDet s c).heart = s.heart := rfl
@[simp] theorem countDet_power (c : Nat) : (countDet s c).power = s.power := rfl
@[simp] theorem countDet_jtag (c : Nat) : (countDet s c).jtag = s.jtag := rfl
@[simp] theorem countDet_fuses (c : Nat) : (countDet s c).fuses = s.fuses := rfl
@[simp] theorem countDet_flash (c : Nat) : (countDet s c).flash = s.flash := rfl
@[simp] theorem countDet_cfg (c : Nat) : (countDet s c).cfg = s.cfg := rfl
@[simp] theorem countDet_epoch (c : Nat) : (countDet s c).epoch = s.epoch := rfl
@[simp] theorem countDet_fresh (c : Nat) : (countDet s c).fresh = s.fresh := rfl
theorem countDet_frame (c : Nat) : { countDet s c with events := s.events } = s := by simp
@[simp] theorem countDet_eng (c : Nat) (j : Nat) : eng (countDet s c) j = eng s j := by unfold eng; simp
@[simp] theorem countDet_route (c : Nat) (j : Nat) : route (countDet s c) j = route s j := by unfold route; simp
@[simp] theorem countDet_group (c : Nat) (j : Nat) : group (countDet s c) j = group s j := by unfold group; simp
@[simp] theorem countDet_port (c : Nat) (j : Nat) : port (countDet s c) j = port s j := by unfold port; simp
@[simp] theorem countDet_bridge (c : Nat) (j : Nat) : bridge (countDet s c) j = bridge s j := by unfold bridge; simp
@[simp] theorem countDet_link (c : Nat) (j : Nat) : link (countDet s c) j = link s j := by unfold link; simp
@[simp] theorem countDet_stream (c : Nat) (j : Nat) : stream (countDet s c) j = stream s j := by unfold stream; simp
@[simp] theorem countDet_bank (c : Nat) (j : Nat) : bank (countDet s c) j = bank s j := by unfold bank; simp
@[simp] theorem countDet_cross (c : Nat) (j : Nat) : cross (countDet s c) j = cross s j := by unfold cross; simp
@[simp] theorem countDet_session (c : Nat) (j : Nat) : session (countDet s c) j = session s j := by unfold session; simp
@[simp] theorem countDet_portCfg (c : Nat) (j : Nat) : portCfg (countDet s c) j = portCfg s j := by unfold portCfg; simp
@[simp] theorem countDet_rbCfg (c : Nat) (j : Nat) : rbCfg (countDet s c) j = rbCfg s j := by unfold rbCfg; simp
@[simp] theorem countDet_linkCfg (c : Nat) (j : Nat) : linkCfg (countDet s c) j = linkCfg s j := by unfold linkCfg; simp
@[simp] theorem countDet_engClass (c : Nat) (j : Nat) : engClass (countDet s c) j = engClass s j := by unfold engClass; simp
@[simp] theorem countDet_now (c : Nat) : now (countDet s c) = now s := by unfold now; simp

/-! ### logRecord -/

@[simp] theorem logRecord_pending (v : Event) : (logRecord s v).pending = s.pending := by simp only [logRecord]
@[simp] theorem logRecord_clocks (v : Event) : (logRecord s v).clocks = s.clocks := by simp only [logRecord]
@[simp] theorem logRecord_engines (v : Event) : (logRecord s v).engines = s.engines := by simp only [logRecord]
@[simp] theorem logRecord_routes (v : Event) : (logRecord s v).routes = s.routes := by simp only [logRecord]
@[simp] theorem logRecord_tails (v : Event) : (logRecord s v).tails = s.tails := by simp only [logRecord]
@[simp] theorem logRecord_mem (v : Event) : (logRecord s v).mem = s.mem := by simp only [logRecord]
@[simp] theorem logRecord_groups (v : Event) : (logRecord s v).groups = s.groups := by simp only [logRecord]
@[simp] theorem logRecord_ports (v : Event) : (logRecord s v).ports = s.ports := by simp only [logRecord]
@[simp] theorem logRecord_bridges (v : Event) : (logRecord s v).bridges = s.bridges := by simp only [logRecord]
@[simp] theorem logRecord_links (v : Event) : (logRecord s v).links = s.links := by simp only [logRecord]
@[simp] theorem logRecord_grove (v : Event) : (logRecord s v).grove = s.grove := by simp only [logRecord]
@[simp] theorem logRecord_streams (v : Event) : (logRecord s v).streams = s.streams := by simp only [logRecord]
@[simp] theorem logRecord_leaving (v : Event) : (logRecord s v).leaving = s.leaving := by simp only [logRecord]
@[simp] theorem logRecord_mgmt (v : Event) : (logRecord s v).mgmt = s.mgmt := by simp only [logRecord]
@[simp] theorem logRecord_heart (v : Event) : (logRecord s v).heart = s.heart := by simp only [logRecord]
@[simp] theorem logRecord_power (v : Event) : (logRecord s v).power = s.power := by simp only [logRecord]
@[simp] theorem logRecord_jtag (v : Event) : (logRecord s v).jtag = s.jtag := by simp only [logRecord]
@[simp] theorem logRecord_fuses (v : Event) : (logRecord s v).fuses = s.fuses := by simp only [logRecord]
@[simp] theorem logRecord_flash (v : Event) : (logRecord s v).flash = s.flash := by simp only [logRecord]
@[simp] theorem logRecord_cfg (v : Event) : (logRecord s v).cfg = s.cfg := by simp only [logRecord]
@[simp] theorem logRecord_epoch (v : Event) : (logRecord s v).epoch = s.epoch := by simp only [logRecord]
@[simp] theorem logRecord_fresh (v : Event) : (logRecord s v).fresh = s.fresh := by simp only [logRecord]
theorem logRecord_frame (v : Event) : { logRecord s v with events := s.events } = s := by simp
@[simp] theorem logRecord_eng (v : Event) (j : Nat) : eng (logRecord s v) j = eng s j := by unfold eng; simp
@[simp] theorem logRecord_route (v : Event) (j : Nat) : route (logRecord s v) j = route s j := by unfold route; simp
@[simp] theorem logRecord_group (v : Event) (j : Nat) : group (logRecord s v) j = group s j := by unfold group; simp
@[simp] theorem logRecord_port (v : Event) (j : Nat) : port (logRecord s v) j = port s j := by unfold port; simp
@[simp] theorem logRecord_bridge (v : Event) (j : Nat) : bridge (logRecord s v) j = bridge s j := by unfold bridge; simp
@[simp] theorem logRecord_link (v : Event) (j : Nat) : link (logRecord s v) j = link s j := by unfold link; simp
@[simp] theorem logRecord_stream (v : Event) (j : Nat) : stream (logRecord s v) j = stream s j := by unfold stream; simp
@[simp] theorem logRecord_bank (v : Event) (j : Nat) : bank (logRecord s v) j = bank s j := by unfold bank; simp
@[simp] theorem logRecord_cross (v : Event) (j : Nat) : cross (logRecord s v) j = cross s j := by unfold cross; simp
@[simp] theorem logRecord_session (v : Event) (j : Nat) : session (logRecord s v) j = session s j := by unfold session; simp
@[simp] theorem logRecord_portCfg (v : Event) (j : Nat) : portCfg (logRecord s v) j = portCfg s j := by unfold portCfg; simp
@[simp] theorem logRecord_rbCfg (v : Event) (j : Nat) : rbCfg (logRecord s v) j = rbCfg s j := by unfold rbCfg; simp
@[simp] theorem logRecord_linkCfg (v : Event) (j : Nat) : linkCfg (logRecord s v) j = linkCfg s j := by unfold linkCfg; simp
@[simp] theorem logRecord_engClass (v : Event) (j : Nat) : engClass (logRecord s v) j = engClass s j := by unfold engClass; simp
@[simp] theorem logRecord_now (v : Event) : now (logRecord s v) = now s := by unfold now; simp

/-! ### queueRecord -/

@[simp] theorem queueRecord_pending (v : Event) : (queueRecord s v).pending = s.pending := by unfold queueRecord; dsimp only; split <;> rfl
@[simp] theorem queueRecord_clocks (v : Event) : (queueRecord s v).clocks = s.clocks := by unfold queueRecord; dsimp only; split <;> rfl
@[simp] theorem queueRecord_engines (v : Event) : (queueRecord s v).engines = s.engines := by unfold queueRecord; dsimp only; split <;> rfl
@[simp] theorem queueRecord_routes (v : Event) : (queueRecord s v).routes = s.routes := by unfold queueRecord; dsimp only; split <;> rfl
@[simp] theorem queueRecord_tails (v : Event) : (queueRecord s v).tails = s.tails := by unfold queueRecord; dsimp only; split <;> rfl
@[simp] theorem queueRecord_mem (v : Event) : (queueRecord s v).mem = s.mem := by unfold queueRecord; dsimp only; split <;> rfl
@[simp] theorem queueRecord_groups (v : Event) : (queueRecord s v).groups = s.groups := by unfold queueRecord; dsimp only; split <;> rfl
@[simp] theorem queueRecord_ports (v : Event) : (queueRecord s v).ports = s.ports := by unfold queueRecord; dsimp only; split <;> rfl
@[simp] theorem queueRecord_bridges (v : Event) : (queueRecord s v).bridges = s.bridges := by unfold queueRecord; dsimp only; split <;> rfl
@[simp] theorem queueRecord_links (v : Event) : (queueRecord s v).links = s.links := by unfold queueRecord; dsimp only; split <;> rfl
@[simp] theorem queueRecord_grove (v : Event) : (queueRecord s v).grove = s.grove := by unfold queueRecord; dsimp only; split <;> rfl
@[simp] theorem queueRecord_streams (v : Event) : (queueRecord s v).streams = s.streams := by unfold queueRecord; dsimp only; split <;> rfl
@[simp] theorem queueRecord_leaving (v : Event) : (queueRecord s v).leaving = s.leaving := by unfold queueRecord; dsimp only; split <;> rfl
@[simp] theorem queueRecord_mgmt (v : Event) : (queueRecord s v).mgmt = s.mgmt := by unfold queueRecord; dsimp only; split <;> rfl
@[simp] theorem queueRecord_heart (v : Event) : (queueRecord s v).heart = s.heart := by unfold queueRecord; dsimp only; split <;> rfl
@[simp] theorem queueRecord_power (v : Event) : (queueRecord s v).power = s.power := by unfold queueRecord; dsimp only; split <;> rfl
@[simp] theorem queueRecord_jtag (v : Event) : (queueRecord s v).jtag = s.jtag := by unfold queueRecord; dsimp only; split <;> rfl
@[simp] theorem queueRecord_fuses (v : Event) : (queueRecord s v).fuses = s.fuses := by unfold queueRecord; dsimp only; split <;> rfl
@[simp] theorem queueRecord_flash (v : Event) : (queueRecord s v).flash = s.flash := by unfold queueRecord; dsimp only; split <;> rfl
@[simp] theorem queueRecord_cfg (v : Event) : (queueRecord s v).cfg = s.cfg := by unfold queueRecord; dsimp only; split <;> rfl
@[simp] theorem queueRecord_epoch (v : Event) : (queueRecord s v).epoch = s.epoch := by unfold queueRecord; dsimp only; split <;> rfl
@[simp] theorem queueRecord_fresh (v : Event) : (queueRecord s v).fresh = s.fresh := by unfold queueRecord; dsimp only; split <;> rfl
theorem queueRecord_frame (v : Event) : { queueRecord s v with events := s.events } = s := by simp
@[simp] theorem queueRecord_eng (v : Event) (j : Nat) : eng (queueRecord s v) j = eng s j := by unfold eng; simp
@[simp] theorem queueRecord_route (v : Event) (j : Nat) : route (queueRecord s v) j = route s j := by unfold route; simp
@[simp] theorem queueRecord_group (v : Event) (j : Nat) : group (queueRecord s v) j = group s j := by unfold group; simp
@[simp] theorem queueRecord_port (v : Event) (j : Nat) : port (queueRecord s v) j = port s j := by unfold port; simp
@[simp] theorem queueRecord_bridge (v : Event) (j : Nat) : bridge (queueRecord s v) j = bridge s j := by unfold bridge; simp
@[simp] theorem queueRecord_link (v : Event) (j : Nat) : link (queueRecord s v) j = link s j := by unfold link; simp
@[simp] theorem queueRecord_stream (v : Event) (j : Nat) : stream (queueRecord s v) j = stream s j := by unfold stream; simp
@[simp] theorem queueRecord_bank (v : Event) (j : Nat) : bank (queueRecord s v) j = bank s j := by unfold bank; simp
@[simp] theorem queueRecord_cross (v : Event) (j : Nat) : cross (queueRecord s v) j = cross s j := by unfold cross; simp
@[simp] theorem queueRecord_session (v : Event) (j : Nat) : session (queueRecord s v) j = session s j := by unfold session; simp
@[simp] theorem queueRecord_portCfg (v : Event) (j : Nat) : portCfg (queueRecord s v) j = portCfg s j := by unfold portCfg; simp
@[simp] theorem queueRecord_rbCfg (v : Event) (j : Nat) : rbCfg (queueRecord s v) j = rbCfg s j := by unfold rbCfg; simp
@[simp] theorem queueRecord_linkCfg (v : Event) (j : Nat) : linkCfg (queueRecord s v) j = linkCfg s j := by unfold linkCfg; simp
@[simp] theorem queueRecord_engClass (v : Event) (j : Nat) : engClass (queueRecord s v) j = engClass s j := by unfold engClass; simp
@[simp] theorem queueRecord_now (v : Event) : now (queueRecord s v) = now s := by unfold now; simp

/-! ### record -/

@[simp] theorem record_pending (c u : Nat) (a : Long) (t : MT) (i : Bool) : (record s c u a t i).pending = s.pending := by unfold record; dsimp only; split <;> simp
@[simp] theorem record_clocks (c u : Nat) (a : Long) (t : MT) (i : Bool) : (record s c u a t i).clocks = s.clocks := by unfold record; dsimp only; split <;> simp
@[simp] theorem record_engines (c u : Nat) (a : Long) (t : MT) (i : Bool) : (record s c u a t i).engines = s.engines := by unfold record; dsimp only; split <;> simp
@[simp] theorem record_routes (c u : Nat) (a : Long) (t : MT) (i : Bool) : (record s c u a t i).routes = s.routes := by unfold record; dsimp only; split <;> simp
@[simp] theorem record_tails (c u : Nat) (a : Long) (t : MT) (i : Bool) : (record s c u a t i).tails = s.tails := by unfold record; dsimp only; split <;> simp
@[simp] theorem record_mem (c u : Nat) (a : Long) (t : MT) (i : Bool) : (record s c u a t i).mem = s.mem := by unfold record; dsimp only; split <;> simp
@[simp] theorem record_groups (c u : Nat) (a : Long) (t : MT) (i : Bool) : (record s c u a t i).groups = s.groups := by unfold record; dsimp only; split <;> simp
@[simp] theorem record_ports (c u : Nat) (a : Long) (t : MT) (i : Bool) : (record s c u a t i).ports = s.ports := by unfold record; dsimp only; split <;> simp
@[simp] theorem record_bridges (c u : Nat) (a : Long) (t : MT) (i : Bool) : (record s c u a t i).bridges = s.bridges := by unfold record; dsimp only; split <;> simp
@[simp] theorem record_links (c u : Nat) (a : Long) (t : MT) (i : Bool) : (record s c u a t i).links = s.links := by unfold record; dsimp only; split <;> simp
@[simp] theorem record_grove (c u : Nat) (a : Long) (t : MT) (i : Bool) : (record s c u a t i).grove = s.grove := by unfold record; dsimp only; split <;> simp
@[simp] theorem record_streams (c u : Nat) (a : Long) (t : MT) (i : Bool) : (record s c u a t i).streams = s.streams := by unfold record; dsimp only; split <;> simp
@[simp] theorem record_leaving (c u : Nat) (a : Long) (t : MT) (i : Bool) : (record s c u a t i).leaving = s.leaving := by unfold record; dsimp only; split <;> simp
@[simp] theorem record_mgmt (c u : Nat) (a : Long) (t : MT) (i : Bool) : (record s c u a t i).mgmt = s.mgmt := by unfold record; dsimp only; split <;> simp
@[simp] theorem record_heart (c u : Nat) (a : Long) (t : MT) (i : Bool) : (record s c u a t i).heart = s.heart := by unfold record; dsimp only; split <;> simp
@[simp] theorem record_power (c u : Nat) (a : Long) (t : MT) (i : Bool) : (record s c u a t i).power = s.power := by unfold record; dsimp only; split <;> simp
@[simp] theorem record_jtag (c u : Nat) (a : Long) (t : MT) (i : Bool) : (record s c u a t i).jtag = s.jtag := by unfold record; dsimp only; split <;> simp
@[simp] theorem record_fuses (c u : Nat) (a : Long) (t : MT) (i : Bool) : (record s c u a t i).fuses = s.fuses := by unfold record; dsimp only; split <;> simp
@[simp] theorem record_flash (c u : Nat) (a : Long) (t : MT) (i : Bool) : (record s c u a t i).flash = s.flash := by unfold record; dsimp only; split <;> simp
@[simp] theorem record_cfg (c u : Nat) (a : Long) (t : MT) (i : Bool) : (record s c u a t i).cfg = s.cfg := by unfold record; dsimp only; split <;> simp
@[simp] theorem record_epoch (c u : Nat) (a : Long) (t : MT) (i : Bool) : (record s c u a t i).epoch = s.epoch := by unfold record; dsimp only; split <;> simp
@[simp] theorem record_fresh (c u : Nat) (a : Long) (t : MT) (i : Bool) : (record s c u a t i).fresh = s.fresh := by unfold record; dsimp only; split <;> simp
theorem record_frame (c u : Nat) (a : Long) (t : MT) (i : Bool) : { record s c u a t i with events := s.events } = s := by simp
@[simp] theorem record_eng (c u : Nat) (a : Long) (t : MT) (i : Bool) (j : Nat) : eng (record s c u a t i) j = eng s j := by unfold eng; simp
@[simp] theorem record_route (c u : Nat) (a : Long) (t : MT) (i : Bool) (j : Nat) : route (record s c u a t i) j = route s j := by unfold route; simp
@[simp] theorem record_group (c u : Nat) (a : Long) (t : MT) (i : Bool) (j : Nat) : group (record s c u a t i) j = group s j := by unfold group; simp
@[simp] theorem record_port (c u : Nat) (a : Long) (t : MT) (i : Bool) (j : Nat) : port (record s c u a t i) j = port s j := by unfold port; simp
@[simp] theorem record_bridge (c u : Nat) (a : Long) (t : MT) (i : Bool) (j : Nat) : bridge (record s c u a t i) j = bridge s j := by unfold bridge; simp
@[simp] theorem record_link (c u : Nat) (a : Long) (t : MT) (i : Bool) (j : Nat) : link (record s c u a t i) j = link s j := by unfold link; simp
@[simp] theorem record_stream (c u : Nat) (a : Long) (t : MT) (i : Bool) (j : Nat) : stream (record s c u a t i) j = stream s j := by unfold stream; simp
@[simp] theorem record_bank (c u : Nat) (a : Long) (t : MT) (i : Bool) (j : Nat) : bank (record s c u a t i) j = bank s j := by unfold bank; simp
@[simp] theorem record_cross (c u : Nat) (a : Long) (t : MT) (i : Bool) (j : Nat) : cross (record s c u a t i) j = cross s j := by unfold cross; simp
@[simp] theorem record_session (c u : Nat) (a : Long) (t : MT) (i : Bool) (j : Nat) : session (record s c u a t i) j = session s j := by unfold session; simp
@[simp] theorem record_portCfg (c u : Nat) (a : Long) (t : MT) (i : Bool) (j : Nat) : portCfg (record s c u a t i) j = portCfg s j := by unfold portCfg; simp
@[simp] theorem record_rbCfg (c u : Nat) (a : Long) (t : MT) (i : Bool) (j : Nat) : rbCfg (record s c u a t i) j = rbCfg s j := by unfold rbCfg; simp
@[simp] theorem record_linkCfg (c u : Nat) (a : Long) (t : MT) (i : Bool) (j : Nat) : linkCfg (record s c u a t i) j = linkCfg s j := by unfold linkCfg; simp
@[simp] theorem record_engClass (c u : Nat) (a : Long) (t : MT) (i : Bool) (j : Nat) : engClass (record s c u a t i) j = engClass s j := by unfold engClass; simp
@[simp] theorem record_now (c u : Nat) (a : Long) (t : MT) (i : Bool) : now (record s c u a t i) = now s := by unfold now; simp

/-! ### detectWhen -/

@[simp] theorem detectWhen_pending (t : MT) (c u : Nat) (a : Long) (i : Bool) : (detectWhen s t c u a i).pending = s.pending := by unfold detectWhen; dsimp only; (repeat' split) <;> simp
@[simp] theorem detectWhen_clocks (t : MT) (c u : Nat) (a : Long) (i : Bool) : (detectWhen s t c u a i).clocks = s.clocks := by unfold detectWhen; dsimp only; (repeat' split) <;> simp
@[simp] theorem detectWhen_engines (t : MT) (c u : Nat) (a : Long) (i : Bool) : (detectWhen s t c u a i).engines = s.engines := by unfold detectWhen; dsimp only; (repeat' split) <;> simp
@[simp] theorem detectWhen_routes (t : MT) (c u : Nat) (a : Long) (i : Bool) : (detectWhen s t c u a i).routes = s.routes := by unfold detectWhen; dsimp only; (repeat' split) <;> simp
@[simp] theorem detectWhen_tails (t : MT) (c u : Nat) (a : Long) (i : Bool) : (detectWhen s t c u a i).tails = s.tails := by unfold detectWhen; dsimp only; (repeat' split) <;> simp
@[simp] theorem detectWhen_mem (t : MT) (c u : Nat) (a : Long) (i : Bool) : (detectWhen s t c u a i).mem = s.mem := by unfold detectWhen; dsimp only; (repeat' split) <;> simp
@[simp] theorem detectWhen_groups (t : MT) (c u : Nat) (a : Long) (i : Bool) : (detectWhen s t c u a i).groups = s.groups := by unfold detectWhen; dsimp only; (repeat' split) <;> simp
@[simp] theorem detectWhen_ports (t : MT) (c u : Nat) (a : Long) (i : Bool) : (detectWhen s t c u a i).ports = s.ports := by unfold detectWhen; dsimp only; (repeat' split) <;> simp
@[simp] theorem detectWhen_bridges (t : MT) (c u : Nat) (a : Long) (i : Bool) : (detectWhen s t c u a i).bridges = s.bridges := by unfold detectWhen; dsimp only; (repeat' split) <;> simp
@[simp] theorem detectWhen_links (t : MT) (c u : Nat) (a : Long) (i : Bool) : (detectWhen s t c u a i).links = s.links := by unfold detectWhen; dsimp only; (repeat' split) <;> simp
@[simp] theorem detectWhen_grove (t : MT) (c u : Nat) (a : Long) (i : Bool) : (detectWhen s t c u a i).grove = s.grove := by unfold detectWhen; dsimp only; (repeat' split) <;> simp
@[simp] theorem detectWhen_streams (t : MT) (c u : Nat) (a : Long) (i : Bool) : (detectWhen s t c u a i).streams = s.streams := by unfold detectWhen; dsimp only; (repeat' split) <;> simp
@[simp] theorem detectWhen_leaving (t : MT) (c u : Nat) (a : Long) (i : Bool) : (detectWhen s t c u a i).leaving = s.leaving := by unfold detectWhen; dsimp only; (repeat' split) <;> simp
@[simp] theorem detectWhen_mgmt (t : MT) (c u : Nat) (a : Long) (i : Bool) : (detectWhen s t c u a i).mgmt = s.mgmt := by unfold detectWhen; dsimp only; (repeat' split) <;> simp
@[simp] theorem detectWhen_heart (t : MT) (c u : Nat) (a : Long) (i : Bool) : (detectWhen s t c u a i).heart = s.heart := by unfold detectWhen; dsimp only; (repeat' split) <;> simp
@[simp] theorem detectWhen_power (t : MT) (c u : Nat) (a : Long) (i : Bool) : (detectWhen s t c u a i).power = s.power := by unfold detectWhen; dsimp only; (repeat' split) <;> simp
@[simp] theorem detectWhen_jtag (t : MT) (c u : Nat) (a : Long) (i : Bool) : (detectWhen s t c u a i).jtag = s.jtag := by unfold detectWhen; dsimp only; (repeat' split) <;> simp
@[simp] theorem detectWhen_fuses (t : MT) (c u : Nat) (a : Long) (i : Bool) : (detectWhen s t c u a i).fuses = s.fuses := by unfold detectWhen; dsimp only; (repeat' split) <;> simp
@[simp] theorem detectWhen_flash (t : MT) (c u : Nat) (a : Long) (i : Bool) : (detectWhen s t c u a i).flash = s.flash := by unfold detectWhen; dsimp only; (repeat' split) <;> simp
@[simp] theorem detectWhen_cfg (t : MT) (c u : Nat) (a : Long) (i : Bool) : (detectWhen s t c u a i).cfg = s.cfg := by unfold detectWhen; dsimp only; (repeat' split) <;> simp
@[simp] theorem detectWhen_epoch (t : MT) (c u : Nat) (a : Long) (i : Bool) : (detectWhen s t c u a i).epoch = s.epoch := by unfold detectWhen; dsimp only; (repeat' split) <;> simp
@[simp] theorem detectWhen_fresh (t : MT) (c u : Nat) (a : Long) (i : Bool) : (detectWhen s t c u a i).fresh = s.fresh := by unfold detectWhen; dsimp only; (repeat' split) <;> simp
theorem detectWhen_frame (t : MT) (c u : Nat) (a : Long) (i : Bool) : { detectWhen s t c u a i with events := s.events } = s := by simp
@[simp] theorem detectWhen_eng (t : MT) (c u : Nat) (a : Long) (i : Bool) (j : Nat) : eng (detectWhen s t c u a i) j = eng s j := by unfold eng; simp
@[simp] theorem detectWhen_route (t : MT) (c u : Nat) (a : Long) (i : Bool) (j : Nat) : route (detectWhen s t c u a i) j = route s j := by unfold route; simp
@[simp] theorem detectWhen_group (t : MT) (c u : Nat) (a : Long) (i : Bool) (j : Nat) : group (detectWhen s t c u a i) j = group s j := by unfold group; simp
@[simp] theorem detectWhen_port (t : MT) (c u : Nat) (a : Long) (i : Bool) (j : Nat) : port (detectWhen s t c u a i) j = port s j := by unfold port; simp
@[simp] theorem detectWhen_bridge (t : MT) (c u : Nat) (a : Long) (i : Bool) (j : Nat) : bridge (detectWhen s t c u a i) j = bridge s j := by unfold bridge; simp
@[simp] theorem detectWhen_link (t : MT) (c u : Nat) (a : Long) (i : Bool) (j : Nat) : link (detectWhen s t c u a i) j = link s j := by unfold link; simp
@[simp] theorem detectWhen_stream (t : MT) (c u : Nat) (a : Long) (i : Bool) (j : Nat) : stream (detectWhen s t c u a i) j = stream s j := by unfold stream; simp
@[simp] theorem detectWhen_bank (t : MT) (c u : Nat) (a : Long) (i : Bool) (j : Nat) : bank (detectWhen s t c u a i) j = bank s j := by unfold bank; simp
@[simp] theorem detectWhen_cross (t : MT) (c u : Nat) (a : Long) (i : Bool) (j : Nat) : cross (detectWhen s t c u a i) j = cross s j := by unfold cross; simp
@[simp] theorem detectWhen_session (t : MT) (c u : Nat) (a : Long) (i : Bool) (j : Nat) : session (detectWhen s t c u a i) j = session s j := by unfold session; simp
@[simp] theorem detectWhen_portCfg (t : MT) (c u : Nat) (a : Long) (i : Bool) (j : Nat) : portCfg (detectWhen s t c u a i) j = portCfg s j := by unfold portCfg; simp
@[simp] theorem detectWhen_rbCfg (t : MT) (c u : Nat) (a : Long) (i : Bool) (j : Nat) : rbCfg (detectWhen s t c u a i) j = rbCfg s j := by unfold rbCfg; simp
@[simp] theorem detectWhen_linkCfg (t : MT) (c u : Nat) (a : Long) (i : Bool) (j : Nat) : linkCfg (detectWhen s t c u a i) j = linkCfg s j := by unfold linkCfg; simp
@[simp] theorem detectWhen_engClass (t : MT) (c u : Nat) (a : Long) (i : Bool) (j : Nat) : engClass (detectWhen s t c u a i) j = engClass s j := by unfold engClass; simp
@[simp] theorem detectWhen_now (t : MT) (c u : Nat) (a : Long) (i : Bool) : now (detectWhen s t c u a i) = now s := by unfold now; simp

/-! ### detectAs -/

@[simp] theorem detectAs_pending (c u : Nat) (a : Long) (i : Bool) : (detectAs s c u a i).pending = s.pending := detectWhen_pending ..
@[simp] theorem detectAs_clocks (c u : Nat) (a : Long) (i : Bool) : (detectAs s c u a i).clocks = s.clocks := detectWhen_clocks ..
@[simp] theorem detectAs_engines (c u : Nat) (a : Long) (i : Bool) : (detectAs s c u a i).engines = s.engines := detectWhen_engines ..
@[simp] theorem detectAs_routes (c u : Nat) (a : Long) (i : Bool) : (detectAs s c u a i).routes = s.routes := detectWhen_routes ..
@[simp] theorem detectAs_tails (c u : Nat) (a : Long) (i : Bool) : (detectAs s c u a i).tails = s.tails := detectWhen_tails ..
@[simp] theorem detectAs_mem (c u : Nat) (a : Long) (i : Bool) : (detectAs s c u a i).mem = s.mem := detectWhen_mem ..
@[simp] theorem detectAs_groups (c u : Nat) (a : Long) (i : Bool) : (detectAs s c u a i).groups = s.groups := detectWhen_groups ..
@[simp] theorem detectAs_ports (c u : Nat) (a : Long) (i : Bool) : (detectAs s c u a i).ports = s.ports := detectWhen_ports ..
@[simp] theorem detectAs_bridges (c u : Nat) (a : Long) (i : Bool) : (detectAs s c u a i).bridges = s.bridges := detectWhen_bridges ..
@[simp] theorem detectAs_links (c u : Nat) (a : Long) (i : Bool) : (detectAs s c u a i).links = s.links := detectWhen_links ..
@[simp] theorem detectAs_grove (c u : Nat) (a : Long) (i : Bool) : (detectAs s c u a i).grove = s.grove := detectWhen_grove ..
@[simp] theorem detectAs_streams (c u : Nat) (a : Long) (i : Bool) : (detectAs s c u a i).streams = s.streams := detectWhen_streams ..
@[simp] theorem detectAs_leaving (c u : Nat) (a : Long) (i : Bool) : (detectAs s c u a i).leaving = s.leaving := detectWhen_leaving ..
@[simp] theorem detectAs_mgmt (c u : Nat) (a : Long) (i : Bool) : (detectAs s c u a i).mgmt = s.mgmt := detectWhen_mgmt ..
@[simp] theorem detectAs_heart (c u : Nat) (a : Long) (i : Bool) : (detectAs s c u a i).heart = s.heart := detectWhen_heart ..
@[simp] theorem detectAs_power (c u : Nat) (a : Long) (i : Bool) : (detectAs s c u a i).power = s.power := detectWhen_power ..
@[simp] theorem detectAs_jtag (c u : Nat) (a : Long) (i : Bool) : (detectAs s c u a i).jtag = s.jtag := detectWhen_jtag ..
@[simp] theorem detectAs_fuses (c u : Nat) (a : Long) (i : Bool) : (detectAs s c u a i).fuses = s.fuses := detectWhen_fuses ..
@[simp] theorem detectAs_flash (c u : Nat) (a : Long) (i : Bool) : (detectAs s c u a i).flash = s.flash := detectWhen_flash ..
@[simp] theorem detectAs_cfg (c u : Nat) (a : Long) (i : Bool) : (detectAs s c u a i).cfg = s.cfg := detectWhen_cfg ..
@[simp] theorem detectAs_epoch (c u : Nat) (a : Long) (i : Bool) : (detectAs s c u a i).epoch = s.epoch := detectWhen_epoch ..
@[simp] theorem detectAs_fresh (c u : Nat) (a : Long) (i : Bool) : (detectAs s c u a i).fresh = s.fresh := detectWhen_fresh ..
theorem detectAs_frame (c u : Nat) (a : Long) (i : Bool) : { detectAs s c u a i with events := s.events } = s := by simp
@[simp] theorem detectAs_eng (c u : Nat) (a : Long) (i : Bool) (j : Nat) : eng (detectAs s c u a i) j = eng s j := by unfold eng; simp
@[simp] theorem detectAs_route (c u : Nat) (a : Long) (i : Bool) (j : Nat) : route (detectAs s c u a i) j = route s j := by unfold route; simp
@[simp] theorem detectAs_group (c u : Nat) (a : Long) (i : Bool) (j : Nat) : group (detectAs s c u a i) j = group s j := by unfold group; simp
@[simp] theorem detectAs_port (c u : Nat) (a : Long) (i : Bool) (j : Nat) : port (detectAs s c u a i) j = port s j := by unfold port; simp
@[simp] theorem detectAs_bridge (c u : Nat) (a : Long) (i : Bool) (j : Nat) : bridge (detectAs s c u a i) j = bridge s j := by unfold bridge; simp
@[simp] theorem detectAs_link (c u : Nat) (a : Long) (i : Bool) (j : Nat) : link (detectAs s c u a i) j = link s j := by unfold link; simp
@[simp] theorem detectAs_stream (c u : Nat) (a : Long) (i : Bool) (j : Nat) : stream (detectAs s c u a i) j = stream s j := by unfold stream; simp
@[simp] theorem detectAs_bank (c u : Nat) (a : Long) (i : Bool) (j : Nat) : bank (detectAs s c u a i) j = bank s j := by unfold bank; simp
@[simp] theorem detectAs_cross (c u : Nat) (a : Long) (i : Bool) (j : Nat) : cross (detectAs s c u a i) j = cross s j := by unfold cross; simp
@[simp] theorem detectAs_session (c u : Nat) (a : Long) (i : Bool) (j : Nat) : session (detectAs s c u a i) j = session s j := by unfold session; simp
@[simp] theorem detectAs_portCfg (c u : Nat) (a : Long) (i : Bool) (j : Nat) : portCfg (detectAs s c u a i) j = portCfg s j := by unfold portCfg; simp
@[simp] theorem detectAs_rbCfg (c u : Nat) (a : Long) (i : Bool) (j : Nat) : rbCfg (detectAs s c u a i) j = rbCfg s j := by unfold rbCfg; simp
@[simp] theorem detectAs_linkCfg (c u : Nat) (a : Long) (i : Bool) (j : Nat) : linkCfg (detectAs s c u a i) j = linkCfg s j := by unfold linkCfg; simp
@[simp] theorem detectAs_engClass (c u : Nat) (a : Long) (i : Bool) (j : Nat) : engClass (detectAs s c u a i) j = engClass s j := by unfold engClass; simp
@[simp] theorem detectAs_now (c u : Nat) (a : Long) (i : Bool) : now (detectAs s c u a i) = now s := by unfold now; simp

/-! ### detect -/

@[simp] theorem detect_pending (c u : Nat) (a : Long) : (detect s c u a).pending = s.pending := detectAs_pending ..
@[simp] theorem detect_clocks (c u : Nat) (a : Long) : (detect s c u a).clocks = s.clocks := detectAs_clocks ..
@[simp] theorem detect_engines (c u : Nat) (a : Long) : (detect s c u a).engines = s.engines := detectAs_engines ..
@[simp] theorem detect_routes (c u : Nat) (a : Long) : (detect s c u a).routes = s.routes := detectAs_routes ..
@[simp] theorem detect_tails (c u : Nat) (a : Long) : (detect s c u a).tails = s.tails := detectAs_tails ..
@[simp] theorem detect_mem (c u : Nat) (a : Long) : (detect s c u a).mem = s.mem := detectAs_mem ..
@[simp] theorem detect_groups (c u : Nat) (a : Long) : (detect s c u a).groups = s.groups := detectAs_groups ..
@[simp] theorem detect_ports (c u : Nat) (a : Long) : (detect s c u a).ports = s.ports := detectAs_ports ..
@[simp] theorem detect_bridges (c u : Nat) (a : Long) : (detect s c u a).bridges = s.bridges := detectAs_bridges ..
@[simp] theorem detect_links (c u : Nat) (a : Long) : (detect s c u a).links = s.links := detectAs_links ..
@[simp] theorem detect_grove (c u : Nat) (a : Long) : (detect s c u a).grove = s.grove := detectAs_grove ..
@[simp] theorem detect_streams (c u : Nat) (a : Long) : (detect s c u a).streams = s.streams := detectAs_streams ..
@[simp] theorem detect_leaving (c u : Nat) (a : Long) : (detect s c u a).leaving = s.leaving := detectAs_leaving ..
@[simp] theorem detect_mgmt (c u : Nat) (a : Long) : (detect s c u a).mgmt = s.mgmt := detectAs_mgmt ..
@[simp] theorem detect_heart (c u : Nat) (a : Long) : (detect s c u a).heart = s.heart := detectAs_heart ..
@[simp] theorem detect_power (c u : Nat) (a : Long) : (detect s c u a).power = s.power := detectAs_power ..
@[simp] theorem detect_jtag (c u : Nat) (a : Long) : (detect s c u a).jtag = s.jtag := detectAs_jtag ..
@[simp] theorem detect_fuses (c u : Nat) (a : Long) : (detect s c u a).fuses = s.fuses := detectAs_fuses ..
@[simp] theorem detect_flash (c u : Nat) (a : Long) : (detect s c u a).flash = s.flash := detectAs_flash ..
@[simp] theorem detect_cfg (c u : Nat) (a : Long) : (detect s c u a).cfg = s.cfg := detectAs_cfg ..
@[simp] theorem detect_epoch (c u : Nat) (a : Long) : (detect s c u a).epoch = s.epoch := detectAs_epoch ..
@[simp] theorem detect_fresh (c u : Nat) (a : Long) : (detect s c u a).fresh = s.fresh := detectAs_fresh ..
theorem detect_frame (c u : Nat) (a : Long) : { detect s c u a with events := s.events } = s := by simp
@[simp] theorem detect_eng (c u : Nat) (a : Long) (j : Nat) : eng (detect s c u a) j = eng s j := by unfold eng; simp
@[simp] theorem detect_route (c u : Nat) (a : Long) (j : Nat) : route (detect s c u a) j = route s j := by unfold route; simp
@[simp] theorem detect_group (c u : Nat) (a : Long) (j : Nat) : group (detect s c u a) j = group s j := by unfold group; simp
@[simp] theorem detect_port (c u : Nat) (a : Long) (j : Nat) : port (detect s c u a) j = port s j := by unfold port; simp
@[simp] theorem detect_bridge (c u : Nat) (a : Long) (j : Nat) : bridge (detect s c u a) j = bridge s j := by unfold bridge; simp
@[simp] theorem detect_link (c u : Nat) (a : Long) (j : Nat) : link (detect s c u a) j = link s j := by unfold link; simp
@[simp] theorem detect_stream (c u : Nat) (a : Long) (j : Nat) : stream (detect s c u a) j = stream s j := by unfold stream; simp
@[simp] theorem detect_bank (c u : Nat) (a : Long) (j : Nat) : bank (detect s c u a) j = bank s j := by unfold bank; simp
@[simp] theorem detect_cross (c u : Nat) (a : Long) (j : Nat) : cross (detect s c u a) j = cross s j := by unfold cross; simp
@[simp] theorem detect_session (c u : Nat) (a : Long) (j : Nat) : session (detect s c u a) j = session s j := by unfold session; simp
@[simp] theorem detect_portCfg (c u : Nat) (a : Long) (j : Nat) : portCfg (detect s c u a) j = portCfg s j := by unfold portCfg; simp
@[simp] theorem detect_rbCfg (c u : Nat) (a : Long) (j : Nat) : rbCfg (detect s c u a) j = rbCfg s j := by unfold rbCfg; simp
@[simp] theorem detect_linkCfg (c u : Nat) (a : Long) (j : Nat) : linkCfg (detect s c u a) j = linkCfg s j := by unfold linkCfg; simp
@[simp] theorem detect_engClass (c u : Nat) (a : Long) (j : Nat) : engClass (detect s c u a) j = engClass s j := by unfold engClass; simp
@[simp] theorem detect_now (c u : Nat) (a : Long) : now (detect s c u a) = now s := by unfold now; simp

/-! ### sendTo -/

@[simp] theorem sendTo_pending (i : Iface) (a : Long) (p : Word) (m : OutMsg) : (sendTo s i a p m).pending = s.pending := by cases i <;> rfl
@[simp] theorem sendTo_clocks (i : Iface) (a : Long) (p : Word) (m : OutMsg) : (sendTo s i a p m).clocks = s.clocks := by cases i <;> rfl
@[simp] theorem sendTo_engines (i : Iface) (a : Long) (p : Word) (m : OutMsg) : (sendTo s i a p m).engines = s.engines := by cases i <;> rfl
@[simp] theorem sendTo_routes (i : Iface) (a : Long) (p : Word) (m : OutMsg) : (sendTo s i a p m).routes = s.routes := by cases i <;> rfl
@[simp] theorem sendTo_tails (i : Iface) (a : Long) (p : Word) (m : OutMsg) : (sendTo s i a p m).tails = s.tails := by cases i <;> rfl
@[simp] theorem sendTo_mem (i : Iface) (a : Long) (p : Word) (m : OutMsg) : (sendTo s i a p m).mem = s.mem := by cases i <;> rfl
@[simp] theorem sendTo_groups (i : Iface) (a : Long) (p : Word) (m : OutMsg) : (sendTo s i a p m).groups = s.groups := by cases i <;> rfl
@[simp] theorem sendTo_ports (i : Iface) (a : Long) (p : Word) (m : OutMsg) : (sendTo s i a p m).ports = s.ports := by cases i <;> rfl
@[simp] theorem sendTo_bridges (i : Iface) (a : Long) (p : Word) (m : OutMsg) : (sendTo s i a p m).bridges = s.bridges := by cases i <;> rfl
@[simp] theorem sendTo_links (i : Iface) (a : Long) (p : Word) (m : OutMsg) : (sendTo s i a p m).links = s.links := by cases i <;> rfl
@[simp] theorem sendTo_grove (i : Iface) (a : Long) (p : Word) (m : OutMsg) : (sendTo s i a p m).grove = s.grove := by cases i <;> rfl
@[simp] theorem sendTo_streams (i : Iface) (a : Long) (p : Word) (m : OutMsg) : (sendTo s i a p m).streams = s.streams := by cases i <;> rfl
@[simp] theorem sendTo_leaving (i : Iface) (a : Long) (p : Word) (m : OutMsg) : (sendTo s i a p m).leaving = s.leaving := by cases i <;> rfl
@[simp] theorem sendTo_events (i : Iface) (a : Long) (p : Word) (m : OutMsg) : (sendTo s i a p m).events = s.events := by cases i <;> rfl
@[simp] theorem sendTo_heart (i : Iface) (a : Long) (p : Word) (m : OutMsg) : (sendTo s i a p m).heart = s.heart := by cases i <;> rfl
@[simp] theorem sendTo_power (i : Iface) (a : Long) (p : Word) (m : OutMsg) : (sendTo s i a p m).power = s.power := by cases i <;> rfl
@[simp] theorem sendTo_jtag (i : Iface) (a : Long) (p : Word) (m : OutMsg) : (sendTo s i a p m).jtag = s.jtag := by cases i <;> rfl
@[simp] theorem sendTo_fuses (i : Iface) (a : Long) (p : Word) (m : OutMsg) : (sendTo s i a p m).fuses = s.fuses := by cases i <;> rfl
@[simp] theorem sendTo_flash (i : Iface) (a : Long) (p : Word) (m : OutMsg) : (sendTo s i a p m).flash = s.flash := by cases i <;> rfl
@[simp] theorem sendTo_cfg (i : Iface) (a : Long) (p : Word) (m : OutMsg) : (sendTo s i a p m).cfg = s.cfg := by cases i <;> rfl
@[simp] theorem sendTo_epoch (i : Iface) (a : Long) (p : Word) (m : OutMsg) : (sendTo s i a p m).epoch = s.epoch := by cases i <;> rfl
@[simp] theorem sendTo_fresh (i : Iface) (a : Long) (p : Word) (m : OutMsg) : (sendTo s i a p m).fresh = s.fresh := by cases i <;> rfl
theorem sendTo_frame (i : Iface) (a : Long) (p : Word) (m : OutMsg) : { sendTo s i a p m with mgmt := s.mgmt } = s := by simp
@[simp] theorem sendTo_eng (i : Iface) (a : Long) (p : Word) (m : OutMsg) (j : Nat) : eng (sendTo s i a p m) j = eng s j := by unfold eng; simp
@[simp] theorem sendTo_route (i : Iface) (a : Long) (p : Word) (m : OutMsg) (j : Nat) : route (sendTo s i a p m) j = route s j := by unfold route; simp
@[simp] theorem sendTo_group (i : Iface) (a : Long) (p : Word) (m : OutMsg) (j : Nat) : group (sendTo s i a p m) j = group s j := by unfold group; simp
@[simp] theorem sendTo_port (i : Iface) (a : Long) (p : Word) (m : OutMsg) (j : Nat) : port (sendTo s i a p m) j = port s j := by unfold port; simp
@[simp] theorem sendTo_bridge (i : Iface) (a : Long) (p : Word) (m : OutMsg) (j : Nat) : bridge (sendTo s i a p m) j = bridge s j := by unfold bridge; simp
@[simp] theorem sendTo_link (i : Iface) (a : Long) (p : Word) (m : OutMsg) (j : Nat) : link (sendTo s i a p m) j = link s j := by unfold link; simp
@[simp] theorem sendTo_stream (i : Iface) (a : Long) (p : Word) (m : OutMsg) (j : Nat) : stream (sendTo s i a p m) j = stream s j := by unfold stream; simp
@[simp] theorem sendTo_bank (i : Iface) (a : Long) (p : Word) (m : OutMsg) (j : Nat) : bank (sendTo s i a p m) j = bank s j := by unfold bank; simp
@[simp] theorem sendTo_cross (i : Iface) (a : Long) (p : Word) (m : OutMsg) (j : Nat) : cross (sendTo s i a p m) j = cross s j := by unfold cross; simp
@[simp] theorem sendTo_portCfg (i : Iface) (a : Long) (p : Word) (m : OutMsg) (j : Nat) : portCfg (sendTo s i a p m) j = portCfg s j := by unfold portCfg; simp
@[simp] theorem sendTo_rbCfg (i : Iface) (a : Long) (p : Word) (m : OutMsg) (j : Nat) : rbCfg (sendTo s i a p m) j = rbCfg s j := by unfold rbCfg; simp
@[simp] theorem sendTo_linkCfg (i : Iface) (a : Long) (p : Word) (m : OutMsg) (j : Nat) : linkCfg (sendTo s i a p m) j = linkCfg s j := by unfold linkCfg; simp
@[simp] theorem sendTo_engClass (i : Iface) (a : Long) (p : Word) (m : OutMsg) (j : Nat) : engClass (sendTo s i a p m) j = engClass s j := by unfold engClass; simp
@[simp] theorem sendTo_now (i : Iface) (a : Long) (p : Word) (m : OutMsg) : now (sendTo s i a p m) = now s := by unfold now; simp

/-! ### sendOn -/

@[simp] theorem sendOn_pending (k : Nat) (m : OutMsg) : (sendOn s k m).pending = s.pending := by unfold sendOn; simp
@[simp] theorem sendOn_clocks (k : Nat) (m : OutMsg) : (sendOn s k m).clocks = s.clocks := by unfold sendOn; simp
@[simp] theorem sendOn_engines (k : Nat) (m : OutMsg) : (sendOn s k m).engines = s.engines := by unfold sendOn; simp
@[simp] theorem sendOn_routes (k : Nat) (m : OutMsg) : (sendOn s k m).routes = s.routes := by unfold sendOn; simp
@[simp] theorem sendOn_tails (k : Nat) (m : OutMsg) : (sendOn s k m).tails = s.tails := by unfold sendOn; simp
@[simp] theorem sendOn_mem (k : Nat) (m : OutMsg) : (sendOn s k m).mem = s.mem := by unfold sendOn; simp
@[simp] theorem sendOn_groups (k : Nat) (m : OutMsg) : (sendOn s k m).groups = s.groups := by unfold sendOn; simp
@[simp] theorem sendOn_ports (k : Nat) (m : OutMsg) : (sendOn s k m).ports = s.ports := by unfold sendOn; simp
@[simp] theorem sendOn_bridges (k : Nat) (m : OutMsg) : (sendOn s k m).bridges = s.bridges := by unfold sendOn; simp
@[simp] theorem sendOn_links (k : Nat) (m : OutMsg) : (sendOn s k m).links = s.links := by unfold sendOn; simp
@[simp] theorem sendOn_grove (k : Nat) (m : OutMsg) : (sendOn s k m).grove = s.grove := by unfold sendOn; simp
@[simp] theorem sendOn_streams (k : Nat) (m : OutMsg) : (sendOn s k m).streams = s.streams := by unfold sendOn; simp
@[simp] theorem sendOn_leaving (k : Nat) (m : OutMsg) : (sendOn s k m).leaving = s.leaving := by unfold sendOn; simp
@[simp] theorem sendOn_events (k : Nat) (m : OutMsg) : (sendOn s k m).events = s.events := by unfold sendOn; simp
@[simp] theorem sendOn_heart (k : Nat) (m : OutMsg) : (sendOn s k m).heart = s.heart := by unfold sendOn; simp
@[simp] theorem sendOn_power (k : Nat) (m : OutMsg) : (sendOn s k m).power = s.power := by unfold sendOn; simp
@[simp] theorem sendOn_jtag (k : Nat) (m : OutMsg) : (sendOn s k m).jtag = s.jtag := by unfold sendOn; simp
@[simp] theorem sendOn_fuses (k : Nat) (m : OutMsg) : (sendOn s k m).fuses = s.fuses := by unfold sendOn; simp
@[simp] theorem sendOn_flash (k : Nat) (m : OutMsg) : (sendOn s k m).flash = s.flash := by unfold sendOn; simp
@[simp] theorem sendOn_cfg (k : Nat) (m : OutMsg) : (sendOn s k m).cfg = s.cfg := by unfold sendOn; simp
@[simp] theorem sendOn_epoch (k : Nat) (m : OutMsg) : (sendOn s k m).epoch = s.epoch := by unfold sendOn; simp
@[simp] theorem sendOn_fresh (k : Nat) (m : OutMsg) : (sendOn s k m).fresh = s.fresh := by unfold sendOn; simp
theorem sendOn_frame (k : Nat) (m : OutMsg) : { sendOn s k m with mgmt := s.mgmt } = s := by simp
@[simp] theorem sendOn_eng (k : Nat) (m : OutMsg) (j : Nat) : eng (sendOn s k m) j = eng s j := by unfold eng; simp
@[simp] theorem sendOn_route (k : Nat) (m : OutMsg) (j : Nat) : route (sendOn s k m) j = route s j := by unfold route; simp
@[simp] theorem sendOn_group (k : Nat) (m : OutMsg) (j : Nat) : group (sendOn s k m) j = group s j := by unfold group; simp
@[simp] theorem sendOn_port (k : Nat) (m : OutMsg) (j : Nat) : port (sendOn s k m) j = port s j := by unfold port; simp
@[simp] theorem sendOn_bridge (k : Nat) (m : OutMsg) (j : Nat) : bridge (sendOn s k m) j = bridge s j := by unfold bridge; simp
@[simp] theorem sendOn_link (k : Nat) (m : OutMsg) (j : Nat) : link (sendOn s k m) j = link s j := by unfold link; simp
@[simp] theorem sendOn_stream (k : Nat) (m : OutMsg) (j : Nat) : stream (sendOn s k m) j = stream s j := by unfold stream; simp
@[simp] theorem sendOn_bank (k : Nat) (m : OutMsg) (j : Nat) : bank (sendOn s k m) j = bank s j := by unfold bank; simp
@[simp] theorem sendOn_cross (k : Nat) (m : OutMsg) (j : Nat) : cross (sendOn s k m) j = cross s j := by unfold cross; simp
@[simp] theorem sendOn_portCfg (k : Nat) (m : OutMsg) (j : Nat) : portCfg (sendOn s k m) j = portCfg s j := by unfold portCfg; simp
@[simp] theorem sendOn_rbCfg (k : Nat) (m : OutMsg) (j : Nat) : rbCfg (sendOn s k m) j = rbCfg s j := by unfold rbCfg; simp
@[simp] theorem sendOn_linkCfg (k : Nat) (m : OutMsg) (j : Nat) : linkCfg (sendOn s k m) j = linkCfg s j := by unfold linkCfg; simp
@[simp] theorem sendOn_engClass (k : Nat) (m : OutMsg) (j : Nat) : engClass (sendOn s k m) j = engClass s j := by unfold engClass; simp
@[simp] theorem sendOn_now (k : Nat) (m : OutMsg) : now (sendOn s k m) = now s := by unfold now; simp

/-! ### countStat -/

@[simp] theorem countStat_pending (b : Nat) (i : Iface) : (countStat s b i).pending = s.pending := rfl
@[simp] theorem countStat_clocks (b : Nat) (i : Iface) : (countStat s b i).clocks = s.clocks := rfl
@[simp] theorem countStat_engines (b : Nat) (i : Iface) : (countStat s b i).engines = s.engines := rfl
@[simp] theorem countStat_routes (b : Nat) (i : Iface) : (countStat s b i).routes = s.routes := rfl
@[simp] theorem countStat_tails (b : Nat) (i : Iface) : (countStat s b i).tails = s.tails := rfl
@[simp] theorem countStat_mem (b : Nat) (i : Iface) : (countStat s b i).mem = s.mem := rfl
@[simp] theorem countStat_groups (b : Nat) (i : Iface) : (countStat s b i).groups = s.groups := rfl
@[simp] theorem countStat_ports (b : Nat) (i : Iface) : (countStat s b i).ports = s.ports := rfl
@[simp] theorem countStat_bridges (b : Nat) (i : Iface) : (countStat s b i).bridges = s.bridges := rfl
@[simp] theorem countStat_links (b : Nat) (i : Iface) : (countStat s b i).links = s.links := rfl
@[simp] theorem countStat_grove (b : Nat) (i : Iface) : (countStat s b i).grove = s.grove := rfl
@[simp] theorem countStat_streams (b : Nat) (i : Iface) : (countStat s b i).streams = s.streams := rfl
@[simp] theorem countStat_leaving (b : Nat) (i : Iface) : (countStat s b i).leaving = s.leaving := rfl
@[simp] theorem countStat_events (b : Nat) (i : Iface) : (countStat s b i).events = s.events := rfl
@[simp] theorem countStat_heart (b : Nat) (i : Iface) : (countStat s b i).heart = s.heart := rfl
@[simp] theorem countStat_power (b : Nat) (i : Iface) : (countStat s b i).power = s.power := rfl
@[simp] theorem countStat_jtag (b : Nat) (i : Iface) : (countStat s b i).jtag = s.jtag := rfl
@[simp] theorem countStat_fuses (b : Nat) (i : Iface) : (countStat s b i).fuses = s.fuses := rfl
@[simp] theorem countStat_flash (b : Nat) (i : Iface) : (countStat s b i).flash = s.flash := rfl
@[simp] theorem countStat_cfg (b : Nat) (i : Iface) : (countStat s b i).cfg = s.cfg := rfl
@[simp] theorem countStat_epoch (b : Nat) (i : Iface) : (countStat s b i).epoch = s.epoch := rfl
@[simp] theorem countStat_fresh (b : Nat) (i : Iface) : (countStat s b i).fresh = s.fresh := rfl
theorem countStat_frame (b : Nat) (i : Iface) : { countStat s b i with mgmt := s.mgmt } = s := by simp
@[simp] theorem countStat_eng (b : Nat) (i : Iface) (j : Nat) : eng (countStat s b i) j = eng s j := by unfold eng; simp
@[simp] theorem countStat_route (b : Nat) (i : Iface) (j : Nat) : route (countStat s b i) j = route s j := by unfold route; simp
@[simp] theorem countStat_group (b : Nat) (i : Iface) (j : Nat) : group (countStat s b i) j = group s j := by unfold group; simp
@[simp] theorem countStat_port (b : Nat) (i : Iface) (j : Nat) : port (countStat s b i) j = port s j := by unfold port; simp
@[simp] theorem countStat_bridge (b : Nat) (i : Iface) (j : Nat) : bridge (countStat s b i) j = bridge s j := by unfold bridge; simp
@[simp] theorem countStat_link (b : Nat) (i : Iface) (j : Nat) : link (countStat s b i) j = link s j := by unfold link; simp
@[simp] theorem countStat_stream (b : Nat) (i : Iface) (j : Nat) : stream (countStat s b i) j = stream s j := by unfold stream; simp
@[simp] theorem countStat_bank (b : Nat) (i : Iface) (j : Nat) : bank (countStat s b i) j = bank s j := by unfold bank; simp
@[simp] theorem countStat_cross (b : Nat) (i : Iface) (j : Nat) : cross (countStat s b i) j = cross s j := by unfold cross; simp
@[simp] theorem countStat_portCfg (b : Nat) (i : Iface) (j : Nat) : portCfg (countStat s b i) j = portCfg s j := by unfold portCfg; simp
@[simp] theorem countStat_rbCfg (b : Nat) (i : Iface) (j : Nat) : rbCfg (countStat s b i) j = rbCfg s j := by unfold rbCfg; simp
@[simp] theorem countStat_linkCfg (b : Nat) (i : Iface) (j : Nat) : linkCfg (countStat s b i) j = linkCfg s j := by unfold linkCfg; simp
@[simp] theorem countStat_engClass (b : Nat) (i : Iface) (j : Nat) : engClass (countStat s b i) j = engClass s j := by unfold engClass; simp
@[simp] theorem countStat_now (b : Nat) (i : Iface) : now (countStat s b i) = now s := by unfold now; simp

/-! ### dequeue -/

@[simp] theorem dequeue_pending (i : Iface) (r : Req) : (dequeue s i r).pending = s.pending := rfl
@[simp] theorem dequeue_clocks (i : Iface) (r : Req) : (dequeue s i r).clocks = s.clocks := rfl
@[simp] theorem dequeue_engines (i : Iface) (r : Req) : (dequeue s i r).engines = s.engines := rfl
@[simp] theorem dequeue_routes (i : Iface) (r : Req) : (dequeue s i r).routes = s.routes := rfl
@[simp] theorem dequeue_tails (i : Iface) (r : Req) : (dequeue s i r).tails = s.tails := rfl
@[simp] theorem dequeue_mem (i : Iface) (r : Req) : (dequeue s i r).mem = s.mem := rfl
@[simp] theorem dequeue_groups (i : Iface) (r : Req) : (dequeue s i r).groups = s.groups := rfl
@[simp] theorem dequeue_ports (i : Iface) (r : Req) : (dequeue s i r).ports = s.ports := rfl
@[simp] theorem dequeue_bridges (i : Iface) (r : Req) : (dequeue s i r).bridges = s.bridges := rfl
@[simp] theorem dequeue_links (i : Iface) (r : Req) : (dequeue s i r).links = s.links := rfl
@[simp] theorem dequeue_grove (i : Iface) (r : Req) : (dequeue s i r).grove = s.grove := rfl
@[simp] theorem dequeue_streams (i : Iface) (r : Req) : (dequeue s i r).streams = s.streams := rfl
@[simp] theorem dequeue_leaving (i : Iface) (r : Req) : (dequeue s i r).leaving = s.leaving := rfl
@[simp] theorem dequeue_events (i : Iface) (r : Req) : (dequeue s i r).events = s.events := rfl
@[simp] theorem dequeue_heart (i : Iface) (r : Req) : (dequeue s i r).heart = s.heart := rfl
@[simp] theorem dequeue_power (i : Iface) (r : Req) : (dequeue s i r).power = s.power := rfl
@[simp] theorem dequeue_jtag (i : Iface) (r : Req) : (dequeue s i r).jtag = s.jtag := rfl
@[simp] theorem dequeue_fuses (i : Iface) (r : Req) : (dequeue s i r).fuses = s.fuses := rfl
@[simp] theorem dequeue_flash (i : Iface) (r : Req) : (dequeue s i r).flash = s.flash := rfl
@[simp] theorem dequeue_cfg (i : Iface) (r : Req) : (dequeue s i r).cfg = s.cfg := rfl
@[simp] theorem dequeue_epoch (i : Iface) (r : Req) : (dequeue s i r).epoch = s.epoch := rfl
@[simp] theorem dequeue_fresh (i : Iface) (r : Req) : (dequeue s i r).fresh = s.fresh := rfl
theorem dequeue_frame (i : Iface) (r : Req) : { dequeue s i r with mgmt := s.mgmt } = s := by simp
@[simp] theorem dequeue_eng (i : Iface) (r : Req) (j : Nat) : eng (dequeue s i r) j = eng s j := by unfold eng; simp
@[simp] theorem dequeue_route (i : Iface) (r : Req) (j : Nat) : route (dequeue s i r) j = route s j := by unfold route; simp
@[simp] theorem dequeue_group (i : Iface) (r : Req) (j : Nat) : group (dequeue s i r) j = group s j := by unfold group; simp
@[simp] theorem dequeue_port (i : Iface) (r : Req) (j : Nat) : port (dequeue s i r) j = port s j := by unfold port; simp
@[simp] theorem dequeue_bridge (i : Iface) (r : Req) (j : Nat) : bridge (dequeue s i r) j = bridge s j := by unfold bridge; simp
@[simp] theorem dequeue_link (i : Iface) (r : Req) (j : Nat) : link (dequeue s i r) j = link s j := by unfold link; simp
@[simp] theorem dequeue_stream (i : Iface) (r : Req) (j : Nat) : stream (dequeue s i r) j = stream s j := by unfold stream; simp
@[simp] theorem dequeue_bank (i : Iface) (r : Req) (j : Nat) : bank (dequeue s i r) j = bank s j := by unfold bank; simp
@[simp] theorem dequeue_cross (i : Iface) (r : Req) (j : Nat) : cross (dequeue s i r) j = cross s j := by unfold cross; simp
@[simp] theorem dequeue_portCfg (i : Iface) (r : Req) (j : Nat) : portCfg (dequeue s i r) j = portCfg s j := by unfold portCfg; simp
@[simp] theorem dequeue_rbCfg (i : Iface) (r : Req) (j : Nat) : rbCfg (dequeue s i r) j = rbCfg s j := by unfold rbCfg; simp
@[simp] theorem dequeue_linkCfg (i : Iface) (r : Req) (j : Nat) : linkCfg (dequeue s i r) j = linkCfg s j := by unfold linkCfg; simp
@[simp] theorem dequeue_engClass (i : Iface) (r : Req) (j : Nat) : engClass (dequeue s i r) j = engClass s j := by unfold engClass; simp
@[simp] theorem dequeue_now (i : Iface) (r : Req) : now (dequeue s i r) = now s := by unfold now; simp

/-! ### taken -/

@[simp] theorem taken_pending (r : Req) : (taken s r).pending = s.pending := rfl
@[simp] theorem taken_clocks (r : Req) : (taken s r).clocks = s.clocks := rfl
@[simp] theorem taken_engines (r : Req) : (taken s r).engines = s.engines := rfl
@[simp] theorem taken_routes (r : Req) : (taken s r).routes = s.routes := rfl
@[simp] theorem taken_tails (r : Req) : (taken s r).tails = s.tails := rfl
@[simp] theorem taken_mem (r : Req) : (taken s r).mem = s.mem := rfl
@[simp] theorem taken_groups (r : Req) : (taken s r).groups = s.groups := rfl
@[simp] theorem taken_ports (r : Req) : (taken s r).ports = s.ports := rfl
@[simp] theorem taken_bridges (r : Req) : (taken s r).bridges = s.bridges := rfl
@[simp] theorem taken_links (r : Req) : (taken s r).links = s.links := rfl
@[simp] theorem taken_grove (r : Req) : (taken s r).grove = s.grove := rfl
@[simp] theorem taken_streams (r : Req) : (taken s r).streams = s.streams := rfl
@[simp] theorem taken_leaving (r : Req) : (taken s r).leaving = s.leaving := rfl
@[simp] theorem taken_events (r : Req) : (taken s r).events = s.events := rfl
@[simp] theorem taken_heart (r : Req) : (taken s r).heart = s.heart := rfl
@[simp] theorem taken_power (r : Req) : (taken s r).power = s.power := rfl
@[simp] theorem taken_jtag (r : Req) : (taken s r).jtag = s.jtag := rfl
@[simp] theorem taken_fuses (r : Req) : (taken s r).fuses = s.fuses := rfl
@[simp] theorem taken_flash (r : Req) : (taken s r).flash = s.flash := rfl
@[simp] theorem taken_cfg (r : Req) : (taken s r).cfg = s.cfg := rfl
@[simp] theorem taken_epoch (r : Req) : (taken s r).epoch = s.epoch := rfl
@[simp] theorem taken_fresh (r : Req) : (taken s r).fresh = s.fresh := rfl
theorem taken_frame (r : Req) : { taken s r with mgmt := s.mgmt } = s := by simp
@[simp] theorem taken_eng (r : Req) (j : Nat) : eng (taken s r) j = eng s j := by unfold eng; simp
@[simp] theorem taken_route (r : Req) (j : Nat) : route (taken s r) j = route s j := by unfold route; simp
@[simp] theorem taken_group (r : Req) (j : Nat) : group (taken s r) j = group s j := by unfold group; simp
@[simp] theorem taken_port (r : Req) (j : Nat) : port (taken s r) j = port s j := by unfold port; simp
@[simp] theorem taken_bridge (r : Req) (j : Nat) : bridge (taken s r) j = bridge s j := by unfold bridge; simp
@[simp] theorem taken_link (r : Req) (j : Nat) : link (taken s r) j = link s j := by unfold link; simp
@[simp] theorem taken_stream (r : Req) (j : Nat) : stream (taken s r) j = stream s j := by unfold stream; simp
@[simp] theorem taken_bank (r : Req) (j : Nat) : bank (taken s r) j = bank s j := by unfold bank; simp
@[simp] theorem taken_cross (r : Req) (j : Nat) : cross (taken s r) j = cross s j := by unfold cross; simp
@[simp] theorem taken_portCfg (r : Req) (j : Nat) : portCfg (taken s r) j = portCfg s j := by unfold portCfg; simp
@[simp] theorem taken_rbCfg (r : Req) (j : Nat) : rbCfg (taken s r) j = rbCfg s j := by unfold rbCfg; simp
@[simp] theorem taken_linkCfg (r : Req) (j : Nat) : linkCfg (taken s r) j = linkCfg s j := by unfold linkCfg; simp
@[simp] theorem taken_engClass (r : Req) (j : Nat) : engClass (taken s r) j = engClass s j := by unfold engClass; simp
@[simp] theorem taken_now (r : Req) : now (taken s r) = now s := by unfold now; simp

/-! ### sendReply -/

@[simp] theorem sendReply_pending (r : Req) (op n : Nat) (st : Word) (f : Byte) (d : List Byte) : (sendReply s r op n st f d).pending = s.pending := by unfold sendReply; dsimp only; split <;> simp
@[simp] theorem sendReply_engines (r : Req) (op n : Nat) (st : Word) (f : Byte) (d : List Byte) : (sendReply s r op n st f d).engines = s.engines := by unfold sendReply; dsimp only; split <;> simp
@[simp] theorem sendReply_routes (r : Req) (op n : Nat) (st : Word) (f : Byte) (d : List Byte) : (sendReply s r op n st f d).routes = s.routes := by unfold sendReply; dsimp only; split <;> simp
@[simp] theorem sendReply_tails (r : Req) (op n : Nat) (st : Word) (f : Byte) (d : List Byte) : (sendReply s r op n st f d).tails = s.tails := by unfold sendReply; dsimp only; split <;> simp
@[simp] theorem sendReply_mem (r : Req) (op n : Nat) (st : Word) (f : Byte) (d : List Byte) : (sendReply s r op n st f d).mem = s.mem := by unfold sendReply; dsimp only; split <;> simp
@[simp] theorem sendReply_groups (r : Req) (op n : Nat) (st : Word) (f : Byte) (d : List Byte) : (sendReply s r op n st f d).groups = s.groups := by unfold sendReply; dsimp only; split <;> simp
@[simp] theorem sendReply_ports (r : Req) (op n : Nat) (st : Word) (f : Byte) (d : List Byte) : (sendReply s r op n st f d).ports = s.ports := by unfold sendReply; dsimp only; split <;> simp
@[simp] theorem sendReply_bridges (r : Req) (op n : Nat) (st : Word) (f : Byte) (d : List Byte) : (sendReply s r op n st f d).bridges = s.bridges := by unfold sendReply; dsimp only; split <;> simp
@[simp] theorem sendReply_links (r : Req) (op n : Nat) (st : Word) (f : Byte) (d : List Byte) : (sendReply s r op n st f d).links = s.links := by unfold sendReply; dsimp only; split <;> simp
@[simp] theorem sendReply_grove (r : Req) (op n : Nat) (st : Word) (f : Byte) (d : List Byte) : (sendReply s r op n st f d).grove = s.grove := by unfold sendReply; dsimp only; split <;> simp
@[simp] theorem sendReply_streams (r : Req) (op n : Nat) (st : Word) (f : Byte) (d : List Byte) : (sendReply s r op n st f d).streams = s.streams := by unfold sendReply; dsimp only; split <;> simp
@[simp] theorem sendReply_leaving (r : Req) (op n : Nat) (st : Word) (f : Byte) (d : List Byte) : (sendReply s r op n st f d).leaving = s.leaving := by unfold sendReply; dsimp only; split <;> simp
@[simp] theorem sendReply_events (r : Req) (op n : Nat) (st : Word) (f : Byte) (d : List Byte) : (sendReply s r op n st f d).events = s.events := by unfold sendReply; dsimp only; split <;> simp
@[simp] theorem sendReply_heart (r : Req) (op n : Nat) (st : Word) (f : Byte) (d : List Byte) : (sendReply s r op n st f d).heart = s.heart := by unfold sendReply; dsimp only; split <;> simp
@[simp] theorem sendReply_power (r : Req) (op n : Nat) (st : Word) (f : Byte) (d : List Byte) : (sendReply s r op n st f d).power = s.power := by unfold sendReply; dsimp only; split <;> simp
@[simp] theorem sendReply_jtag (r : Req) (op n : Nat) (st : Word) (f : Byte) (d : List Byte) : (sendReply s r op n st f d).jtag = s.jtag := by unfold sendReply; dsimp only; split <;> simp
@[simp] theorem sendReply_fuses (r : Req) (op n : Nat) (st : Word) (f : Byte) (d : List Byte) : (sendReply s r op n st f d).fuses = s.fuses := by unfold sendReply; dsimp only; split <;> simp
@[simp] theorem sendReply_flash (r : Req) (op n : Nat) (st : Word) (f : Byte) (d : List Byte) : (sendReply s r op n st f d).flash = s.flash := by unfold sendReply; dsimp only; split <;> simp
@[simp] theorem sendReply_cfg (r : Req) (op n : Nat) (st : Word) (f : Byte) (d : List Byte) : (sendReply s r op n st f d).cfg = s.cfg := by unfold sendReply; dsimp only; split <;> simp
@[simp] theorem sendReply_epoch (r : Req) (op n : Nat) (st : Word) (f : Byte) (d : List Byte) : (sendReply s r op n st f d).epoch = s.epoch := by unfold sendReply; dsimp only; split <;> simp
@[simp] theorem sendReply_fresh (r : Req) (op n : Nat) (st : Word) (f : Byte) (d : List Byte) : (sendReply s r op n st f d).fresh = s.fresh := by unfold sendReply; dsimp only; split <;> simp
theorem sendReply_frame (r : Req) (op n : Nat) (st : Word) (f : Byte) (d : List Byte) : { sendReply s r op n st f d with mgmt := s.mgmt, clocks := s.clocks } = s := by simp
@[simp] theorem sendReply_eng (r : Req) (op n : Nat) (st : Word) (f : Byte) (d : List Byte) (j : Nat) : eng (sendReply s r op n st f d) j = eng s j := by unfold eng; simp
@[simp] theorem sendReply_route (r : Req) (op n : Nat) (st : Word) (f : Byte) (d : List Byte) (j : Nat) : route (sendReply s r op n st f d) j = route s j := by unfold route; simp
@[simp] theorem sendReply_group (r : Req) (op n : Nat) (st : Word) (f : Byte) (d : List Byte) (j : Nat) : group (sendReply s r op n st f d) j = group s j := by unfold group; simp
@[simp] theorem sendReply_port (r : Req) (op n : Nat) (st : Word) (f : Byte) (d : List Byte) (j : Nat) : port (sendReply s r op n st f d) j = port s j := by unfold port; simp
@[simp] theorem sendReply_bridge (r : Req) (op n : Nat) (st : Word) (f : Byte) (d : List Byte) (j : Nat) : bridge (sendReply s r op n st f d) j = bridge s j := by unfold bridge; simp
@[simp] theorem sendReply_link (r : Req) (op n : Nat) (st : Word) (f : Byte) (d : List Byte) (j : Nat) : link (sendReply s r op n st f d) j = link s j := by unfold link; simp
@[simp] theorem sendReply_stream (r : Req) (op n : Nat) (st : Word) (f : Byte) (d : List Byte) (j : Nat) : stream (sendReply s r op n st f d) j = stream s j := by unfold stream; simp
@[simp] theorem sendReply_bank (r : Req) (op n : Nat) (st : Word) (f : Byte) (d : List Byte) (j : Nat) : bank (sendReply s r op n st f d) j = bank s j := by unfold bank; simp
@[simp] theorem sendReply_cross (r : Req) (op n : Nat) (st : Word) (f : Byte) (d : List Byte) (j : Nat) : cross (sendReply s r op n st f d) j = cross s j := by unfold cross; simp
@[simp] theorem sendReply_portCfg (r : Req) (op n : Nat) (st : Word) (f : Byte) (d : List Byte) (j : Nat) : portCfg (sendReply s r op n st f d) j = portCfg s j := by unfold portCfg; simp
@[simp] theorem sendReply_rbCfg (r : Req) (op n : Nat) (st : Word) (f : Byte) (d : List Byte) (j : Nat) : rbCfg (sendReply s r op n st f d) j = rbCfg s j := by unfold rbCfg; simp
@[simp] theorem sendReply_linkCfg (r : Req) (op n : Nat) (st : Word) (f : Byte) (d : List Byte) (j : Nat) : linkCfg (sendReply s r op n st f d) j = linkCfg s j := by unfold linkCfg; simp
@[simp] theorem sendReply_engClass (r : Req) (op n : Nat) (st : Word) (f : Byte) (d : List Byte) (j : Nat) : engClass (sendReply s r op n st f d) j = engClass s j := by unfold engClass; simp

/-! ### schedAdd -/

@[simp] theorem schedAdd_pending (t : MT) (l : List SchedAct) : (schedAdd s t l).pending = s.pending := rfl
@[simp] theorem schedAdd_engines (t : MT) (l : List SchedAct) : (schedAdd s t l).engines = s.engines := rfl
@[simp] theorem schedAdd_routes (t : MT) (l : List SchedAct) : (schedAdd s t l).routes = s.routes := rfl
@[simp] theorem schedAdd_tails (t : MT) (l : List SchedAct) : (schedAdd s t l).tails = s.tails := rfl
@[simp] theorem schedAdd_mem (t : MT) (l : List SchedAct) : (schedAdd s t l).mem = s.mem := rfl
@[simp] theorem schedAdd_groups (t : MT) (l : List SchedAct) : (schedAdd s t l).groups = s.groups := rfl
@[simp] theorem schedAdd_ports (t : MT) (l : List SchedAct) : (schedAdd s t l).ports = s.ports := rfl
@[simp] theorem schedAdd_bridges (t : MT) (l : List SchedAct) : (schedAdd s t l).bridges = s.bridges := rfl
@[simp] theorem schedAdd_links (t : MT) (l : List SchedAct) : (schedAdd s t l).links = s.links := rfl
@[simp] theorem schedAdd_grove (t : MT) (l : List SchedAct) : (schedAdd s t l).grove = s.grove := rfl
@[simp] theorem schedAdd_streams (t : MT) (l : List SchedAct) : (schedAdd s t l).streams = s.streams := rfl
@[simp] theorem schedAdd_leaving (t : MT) (l : List SchedAct) : (schedAdd s t l).leaving = s.leaving := rfl
@[simp] theorem schedAdd_mgmt (t : MT) (l : List SchedAct) : (schedAdd s t l).mgmt = s.mgmt := rfl
@[simp] theorem schedAdd_events (t : MT) (l : List SchedAct) : (schedAdd s t l).events = s.events := rfl
@[simp] theorem schedAdd_heart (t : MT) (l : List SchedAct) : (schedAdd s t l).heart = s.heart := rfl
@[simp] theorem schedAdd_power (t : MT) (l : List SchedAct) : (schedAdd s t l).power = s.power := rfl
@[simp] theorem schedAdd_jtag (t : MT) (l : List SchedAct) : (schedAdd s t l).jtag = s.jtag := rfl
@[simp] theorem schedAdd_fuses (t : MT) (l : List SchedAct) : (schedAdd s t l).fuses = s.fuses := rfl
@[simp] theorem schedAdd_flash (t : MT) (l : List SchedAct) : (schedAdd s t l).flash = s.flash := rfl
@[simp] theorem schedAdd_cfg (t : MT) (l : List SchedAct) : (schedAdd s t l).cfg = s.cfg := rfl
@[simp] theorem schedAdd_epoch (t : MT) (l : List SchedAct) : (schedAdd s t l).epoch = s.epoch := rfl
@[simp] theorem schedAdd_fresh (t : MT) (l : List SchedAct) : (schedAdd s t l).fresh = s.fresh := rfl
theorem schedAdd_frame (t : MT) (l : List SchedAct) : { schedAdd s t l with clocks := s.clocks } = s := by simp
@[simp] theorem schedAdd_eng (t : MT) (l : List SchedAct) (j : Nat) : eng (schedAdd s t l) j = eng s j := by unfold eng; simp
@[simp] theorem schedAdd_route (t : MT) (l : List SchedAct) (j : Nat) : route (schedAdd s t l) j = route s j := by unfold route; simp
@[simp] theorem schedAdd_group (t : MT) (l : List SchedAct) (j : Nat) : group (schedAdd s t l) j = group s j := by unfold group; simp
@[simp] theorem schedAdd_port (t : MT) (l : List SchedAct) (j : Nat) : port (schedAdd s t l) j = port s j := by unfold port; simp
@[simp] theorem schedAdd_bridge (t : MT) (l : List SchedAct) (j : Nat) : bridge (schedAdd s t l) j = bridge s j := by unfold bridge; simp
@[simp] theorem schedAdd_link (t : MT) (l : List SchedAct) (j : Nat) : link (schedAdd s t l) j = link s j := by unfold link; simp
@[simp] theorem schedAdd_stream (t : MT) (l : List SchedAct) (j : Nat) : stream (schedAdd s t l) j = stream s j := by unfold stream; simp
@[simp] theorem schedAdd_bank (t : MT) (l : List SchedAct) (j : Nat) : bank (schedAdd s t l) j = bank s j := by unfold bank; simp
@[simp] theorem schedAdd_cross (t : MT) (l : List SchedAct) (j : Nat) : cross (schedAdd s t l) j = cross s j := by unfold cross; simp
@[simp] theorem schedAdd_session (t : MT) (l : List SchedAct) (j : Nat) : session (schedAdd s t l) j = session s j := by unfold session; simp
@[simp] theorem schedAdd_portCfg (t : MT) (l : List SchedAct) (j : Nat) : portCfg (schedAdd s t l) j = portCfg s j := by unfold portCfg; simp
@[simp] theorem schedAdd_rbCfg (t : MT) (l : List SchedAct) (j : Nat) : rbCfg (schedAdd s t l) j = rbCfg s j := by unfold rbCfg; simp
@[simp] theorem schedAdd_linkCfg (t : MT) (l : List SchedAct) (j : Nat) : linkCfg (schedAdd s t l) j = linkCfg s j := by unfold linkCfg; simp
@[simp] theorem schedAdd_engClass (t : MT) (l : List SchedAct) (j : Nat) : engClass (schedAdd s t l) j = engClass s j := by unfold engClass; simp

/-! ### schedDrop -/

@[simp] theorem schedDrop_pending (p : Sched → Bool) : (schedDrop s p).pending = s.pending := rfl
@[simp] theorem schedDrop_engines (p : Sched → Bool) : (schedDrop s p).engines = s.engines := rfl
@[simp] theorem schedDrop_routes (p : Sched → Bool) : (schedDrop s p).routes = s.routes := rfl
@[simp] theorem schedDrop_tails (p : Sched → Bool) : (schedDrop s p).tails = s.tails := rfl
@[simp] theorem schedDrop_mem (p : Sched → Bool) : (schedDrop s p).mem = s.mem := rfl
@[simp] theorem schedDrop_groups (p : Sched → Bool) : (schedDrop s p).groups = s.groups := rfl
@[simp] theorem schedDrop_ports (p : Sched → Bool) : (schedDrop s p).ports = s.ports := rfl
@[simp] theorem schedDrop_bridges (p : Sched → Bool) : (schedDrop s p).bridges = s.bridges := rfl
@[simp] theorem schedDrop_links (p : Sched → Bool) : (schedDrop s p).links = s.links := rfl
@[simp] theorem schedDrop_grove (p : Sched → Bool) : (schedDrop s p).grove = s.grove := rfl
@[simp] theorem schedDrop_streams (p : Sched → Bool) : (schedDrop s p).streams = s.streams := rfl
@[simp] theorem schedDrop_leaving (p : Sched → Bool) : (schedDrop s p).leaving = s.leaving := rfl
@[simp] theorem schedDrop_mgmt (p : Sched → Bool) : (schedDrop s p).mgmt = s.mgmt := rfl
@[simp] theorem schedDrop_events (p : Sched → Bool) : (schedDrop s p).events = s.events := rfl
@[simp] theorem schedDrop_heart (p : Sched → Bool) : (schedDrop s p).heart = s.heart := rfl
@[simp] theorem schedDrop_power (p : Sched → Bool) : (schedDrop s p).power = s.power := rfl
@[simp] theorem schedDrop_jtag (p : Sched → Bool) : (schedDrop s p).jtag = s.jtag := rfl
@[simp] theorem schedDrop_fuses (p : Sched → Bool) : (schedDrop s p).fuses = s.fuses := rfl
@[simp] theorem schedDrop_flash (p : Sched → Bool) : (schedDrop s p).flash = s.flash := rfl
@[simp] theorem schedDrop_cfg (p : Sched → Bool) : (schedDrop s p).cfg = s.cfg := rfl
@[simp] theorem schedDrop_epoch (p : Sched → Bool) : (schedDrop s p).epoch = s.epoch := rfl
@[simp] theorem schedDrop_fresh (p : Sched → Bool) : (schedDrop s p).fresh = s.fresh := rfl
theorem schedDrop_frame (p : Sched → Bool) : { schedDrop s p with clocks := s.clocks } = s := by simp
@[simp] theorem schedDrop_eng (p : Sched → Bool) (j : Nat) : eng (schedDrop s p) j = eng s j := by unfold eng; simp
@[simp] theorem schedDrop_route (p : Sched → Bool) (j : Nat) : route (schedDrop s p) j = route s j := by unfold route; simp
@[simp] theorem schedDrop_group (p : Sched → Bool) (j : Nat) : group (schedDrop s p) j = group s j := by unfold group; simp
@[simp] theorem schedDrop_port (p : Sched → Bool) (j : Nat) : port (schedDrop s p) j = port s j := by unfold port; simp
@[simp] theorem schedDrop_bridge (p : Sched → Bool) (j : Nat) : bridge (schedDrop s p) j = bridge s j := by unfold bridge; simp
@[simp] theorem schedDrop_link (p : Sched → Bool) (j : Nat) : link (schedDrop s p) j = link s j := by unfold link; simp
@[simp] theorem schedDrop_stream (p : Sched → Bool) (j : Nat) : stream (schedDrop s p) j = stream s j := by unfold stream; simp
@[simp] theorem schedDrop_bank (p : Sched → Bool) (j : Nat) : bank (schedDrop s p) j = bank s j := by unfold bank; simp
@[simp] theorem schedDrop_cross (p : Sched → Bool) (j : Nat) : cross (schedDrop s p) j = cross s j := by unfold cross; simp
@[simp] theorem schedDrop_session (p : Sched → Bool) (j : Nat) : session (schedDrop s p) j = session s j := by unfold session; simp
@[simp] theorem schedDrop_portCfg (p : Sched → Bool) (j : Nat) : portCfg (schedDrop s p) j = portCfg s j := by unfold portCfg; simp
@[simp] theorem schedDrop_rbCfg (p : Sched → Bool) (j : Nat) : rbCfg (schedDrop s p) j = rbCfg s j := by unfold rbCfg; simp
@[simp] theorem schedDrop_linkCfg (p : Sched → Bool) (j : Nat) : linkCfg (schedDrop s p) j = linkCfg s j := by unfold linkCfg; simp
@[simp] theorem schedDrop_engClass (p : Sched → Bool) (j : Nat) : engClass (schedDrop s p) j = engClass s j := by unfold engClass; simp

/-! ### bumpEpoch -/

@[simp] theorem bumpEpoch_pending  : (bumpEpoch s).pending = s.pending := by unfold bumpEpoch; split <;> rfl
@[simp] theorem bumpEpoch_clocks  : (bumpEpoch s).clocks = s.clocks := by unfold bumpEpoch; split <;> rfl
@[simp] theorem bumpEpoch_engines  : (bumpEpoch s).engines = s.engines := by unfold bumpEpoch; split <;> rfl
@[simp] theorem bumpEpoch_routes  : (bumpEpoch s).routes = s.routes := by unfold bumpEpoch; split <;> rfl
@[simp] theorem bumpEpoch_tails  : (bumpEpoch s).tails = s.tails := by unfold bumpEpoch; split <;> rfl
@[simp] theorem bumpEpoch_mem  : (bumpEpoch s).mem = s.mem := by unfold bumpEpoch; split <;> rfl
@[simp] theorem bumpEpoch_groups  : (bumpEpoch s).groups = s.groups := by unfold bumpEpoch; split <;> rfl
@[simp] theorem bumpEpoch_ports  : (bumpEpoch s).ports = s.ports := by unfold bumpEpoch; split <;> rfl
@[simp] theorem bumpEpoch_bridges  : (bumpEpoch s).bridges = s.bridges := by unfold bumpEpoch; split <;> rfl
@[simp] theorem bumpEpoch_links  : (bumpEpoch s).links = s.links := by unfold bumpEpoch; split <;> rfl
@[simp] theorem bumpEpoch_streams  : (bumpEpoch s).streams = s.streams := by unfold bumpEpoch; split <;> rfl
@[simp] theorem bumpEpoch_leaving  : (bumpEpoch s).leaving = s.leaving := by unfold bumpEpoch; split <;> rfl
@[simp] theorem bumpEpoch_mgmt  : (bumpEpoch s).mgmt = s.mgmt := by unfold bumpEpoch; split <;> rfl
@[simp] theorem bumpEpoch_events  : (bumpEpoch s).events = s.events := by unfold bumpEpoch; split <;> rfl
@[simp] theorem bumpEpoch_heart  : (bumpEpoch s).heart = s.heart := by unfold bumpEpoch; split <;> rfl
@[simp] theorem bumpEpoch_power  : (bumpEpoch s).power = s.power := by unfold bumpEpoch; split <;> rfl
@[simp] theorem bumpEpoch_jtag  : (bumpEpoch s).jtag = s.jtag := by unfold bumpEpoch; split <;> rfl
@[simp] theorem bumpEpoch_fuses  : (bumpEpoch s).fuses = s.fuses := by unfold bumpEpoch; split <;> rfl
@[simp] theorem bumpEpoch_flash  : (bumpEpoch s).flash = s.flash := by unfold bumpEpoch; split <;> rfl
@[simp] theorem bumpEpoch_cfg  : (bumpEpoch s).cfg = s.cfg := by unfold bumpEpoch; split <;> rfl
@[simp] theorem bumpEpoch_fresh  : (bumpEpoch s).fresh = s.fresh := by unfold bumpEpoch; split <;> rfl
theorem bumpEpoch_frame  : { bumpEpoch s with grove := s.grove, epoch := s.epoch } = s := by simp
@[simp] theorem bumpEpoch_eng  (j : Nat) : eng (bumpEpoch s) j = eng s j := by unfold eng; simp
@[simp] theorem bumpEpoch_route  (j : Nat) : route (bumpEpoch s) j = route s j := by unfold route; simp
@[simp] theorem bumpEpoch_group  (j : Nat) : group (bumpEpoch s) j = group s j := by unfold group; simp
@[simp] theorem bumpEpoch_port  (j : Nat) : port (bumpEpoch s) j = port s j := by unfold port; simp
@[simp] theorem bumpEpoch_bridge  (j : Nat) : bridge (bumpEpoch s) j = bridge s j := by unfold bridge; simp
@[simp] theorem bumpEpoch_link  (j : Nat) : link (bumpEpoch s) j = link s j := by unfold link; simp
@[simp] theorem bumpEpoch_stream  (j : Nat) : stream (bumpEpoch s) j = stream s j := by unfold stream; simp
@[simp] theorem bumpEpoch_bank  (j : Nat) : bank (bumpEpoch s) j = bank s j := by unfold bank; simp
@[simp] theorem bumpEpoch_cross  (j : Nat) : cross (bumpEpoch s) j = cross s j := by unfold cross; simp
@[simp] theorem bumpEpoch_session  (j : Nat) : session (bumpEpoch s) j = session s j := by unfold session; simp
@[simp] theorem bumpEpoch_portCfg  (j : Nat) : portCfg (bumpEpoch s) j = portCfg s j := by unfold portCfg; simp
@[simp] theorem bumpEpoch_rbCfg  (j : Nat) : rbCfg (bumpEpoch s) j = rbCfg s j := by unfold rbCfg; simp
@[simp] theorem bumpEpoch_linkCfg  (j : Nat) : linkCfg (bumpEpoch s) j = linkCfg s j := by unfold linkCfg; simp
@[simp] theorem bumpEpoch_engClass  (j : Nat) : engClass (bumpEpoch s) j = engClass s j := by unfold engClass; simp
@[simp] theorem bumpEpoch_now  : now (bumpEpoch s) = now s := by unfold now; simp

/-! ### Detections -/

theorem satInc31_ne (x : Long) : satInc31 x ≠ 0 := by
  unfold satInc31
  split
  · decide
  · split
    · decide
    · next h1 h2 =>
      intro h
      have h' := congrArg BitVec.toNat h
      rw [BitVec.toNat_add] at h'
      have e1 : (1 : Long).toNat = 1 := rfl
      have e0 : (0 : Long).toNat = 0 := rfl
      omega

@[simp] theorem logRecord_det (v : Event) : (logRecord s v).events.det = s.events.det := by simp only [logRecord]
@[simp] theorem queueRecord_det (v : Event) : (queueRecord s v).events.det = s.events.det := by
  unfold queueRecord; dsimp only; split <;> rfl
@[simp] theorem record_det (c u : Nat) (a : Long) (t : MT) (i : Bool) : (record s c u a t i).events.det = s.events.det := by
  unfold record; dsimp only; split <;> simp
theorem detectWhen_det (t : MT) (c u : Nat) (a : Long) (i : Bool) : (detectWhen s t c u a i).events.det = (countDet s c).events.det := by
  unfold detectWhen; dsimp only; split
  · split <;> simp
  · simp

/-- A detection counts its own code, and no other. -/
theorem detectWhen_count (t : MT) (c u : Nat) (a : Long) (i : Bool) (k : Nat) :
    tget 0 (detectWhen s t c u a i).events.det k = if k = c then satInc31 (tget 0 s.events.det c) else tget 0 s.events.det k := by
  rw [detectWhen_det, countDet]
  by_cases h : k = c
  · rw [if_pos h, h]; exact tget_tset_of_ne _ _ (satInc31_ne _)
  · rw [if_neg h]; exact tget_tset_other _ _ _ h

theorem detectAs_count (c u : Nat) (a : Long) (i : Bool) (k : Nat) :
    tget 0 (detectAs s c u a i).events.det k = if k = c then satInc31 (tget 0 s.events.det c) else tget 0 s.events.det k :=
  detectWhen_count ..

theorem detect_count (c u : Nat) (a : Long) (k : Nat) :
    tget 0 (detect s c u a).events.det k = if k = c then satInc31 (tget 0 s.events.det c) else tget 0 s.events.det k :=
  detectAs_count s c u a false k

@[simp] theorem detect_count_self (c u : Nat) (a : Long) : tget 0 (detect s c u a).events.det c = satInc31 (tget 0 s.events.det c) := by
  rw [detect_count, if_pos rfl]

/-! ### Requests -/

@[simp] theorem taken_session (r : Req) (k : Nat) : session (taken s r) k = session s k := by
  unfold taken; cases (session s r.sess.val).iface <;> rfl
@[simp] theorem taken_keylessBars (r : Req) : keylessBars (taken s r) r = keylessBars s r := by
  unfold keylessBars; rw [taken_session, taken_fuses]
@[simp] theorem taken_dictAdmits (r : Req) (o : Nat) : dictAdmits (taken s r) o = dictAdmits s o := by
  unfold dictAdmits; rw [taken_power]

theorem served_gate {s : State} {r : Req} {obj role : Nat} (h : Served s r obj role) (g : Gate) (ho : g.obj = obj) (hr : g.role = role)
    (h1 : g.range = true) (h2 : g.idle = true) : gateFails (taken s r) r g = none := by
  obtain ⟨⟨_, _⟩, h3, h4, h5⟩ := h
  subst ho hr
  simp only [gateFails, taken_session, taken_keylessBars, taken_dictAdmits, h1, h2, h4, h5, Bool.and_false, Bool.or_false,
    Bool.not_true, Bool.false_eq_true, if_false, Nat.not_lt.mpr h3, decide_false]

/-- A request that is heard is taken from its queue and runs through its gate to its body. -/
theorem runRequest_heard {s : State} {r : Req} (h : Heard s r) (op n : Nat) (gate) (body) (onFail) :
    runRequest s r op n gate body onFail = (match gate (taken s r) with
      | some (c, i) => sendReply (taken s r) r op n c i (onFail (taken s r))
      | none => match body (taken s r) with
        | .error c => sendReply (taken s r) r op n c 0 (onFail (taken s r))
        | .ok (s', d) => sendReply s' r op n eOK 0xFF d) := by
  obtain ⟨h1, h2, h3⟩ := h
  simp only [runRequest, h1, Bool.not_true, Bool.false_eq_true, if_false, h2, ne_eq, not_true, freshStamp, h3]
  rfl

/-- A command to one element that is served: its gate passes where its own fields are in range, and the body decides. -/
theorem writeCmd_served {s : State} {r : Req} {obj role : Nat} (h : Served s r obj role) (g : Gate) (body)
    (ho : g.obj = obj) (hr : g.role = role) (h2 : g.idle = true) :
    writeCmd s r g body = if g.range then (match body (taken s r) with
      | .error c => sendReply (taken s r) r 2 1 c 0 []
      | .ok t => sendReply t r 2 1 eOK 0xFF []) else sendReply (taken s r) r 2 1 eRange 0 [] := by
  rw [writeCmd, runRequest_heard h.1]
  cases h1 : g.range with
  | true =>
    rw [served_gate h g ho hr h1 h2]
    simp only [Option.map_none, if_true]
    cases body (taken s r) <;> rfl
  | false =>
    have e : gateFails (taken s r) r g = some eRange := by
      obtain ⟨⟨_, _⟩, h3, h4, h5⟩ := h
      subst hr
      simp only [gateFails, taken_session, taken_keylessBars, h4, h1, Bool.and_false, Bool.or_false, Nat.not_lt.mpr h3, decide_false, Bool.false_eq_true,
        if_false, Bool.not_false, if_true]
    rw [e]
    simp

/-! ### Engine words -/

/-- An engine word that runs commits its effect, or faults. -/
theorem issueWord_runs {s : State} {w : Issue} {i : Instr} (f) (h : Runs s w i) :
    issueWord s w i f = match f (sees s w.eng.val) w.eng.val (prefixOf s w.eng.val) with
      | .ok eff => afterWord s w.eng.val eff
      | .error fl => engFault (if fl.cause = 4 then eccDetect (sees s w.eng.val) true fl.loc else sees s w.eng.val) w.eng.val fl := by
  obtain ⟨⟨h1, h2⟩, h3, h4⟩ := h
  unfold issueWord issueWith
  simp only [h1]
  simp only [Bool.not_true, Bool.false_eq_true, if_false]
  simp only [GuardTrue] at h3
  simp only [prefixOf] at h4 ⊢
  rw [show (setCross (landUpTo s w.eng.val ((eng s w.eng.val).ctx.cycle - 1)) w.eng.val _) = landed s w.eng.val from rfl]
  rw [show modEng (eccRead (landed s w.eng.val) (progLoc (eng (landed s w.eng.val) w.eng.val) w.eng.val)) w.eng.val _
    = sees s w.eng.val from rfl]
  simp only [h2, h3, h4, if_false]
  simp only [Bool.not_true, Bool.false_eq_true, if_false]
  cases f (sees s w.eng.val) w.eng.val (eng (landed s w.eng.val) w.eng.val).ctx.imm <;> rfl

/-- A word whose meaning only lands results has that effect where it runs. -/
theorem does_reg {s : State} {w : Issue} {i : Instr} {f L} (h : Runs s w i) (hx : exec i s = ok (regWord s w i f))
    (e : f (seenCtx s w.eng.val) (prefixOf s w.eng.val) = L) : Does s w i ⟨L, [], [], [], none⟩ := by
  unfold Does; rw [hx]; unfold regWord; rw [issueWord_runs _ h, ← e]; rfl

/-- A word whose meaning answers an effect has it where it runs. -/
theorem does_word {s : State} {w : Issue} {i : Instr} {f L} (h : Runs s w i) (hx : exec i s = ok (issueWord s w i f))
    (e : f (sees s w.eng.val) w.eng.val (prefixOf s w.eng.val) = .ok L) : Does s w i L := by
  unfold Does; rw [hx, issueWord_runs _ h, e]; rfl

/-- A word whose meaning is not an effect alone: it goes on to the state it answers. -/
theorem issueWith_ok {s : State} {w : Issue} {i : Instr} {idle f t} (h : Runs s w i) (hx : exec i s = ok (issueWith s w i idle f))
    (e : f (sees s w.eng.val) w.eng.val (prefixOf s w.eng.val) = .ok t) : exec i s = .next t := by
  rw [hx]
  obtain ⟨⟨h1, h2⟩, h3, h4⟩ := h
  unfold issueWith
  simp only [h1]
  simp only [Bool.not_true, Bool.false_eq_true, if_false]
  simp only [GuardTrue] at h3
  simp only [prefixOf] at h4 e ⊢
  rw [show (setCross (landUpTo s w.eng.val ((eng s w.eng.val).ctx.cycle - 1)) w.eng.val _) = landed s w.eng.val from rfl]
  rw [show modEng (eccRead (landed s w.eng.val) (progLoc (eng (landed s w.eng.val) w.eng.val) w.eng.val)) w.eng.val _
    = sees s w.eng.val from rfl]
  simp only [h2, h3, h4, if_false]
  simp only [Bool.not_true, Bool.false_eq_true, if_false, e]
  rfl

/-- A word whose meaning faults raises that fault where it runs. -/
theorem issueWith_error {s : State} {w : Issue} {i : Instr} {idle f fl} (h : Runs s w i) (hx : exec i s = ok (issueWith s w i idle f))
    (e : f (sees s w.eng.val) w.eng.val (prefixOf s w.eng.val) = .error fl) :
    exec i s = .next (engFault (if fl.cause = 4 then eccDetect (sees s w.eng.val) true fl.loc else sees s w.eng.val) w.eng.val fl) := by
  rw [hx]
  obtain ⟨⟨h1, h2⟩, h3, h4⟩ := h
  unfold issueWith
  simp only [h1]
  simp only [Bool.not_true, Bool.false_eq_true, if_false]
  simp only [GuardTrue] at h3
  simp only [prefixOf] at h4 e ⊢
  rw [show (setCross (landUpTo s w.eng.val ((eng s w.eng.val).ctx.cycle - 1)) w.eng.val _) = landed s w.eng.val from rfl]
  rw [show modEng (eccRead (landed s w.eng.val) (progLoc (eng (landed s w.eng.val) w.eng.val) w.eng.val)) w.eng.val _
    = sees s w.eng.val from rfl]
  simp only [h2, h3, h4, if_false]
  simp only [Bool.not_true, Bool.false_eq_true, if_false, e]
  rfl


end Sys2Proof.Machine
end

