-- ==== Sys2Proof/Laws/Boundary.lean ====
section
/-! SUPPORT. What a base-period boundary keeps: the count, the rate, the settings in force and MCPLL's word, which only a base-rate change
moves; and the pending actions and staged changes, where none is due (R43, R45, R66, R79). -/
namespace Sys2Proof.Machine

/-- The count, the rate, the gate, the clock settings in force, MCPLL's word and the configuration. -/
def timeKept (s : State) : MT × Nat × Bool × ClockCfg × Int × Persist := (s.clocks.mt, s.clocks.rate, s.clocks.gateOpen, s.clocks.clkoutApplied, s.clocks.ntoPpb, s.cfg)

/-- The same with the routes and crossing RAM. -/
def steady (s : State) : (MT × Nat × Bool × ClockCfg × Int × Persist) × Tbl Route × Tbl Cross := (timeKept s, s.routes, s.mem.cross)

theorem cross_foldl {α : Type} (f : State → α → State) (h : ∀ s x, (f s x).mem.cross = s.mem.cross) (l : List α) (s : State) :
    (l.foldl f s).mem.cross = s.mem.cross := by
  induction l generalizing s with
  | nil => rfl
  | cons x l ih => rw [List.foldl_cons, ih, h]

/-- The same with the pending actions and the staged changes. -/
def kept (s : State) : ((MT × Nat × Bool × ClockCfg × Int × Persist) × Tbl Route × Tbl Cross) × List Sched × List Staged := (steady s, s.clocks.sched, s.clocks.staged)

theorem timeKept_of_steady {s t : State} (h : steady s = steady t) : timeKept s = timeKept t := congrArg Prod.fst h

theorem steady_of_kept {s t : State} (h : kept s = kept t) : steady s = steady t := congrArg Prod.fst h

theorem kept_foldl {α : Type} (f : State → α → State) (h : ∀ s x, kept (f s x) = kept s) (l : List α) (s : State) : kept (l.foldl f s) = kept s := by
  induction l generalizing s with
  | nil => rfl
  | cons x l ih => rw [List.foldl_cons, ih, h]

theorem steady_foldl {α : Type} (f : State → α → State) (h : ∀ s x, steady (f s x) = steady s) (l : List α) (s : State) :
    steady (l.foldl f s) = steady s := by
  induction l generalizing s with
  | nil => rfl
  | cons x l ih => rw [List.foldl_cons, ih, h]

theorem kept_ite {c : Prop} [Decidable c] {a b : State} {x} (h : kept a = x) (h' : kept b = x) : kept (if c then a else b) = x := by split <;> assumption

variable (s : State)

@[simp] theorem kept_modEng (n : Nat) (f : Engine → Engine) : kept (modEng s n f) = kept s := rfl
@[simp] theorem kept_setPort (n : Nat) (v : Port) : kept (setPort s n v) = kept s := rfl
@[simp] theorem kept_setBridge (n : Nat) (v : Bridge) : kept (setBridge s n v) = kept s := rfl
@[simp] theorem kept_setLink (n : Nat) (v : Link) : kept (setLink s n v) = kept s := rfl
@[simp] theorem kept_setStream (n : Nat) (v : Stream) : kept (setStream s n v) = kept s := rfl
@[simp] theorem kept_setBank (n : Nat) (v : Bank) : kept (setBank s n v) = kept s := rfl
@[simp] theorem kept_setGroup (n : Nat) (v : Group) : kept (setGroup s n v) = kept s := rfl
@[simp] theorem kept_setRefMon (n : Nat) (v : RefMon) : kept (setRefMon s n v) = kept s := rfl
@[simp] theorem kept_detectWhen (t : MT) (c u : Nat) (a : Long) (i : Bool) : kept (detectWhen s t c u a i) = kept s := by simp [kept, steady, timeKept]
@[simp] theorem kept_detectAs (c u : Nat) (a : Long) (i : Bool) : kept (detectAs s c u a i) = kept s := kept_detectWhen ..
@[simp] theorem kept_detect (c u : Nat) (a : Long) : kept (detect s c u a) = kept s := kept_detectAs ..
@[simp] theorem kept_eachEng (f : Engine → Engine) : kept (eachEng s f) = kept s := by
  unfold eachEng; exact kept_foldl _ (fun s _ => kept_modEng s ..) _ _
@[simp] theorem kept_eachPort (f : Nat → Port → Port) : kept (eachPort s f) = kept s := by
  unfold eachPort; exact kept_foldl _ (fun s _ => kept_setPort s ..) _ _
@[simp] theorem kept_eachBridge (f : Nat → Bridge → Bridge) : kept (eachBridge s f) = kept s := by
  unfold eachBridge; exact kept_foldl _ (fun s _ => kept_setBridge s ..) _ _
@[simp] theorem kept_eachLink (f : Nat → Link → Link) : kept (eachLink s f) = kept s := by
  unfold eachLink; exact kept_foldl _ (fun s _ => kept_setLink s ..) _ _
@[simp] theorem kept_bumpEpoch : kept (bumpEpoch s) = kept s := by unfold bumpEpoch; split <;> rfl
@[simp] theorem kept_portCount (p e : Nat) : kept (portCount s p e) = kept s := rfl
@[simp] theorem kept_linkCount (l e : Nat) : kept (linkCount s l e) = kept s := rfl

/-! ## The reference entries -/

@[simp] theorem kept_holdAtWord (w : Int) : kept (holdAtWord s w) = kept s := by unfold holdAtWord; rw [kept_detect]; rfl
@[simp] theorem kept_acquire (i : Nat) : kept (acquire s i) = kept s := rfl
@[simp] theorem kept_steerFrom (w : Word) : kept (steerFrom s w) = kept s := by
  unfold steerFrom
  split
  · split
    · rfl
    · dsimp only; rw [kept_detect, kept_acquire]; rfl
  · split
    · exact kept_holdAtWord ..
    · rfl
@[simp] theorem kept_steer : kept (steer s) = kept s := kept_steerFrom ..
@[simp] theorem kept_refStop (i : Nat) (j : Bool) : kept (refStop s i j) = kept s := by
  unfold refStop; split
  · rfl
  · unfold disqualify; simp
@[simp] theorem kept_bufferOff (p : Nat) : kept (bufferOff s p) = kept s := by unfold bufferOff; split <;> simp
@[simp] theorem kept_rootSteers : kept (rootSteers s) = kept s := by
  unfold rootSteers; split
  · split <;> simp
  · simp
@[simp] theorem kept_bufferWatch : kept (bufferWatch s) = kept s := by
  refine kept_foldl _ (fun s i => ?_) _ _
  dsimp only; split_ifs <;> rfl

/-! ## The samples of the period -/

@[simp] theorem kept_capture (p : Nat) (r : Ready) : kept (capture s p r) = kept s := by
  unfold capture; dsimp only; split
  · rfl
  · exact kept_ite rfl rfl
@[simp] theorem kept_deliverStamp (p : Nat) (x : MT) (f : Option InEntry) : kept (deliverStamp s p x f) = kept s := by
  unfold deliverStamp; dsimp only
  exact kept_ite (kept_capture ..) rfl
@[simp] theorem kept_inStamp (p : Nat) (x : MT) : kept (inStamp s p x) = kept s := by
  unfold inStamp; dsimp only; split
  · simp
  · split
    · unfold underrunIn; simp
    · split <;> simp
@[simp] theorem kept_portStamps (p : Nat) (t : MT) : kept (portStamps s p t) = kept s := by
  unfold portStamps; split
  · rfl
  · split
    · rfl
    · exact kept_foldl _ (fun s x => kept_inStamp s p x) _ _
@[simp] theorem kept_outStamp (p : Nat) (x : MT) : kept (outStamp s p x) = kept s := by
  unfold outStamp; dsimp only
  generalize outChans s p x _ _ _ _ _ _ = y
  obtain ⟨q, l⟩ := y
  dsimp only
  split
  · rfl
  · split
    · unfold overrun; simp
    · rfl
@[simp] theorem kept_outStamps (p : Nat) (t : MT) : kept (outStamps s p t) = kept s := by
  unfold outStamps; split
  · rfl
  · split
    · rfl
    · exact kept_foldl _ (fun s x => kept_outStamp s p x) _ _
@[simp] theorem kept_allStamps (t : MT) : kept (allStamps s t) = kept s := by
  unfold allStamps; dsimp only
  rw [kept_foldl _ (fun s _ => kept_outStamps s _ t), kept_foldl _ (fun s _ => kept_portStamps s _ t)]
@[simp] theorem kept_lostForeign (p : Nat) (t : MT) : kept (lostForeign s p t) = kept s := by
  unfold lostForeign; dsimp only; split <;> rfl

/-! ## Links, claims and streams -/

@[simp] theorem kept_loseSlots (l : Nat) : kept (loseSlots s l) = kept s := by
  unfold loseSlots; exact kept_foldl _ (fun s _ => kept_setLink s ..) _ _
@[simp] theorem kept_loseFrame (l : Nat) : kept (loseFrame s l) = kept s := kept_foldl _ (fun s _ => by simp) _ _
@[simp] theorem kept_linkStops (l : Nat) : kept (linkStops s l) = kept s := by
  unfold linkStops; dsimp only
  refine kept_ite ((kept_foldl _ (fun s i => ?_) _ _).trans rfl) rfl
  exact kept_ite (kept_refStop ..) rfl
@[simp] theorem kept_periodCounts : kept (periodCounts s) = kept s := by
  unfold periodCounts
  dsimp only
  rw [kept_eachPort, kept_eachBridge, kept_foldl]
  · rfl
  · intro s x; rw [kept_setLink]; exact kept_ite ((kept_loseSlots ..).trans (kept_ite ((kept_loseFrame ..).trans (kept_linkStops ..)) (kept_linkStops ..))) (kept_linkStops ..)
@[simp] theorem kept_holdMember (c : Nat) : kept (holdMember s c) = kept s := by
  unfold holdMember; split
  · rfl
  · rw [kept_detect]; rfl
@[simp] theorem kept_checkEpoch : kept (checkEpoch s) = kept s := by
  unfold checkEpoch
  exact kept_ite rfl (kept_ite (kept_holdMember ..) (kept_ite rfl rfl))
@[simp] theorem kept_compareTag (t : Long) : kept (compareTag s t) = kept s := by
  unfold compareTag; dsimp only; split
  · rfl
  · rw [kept_holdMember]; rfl
@[simp] theorem kept_markJoined : kept (markJoined s) = kept s := by
  unfold markJoined
  have := kept_foldl (fun (s : State) (kv : Nat × Link) => if (link s kv.1).join = 4 then setLink s kv.1 { link s kv.1 with joinDone := true } else s)
    (fun s kv => kept_ite rfl rfl) s.links s
  exact this
@[simp] theorem kept_becomeJoined (e : Long) : kept (becomeJoined s e) = kept s := by
  unfold becomeJoined; dsimp only
  split
  · unfold rootTag; split <;> exact kept_markJoined s
  · split
    · simp
    · exact kept_markJoined s
@[simp] theorem kept_joinsNow : kept (joinsNow s) = kept s := by
  unfold joinsNow; split
  · dsimp only; split
    · rw [kept_becomeJoined]; rfl
    · rfl
  · rfl
@[simp] theorem kept_markEmpty : kept (markEmpty s) = kept s := by
  refine kept_foldl _ (fun s b => ?_) _ _
  dsimp only; split <;> rfl
@[simp] theorem kept_applyStage (a : StageAct) : kept (applyStage s a) = kept s := by
  cases a with
  | map => rfl
  | unmap => rfl
  | playout => rfl
  | switch e alt l hops slots ring =>
    simp only [applyStage, switchCopy]
    split_ifs <;> simp <;> split <;> rfl
theorem kept_stagedDue (l : List Staged) (u : State) : kept (markEmpty (l.foldl (fun s x => applyStage s x.act) u)) = kept u := by
  rw [kept_markEmpty, kept_foldl _ (fun s (x : Staged) => kept_applyStage s x.act)]
theorem kept_applyStaged : kept (applyStaged s) = (steady s, s.clocks.sched, s.clocks.staged.filter (fun x => !isDue (now s) x.target)) := by
  unfold applyStaged; dsimp only; split
  · next h =>
    simp only [Bool.and_eq_true, List.isEmpty_iff, List.filter_eq_nil_iff] at h
    rw [List.filter_eq_self.2 fun x hx => by simpa using h.1 x hx]; rfl
  · rw [kept_stagedDue]; rfl
theorem steady_unmap (e : Nat) (o : Option Nat) (t : MT) : steady (unmap s e o t) = steady s := by
  unfold unmap
  dsimp only
  rw [steady_foldl]
  · split <;> rfl
  · intro s x
    split
    · rfl
    · refine steady_foldl _ (fun s o => ?_) _ _
      split <;> split <;> rfl
theorem steady_freeEntry (e : Nat) (t : MT) : steady (freeEntry s e t) = steady s := by
  unfold freeEntry; dsimp only
  rw [steady_of_kept (kept_markEmpty _), steady_of_kept (kept_setStream ..)]
  split
  · exact steady_unmap s e none t
  · exact steady_unmap s e none t
theorem steady_releasePending : steady (releasePending s) = steady s := by
  refine steady_foldl _ (fun s kv => ?_) _ _
  split
  · rfl
  · unfold releaseShare; dsimp only; split
    · exact steady_freeEntry ..
    · split
      · split <;> rfl
      · rfl
theorem steady_followRoot (c : Long) : steady (followRoot s c) = steady s := by
  unfold followRoot; dsimp only; split
  · rw [steady_of_kept (kept_detect ..)]
    split
    · rfl
    · split <;> exact steady_releasePending _
  · rfl
theorem steady_hearClaims : steady (hearClaims s) = steady s := by
  unfold hearClaims; dsimp only
  split
  · split <;> (rw [steady_followRoot]; rfl)
  · split
    · split
      · rfl
      · refine Eq.trans (steady_of_kept (kept_foldl _ (fun s i => ?_) _ _)) rfl
        split <;> simp
    · rw [steady_followRoot]; rfl

/-! ## Actions at their targets -/

@[simp] theorem kept_modPage (n p : Nat) (f : Page → Page) : kept (modPage s n p f) = kept s := rfl
@[simp] theorem kept_dropMarks (p : Nat → Bool) : kept (dropMarks s p) = kept s := rfl
@[simp] theorem kept_clearMark (l : Nat) : kept (clearMark s l) = kept s := by unfold clearMark; rfl
@[simp] theorem kept_clearPage (n p : Nat) (v : Bool) (a b : Nat) : kept (clearPage s n p v a b) = kept s := by
  unfold clearPage; exact kept_foldl _ (fun s (k : Nat) => kept_clearMark s _) _ _
@[simp] theorem kept_bindOn (n p : Nat) (ws : List Word) : kept (bindOn s n p ws) = kept s := by
  unfold bindOn; dsimp only; rw [kept_modPage]; exact kept_ite rfl (kept_clearPage ..)
@[simp] theorem kept_flipOn (b : Bool) (n p : Nat) (ws : List Word) : kept (flipOn b s n p ws) = kept s := by
  unfold flipOn; dsimp only; rw [kept_modPage]; exact kept_ite rfl (kept_clearPage ..)
@[simp] theorem kept_startOn (n p : Nat) (ws : List Word) : kept (startOn s n p ws) = kept s := by
  have h : kept (modPage (if (page (eng s n) p).state = .bound then clearPage s n p (page (eng s n) p).view1 0 64 else clearPage (clearPage s n p (page (eng s n) p).view1 0 64) n p (!(page (eng s n) p).view1) 0 64) n p (fun q => startPage q ws)) = kept s := by
    rw [kept_modPage]; exact kept_ite (kept_clearPage ..) ((kept_clearPage ..).trans (kept_clearPage ..))
  unfold startOn; dsimp only
  split
  · rw [kept_bindOn]; exact h
  · exact h
@[simp] theorem kept_startImage (n : Nat) : kept (startImage s n) = kept s := by
  unfold startImage; dsimp only
  rw [kept_modEng, kept_foldl _ (fun s (x : Nat × Bool × List Word) => kept_startOn s n x.1 x.2.2)]; rfl
@[simp] theorem kept_eachReplaced (n : Nat) (b : ProgBank) (f : List Word → Page → Page) : kept (eachReplaced s n b f) = kept s := by
  unfold eachReplaced; exact kept_foldl _ (fun s (x : Nat × List Word) => kept_modPage s n x.1 (f x.2)) _ _
@[simp] theorem kept_flipPages (n : Nat) (b : Bool) : kept (flipPages s n b) = kept s := by
  unfold flipPages; exact kept_foldl _ (fun s (x : Nat × List Word) => kept_flipOn s b n x.1 x.2) _ _
@[simp] theorem kept_flipBounds (n : Nat) : kept (flipBounds s n) = kept s := by
  unfold flipBounds; exact kept_foldl _ (fun s (x : Nat × List Word) => kept_ite (kept_flipOn s false n x.1 x.2) rfl) _ _
@[simp] theorem kept_applyGraft (n : Nat) (t : MT) : kept (applyGraft s n t) = kept s := by
  unfold applyGraft; split
  · rfl
  · dsimp only; split
    · exact kept_ite (by simp) (by simp)
    · simp
    · simp
    · unfold graftWords; simp
@[simp] theorem kept_groupDone (g : Nat) (t : MT) : kept (groupDone s g t) = kept s := by
  unfold groupDone; dsimp only; exact kept_ite rfl rfl
@[simp] theorem kept_commitOn (g n : Nat) (t : MT) : kept (commitOn s g n t) = kept s := by
  have h : kept (((group s g).pages.filter (fun k => decide (k / 128 = n))).foldl (fun s k => modPage s n (k % 128) (flipPage t)) s) = kept s :=
    kept_foldl _ (fun s (k : Nat) => kept_modPage s n (k % 128) (flipPage t)) _ _
  unfold commitOn; dsimp only
  generalize ((group s g).pages.filter (fun k => decide (k / 128 = n))).foldl (fun s k => modPage s n (k % 128) (flipPage t)) s = u at h
  have h2 : kept (match (eng u n).graft with
    | some a => if a.group = g then applyGraft u n t else u
    | none => u) = kept s := by
    split
    · exact kept_ite ((kept_applyGraft ..).trans h) h
    · exact h
  exact kept_ite h2 ((kept_groupDone ..).trans h2)
@[simp] theorem kept_zeroBank (b : Nat) : kept (zeroBank s b) = kept s := rfl
@[simp] theorem kept_applyLease (b k i : Nat) (z : Bool) (e : Option MT) : kept (applyLease s b k i z e) = kept s := by
  have h1 : ∀ (u : State) (j : Nat) (v : Nat → Byte), kept (match bankIndex (eng u j) b with
      | some i => modEng u j (fun e => setBankNo e i (v i))
      | none => u) = kept u := by intro u j v; split <;> rfl
  have h2 : ∀ (u : State) (j : Nat) (v : Nat → Byte), kept (match freeIndex (eng u j) with
      | some i => modEng u j (fun e => setBankNo e i (v i))
      | none => u) = kept u := by intro u j v; split <;> rfl
  unfold applyLease; dsimp only
  refine kept_ite ((kept_bumpEpoch _).trans ?_) ?_ <;>
    refine kept_ite ((kept_zeroBank ..).trans ((kept_setBank ..).trans ?_)) ((kept_setBank ..).trans ?_) <;>
      exact kept_ite ((h2 _ _ (fun _ => _)).trans (kept_ite (h1 _ _ (fun _ => _)) rfl)) (kept_ite (h1 _ _ (fun _ => _)) rfl)
@[simp] theorem kept_applyPort (p : Nat) (o : Bool) (op : Nat) (g : Word) (a b : Nat) (t : MT) : kept (applyPort s p o op g a b t) = kept s := by
  unfold applyPort; exact kept_foldl _ (fun s (i : Nat) => (show kept (portActOn s p o op g t (a + i)) = kept s from rfl)) _ _
@[simp] theorem kept_applyStream (e : Nat) (b : Bool) (t : MT) : kept (applyStream s e b t) = kept s := by
  unfold applyStream; dsimp only; exact kept_ite rfl rfl
@[simp] theorem kept_withhold (d : Option Nat) : kept (withhold s d) = kept s := by
  unfold withhold; dsimp only; exact kept_ite rfl rfl

/-- An action that is no base-rate change leaves the count. -/
theorem timeKept_applySched (x : Sched) (h : ∀ k, x.act ≠ .baseRate k) : timeKept (applySched s x) = timeKept s := by
  have out {u v : State} (e : kept u = kept v) : timeKept u = timeKept v := timeKept_of_steady (steady_of_kept e)
  obtain ⟨t, a, l⟩ := x
  cases a with
  | baseRate k => exact absurd rfl (h k)
  | routeAdd r => exact (out (kept_bumpEpoch _)).trans rfl
  | routeRemove r => exact (out (kept_bumpEpoch _)).trans rfl
  | commit g n => exact out (kept_commitOn ..)
  | graft n => exact out (kept_applyGraft ..)
  | lease => exact out (kept_applyLease ..)
  | port => exact out (kept_applyPort ..)
  | streamStart => exact out (kept_applyStream ..)
  | streamStop => exact out (kept_applyStream ..)
  | drill => exact out (kept_withhold ..)

theorem mem_insertDue {x y : Sched} {l : List Sched} : y ∈ insertDue x l → y = x ∨ y ∈ l := by
  induction l with
  | nil => intro h; left; simpa [insertDue] using h
  | cons z l ih =>
    unfold insertDue
    split
    · intro h; rcases List.mem_cons.1 h with h | h
      · exact .inl h
      · exact .inr h
    · intro h; rcases List.mem_cons.1 h with h | h
      · exact .inr (h ▸ List.mem_cons_self)
      · rcases ih h with h | h
        · exact .inl h
        · exact .inr (List.mem_cons_of_mem _ h)

theorem mem_dueList (l acc : List Sched) {y : Sched} : y ∈ l.foldl (fun l x => insertDue x l) acc → y ∈ l ∨ y ∈ acc := by
  induction l generalizing acc with
  | nil => exact .inr
  | cons x l ih =>
    intro h
    rcases ih _ h with h | h
    · exact .inl (List.mem_cons_of_mem _ h)
    · rcases mem_insertDue h with h | h
      · exact .inl (h ▸ List.mem_cons_self)
      · exact .inr h

/-- Where none of the actions that apply is a base-rate change, the count stands. -/
theorem timeKept_applyWhere (p : Sched → Bool) (h : ∀ x ∈ s.clocks.sched, p x = true → ∀ k, x.act ≠ .baseRate k) :
    timeKept (applyWhere s p) = timeKept s := by
  unfold applyWhere; dsimp only
  have hl : ∀ x ∈ (s.clocks.sched.filter p).foldl (fun l x => insertDue x l) [], ∀ k, x.act ≠ .baseRate k := by
    intro x hx
    rcases mem_dueList _ _ hx with hx | hx
    · have := List.mem_filter.1 hx; exact h x this.1 this.2
    · cases hx
  generalize (s.clocks.sched.filter p).foldl (fun l x => insertDue x l) [] = l at hl
  suffices ∀ u : State, timeKept (l.foldl (fun s x => applySched { s with clocks := { s.clocks with sched := s.clocks.sched.erase x } } x) u) = timeKept u from
    (this _).trans rfl
  intro u
  induction l generalizing u with
  | nil => rfl
  | cons x l ih =>
    rw [List.foldl_cons, ih (fun y hy => hl y (List.mem_cons_of_mem _ hy)),
      timeKept_applySched _ x (hl x List.mem_cons_self)]
    rfl

theorem applyWhere_none (p : Sched → Bool) (h : ∀ x ∈ s.clocks.sched, p x = false) : applyWhere s p = s := by
  have h1 : s.clocks.sched.filter p = [] := List.filter_eq_nil_iff.2 fun x hx => by simp [h x hx]
  have h2 : s.clocks.sched.filter (fun x => !p x) = s.clocks.sched := List.filter_eq_self.2 fun x hx => by simp [h x hx]
  unfold applyWhere schedDrop; rw [h1, h2]; rfl

@[simp] theorem kept_endLeases : kept (endLeases s) = kept s := by
  unfold endLeases
  refine kept_foldl _ (fun s kv => ?_) _ _
  split
  · exact kept_ite rfl rfl
  · rfl
@[simp] theorem kept_endGap (t : MT) : kept (endGap s t) = kept s := by
  unfold endGap; dsimp only
  refine kept_ite rfl ?_
  split
  · rw [kept_detect]; rfl
  · rfl
@[simp] theorem kept_ppsOut (t : MT) : kept (ppsOut s t) = kept s := by unfold ppsOut; dsimp only; exact kept_ite rfl rfl

/-! ## After MCPLL -/

@[simp] theorem kept_dropTails (t : MT) : kept (dropTails s t) = kept s := rfl
@[simp] theorem kept_eccRead (l : Nat) : kept (eccRead s l) = kept s := by
  unfold eccRead; split
  · rfl
  · unfold eccDetect; simp [kept, steady, timeKept]
  · unfold eccDetect; simp [kept, steady, timeKept]
/-- What settling port B leaves. -/
def settled (s : State) : (MT × Nat × Bool × ClockCfg × Int × Persist) × Tbl Route × List Sched × List Staged :=
  (timeKept s, s.routes, s.clocks.sched, s.clocks.staged)
theorem settled_of_kept {s t : State} (h : kept s = kept t) : settled s = settled t := by
  have h1 := congrArg (fun x => x.1.1) h
  have h2 := congrArg (fun x => x.1.2.1) h
  have h3 := congrArg (fun x => x.2.1) h
  have h4 := congrArg (fun x => x.2.2) h
  exact Prod.ext h1 (Prod.ext h2 (Prod.ext h3 h4))
theorem settled_ite {c : Prop} [Decidable c] {a b : State} {x} (h : settled a = x) (h' : settled b = x) : settled (if c then a else b) = x := by
  split <;> assumption
theorem settled_foldl {α : Type} (f : State → α → State) (h : ∀ s x, settled (f s x) = settled s) (l : List α) (s : State) :
    settled (l.foldl f s) = settled s := by
  induction l generalizing s with
  | nil => rfl
  | cons x l ih => rw [List.foldl_cons, ih, h]
theorem settled_portBStep (b : Nat) (c : Bool) : settled (portBStep s b c) = settled s := by
  have write (s : State) (w : Nat) (v : Word) : settled (portBWrite s b w v) = settled s := rfl
  unfold portBStep; dsimp only; split
  · rfl
  · unfold portBAct; dsimp only
    split
    · exact (settled_of_kept (kept_eccRead ..)).trans rfl
    · split
      · exact (write ..).trans rfl
      · split
        · exact (write ..).trans rfl
        · refine settled_ite ((write ..).trans rfl) (settled_ite rfl ?_)
          unfold collide; dsimp only
          exact settled_ite rfl ((settled_of_kept (kept_detect ..)).trans rfl)
theorem settled_settlePortB (b : Nat) : settled (settlePortB s b) = settled s := by
  unfold settlePortB; exact settled_foldl _ (fun s (_ : Nat) => settled_portBStep s b false) _ _
@[simp] theorem kept_wakePorts : kept (wakePorts s) = kept s := by
  unfold wakePorts; refine kept_ite ?_ rfl
  unfold enablePorts; dsimp only
  refine (kept_foldl _ (fun s (b : Nat) => ?_) _ _).trans ((kept_foldl _ (fun s (p : Nat) => ?_) _ _).trans rfl) <;> exact kept_ite rfl rfl

theorem steady_applyStaged : steady (applyStaged s) = steady s := congrArg Prod.fst (kept_applyStaged s)

/-! ## The whole boundary -/

theorem mcpllTick_frame : { (mcpllTick s) with clocks := s.clocks } = s := rfl

/-- The state in which the pending actions that no frame touches are applied. -/
def boundaryStart (s : State) : State :=
  let t : MT := ⟨(now s).count + 1, 0⟩
  let s : State := { s with clocks := { s.clocks with mt := t, clkoutApplied := s.cfg.clocks } }
  let s := if t.count = 0 then detect s 0x100F devUnit 0 else s
  s.ports.foldl (fun s kv => lostForeign s kv.1 t) (allStamps s (mtMinus t 1))

theorem kept_boundaryStart : kept (boundaryStart s) =
    (((⟨(now s).count + 1, 0⟩, s.clocks.rate, s.clocks.gateOpen, s.cfg.clocks, s.clocks.ntoPpb, s.cfg), s.routes, s.mem.cross), s.clocks.sched, s.clocks.staged) := by
  unfold boundaryStart; dsimp only
  rw [kept_foldl _ (fun s (kv : Nat × Port) => kept_lostForeign s kv.1 _), kept_allStamps]
  exact kept_ite ((kept_detect ..).trans rfl) rfl

/-- The rest of the boundary, up to MCPLL. -/
def boundaryMid (s : State) : State :=
  let s := endGap s (now s)
  let s := periodCounts (applyStaged (ppsOut s (now s)))
  rootSteers (if alone s then s else hearClaims (joinsNow s))

/-- The rest of the boundary. -/
def boundaryEnd (s : State) : State :=
  let s := dropTails (bufferWatch (mcpllTick s)) (now s)
  let s := (List.range 32).foldl settlePortB s
  wakePorts (eachEng s (powerUp s))

/-- The actions of the boundary that no frame touches. -/
def boundaryActs (s : State) (t : MT) : State :=
  if s.clocks.gateOpen then
    endLeases (applyWhere s (fun x => isDue t x.target && (touched s x.act).all (fun n => decide ((eng s n).stage = .none) || freeRun (eng s n))))
  else eachBridge s (fun b x => { x with ingress := gapSide t (rbCfg s b).inClass x.ingress })

theorem execBasePeriodBoundary_eq (h : timeRuns s = true) : execBasePeriodBoundary s =
    ok (boundaryEnd (boundaryMid (boundaryActs (boundaryStart s) ⟨(now s).count + 1, 0⟩))) := by
  unfold execBasePeriodBoundary; rw [if_neg (by simp [h])]; rfl

theorem kept_mid (h : alone s = true) :
    kept (boundaryMid s) = (steady s, s.clocks.sched, s.clocks.staged.filter (fun x => !isDue (now s) x.target)) := by
  have h2 : kept (ppsOut (endGap s (now s)) (now (endGap s (now s)))) = kept s := (kept_ppsOut ..).trans (kept_endGap ..)
  unfold boundaryMid; dsimp only
  rw [kept_rootSteers]
  generalize ppsOut (endGap s (now s)) (now (endGap s (now s))) = u at h2
  have h3 : alone (periodCounts (applyStaged u)) = true := by
    have e1 := congrArg (fun x => x.1.1.2.2.2.2.2) (kept_periodCounts (applyStaged u))
    have e2 := congrArg (fun x => x.1.1.2.2.2.2.2) (kept_applyStaged u)
    have e3 := congrArg (fun x => x.1.1.2.2.2.2.2) h2
    have : (periodCounts (applyStaged u)).cfg = s.cfg := e1.trans (e2.trans e3)
    unfold alone at h ⊢; rw [this]; exact h
  rw [if_pos h3, kept_periodCounts, kept_applyStaged]
  have e1 := congrArg (fun x => x.1) h2
  have e2 := congrArg (fun x => x.2.1) h2
  have e3 := congrArg (fun x => x.2.2) h2
  have e4 : now u = now s := congrArg (fun x => x.1.1.1) h2
  dsimp only [kept] at e1 e2 e3
  rw [e1, e2, e3, e4]

theorem steady_mid : steady (boundaryMid s) = steady s := by
  unfold boundaryMid; dsimp only
  rw [steady_of_kept (kept_rootSteers _)]
  have h2 : steady (periodCounts (applyStaged (ppsOut (endGap s (now s)) (now (endGap s (now s)))))) = steady s :=
    (steady_of_kept (kept_periodCounts _)).trans ((steady_applyStaged _).trans (steady_of_kept ((kept_ppsOut ..).trans (kept_endGap ..))))
  split
  · exact h2
  · exact (steady_hearClaims _).trans ((steady_of_kept (kept_joinsNow _)).trans h2)

theorem settled_end : settled (boundaryEnd s) = settled (mcpllTick s) := by
  unfold boundaryEnd; dsimp only
  rw [settled_of_kept (kept_wakePorts _), settled_of_kept (kept_eachEng ..), settled_foldl _ (fun s (b : Nat) => settled_settlePortB s b),
    settled_of_kept (kept_dropTails ..), settled_of_kept (kept_bufferWatch _)]

theorem mcpllTick_slews : ((mcpllTick s).clocks.ntoPpb - s.clocks.ntoPpb).natAbs ≤ 10000000 / rateHz s.clocks.rate := by
  have : (mcpllTick s).clocks.ntoPpb = s.clocks.ntoPpb + clampInt (-((10000000 / rateHz s.clocks.rate : Nat) : Int)) ((10000000 / rateHz s.clocks.rate : Nat) : Int) (aimedWord s - s.clocks.ntoPpb) := rfl
  rw [this]; unfold clampInt
  generalize 10000000 / rateHz s.clocks.rate = m
  generalize aimedWord s - s.clocks.ntoPpb = d
  omega

theorem closeGate_time : (closeGate s).clocks.mt = s.clocks.mt ∧ (closeGate s).clocks.rate = s.clocks.rate ∧
    (closeGate s).mem.cross = s.mem.cross := by
  unfold closeGate; split
  · exact ⟨rfl, rfl, rfl⟩
  · dsimp only
    have h (l : List (Nat × Engine)) (u : State) : kept (l.foldl (fun s kv => mirrorPub s kv.1) u) = kept u := by
      refine kept_foldl _ (fun s x => ?_) _ _
      unfold mirrorPub; dsimp only
      refine kept_foldl _ (fun s kv => ?_) _ _
      refine kept_ite ?_ rfl
      exact kept_foldl _ (fun s (i : Nat) => kept_modEng s ..) _ _
    have e := (h (s.engines.filter (fun kv => midFrame kv.2)) _).trans (kept_eachEng { s with clocks := { s.clocks with
      gateOpen := false, restart := false, gapStart := some s.clocks.mt, gapCount := (satInc s.clocks.gapCount).1, gapOvf := s.clocks.gapOvf || (satInc s.clocks.gapCount).2 } } abandon)
    exact ⟨congrArg (fun x => x.1.1.1) e, congrArg (fun x => x.1.1.2.1) e, congrArg (fun x => x.1.2.2) e⟩

/-! ## Port B settles -/

theorem cross_eccRead (l : Nat) : (eccRead s l).mem.cross = s.mem.cross := by
  unfold eccRead; split
  · rfl
  · unfold eccDetect; simp
  · unfold eccDetect; simp

/-- Both queues of a crossing block. -/
def waits (s : State) (b : Nat) : List PortB × List PortB := ((cross s b).waitCc, (cross s b).waitLink)

theorem portBAct_waits (b : Nat) (a : PortB) (c : Bool) (w : Tbl.wf {} s.mem.cross = true) :
    Tbl.wf {} (portBAct s b a c).mem.cross = true ∧ waits (portBAct s b a c) b = waits s b ∧
      ∀ j, j ≠ b → waits (portBAct s b a c) j = waits s j := by
  have set (v : Cross) (h : (v.waitCc, v.waitLink) = waits s b) : Tbl.wf {} (tset {} s.mem.cross b v) = true ∧
      ((tget {} (tset {} s.mem.cross b v) b).waitCc, (tget {} (tset {} s.mem.cross b v) b).waitLink) = waits s b ∧
      ∀ j, j ≠ b → ((tget {} (tset {} s.mem.cross b v) j).waitCc, (tget {} (tset {} s.mem.cross b v) j).waitLink) = waits s j :=
    ⟨tset_wf b v w, by rw [tget_tset_self v w]; exact h, fun j hj => by rw [tget_tset_other _ _ _ hj]; rfl⟩
  have self : Tbl.wf {} s.mem.cross = true ∧ waits s b = waits s b ∧ ∀ j, j ≠ b → waits s j = waits s j := ⟨w, rfl, fun _ _ => rfl⟩
  have write (v : Word) : Tbl.wf {} (portBWrite s b a.word v).mem.cross = true ∧ waits (portBWrite s b a.word v) b = waits s b ∧
      ∀ j, j ≠ b → waits (portBWrite s b a.word v) j = waits s j := set { cross s b with mem := tset 0 (cross s b).mem a.word v } rfl
  unfold portBAct; dsimp only
  split
  · unfold waits cross; simp only [cross_eccRead]; exact set _ rfl
  · split
    · exact write _
    · split
      · exact write _
      · split
        · exact write _
        · split
          · exact self
          · unfold collide; dsimp only
            split
            · exact set _ rfl
            · unfold waits cross; simp only [detect_mem]; exact set _ rfl

theorem portBStep_waits (b : Nat) (c : Bool) (w : Tbl.wf {} s.mem.cross = true) :
    Tbl.wf {} (portBStep s b c).mem.cross = true ∧
      (waits (portBStep s b c) b).1.length + (waits (portBStep s b c) b).2.length = (waits s b).1.length + (waits s b).2.length - 1 ∧
      ∀ j, j ≠ b → waits (portBStep s b c) j = waits s j := by
  unfold portBStep; dsimp only
  split
  · next h =>
    refine ⟨w, ?_, fun _ _ => rfl⟩
    unfold nextPortB at h; dsimp only at h
    split at h
    · next h1 h2 => simp [waits, h1, h2]
    · simp at h
    · simp at h
    · exact absurd h (by split_ifs <;> simp)
  · next a cc h =>
    have hh : (if cc then (cross s b).waitCc else (cross s b).waitLink) ≠ [] := by
      unfold nextPortB at h; dsimp only at h
      split at h
      · simp at h
      · next h1 h2 => simp only [Option.some.injEq, Prod.mk.injEq] at h; rw [← h.2]; simp [h1]
      · next h1 h2 => simp only [Option.some.injEq, Prod.mk.injEq] at h; rw [← h.2]; simp [h2]
      · next h1 h2 => cases cc <;> simp [h1, h2]
    have key := portBAct_waits (setCross s b { cross s b with
      waitCc := if cc then (cross s b).waitCc.drop 1 else (cross s b).waitCc, waitLink := if cc then (cross s b).waitLink else (cross s b).waitLink.drop 1
      lastCc := cc, lastTag := a.tag }) b a c (tset_wf b _ w)
    refine ⟨key.1, ?_, fun j hj => (key.2.2 j hj).trans (by unfold waits cross setCross; simp only [tget_tset_other _ _ _ hj])⟩
    rw [key.2.1]; unfold waits cross setCross; simp only [tget_tset_self _ w]
    unfold cross at hh
    cases cc
    · simp only [Bool.false_eq_true, if_false] at hh ⊢
      have := List.length_pos_iff.2 hh; rw [List.length_drop]; omega
    · simp only [if_true] at hh ⊢
      have := List.length_pos_iff.2 hh; rw [List.length_drop]; omega

theorem settlePortB_waits (b : Nat) (w : Tbl.wf {} s.mem.cross = true) :
    Tbl.wf {} (settlePortB s b).mem.cross = true ∧ waits (settlePortB s b) b = ([], []) ∧ ∀ j, j ≠ b → waits (settlePortB s b) j = waits s j := by
  unfold settlePortB
  suffices h : ∀ (n : Nat) (s : State), Tbl.wf {} s.mem.cross = true → n = (waits s b).1.length + (waits s b).2.length →
      Tbl.wf {} ((List.range n).foldl (fun s _ => portBStep s b false) s).mem.cross = true ∧
        waits ((List.range n).foldl (fun s _ => portBStep s b false) s) b = ([], []) ∧
        ∀ j, j ≠ b → waits ((List.range n).foldl (fun s _ => portBStep s b false) s) j = waits s j from h _ s w rfl
  have ext (l : List Nat) (n : Nat) (hl : l.length = n) : ∀ s : State, Tbl.wf {} s.mem.cross = true → n = (waits s b).1.length + (waits s b).2.length →
      Tbl.wf {} (l.foldl (fun s _ => portBStep s b false) s).mem.cross = true ∧
        waits (l.foldl (fun s _ => portBStep s b false) s) b = ([], []) ∧
        ∀ j, j ≠ b → waits (l.foldl (fun s _ => portBStep s b false) s) j = waits s j := by
    induction l generalizing n with
    | nil =>
      intro s w hn
      subst hl
      refine ⟨w, ?_, fun _ _ => rfl⟩
      have h1 : (waits s b).1 = [] := List.length_eq_zero_iff.1 (by simp only [List.length_nil] at hn; omega)
      have h2 : (waits s b).2 = [] := List.length_eq_zero_iff.1 (by simp only [List.length_nil] at hn; omega)
      exact Prod.ext h1 h2
    | cons x l ih =>
      intro s w hn
      have st := portBStep_waits s b false w
      have := ih (n - 1) (by simp only [List.length_cons] at hl; omega) (portBStep s b false) st.1 (by rw [st.2.1, hn])
      exact ⟨this.1, this.2.1, fun j hj => (this.2.2 j hj).trans (st.2.2 j hj)⟩
  exact fun n s w hn => ext (List.range n) n (by simp) s w hn

theorem settleAll_waits (w : Tbl.wf {} s.mem.cross = true) (b : Nat) (hb : b < 32) :
    waits ((List.range 32).foldl settlePortB s) b = ([], []) := by
  suffices h : ∀ (l : List Nat) (s : State), Tbl.wf {} s.mem.cross = true → (b ∈ l ∨ waits s b = ([], [])) → waits (l.foldl settlePortB s) b = ([], []) from
    h _ s w (.inl (List.mem_range.2 hb))
  intro l
  induction l with
  | nil => intro s _ h; rcases h with h | h; · cases h
           · exact h
  | cons x l ih =>
    intro s w h
    have st := settlePortB_waits s x w
    refine ih _ st.1 ?_
    by_cases hx : b = x
    · subst hx; exact .inr st.2.1
    · rcases h with h | h
      · rcases List.mem_cons.1 h with h | h
        · exact absurd h hx
        · exact .inl h
      · exact .inr ((st.2.2 b hx).trans h)

/-! ## Crossing RAM through a boundary -/

theorem cross_of_kept {s t : State} (h : kept s = kept t) : s.mem.cross = t.mem.cross := congrArg (fun x => x.1.2.2) h

theorem cross_carryStamps (f : MT → MT) : (carryStamps f s).mem.cross = s.mem.cross := by
  unfold carryStamps; dsimp only
  rw [cross_of_kept (kept_eachBridge ..), cross_of_kept (kept_eachLink ..), cross_of_kept (kept_eachPort ..)]
  exact cross_foldl (fun (s : State) (kv : Nat × Route) => setRoute s kv.1 { kv.2 with since := f kv.2.since }) (fun _ _ => rfl) s.routes s

theorem cross_carryFrames (f : MT → MT) : (carryFrames f s).mem.cross = s.mem.cross := by
  unfold carryFrames; dsimp only
  rw [cross_of_kept (kept_eachEng ..), cross_of_kept (kept_eachEng ..)]

theorem clocks_eachPort (f : Nat → Port → Port) : (eachPort s f).clocks = s.clocks ∧ (eachPort s f).mem = s.mem := by
  unfold eachPort
  suffices ∀ (l : List (Nat × Port)) (s : State), (l.foldl (fun s kv => setPort s kv.1 (f kv.1 (port s kv.1))) s).clocks = s.clocks ∧
      (l.foldl (fun s kv => setPort s kv.1 (f kv.1 (port s kv.1))) s).mem = s.mem from this _ s
  intro l
  induction l with
  | nil => exact fun _ => ⟨rfl, rfl⟩
  | cons x l ih => exact fun s => ⟨(ih _).1, (ih _).2⟩

theorem clocks_eachBridge (f : Nat → Bridge → Bridge) : (eachBridge s f).clocks = s.clocks ∧ (eachBridge s f).mem = s.mem := by
  unfold eachBridge
  suffices ∀ (l : List (Nat × Bridge)) (s : State), (l.foldl (fun s kv => setBridge s kv.1 (f kv.1 (bridge s kv.1))) s).clocks = s.clocks ∧
      (l.foldl (fun s kv => setBridge s kv.1 (f kv.1 (bridge s kv.1))) s).mem = s.mem from this _ s
  intro l
  induction l with
  | nil => exact fun _ => ⟨rfl, rfl⟩
  | cons x l ih => exact fun s => ⟨(ih _).1, (ih _).2⟩

/-- A base-rate change: the count is rescaled to the new rate (R82). -/
theorem hop_time (k : Nat) : (hop s k).clocks.rate = k ∧
    (hop s k).clocks.mt = mtOf (s.clocks.mt.count.toNat * rateHz k / rateHz s.clocks.rate * 65536) ∧ (hop s k).mem.cross = s.mem.cross := by
  obtain ⟨h1, h2, h3⟩ := closeGate_time s
  unfold hop; dsimp only
  rw [detect_clocks, (clocks_eachBridge ..).1, (clocks_eachPort ..).1, detect_mem, (clocks_eachBridge ..).2, (clocks_eachPort ..).2]
  refine ⟨rfl, ?_, ?_⟩
  · rw [← h1, ← h2]
  · unfold mapInj; dsimp only; rw [cross_carryFrames, cross_carryStamps, h3]

theorem cross_applySched (x : Sched) : (applySched s x).mem.cross = s.mem.cross := by
  obtain ⟨t, a, l⟩ := x
  cases a with
  | baseRate k => exact (hop_time s k).2.2
  | routeAdd r => exact (cross_of_kept (kept_bumpEpoch _)).trans rfl
  | routeRemove r => exact (cross_of_kept (kept_bumpEpoch _)).trans rfl
  | commit g n => exact cross_of_kept (kept_commitOn ..)
  | graft n => exact cross_of_kept (kept_applyGraft ..)
  | lease => exact cross_of_kept (kept_applyLease ..)
  | port => exact cross_of_kept (kept_applyPort ..)
  | streamStart => exact cross_of_kept (kept_applyStream ..)
  | streamStop => exact cross_of_kept (kept_applyStream ..)
  | drill => exact cross_of_kept (kept_withhold ..)

theorem cross_applyWhere (p : Sched → Bool) : (applyWhere s p).mem.cross = s.mem.cross := by
  unfold applyWhere; dsimp only
  refine (cross_foldl _ (fun s (x : Sched) => ?_) _ _).trans rfl
  exact (cross_applySched _ x).trans rfl

theorem cross_acts (t : MT) : (boundaryActs s t).mem.cross = s.mem.cross := by
  unfold boundaryActs; split
  · exact (cross_of_kept (kept_endLeases _)).trans (cross_applyWhere ..)
  · exact cross_of_kept (kept_eachBridge ..)

theorem boundary_waits (h : timeRuns s = true) (w : Tbl.wf {} s.mem.cross = true) (b : Nat) (hb : b < 32) :
    ∃ t, execBasePeriodBoundary s = ok t ∧ waits t b = ([], []) := by
  refine ⟨_, execBasePeriodBoundary_eq s h, ?_⟩
  have a1 : ∀ u : State, (boundaryMid u).mem.cross = u.mem.cross := fun u => congrArg (fun x => x.2.2) (steady_mid u)
  have a2 : (boundaryStart s).mem.cross = s.mem.cross := congrArg (fun x => x.1.2.2) (kept_boundaryStart s)
  have e1 : (boundaryMid (boundaryActs (boundaryStart s) ⟨(now s).count + 1, 0⟩)).mem.cross = s.mem.cross := by rw [a1, cross_acts, a2]
  generalize boundaryMid (boundaryActs (boundaryStart s) ⟨(now s).count + 1, 0⟩) = v at e1
  unfold boundaryEnd; dsimp only
  have e2 : ∀ u : State, waits (wakePorts (eachEng u (powerUp u))) b = waits u b := fun u => by
    unfold waits cross; rw [cross_of_kept ((kept_wakePorts _).trans (kept_eachEng ..))]
  rw [e2]
  refine settleAll_waits _ ?_ b hb
  rw [cross_of_kept ((kept_dropTails ..).trans (kept_bufferWatch _))]
  exact e1.symm ▸ w

end Sys2Proof.Machine
end

