-- ==== Sys2Proof/Tests/Slice0.lean ====
section
/-! SUPPORT. The model's own tests: ill-formed words that WellFormed refuses, engine words written out from the spec's encodings, single
steps on small states, and, for every statement of Slice0/Obligations.lean with hypotheses, a state and operands that meet them. -/
namespace Sys2Proof.Tests
open Sys2Proof.Machine

set_option Elab.async false

/-! ## Small states -/

/-- Engine 0 runs a FREE Sapling program whose registers are `c`. -/
def sap (c : Ctx) : State :=
  { State.reset with
    clocks := { gateOpen := true }, power := { dev := .run }
    engines := [(0, { state := .sapling, running := true, stage := .program, ctx := c })] }

/-- Engine 0 is `e`, and ECLK runs. -/
def withEng (e : Engine) : State := { State.reset with clocks := { gateOpen := true }, power := { dev := .run }, engines := [(0, e)] }

/-- A word on engine 0 with no guard. -/
def w0 : Issue := ⟨0, false, 0⟩

/-- A running device at media time 1,000, with an open custodian session on Ethernet. -/
def dev : State :=
  { State.reset with
    clocks := { mt := ⟨1000, 0⟩, gateOpen := true, ecpll := .locked, mcpll := .locked, scpllLock := true, lkpllLock := true }
    power := { dev := .run }, mgmt := { sessions := [(0, { phase := 2, role := 3 })] }, grove := { } }

/-- A request of that session. -/
def r0 : Req := ⟨0, 7⟩

/-- A target far enough ahead, a class-m boundary of every class, and one too near. -/
def far : MT := ⟨2048, 0⟩
def near : MT := ⟨1003, 0⟩

/-! ## A check of the canonical form that can be evaluated -/

def ctxB (c : Ctx) : Bool :=
  Tbl.wf 0 c.regs && Tbl.wf 0 c.acs && Tbl.wf 0 c.prods && Tbl.wf 0 c.taps && Tbl.wf 0 c.outCur && Tbl.wf 0 c.outAlt

def pageB (p : Page) : Bool := Tbl.wf 0 p.copy0 && Tbl.wf 0 p.copy1

def engB (e : Engine) : Bool :=
  ctxB e.ctx && ctxB e.alt && Tbl.wf 0 e.localRam && Tbl.wf 0 e.inCur && Tbl.wf 0 e.inAlt && Tbl.wf {} e.pages &&
  e.pages.all (fun x => pageB x.2) && Tbl.wf 0 e.active.data && Tbl.wf 0 e.standby.data && e.loading.all (fun b => Tbl.wf 0 b.data)

def canonB (s : State) : Bool :=
  Tbl.wf {} s.engines && Tbl.wf {} s.routes && Tbl.wf {} s.groups && Tbl.wf {} s.ports && Tbl.wf {} s.bridges && Tbl.wf {} s.links &&
  Tbl.wf {} s.streams && Tbl.wf {} s.mgmt.sessions && Tbl.wf {} s.mem.banks && Tbl.wf {} s.mem.cross && Tbl.wf 0 s.mem.ecc &&
  s.engines.all (fun x => engB x.2) && s.mem.banks.all (fun x => Tbl.wf 0 x.2.mem) && s.mem.cross.all (fun x => Tbl.wf 0 x.2.mem)

theorem tget_all {α : Type} (p : α → Bool) (d : α) (hd : p d = true) (t : Tbl α) (h : t.all (fun x => p x.2) = true) (k : Nat) :
    p (tget d t k) = true := by
  induction t with
  | nil => exact hd
  | cons x t ih =>
    simp only [List.all_cons, Bool.and_eq_true] at h
    unfold tget
    split
    · exact h.1
    · exact ih h.2

theorem engCanon_of {e : Engine} (h : engB e = true) : EngCanon e := by
  simp only [engB, ctxB, Bool.and_eq_true] at h
  obtain ⟨⟨⟨⟨⟨⟨⟨⟨⟨⟨⟨⟨⟨⟨a1, a2⟩, a3⟩, a4⟩, a5⟩, a6⟩, ⟨⟨⟨⟨⟨b1, b2⟩, b3⟩, b4⟩, b5⟩, b6⟩⟩, c1⟩, c2⟩, c3⟩, c4⟩, c5⟩, c6⟩, c7⟩, c8⟩ := h
  refine ⟨⟨a1, a2, a3, a4, a5, a6⟩, ⟨b1, b2, b3, b4, b5, b6⟩, c1, c2, c3, c4, fun p => ?_, c6, c7, fun b hb => ?_⟩
  · have := tget_all pageB {} (by decide) e.pages c5 p
    simpa [pageB, page] using this
  · rw [hb] at c8; simpa using c8

theorem canon_of {s : State} (h : canonB s = true) : Canon s := by
  simp only [canonB, Bool.and_eq_true] at h
  obtain ⟨⟨⟨⟨⟨⟨⟨⟨⟨⟨⟨⟨⟨a1, a2⟩, a3⟩, a4⟩, a5⟩, a6⟩, a7⟩, a8⟩, a9⟩, a10⟩, a11⟩, b1⟩, b2⟩, b3⟩ := h
  refine ⟨a1, a2, a3, a4, a5, a6, a7, a8, a9, a10, a11, fun n => engCanon_of ?_, fun b => ?_, fun b => ?_⟩
  · exact tget_all engB {} (by decide) s.engines b1 n
  · exact tget_all (fun x => Tbl.wf 0 x.mem) {} (by decide) s.mem.banks b2 b
  · exact tget_all (fun x => Tbl.wf 0 x.mem) {} (by decide) s.mem.cross b3 b

/-! ## Ill-formed commands, one for each check of WellFormed -/

theorem test_wf_pair_guard : (Instr.pairWord ⟨0, false, 4⟩ .snop .snop).wf = false := by decide
theorem test_wf_pair_array : (Instr.pairWord w0 (.mac 0 1 2) (.cmsu true 3 4)).wf = false := by decide
theorem test_wf_rpt : (Instr.rpt w0 0).wf = false ∧ (Instr.rpt w0 4097).wf = false ∧ (Instr.rpt w0 4096).wf = true := by decide
theorem test_wf_blk : (Instr.blk w0 1 0).wf = false ∧ (Instr.blk w0 1 4097).wf = false ∧ (Instr.blk w0 1 1).wf = true := by decide
theorem test_wf_callm : (Instr.callm w0 33 0).wf = false ∧ (Instr.callm w0 32 0).wf = true := by decide
theorem test_wf_shift : ∀ i ∈ [Instr.shl w0 (.wordImm 0 1 16), .shr w0 (.longImm 0 1 32), .asr w0 (.wordImm 0 1 0xFF), .rol w0 (.longImm 0 1 0x3FF)],
    i.wf = false := by decide
theorem test_wf_acmp : (Instr.acmp w0 1 0 1 3).wf = false := by decide
theorem test_wf_bits : ∀ i ∈ [Instr.bfx w0 0 1 0 0 false, .bfx w0 0 1 1 32 true, .bfi w0 0 1 0 0, .bfi w0 0 1 31 2], i.wf = false := by decide
theorem test_wf_pcmp : (Instr.pcmp w0 1 2 3 3).wf = false ∧ (Instr.pcmp w0 1 2 0 3).wf = true := by decide
theorem test_wf_route : ∀ i ∈ [Instr.routeAdd r0 8192 0 0 ⟨1, 0, 0⟩ ⟨2, 0, 0⟩ far, .routeRemove r0 8192 far, .routeCancel r0 8192 far],
    i.wf = false := by decide
theorem test_wf_group : ∀ i ∈ [Instr.addPage r0 0 1, .removePage r0 256 1, .scope r0 0 1, .addMember r0 256 1, .arm r0 0 far, .cancel r0 256 1,
    .groupRelease r0 0 1], i.wf = false := by decide
theorem test_wf_page : (Instr.pageWrite r0 0 0 0 []).wf = false ∧ (Instr.pageWrite r0 0 0 63 [1, 2]).wf = false := by decide
theorem test_wf_entry : ∀ i ∈ [Instr.sourceDef r0 8192 1 1 0 0 0 ⟨1, 0, 0⟩ 0, .subscribe r0 8192 1 ⟨1, 0, 0⟩, .streamStart r0 8192 0 far,
    .streamStop r0 8192 0 far, .streamCancel r0 8192 0 far, .streamRelease r0 8192 1, .subscribeResult 8192 0 0 0 0 ⟨0, 0, false, 0⟩ 0 0 0 0, .reroute 8192 none],
    i.wf = false := by decide
theorem test_wf_key : (Instr.keyInstall r0 1 0 0 (List.replicate 63 0)).wf = false ∧ (Instr.keyDelete r0 1 0 0 []).wf = false := by decide
theorem test_wf_domain : (Instr.domainOpen r0 0 0 1 [0]).wf = false ∧ (Instr.domainData r0 0 0 0 []).wf = false ∧
    (Instr.domainData r0 0 0 0 (List.replicate 1025 0)).wf = false := by decide +kernel
theorem test_wf_session : (Instr.hello .hq 0 0 1 0 [0]).wf = false ∧ (Instr.prove .hq 1 [0]).wf = false ∧ (Instr.relayLapse 1 16).wf = false := by
  decide
theorem test_wf_adapt : (Instr.adaptDone 0 true [0]).wf = false := by decide

/-! ## Engine words, field by field as R183 and R184 and the tables of the instruction set reference lay them out -/

/-- F = 0, GN = 0, GS = 0, then OP and the operand bits. -/
def longWord (op : BitVec 6) (rest : BitVec 21) : BitVec 32 := 0#1 ++ 0#1 ++ 0#3 ++ op ++ rest
def dec (op : BitVec 6) (rest : BitVec 21) : Option Instr := decodeEngWord 0 (longWord op rest)

/-- The three worked encodings of R184. -/
theorem test_decode_worked :
    decodeEngWord 0 0x00020000 = some (.endFrame w0) ∧ decodeEngWord 0 0x01680000 = some (.ldi w0 0x10 0x8000) ∧
    decodeEngWord 0 0x850A0504 = some (.pairWord w0 (.mac 0 1 2) (.ldl 2 0 .postInc)) := by decide +kernel
/-- The all-zero word is NOP, and 0x8000_0000 two SNOPs (R184). -/
theorem test_decode_nop : decodeEngWord 3 0 = some (.nop ⟨3, false, 0⟩) ∧ decodeEngWord 0 0x80000000 = some (.pairWord w0 .snop .snop) := by
  decide +kernel
/-- GN and GS (R183, R184). -/
theorem test_decode_guard :
    decodeEngWord 0 (0#1 ++ 1#1 ++ 5#3 ++ 0x00#6 ++ 1#4 ++ 0#17) = some (.endFrame ⟨0, true, 5⟩) ∧
    decodeEngWord 0 (1#1 ++ 1#1 ++ 3#2 ++ (0xF#4 ++ 2#2 ++ 0#8) ++ 0#14) = some (.pairWord ⟨0, true, 3⟩ (.aclr 2) .snop) := by decide +kernel
theorem test_decode_control :
    dec 0x00 (2#4 ++ 0#17) = some (.halt w0) ∧ dec 0x00 (3#4 ++ 0#13 ++ 9#4) = some (.trap w0 9) ∧
    dec 0x01 (0#1 ++ 0#8 ++ 299#12) = some (.rpt w0 300) ∧ dec 0x01 (1#1 ++ 0#16 ++ 7#4) = some (.rptx w0 7) ∧
    dec 0x02 (8#9 ++ 13#12) = some (.blk w0 8 14) ∧ dec 0x03 0x12345#21 = some (.immExt w0 0x12345) ∧
    dec 0x04 (0#7 ++ 0x2345#14) = some (.call w0 0x2345) ∧ dec 0x05 0#21 = some (.ret w0) ∧
    dec 0x05 (1#1 ++ 0#4 ++ 0xABCD#16) = some (.retm w0 0xABCD) ∧ dec 0x06 (0#7 ++ 0x1234#14) = some (.br w0 0x1234) ∧
    dec 0x07 (2#2 ++ 6#4 ++ 0#1 ++ 0x0123#14) = some (.brc w0 2 6 0x0123) ∧
    dec (3#2 ++ 0x9#4) (0x15#5 ++ 0x8001#16) = some (.callm w0 (0x9#4 ++ 0x15#5 ++ 0#5) 0x8001) := by decide +kernel
theorem test_decode_moves :
    dec 0x08 (0x2C#6 ++ 0x2D#6 ++ 0#9) = some (.mov w0 0x2C 0x2D) ∧ dec 0x09 (7#3 ++ 11#4 ++ 0#14) = some (.movl w0 7 11) ∧
    dec 0x0B (0x10#6 ++ 0x7FFF#15) = some (.ldi w0 0x10 0xFFFF) ∧ dec 0x0C (5#3 ++ 0x2AAAA#18) = some (.ldil w0 5 0x2AAAA) ∧
    dec 0x0D (4#3 ++ 1#1 ++ 0#1 ++ 0#16) = some (.movp w0 4 1 false) ∧ dec 0x0D (4#3 ++ 0#1 ++ 1#1 ++ 0#16) = some (.movp w0 4 0 true) ∧
    dec 0x0E (0x2D#6 ++ 6#3 ++ 4#3 ++ 9#4 ++ 2#2 ++ 0#3) = some (.ld w0 0x2D ⟨6, .index 9 2⟩) ∧
    dec 0x0F (0x05#6 ++ 3#3 ++ 3#3 ++ 0#4 ++ 0#2 ++ 0#3) = some (.st w0 5 ⟨3, .preDec⟩) ∧
    dec 0x10 (6#3 ++ 1#3 ++ 2#3 ++ 0#4 ++ 0#2 ++ 0#6) = some (.ldl w0 6 ⟨1, .postMod⟩) ∧
    dec 0x11 (9#4 ++ 2#3 ++ 1#3 ++ 0#4 ++ 0#2 ++ 0#5) = some (.stl w0 9 ⟨2, .postInc⟩) := by decide +kernel
theorem test_decode_alu :
    dec 0x12 (0x3#4 ++ 1#4 ++ 2#4 ++ 0#1 ++ 3#4 ++ 0#4) = some (.subc w0 (.wordReg 1 2 3)) ∧
    dec 0x12 (0x8#4 ++ 15#4 ++ 14#4 ++ 1#1 ++ 0xA5#8) = some (.and w0 (.wordImm 15 14 0xA5)) ∧
    dec 0x13 (0x0#4 ++ 1#3 ++ 2#3 ++ 0#1 ++ 3#3 ++ 0#7) = some (.add w0 (.longReg 1 2 3)) ∧
    dec 0x13 (0xE#4 ++ 7#3 ++ 6#3 ++ 1#1 ++ 31#10) = some (.asr w0 (.longImm 7 6 31)) ∧
    dec 0x12 (0x5#4 ++ 1#4 ++ 2#4 ++ 0#9) = some (.abs w0 (.word 1 2)) ∧ dec 0x13 (0xB#4 ++ 1#3 ++ 2#3 ++ 0#11) = some (.not w0 (.long 1 2)) := by
  decide +kernel
theorem test_decode_compares :
    dec 0x14 (0#1 ++ 2#3 ++ 5#3 ++ 9#4 ++ 0#1 ++ 10#4 ++ 0#5) = some (.cmplt w0 (.wordReg 5 9 10)) ∧
    dec 0x14 (0#1 ++ 5#3 ++ 5#3 ++ 9#4 ++ 1#1 ++ 0x1AB#9) = some (.cmpleu w0 (.wordImm 5 9 0x1AB)) ∧
    dec 0x14 (1#1 ++ 0#3 ++ 1#3 ++ 2#3 ++ 0#1 ++ 3#3 ++ 0#7) = some (.cmpeq w0 (.longReg 1 2 3)) ∧
    dec 0x14 (1#1 ++ 4#3 ++ 1#3 ++ 2#3 ++ 1#1 ++ 0x2AA#10) = some (.cmpltu w0 (.longImm 1 2 0x2AA)) ∧
    dec 0x15 (2#3 ++ 1#3 ++ 2#3 ++ 3#3 ++ 0#9) = some (.gand w0 1 2 3) ∧ dec 0x15 (5#3 ++ 1#3 ++ 2#3 ++ 0#3 ++ 0#9) = some (.gnot w0 1 2) := by
  decide +kernel
theorem test_decode_multiply :
    dec 0x16 (0#3 ++ 0#1 ++ 1#1 ++ 3#4 ++ 9#4 ++ 0#8) = some (.mul w0 1 3 9) ∧
    dec 0x16 (3#3 ++ 2#2 ++ 11#4 ++ 1#4 ++ 0#8) = some (.macs w0 2 11 1) ∧
    dec 0x17 (1#3 ++ 1#1 ++ 0#1 ++ 5#3 ++ 6#3 ++ 0#10) = some (.cmac w0 true false 5 6) ∧
    dec 0x18 (1#4 ++ 3#2 ++ 0x21#6 ++ 0#9) = some (.ashf w0 3 0x21) ∧ dec 0x18 (3#4 ++ 2#2 ++ 13#4 ++ 0#11) = some (.anrm w0 2 13) ∧
    dec 0x18 (4#4 ++ 2#2 ++ 1#2 ++ 6#3 ++ 2#2 ++ 0#8) = some (.acmp w0 6 2 1 2) ∧
    dec 0x19 (1#1 ++ 2#2 ++ 1#2 ++ 5#3 ++ 0#13) = some (.astl w0 (.reg 5) 2 1) ∧
    dec 0x19 (0#1 ++ 2#2 ++ 3#2 ++ 5#3 ++ 4#3 ++ 9#4 ++ 1#2 ++ 0#4) = some (.astl w0 (.mem ⟨5, .index 9 1⟩) 2 3) := by decide +kernel
theorem test_decode_bits :
    dec 0x1A (0#3 ++ 2#3 ++ 1#3 ++ 8#5 ++ 11#5 ++ 1#1 ++ 0#1) = some (.bfx w0 2 1 8 12 true) ∧
    dec 0x1A (1#3 ++ 3#3 ++ 2#3 ++ 20#5 ++ 11#5 ++ 0#2) = some (.bfi w0 3 2 20 12) ∧
    dec 0x1A (3#3 ++ 2#4 ++ 3#3 ++ 0#11) = some (.cls w0 2 3) ∧ dec 0x1A (4#3 ++ 1#3 ++ 2#3 ++ 0x1B#8 ++ 0#4) = some (.bperm w0 1 2 0x1B) ∧
    dec 0x1B (1#3 ++ 1#1 ++ 2#4 ++ 3#4 ++ 4#4 ++ 0#5) = some (.psub w0 2 3 4 true) ∧
    dec 0x1B (2#3 ++ 0#1 ++ 2#4 ++ 3#4 ++ 0#9) = some (.dadj w0 2 3 false) ∧
    dec 0x1B (3#3 ++ 1#2 ++ 1#3 ++ 9#4 ++ 11#4 ++ 0#5) = some (.pcmp w0 1 9 11 1) := by decide +kernel
theorem test_decode_lines :
    dec 0x1C (0#3 ++ 2#4 ++ 9#4 ++ 0#10) = some (.dwr w0 2 9) ∧ dec 0x1C (2#3 ++ 1#2 ++ 2#4 ++ 3#3 ++ 0#9) = some (.drl w0 1 2 3) ∧
    dec 0x1D (0#1 ++ 0#1 ++ 3#2 ++ 5#3 ++ 6#3 ++ 0#11) = some (.aadd w0 3 (.cross 6) 5) ∧
    dec 0x1D (1#1 ++ 1#1 ++ 3#2 ++ 5#3 ++ 12#4 ++ 6#3 ++ 0#7) = some (.aswp w0 3 (.line 12 6) 5) := by decide +kernel
/-- Slots (R218). -/
theorem test_decode_slots :
    ([((0x2#4 ++ 3#3 ++ 4#3 ++ 2#2 ++ 0#2 : BitVec 14), Slot.stl 3 4 .postMod), (0x3#4 ++ 9#4 ++ 4#3 ++ 3#2 ++ 0#1, .ld 9 4 .preDec),
      (0x4#4 ++ 9#4 ++ 4#3 ++ 0#2 ++ 0#1, .st 9 4 .ind), (0x6#4 ++ 3#2 ++ 1#3 ++ 2#3 ++ 0#2, .msu 3 1 2), (0x7#4 ++ 1#1 ++ 1#3 ++ 2#3 ++ 0#3, .mul 1 1 2),
      (0x8#4 ++ 1#1 ++ 1#3 ++ 2#3 ++ 0#3, .cmac true 1 2), (0xA#4 ++ 7#3 ++ 11#4 ++ 0#3, .movl 7 11), (0xB#4 ++ 1#3 ++ 2#3 ++ 3#3 ++ 0#1, .addl 1 2 3),
      (0xC#4 ++ 1#3 ++ 2#3 ++ 3#3 ++ 0#1, .subl 1 2 3), (0xD#4 ++ 9#4 ++ 10#4 ++ 0#2, .mov 9 10), (0xE#4 ++ 5#3 ++ 2#2 ++ 0#5, .astl 5 2)]).all
      (fun x => decide (decodeEngWord 0 (1#1 ++ 0#1 ++ 0#2 ++ 0#14 ++ x.1) = some (.pairWord w0 .snop x.2))) = true := by decide +kernel
/-- Encodings that R221 and R225 leave undefined. -/
theorem test_decode_undefined :
    dec 0x00 (4#4 ++ 0#17) = none ∧ dec 0x00 (1#4 ++ 1#17) = none ∧ dec 0x1E 0#21 = none ∧ dec 0x2F 0#21 = none ∧
    dec 0x08 (0x2E#6 ++ 0#15) = none ∧ dec 0x09 (0#3 ++ 12#4 ++ 0#14) = none ∧ dec 0x0E (0#6 ++ 0#3 ++ 5#3 ++ 0#9) = none ∧
    dec 0x0E (0#6 ++ 0#3 ++ 0#3 ++ 1#4 ++ 0#5) = none ∧ dec 0x12 (0xC#4 ++ 0#4 ++ 0#4 ++ 1#1 ++ 16#8) = none ∧
    dec 0x14 (0#1 ++ 6#3 ++ 0#17) = none ∧ dec 0x18 (4#4 ++ 0#4 ++ 0#3 ++ 3#2 ++ 0#8) = none ∧
    dec 0x1A (0#3 ++ 0#6 ++ 1#5 ++ 31#5 ++ 0#2) = none ∧ decodeEngWord 0 (1#1 ++ 0#3 ++ (0x5#4 ++ 0#10) ++ (0x7#4 ++ 0#10)) = none := by
  decide +kernel

/-! ## Single steps: the worked examples of the spec's chapters -/

/-- The registers of engine 0 as the next word sees them, after `i` from the registers `c`. -/
def next (c : Ctx) (i : Instr) : Option Ctx :=
  match exec i (sap c) with
  | .next t => some (seenCtx t 0)
  | _ => none

/-- The result still in flight after `i`. -/
def flying (c : Ctx) (i : Instr) : Option Act :=
  match exec i (sap c) with
  | .next t => ((eng t 0).ctx.inflight.head?).map Flight.act
  | _ => none

/-- Lk holds `v`. -/
def lr (k : Nat) (v : Long) : Tbl Word := [(2 * k, v.extractLsb' 0 16), (2 * k + 1, v.extractLsb' 16 16)]
def a7 : Tbl Word := [(0x17, 0x8000)]

theorem test_addl_carry : (next { regs := lr 0 0xFFFFFFFF ++ lr 2 1 ++ a7 } (.add w0 (.longReg 0 0 2))).map (fun c => (rL c 0, st c)) = some (0, 0x0040) := by
  decide +kernel
theorem test_neg_least : (next { regs := [(3, 0x8000)] ++ a7 } (.neg w0 (.word 2 3))).map (fun c => rW c 2) = some 0x7FFF := by decide +kernel
theorem test_shll : (next { regs := lr 1 10 ++ lr 3 0x00123456 ++ a7 } (.shl w0 (.longReg 3 3 1))).map (fun c => rL c 3) = some 0x48D15800 := by
  decide +kernel
theorem test_cmplt_signed : (next { regs := [(1, 0x8000)] ++ a7 } (.cmplt w0 (.wordImm 3 1 0x1FF))).map (fun c => guard c 3) = some true := by
  decide +kernel
theorem test_mul_minus_one : flying { regs := lr 1 0x80000000 ++ a7 } (.mul w0 0 1 1) = some (.prod 0 0x7FFFFFFFFFFFFFFF) := by decide +kernel
theorem test_mul_half : flying { regs := lr 1 0x40000000 ++ a7 } (.mul w0 1 1 1) = some (.prod 1 0x2000000000000000) := by decide +kernel
theorem test_macs : flying { regs := lr 1 0x40000000 ++ lr 3 0x80000000 ++ a7 } (.macs w0 0 1 3) = some (.acc 0 0x2000000000000000) := by
  decide +kernel
/-- The 256th MAC of −1 × −1: 255.0 + 1 (R230). -/
theorem test_mac_saturates :
    flying { regs := lr 1 0x80000000 ++ a7, acs := [(0, 0x7F8000000000000000)] } (.mac w0 0 1 1) = some (.acc 0 0x7FFFFFFFFFFFFFFFFF) ∧
    flying { regs := lr 1 0x80000000 ++ a7, acs := [(0, 0x7F8000000000000000)], emode := 1 } (.mac w0 0 1 1) = some (.acc 0 0x800000000000000000) := by
  decide +kernel
/-- The 300 MSUs of the worked example start from the largest value; the first takes 1.0 off it. -/
theorem test_msu : flying { regs := lr 1 0x80000000 ++ a7, acs := [(0, 0x7FFFFFFFFFFFFFFFFF)] } (.msu w0 0 1 1) = some (.acc 0 0x7F7FFFFFFFFFFFFFFF) := by
  decide +kernel
theorem test_cmul :
    flying { regs := lr 1 0x40004000 ++ lr 4 0x4000C000 ++ a7 } (.cmul w0 false false 1 4) = some (.acc 0 0x4000000000000000) ∧
    flying { regs := lr 1 0x40004000 ++ lr 4 0x4000C000 ++ a7 } (.cmul w0 true false 1 4) = some (.acc 0 0) := by decide +kernel
theorem test_ashf : (next { acs := [(0, 0x2000000000000000)] } (.ashf w0 0 0x21)).map (fun c => acc c 0) = some 0x40000000 := by decide +kernel
theorem test_arnd_top :
    (next { acs := [(0, 0x7FFFFFFFFF80000000)] } (.arnd w0 0 1)).map (fun c => (acc c 0, st c)) = some (0x7FFFFFFFFF00000000, 0x0001) := by
  decide +kernel
theorem test_anrm_minus : (next { acs := [(2, -1)] } (.anrm w0 2 3)).map (fun c => (acc c 2, rW c 3)) = some (0xFFC000000000000000, 62) := by
  decide +kernel
theorem test_asat : (next { acs := [(0, 0x012000000000000000)] } (.asat w0 0)).map (fun c => acc c 0) = some 0x007FFFFFFF00000000 := by decide +kernel
theorem test_astl_rounds :
    (next { acs := [(0, 0x1234567980000000)] } (.astl w0 (.reg 4) 0 0)).map (fun c => rL c 4) = some 0x12345679 ∧
    (next { acs := [(0, 0x1234567980000000)] } (.astl w0 (.reg 4) 0 2)).map (fun c => rL c 4) = some 0x1234567A := by decide +kernel
theorem test_astl_limits :
    (next { acs := [(0, 0x7FFFFFFFC0000000)] } (.astl w0 (.reg 4) 0 1)).map (fun c => rL c 4) = some 0x7FFFFFFF ∧
    (next { acs := [(0, 0xFFFFFFFFFF80000000)] } (.astl w0 (.reg 4) 0 0)).map (fun c => rL c 4) = some 0xFFFFFFFF := by decide +kernel
theorem test_bfx : (next { regs := lr 1 0x89ABCDEF ++ a7 } (.bfx w0 2 1 8 12 true)).map (fun c => rL c 2) = some 0xFFFFFBCD ∧
    (next { regs := lr 1 0x89ABCDEF ++ a7 } (.bfx w0 2 1 8 12 false)).map (fun c => rL c 2) = some 0x00000BCD := by decide +kernel
theorem test_bfi : (next { regs := lr 2 0x00000BCD ++ a7 } (.bfi w0 3 2 20 12)).map (fun c => rL c 3) = some 0xBCD00000 := by decide +kernel
theorem test_clz : (next { regs := lr 3 0x00123456 ++ a7 } (.clz w0 0 3)).map (fun c => rW c 0) = some 11 ∧
    (next { regs := a7 } (.clz w0 0 3)).map (fun c => rW c 0) = some 32 := by decide +kernel
theorem test_cls : (next { regs := lr 3 0x00123456 ++ a7 } (.cls w0 2 3)).map (fun c => rW c 2) = some 10 ∧
    (next { regs := lr 3 0xFFF00000 ++ a7 } (.cls w0 2 3)).map (fun c => rW c 2) = some 11 := by decide +kernel
theorem test_bperm : (next { regs := lr 1 0x11223344 ++ a7 } (.bperm w0 2 1 0x1B)).map (fun c => rL c 2) = some 0x44332211 ∧
    (next { regs := lr 1 0x11223344 ++ a7 } (.bperm w0 2 1 0xB1)).map (fun c => rL c 2) = some 0x22114433 := by decide +kernel

/-- Dd, HC and DC as ST shows them in bits [10:8] and [7]. -/
def digits (c : Ctx) (i : Instr) : Option (Word × Nat × Bool) :=
  (next c i).map (fun c => (rW c 2, bitsAt ((st c).setWidth 32) 8 3, (st c).getLsbD 7))
theorem test_padd :
    digits { regs := [(0, 0x0959), (1, 1)] ++ a7 } (.padd w0 2 0 1 false) = some (0x0960, 1, false) ∧
    digits { regs := [(0, 0x9999), (1, 1)] ++ a7 } (.padd w0 2 0 1 false) = some (0, 7, true) := by decide +kernel
theorem test_psub :
    digits { regs := [(0, 0x0100), (1, 1)] ++ a7 } (.psub w0 2 0 1 false) = some (0x0099, 3, false) ∧
    digits { regs := [(1, 1)] ++ a7 } (.psub w0 2 0 1 false) = some (0x9999, 7, true) := by decide +kernel
theorem test_dadj : digits { regs := [(0, 0x000F)] ++ a7 } (.dadj w0 2 0 false) = some (0x0015, 1, false) := by decide +kernel
theorem test_pcmp_valid :
    (next { regs := [(9, 0x2359)] ++ a7 } (.pcmp w0 1 9 0 3)).map (fun c => guard c 1) = some true ∧
    (next { regs := [(9, 0x12A4)] ++ a7 } (.pcmp w0 1 9 0 3)).map (fun c => guard c 1) = some false := by decide +kernel
/-- The glide from 0x2000 to 0x4000 in 480 frames, chapter 08's figures for k = 1 and k = 241. -/
theorem test_glide : glided 0x2000 0x4000 1 480 = 0x2011 ∧ glided 0x2000 0x4000 241 480 = 0x3011 := by decide +kernel

/-! ## The block -/

/-- The front command runs with the queue's rest. -/
theorem test_step_front : State.reset.pending = [] ∧
    step { State.reset with pending := [.bypass true, .status] } = exec (.bypass true) { State.reset with pending := [.status] } := ⟨rfl, rfl⟩
/-- A WRITE of the worked example: SEQ 0x0105 sets MCPLL_CTRL.BANDWIDTH to 2, and the cached reply is 02 01 00 00 FF 00. -/
def wrote : Option State :=
  match exec (.write ⟨0, 0x0105⟩ 0x0220 0 1 [0, 2]) { dev with clocks := { dev.clocks with mt := ⟨5000000, 0x4000⟩ } } with
  | .next t => some t
  | _ => none
theorem test_write_worked :
    wrote.map (fun t => (t.epoch, (session t 0).high)) = some (1, some 0x0105) ∧
    wrote.bind (fun t => ((session t 0).cache.head?).map (fun c => (c.status, c.arrival))) = some (0, ⟨5000000, 0x4000⟩) ∧
    wrote.map (fun t => elemValue t 0 0x0220 0) = some [0, 2] := by decide +kernel
theorem test_write_out_of_range :
    (match exec (.write ⟨0, 0x0106⟩ 0x0220 0 1 [0, 5]) dev with
     | .next t => ((session t 0).cache.head?).map (fun c => (c.status, c.failIndex))
     | _ => none) = some (eRange, 0) := by decide +kernel

/-! ## Engine words -/

theorem witness_AluResults : ∀ p ∈ aluRules,
    Runs (sap {}) w0 (p.word w0 (.wordReg 15 0 15)) ∧ Runs (sap { imm := some 0xFF }) w0 (p.word w0 (.wordImm 0 15 0xFF)) ∧
    Runs (sap {}) w0 (p.word w0 (.longReg 7 0 7)) ∧ Runs (sap { imm := some 0x1FFFFF }) w0 (p.word w0 (.longImm 0 7 0x3FF)) := by
  unfold Runs Issues GuardTrue; decide +kernel

theorem witness_ShiftResults :
    (∀ p ∈ shiftRules, Runs (sap {}) w0 (p.1 w0 (.wordReg 15 0 15)) ∧ Runs (sap {}) w0 (p.1 w0 (.wordImm 0 15 15)) ∧
      Runs (sap {}) w0 (p.1 w0 (.longReg 7 0 7)) ∧ Runs (sap {}) w0 (p.1 w0 (.longImm 0 7 31))) ∧
    ∀ p ∈ unaryRules, Runs (sap {}) w0 (p.1 w0 (.word 15 0)) ∧ Runs (sap {}) w0 (p.1 w0 (.long 0 7)) := by
  unfold Runs Issues GuardTrue; decide +kernel

theorem witness_CompareResults :
    (∀ p ∈ compareRules, Runs (sap {}) w0 (p.1 w0 (.wordReg 7 0 15)) ∧ Runs (sap { imm := some 0x7F }) w0 (p.1 w0 (.wordImm 0 15 0x1FF)) ∧
      Runs (sap {}) w0 (p.1 w0 (.longReg 7 0 7)) ∧ Runs (sap { imm := some 0x1FFFFF }) w0 (p.1 w0 (.longImm 0 7 0x3FF))) ∧
    (∀ i ∈ [Instr.gset w0 7, .gclr w0 0, .gand w0 7 0 1, .gor w0 7 0 1, .gxor w0 7 0 1, .gnot w0 7 0], Runs (sap {}) w0 i) := by
  unfold Runs Issues GuardTrue; decide +kernel

theorem witness_MoveResults :
    ∀ i ∈ [Instr.mov w0 0x2C 0x2D, .mov w0 0x2D 0, .movl w0 7 11, .ldi w0 0x2D 0xFFFF, .ldil w0 7 0x3FFFF, .movp w0 0 1 false,
      .movp w0 7 0 true], Runs (sap {}) w0 i := by
  unfold Runs Issues GuardTrue; decide +kernel

/-- The last word of the local RAM and of the crossing block; A7 = 0x8000 steps down before the access. -/
theorem witness_LoadStoreResults :
    (let s := sap { regs := [(0x10, 0xB3FF), (0x11, 0xB3FE), (0x17, 0x8000)] }
     let m : MemOp := ⟨7, .preDec⟩
     (∀ i ∈ [Instr.ld w0 0x2C m, .ldl w0 7 m, .st w0 0x2D ⟨0, .ind⟩, .stl w0 11 ⟨1, .ind⟩], Runs s w0 i) ∧
     (effAddr (seenCtx s 0) m 1).1 = 0x7FFF ∧ (effAddr (seenCtx s 0) m 2).1 = 0x7FFE) := by
  unfold Runs Issues GuardTrue; decide +kernel
theorem witness_LoadStoreResults_memory :
    (let s := sap { regs := [(0x10, 0xB3FF), (0x11, 0xB3FE), (0x17, 0x8000)] }
     (Readable (sees s 0) 0 0x7FFE ∧ Readable (sees s 0) 0 0x7FFF ∧ writeOk (eng (sees s 0) 0) (effAddr (seenCtx s 0) ⟨0, .ind⟩ 1).1 0x07FF = true) ∧
     (effAddr (seenCtx s 0) ⟨1, .ind⟩ 2).1.toNat % 2 = 0 ∧
     ∀ p ∈ longStores (effAddr (seenCtx s 0) ⟨1, .ind⟩ 2).1 (rL (seenCtx s 0) 11), writeOk (eng (sees s 0) 0) p.1 p.2 = true) :=
  ⟨by unfold Readable; decide +kernel, by decide +kernel, List.all_eq_true.mp (by decide +kernel)⟩

theorem witness_MultiplyResults :
    ∀ i ∈ [Instr.mul w0 1 11 0, .mac w0 3 11 0, .msu w0 0 0 11, .macs w0 3 8 9, .cmul w0 true true 7 0, .cmac w0 false true 0 7,
      .cmsu w0 true false 7 7], Runs (sap { acs := [(3, 0x7FFFFFFFFFFFFFFFFF)] }) w0 i := by
  unfold Runs Issues GuardTrue; decide +kernel

/-- ANRM of 0, of −1, and of values whose amount is 62, 0 and −8. -/
theorem witness_AccumulatorResults :
    (∀ i ∈ [Instr.aclr w0 3, .ashf w0 0 0x20, .ashf w0 3 0x1F, .arnd w0 0 3, .anrm w0 3 15, .acmp w0 7 0 3 0, .acmp w0 7 0 3 1,
      .acmp w0 0 3 3 2, .asat w0 3, .astl w0 (.reg 7) 0 3], Runs (sap {}) w0 i) ∧
    (acc (seenCtx (sap {}) 0) 3).toInt = 0 ∧
    (∀ p ∈ [((1 : Acc), (62 : Int)), (-2, 62), (2 ^ 62, 0), (2 ^ 70, -8), (2 ^ 71, -8)],
      let v := p.1.toInt
      let r := v * 2 ^ (p.2 + 8).toNat / 2 ^ 8;
      -8 ≤ p.2 ∧ p.2 ≤ 62 ∧ ((2 ^ 62 ≤ r ∧ r < 2 ^ 63) ∨ (-(2 ^ 63) ≤ r ∧ r < -(2 ^ 62)))) ∧
    (acc (seenCtx (sap { acs := [(3, -1)] }) 0) 3).toInt = -1 ∧ Runs (sap { acs := [(3, -1)] }) w0 (.anrm w0 3 0) := by
  unfold Runs Issues GuardTrue; decide +kernel
theorem witness_AccumulatorResults_astl :
    (let s := sap { acs := [(3, 2 ^ 70)] }
     let m : MemOp := ⟨7, .preDec⟩
     let a := (effAddr (seenCtx s 0) m 2).1
     Runs s w0 (.astl w0 (.mem m) 3 2) ∧ a.toNat % 2 = 0 ∧
     ∀ p ∈ longStores a (limit32 (rounded (acc (seenCtx s 0) 3) 2)).1, writeOk (eng (sees s 0) 0) p.1 p.2 = true) :=
  ⟨by unfold Runs Issues GuardTrue; decide +kernel, by decide +kernel, List.all_eq_true.mp (by decide +kernel)⟩

theorem witness_BitResults :
    ∀ i ∈ [Instr.bfx w0 7 0 0 32 false, .bfx w0 7 0 31 1 true, .bfi w0 0 7 0 32, .bfi w0 0 7 31 1, .clz w0 15 7, .cls w0 15 7,
      .bperm w0 7 7 0xE4], Runs (sap {}) w0 i := by
  unfold Runs Issues GuardTrue; decide +kernel

theorem witness_DigitResults :
    ∀ i ∈ [Instr.padd w0 15 0 15 true, .psub w0 0 15 0 true, .dadj w0 15 0 true, .pcmp w0 7 15 15 0, .pcmp w0 7 15 15 2, .pcmp w0 7 15 0 3],
      Runs (sap { regs := [(0x17, 0x8000), (0x2D, 0x0080)] }) w0 i := by
  unfold Runs Issues GuardTrue; decide +kernel

/-- Engine 0 in Sapling mode with bank 0 on BANK0 and descriptor 15 as given. -/
def lineSap (d : Desc) (l0 : List (Nat × Word)) : State :=
  withEng { state := .sapling, running := true, stage := .program, bank0 := 0, ctx := { regs := l0 ++ [(0x17, 0x8000)], descs := [(15, d)] } }

theorem witness_DelayResults :
    (let none' := lineSap {} []
     let two := lineSap { len := 2, base := 0x7FFFC } [(0, 0xFFFF), (1, 0xFFFF)]
     let four := lineSap { len := 4, packed3 := true, head := 3 } [(0, 0xFFFF), (1, 0xFFFF)]
     (∀ i ∈ [Instr.dwr w0 15 11, .drd w0 3 15 7, .drl w0 3 15 7, .drf w0 3 15 7], Runs none' w0 i) ∧
     (desc (eng (sees none' 0) 0) 15).len = 0 ∧
     Runs two w0 (.dwr w0 15 0) ∧ Runs two w0 (.drd w0 3 15 0) ∧ Runs two w0 (.drl w0 3 15 0) ∧ Runs four w0 (.drf w0 3 15 0) ∧
     (desc (eng (sees two 0) 0) 15).len = 2 ∧ (bankNo (eng (sees two 0) 0) 0).toNat ≠ 0xFF ∧
     (∀ a ∈ slotAddrs 0 (desc (eng (sees two 0) 0) 15) 0, rowBad (sees two 0) a = false) ∧
     TapReadable (sees two 0) 0 (desc (eng (sees two 0) 0) 15) [1] ∧
     TapReadable (sees two 0) 0 (desc (eng (sees two 0) 0) 15) [0, 1] ∧
     TapReadable (sees four 0) 0 (desc (eng (sees four 0) 0) 15) [0, 1, 2, 3] ∧ (desc (eng (sees four 0) 0) 15).len = 4) := by
  unfold Runs Issues GuardTrue TapReadable; decide +kernel

theorem witness_DelaySlotReadBack :
    Tbl.wf (0 : Word) [(3, 0x1234)] = true ∧ ({ packed3 := true } : Desc).packed3 = true ∧ ({} : Desc).packed3 = false ∧ 3 % 2 = 1 ∧
    Canon (sap {}) ∧ (⟨5, 1, none, .atomDls true 31 0x7FFFE 1 3⟩ : Flight).act = .atomDls true 31 0x7FFFE 1 3 :=
  ⟨by decide, rfl, rfl, rfl, canon_of (by decide +kernel), rfl⟩

theorem witness_AtomicResults :
    (let s := sap { regs := [(0x10, 0xB3FE), (0x11, 0xB3FF), (0x12, 0xAFFE), (0x17, 0xB400)] }
     (∀ k : Fin 8, Runs s w0 (.aadd w0 3 (.cross k) 7) ∧ Runs s w0 (.aswp w0 3 (.cross k) 7)) ∧
     (rW (seenCtx s 0) 0x10) = 0xB3FE ∧ (rW (seenCtx s 0) 0x11).toNat % 2 = 1 ∧ (rW (seenCtx s 0) 0x12).toNat < 0xB000 ∧
     0xB3FE < (rW (seenCtx s 0) 0x17).toNat ∧ eccMark (sees s 0) (locOf 4 0 0x3FE) ≠ 2 ∧ eccMark (sees s 0) (locOf 4 0 0x3FF) ≠ 2) ∧
    (let s := lineSap { len := 4, base := 0x7FFF8 } [(0, 3)]
     Runs s w0 (.aswp w0 0 (.line 15 0) 7) ∧ (desc (eng (sees s 0) 0) 15).len ≠ 0 ∧ (bankNo (eng (sees s 0) 0) 0).toNat = 0 ∧
     (rL (seenCtx s 0) 0).toNat % 4 = 3 ∧ rowBad (sees s 0) 0x7FFFE = false ∧
     Runs s w0 (.aadd w0 0 (.line 0 0) 7) ∧ (desc (eng (sees s 0) 0) 0).len = 0) := by
  unfold Runs Issues GuardTrue; decide +kernel

/-- A slot beside SNOP, two that fault, two whose destinations meet and two whose do not. -/
theorem witness_PairResults :
    (let s := sap {}
     let far := sap { regs := [(0x10, 0xFFFF), (0x17, 0x8000)] }
     Runs s w0 (.pairWord w0 (.addl 0 7 7) .snop) ∧ Runs s w0 (counterpart w0 (.addl 0 7 7)) ∧
     Runs far w0 (.pairWord w0 (.ld 0 0 .ind) .snop) ∧ (slotEff (sees far 0) 0 (.ld 0 0 .ind)).toOption = none ∧
     Runs far w0 (.pairWord w0 (.mac 0 0 1) (.ld 0 0 .ind)) ∧ (slotEff (sees far 0) 0 (.mac 0 0 1)).toOption.isSome = true ∧
     Runs s w0 (.pairWord w0 (.mov 1 0) (.movl 0 7))) ∧
    (∃ eh el, slotEff (sees (sap {}) 0) 0 (.mov 1 0) = .ok eh ∧ slotEff (sees (sap {}) 0) 0 (.movl 0 7) = .ok el ∧
      ∃ d ∈ destsOf eh, d ∈ destsOf el) ∧
    (∃ eh el, slotEff (sees (sap {}) 0) 0 (.mov 2 0) = .ok eh ∧ slotEff (sees (sap {}) 0) 0 (.movl 0 7) = .ok el ∧
      ∀ d ∈ destsOf eh, d ∉ destsOf el) := by
  refine ⟨?_, ⟨_, _, rfl, rfl, ?_⟩, ⟨_, _, rfl, rfl, ?_⟩⟩
  · unfold Runs Issues GuardTrue; decide +kernel
  · decide +kernel
  · decide +kernel

/-- Engine 0 runs a frame program whose registers are `c`. -/
def fram (c : Ctx) : State := withEng { state := .run, stage := .program, ctx := c }

/-- A fade of one frame that has just begun. -/
def fade1 : Fade := ⟨⟨0, 0⟩, 1, 1, 0, none, false, false, []⟩

theorem witness_ControlResults :
    Runs (sap {}) w0 (.nop w0) ∧
    (let s := withEng { state := .run, stage := .program, fade := some fade1 }
     Runs s w0 (.endFrame w0) ∧ (eng (sees s 0) 0).fade.isSome = true ∧ (eng (sees s 0) 0).newRun = false) ∧
    (let s := withEng { state := .run, stage := .program, fade := some fade1, newRun := true }
     Runs s w0 (.endFrame w0) ∧ (eng (sees s 0) 0).newRun = true ∧ freeRun (eng (sees s 0) 0) = false) ∧
    (Runs (fram {}) w0 (.endFrame w0) ∧ (eng (sees (fram {}) 0) 0).fade = none ∧ freeRun (eng (sees (fram {}) 0) 0) = false) ∧
    (Runs (sap {}) w0 (.endFrame w0) ∧ (eng (sees (sap {}) 0) 0).fade = none ∧ freeRun (eng (sees (sap {}) 0) 0) = true) ∧
    (Runs (sap {}) w0 (.halt w0) ∧ saplMode (eng (sees (sap {}) 0) 0) = true) ∧
    (Runs (fram {}) w0 (.halt w0) ∧ saplMode (eng (sees (fram {}) 0) 0) = false) ∧
    (∀ k : Fin 16, Runs (fram {}) w0 (.trap w0 k)) := by
  unfold Runs Issues GuardTrue; decide +kernel
theorem witness_ControlResults_repeats :
    (let bad : Ctx := { pc := 5, loops := [⟨5, 5, 0⟩] }
     let last : Ctx := { pc := 0x3FFF, regs := [(15, 0xFFFF), (0x17, 0x8000)] }
     (repeatBad (eng (sees (sap bad) 0) 0) = true ∧ Runs (sap bad) w0 (.rpt w0 1) ∧ Runs (sap bad) w0 (.rptx w0 15)) ∧
     (∀ s ∈ [fram bad, sap last, fram last], repeatBad (eng (sees s 0) 0) = false ∧ Runs s w0 (.rpt w0 1) ∧ Runs s w0 (.rpt w0 4096) ∧
       Runs s w0 (.rptx w0 15)) ∧
     rW (seenCtx (sap last) 0) 15 = 0xFFFF ∧ Runs (sap last) w0 (.rptx w0 0) ∧ rW (seenCtx (sap last) 0) 0 = 0) := by
  unfold Runs Issues GuardTrue; decide +kernel
theorem witness_ControlResults_blocks :
    (let l : LoopFrame := ⟨1, 9, 0⟩
     let full := fram { pc := 3, loops := [l, l, l, l] }
     let three := fram { pc := 3, loops := [l, l, l], imm := some 0x7F }
     Runs full w0 (.blk w0 1 1) ∧ 4 ≤ (seenCtx full 0).loops.length ∧
     Runs three w0 (.blk w0 0x1FF 4096) ∧ (seenCtx three 0).loops.length < 4 ∧
     (∀ x : Fin 2, Runs (fram {}) w0 (.immExt w0 (BitVec.ofNat 21 (x.val * 0x1FFFFF))))) := by
  unfold Runs Issues GuardTrue; decide +kernel

theorem witness_TransferResults :
    (let c : Ctx := { pc := 0x3FFF, regs := [(0x17, 0x8000), (0x2C, 0x3FFF)] }
     Runs (fram c) w0 (.call w0 0x3FFF) ∧ Runs (fram c) w0 (.ret w0) ∧
     (saplMode (eng (sees (sap c) 0) 0) = true ∧ Runs (sap c) w0 (.callm w0 0x3FE0 1) ∧ Runs (sap c) w0 (.retm w0 1)) ∧
     (∀ s ∈ [sap c, fram c], Runs s w0 (.callm w0 0x3FE0 0) ∧ Runs s w0 (.retm w0 0)) ∧
     Runs (fram c) w0 (.callm w0 0x3FE0 0xFFFF) ∧
     (∀ p ∈ saveArea 0xFFFF (rW (seenCtx (fram c) 0) 0x17 - BitVec.ofNat 16 (movedRegs 0xFFFF).length),
       canWrite (eng (sees (fram c) 0) 0) p.2 = true) ∧
     (∀ p ∈ saveArea 0x8000 0x7FFF, canWrite (eng (sees (fram c) 0) 0) p.2 = true) ∧
     (∃ p ∈ saveArea 0x8000 0x8000, canWrite (eng (sees (fram c) 0) 0) p.2 = false)) := by
  unfold Runs Issues GuardTrue; decide +kernel
theorem witness_TransferResults_restores :
    (let c : Ctx := { regs := [(0x17, 0x7FFF)] }
     let far : Ctx := { regs := [(0x17, 0xF800)] }
     Runs (fram c) w0 (.retm w0 0x8000) ∧
     (∀ p ∈ saveArea 0x8000 (rW (seenCtx (fram c) 0) 0x17), Readable (sees (fram c) 0) 0 p.2) ∧
     Runs (fram far) w0 (.retm w0 0x8000) ∧
     (∃ p ∈ saveArea 0x8000 (rW (seenCtx (fram far) 0) 0x17), peekWord (sees (fram far) 0) 0 p.2 = none) ∧
     Runs (fram { regs := [(0x17, 1)] }) w0 (.callm w0 0 0x8001) ∧
     (∃ p ∈ saveArea 0x8001 (1 - 3), canWrite (eng (sees (fram { regs := [(0x17, 1)] }) 0) 0) p.2 = false)) := by
  unfold Runs Issues GuardTrue Readable; decide +kernel
theorem witness_TransferResults_branches :
    (∀ cc : Fin 4, Runs (fram {}) w0 (.br w0 0x3FFF) ∧ Runs (fram {}) w0 (.brc w0 cc 15 0) ∧
      Runs (sap {}) w0 (.br w0 0x3FFF) ∧ Runs (sap {}) w0 (.brc w0 cc 15 0)) ∧
    (∀ x ∈ [Xfer.call 0x3FFF 2 0 0, .ret 0x3FFF 0 0 true, .branch 0x3FFF, .fallThrough 0],
      let s := sap { pc := 0x3FFE, xfer := some x }
      Runs s w0 (.nop w0) ∧ (seenCtx s 0).xfer = some x ∧ (seenCtx s 0).rpt = none ∧ (seenCtx s 0).loops = [] ∧
      (seenCtx s 0).defer = [] ∧ (eng (sees s 0) 0).stepReq = false ∧ ((seenCtx s 0).pc + 1) % 0x4000 = 0x3FFF) := by
  unfold Runs Issues GuardTrue; decide +kernel

/-- A word stops before its effect: no issue in cycle U, a bad program word, a count of 0, a guard that is 0. -/
theorem witness_WordStops :
    canIssue State.reset 0 = false ∧ canIssue (fram { cycle := usable 3 }) 0 = false ∧ canIssue (fram { cycle := usable 3 - 1 }) 0 = true ∧
    (let s := { sap {} with mem := { ecc := [(locOf 1 0 0, 2)] } }
     canIssue s 0 = true ∧ eccMark (sees s 0) (progLoc (eng (landed s 0) 0) 0) = 2) ∧
    (Issues (sap {}) w0 ∧ GuardTrue (sap {}) w0 ∧ wordDefined (.rpt w0 0) (prefixOf (sap {}) 0) = false) ∧
    (∀ w ∈ [(⟨0, false, 7⟩ : Issue), ⟨0, true, 0⟩], Issues (sap {}) w ∧ ¬ GuardTrue (sap {}) w) := by
  unfold Issues GuardTrue; decide +kernel

theorem witness_LandingResults_complete :
    (let f : Nat → Flight := fun k => ⟨k, 0, none, .word 0 1⟩
     let s := sap { inflight := [f 3, f 3] }
     (eng s 0).stage ≠ .none ∧ (∀ g ∈ (eng s 0).ctx.inflight, 2 < g.due) ∧ (eng s 0).ctx.inflight ≠ [] ∧
     ∀ g ∈ (eng s 0).ctx.inflight, g.due = 3 ∧ g.act.isAtomic = false) := by decide +kernel

theorem witness_LandingResults :
    Canon (sap { guards := 0xFF, regs := [(0x17, 0x8000), (0x2D, 0x07FF)] }) ∧
    (∀ a ∈ [Act.word 0x2C 0xFFFF, .word 0x2D 0xFFFF, .word 0 0, .acc 3 0, .prod 1 0, .tap 3 0, .guard 0 false, .guard 7 false,
      .stWrite 0xFFFF, .flagC true, .flagD true 7, .setSat, .setPcf, .setAov 3], (⟨1, 1, none, a⟩ : Flight).act = a) :=
  ⟨canon_of (by decide +kernel), fun _ _ => rfl⟩

theorem witness_StoredWords :
    Canon (sap {}) ∧ (∀ a ∈ [0x7FFF, 0xA800, 0xAFFF, 0xB000, 0xB3FF, 0xF000], writeOk (eng (sap {}) 0) (BitVec.ofNat 16 a) 0xFFFF = true) ∧
    writeOk (eng (sap {}) 0) 0xF004 0xFFFD = true ∧ ∀ kv ∈ (sap {}).routes, (routeLive kv.2) = false :=
  ⟨canon_of (by decide +kernel), by decide +kernel, by decide +kernel, by decide +kernel⟩

theorem witness_FrameFault :
    (eng (fram {}) 0).ctx.xfer = none ∧ (eng (fram {}) 0).fade = none ∧ freeRun (eng (fram {}) 0) = false := by decide +kernel

theorem witness_EngineWordFrame :
    Canon (fram {}) ∧ engWord (.ldi w0 0x2B 5) = some w0 ∧ ∃ t, exec (.ldi w0 0x2B 5) (fram {}) = .next t :=
  ⟨canon_of (by decide +kernel), rfl, _, rfl⟩

/-! ## Engine commands, routes and memories -/

/-- `dev` with engine 31 in the state given. -/
def devEng (e : Engine) : State := { dev with engines := [(31, e)] }

theorem witness_EngineCommands :
    (∀ o ∈ [0x0400 + 32 * 31, 0x0401 + 32 * 31, 0x0406 + 32 * 31], Served dev r0 o engineer) ∧
    (∀ e ∈ [({} : Engine), { state := .quarantined }], Served (devEng e) r0 0x07E0 engineer ∧
      (e.state = .idle ∨ e.state = .quarantined) ∧ usesExchange (devEng e) 31 = false ∧ (devEng e).fuses.life ≠ .ended) ∧
    ¬ ((eng (devEng { state := .run }) 31).state = .idle ∨ (eng (devEng { state := .run }) 31).state = .quarantined) ∧
    (∀ st ∈ [EngState.sapling, .halted], let g := eng (devEng { state := st, active := { sapling := true, codeWords := 1 } }) 31
      g.state = st ∧ g.active.sapling = true ∧ g.active.codeWords ≠ 0) ∧
    ((0 : Byte) = 0 ∧ (1 : Byte) = 1 ∧ 1 < (2 : Byte).toNat ∧ 1 < (255 : Byte).toNat) ∧
    (let g := eng (devEng { standbyState := 3 }) 31; g.standbyState = 3) ∧
    (let g := eng (devEng { standbyState := 1, loading := some {} }) 31; g.standbyState ≠ 3 ∧ g.fade = none ∧ g.loading ≠ none) ∧
    (let g := eng (devEng { standbyState := 2 }) 31; g.standbyState ≠ 3 ∧ g.fade = none ∧ g.loading = none) := by
  unfold Served Heard; decide +kernel

/-- The shortest frame image: END alone, cost 1, no signature octet that matters. -/
def endImage : List Byte :=
  [0x46, 0x51, 0x50, 0x49, 0, 1, 0, 0, 0, 0, 0, 132, 0, 0, 0, 9, 3, 0xFF, 0, 1, 0, 0, 0, 0, 0, 0, 0, 1] ++ List.replicate 36 0 ++
  [0x00, 0x02, 0x00, 0x00] ++ List.replicate 64 0

/-- The bank it fills. -/
def endBank : ProgBank :=
  { id := 9, rateClass := 3, family := 0xFF, words := [(0, 0x00020000)], codeWords := 1, cost := 1, raw := endImage }

set_option synthInstance.maxSize 1000 in
/-- The image passes every check but the signature, whose verification is left open; with it, it loads. -/
theorem witness_ImageLoading_accepts :
    sections endImage = some ([0x00020000], [], [], [], []) ∧
    (checkImage (taken dev r0) 31 endImage [0x00020000] [] [] [] []).toOption = some endBank :=
  ⟨by decide +kernel, by decide +kernel⟩
theorem witness_ImageLoading_loads (h : signedOk (taken dev r0) endImage = true) : loadImage (taken dev r0) 31 endImage = .ok endBank := by
  unfold loadImage
  rw [witness_ImageLoading_accepts.1]
  simp only [h, Bool.not_true, Bool.false_eq_true, if_false]
  have e := witness_ImageLoading_accepts.2
  cases hc : checkImage (taken dev r0) 31 endImage [0x00020000] [] [] [] [] with
  | error c => rw [hc] at e; cases e
  | ok b => rw [hc] at e; cases e; rfl
theorem witness_ImageLoading :
    (Canon dev ∧ Canon (devEng { loading := some endBank, state := .halted })) ∧ Served dev r0 (0x0401 + 32 * 31) engineer ∧
    loadImage (taken dev r0) 31 [] = .error eLength ∧ (eng (devEng { loading := some endBank }) 31).loading = some endBank ∧
    (eng (devEng { loading := some endBank }) 31).loading ≠ none ∧ endBank.sapling = false ∧ ({ endBank with sapling := true }).sapling = true ∧
    (eng dev 31).loading = none ∧ (eng dev 31).standbyState ≠ 3 ∧ (eng dev 31).fade = none ∧ (eng (devEng { standbyState := 3 }) 31).loading = none ∧
    (eng (devEng { state := .sapling }) 31).state = .sapling ∧ (eng (devEng { state := .run }) 31).state ≠ .halted :=
  ⟨⟨canon_of (by decide +kernel), canon_of (by decide +kernel)⟩, by unfold Served Heard; decide +kernel⟩

/-- Engine 0's first long feeds engine 1's last. -/
def epA : Endpoint := ⟨1, 0, 0⟩
def epB : Endpoint := ⟨1, 1, 1023⟩

/-- `dev` with route entry 8,191 as given. -/
def devRoute (x : Route) : State := { dev with routes := [(8191, x)] }

theorem witness_RouteRequests :
    (∀ k ∈ [8192], Heard dev r0 ∧ 8192 ≤ k) ∧ Served dev r0 (0x6000 + 8191) engineer ∧
    (∀ c ∈ [0, 9], ∀ src ∈ [epA], ∀ dst ∈ [epB],
      let a := epLong src
      let b := epLong dst
      epRange dev a 1 false = true ∧ epRange dev b 1 true = true ∧ isPeriod far = true ∧ epBoundary dev a far = true ∧
      epBoundary dev b far = true ∧ inTime (now dev) far = true ∧ (route dev 8191).state = .free ∧ epSapling dev a = false ∧
      epSapling dev b = false ∧ dormant dev = false ∧ c ≤ 9) ∧
    routeAdmit (taken dev r0) 8191 (epLong epA) (epLong epB) 3 1 far (.routeAdd 8191) = none := by
  unfold Served Heard; decide +kernel
theorem witness_RouteRequests_changes :
    (let x : Route := { state := .active, source := epLong epA, dest := epLong epB, channels := 1 }
     let s := devRoute x
     (isPeriod far = true ∧ epBoundary s x.source far = true ∧ epBoundary s x.dest far = true) ∧ inTime (now s) far = true ∧
     inTime (now s) near = false ∧ (isPeriod near = true ∧ epBoundary s x.source near = true ∧ epBoundary s x.dest near = true) ∧
     (route s 8191).state = .active ∧ epSapling s x.source = false ∧ epSapling s x.dest = false ∧ dormant s = false ∧
     schedTaken s far (.routeRemove 8191) = false ∧ schedRoom s 1 = true ∧ Served s r0 0x7FFF engineer ∧
     (let armed := devRoute { x with state := .armed, target := some far }
      (route armed 8191).target = some far ∧ (route armed 8191).state = .armed) ∧
     (let rem := devRoute { x with state := .removing, target := some far }
      (route rem 8191).state = .removing ∧ destFed rem x.dest 1 far (some 8191) none = false ∧
      admits (taken rem r0) far (some 8191) (routeLoads x.source x.dest x.cls x.channels) = true)) := by
  unfold Served Heard; decide +kernel

/-- Bank 31 goes to engine 31, comes back, and its pending release is taken back. -/
theorem witness_LeaseRequests :
    Served dev r0 0x1040 engineer ∧ leaseRange (taken dev r0) false 31 1 31 1 far MT.zero = true ∧ inTime (now dev) far = true ∧
    ((1 : Byte) = 0 ↔ (bank (leasesBefore (taken dev r0) far) 31).kind ≠ 0) ∧ schedTaken dev far (.lease 31 1 31 true none) = false ∧
    fifthBank (taken dev r0) far 31 (.lease 31 1 31 true none) = false ∧ schedRoom dev 1 = true ∧ dormant dev = false ∧
    (bank (leasesBefore (taken dev r0) far) 31).kind ≠ 1 ∧
    leaseRange (taken dev r0) true 31 0 0 2 far MT.zero = true ∧ schedTaken dev far (.lease 31 0 0 false none) = false := by
  unfold Served Heard; decide +kernel
theorem witness_LeaseRequests_release :
    (let s : State := { dev with engines := [(31, { bank0 := 31 })], mem := { banks := [(31, { kind := 1, id := 31 })] } }
     let v := leasesBefore (taken s r0) far
     leaseRange (taken s r0) false 31 0 0 0 far MT.zero = true ∧ ((0 : Byte) = 0 ↔ (bank v 31).kind ≠ 0) ∧
     schedTaken s far (.lease 31 0 0 false none) = false ∧ (bank v 31).kind = 1 ∧ bankIndex (eng v 31) 31 = some 0 ∧
     bankNeeded (eng s 31) 0 = false ∧ Served s r0 0x1040 engineer) ∧
    (let s : State := { dev with clocks := { dev.clocks with sched := [⟨far, .lease 31 0 0 false none, false⟩] } }
     schedTaken s far (.lease 31 0 0 false none) = true ∧ Served s r0 0x1040 engineer ∧
     leaseRange (taken s r0) true 31 0 0 2 far MT.zero = true ∧ inTime (now s) far = true) ∧
    leaseRange (taken dev r0) false 31 3 15 0 far ⟨2049, 0⟩ = true := by
  unfold Served Heard; decide +kernel

/-- `dev` with requests on bank 31's shared slot, and crossing block 31 as given. -/
def devShared (q : List SharedReq) (kind : Nat) (c : Cross) : State := 
  { dev with mem := { banks := tset {} [] 31 { kind := kind, queue := q }, cross := tset {} [] 31 c } }

theorem witness_SharedAccesses :
    Canon (devShared [⟨4, 0x7FFFC, 4, none⟩, ⟨0, 0, 1, none⟩] 0 {}) ∧ (bank dev 31).queue = [] ∧
    (let a : SlotRequest := ⟨3, 4, 0x7FFFF, 3, none⟩
     (∀ c ∈ [(⟨3, 0, 0, 0, some [7]⟩ : SlotRequest), ⟨2, 4, 0, 0, none⟩], c.cycle.val < a.cycle.val ∨ (c.cycle = a.cycle ∧ c.who.val < a.who.val)) ∧
     ¬ (a.cycle.val < a.cycle.val ∨ (a.cycle = a.cycle ∧ a.who.val < a.who.val))) ∧
    (let q : SharedReq := ⟨4, 0x7FFFC, 4, none⟩
     let s := devShared [q, ⟨0, 0, 1, none⟩] 0 {}
     (bank s 31).queue = q :: [⟨0, 0, 1, none⟩] ∧ q.who ≠ 5 ∧ q.write = none ∧ (⟨31, []⟩ : SharedSlot).arrivals = [] ∧
     (bank (devShared [q] 0 {}) 31).queue = [q]) ∧
    (∀ k ∈ [0, 1], let q : SharedReq := ⟨6, 0, 1, some [5]⟩
      (bank (devShared [q] k {}) 31).queue = [q] ∧ (bank (devShared [q] k {}) 31).kind = k ∧ q.write = some [5]) :=
  ⟨canon_of (by decide +kernel), by decide +kernel⟩

theorem witness_CrossingPorts :
    Canon (devShared [] 0 { waitCc := [⟨1023, none, none⟩], waitLink := [⟨0, some 5, none⟩] }) ∧
    ((cross dev 31).waitCc = [] ∧ (cross dev 31).waitLink = []) ∧
    (∀ a ∈ [(⟨1023, 0, none, false⟩ : PortA), ⟨1023, 0, some 5, false⟩, ⟨1023, 0, some 5, true⟩], portAOf (cross (devShared [] 0 { portA := [a] }) 31) 1023 = some a) ∧
    portAOf (cross dev 31) 1023 = none ∧
    (let x := cross (devShared [] 0 { waitCc := [⟨1023, none, none⟩], waitLink := [⟨0, some 5, none⟩] }) 31
     x.waitCc = [⟨1023, none, none⟩] ∧ x.waitLink = [⟨0, some 5, none⟩]) ∧
    Served dev r0 0x1004 engineer ∧ Served dev r0 0x1005 engineer ∧
    (let addr : Word := 0x7FFE
     let s := settlePortB dev 31
     addr.toNat < 0x8000 ∧ addr.toNat % 1024 % 2 = 0 ∧ eccMark s (locOf 4 31 1022) = 0 ∧ eccMark s (locOf 4 31 1023) = 0) :=
  ⟨canon_of (by decide +kernel), by unfold Served Heard; decide +kernel⟩

/-- `dev` with patrol as given. -/
def devPatrol (p : Patrol) (f : Repair) : State := { dev with mem := { patrol := p }, flash := { repair := f } }

theorem witness_PatrolSequence :
    (∀ k ∈ [0, regions - 1], let s := devPatrol { region := k } {}
      nextRegion s k = some k ∧ s.mem.patrol.state = .idle ∧ s.cfg.patrolOn = true ∧ dormant s = false ∧ s.power.ccDown = none ∧
      s.power.dev ≠ .booting ∧ regionFilling s k = false) ∧
    (nextRegion (devPatrol {} { skipped := [0] }) 0 = some 1 ∧ nextRegion (devPatrol {} {}) regions = none) ∧
    (∀ st ∈ [PatrolState.copy, .test, .restore], (devPatrol { state := st } {}).mem.patrol.state = st ∧ (devPatrol { state := st } {}).mem.patrol.left = 0) ∧
    (marchPasses 0 [] = true ∧ marchPasses 0 [⟨255, 0, 1⟩] = false ∧ marchPasses 0 [⟨256, 0, 1⟩] = true ∧
      marchPasses (regions - 1) [⟨511, 0x800000000000000000, 0⟩] = false) ∧
    sparesUsed (devPatrol { state := .test } { remaps := [(0, 7)] }) (repairBank 0) < 8 ∧
    8 ≤ sparesUsed (devPatrol { state := .test } { remaps := [(0, 8)] }) (repairBank 0) ∧
    (let p := (devPatrol { state := .restore, region := 5 } {}).mem.patrol
     p.state = .restore ∧ p.abortReq = false ∧ p.restartReq = false ∧ nextRegion (devPatrol { state := .restore, region := 5 } {}) 6 = some 6) ∧
    nextRegion (devPatrol { state := .restore, region := regions - 1 } {}) (regions - 1 + 1) = none ∧
    (devPatrol { state := .restore, abortReq := true } {}).mem.patrol.abortReq = true ∧
    Served dev r0 0x1001 engineer ∧ patrolBusy dev.mem.patrol = false ∧ patrolBusy (devPatrol { state := .copy } {}).mem.patrol = true ∧
    (devPatrol { state := .copy, cutoff := some far } {}).mem.patrol.cutoff ≠ none ∧
    (Served (devPatrol { state := .paused } {}) r0 0x1001 engineer ∧ dev.mem.patrol.cutoff = none) := by
  unfold Served Heard; decide +kernel

/-! ## Pages, groups, grafts, sequencing -/

/-- `dev` with page 127 of engine 31 as given. -/
def devPage (q : Page) : State := devEng { pages := [(127, q)] }

/-- A glide of one 1× frame that began at 1,000 and ends at 1,001. -/
def glide (n : Nat) (a : Option (MT × Bool)) : Page := { state := .gliding, glideStart := ⟨1000, 0⟩, glideN := n, abort := a }

theorem witness_PageCommands :
    Served dev r0 (0x2000 + 128 * 31 + 127) operator ∧ ((63 : Nat) + [(1 : Word)].length ≤ 64 ∧ [(1 : Word)] ≠ []) ∧
    (∀ st ∈ [PageState.clean, .dirty, .armed, .bound, .gliding, .levelling],
      Served (devPage { state := st }) r0 (0x2000 + 128 * 31 + 127) operator ∧ (page (eng (devPage { state := st }) 31) 127).state = st) ∧
    (let s : State := { devPage { state := .armed, group := 255 } with groups := [(255, { state := .armed, target := some far })] }
     inTime (now s) (groupTarget s (page (eng s 31) 127).group.toNat) = true) ∧
    (let s := devPage (glide 6 none)
     let q := page (eng s 31) 127
     q.abort = none ∧ q.bindAfter = false ∧
     inFuture (boundaryFrom (max 3 (engClass s 31)) (mtPlus (now s) (4 * 65536))) (mtPlus q.glideStart (q.glideN * frameUnits (engClass s 31))) = true) ∧
    (let s := devPage (glide 4 none)
     let q := page (eng s 31) 127
     inFuture (boundaryFrom (max 3 (engClass s 31)) (mtPlus (now s) (4 * 65536))) (mtPlus q.glideStart (q.glideN * frameUnits (engClass s 31))) = false) ∧
    (let s := devPage (glide 0 none)
     let q := page (eng s 31) 127
     isDue (now s) (mtPlus q.glideStart (q.glideN * frameUnits (engClass s 31))) = true) ∧
    (∀ rev : Bool, (page (eng (devPage (glide 9 (some (⟨1000, 0⟩, rev)))) 31) 127).abort = some (⟨1000, 0⟩, rev)) ∧
    isDue (now dev) ⟨1000, 0⟩ = true := by
  unfold Served Heard; decide +kernel

/-- `dev` with commit group 255 as given. -/
def devGroup (x : Group) : State := { dev with groups := [(255, x)] }

theorem witness_GroupCommands :
    Served dev r0 (0x1300 + 255) operator ∧ Served dev r0 (0x1300 + 255) engineer ∧ (4095 : Word).toNat < 4096 ∧
    ((group dev 255).state = .empty ∧ (group (devGroup { state := .opened }) 255).state = .opened) ∧
    (let q := page (eng dev 31) 127; q.group.toNat = 0 ∧ q.state ≠ .bound ∧ q.state ≠ .gliding) ∧
    (let q := page (eng (devPage { group := 254, state := .bound }) 31) 127; q.group.toNat ≠ 0 ∧ q.group.toNat ≠ 255 ∧ q.state = .bound) ∧
    (group (devGroup { state := .opened, pages := [4095] }) 255).pages.contains 4095 = true ∧ (group dev 255).pages.contains 4095 = false ∧
    (∀ st ∈ [GroupState.preparing, .armed, .locked], (group (devGroup { state := st }) 255).state = st) ∧
    (let l := List.replicate 255 7
     (group (devGroup { state := .opened, members := l }) 255).members.length < 256 ∧
     (group (devGroup { state := .opened, members := l }) 255).members.contains 4095 = false) ∧
    (group (devGroup { state := .opened, members := [4095] }) 255).members.contains 4095 = true ∧
    ((group (devGroup { state := .opened, members := List.replicate 256 7 }) 255).members.length = 256 ∧
     (group (devGroup { state := .opened, members := List.replicate 256 7 }) 255).members.contains 4095 = false) ∧
    (let s := devGroup { state := .opened, pages := [4095] }
     (group s 255).grove = false ∧ armFails (taken s r0) 255 far = none ∧ armFails (taken s r0) 255 near = some eLate) ∧
    (let s := devGroup { state := .armed, target := some far }
     (group s 255).coordinating = false ∧ inTime (now s) ((group s 255).target.getD MT.zero) = true) ∧
    inTime (now (devGroup { state := .armed, target := some near })) near = false ∧ (group dev 255).grafts = [] := by
  unfold Served Heard; decide +kernel

theorem witness_ArmedGroup : (∀ st ∈ [GroupState.preparing, .armed], st = .preparing ∨ st = .armed) ∧
    (let s := devGroup { state := .opened, pages := [4095, 0] }
     (∀ k ∈ (group s 255).pages, k < 4096) ∧ (group s 255).pages ≠ []) ∧
    (let s : State := { dev with clocks := { dev.clocks with sched := [⟨far, .routeAdd 0, false⟩] } }
     ∀ y ∈ s.clocks.sched, y.act = .routeAdd 0) := by decide +kernel

/-- A GROVE group whose one member is the device itself, or device 9. -/
def groveGroup (member : Nat) (st : GroupState) : State :=
  devGroup { state := st, grove := true, members := [member], pages := [4095], coordinating := decide (st = .preparing), target := some far }

theorem witness_GroveCommit :
    coreUp (groveGroup 0 .opened) = true ∧ Served (groveGroup 0 .opened) r0 (0x1300 + 255) engineer ∧
    (group (groveGroup 0 .opened) 255).grove = true ∧ armFails (taken (groveGroup 0 .opened) r0) 255 far = none ∧
    inFuture (ackBy (taken (groveGroup 0 .opened) r0) (group (groveGroup 0 .opened) 255) far) (now (groveGroup 0 .opened)) = false ∧
    armFails (taken (groveGroup 0 .opened) r0) 255 ⟨1005, 0⟩ = none ∧
    inFuture (ackBy (taken (groveGroup 0 .opened) r0) (group (groveGroup 0 .opened) 255) ⟨1005, 0⟩) (now (groveGroup 0 .opened)) = true ∧
    (let s := groveGroup 9 .opened
     let x := group s 255
     x.grove = true ∧ x.members.contains 9 = true ∧ 9 ≠ s.cfg.deviceNumber ∧ x.prepares.contains (9, far) = false ∧ x.state = .opened ∧ s.epoch = 0 ∧
     s.epoch ≠ 1 ∧ armFailsAt (cellArrival s 3 9 255 far) (decoded s 3 9 255 far) 255 far = none ∧
     armFailsAt (cellArrival s 3 9 255 near) (decoded s 3 9 255 near) 255 near = some eLate ∧ eLate ≠ eOK) ∧
    (group (groveGroup 9 .armed) 255).state ≠ .opened ∧
    (∀ c ∈ [none, some (9, far, now dev)], (group (devGroup { state := .opened, cancelled := c }) 255).cancelled = c) ∧
    (group (devGroup { prepares := [(9, far)] }) 255).prepares.contains (9, far) = true ∧
    armFails (taken (groveGroup 0 .armed) r0) 255 far = some eState ∧
    (let s := groveGroup 9 .preparing
     let x := group s 255
     x.coordinating = true ∧ x.state = .preparing ∧ x.target = some far ∧ x.members.contains 9 = true ∧
     (∀ d ∈ x.members, [9].contains d = true) ∧ isDue (now s) x.deadline = true ∧ x.members.find? (fun d => !x.acked.contains d) = some 9) ∧
    (let s := devGroup { state := .preparing, grove := true, members := [9, 8], coordinating := true, target := some far }
     ∃ d ∈ (group s 255).members, [9].contains d = false) := by
  unfold Served Heard; decide +kernel
theorem witness_GroveCommit_canon : Canon (groveGroup 9 .preparing) := canon_of (by decide +kernel)

/-- `dev` with engine 31 in RUN and a standby image READY. -/
def graftEng (g : Option GraftArm) (f : Option Fade) : Engine :=
  { state := .run, standbyState := 2, standby := endBank, active := endBank, graft := g, fade := f }

theorem witness_GraftCommands :
    Served dev r0 0x1300 engineer ∧
    (let s := devEng (graftEng none none)
     (∀ f ∈ [0, 1, 65535], graftState s 31 f = true ∧ graftClash s 31 f (some far) = false ∧ graftClash s 31 f none = false ∧
       (eng s 31).active.cost + (eng s 31).standby.cost ≤ usable (engClass s 31)) ∧
     engBoundary s 31 far = true ∧ inTime (now s) far = true ∧ schedTaken s far (.graft 31) = false ∧ schedRoom s 1 = true ∧
     (eng s 31).graft = none ∧ (eng s 31).fade = none ∧ Served s r0 0x1300 engineer) ∧
    (group (devGroup { state := .opened }) 255).state = .opened ∧
    (let a : GraftArm := ⟨1, 0, 0, far, false⟩
     (eng (devEng (graftEng (some a) none)) 31).graft = some a ∧ inTime (now dev) a.target = true ∧ inTime (now dev) near = false) ∧
    (let fd (n : Nat) : Fade := { fade1 with start := ⟨1000, 0⟩, frames := n }
     let s (n : Nat) := devEng (graftEng none (some (fd n)))
     let b := boundaryFrom (engClass dev 31) (mtPlus (now dev) (4 * 65536))
     (eng (s 6) 31).fade = some (fd 6) ∧ (fd 6).abort = none ∧ inFuture b (fadeEnd (s 6) 31 (fd 6)) = true ∧
     inFuture b (fadeEnd (s 4) 31 (fd 4)) = false ∧ isDue (now dev) (fadeEnd (s 0) 31 (fd 0)) = true) ∧
    (∀ rev : Bool, ({ fade1 with abort := some (⟨1000, 0⟩, rev) } : Fade).abort = some (⟨1000, 0⟩, rev)) := by
  unfold Served Heard; decide +kernel
theorem witness_GraftCommands_canon : Canon (devEng (graftEng none (some fade1))) := canon_of (by decide +kernel)

/-- The frame just ended, without and with a fault, and the next boundary. -/
theorem witness_FrameSequence :
    (∀ p ∈ [(false, 0), (true, 0), (true, 3), (true, 4)],
      let s := devEng { state := .run, stage := .ended, faulted := p.1, faultRun := p.2 }
      let g := eng s 31
      s.clocks.gateOpen = true ∧ s.clocks.restart = false ∧ (g.state = .run ∧ g.fade = none ∧ g.breakReq = false ∧ g.breakHit = false ∧ g.injFaults = []) ∧
      (∀ x ∈ s.clocks.sched, (touched s x.act).contains 31 = false) ∧ g.prepared = false ∧ g.stage = .ended ∧ g.ctx.inflight = [] ∧
      engClass s 31 ≤ 3 ∧ g.faulted = p.1 ∧ engPolicy s 31 = 0) ∧
    engPolicy { dev with cfg := { engPolicy := [(31, 1)] } } 31 = 1 ∧
    (let s := devEng { state := .run, prepared := true, boundaryAt := some ⟨999, 0⟩ }
     let g := eng s 31
     g.prepared = true ∧ g.stage = .none ∧ isBoundary (engClass s 31) (now s) = true ∧ g.boundaryAt ≠ some (now s)) := by decide +kernel

theorem witness_LocksAndInterrupts :
    (eng dev 31).ctx.inflight = [] ∧
    (∀ c ∈ [usable 3 - 1, usable 3], let s := devEng { state := .run, stage := .ended, ctx := { inflight := [⟨c, c, none, .setSat⟩] } }
      let g := eng s 31
      g.stage ≠ .program ∧ (∃ f ∈ g.ctx.inflight, f.due = c) ∧ (∀ f ∈ g.ctx.inflight, c ≤ f.due) ∧ freeRun g = false) ∧
    (let s := devEng { state := .halted, stage := .ended, ctx := { inflight := [⟨99999, 1, none, .setSat⟩] } }
     freeRun (eng s 31) = true ∧ (eng s 31).stage ≠ .program) ∧
    (let s : State := { devGroup { state := .armed } with clocks := { dev.clocks with sched := [⟨⟨1001, 0⟩, .commit 255 0, false⟩] } }
     isDue (mtPlus (now s) 65536) ⟨1001, 0⟩ = true ∧ (group s 255).state = .armed) ∧
    (let s := devEng { state := .sapling, running := true, stage := .program, hsrWait := true, ctx := { emode := 8, pc := 0x3FFF } }
     mayInterrupt s 31 = true ∧ (eng s 31).hsrWait = true ∧ (eng s 31).ctx.emode.getLsbD 3 = true) ∧
    mayInterrupt dev 31 = false ∧
    (∀ b ∈ [(true, none), (false, some 0x3FFF)],
      let s := devEng { state := .sapling, running := true, stage := .program, breakReq := b.1, breakAddr := b.2, ctx := { pc := 0x3FFF } }
      mayInterrupt s 31 = true ∧ ((eng s 31).breakReq = true ∨ (eng s 31).breakAddr = some (eng s 31).ctx.pc)) ∧
    (let g := eng (devEng { state := .run, breakHit := true }) 31
     g.state = .run ∧ g.stage = .none ∧ g.fade = none ∧ g.breakHit = true) := by decide +kernel

/-- `dev` with one entry in its schedule table, due at the boundary that ends the running period. -/
def devDue (a : SchedAct) : State := { dev with clocks := { dev.clocks with sched := [⟨⟨1001, 0⟩, a, true⟩] } }

theorem witness_BasePeriod :
    timeRuns { dev with power := { held := true } } = false ∧ timeRuns dev = true ∧ (∀ x ∈ dev.clocks.sched, isDue ⟨1001, 0⟩ x.target = false) ∧
    (∀ a ∈ [SchedAct.routeAdd 8191, .routeRemove 8191, .baseRate 1], (devDue a).clocks.sched = [⟨⟨(devDue a).clocks.mt.count + 1, 0⟩, a, true⟩] ∧
      timeRuns (devDue a) = true ∧ (devDue a).clocks.gateOpen = true ∧ alone (devDue a) = true) ∧
    isDue ⟨1001, 0⟩ ⟨1001, 0⟩ = true ∧ timeRuns State.reset = true ∧ State.reset.clocks.gateOpen = false := by decide +kernel
theorem witness_BasePeriod_canon : Canon (devDue (.routeRemove 8191)) := canon_of (by decide +kernel)

/-- A sub-rate engine 0 feeds engine 1. -/
def subRoute : State :=
  { dev with
    cfg := { engClass := [(0, 4)] }
    routes := [(0, { state := .active, source := epLong epA, dest := epLong epB, channels := 1, since := ⟨900, 0⟩ })] }

theorem witness_RouterMoves :
    State.reset.clocks.gateOpen = false ∧ (∃ t, exec (.routerWindow 7) subRoute = .next t) ∧ Canon subRoute ∧ subRoute.clocks.gateOpen = true ∧
    subRoute.power.dev = .run ∧ subRoute.ports = [] ∧ subRoute.bridges = [] ∧ subRoute.streams = [] ∧ subRoute.tails = [] ∧
    (∃ k r, subRoute.routes = [(k, r)] ∧ routeLive r = true ∧ epKind r.source = 1 ∧ epKind r.dest = 1 ∧
      4 ≤ engClass subRoute (epUnit r.source) ∧ mirrored subRoute r = false ∧
      (∀ p ∈ [(0, true), (57344, false)], let t : MT := ⟨1000, BitVec.ofNat 16 p.1⟩
        isBoundary 3 t = p.2 ∧ notBefore r.since (inputKey subRoute r 3 (nextBoundary 3 t)) = true) ∧
      notBefore far (inputKey subRoute r 3 (nextBoundary 3 ⟨1000, 0⟩)) = false) ∧ ∀ i < 8, refType subRoute i ≠ 6 :=
  ⟨rfl, ⟨_, rfl⟩, canon_of (by decide +kernel), rfl, rfl, rfl, rfl, rfl, rfl, ⟨_, _, rfl, by decide +kernel⟩, by decide⟩

theorem witness_BaseRateRequests :
    Served dev r0 0x0201 custodian ∧ (joinedGrove dev = false ∨ dev.grove.role = .root) ∧
    (let s : State := { dev with links := [(3, { joinDone := true })] }
     ¬ (joinedGrove s = false ∨ s.grove.role = .root) ∧ Served s r0 0x0201 custodian) ∧
    (let t : MT := ⟨48000, 0⟩
     t ≠ MT.zero ∧ dormant dev = false ∧ t.phase = 0 ∧ t.count.toNat % rateHz dev.clocks.rate = 0 ∧ inTime (now dev) t = true ∧
     dev.engines.any (fun kv => imageBars dev.clocks.next kv.2.active || imageBars dev.clocks.next kv.2.standby) = false ∧
     schedTaken dev t (.baseRate dev.clocks.next) = false ∧ schedRoom dev 1 = true) ∧
    (let s : State := { dev with clocks := { dev.clocks with mt := ⟨48000 - 3, 0⟩, rateTarget := some ⟨48000, 0⟩ } }
     inTime (now s) ⟨48000, 0⟩ = false ∧ s.clocks.rateTarget = some ⟨48000, 0⟩) ∧
    ((⟨48000, 1⟩ : MT).phase ≠ 0 ∧ (⟨48001, 0⟩ : MT).count.toNat % rateHz dev.clocks.rate ≠ 0) ∧ dev.clocks.rateTarget = none := by
  unfold Served Heard; decide +kernel

/-! ## Clocks -/

/-- `dev` 20 s later, with entry 7 of REF_SELECT naming a reference of type `t` and its monitor as given. -/
def devRef (t : Nat) (m : RefMon) : State :=
  { dev with
    cfg := { clocks := { entries := [(7, BitVec.ofNat 16 (t * 256))], vidLines := 5 } }
    clocks := { dev.clocks with mt := ⟨1000000, 0⟩, refs := [(7, m)], active := some 7 } }

/-- "$FQTOD,2048,-37,0f*15" CR LF. -/
def todLine : List Byte :=
  [0x24, 0x46, 0x51, 0x54, 0x4F, 0x44, 0x2C, 0x32, 0x30, 0x34, 0x38, 0x2C, 0x2D, 0x33, 0x37, 0x2C, 0x30, 0x66, 0x2A, 0x31, 0x35, 0x0D, 0x0A]

theorem witness_ReferenceCommands :
    refType (devRef 0 {}) 7 = 0 ∧ refType (devRef 6 {}) 7 = 6 ∧
    (let video := devRef 2 { state := .qualified }
     refType video 7 = 2 ∧ video.cfg.clocks.vidLines ≠ 0 ∧ refType dev 7 ≠ 2) ∧
    (∀ p ∈ [(3, 0), (2, 7), (2, 6)],
      let s := devRef 1 { state := .qualified, glitches := List.replicate p.1 ⟨999999, 0⟩, rateRun := p.2 }
      refType s 7 ≠ 0 ∧ refType s 7 ≠ 6 ∧ (refMon s 7).state = .qualified ∧ s.clocks.active = some 7 ∧
      (4 ≤ (nearGlitches s 7 (now s :: (refMon s 7).glitches)).length ↔ p.1 = 3) ∧ (nearGlitches s 7 (refMon s 7).glitches).length = p.1) ∧
    (50000000 < (50000001 : Int).natAbs ∧ ¬ 50000000 < (-50000000 : Int).natAbs) ∧
    ((-500001 : Int) < -pullBelow (devRef 1 {}) ∧ pullAbove (devRef 1 {}) < 500001 ∧ ¬ ((500000 : Int) < -pullBelow (devRef 1 {}) ∨ pullAbove (devRef 1 {}) < 500000)) ∧
    (∀ st ∈ [RefState.stopped, .qualifying, .disqRate], (refMon (devRef 1 { state := st }) 7).state ≠ .qualified) ∧
    (∀ k ∈ [0, 1], let m := refMon (devRef 1 { state := .qualifying, conforming := k }) 7
      m.state = .qualifying ∧ m.state ≠ .stopped ∧ m.conforming = k) ∧
    (∀ p ∈ [(4, 952000, true), (3, 952000, false), (4, 952001, false)],
      mayQualify (devRef 1 { state := .qualifying, conforming := p.1, since := ⟨BitVec.ofNat 64 p.2.1, 0⟩ }) 7 = p.2.2) := by decide +kernel
theorem witness_ReferenceCommands_clock :
    (∀ p ∈ [(Mcpll.acquire, 2, 952000, true), (.acquire, 1, 952000, false), (.acquire, 2, 952001, false), (.locked, 2, 952000, false)],
      let s : State := { dev with clocks := { mt := ⟨1000000, 0⟩, mcpll := p.1, acqEdges := p.2.1, active := some 7, nearSince := some ⟨BitVec.ofNat 64 p.2.2.1, 0⟩ } }
      (s.clocks.mcpll = .acquire ∧ aSecond s s.clocks.nearSince = true ∧ 2 ≤ s.clocks.acqEdges) ↔ p.2.2.2 = true) ∧
    (∀ p ∈ [(952000, true), (952001, false)],
      let s : State := { dev with clocks := { mt := ⟨1000000, 0⟩, mcpll := .locked, active := some 7, offSince := some ⟨BitVec.ofNat 64 p.1, 0⟩ } }
      s.clocks.mcpll = .locked ∧ aSecond s s.clocks.offSince = p.2) ∧
    (60000 < (60001 : Long).toInt.natAbs ∧ 60000 < (-60001 : Long).toInt.natAbs ∧ (60000 : Long).toInt.natAbs ≤ 60000) ∧
    todParse [] = none ∧ todParse todLine = some (2048, -37) ∧ dev.clocks.taiValid = false ∧
    (let s : State := { dev with clocks := { dev.clocks with taiValid := true, anchorMt := ⟨1000, 0⟩, anchorTai := 2048 } }
     taiAhead s 100 = 2048) := by decide +kernel

theorem witness_EcpllCommands :
    (∀ e ∈ [Ecpll.off, .search, .acquire, .verify, .locked], ({ dev with clocks := { dev.clocks with ecpll := e } } : State).clocks.ecpll = e) ∧
    (dev.clocks.ecpll = .locked ∨ dev.clocks.ecpll = .verify) ∧ dev.clocks.gateOpen = true ∧ dev.power.dev ≠ .booting ∧
    dev.power.dev ≠ .dormant ∧ Served dev r0 0x0230 engineer ∧ dev.power.dev ≠ .sapling ∧
    (let s : State := { dev with clocks := { mt := ⟨1000, 0⟩, ecpll := .verify } }
     s.clocks.ecpll = .verify ∧ s.clocks.gateOpen = false ∧ s.ports = [] ∧ s.bridges = []) ∧
    (let s : State := { dev with clocks := { dev.clocks with restart := true } }
     s.clocks.gateOpen = true ∧ s.clocks.restart = true) ∧
    (let s : State := { dev with power := { dev := .sapling } }
     Served s r0 0x0230 engineer ∧ s.power.dev = .sapling) := by
  unfold Served Heard; decide +kernel
theorem witness_dev_canon : Canon dev := canon_of (by decide +kernel)

/-- `dev` in an ECLK gap, with a port channel, a bridge channel and a link channel that have been starved for 64 base periods. -/
def gap : State :=
  { dev with
    clocks := { mt := ⟨1000, 0⟩ }
    ports := [(15, { chOut := [(31, { starved := 64 })] }), (23, { chOut := [(1, { starved := 63 })] })]
    bridges := [(15, { egress := { ends := [(15, { starved := 64 })] } })]
    links := [(3, { txEnds := [(0, { starved := 64 })] })] }

theorem witness_ClockLosses :
    (∀ m ∈ [0, 1, 2], ({ dev with clocks := { dev.clocks with clkoutApplied := { syncMode := m, mclkOut := [(3, 1)], wckMode := m } } } : State).clocks.clkoutApplied.syncMode = m) ∧
    dev.power.dev ≠ .booting ∧ dev.clocks.hopping = false ∧ Tbl.wf 0 dev.clocks.outPhase = true ∧
    gap.clocks.gateOpen = false ∧ Tbl.wf {} (port gap 15).chOut = true ∧ Tbl.wf {} (port gap 23).chOut = true ∧
    (∀ e ∈ [tget {} (bridge gap 15).egress.ends 15, tget {} (link gap 3).txEnds 0], e.starve = none ∧ 64 ≤ e.starved) ∧
    (let e := chan (port gap 15) true 31; e.starve = none ∧ 64 ≤ e.starved) ∧ (chan (port gap 23) true 1).starved < 64 ∧
    ((⟨4, 15, 15⟩ : Endpoint).kind = 4 ∧ (⟨5, 3, 0⟩ : Endpoint).kind = 5 ∧ (⟨2, 15, 31⟩ : Endpoint).kind = 2 ∧ (⟨3, 7, 1⟩ : Endpoint).kind = 3) ∧
    dev.clocks.xoLost = false ∧ running dev = true ∧ dev.clocks.scpllLock = true ∧ dev.clocks.lkpllLock = true ∧
    (∀ p ∈ [(95200, true), (95201, false)],
      let s : State := { dev with clocks := { mt := ⟨100000, 0⟩, scpllLock := false }, power := { dev := .run, ccDown := some 3, ccAt := ⟨BitVec.ofNat 64 p.1, 0⟩ } }
      s.clocks.scpllLock = false ∧ s.power.ccDown = some 3 ∧ passed s s.power.ccAt 100 = p.2 ∧ running s = true) := by decide +kernel
theorem witness_ClockLosses_canon : Canon gap := canon_of (by decide +kernel)

/-! ## Ports and rate bridges -/

/-- `dev` with port `p` configured and in the state given. -/
def devPort (p : Nat) (c : PortCfg) (q : Port) : State := { dev with cfg := { ports := [(p, c)] }, ports := [(p, q)] }
def onCfg : PortCfg := { enable := true }

/-- A SAP frame that passes the tests of R333, stamped for the present boundary where D_in is two base periods; one with a bit too few; and
an AES3 frame. -/
def goodFrame : InFrame := ⟨[1, 2], ⟨998, 0⟩, 65536, 64, true, [], [], []⟩
def badFrame : InFrame := { goodFrame with bits := 63 }
def aesFrame : InFrame := { goodFrame with parity := [true, false] }

/-- A professional channel-status block with its CRCC, and one whose CRCC fails. -/
def proBlock : List Byte := let l := 0x01 :: List.replicate 22 0; l ++ [crcc l]
def badBlock : List Byte := 0x01 :: List.replicate 23 0

theorem witness_PortFrames_inbound :
    portsReceive State.reset = false ∧ (15 < 16 ∧ (portCfg dev 15).enable = false) ∧ (∀ b ∈ goodFrame.parity ++ goodFrame.coding, b = false) ∧
    (∀ st ∈ [PortState.acquire, .clockLost, .alignFault, .run], ∀ k ∈ [0, 999, 1000],
      let s := devPort 15 onCfg { state := st, consistent := k, dIn := 131072 }
      portsReceive s = true ∧ (portCfg s 15).enable = true ∧ (port s 15).state = st ∧ masterPort s 15 = false ∧
      (portCfg s 15).rate ≠ 4 ∧ consistentFrame s 15 goodFrame = true ∧ consistentFrame s 15 badFrame = false) ∧
    (∀ n ∈ [7, 8], let s := devPort 15 onCfg { state := .run, dIn := 131072, lastStamp := some ⟨999, 0⟩, inFifo := List.replicate n ⟨⟨999, 0⟩, [], []⟩ }
      let q := port s 15
      let m := nearestStamp s 15 (mtNat goodFrame.edge + q.dIn)
      hasIn s 15 = true ∧ mtOf m = ⟨1000, 0⟩ ∧ completesBy s 15 (mtNat goodFrame.edge) m = true ∧ inFuture ⟨999, 0⟩ (mtOf m) = true ∧
      inFuture ⟨1000, 0⟩ (mtOf m) = false ∧ q.lastStamp = some ⟨999, 0⟩ ∧ (q.inFifo.length < 8 ↔ n = 7) ∧ (∀ y ∈ q.inFifo, y.stamp ≠ mtOf m)) ∧
    (portCfg (devPort 15 { onCfg with rate := 4 } {}) 15).rate = 4 ∧
    (∀ n ∈ [7, 8], 8 < ((true :: List.replicate n true).take 64 |>.filter id).length ↔ n = 8) := by
  decide +kernel
theorem witness_PortFrames_aes :
    (∀ st ∈ [PortState.acquire, .run], let s := devPort 23 onCfg { state := st, aesLocked := true, aesMiss := 1 }
      portsReceive s = true ∧ 16 ≤ 23 ∧ ({ goodFrame with preambles := false } : InFrame).preambles = false ∧ 1 ≤ (port s 23).aesMiss ∧
      aesReceives s 23 = true ∧ (port s 23).state = st ∧ (port s 23).aesLocked = true ∧ hasIn s 23 = true) ∧
    (aesFrame.preambles = true ∧ aesFrame.coding = [] ∧ aesFrame.parity = [true, false]) ∧
    (∀ p ∈ [(false, 8, 0), (false, 7, 0), (true, 0, 191), (true, 0, 192)], let s := devPort 23 onCfg { aesLocked := p.1, aesRun := p.2.1, aesBlock := p.2.2 }
      portsReceive s = true ∧ (port s 23).aesLocked = p.1 ∧ (port s 23).aesRun = p.2.1 ∧ (port s 23).aesBlock = p.2.2) ∧
    (∀ k ∈ [0, 191], (port (devPort 23 onCfg { txFrame := k, aesRun := 1 }) 23).txFrame = k) ∧
    (csPro (List.replicate 24 0) = false ∧ csPro proBlock = true ∧ csGood proBlock = true ∧ csPro badBlock = true ∧ csGood badBlock = false) := by
  decide +kernel

/-- A live route feeds channel 0 of SAP 15. -/
def fedPort : State :=
  { devPort 15 onCfg { state := .run } with routes := [(0, { state := .active, source := epLong epA, dest := 0x020F0000, channels := 1 })] }

theorem witness_PortFrames_outbound :
    State.reset.power.dev = .booting ∧ (portCfg (devPort 15 { onCfg with directions := 1 } {}) 15).directions < 2 ∧
    (∀ d ∈ [DevState.sapling, .fault, .quiet, .run], ∀ st ∈ [PortState.acquire, .run],
      let s : State := { devPort 15 onCfg { state := st } with power := { dev := d } }
      s.power.dev = d ∧ wireLow s 15 = false ∧ (port s 15).state = st ∧ (portCfg s 15).rate ≠ 4) ∧
    (let s := devPort 16 { onCfg with txClock := 1 } {}
     16 ≤ 16 ∧ (portCfg s 16).txClock ≠ 0 ∧ (port s (15 + (portCfg s 16).txClock)).aesLocked = false) ∧
    (∀ u : Bool, let y : OutEntry := ⟨⟨1000, 0⟩, u, true, [some 1, none]⟩
     let s := devPort 15 onCfg { state := .run, dOut := 65536, alignedAt := ⟨900, 0⟩, outSent := some ⟨999, 0⟩, outDone := some ⟨1000, 0⟩, outReady := [y] }
     let x := mtOf (nearestStamp s 15 (mtNat (mtMinus ⟨1001, 0⟩ (port s 15).dOut)))
     x = ⟨1000, 0⟩ ∧ (port s 15).outSent = some ⟨999, 0⟩ ∧ inFuture ⟨999, 0⟩ x = true ∧ inFuture ⟨1000, 0⟩ x = false ∧
     inFuture (port s 15).alignedAt x = true ∧ (port (outStamps s 15 x) 15).outReady.find? (fun y => decide (y.stamp = x)) = some y) := by
  decide +kernel
theorem witness_PortFrames_canon : Canon (devPort 23 onCfg { state := .run }) := canon_of (by decide +kernel)

theorem witness_PortStates :
    Served dev r0 (portObj 23) engineer ∧ Served dev r0 (portObj 0) engineer ∧ (portCfg dev 23).enable = false ∧
    portConfigOk (taken dev r0) 23 = true ∧ portConfigOk (taken dev r0) 15 = true ∧
    portConfigOk (taken (devPort 15 { slotWidth := 3 } {}) r0) 15 = false ∧
    (let s := devPort 15 { onCfg with capRing := 0 } {}
     (portCfg s 15).enable = true ∧ portUsed (taken s r0) 15 = true ∧ Served s r0 (portObj 15) engineer) ∧
    (let s := devPort 15 onCfg { state := .run }
     (portCfg s 15).enable = true ∧ portUsed (taken s r0) 15 = false ∧ Tbl.wf {} s.cfg.ports = true) ∧ 1 < (2 : Byte).toNat ∧
    (∀ x ∈ [(15, 1), (15, 2), (15, 3), (23, 3), (23, 4)], ∀ k ∈ [8, 9],
      let s := devPort x.1 onCfg { state := .run, window := List.replicate k true }
      watched s x.1 x.2 = true ∧ (port s x.1).state = .run ∧ (8 < ((port s x.1).window.filter id).length ↔ k = 9)) ∧
    (watched (devPort 15 onCfg {}) 15 4 = false ∧ watched (devPort 23 onCfg {}) 23 1 = false ∧ watched (devPort 15 { onCfg with bclkDir := 1, fsDir := 1 } {}) 15 3 = false) ∧
    (∀ st ∈ [PortState.acquire, .clockLost], ∀ k ∈ [999, 1000], let s := devPort 15 onCfg { state := st, consistent := k }
      (port s 15).state = st ∧ (port s 15).qualAt = none ∧ (1000 ≤ (port s 15).consistent ↔ k = 1000)) ∧
    mayAlign dev 15 = false ∧
    (∀ c ∈ [onCfg, { onCfg with rate := 4 }, { onCfg with group := 8 }, { onCfg with bclkDir := 1, fsDir := 1 }], ∀ st ∈ [PortState.acquire, .clockLost],
      mayAlign (devPort 15 c { state := st, qualAt := some ⟨999, 0⟩ }) 15 = true ∧ portCfg (devPort 15 c { state := st }) 15 = c) ∧
    (masterPort (devPort 15 { onCfg with bclkDir := 1, fsDir := 1 } {}) 15 = true ∧ masterPort (devPort 15 onCfg {}) 15 = false) := by
  unfold Served Heard; decide +kernel

/-- Ports 14 and 15 in group 8. -/
def pairPort (p q : Port) : State :=
  { dev with
    cfg := { ports := [(14, { onCfg with group := 8 }), (15, { onCfg with group := 8 })] }
    ports := [(14, p), (15, q)] }

/-- A port that aligned at 500 with D_in = D_out = 2 base periods. -/
def alignedPort : Port := { state := .run, dIn := 131072, dOut := 131072, alignedAt := ⟨500, 0⟩ }

theorem witness_PortStates_groups :
    (∀ x ∈ [(0, true), (32768, false)],
      let s := pairPort alignedPort { state := .acquire, qualAt := some ⟨999, 0⟩, lastEdge := some ⟨998, BitVec.ofNat 16 x.1⟩ }
      mayAlign s 15 = true ∧ (portCfg s 15).group = 8 ∧ (portCfg s 15).rate ≠ 4 ∧ groupDelays s 8 = some (131072, 131072, ⟨500, 0⟩) ∧
      (alignDelays s 15).1 = 131072 ∧ fitsGroup s 15 131072 (alignedBefore s 15) = x.2) ∧
    (let s := pairPort { state := .acquire, qualAt := some ⟨998, 0⟩ } { state := .clockLost, qualAt := some ⟨999, 0⟩ }
     mayAlign s 15 = true ∧ groupDelays s 8 = none ∧ 14 ∈ groupMates s 8 ∧ (port s 14).qualAt ≠ none ∧
     fitsGroup s 15 (alignDelays s 15).1 (alignedBefore s 15) = true) ∧
    (let s := { pairPort alignedPort { state := .acquire, qualAt := some ⟨999, 0⟩ } with clocks := { dev.clocks with mt := ⟨999 + 96000, 0⟩ } }
     15 ∈ groupMates s 8 ∧ (port s 15).qualAt = some ⟨999, 0⟩ ∧ isDue (now s) (mtPlus ⟨999, 0⟩ (msUnits s 2000)) = true) ∧
    (groupMates dev 8 = [] ∧ (let s := pairPort alignedPort { state := .acquire, qualAt := some ⟨999, 0⟩ }
      isDue (now s) (mtPlus ⟨999, 0⟩ (msUnits s 2000)) = false ∧ (port s 14).qualAt = none)) ∧
    (∀ x ∈ [(0, true), (32768, false)],
      let s := pairPort alignedPort { state := .alignFault, consistent := 1000, lastEdge := some ⟨998, BitVec.ofNat 16 x.1⟩ }
      (port s 15).state = .alignFault ∧ 1000 ≤ (port s 15).consistent ∧ groupDelays s 8 = some (131072, 131072, ⟨500, 0⟩) ∧ fitsGroup s 15 131072 true = x.2) ∧
    groupDelays (devPort 15 onCfg { state := .alignFault, consistent := 1000 }) 0 = none ∧ 0 < (dataDelay dev 15).2 ∧ 0 < (dataDelay dev 23).2 ∧
    (∀ c ∈ [1000, 1001], let x : CapChange := ⟨⟨BitVec.ofNat 64 c, 0⟩, 31, 1, 3⟩
      (port (devPort 15 onCfg { capNext := [x] }) 15).capNext = [x] ∧ (isDue (now dev) x.at' = true ↔ c = 1000)) := by
  decide +kernel
theorem witness_PortStates_canon : Canon (devPort 15 onCfg { state := .run }) := canon_of (by decide +kernel)

theorem witness_PortActions :
    (∀ p ∈ [0, 23], Served dev r0 (portReqObj p) operator ∧ portChans dev p = 2) ∧
    (∀ d ∈ [0, 1], d ≤ 1 ∧ 1 ≤ 1 ∧ 1 + 1 ≤ portChans dev 23 ∧ far.phase = 0) ∧ inTime (now dev) far = true ∧ inTime (now dev) near = false ∧
    dormant dev = false ∧ schedTaken dev far (.port 23 true 1 0 1 1) = false ∧ schedRoom dev 1 = true ∧
    ¬ (2 + 1 ≤ portChans dev 23) ∧ dev.clocks.sched = [] ∧
    (∃ x ∈ (devDue (.port 23 true 5 0x4000 1 1)).clocks.sched, x.target = ⟨1001, 0⟩ ∧ x.act = .port 23 true 5 0x4000 1 1) ∧
    (∀ op ∈ [1, 2, 3, 4, 5],
      let a : ChanAct := ⟨op, 0x2000, false, ⟨900, 0⟩, 1⟩
      let s := devPort 23 onCfg { chOut := [(31, { acts := [a] })] }
      let c := chan (port s 23) true 31
      c.ramp = none ∧ c.acts = [a] ∧ a.forced = false ∧ crossed c = false ∧ isDue (now s) (mtPlus a.since (msUnits s a.limitMs)) = true ∧
      crossed { c with prev := 0x7FFFFFFF, last := 0x80000000, lastAt := some ⟨900, 0⟩ } = true) ∧
    (zeroCross 0x7FFFFFFF 0x80000000 = true ∧ zeroCross 0x7FFFFFFF 0x00008000 = true ∧ zeroCross 0x7FFFFFFF 0x00008001 = false) ∧
    (chan (port (devPort 23 onCfg { chIn := [(31, { gain := 5 })] }) 23) false 31).begun = [] ∧
    (let s := devPort 23 onCfg { chIn := [(31, { ramp := some ⟨0, 0x4000, 32, 32, true⟩ })] }
     let c := chan (port s 23) false 31
     c.ramp = some ⟨0, 0x4000, 32, 32, true⟩ ∧ 32 ≤ 32 ∧ c.acts = [] ∧ Tbl.wf {} (port s 23).chIn = true ∧ Tbl.wf {} (port s 23).chOut = true) := by
  unfold Served Heard; decide +kernel

/-- `dev` with bridge 15 configured and in the state given, and SAP 15 FOREIGN. -/
def devBridge (c : RbCfg) (x : Bridge) : State :=
  { dev with cfg := { ports := [(15, { onCfg with rate := 4 })], bridges := [(15, c)] }, bridges := [(15, x)], ports := [(15, { state := .run })] }

theorem witness_BridgeCommands :
    Served dev r0 (rbObj 15) engineer ∧
    (let c : RbCfg := { inPort := 15, outPort := 15, inFirst := 16, outFirst := 16 }
     let u := taken (devBridge c {}) r0
     c.enable = false ∧ sideRange u (sideCfg c false) = true ∧ sideRange u (sideCfg c true) = true ∧ sidePort u (sideCfg c false) false = true ∧
     sidePort u (sideCfg c true) true = true ∧ sideTaken u 15 (sideCfg c false) false = false ∧ sideTaken u 15 (sideCfg c true) true = false) ∧
    (let c : RbCfg := { inPort := 15, inFirst := 17 }
     sideRange (taken (devBridge c {}) r0) (sideCfg c false) = false) ∧
    (let c : RbCfg := { inPort := 14 }
     let u := taken (devBridge c {}) r0
     sideRange u (sideCfg c false) = true ∧ sideRange u (sideCfg c true) = true ∧ ¬ (sidePort u (sideCfg c false) false = true)) ∧
    (let s : State := { devBridge { enable := true } {} with routes := [(0, { state := .active, source := 0x040F0000 })] }
     bridgeUsed (taken s r0) 15 = true ∧ bridgeUsed (taken (devBridge { enable := true } {}) r0) 15 = false) ∧
    (∀ st ∈ [SideState.off, .unlocked, .acquire, .locked], ∀ sl : Bool, ∀ eg : Bool,
      let d : Side := { state := st, slipping := sl, fader := if sl then some ⟨false, 32, 32, 1, 1⟩ else none }
      let s := devBridge { enable := true } { ingress := d, egress := d }
      (side s 15 eg).state = st ∧ (side s 15 eg).slipping = sl ∧ fadeOver (side s 15 eg).fader = true) ∧
    fadeOver (some ⟨false, 32, 31, 1, 1⟩) = false := by
  unfold Served Heard; decide +kernel

/-- Bridge 15 acquires on the sides that `c` binds, and its port's estimate stands at 48 kHz. -/
def estimated (c : RbCfg) (since : MT) : State :=
  { devBridge { c with enable := true } { ingress := { state := .acquire, acqAt := since }, egress := { state := .acquire, acqAt := since } } with
    ports := [(15, { state := .run, est := 48000000000 })] }

theorem witness_BridgeCommands_lock :
    (∀ eg : Bool, let s := estimated { inPort := 15, outPort := 15 } ⟨40, 0⟩
      let k := sideCfg (rbCfg s 15) eg
      estPort s k eg = 15 ∧ sideRuns s k eg = true ∧ ratioOk s k eg = true ∧ (side s 15 eg).state = .acquire ∧ mayLock s (15, eg) = true ∧
      (rbCfg s 15).enable = true ∧ estSides s 15 = [(15, false), (15, true)]) ∧
    (let s := estimated { inPort := 15 } ⟨40, 0⟩
     (estSides s 15).filter (mayLock s) = [(15, false)]) ∧
    mayLock (estimated { inPort := 15 } ⟨41, 0⟩) (15, false) = false ∧
    (withinPpm 48000000000 48000000 = true ∧ withinPpm 48000000000 48000048 = true ∧ withinPpm 48000000000 48000049 = false) := by
  decide +kernel
theorem witness_BridgeCommands_canon : Canon (devBridge { enable := true } { ingress := { state := .unlocked } }) := canon_of (by decide +kernel)

/-! ## Links, groves and streams -/

/-- `dev` with link 3 as given. -/
def devLink (k : Link) : State := { dev with links := [(3, k)] }

/-- Both paths of link 3 in the states given. -/
def paths (a b : PathState) : State := devLink { pathA := { state := a }, pathB := { state := b } }

theorem witness_LinkTraining :
    (∀ st ∈ [PathState.off, .signal, .block, .adapt, .frame, .measure, .up, .delayFault, .crossed], ∀ o ∈ [PathState.off, .up], ∀ b : Bool,
      let s := if b then paths o st else paths st o
      (path s 3 b).state = st ∧ (path s 3 (!b)).state = o ∧ (path s 3 (!b)).peer = none) ∧
    (((125000 : Long).toNat : Int) + (125000 : Long).toInt.natAbs ≤ 250000 ∧ ¬ (((125001 : Long).toNat : Int) + (-125000 : Long).toInt.natAbs ≤ 250000)) ∧
    Served dev r0 (linkObj 3 + 4) engineer ∧ linkCarries dev 3 = false ∧ linkCarries (devLink { txMap := [(2047, 1)] }) 3 = true ∧
    (path (paths .up .off) 3 false).low = false ∧
    (∀ p ∈ [(false, 1000, true), (true, 952, true), (true, 953, false)],
      let s := devLink { pathA := { state := .signal, fromUp := p.1, enteredAt := ⟨BitVec.ofNat 64 p.2.1, 0⟩ } }
      (path s 3 false).state = .signal ∧ (((path s 3 false).fromUp = false ∨ msUnits s 1 ≤ mtDiff (path s 3 false).enteredAt (now s)) ↔ p.2.2 = true)) ∧
    (trainLimit dev .signal = none ∧ ∀ p ∈ [(PathState.block, 995, 996), (.adapt, 808, 809), (.frame, 992, 993), (.measure, 984, 985)],
      (trainLimit dev p.1).any (fun m => decide (m ≤ mtDiff ⟨BitVec.ofNat 64 p.2.1, 0⟩ (now dev)) &&
        decide (mtDiff ⟨BitVec.ofNat 64 p.2.2, 0⟩ (now dev) < m)) = true) ∧
    (∀ k ∈ [63, 64], (path (devLink { pathB := { state := .delayFault, slow := k } }) 3 true).slow = k) ∧
    (∀ k : Bool, (link (devLink { lowWanted := k, pathA := { state := .measure, stays := k } }) 3).lowWanted = k) ∧
    (∀ p ∈ [(1, 0, 0, true), (2, 0, 0, true), (3, 2, 0, true), (3, 1, 0, false), (4, 0, 9, true), (4, 0, 8, false), (5, 2, 9, false)],
      downBy { state := .up, noSof := p.2.1, crcWin := List.replicate p.2.2.1 true } p.1 = p.2.2.2) := by
  unfold Served Heard; decide +kernel

/-- A header, and a frame that arrives whole on path A of link 3. -/
def header : FrameHdr := ⟨9, 0, false, 1, false, false, 0, 1000, 0, 0, 0, 0x80000000, 0, 0, false, 0, 0, 0⟩
def goodSegs : List SegCopy := (List.range 60).map (fun j => ⟨j, [], true, BitVec.ofNat 12 1000, BitVec.ofNat 6 j⟩)
def wholeFrame : RxFrame := ⟨header, [], ⟨0, 0, false, 0, []⟩, [], goodSegs, [], [], [], 5, 0, 0, 0⟩
def lostFrame : RxFrame := { wholeFrame with segsA := [] }
def upLink : Link := { pathA := { state := .up } }

theorem witness_LinkFrames :
    (path dev 3 true).state ≠ .up ∧
    (let g : TxFrame := ⟨header, [], ⟨0, 0, false, 0, []⟩, []⟩
     let s := devLink { upLink with sent := some g }
     (path s 3 false).state = .up ∧ (link s 3).sent = some g ∧ g.hdr.mtCount = (now s).count) ∧
    (let g : TxFrame := ⟨{ header with mtCount := 999 }, [], ⟨0, 0, false, 0, []⟩, []⟩
     let u : BulkUnit := ⟨16, 1, true, 0, []⟩
     let s := devLink { upLink with sent := some g, bulkOut := [u] }
     s.mgmt.outGrove = [] ∧ g.hdr.mtCount ≠ (now s).count ∧ (path s 3 false).low = false ∧ (link s 3).bulkOut = u :: [] ∧
     (u.seq - (link s 3).bulkAck).toNat ≤ 16) ∧
    (dev.grove.arrived = [] ∧ (link dev 3).pathA.state ≠ .up ∧ (link dev 3).pathB.state ≠ .up) ∧
    (let s := devLink upLink
     (link s 3).pathB.state ≠ .up ∧ (link s 3).pathB.state ≠ .delayFault ∧ (link s 3).pathA.state = .up ∧ joined s 3 = false ∧ (link s 3).rxMap = []) ∧
    ((∀ j < 60, wholeFrame.segsA.any (copyValid upLink.pathA wholeFrame.hdr.mtCount j) = true) ∧
      (wholeFrame.strayA ++ wholeFrame.segsA.flatMap (·.odd)).filter (fun x => blockBad x.1 x.2) = [] ∧ (∀ x ∈ wholeFrame.segsA, x.crcGood = true) ∧
      wholeFrame.cells = [] ∧ wholeFrame.bulk.payload = [] ∧ wholeFrame.hdr.low = false ∧ wholeFrame.hdr.hold = false ∧
      wholeFrame.hdr.arrival = 0x80000000) ∧
    (lostFrame.segsA = [] ∧ lostFrame.strayA = [] ∧ lostFrame.hdr.low = false ∧ lostFrame.hdr.arrival = 0x80000000 ∧
      (link (devLink { upLink with rxMap := [(2047, 1)] }) 3).rxMap = [(2047, 1)]) := by
  decide +kernel
/-- The greatest delay and offset that still fit, from one measurement. -/
theorem witness_LinkFrames_delay :
    (let f : RxFrame := { wholeFrame with hdr := { header with arrival := 250000 }, uA := 250000 }
     let a := upLink.pathA
     let d := (f.uA.toInt + f.hdr.arrival.toInt - a.residual.toInt - f.hdr.residual.toInt + (linkCfg dev 3).asymPs.toInt) / 2
     let th := (f.uA.toInt - f.hdr.arrival.toInt - f.hdr.residual.toInt + a.residual.toInt - (linkCfg dev 3).asymPs.toInt) / 2
     let ms := ((BitVec.ofInt 32 d, BitVec.ofInt 32 th) :: a.meas).take 16
     f.hdr.arrival ≠ 0x80000000 ∧
     median (ms.map (fun x => x.1.toInt)) + (median (ms.map (fun x => x.2.toInt))).natAbs = 250000) := by decide +kernel

/-- `dev` in grove 5 with a join key, and link 3 as given. -/
def inGrove (k : Link) : State :=
  { devLink k with cfg := { groveId := 5, deviceNumber := 1 }, heart := { keys := [(4 * 32, [1])] }, grove := { state := 1 } }

/-- The answer that the peer of grove `pg` with number `peer` gives to the challenge. -/
def answer (s : State) (pg : Long) (peer : Nat) (nonces : List Byte) : List Byte :=
  Config.hmac [1] (be 4 s.cfg.groveId.toNat ++ be 4 pg.toNat ++ be 2 s.cfg.deviceNumber ++ be 2 peer ++ nonces)

theorem answer_proves (k : Link) (pg : Long) (peer : Nat) (nonces : List Byte) :
    joinProof (inGrove k) pg peer (answer (inGrove k) pg peer nonces) nonces = true := by
  have e : joinKeys (inGrove k) = [[1]] := rfl
  unfold joinProof answer
  rw [e]
  simp

/-- With no key no answer proves anything; with one, the answer above does (`answer_proves`). -/
theorem witness_GroveMembership :
    (linkUp dev 3 = false ∧ linkUp (inGrove upLink) 3 = true ∧ (inGrove upLink).cfg.groveId = 5 ∧ (inGrove upLink).cfg.groveId ≠ 0) ∧
    (let s := { inGrove upLink with heart := {} }
     joinProof s 5 9 [] [] = false ∧ linkUp s 3 = true ∧ s.cfg.groveId ≠ 0) ∧
    ((2 : Byte) ≠ ownCompat (inGrove upLink) ∧ (1 : Byte) = ownCompat (inGrove upLink) ∧ joinedGrove (inGrove upLink) = false ∧
      (inGrove upLink).cfg.deviceNumber = 1 ∧ tget none (inGrove upLink).grove.records 1 = none ∧
      joinedGrove (inGrove { upLink with joinDone := true }) = true) ∧
    ((link (inGrove { upLink with join := 4 }) 3).join = 4 ∧ (link (inGrove upLink) 3).join ≠ 4 ∧
      joinProof { inGrove { upLink with join := 4 } with heart := {} } 0 0xFFFF [] [] = false) ∧
    Served dev r0 0x0E10 custodian ∧ (4095 : Long).toNat < 4096 ∧ (∀ x ∈ dev.streams, x.2.state = .free) ∧
    (∃ x ∈ ({ dev with streams := [(8191, { state := .defined })] } : State).streams, x.2.state ≠ .free) ∧
    Served dev r0 0x0E10 engineer ∧ dev.grove.state ≠ 4 ∧ ({ dev with grove := { state := 4 } } : State).grove.state = 4 ∧
    ({ dev with grove := { adoptAt := some ⟨1000, 0⟩ } } : State).grove.adoptAt = some ⟨1000, 0⟩ ∧
    isDue (now dev) ⟨1000, 0⟩ = true ∧ isDue (now dev) ⟨1001, 0⟩ = false := by
  unfold Served Heard; decide +kernel
theorem witness_GroveMembership_records :
    (let s := inGrove { upLink with join := 4, joinDone := true }
     coreUp s = true ∧ joinedGrove s = true ∧ 9 ≠ s.cfg.deviceNumber ∧ inFuture (now s) ⟨1064, 0⟩ = true ∧ s.grove.role ≠ .root ∧
     64 ≤ countTo (now s) ⟨1064, 0⟩ ∧ (∀ j < 4, (link s j).joinDone = true ↔ j = 3)) ∧
    ({ dev with grove := { role := .root } } : State).grove.role = .root ∧ (1 : Long) = dev.epoch + 1 ∧
    ({ dev with grove := { announced := [(1, 0, 9, 1000)] } } : State).grove.announced = [(1, 0, 9, 1000)] ∧
    joinedGrove dev = false ∧ dev.cfg.groveId = 0 ∧
    (let s := { inGrove { upLink with join := 1 } with grove := { holds := 8, holdsDev := [(3, 4095)], offers := [3] } }
     coreUp s = true ∧ s.cfg.groveId ≠ 0 ∧ s.grove.holds.getLsbD 3 = true ∧ recordAbsent s (tget 0 s.grove.holdsDev 3) = true ∧ newPeer s 3 = true ∧
     (holdersOf s 4095).find? (fun l => s.grove.offers.contains l) = some 3 ∧ Served s r0 0x0E20 custodian) ∧
    (inGrove upLink).grove.holds.getLsbD 3 = false ∧ Served dev r0 0x0E20 custodian ∧ holdersOf dev 4095 = [] ∧ (4095 : Word).toNat < 4096 ∧
    (coreUp dev = true ∧ dev.cfg.groveId = 0 ∧ dev.grove.offers = []) := by
  unfold Served Heard; decide +kernel

/-- The record's one link, the numbers of its units, offers on each side of a holder, and the replacement's transfer. -/
theorem witness_GroveMembership_replace :
    (let s := inGrove { upLink with join := 4, joinDone := true }
     coreUp s = true ∧ joinedGrove s = true ∧ (∀ j < 4, (link s j).joinDone = true ↔ j = 3) ∧
     9 ≠ s.cfg.deviceNumber ∧ s.cfg.deviceNumber = 1 ∧
     (let r := { s with grove := { s.grove with role := .root } }
      coreUp r = true ∧ joinedGrove r = true ∧ r.grove.role = .root ∧ (1 : Long) = r.epoch + 1 ∧
      inFuture (now r) ⟨1064, 0⟩ = true ∧ 64 ≤ countTo (now r) ⟨1064, 0⟩)) ∧
    (List.replicate 3801 (7 : Byte) ≠ []) ∧
    (let s : State := { dev with power := { dev.power with ccDown := some 0 } }
     coreUp s = false ∧ joinedGrove dev = false) ∧
    (coreUp dev = true ∧ dev.cfg.groveId = 0) ∧
    (let s := { inGrove { upLink with join := 4, joinDone := true } with grove := { state := 1, holds := 8, holdsDev := [(3, 9)] } }
     s.cfg.groveId ≠ 0 ∧ newPeer s 3 = false ∧ Served s r0 0x0E20 custodian ∧ holdersOf s 9 ≠ [] ∧
     (∀ j ∈ holdersOf s 9, s.grove.offers.contains j = false)) ∧
    (∀ j ∈ [0, 3], ({ dev with grove := { offers := [j] } } : State).grove.offers ≠ []) ∧
    (let s := { inGrove upLink with grove := { state := 1, holds := 8, holdsDev := [(3, 9)], records := [(9, some ⟨1, 1, 0, [], 0, 0, now dev⟩)] } }
     s.cfg.groveId ≠ 0 ∧ recordAbsent s (tget 0 s.grove.holdsDev 3) = false) ∧
    (let s : State := { dev with grove := { incoming := [1] } }
     coreUp s = true ∧ alone s = true ∧ s.grove.incoming ≠ []) ∧
    alone (inGrove upLink) = false := by
  unfold Served Heard; decide +kernel

/-- A device of grove 5 whose link 3 is joined, in the role given. -/
def rooted (g : Grove) : State := { inGrove { upLink with join := 4, joinDone := true } with grove := g }

theorem witness_RootAndTime :
    (let s := rooted { noRoot := 16 }
     anyJoined s = true ∧ 16 ≤ s.grove.noRoot ∧ s.grove.role ≠ .root ∧ s.grove.role ≠ .claiming ∧ s.cfg.priority = 0) ∧
    anyJoined dev = false ∧ (rooted { noRoot := 15 }).grove.noRoot < 16 ∧
    ((rooted { role := .claiming, claimRun := 64 }).grove.role = .claiming ∧ 64 ≤ (rooted { role := .claiming, claimRun := 64 }).grove.claimRun ∧
      (rooted { role := .claiming, claimRun := 63 }).grove.claimRun < 64) ∧
    Served dev r0 0x0E01 custodian ∧ far.phase = 0 ∧ near.phase = 0 ∧ inTime (now dev) far = true ∧ inTime (now dev) near = false ∧
    dev.grove.role ≠ .root ∧
    (let s := { inGrove { upLink with join := 4, joinDone := true, peerDev := 9 } with
                  grove := { role := .root, records := [(9, some ⟨1, 1, 0, [], 0, 0, ⟨1000, 0⟩⟩)] } }
     standbyKnown (taken s r0) = true ∧ Served s r0 0x0E01 custodian ∧ s.grove.role = .root ∧ dormant s = false ∧ schedTaken s far (.drill none) = false ∧
     schedTaken s far (.drill (some 3600)) = false ∧ schedRoom s 1 = true) ∧
    ((1 : Word).toNat = 1 ∧ (3600 : Word).toNat ≤ 3600 ∧ 3600 < (3601 : Word).toNat) ∧
    (∀ x ∈ dev.clocks.sched, x.target ≠ far) ∧
    (let s : State := { dev with clocks := { dev.clocks with sched := [⟨far, .drill none, false⟩] } }
     ⟨far, .drill none, false⟩ ∈ s.clocks.sched ∧ schedTaken s far (.drill none) = true) ∧
    (let s : State := { dev with clocks := { dev.clocks with sched := List.replicate 1024 ⟨far, .routeAdd 0, false⟩ } }
     schedRoom s 1 = false) ∧
    (let s := rooted { role := .claiming, claimRun := 64 }
     s.grove.state ≠ 3 ∧ s.grove.rootDevice = 0xFFFF ∧ (∀ i < 8, refType s i ≠ 3)) ∧
    (¬ ((rooted { role := .claiming, claimRun := 64, state := 3 }).grove.state ≠ 3)) ∧
    (rooted { role := .root, drillState := 2 }).grove.role = .root ∧
    (let s := { rooted { role := .withheld, withheldAt := ⟨1000, 0⟩ } with clocks := { dev.clocks with mt := ⟨49000, 0⟩ } }
     s.grove.role = .withheld ∧ isDue (now s) (mtPlus s.grove.withheldAt (msUnits s 1000)) = true) := by
  unfold Served Heard; decide +kernel
theorem witness_RootAndTime_step :
    (∀ p ∈ [(936, 1008), (936, 992), (936, 1007), (937, 1008)],
      ({ dev with grove := { stepFade := some p.1 } } : State).grove.stepFade = some p.1) ∧
    (8 ≤ ((1008 : BitVec 64) - (now dev).count).toInt.natAbs ∧ 8 ≤ ((992 : BitVec 64) - (now dev).count).toInt.natAbs ∧
      ((1007 : BitVec 64) - (now dev).count).toInt.natAbs < 8 ∧ 936 + 64 ≤ (now dev).count.toNat ∧ (now dev).count.toNat < 937 + 64 ∧
      (now dev).phase = 0 ∧ ∀ x ∈ dev.clocks.sched, isDue ⟨1008, 0⟩ x.target = false) := by decide +kernel

/-- `dev` with stream entry 8,191 as given. -/
def devStream (x : Stream) : State := { dev with streams := [(8191, x)] }

/-- A member of grove 5 that hears a Root over link 3, with stream entry 8,191 as given. -/
def member (x : Stream) : State :=
  { inGrove { upLink with join := 4, joinDone := true, txMap := [(2047, 8192)] } with
    grove := { state := 3, heard := 0x80000009, heardHops := 0 }, streams := [(8191, x)] }

theorem witness_StreamCommands_source :
    (8191 : Nat) < 8192 ∧ Served dev r0 (streamObj 8191) engineer ∧ Served dev r0 (streamObj 0) operator ∧
    (epRange dev (epLong ⟨1, 31, 960⟩) 64 false = true ∧ epRange dev (epLong ⟨1, 31, 961⟩) 64 false = false) ∧
    (∀ st ∈ [StreamState.free, .defined, .pending, .admitted, .running], (stream (devStream { state := st }) 8191).state = st) ∧
    (epMeets (taken dev r0) (epLong epA) false 3 = true ∧ epMeets (taken dev r0) (epLong epA) false 2 = false ∧ epSapling dev (epLong epA) = false) ∧
    (let s := devStream { state := .admitted, source := true }
     (stream s 8191).source = true ∧ (stream s 8191).state ≠ .free ∧ (stream s 8191).transit = false ∧ inTime (now s) far = true ∧
     inTime (now s) near = false ∧ dormant s = false ∧ schedTaken s far (.streamStart 8191) = false ∧
     schedTaken s far (.streamStop 8191) = false ∧ schedRoom s 1 = true ∧ Served s r0 (streamObj 8191) engineer) ∧
    schedTaken { dev with clocks := { dev.clocks with sched := [⟨far, .streamStart 8191, false⟩] } } far (.streamStart 8191) = true ∧
    ((stream (devStream { transit := true }) 8191).transit = true ∧ (stream dev 8191).source = false) := by
  unfold Served Heard; decide +kernel

/-- Terms of a subscription over one hop, and the Root of grove 5 with device 9 beside it. -/
def oneHop : StreamTerms := ⟨1024, 15, false, 0⟩
def besideNine (x : Stream) : State :=
  { member x with
    links := [(3, { upLink with join := 4, joinDone := true, peerDev := 9 })]
    grove := { role := .root, state := 3, heard := 0x80000001, heardHops := 0,
               records := [(9, some ⟨1, 1, 0, [⟨1, 2, 6144, 6144⟩], 16384, 0, now dev⟩)] } }
def asked : Stream := { state := .pending, receiver := true, id := 0x90000, dest := epLong epA }

theorem witness_StreamCommands_receiver :
    (let s := member asked
     let told := (toldPlan 1 0xFF 3 0 false).filter (planFits · oneHop)
     coreUp s = true ∧ (stream s 8191).state = .pending ∧ (stream s 8191).id ≠ 0 ∧ s.grove.role ≠ .root ∧ subscribeFails s 8191 3 1 = none ∧
     subscribeFails (member { asked with dest := epLong ⟨1, 31, 961⟩ }) 8191 3 64 = some eRange ∧ told = some ⟨1, 3, [], none⟩ ∧ eState ≠ eOK ∧
     (toldPlan 0 0xFF 3 0 false).filter (planFits · oneHop) = none ∧
     (toldPlan 1 0xFF 3 0 false).filter (planFits · { oneHop with latency := 15 }) = none ∧
     (admitHere s 8191 ⟨1, 3, [], none⟩ oneHop 3 1).toOption.isSome = true ∧
     (admitHere s 8191 ⟨1, 2, [], none⟩ oneHop 3 1).toOption.isSome = false) ∧
    (let s := besideNine asked
     coreUp s = true ∧ (stream s 8191).state = .pending ∧ s.grove.role = .root ∧ subscribeFails s 8191 3 1 = none ∧
     rootPlan s ((stream s 8191).id.extractLsb' 16 12).toNat 3 false = some ⟨1, 3, [9, 1], none⟩ ∧
     rootPlan s ((stream s 8191).id.extractLsb' 16 12).toNat 3 true = none) := by
  decide +kernel
theorem witness_StreamCommands_told :
    mtNat (now dev) < 2 ^ 79 ∧ coreUp dev = true ∧ (stream dev 8191).state = .free ∧ ({ dev with grove := { state := 4 } } : State).grove.state = 4 ∧
    (let s := member { state := .defined, source := true }
     coreUp s = true ∧ (stream s 8191).state = .defined ∧ (stream s 8191).transit = false ∧ (stream s 8191).source = true ∧ s.grove.state ≠ 4 ∧
     heldSlots s 3 true 8191 ≠ []) ∧
    (let s := devStream { state := .admitted }
     (stream s 8191).source = false ∧ (stream s 8191).state ≠ .pending ∧ (stream s 8191).state ≠ .free ∧ (stream s 8191).transit = false) ∧
    (let s : State := { dev with power := { dev.power with ccDown := some 0 } }
     coreUp s = false) ∧
    (∀ st ∈ [StreamState.running, .rerouting],
      let x : Stream := { state := st, receiver := true, link := some 3, hops := 1, sdef := { cls := 3, channels := 1, latency := 1 } }
      let s := member x
      coreUp s = true ∧ x.receiver = true ∧ x.state ≠ .free ∧ x.state ≠ .pending ∧ s.grove.role ≠ .root ∧ (1 : Byte).toNat ≤ x.sdef.latency ∧
      x.sdef.latency < (2 : Byte).toNat ∧ (bookSwitch s (stageAt s 0) 8191 (lostCopy s x) 3 1).toOption.isSome = true) ∧
    (let s : State := { dev with clocks := { dev.clocks with mt := ⟨1004, 0⟩ }, mem := { banks := [(31, { kind := 2, emptySince := some ⟨1000, 0⟩ })] } }
     (bank s 31).emptySince = some ⟨1000, 0⟩ ∧ (bank s 31).kind = 2 ∧ ringsIn s 31 = [] ∧
     isDue (now s) (periodFrom (mtPlus ⟨1000, 0⟩ (4 * 65536))) = true ∧ isDue ⟨1003, 0xFFFF⟩ (periodFrom (mtPlus ⟨1000, 0⟩ (4 * 65536))) = false) := by
  decide +kernel
theorem witness_StreamCommands_canon : Canon (member { state := .admitted, source := true }) := canon_of (by decide +kernel)

/-! ## Management -/

/-- `dev` with the session's fields as given. -/
def devSess (x : Session) : State := { dev with mgmt := { sessions := [(0, x)] } }
def openSess : Session := { phase := 2, role := 3 }

/-- The transfer of an image of engine 31 with two of its octets placed. -/
def halfway : Transfer := ⟨0x07E1, 0, 2, Config.sha256 [1, 2], [(0, some 1)], ⟨1000, 0⟩⟩

theorem witness_ManagementMessages_values :
    dictPresent dev = true ∧ (session dev 15).phase ≠ 2 ∧ (session dev 0).phase = 2 ∧
    (readGate dev r0 0x0100 0 65 = some (eRange, 0xFF) ∧ readGate dev r0 0x0100 0 0 = some (eRange, 0xFF) ∧ readGate dev r0 0x0100 0 1 = none ∧
      readGate dev r0 0x6000 0 1 = none) ∧
    dev.mgmt.after = [] ∧ writeGate dev r0 0x0E00 0 65 [] = some (eRange, 0xFF) ∧ writeGate dev r0 0x0E00 0 1 [0, 5] = none ∧
    (elemCmd r0 0x0E00 0 [0, 5]).isNone = true ∧ writeGate dev r0 0x0210 0 2 [3, 0, 3, 0] = none ∧
    (putBlock (taken dev r0) r0 0x0210 0 2 [3, 0, 3, 0]).toOption.isNone = true ∧
    (putBlock (taken dev r0) r0 0x0E00 0 1 [0x7F, 0xFF]).toOption.isSome = true ∧ Served dev r0 0x0E00 custodian := by
  unfold Served Heard; decide +kernel

theorem witness_ManagementMessages_domains :
    domainGate (taken dev r0) r0 0x07E1 0 true = none ∧ domainGate (taken dev r0) r0 0x0140 0 true = none ∧
    (List.replicate 32 (0 : Byte)).length = 32 ∧ domainLimit 0x0140 < 1572865 ∧ ¬ (domainLimit 0x0140 < 1572864) ∧
    buffered (taken dev r0) 0 + 4194304 ≤ 4194304 ∧ 4194304 < buffered (taken dev r0) 0 + 4194305 ∧
    receivedOf halfway ≠ halfway.total ∧ receivedOf { halfway with octets := [(0, some 1), (1, some 2)] } = halfway.total := by decide +kernel
/-- A word of crossing RAM 31 read and refused, and a transfer on each side of its 10 s. -/
theorem witness_ManagementMessages_crossing :
    (let v := settlePortB dev 31
     0x1080 ≤ 0x10FC ∧ 0x10FF ≤ 0x10FF ∧ (∀ i < 1, eccMark v (locOf 4 31 (3 * 256 + (255 + i))) = 0) ∧
     readGate v r0 0x10FF 255 1 = none ∧ readGate v r0 0x10FF 255 2 = some (eNoElement, 1) ∧ (session dev 0).phase = 2) ∧
    (let s (c : Nat) : State :=
       { devSess { openSess with transfer := some halfway } with clocks := { dev.clocks with mt := ⟨BitVec.ofNat 64 c, 0⟩ } }
     (session (s 481000) 0).transfer.any (fun t => passed (s 481000) t.lastAt 10000) = true ∧
     (session (s 480999) 0).transfer.any (fun t => passed (s 480999) t.lastAt 10000) = false) := by decide +kernel
theorem witness_ManagementMessages_close :
    transferOf (devSess { openSess with transfer := some halfway }) r0 0x07E1 0 = some halfway ∧
    Config.sha256 (transferBytes { halfway with octets := [(0, some 1), (1, some 2)] }) = halfway.digest ∧
    (∃ d : List Byte, Config.sha256 [1, 2] ≠ d) ∧ ∃ v, landDomain (taken dev r0) 0x07E1 [1, 2] = .ok v :=
  ⟨rfl, rfl, ⟨0 :: Config.sha256 [1, 2], fun h => by simpa using congrArg List.length h⟩, _, rfl⟩

theorem witness_ManagementMessages_requests :
    (∀ i ∈ [Iface.ethernet, .hq, .grove], ifaceOn dev i = true) ∧
    ((session dev 0).iface = .ethernet ∧ (session dev 0).iface ≠ .hq) ∧
    (let c : Reply := ⟨0, 7, 1, 1, eOK, 0xFF, ⟨0, 0⟩, []⟩
     (session (devSess { openSess with cache := [c] }) 0).cache.find? (fun c => decide (c.seq = r0.seq)) = some c) ∧
    (session dev 0).cache.find? (fun c => decide (c.seq = r0.seq)) = none ∧
    (((8 : Word) - r0.seq).toNat = 1 ∧ ((0x8006 : Word) - r0.seq).toNat = 32767 ∧ 32767 < ((0x8007 : Word) - r0.seq).toNat) ∧
    (session dev 0).high = none ∧
    (let q := List.replicate 64 (r0, ([] : List Byte))
     64 ≤ (queueOf ({ dev with mgmt := { dev.mgmt with qEth := q } } : State).mgmt .ethernet).length ∧
     (queueOf ({ dev with mgmt := { dev.mgmt with qEth := q.drop 1 } } : State).mgmt .ethernet).length < 64) ∧
    badBody [1, 64, 0, 0, 0, 0] = none ∧ badBody [1, 65, 0, 0, 0, 0] = some eRange ∧ badBody [1, 1, 0, 0, 0] = some eLength ∧
    (dev.cfg.mgmt.netEnable = true ∧ dev.cfg.mgmt.hqEnable = true ∧ dev.power.recovery = false) := by decide +kernel

/-- An ARP request, an ICMP echo request and a UDP datagram for the device's address 10.0.0.1. -/
def arpPacket : List Byte := [8, 6] ++ [0, 1, 8, 0, 6, 4, 0, 1] ++ List.replicate 16 0 ++ [10, 0, 0, 1]
def ipPacket (proto : Byte) (rest : List Byte) : List Byte :=
  [8, 0] ++ [0x45, 0] ++ be 2 (20 + rest.length) ++ [0, 0, 0, 0, 64, proto, 0, 0, 10, 0, 0, 2, 10, 0, 0, 1] ++ rest

theorem witness_ManagementMessages_packets :
    (beAt arpPacket 0 2 = 0x0806 ∧ beAt (arpPacket.drop 2) 6 2 = 1 ∧ beAt (arpPacket.drop 2) 24 4 = (0x0A000001 : Long).toNat ∧
      ({ dev with mgmt := { activeAddr := 0x0A000001 } } : State).mgmt.activeAddr = 0x0A000001) ∧
    (∀ p ∈ [(1, 8, 0), (17, 0x12A2, 8)],
      let rest := if p.1 = 1 then [8, 0, 0, 0] else be 2 5 ++ be 2 p.2.1 ++ be 2 8 ++ [0, 0]
      let packet := ipPacket (BitVec.ofNat 8 p.1) rest
      let ip := packet.drop 2
      beAt packet 0 2 = 0x0800 ∧ beAt ip 0 1 = 0x45 ∧ beAt ip 6 2 % 0x4000 = 0 ∧ beAt ip 16 4 = 0x0A000001 ∧ beAt ip 9 1 = p.1 ∧
      (ip.take (beAt ip 2 2)).drop 20 = rest ∧ (p.1 = 1 → beAt rest 0 1 = 8) ∧ (p.1 = 17 → beAt rest 2 2 = dev.cfg.mgmt.udpPort.toNat)) ∧
    dev.cfg.mgmt.udpPort.toNat = 4770 ∧ (List.replicate 2046 (0 : Byte)).length ≤ 2046 ∧ 2046 < (List.replicate 2047 (0 : Byte)).length := by
  decide +kernel

/-- A keyed custodian of a provisioned device. -/
def keyed (ss : Tbl Session) : State :=
  { dev with fuses := { life := .provisioned }, heart := { keys := [(3 * 32 + 31, [7])] }, mgmt := { sessions := ss } }

theorem witness_SessionCommands_hello :
    (List.replicate 16 (0 : Byte)).length = 16 ∧ ([] : List Byte).length ≠ 16 ∧
    (keylessOpen dev = true ∧ ¬ (dev.fuses.life ≠ .blank)) ∧
    (let s := keyed []
     keylessOpen s = false ∧ s.fuses.life ≠ .blank ∧ 1 ≤ (3 : Byte).toNat ∧ (3 : Byte).toNat ≤ 3 ∧ (31 : Byte).toNat ≤ 31 ∧
     tget [] s.heart.keys (keyAt 3 31) ≠ [] ∧ tget [] s.heart.keys (keyAt 3 30) = [] ∧ (session s 15).phase = 0 ∧
     ¬ ∃ y ∈ s.mgmt.lockout, y.1 = ifaceNo .hq) ∧
    (∀ j < 16, (session (keyed ((List.range 16).map (fun k => (k, { phase := 2 })))) j).phase ≠ 0) ∧
    (ifaceNo .hq, ⟨1000, 0⟩) ∈ ({ dev with mgmt := { lockout := [(ifaceNo .hq, ⟨1000, 0⟩)] } } : State).mgmt.lockout := by decide +kernel

theorem witness_SessionCommands_sessions :
    (let s := keyed [(15, { phase := 1, iface := .hq, role := 3, keyIndex := 31 })]
     (session s 15).phase = 1 ∧ (session s 15).iface = .hq ∧ roleKey s (session s 15) ≠ []) ∧
    (let s := keyed [(15, { phase := 1, iface := .hq, role := 3, keyIndex := 30 })]
     (session s 15).phase = 1 ∧ roleKey s (session s 15) = [] ∧ (List.replicate 32 (0 : Byte)).length = 32) ∧
    (session dev 0).phase = 2 ∧ (session dev 15).phase ≠ 2 ∧ (session dev 0).iface ≠ .hq ∧ dev.power.ccDown = none ∧
    Served dev r0 0x0120 custodian ∧ dev.mgmt.after = [] ∧ 15 < (16 : Byte).toNat ∧ (15 : Byte).toNat ≤ 15 ∧
    (session { dev with mgmt := { sessions := [(0, openSess), (15, { phase := 2 })] } } 15).phase = 2 ∧ dictPresent dev = true := by
  unfold Served Heard; decide +kernel
/-- Sessions on each side of the second for PROVE and of the idle time. -/
theorem witness_SessionCommands_times :
    (∀ p ∈ [(48999, false), (49000, true)],
      let s := { keyed [(15, { phase := 1 })] with clocks := { dev.clocks with mt := ⟨BitVec.ofNat 64 p.1, 0⟩ } }
      let s := { s with mgmt := { s.mgmt with heardAt := [(15, ⟨1000, 0⟩)] } }
      (session s 15).phase = 1 ∧ passed s (heardFrom s 15) 1000 = p.2) ∧
    (∀ p ∈ [(0, false), (1, true)],
      let s := { keyed [(15, { phase := 2 })] with clocks := { dev.clocks with mt := ⟨BitVec.ofNat 64 (999 + p.1 + 48000 * dev.cfg.mgmt.idleS.toNat), 0⟩ } }
      let s := { s with mgmt := { s.mgmt with heardAt := [(15, ⟨1000, 0⟩)] } }
      (session s 15).phase = 2 ∧ passed s (heardFrom s 15) (1000 * s.cfg.mgmt.idleS.toNat) = p.2) := by decide +kernel
/-- The answer that opens a session whose role holds a key is the HMAC itself. -/
theorem witness_SessionCommands_prove :
    let s := keyed [(15, { phase := 1, iface := .hq, role := 3, keyIndex := 31 })]
    let x := session s 15
    ∃ proof : List Byte, roleKey s x ≠ [] ∧ proof = Config.hmac (roleKey s x) (label 0x43 ++ proofText 15 x) :=
  ⟨_, by decide +kernel, rfl⟩
theorem witness_SessionCommands_canon : Canon (keyed [(15, { phase := 1, iface := .hq, role := 3, keyIndex := 30 })]) :=
  canon_of (by decide +kernel)
/-- Interfaces that are off, and the session states that BYE, a lockout and the two timeouts find. -/
theorem witness_SessionCommands_off :
    (let s : State := { dev with power := { dev.power with ccDown := some 1 } }
     dictPresent s = false ∧ (session s 0).phase = 2) ∧
    ifaceOn { dev with cfg := { dev.cfg with mgmt := { dev.cfg.mgmt with hqEnable := false } } } .hq = false ∧
    (dictPresent dev = true ∧ ifaceOn dev (session dev 0).iface = true) ∧
    ((Iface.hq, (3 : Byte), (0xFF : Byte)) = (.hq, 3, 0xFF) ∧ ¬ (tget [] dev.heart.keys (keyAt 3 0xFF) ≠ [])) ∧
    (∀ l ∈ [[], [((1 : Nat), (⟨1000, 0⟩ : MT))]], ({ dev with mgmt := { lockout := l } } : State).mgmt.lockout = l) := by decide +kernel
/-- A proof of no octets is not the one expected where the session's role holds no key. -/
theorem witness_SessionCommands_wrong :
    let s := keyed [(15, { phase := 1, iface := .hq, role := 3, keyIndex := 30 })]
    let x := session s 15
    ¬ (roleKey s x ≠ [] ∧ ([] : List Byte) = Config.hmac (roleKey s x) (label 0x43 ++ proofText 15 x)) :=
  fun h => h.1 (by decide +kernel)

/-! ## Events, store, power, debug -/

/-- `dev` with its events as given. -/
def devEvents (v : Events) : State := { dev with events := v }

/-- An injection of `code` on `unit` that is due. -/
def dueInj (unit : Word) : Inj := ⟨false, unit, 0, 0, some 1, ⟨1000, 0⟩⟩

theorem witness_EventsAndInjection_records :
    eventCode 0x0000 = false ∧ (eventCode 0x2001 = true ∧ coreUp dev = true ∧ rateLimited 0x2001 = false ∧ dev.power.dev ≠ .booting) ∧
    (memoryLoc (locOf 1 0 0) = true ∧ memoryLoc (locOf 5 31 0) = true ∧ memoryLoc 0 = false) ∧
    dev.events.limits.find? (fun l => decide (l.key = 0x100E * 65536 + 0xFFFF)) = none ∧
    (∀ p ∈ [(0, 49000, true), (1, 49000, true), (1, 48999, false)],
      let l : Limit := ⟨0x100E * 65536 + 0xFFFF, p.1, ⟨1000, 0⟩, false, ⟨1000, 0⟩⟩
      let s := { devEvents { limits := [l] } with clocks := { dev.clocks with mt := ⟨BitVec.ofNat 64 p.2.1, 0⟩ } }
      s.events.limits.find? (fun l => decide (l.key = 0x100E * 65536 + 0xFFFF)) = some l ∧ passed s l.since 1000 = p.2.2) ∧
    (∀ n ∈ [0, 1, 16],
      let x : Session := { openSess with mask := 0xFFFE }
      let v : Events := { log := (List.range n).map (fun i => ⟨0x1001, 7, BitVec.ofNat 32 i, ⟨1000, 0⟩, 0, false, false⟩), nextSeq := BitVec.ofNat 32 n }
      ((v.log.filter (fun e => decide ((e.seq - x.pushedTo).toNat < (v.nextSeq - x.pushedTo).toNat))).filter (pushedTo x)).length = n) ∧
    (session dev 15).phase ≠ 2 ∧ (Heard dev r0 ∧ operator ≤ (session dev r0.sess).role ∧ dictAdmits dev 0x1100 = true) ∧
    Served dev r0 0x1180 engineer ∧ (devEvents { injOn := true }).events.injOn = true ∧ dev.events.injOn = false := by
  unfold Served Heard; decide +kernel

theorem witness_EventsAndInjection_injections :
    injectable.contains 0x2007 = true ∧ Served dev r0 (0x1180 + 0x2007 / 4096) engineer ∧
    (injectFields 0x2007 false 0 15 0 0 = true ∧ injectFields 0x2007 false 0 16 0 0 = false ∧ injectFields 0x2007 true 0 0 10 0 = true ∧
      injectFields 0x2007 true 0 0 60000 0xFFFF = true ∧ injectFields 0x2007 true 0 0 9 0 = false) ∧
    injectUnit 0x2007 31 = true ∧ injectUnit 0x2007 32 = false ∧ injectState (taken dev r0) 0x2007 31 0 = false ∧
    injectState (taken (devEng { state := .run }) r0) 0x2007 31 0 = true ∧ injAt dev 0x2007 = none ∧ armedCount dev < 16 ∧
    injAt (devEvents { injOn := true, inj := [(0x2007, some (dueInj 31))] }) 0x2007 = some (dueInj 31) ∧
    (∀ p ∈ [(0, true), (1, false)], let s := devEvents { injOn := true, injUntil := ⟨1000, BitVec.ofNat 16 p.1⟩ }
      s.events.injOn = true ∧ isDue (now s) s.events.injUntil = p.2) ∧
    isDue (now dev) (dueInj 31).fireAt = true ∧ isDue (now dev) ⟨1000, 1⟩ = false ∧ dev.power.ccDown = none ∧
    simulated.contains 0x100B = true ∧ simulated.contains 0x2007 = false ∧
    (let s : State := { devEng { state := .run } with events := { injOn := true, fired := 1, inj := [] } }
     inReaction s 0x2007 31 0 = false ∧ (eng s 31).state = .run ∧ inReaction dev 0x2007 31 0 = true) := by
  unfold Served Heard; decide +kernel

/-- `dev` with its power and flash as given. -/
def devPower (p : Power) (f : Flash) : State := { dev with power := p, flash := f }
def runP : Power := { dev := .run }

theorem witness_StoreCommands :
    dev.mgmt.after = [] ∧ Heard dev r0 ∧ engineer ≤ (session dev r0.sess).role ∧ custodian ≤ (session dev r0.sess).role ∧
    (∀ o ∈ [0x0111, 0x1210, 0x0140, 0x1200], dictAdmits dev o = true) ∧ keylessBars dev r0 = false ∧
    (dev.power.saving = false ∧ (devPower { runP with saving := true } {}).power.saving = true) ∧
    dev.flash.writing = none ∧ (∀ b : Bool, (devPower runP { writing := some {}, currentB := b }).flash.writing = some {} ∧
      (devPower runP { writing := some {}, currentB := b }).flash.currentB = b) ∧
    (∀ st ∈ [FwState.idle, .writing, .ready, .trial, .failed], (devPower { runP with fwState := st, fwIncoming := some {} } {}).power.fwState = st ∧
      coordinates (taken (devPower { runP with fwState := st } {}) r0) = false) ∧
    coordinates (taken (devGroup { state := .armed, coordinating := true }) r0) = true ∧
    (∀ p ∈ [(0, false), (1, true)],
      let s := { devPower { runP with fwState := .trial, trialAt := ⟨1000, 0⟩ } {} with
                   clocks := { dev.clocks with mt := ⟨BitVec.ofNat 64 (999 + p.1 + 48000 * dev.cfg.power.trialS.toNat), 0⟩ } }
      s.power.fwState = .trial ∧ passed s s.power.trialAt (1000 * s.cfg.power.trialS.toNat) = p.2) ∧
    fwLayout [] = false ∧ (session dev r0.sess).keyless = false ∧ (4 : Byte).toNat ≤ 4 ∧
    (mayAdvance .blank (lifeOf 1) = true ∧ mayAdvance .blank (lifeOf 2) = false ∧ mayAdvance .provisioned (lifeOf 3) = true ∧ lifeOf 3 = .returned ∧
      mayAdvance .ended (lifeOf 4) = false) := by
  unfold Heard; decide +kernel

/-- A provisioned device with two keys, one or none in the custodian set. -/
def vault (keys : Tbl (List Byte)) : State := { dev with fuses := { life := .provisioned }, heart := { keys := keys } }

theorem witness_StoreCommands_keys :
    (∀ p ∈ [(1, 31), (4, 15), (5, 31)], 1 ≤ p.1 ∧ p.1 ≤ 5 ∧ p.2 ≤ (if p.1 = 4 then 15 else 31) ∧ (List.replicate 64 (0 : Byte)).length = 64) ∧
    zeros ((List.replicate 64 (0 : Byte)).drop 40) = true ∧ zeros [0, 1] = false ∧ keysBarred dev 1 = true ∧ keysBarred (vault []) 1 = false ∧
    (tget [] (vault []).heart.keys (keyAt 3 31) = [] ∧ tget [] (vault [(3 * 32 + 31, [7])]).heart.keys (keyAt 3 31) ≠ [] ∧
      keysHeld (vault [(3 * 32 + 31, [7])]) 3 3 = 1 ∧ keysHeld (vault [(3 * 32 + 30, [7]), (3 * 32 + 31, [7])]) 3 3 ≠ 1) ∧
    Tbl.wf [] (vault [(3 * 32 + 30, [7]), (3 * 32 + 31, [7])]).heart.keys = true := by decide +kernel
theorem witness_StoreCommands_canon : Canon (vault []) := canon_of (by decide +kernel)

/-- A firmware image of the least length: header, no body, a signature. -/
def fwImage : List Byte := [0x46, 0x51, 0x46, 0x57, 0, 1, 1, 0, 0, 0, 0, 128] ++ List.replicate 116 0
theorem witness_StoreCommands_image :
    fwLayout fwImage = true ∧ fwRollback dev fwImage = true ∧ BitVec.ofNat 8 (beAt fwImage 6 1) = ownCompat dev ∧
    (devPower { runP with fwState := .ready } {}).power.fwState ≠ .writing := by decide +kernel

theorem witness_PowerCommands_requests :
    Served dev r0 0x0101 engineer ∧ Served dev r0 0x0101 custodian ∧
    (∀ d ∈ [DevState.sapling, .run, .quiet, .dormant], let s := devPower { runP with dev := d } {}
      Served s r0 0x0101 engineer ∧ s.power.dev = d ∧ s.power.wake = none ∧ dormantBars (taken s r0) = false) ∧
    (devCode .run = 2 ∧ devCode .quiet = 3 ∧ devCode .dormant = 4) ∧ dormantBars (taken (devDue (.routeAdd 0)) r0) = true ∧
    (devPower { runP with dev := .dormant, wake := some (2, ⟨1000, 0⟩) } {}).power.wake = some (2, ⟨1000, 0⟩) ∧
    (∀ p ∈ [(DevState.run, 3), (.quiet, 2), (.run, 4), (.run, 5), (.quiet, 4), (.dormant, 2), (.dormant, 3)],
      (devPower { runP with dev := p.1, pendingTo := some (p.2, ⟨1000, 0⟩) } {}).power.pendingTo = some (p.2, ⟨1000, 0⟩)) ∧
    isDue (now dev) ⟨1000, 0⟩ = true ∧ isDue (now dev) ⟨1000, 1⟩ = false ∧ dev.power.pendingTo = none ∧
    (let s : State := { devPower { runP with dev := .dormant } {} with cfg := { power := { wakeGpio := 13, wakeEdge := 1 } } }
     s.power.dev = .dormant ∧ s.power.wake = none ∧ s.cfg.power.wakeGpio.toNat = 13 ∧ s.cfg.power.wakeEdge = 1) ∧
    (∀ d ∈ [1919, 1920], isDue ⟨BitVec.ofNat 64 (1000 + d), 0⟩ (mtPlus ⟨1000, 0⟩ (msUnits dev 40)) = decide (d = 1920)) := by
  unfold Served Heard; decide +kernel

theorem witness_PowerCommands_monitors :
    (dev.power.brown = false ∧ (devPower { runP with brown := true } {}).power.brown = true) ∧ dev.power.rstLow = false ∧ dev.mgmt.after = [] ∧
    (State.reset.power.dev = .booting ∧ State.reset.power.held = false ∧ bootSlot State.reset false false = none ∧
      bootSlot State.reset true true = some false ∧ bootSlot State.reset false true = some true) ∧
    (currentStore (devPower {} { storeA := { valid := true } })).valid = true ∧ (currentStore State.reset).valid = false ∧
    dev.power.held = false ∧ dev.power.vcoreMv = 780 ∧ (devPower { runP with vcoreMv := 775 } {}).power.vcoreMv ≠ 780 ∧ running dev = true ∧
    dev.clocks.scpllLock = true ∧ sclkDivided dev = false ∧
    (375 ≤ (375 : Long).toNat ∧ (625 : Long).toNat ≤ 625 ∧ (374 : Long).toNat < 375 ∧ 625 < (626 : Long).toNat) ∧
    (-55 ≤ (-55 : Word).toInt ∧ (125 : Word).toInt ≤ 125 ∧ (-56 : Word).toInt < -55 ∧ 125 < (126 : Word).toInt ∧ 105 ≤ (105 : Word).toInt ∧
      (104 : Word).toInt < 105) ∧ dev.power.tjArmed = true ∧
    coreUp dev = true ∧ (mismatchWindow (devEvents { window := List.replicate 3 ⟨1000, 0⟩ })).length < 4 ∧
    4 ≤ (mismatchWindow (devEvents { window := List.replicate 4 ⟨1000, 0⟩ })).length ∧ dev.power.fwState ≠ .trial ∧
    (let p : Power := { runP with ccDown := some 3 }
     (devPower p {}).power.ccDown = some 3 ∧ p.dev ≠ .fault ∧ p.dev ≠ .booting ∧ p.held = false ∧ (devPower p {}).clocks.scpllLock = true) := by
  decide +kernel
/-- Fades of QUIET, banks of each voltage, and restarts of the control core that end and that stay. -/
theorem witness_PowerCommands_times :
    (∀ p ∈ [(937, false), (936, true)],
      let s := devPower { runP with dev := .quiet, quietAt := ⟨BitVec.ofNat 64 p.1, 0⟩, pendingTo := some (4, ⟨1000, 0⟩) } {}
      s.power.dev = .quiet ∧ s.power.pendingTo = some (4, ⟨1000, 0⟩) ∧ isDue (now s) (mtPlus s.power.quietAt (64 * 65536)) = p.2) ∧
    (State.reset.power.bankMv = [] ∧ (devPower { runP with bankMv := [(3, 1800)] } {}).power.bankMv ≠ [] ∧
      ∀ mv ∈ [1800, 2500, 3300], tget 0 (devPower { runP with bankMv := [(2, mv)] } {}).power.bankMv 2 = mv) ∧
    (∀ p ∈ [(96999, false), (97000, true)],
      let s := { devPower { runP with ccDown := some 1, fwState := .trial, ccAt := ⟨1000, 0⟩ } {} with
                   clocks := { dev.clocks with mt := ⟨BitVec.ofNat 64 p.1, 0⟩ } }
      s.power.ccDown = some 1 ∧ s.power.fwState = .trial ∧ passed s s.power.ccAt 2000 = p.2) ∧
    (∀ c ∈ [1, 2, 5], (devPower { dev := .fault, faultCause := c, ccDown := some 1 } {}).power.ccDown = some 1) ∧
    (let s := { devPower { runP with ccDown := some 3 } {} with clocks := { dev.clocks with scpllLock := false } }
     s.power.ccDown = some 3 ∧ s.clocks.scpllLock = false) := by decide +kernel

theorem witness_DebugCommands :
    (∀ b < 32, ∀ q ∈ (bank dev b).queue, q.who ≠ 6) ∧ debugOpen dev = true ∧ debugOpen { dev with fuses := { life := .deployed } } = false ∧
    ((31 : Byte).toNat < 32 ∧ ¬ ((32 : Byte).toNat < 32)) ∧
    (∀ st ∈ [EngState.run, .sapling, .debug, .halted, .idle], (eng (devEng { state := st, running := true, haltByDebug := true }) 31).state = st) ∧
    ((0x3FFF : BitVec 24).toNat < 0x4000 ∧ ¬ ((0x4000 : BitVec 24).toNat < 0x4000 ∨ (0x4000 : BitVec 24) = 0xFFFF)) ∧
    (debugWritable 0x7F00 256 = true ∧ debugWritable 0x7F01 256 = false ∧ debugWritable 0xB3FF 1 = true) ∧
    ((0xFFFF00 : BitVec 24).toNat / 0x80000 = 31 ∧ (0xFFFF00 : BitVec 24).toNat % 0x80000 + 256 ≤ 0x80000 ∧ (bank dev 31).kind = 0) ∧
    ((0x2D : BitVec 24).toNat < 0x2E ∧ (0x7FFF : BitVec 24).toNat < 0x8000 ∧ eccMark dev (locOf 2 31 0x7FFF) = 0 ∧
      eccMark dev (locOf 1 31 0x3FFF) = 0) := by decide +kernel
theorem witness_DebugCommands_port :
    dev.jtag.xfer = none ∧
    (∀ l ∈ [[], [1], [1, 2]], let x : DbgXfer := ⟨false, 0x10, 31, 0, l.length, l.map (BitVec.ofNat 32), []⟩
      ({ dev with jtag := { xfer := some x } } : State).jtag.xfer = some x ∧ x.write = false ∧ x.values.length = l.length) ∧
    (let x : DbgXfer := ⟨true, 0x11, 31, 0x7FFF, 1, [], []⟩
     ({ devEng { state := .sapling } with jtag := { xfer := some x } } : State).jtag.xfer = some x ∧ x.write = true ∧ x.op = 0x11 ∧
     writesData (eng (devEng { state := .sapling }) x.unit) = true) ∧
    (let s : State := { dev with fuses := { life := .deployed }, jtag := { nonce := some [1] } }
     s.fuses.life = .deployed ∧ s.jtag.nonce = some [1]) ∧
    (let s : State := { dev with fuses := { life := .deployed } }
     s.fuses.life = .deployed ∧ s.jtag.nonce = none ∧ s.jtag.nonceUsed = false) ∧ dev.fuses.life ≠ .deployed ∧
    (∀ p ∈ [(48999, false), (49000, true)],
      let s : State := { dev with jtag := { nonceUsed := true, failAt := ⟨1000, 0⟩ }, clocks := { dev.clocks with mt := ⟨BitVec.ofNat 64 p.1, 0⟩ } }
      s.jtag.nonceUsed = true ∧ passed s s.jtag.failAt 1000 = p.2) ∧
    ({ dev with jtag := { scanHold := true } } : State).jtag.scanHold = true ∧ dev.jtag.scanHold = false ∧
    selectIr dev 0x12 = { dev with jtag := { dev.jtag with ir := 0x12 } } := by decide +kernel
/-- Each class of debug command inside and outside its range and in states that take it and that do not. -/
theorem witness_DebugCommands_checks :
    (∀ b < 32, ∀ q ∈ (bank (selectIr dev 0x12) b).queue, q.who = 6 → q.write ≠ none) ∧
    (∀ st ∈ [EngState.debug, .halted], let e := eng (devEng { state := st, haltByDebug := false }) 31
      (e.state = .debug ∨ e.state = .halted) ∧ ¬ (e.state = .halted ∧ e.haltByDebug = true)) ∧
    (let e := eng (devEng { state := .sapling }) 31
     ¬ (e.state = .run ∨ (e.state = .sapling ∧ e.running = true)) ∧ ¬ (e.state = .debug ∨ e.state = .halted)) ∧
    (regsThere 64 0 46 = true ∧ regsThere 64 0x2D 1 = true ∧ regsThere 64 0xFF 2 = false ∧ (0xFF : BitVec 24).toNat < 0x100) ∧
    (regTransfers 0x3B ≠ 0 ∧ ((List.range 0).map (fun j => regTransfers (0x3B + j))).sum < (0 : Byte).toNat + 1) ∧
    ((0 : BitVec 24) &&& 0xFEC000 = 0 ∧ (0x13FFF : BitVec 24) &&& 0xFEC000 = 0 ∧ (0x4000 : BitVec 24) &&& 0xFEC000 ≠ 0 ∧
      (0x10000 : BitVec 24).getLsbD 16 = true) ∧
    ((0xFFFF : BitVec 24).toNat < 0x10000 ∧ ¬ ((0x10000 : BitVec 24).toNat < 0x10000)) ∧
    ((0xFFFFFF : BitVec 24).toNat % 0x80000 + 1 ≤ 0x80000 ∧ ¬ ((0xFFFFFF : BitVec 24).toNat % 0x80000 + 2 ≤ 0x80000)) ∧
    (bank (devEng {}) 31).kind = 0 ∧ (bank { dev with mem := { banks := [(31, { kind := 1 })] } } 31).kind ≠ 0 := by decide +kernel
/-- Write transfers of each kind, with a register of several transfers in its middle and at its end. -/
theorem witness_DebugCommands_writes :
    (∀ p ∈ [((0x11 : Nat), (0x7F00 : Nat), ([] : List Long)), (0x13, 0x2D, []), (0x21, 0xF8000, [])],
      let x : DbgXfer := ⟨true, p.1, 31, p.2.1, 2, p.2.2, []⟩
      let s : State := { devEng { state := .halted } with jtag := { xfer := some x } }
      (selectIr s 0x13).jtag.xfer = some x ∧ x.write = true ∧ writesRegs (eng (selectIr s 0x13) 31) = true ∧
      ¬ ∃ q ∈ (bank (selectIr s 0x13) 31).queue, q.who = 6) ∧
    (∃ a < 0x100, ([0] : List Long).length < regTransfers a ∧ regTransfers a ≤ ([0, 0] : List Long).length) ∧
    regTransfers 0x2D ≤ ([0] : List Long).length := by decide +kernel
/-- The selections: listed codes and one that is not, with and without a hold of boundary scan. -/
theorem witness_DebugCommands_selects :
    (∀ c ∈ [(1 : BitVec 5), 2, 0x10, 0x14], c ≠ 0 ∧ c ≠ 3 ∧ (c.toNat = 1 ∨ c.toNat = 2 ∨ (0x10 ≤ c.toNat ∧ c.toNat ≤ 0x14))) ∧
    (let c : BitVec 5 := 0x15; c ≠ 0 ∧ c ≠ 3 ∧ ¬ (c.toNat = 1 ∨ c.toNat = 2 ∨ (0x10 ≤ c.toNat ∧ c.toNat ≤ 0x14))) := by decide +kernel

/-! ## The whole machine -/

theorem witness_StepRunsFront : ({ State.reset with pending := [Instr.por, .status] } : State).pending = [.por, .status] := rfl
theorem witness_QueueUntouched :
    State.reset.pending = [] ∧ Heard dev r0 ∧
    ∃ f, (fun s => (gateFails s r0 { obj := 0, role := 4 }).map (·, (0 : Byte))) (taken dev r0) = some f :=
  ⟨rfl, by unfold Heard; decide, _, rfl⟩
/-- A device in ENDED, its tamper count at the top, with no advance waiting. -/
theorem witness_FusesOnlyBurn :
    let s : State := { dev with fuses := { life := .ended, tamperCount := 255 } }
    s.fuses.tamperCount ≤ 255 ∧ (∃ t, step s = .next t) ∧ s.fuses.life = .ended ∧ ∀ a ∈ s.mgmt.after, ∀ x, a ≠ .advance x :=
  ⟨by decide, ⟨_, rfl⟩, rfl, fun _ h => nomatch h⟩
theorem witness_CanonKept : Canon { dev with pending := [.scheduleLock] } ∧ ∃ t, step { dev with pending := [.scheduleLock] } = .next t :=
  ⟨canon_of (by decide +kernel), _, rfl⟩

end Sys2Proof.Tests
end

section
/-! Exchange routes: what a served ROUTE.REQUEST answers, and the statement about its three operations (R31, R33, R71). -/
namespace Sys2Proof.Machine

/-! ### A write of ROUTE.REQUEST -/

theorem routeCmd_ok {s t : State} {r : Req} {k : Nat} {body} (h : Served s r (0x6000 + k) engineer) (hk : k < 8192)
    (e : body (taken s r) = .ok t) : routeCmd s r k body = .next (sendReply t r 2 1 eOK 0xFF []) := by
  unfold routeCmd ok
  rw [decide_eq_true hk]
  refine congrArg _ ((writeCmd_served h { obj := 0x6000 + k, role := engineer } body rfl rfl rfl).trans ?_)
  rw [e]; rfl

theorem routeCmd_error {s : State} {r : Req} {k : Nat} {body c} (h : Served s r (0x6000 + k) engineer) (hk : k < 8192)
    (e : body (taken s r) = .error c) : routeCmd s r k body = .next (sendReply (taken s r) r 2 1 c 0 []) := by
  unfold routeCmd ok
  rw [decide_eq_true hk]
  refine congrArg _ ((writeCmd_served h { obj := 0x6000 + k, role := engineer } body rfl rfl rfl).trans ?_)
  rw [e]; rfl

/-- R33: the table ends at entry 8,191. -/
theorem routeCmd_noObject {s : State} {r : Req} {k : Nat} (body) (h : Heard s r) (hk : 8192 ≤ k) :
    routeCmd s r k body = .next (sendReply (taken s r) r 2 1 eNoObject 0 []) := by
  unfold routeCmd ok writeAt
  rw [decide_eq_false (Nat.not_lt.mpr hk), runRequest_heard h]
  rfl

/-! ### What taking a request from its queue leaves to the checks -/

theorem taken_epRange (s : State) (r : Req) (v : Long) (n : Nat) (d : Bool) : epRange (taken s r) v n d = epRange s v n d := by
  unfold epRange; rw [taken_rbCfg]
theorem taken_epBoundary (s : State) (r : Req) (v : Long) (t : MT) : epBoundary (taken s r) v t = epBoundary s v t := by
  unfold epBoundary engBoundary; rw [taken_engClass]
theorem taken_epSapling (s : State) (r : Req) (v : Long) : epSapling (taken s r) v = epSapling s v := by
  unfold epSapling; rw [taken_eng]
theorem taken_dormant (s : State) (r : Req) : dormant (taken s r) = dormant s := rfl
theorem taken_schedTaken (s : State) (r : Req) (t : MT) (a : SchedAct) : schedTaken (taken s r) t a = schedTaken s t a := rfl
theorem taken_schedRoom (s : State) (r : Req) (n : Nat) : schedRoom (taken s r) n = schedRoom s n := rfl
theorem taken_routeMoves (s : State) (r : Req) (a b : Long) (c n : Nat) : routeMoves (taken s r) a b c n = routeMoves s a b c n := rfl
theorem taken_destFed (s : State) (r : Req) (v : Long) (n : Nat) (t : MT) (x y : Option Nat) :
    destFed (taken s r) v n t x y = destFed s v n t x y := rfl

/-! ### The three operations -/

section
variable {s : State} {r : Req} {k : Nat} {t : MT} (h : Served s r (0x6000 + k) engineer) (hk : k < 8192)
include h hk

/-- R31: an ADD that every step of R456 passes arms a FREE entry. -/
theorem routeAdd_armed {cls : Byte} {channels : Word} {src dst : Endpoint} (hc : cls.toNat ≤ 9) (h1 : 1 ≤ channels.toNat)
    (h2 : channels.toNat ≤ 1024) (ha : epRange s (epLong src) channels.toNat false = true)
    (hb : epRange s (epLong dst) channels.toNat true = true) (hp : isPeriod t = true)
    (hba : epBoundary s (epLong src) t = true) (hbb : epBoundary s (epLong dst) t = true) (ht : inTime (now s) t = true)
    (hx : (route s k).state = .free) (hsa : epSapling s (epLong src) = false) (hsb : epSapling s (epLong dst) = false)
    (hd : dormant s = false)
    (had : routeAdmit (taken s r) k (epLong src) (epLong dst) cls.toNat channels.toNat t (.routeAdd k) = none) :
    Accepts (.routeAdd r k cls channels src dst t) s r (setRoute (schedAdd (taken s r) t [.routeAdd k]) k
      { state := .armed, source := epLong src, dest := epLong dst, channels := channels.toNat, cls := cls.toNat
        moves := routeMoves s (epLong src) (epLong dst) cls.toNat channels.toNat, target := some t, result := eOK }) := by
  refine routeCmd_ok h hk ?_
  have hz : channels.toNat ≠ 0 := Nat.ne_of_gt h1
  simp only [taken_epRange, taken_epBoundary, taken_epSapling, taken_dormant, taken_now, taken_route, had, ha, hb, hp, hba, hbb,
    ht, hx, hsa, hsb, hd, hz, Nat.not_lt.mpr hc, Nat.not_lt.mpr h2, decide_false, Bool.or_false, Bool.not_true,
    Bool.false_eq_true, if_false, ne_eq, not_true]
  rfl

theorem routeRemove_late (hp : isPeriod t = true) (ha : epBoundary s (route s k).source t = true)
    (hb : epBoundary s (route s k).dest t = true) (ht : inTime (now s) t = false) : Refuses (.routeRemove r k t) s r eLate := by
  refine routeCmd_error h hk ?_
  simp only [taken_epBoundary, taken_now, taken_route, hp, ha, hb, ht, Bool.or_false, Bool.not_true, Bool.not_false,
    Bool.false_eq_true, if_false, if_true]

theorem routeCancel_late (hp : isPeriod t = true) (ha : epBoundary s (route s k).source t = true)
    (hb : epBoundary s (route s k).dest t = true) (ht : inTime (now s) t = false) : Refuses (.routeCancel r k t) s r eLate := by
  refine routeCmd_error h hk ?_
  simp only [taken_epBoundary, taken_now, taken_route, hp, ha, hb, ht, Bool.or_false, Bool.not_true, Bool.not_false,
    Bool.false_eq_true, if_false, if_true]

variable (hp : isPeriod t = true) (ha : epBoundary s (route s k).source t = true) (hb : epBoundary s (route s k).dest t = true)
  (ht : inTime (now s) t = true) (hsa : epSapling s (route s k).source = false) (hsb : epSapling s (route s k).dest = false)
include hp ha hb ht hsa hsb

/-- R31: a REMOVE arms the removal of an ACTIVE route. -/
theorem routeRemove_armed (hx : (route s k).state = .active) (hd : dormant s = false)
    (hf : schedTaken s t (.routeRemove k) = false) (hr : schedRoom s 1 = true) :
    Accepts (.routeRemove r k t) s r (setRoute (schedAdd (taken s r) t [.routeRemove k]) k
      { route s k with state := .removing, target := some t, result := eOK }) := by
  refine routeCmd_ok h hk ?_
  simp only [taken_epBoundary, taken_epSapling, taken_dormant, taken_now, taken_route, taken_schedTaken, taken_schedRoom, hp, ha, hb,
    ht, hx, hsa, hsb, hd, hf, hr, decide_false, Bool.or_false, Bool.not_true, Bool.false_eq_true, if_false, ne_eq, not_true]

variable (hg : (route s k).target = some t)
include hg

/-- R71: a CANCEL of an armed ADD leaves the entry FREE. -/
theorem routeCancel_armed (hx : (route s k).state = .armed) : Accepts (.routeCancel r k t) s r
    (setRoute (schedDrop (taken s r) (fun y => decide (y.target = t) && sameItem y.act (.routeAdd k))) k { result := eOK }) := by
  refine routeCmd_ok h hk ?_
  simp only [taken_epBoundary, taken_epSapling, taken_now, taken_route, hp, ha, hb, ht, hx, hsa, hsb, hg, decide_false,
    Bool.or_false, Bool.not_true, Bool.false_eq_true, if_false, if_true, ne_eq, not_true]

/-- R71: a CANCEL of an armed REMOVE leaves the route ACTIVE, where it is admitted again. -/
theorem routeCancel_removing (hx : (route s k).state = .removing)
    (hf : destFed s (route s k).dest (route s k).channels t (some k) none = false)
    (hm : admits (taken s r) t (some k) (routeLoads (route s k).source (route s k).dest (route s k).cls (route s k).channels) = true) :
    Accepts (.routeCancel r k t) s r
      (setRoute (schedDrop (taken s r) (fun y => decide (y.target = t) && sameItem y.act (.routeAdd k))) k
        { route s k with state := .active, target := none, result := eOK }) := by
  refine routeCmd_ok h hk ?_
  simp only [taken_epBoundary, taken_epSapling, taken_now, taken_route, taken_destFed, hp, ha, hb, ht, hx, hsa, hsb, hg, hf, hm, decide_false,
    Bool.or_false, Bool.not_true, Bool.false_eq_true, if_false, reduceCtorEq, ne_eq, not_true]

end

/-- Settles O23: an entry beyond the table is refused by the gate; for one that exists each operation's body is taken through its checks. -/
theorem routeRequests : Obligations.RouteRequests := by
  unfold Obligations.RouteRequests
  intro s r k cls channels src dst t
  refine ⟨fun h hk => ⟨routeCmd_noObject _ h hk, routeCmd_noObject _ h hk, routeCmd_noObject _ h hk⟩, fun h hk => ⟨?_, ?_, ?_, ?_⟩⟩
  · exact routeAdd_armed h hk
  · rintro ⟨hp, ha, hb⟩ ht hx hsa hsb
    exact routeRemove_armed h hk hp ha hb ht hsa hsb hx
  · rintro ⟨hp, ha, hb⟩ ht hg hsa hsb
    exact ⟨routeCancel_armed h hk hp ha hb ht hsa hsb hg, routeCancel_removing h hk hp ha hb ht hsa hsb hg⟩
  · rintro ⟨hp, ha, hb⟩ ht
    exact ⟨routeRemove_late h hk hp ha hb ht, routeCancel_late h hk hp ha hb ht⟩

end Sys2Proof.Machine
end

section
/-! The router's windows: a stream that was freed is presented until its boundary, and what it presents is kept with it (R28, R63). -/
namespace Sys2Proof.Machine

/-- A running device whose entry 8,191 was freed and goes on until media time 2,048: a subscription of one channel, in effect. -/
def freedRunning : State :=
  { State.reset with
    clocks := { mt := ⟨1000, 0⟩, gateOpen := true }
    power := { dev := .run }
    leaving := [⟨8191, { state := .running, receiver := true, sdef := { cls := 3, channels := 1 } }, ⟨2048, 0⟩⟩] }

/-- How many presented samples each freed stream keeps for the router. -/
def leavingReady (s : State) : List Nat := s.leaving.map (·.stream.ready.length)

/-- The leaving streams' presented samples after an outcome. -/
def readyAfter : Outc → List Nat
  | .next t => leavingReady t
  | _ => []

/-- Window 0 presents the freed stream: its sample of this base period is kept in `leaving`. -/
theorem routerWindow_presents_leaving : readyAfter (exec (.routerWindow 0) freedRunning) = [1] := by decide +kernel

/-- Refutes O36: the statement lists the freed streams (`leaving`) as untouched by a window, and at window 0 of `freedRunning` the router
presents one, which keeps the sample presented and had kept none before. -/
theorem not_routerMoves : ¬ Obligations.RouterMoves := by
  unfold Obligations.RouterMoves
  intro h
  obtain ⟨⟨t, ht, hframe, _⟩, _⟩ := h freedRunning 0
  have hready : leavingReady t = [1] := by
    have := routerWindow_presents_leaving
    rwa [ht] at this
  have hnone : leavingReady t = [0] := congrArg leavingReady hframe
  exact absurd (hready.symm.trans hnone) (by decide)

end Sys2Proof.Machine
end

section
/-! What an engine word leaves unchanged: the relation `LeavesRest` between the state before and after, kept by each operation a word is
made of (R17, R140, R141). -/
namespace Sys2Proof.Machine

/-- From `s` to `t` nothing changed but engine `n`, the contents of memories, their ECC records, the events, and idle input buffers. Reads
of engines and banks that were written speak of canonical tables, which stay canonical. -/
structure LeavesRest (n : Nat) (s t : State) : Prop where
  frame : { t with engines := s.engines, mem := s.mem, events := s.events } = s
  patrol : t.mem.patrol = s.mem.patrol
  engines : Tbl.wf {} s.engines = true →
    Tbl.wf {} t.engines = true ∧ ∀ k, k ≠ n → { eng t k with inAlt := (eng s k).inAlt } = eng s k
  cross : ∀ k, k ≠ n → (cross t k).mem = (cross s k).mem
  banks : Tbl.wf {} s.mem.banks = true → Tbl.wf {} t.mem.banks = true ∧ ∀ b, { bank t b with mem := (bank s b).mem } = bank s b

variable {n : Nat} {s t u : State}

theorem LeavesRest.refl (n : Nat) (s : State) : LeavesRest n s s := ⟨rfl, rfl, fun h => ⟨h, fun _ _ => rfl⟩, fun _ _ => rfl, fun h => ⟨h, fun _ => rfl⟩⟩

theorem LeavesRest.trans (h : LeavesRest n s t) (h' : LeavesRest n t u) : LeavesRest n s u where
  frame := by rw [← h.frame, ← h'.frame]
  patrol := h'.patrol.trans h.patrol
  engines w := by
    obtain ⟨w1, e1⟩ := h.engines w
    obtain ⟨w2, e2⟩ := h'.engines w1
    exact ⟨w2, fun k hk => by rw [← e1 k hk, ← e2 k hk]⟩
  cross k hk := (h'.cross k hk).trans (h.cross k hk)
  banks w := by
    obtain ⟨w1, e1⟩ := h.banks w
    obtain ⟨w2, e2⟩ := h'.banks w1
    exact ⟨w2, fun b => by rw [← e1 b, ← e2 b]⟩

theorem leaves_ite {c : Prop} [Decidable c] {a b : State} (ha : LeavesRest n s a) (hb : LeavesRest n s b) :
    LeavesRest n s (if c then a else b) := by split <;> assumption

theorem leaves_foldl {α : Type} {f : State → α → State} (hf : ∀ u x, LeavesRest n u (f u x)) (l : List α) :
    ∀ {u}, LeavesRest n s u → LeavesRest n s (l.foldl f u) := by
  induction l with
  | nil => exact id
  | cons x l ih => exact fun h => ih (h.trans (hf _ x))

/-! ### Writes of the tables -/

/-- An update of the state's tables of memory words, ECC records and events alone. -/
theorem leaves_records (h : LeavesRest n s u) (he : t.engines = u.engines) (hb : t.mem.banks = u.mem.banks) (hc : t.mem.cross = u.mem.cross)
    (hp : t.mem.patrol = u.mem.patrol) (hf : { t with engines := u.engines, mem := u.mem, events := u.events } = u) : LeavesRest n s t :=
  h.trans {
    frame := hf
    patrol := hp
    engines := fun w => by
      refine ⟨he ▸ w, fun k _ => ?_⟩
      have e : eng t k = eng u k := by unfold eng; rw [he]
      rw [e]
    cross := fun k _ => by
      have e : Machine.cross t k = Machine.cross u k := by unfold Machine.cross; rw [hc]
      rw [e]
    banks := fun w => by
      refine ⟨hb ▸ w, fun b => ?_⟩
      have e : bank t b = bank u b := by unfold bank; rw [hb]
      rw [e] }

theorem leaves_modEng (h : LeavesRest n s u) (f : Engine → Engine) : LeavesRest n s (modEng u n f) :=
  h.trans ⟨rfl, rfl, fun w => ⟨setEng_wf n _ w, fun k hk => by rw [eng_modEng_ne _ _ hk]⟩, fun _ _ => rfl, fun w => ⟨w, fun _ => rfl⟩⟩

theorem leaves_putIn (h : LeavesRest n s u) (d i : Nat) (v : Long) : LeavesRest n s (putIn u d i v) := by
  refine h.trans ⟨rfl, rfl, fun w => ⟨setEng_wf d _ w, fun k _ => ?_⟩, fun _ _ => rfl, fun w => ⟨w, fun _ => rfl⟩⟩
  by_cases hd : k = d
  · subst hd; unfold putIn; rw [eng_modEng_self _ _ w]
  · unfold putIn; rw [eng_modEng_ne _ _ hd]

theorem leaves_setCross (h : LeavesRest n s u) (v : Cross) : LeavesRest n s (setCross u n v) :=
  h.trans ⟨rfl, rfl, fun w => ⟨w, fun _ _ => rfl⟩, fun k hk => by rw [cross_setCross_ne _ _ hk], fun w => ⟨w, fun _ => rfl⟩⟩

theorem leaves_setBank (h : LeavesRest n s u) (b : Nat) (m : Tbl Word) : LeavesRest n s (setBank u b { bank u b with mem := m }) := by
  refine h.trans ⟨rfl, rfl, fun w => ⟨w, fun _ _ => rfl⟩, fun _ _ => rfl, fun w => ⟨setBank_wf b _ w, fun k => ?_⟩⟩
  by_cases hd : k = b
  · subst hd; rw [bank_setBank_self _ _ w]
  · rw [bank_setBank_ne _ _ hd]

theorem leaves_detectAs (h : LeavesRest n s u) (c k : Nat) (a : Long) (i : Bool) : LeavesRest n s (detectAs u c k a i) :=
  leaves_records h (by simp) (by simp) (by simp) (by simp) (by simp)

theorem leaves_clearMark (h : LeavesRest n s u) (l : Nat) : LeavesRest n s (clearMark u l) := leaves_records h rfl rfl rfl rfl rfl

theorem leaves_eccDetect (h : LeavesRest n s u) (b : Bool) (l : Nat) (i : Bool := false) : LeavesRest n s (eccDetect u b l i) := by
  unfold eccDetect
  refine leaves_detectAs ?_ _ _ _ _
  cases b
  · exact leaves_records h rfl rfl rfl rfl rfl
  · exact leaves_records h rfl rfl rfl rfl rfl

theorem leaves_eccRead (h : LeavesRest n s u) (l : Nat) : LeavesRest n s (eccRead u l) := by
  unfold eccRead
  split
  · exact h
  · exact leaves_eccDetect h _ _
  · exact leaves_eccDetect h _ _

theorem leaves_modCtx (h : LeavesRest n s u) (f : Ctx → Ctx) : LeavesRest n s (modCtx u n f) := leaves_modEng h _

theorem leaves_portAcc (h : LeavesRest n s u) (w : Nat) (v : Word) (x : Option Word) (a : Bool) : LeavesRest n s (portAcc u n w v x a) :=
  leaves_setCross h _

/-! ### Stores and reads -/

theorem leaves_mirrorOut (h : LeavesRest n s u) (m i : Nat) (v : Long) : LeavesRest n s (mirrorOut u m i v) := by
  unfold mirrorOut
  exact leaves_foldl (fun u _ => leaves_ite (leaves_putIn (.refl n u) _ _ _) (.refl n u)) _ h

theorem leaves_storeWord (h : LeavesRest n s u) (a v : Word) : LeavesRest n s (storeWord u n a v) := by
  unfold storeWord
  refine leaves_ite (leaves_modEng (leaves_clearMark h _) _) (leaves_ite (leaves_modEng h _) (leaves_ite ?_ (leaves_ite ?_ ?_)))
  · exact leaves_setCross (leaves_portAcc (leaves_clearMark h _) _ _ _ _) _
  · exact leaves_modEng h _
  · exact leaves_modEng h _

theorem leaves_storeAll (h : LeavesRest n s u) (l : List (Word × Word)) : LeavesRest n s (storeAll u n l) := by
  unfold storeAll
  refine leaves_foldl (fun u _ => ?_) _ (leaves_foldl (fun u _ => leaves_storeWord (.refl n u) _ _) _ h)
  exact leaves_ite (leaves_mirrorOut (.refl n u) _ _ _) (.refl n u)

theorem leaves_noteLoads (h : LeavesRest n s u) (f : Eff) : LeavesRest n s (noteLoads u n f) := by
  have read (l : List Nat) {u} (h : LeavesRest n s u) : LeavesRest n s (l.foldl eccRead u) :=
    leaves_foldl (fun u x => leaves_eccRead (.refl n u) x) l h
  unfold noteLoads
  refine read _ ?_
  refine leaves_foldl (fun u a => ?_) _ h
  have hr : LeavesRest n u ((eccLocs u n a).foldl eccRead u) := leaves_foldl (fun u x => leaves_eccRead (.refl n u) x) _ (.refl n u)
  exact leaves_ite (leaves_portAcc hr _ _ _ _) (leaves_ite (leaves_modEng hr _) hr)

theorem leaves_delayWrite (h : LeavesRest n s u) (k : Nat) (v : Long) : LeavesRest n s (delayWrite u n k v) := leaves_setBank h _ _

/-! ### Landing -/

theorem leaves_applyAct (h : LeavesRest n s u) (f : Flight) : LeavesRest n s (applyAct u n f) := by
  unfold applyAct
  cases f.act with
  | setAov k =>
    dsimp only
    generalize hu : modCtx u n (fun c => wW c codeST (stSet (st c) k true)) = v
    have hv : LeavesRest n s v := hu ▸ leaves_modCtx h _
    exact leaves_ite hv (leaves_detectAs (leaves_modEng hv _) _ _ _ _)
  | atomCross swap a op reg =>
    refine leaves_modCtx (leaves_setCross (leaves_portAcc (leaves_portAcc ?_ _ _ _ _) _ _ _ _) _) _
    exact leaves_foldl (fun u _ => leaves_clearMark (leaves_eccRead (.refl n u) _) _) _ h
  | atomDls swap b a op reg => exact leaves_modCtx (leaves_setBank h _ _) _
  | _ => exact leaves_modCtx h _

theorem leaves_landFuel (c : Nat) : ∀ (k : Nat) {u}, LeavesRest n s u → LeavesRest n s (landFuel k u n c)
  | 0, _, h => h
  | k + 1, u, h => by
    rw [landFuel]
    split
    · exact h
    · exact leaves_landFuel c k (leaves_applyAct (leaves_modCtx h _) _)

theorem leaves_landUpTo (h : LeavesRest n s u) (c : Nat) : LeavesRest n s (landUpTo u n c) := leaves_landFuel c _ h

/-! ### Register moves -/

theorem leaves_saveRegs (l : List (Nat × Word)) : ∀ {u} (t : Nat), LeavesRest n s u → LeavesRest n s (saveRegs u n l t) := by
  induction l with
  | nil => exact fun _ h => h
  | cons x l ih => exact fun t h => ih (t + 1) (leaves_storeAll (leaves_landUpTo h _) _)

theorem leaves_restoreRegs (iss : Nat) (l : List (Nat × Word)) :
    ∀ {u} (t : Nat), LeavesRest n s u → LeavesRest n s (restoreRegs u n iss l t) := by
  induction l with
  | nil => exact fun _ h => h
  | cons x l ih =>
    exact fun t h => ih (t + 1) (leaves_landUpTo (leaves_modCtx (leaves_noteLoads (leaves_landUpTo h _) _) _) _)

theorem leaves_moveRegs (h : LeavesRest n s u) (t : Nat) (x : Option Xfer) : LeavesRest n s (moveRegs u n t x) := by
  unfold moveRegs
  split
  · exact leaves_saveRegs _ _ h
  · exact leaves_restoreRegs _ _ _ h
  · exact h

/-! ### Ends, faults, the next word -/

theorem leaves_switchRun (h : LeavesRest n s u) : LeavesRest n s (switchRun u n) := by
  unfold switchRun
  exact leaves_modEng (leaves_landUpTo h _) _

theorem leaves_haltAt (h : LeavesRest n s u) (pc : Nat) (d : Bool := false) : LeavesRest n s (haltAt u n pc d) :=
  leaves_modEng (leaves_landUpTo h _) _

theorem leaves_stepOver (h : LeavesRest n s u) : LeavesRest n s (stepOver u n) := leaves_ite (leaves_modEng (leaves_haltAt h _ _) _) h

theorem leaves_afterStep (h : LeavesRest n s u) : LeavesRest n s (afterStep u n) := leaves_ite (leaves_haltAt h _ _) h

theorem leaves_engFault (h : LeavesRest n s u) (f : Flt) (i : Bool := false) : LeavesRest n s (engFault u n f i) := by
  have hm : LeavesRest n s (moveRegs u n (eng u n).ctx.cycle (eng u n).ctx.xfer) := leaves_moveRegs h _ _
  unfold engFault
  dsimp only
  split
  · exact leaves_ite (leaves_detectAs (leaves_modEng (leaves_modEng hm _) _) _ _ _ _)
      (leaves_switchRun (leaves_modEng (leaves_detectAs (leaves_modEng hm _) _ _ _ _) _))
  · exact leaves_ite (leaves_haltAt (leaves_detectAs (leaves_modEng hm _) _ _ _ _) _ _)
      (leaves_stepOver (leaves_modEng (leaves_detectAs (leaves_modEng hm _) _ _ _ _) _))

theorem leaves_transfer (h : LeavesRest n s u) (a t : Nat) (x : Xfer) : LeavesRest n s (transfer u n a t x) := by
  have hm := leaves_moveRegs (leaves_modCtx h (fun c => { c with xfer := none })) t (some x)
  unfold transfer
  cases x with
  | call target ret mask low => exact leaves_modCtx hm _
  | ret target mask low inh => exact leaves_ite (leaves_modEng (leaves_modCtx hm _) _) (leaves_modCtx hm _)
  | branch target => exact leaves_modCtx hm _
  | fallThrough w => exact leaves_modCtx hm _

theorem leaves_advance (h : LeavesRest n s u) : LeavesRest n s (advance u n) := by
  unfold advance
  refine leaves_afterStep ?_
  split
  · exact leaves_ite (leaves_modCtx h _) (leaves_modCtx h _)
  · split
    · exact leaves_transfer h _ _ _
    · exact leaves_modCtx h _

theorem leaves_commit (h : LeavesRest n s u) (f : Eff) : LeavesRest n s (commit u n f) := by
  have hs := leaves_storeAll (leaves_noteLoads h f) f.stores
  unfold commit
  refine leaves_landUpTo (leaves_modCtx ?_ _) _
  split
  · exact leaves_delayWrite hs _ _
  · exact hs

theorem leaves_endRun (h : LeavesRest n s u) : LeavesRest n s (endRun u n) := by
  have hl := leaves_landUpTo h (eng u n).ctx.cycle
  exact leaves_ite (leaves_switchRun hl) (leaves_ite (leaves_afterStep (leaves_modEng hl _)) (leaves_stepOver (leaves_modEng hl _)))

theorem leaves_idleEnd (h : LeavesRest n s u) : LeavesRest n s (idleEnd u n) :=
  leaves_ite (leaves_modCtx (leaves_advance h) _) (leaves_advance h)

theorem leaves_latchRepeat (h : LeavesRest n s u) (k : Nat) : LeavesRest n s (latchRepeat u n k) :=
  leaves_ite (leaves_afterStep (leaves_modCtx (leaves_landUpTo h _) _)) (leaves_modCtx (leaves_landUpTo h _) _)

theorem leaves_holdImm (h : LeavesRest n s u) (x : BitVec 21) : LeavesRest n s (holdImm x u n) := by
  unfold holdImm
  exact leaves_modCtx (leaves_landUpTo h _) _

theorem leaves_awaitSlot (h : LeavesRest n s u) (x : Xfer) : LeavesRest n s (awaitSlot u n x) :=
  leaves_afterStep (leaves_modCtx (leaves_landUpTo h _) _)

/-! ### A word issues -/

/-- A word leaves the rest where its idle cycles and what it does do so. -/
theorem issueWith_leavesRest (s : State) (w : Issue) (i : Instr) {idle run} (hi : ∀ u, LeavesRest w.eng.val u (idle u w.eng.val))
    (hr : ∀ u ext v, run u w.eng.val ext = .ok v → LeavesRest w.eng.val u v) :
    LeavesRest w.eng.val s (issueWith s w i idle run) := by
  have hl := leaves_landUpTo (.refl w.eng.val s) ((eng s w.eng.val).ctx.cycle - 1)
  have hs := leaves_setCross hl { cross (landUpTo s w.eng.val ((eng s w.eng.val).ctx.cycle - 1)) w.eng.val with portA := [] }
  unfold issueWith
  dsimp only
  refine leaves_ite (.refl _ s) ?_
  generalize setCross (landUpTo s w.eng.val _) w.eng.val _ = v at hs
  generalize hv : modEng (eccRead v _) w.eng.val _ = v'
  have hs' : LeavesRest w.eng.val s v' := hv ▸ leaves_modEng (leaves_eccRead hs _) _
  refine leaves_ite (leaves_engFault hs' _ _) (leaves_ite ((leaves_landUpTo hs' _).trans (hi _)) (leaves_ite (leaves_engFault hs' _ _) ?_))
  split
  · exact leaves_engFault (leaves_ite (leaves_eccDetect hs' _ _ _) hs') _ _
  · next hx => exact hs'.trans (hr _ _ _ hx)

/-- A word with an effect, whatever it is, leaves the rest. -/
theorem issueWord_leavesRest (s : State) (w : Issue) (i : Instr) (f) : LeavesRest w.eng.val s (issueWord s w i f) := by
  refine issueWith_leavesRest s w i (fun u => leaves_advance (.refl _ u)) (fun u ext v hv => ?_)
  split at hv
  · cases hv
  · cases hv; exact leaves_advance (leaves_commit (.refl _ u) _)

/-! ### Every word -/

theorem repeat_leavesRest {c : Bool} {f : Flt} {e k : Nat} {u v : State}
    (h : (if c then .error f else .ok (latchRepeat u e k) : Except Flt State) = .ok v) : LeavesRest e u v := by
  split at h
  · cases h
  · exact Except.ok.inj h ▸ leaves_latchRepeat (.refl e u) k

theorem idleXfer_leavesRest (k m : Nat) (u : State) : LeavesRest m u (idleXfer k u m) := leaves_awaitSlot (.refl m u) _

/-- Word `i`, issued as `w`, goes on and leaves the rest, whatever the state. -/
def KeepsRest (i : Instr) (w : Issue) : Prop := ∀ s, ∃ t, exec i s = .next t ∧ LeavesRest w.eng.val s t

theorem leaves_of_ok {a v : State} (h : (.ok a : Except Flt State) = .ok v) (ha : LeavesRest n s a) : LeavesRest n s v :=
  Except.ok.inj h ▸ ha

theorem issueWith_keepsRest {i : Instr} {w : Issue} {idle run} (hx : ∀ s, exec i s = ok (issueWith s w i idle run))
    (hi : ∀ u, LeavesRest w.eng.val u (idle u w.eng.val))
    (hr : ∀ u ext v, run u w.eng.val ext = .ok v → LeavesRest w.eng.val u v) : KeepsRest i w :=
  fun s => ⟨_, hx s, issueWith_leavesRest s w i hi hr⟩

theorem endFrame_keepsRest (w : Issue) : KeepsRest (.endFrame w) w :=
  issueWith_keepsRest (fun _ => rfl) (fun u => leaves_idleEnd (.refl _ u)) fun u _ _ hv =>
    leaves_of_ok hv (leaves_endRun (.refl _ u))

theorem halt_keepsRest (w : Issue) : KeepsRest (.halt w) w := by
  refine issueWith_keepsRest (fun _ => rfl) (fun u => leaves_advance (.refl _ u)) fun u _ v hv => ?_
  dsimp only at hv
  split at hv
  · exact leaves_of_ok hv (leaves_haltAt (.refl _ u) _)
  · cases hv

theorem rpt_keepsRest (w : Issue) (k : Nat) : KeepsRest (.rpt w k) w :=
  issueWith_keepsRest (fun _ => rfl) (fun u => leaves_advance (.refl _ u)) fun _ _ _ hv => repeat_leavesRest hv

theorem rptx_keepsRest (w : Issue) (d : Fin 16) : KeepsRest (.rptx w d) w :=
  issueWith_keepsRest (fun _ => rfl) (fun u => leaves_advance (.refl _ u)) fun _ _ _ hv => repeat_leavesRest hv

theorem blk_keepsRest (w : Issue) (field : BitVec 9) (len : Nat) : KeepsRest (.blk w field len) w := by
  refine issueWith_keepsRest (fun _ => rfl) (fun u => leaves_advance (.refl _ u)) fun u _ v hv => ?_
  dsimp only at hv
  split at hv
  · cases hv
  · exact leaves_of_ok hv (leaves_modCtx (leaves_commit (.refl _ u) _) _)

theorem immExt_keepsRest (w : Issue) (x : BitVec 21) : KeepsRest (.immExt w x) w :=
  issueWith_keepsRest (fun _ => rfl) (fun u => leaves_holdImm (.refl _ u) _) fun u _ _ hv =>
    leaves_of_ok hv (leaves_holdImm (.refl _ u) _)

/-- A transfer word that goes on awaits its slot, after what it commits. -/
theorem call_keepsRest (w : Issue) (addr : BitVec 14) : KeepsRest (.call w addr) w := by
  refine issueWith_keepsRest (fun _ => rfl) (idleXfer_leavesRest _ _) fun u _ v hv => ?_
  exact leaves_of_ok hv (leaves_awaitSlot (leaves_commit (.refl _ u) _) _)

theorem ret_keepsRest (w : Issue) : KeepsRest (.ret w) w := by
  refine issueWith_keepsRest (fun _ => rfl) (idleXfer_leavesRest _ _) fun u _ v hv => ?_
  exact leaves_of_ok hv (leaves_awaitSlot (.refl _ u) _)

theorem callm_keepsRest (w : Issue) (addr : BitVec 14) (mask : Word) : KeepsRest (.callm w addr mask) w := by
  refine issueWith_keepsRest (fun _ => rfl) (idleXfer_leavesRest _ _) fun u _ v hv => ?_
  dsimp only at hv
  split at hv
  · cases hv
  · split at hv
    · cases hv
    · exact leaves_of_ok hv (leaves_awaitSlot (leaves_commit (.refl _ u) _) _)

theorem retm_keepsRest (w : Issue) (mask : Word) : KeepsRest (.retm w mask) w := by
  refine issueWith_keepsRest (fun _ => rfl) (idleXfer_leavesRest _ _) fun u _ v hv => ?_
  dsimp only at hv
  split at hv
  · cases hv
  · split at hv
    · cases hv
    · split at hv
      · cases hv
      · exact leaves_of_ok hv (leaves_awaitSlot (leaves_commit (.refl _ u) _) _)

theorem br_keepsRest (w : Issue) (addr : BitVec 14) : KeepsRest (.br w addr) w := by
  refine issueWith_keepsRest (fun _ => rfl) (idleXfer_leavesRest _ _) fun u _ v hv => ?_
  split at hv
  · exact leaves_of_ok hv (leaves_awaitSlot (.refl _ u) _)
  · cases hv

theorem brc_keepsRest (w : Issue) (cc : Fin 4) (d : Fin 16) (addr : BitVec 14) : KeepsRest (.brc w cc d addr) w := by
  refine issueWith_keepsRest (fun _ => rfl) (idleXfer_leavesRest _ _) fun u _ v hv => ?_
  dsimp only at hv
  split at hv
  · cases hv
  · exact leaves_of_ok hv (leaves_awaitSlot (.refl _ u) _)

/-- The words with a sequencing of their own are named; every other one has an effect. -/
theorem engWord_keepsRest {i : Instr} {w : Issue} (h : engWord i = some w) : KeepsRest i w := by
  cases i
  all_goals cases h
  case endFrame => exact endFrame_keepsRest w
  case halt => exact halt_keepsRest w
  case rpt k => exact rpt_keepsRest w k
  case rptx d => exact rptx_keepsRest w d
  case blk field len => exact blk_keepsRest w field len
  case immExt x => exact immExt_keepsRest w x
  case call addr => exact call_keepsRest w addr
  case ret => exact ret_keepsRest w
  case callm addr mask => exact callm_keepsRest w addr mask
  case retm mask => exact retm_keepsRest w mask
  case br addr => exact br_keepsRest w addr
  case brc cc d addr => exact brc_keepsRest w cc d addr
  all_goals exact fun s => ⟨_, rfl, issueWord_leavesRest s w _ _⟩

/-- Settles O20: the state after a word is the one its `LeavesRest` speaks of, and the tables of a canonical state read back. -/
theorem engineWordFrame : Obligations.EngineWordFrame := by
  unfold Obligations.EngineWordFrame
  intro s t i w hcanon hw ht
  obtain ⟨t', ht', hrest⟩ := engWord_keepsRest hw s
  cases ht.symm.trans ht'
  obtain ⟨hengines, -, -, -, -, -, -, -, hbanks, -⟩ := hcanon
  exact ⟨hrest.frame, hrest.patrol, (hrest.engines hengines).2, hrest.cross, (hrest.banks hbanks).2⟩

end Sys2Proof.Machine
end

section
/-! The end of a frame-mode frame and the boundary after it: what Drain, Apply, Prepare and the boundary leave of the engine (R54, R139,
R170, R171, R253). -/
namespace Sys2Proof.Machine

/-! ### An engine followed through a frame's end -/

/-- `u` differs from `s` in engines and events alone, and its engine `n` reads `e` but for the idle input buffer, into which mirrored
routes write. -/
structure FrameAt (s : State) (n : Nat) (e : Engine) (u : State) : Prop where
  frame : { u with engines := s.engines, events := s.events } = s
  engine : ∃ x, eng u n = { e with inAlt := x }

variable {s u : State} {n : Nat} {e : Engine}

theorem FrameAt.start (s : State) (n : Nat) : FrameAt s n (eng s n) s := ⟨rfl, _, rfl⟩

theorem FrameAt.clocks (h : FrameAt s n e u) : u.clocks = s.clocks := by rw [← h.frame]
theorem FrameAt.mem (h : FrameAt s n e u) : u.mem = s.mem := by rw [← h.frame]
theorem FrameAt.cfg (h : FrameAt s n e u) : u.cfg = s.cfg := by rw [← h.frame]

theorem engine_ne_default {e : Engine} (h : e.state ≠ .idle) : e ≠ {} := fun he => h (congrArg Engine.state he)

/-- An engine that is not IDLE reads back what is written of it. -/
theorem frameAt_modEng (h : FrameAt s n e u) {f : Engine → Engine} {e' : Engine} (hf : ∀ x, f { e with inAlt := x } = { e' with inAlt := x })
    (hs : e'.state ≠ .idle) : FrameAt s n e' (modEng u n f) := by
  obtain ⟨x, hx⟩ := h.engine
  have hfx : f (eng u n) = { e' with inAlt := x } := by rw [hx, hf]
  exact ⟨h.frame, x, (eng_modEng_some _ (engine_ne_default (by rw [hfx]; exact hs))).trans hfx⟩

theorem frameAt_putIn (hs : e.state ≠ .idle) (h : FrameAt s n e u) (d i : Nat) (v : Long) : FrameAt s n e (putIn u d i v) := by
  obtain ⟨x, hx⟩ := h.engine
  refine ⟨h.frame, ?_⟩
  unfold putIn
  by_cases hd : n = d
  · subst hd
    rw [eng_modEng_some _ (engine_ne_default (by rw [hx]; exact hs)), hx]
    exact ⟨_, rfl⟩
  · exact ⟨x, (eng_modEng_ne _ _ hd).trans hx⟩

theorem frameAt_foldl {α : Type} {f : State → α → State} (hf : ∀ u x, FrameAt s n e u → FrameAt s n e (f u x)) (l : List α) :
    ∀ {u}, FrameAt s n e u → FrameAt s n e (l.foldl f u) := by
  induction l with
  | nil => exact id
  | cons x l ih => exact fun h => ih (hf _ x h)

theorem frameAt_mirrorPub (hs : e.state ≠ .idle) (h : FrameAt s n e u) (m : Nat) : FrameAt s n e (mirrorPub u m) := by
  unfold mirrorPub
  refine frameAt_foldl (fun u kv hu => ?_) _ h
  dsimp only
  split
  · exact frameAt_foldl (fun v _ hv => frameAt_putIn hs hv _ _ _) _ hu
  · exact hu

theorem frameAt_detect (h : FrameAt s n e u) (c k : Nat) (a : Long) : FrameAt s n e (detect u c k a) where
  frame := by rw [← h.frame]; simp
  engine := by obtain ⟨x, hx⟩ := h.engine; exact ⟨x, by rw [detect_eng, hx]⟩

/-! ### Drain (R170, R171) -/

/-- Results in flight are gone. -/
def emptied (e : Engine) : Engine := { e with ctx := { e.ctx with inflight := [] } }

/-- The frame is over. -/
def closedEng (e : Engine) : Engine := { e with stage := .none, stAtEnd := st e.ctx }

/-- What the boundary will publish, EFAULT.RUN and PFLT. -/
def outcomeEng (e : Engine) : Engine :=
  { e with
    nextPub := some (if e.faulted then e.pub else e.ctx.outCur), pflt := e.faulted, faultRun := if e.faulted then e.faultRun else 0 }

/-- The engine is QUARANTINED (R171). -/
def expelled (e : Engine) : Engine :=
  { e with
    state := .quarantined, quarCount := (satInc e.quarCount).1, quarOvf := e.quarOvf || (satInc e.quarCount).2
    releaseReq := false, outFade := some (fadeDown e.outFade 64) }

/-- Every head has advanced. -/
def headsOn (e : Engine) : Engine :=
  { e with
    ctx := { e.ctx with descs := advanceHeads e.ctx.descs }
    alt := { e.alt with descs := advanceHeads e.alt.descs } }

/-- The fault policy takes the engine out: the frame faulted, and POLICY is 1 or it is the fourth in a row. -/
def expels (policy : Nat) (e : Engine) : Bool := e.faulted && (decide (policy = 1) || decide (4 ≤ e.faultRun))

/-- What judging a frame makes of the engine under its fault policy. -/
def judged (policy : Nat) (e : Engine) : Engine :=
  { (if expels policy e then expelled (outcomeEng (closedEng e)) else outcomeEng (closedEng e)) with faulted := false }

theorem judged_state (p : Nat) (h : e.state = .run) : (judged p e).state = if expels p e then .quarantined else .run := by
  unfold judged
  split
  · rfl
  · exact h

theorem judged_fade (p : Nat) (h : e.fade = none) : (judged p e).fade = none := by
  unfold judged; split <;> exact h

theorem judged_breaks (p : Nat) : (judged p e).breakReq = e.breakReq ∧ (judged p e).breakHit = e.breakHit := by
  unfold judged; split <;> exact ⟨rfl, rfl⟩

theorem judged_releaseReq {p : Nat} (h : expels p e = true) : (judged p e).releaseReq = false := by
  unfold judged; rw [h]; rfl

theorem judged_not_idle (p : Nat) (h : e.state = .run) : (judged p e).state ≠ .idle := by
  rw [judged_state p h]; split <;> decide

theorem landUpTo_nil (c : Nat) (h : (eng u n).ctx.inflight = []) : landUpTo u n c = u := by
  unfold landUpTo; rw [h]; rfl

theorem frameAt_quarantine (h : FrameAt s n e u) (hf : e.fade = none) : FrameAt s n (expelled e) (quarantine u n) := by
  obtain ⟨x, hx⟩ := h.engine
  have hend : endFade u n 3 = u := by unfold endFade; rw [hx]; simp only [hf]; rfl
  unfold quarantine
  dsimp only
  rw [hend]
  refine frameAt_detect (frameAt_modEng h (fun y => ?_) (by unfold expelled; simp)) _ _ _
  rw [hx]; rfl

/-- A frame-mode frame outside a fade is judged by whether it faulted and by the fault policy. -/
theorem frameAt_settle (h : FrameAt s n e u) (hrun : e.state = .run) (hfade : e.fade = none) :
    FrameAt s n (judged (engPolicy s n) e) (settle u n) := by
  obtain ⟨x, hx⟩ := h.engine
  have hpolicy (v : State) (e' : Engine) (hv : FrameAt s n e' v) : engPolicy v n = engPolicy s n := by unfold engPolicy; rw [hv.cfg]
  have hsapl : saplMode (eng u n) = false := by rw [hx]; unfold saplMode; simp only [hrun]
  have hne : e.state ≠ .idle := by rw [hrun]; decide
  unfold settle
  dsimp only
  rw [hsapl, hx]
  simp only [hfade, Bool.false_eq_true, if_false]
  have hout : FrameAt s n (outcomeEng (closedEng e)) (modEng (modEng u n closedEng) n outcomeEng) :=
    frameAt_modEng (frameAt_modEng (e' := closedEng e) h (fun _ => rfl) hne) (fun _ => rfl) hne
  have hif : (e.faulted && (decide (engPolicy (modEng (modEng u n closedEng) n outcomeEng) n = 1) ||
      decide (4 ≤ (eng (modEng (modEng u n closedEng) n outcomeEng) n).faultRun))) = expels (engPolicy s n) e := by
    obtain ⟨y, hy⟩ := hout.engine
    rw [hpolicy _ _ hout, hy]
    unfold expels outcomeEng closedEng
    cases e.faulted <;> rfl
  refine (congrArg (fun c : Bool => FrameAt s n (judged (engPolicy s n) e) (modEng (if c then
    quarantine (modEng (modEng u n closedEng) n outcomeEng) n else modEng (modEng u n closedEng) n outcomeEng) n
      fun e => { e with faulted := false })) hif).mpr ?_
  unfold judged
  cases expels (engPolicy s n) e with
  | true =>
    simp only [if_true]
    exact frameAt_modEng (frameAt_quarantine hout hfade) (fun _ => rfl) (by simp [expelled])
  | false =>
    simp only [Bool.false_eq_true, if_false]
    exact frameAt_modEng hout (fun _ => rfl) hne

/-! ### Drain, Apply and Prepare -/

/-- Drain of a frame that has ended with nothing in flight. -/
theorem frameAt_endFrame (hrun : (eng s n).state = .run) (hfade : (eng s n).fade = none) (hstage : (eng s n).stage = .ended)
    (hfl : (eng s n).ctx.inflight = []) : FrameAt s n (headsOn (judged (engPolicy s n) (emptied (eng s n)))) (endFrame s n) := by
  have hne : (eng s n).state ≠ .idle := by rw [hrun]; decide
  have hdead : deadline s n = s := by unfold deadline; simp only [hstage, reduceCtorEq, if_false]
  unfold endFrame
  dsimp only
  rw [hdead, landUpTo_nil _ hfl]
  have h1 : FrameAt s n (emptied (eng s n)) (discard s n) :=
    frameAt_modEng (f := emptied) (.start s n) (fun _ => rfl) hne
  have hjudged : (headsOn (judged (engPolicy s n) (emptied (eng s n)))).state ≠ .idle := judged_not_idle _ hrun
  have h2 := frameAt_modEng (frameAt_settle h1 hrun hfade) (f := fun e => { e with
    ctx := { e.ctx with descs := advanceHeads e.ctx.descs }, alt := { e.alt with descs := advanceHeads e.alt.descs } })
    (e' := headsOn (judged (engPolicy s n) (emptied (eng s n)))) (fun _ => rfl) hjudged
  split
  · exact frameAt_mirrorPub hjudged h2 n
  · exact h2

/-- The engine is prepared for the frame that starts at `t`: a fresh run at ENTRY, the counter advanced. -/
def preparedEng (e : Engine) (t : MT) : Engine :=
  let ctr := if e.prepared then e.frameCtr else e.frameCtr + 1
  { e with
    ctx := freshRun e.ctx e.active.entry, frameCtr := ctr, ctrLatch := ctr.extractLsb' 16 16, mtFrame := t
    faulted := false, newRun := false, prepared := true }

theorem applyRelease_eq (h : (eng u n).state ≠ .quarantined ∨ (eng u n).releaseReq = false) : applyRelease u n = u := by
  unfold applyRelease
  dsimp only
  rw [if_neg]
  simp only [Bool.and_eq_true, decide_eq_true_eq]
  rintro ⟨h1, h2⟩
  exact h.elim (fun hq => hq h1) (fun hr => absurd (hr.symm.trans h2) (by decide))

theorem runsNext_run {e : Engine} (h : e.state = .run) (hb : e.breakReq = false) (hh : e.breakHit = false) : runsNext e = true := by
  unfold runsNext; rw [h]; dsimp only; rw [hb, hh]; rfl

theorem frameAt_prepare (h : FrameAt s n e u) (t : MT) (hr : e.state = .run) (hf : e.fade = none) (hb : e.breakReq = false)
    (hh : e.breakHit = false) : FrameAt s n (preparedEng e t) (prepare u n t) := by
  obtain ⟨x, hx⟩ := h.engine
  unfold prepare
  rw [applyRelease_eq (.inl (by rw [hx]; simp [hr]))]
  refine frameAt_modEng h (fun y => ?_) (by rw [show (preparedEng e t).state = .run from hr]; decide)
  rw [runsNext_run (e := { e with inAlt := y }) hr hb hh]
  simp only [Bool.not_true, Bool.false_eq_true, if_false, preparedEng, hf, Option.isSome_none, Option.map_none]

theorem frameAt_prepare_quarantined (h : FrameAt s n e u) (t : MT) (hq : e.state = .quarantined) (hr : e.releaseReq = false) :
    FrameAt s n e (prepare u n t) := by
  obtain ⟨x, hx⟩ := h.engine
  unfold prepare
  rw [applyRelease_eq (.inr (by rw [hx]; exact hr))]
  refine frameAt_modEng h (fun y => ?_) (by rw [hq]; decide)
  have : runsNext { e with inAlt := y } = false := by unfold runsNext; simp only [hq]
  rw [this]; rfl

theorem frameAt_repeatOutputs (h : FrameAt s n e u) (hs : e.state ≠ .idle) : FrameAt s n e (repeatOutputs u n) := by
  unfold repeatOutputs
  dsimp only
  split
  · exact frameAt_mirrorPub hs h n
  · exact h

theorem fadeAt_none (t : MT) (h : (eng u n).fade = none) : fadeAt u n t = u := by unfold fadeAt; rw [h]

/-- No pending action touches the engine: none is applied with its frame. -/
theorem applyFor_none (h : FrameAt s n e u) (t : MT) (hs : ∀ x ∈ s.clocks.sched, (touched s x.act).contains n = false) :
    applyFor u n t = u := by
  refine applyWhere_none u _ fun x hx => ?_
  have ht : touched u x.act = touched s x.act := by
    have hb (b : Nat) : bank u b = bank s b := by unfold bank; rw [h.mem]
    cases x.act <;> simp only [touched, hb]
  rw [ht, hs x (h.clocks ▸ hx), Bool.false_and]

/-- What a frame that has ended leaves of an engine in RUN that no pending action touches. -/
theorem frameAt_closeFrame (t : MT) (hrun : (eng s n).state = .run) (hfade : (eng s n).fade = none) (hb : (eng s n).breakReq = false)
    (hh : (eng s n).breakHit = false) (hs : ∀ x ∈ s.clocks.sched, (touched s x.act).contains n = false)
    (hstage : (eng s n).stage = .ended) (hfl : (eng s n).ctx.inflight = []) :
    FrameAt s n (if expels (engPolicy s n) (emptied (eng s n)) then headsOn (judged (engPolicy s n) (emptied (eng s n)))
      else preparedEng (headsOn (judged (engPolicy s n) (emptied (eng s n)))) t) (closeFrame s n t) := by
  have hfree : freeRun (eng s n) = false := by unfold freeRun saplMode; simp only [hrun, Bool.false_and]
  have hstate := judged_state (engPolicy s n) (e := emptied (eng s n)) hrun
  have hrep := frameAt_repeatOutputs (frameAt_endFrame hrun hfade hstage hfl) (judged_not_idle _ hrun)
  have hnofade : (eng (repeatOutputs (endFrame s n) n) n).fade = none := by
    obtain ⟨x, hx⟩ := hrep.engine
    rw [hx]
    exact judged_fade _ hfade
  unfold closeFrame
  dsimp only
  rw [hfree, hstage]
  simp only [ne_eq, reduceCtorEq, not_false_eq_true, decide_true, Bool.not_false, Bool.and_self, if_true]
  rw [fadeAt_none t hnofade, applyFor_none hrep t hs]
  cases hx : expels (engPolicy s n) (emptied (eng s n)) with
  | true =>
    rw [hx] at hstate
    exact frameAt_prepare_quarantined hrep t hstate (judged_releaseReq hx)
  | false =>
    rw [hx] at hstate
    exact frameAt_prepare hrep t hstate (judged_fade _ hfade) ((judged_breaks _).1.trans hb) ((judged_breaks _).2.trans hh)

/-! ### The boundary (R17, R57, R139) -/

/-- `u` differs from `s` in engine `n` alone, which is `e`. -/
structure EngineAt (s : State) (n : Nat) (e : Engine) (u : State) : Prop where
  frame : { u with engines := s.engines } = s
  others : ∀ k, k ≠ n → eng u k = eng s k
  engine : eng u n = e

theorem engineAt_modEng (h : EngineAt s n e u) {f : Engine → Engine} {e' : Engine} (hf : f e = e') (hs : e'.state ≠ .idle) :
    EngineAt s n e' (modEng u n f) where
  frame := h.frame
  others k hk := (eng_modEng_ne _ _ hk).trans (h.others k hk)
  engine := by
    have hfe : f (eng u n) = e' := by rw [h.engine, hf]
    exact (eng_modEng_some _ (engine_ne_default (by rw [hfe]; exact hs))).trans hfe

/-- Both buffer pairs have swapped; what `fed` does not hold of the idle input buffer is gone. -/
def swappedEng (e : Engine) (fed : Nat × Word → Bool) : Engine :=
  { e with
    inCur := e.inAlt, inAlt := e.inCur.filter fed
    ctx := { e.ctx with outCur := e.ctx.outAlt, outAlt := e.ctx.outCur }
    alt := { e.alt with outCur := e.alt.outAlt, outAlt := e.alt.outCur } }

/-- The boundary at `t` has published what the ended frame left. -/
def publishedEng (e : Engine) (t : MT) : Engine := { publish e with boundaryAt := some t }

/-- Cycle 0 has issued, with no injected fault waiting. -/
def startedEng (e : Engine) : Engine := { e with stage := .program, prepared := false, breakHit := false, injFaults := [] }

theorem engineAt_prepare (h : EngineAt s n e u) (t : MT) (hr : e.state = .run) (hf : e.fade = none) (hb : e.breakReq = false)
    (hh : e.breakHit = false) : EngineAt s n (preparedEng e t) (prepare u n t) := by
  unfold prepare
  rw [applyRelease_eq (.inl (by rw [h.engine, hr]; decide))]
  refine engineAt_modEng h ?_ (by rw [show (preparedEng e t).state = .run from hr]; decide)
  rw [runsNext_run hr hb hh]
  simp only [Bool.not_true, Bool.false_eq_true, if_false, preparedEng, hf, Option.isSome_none, Option.map_none]

theorem engineAt_swapBuffers (h : EngineAt s n e u) (hs : e.state ≠ .idle) :
    EngineAt s n (swappedEng e fun kv => fedInput u n (kv.1 / 2) (nextBoundary (engClass u n) (now u))) (swapBuffers u n) :=
  engineAt_modEng (f := (swappedEng · _)) h rfl hs

theorem engineAt_startFrame (h : EngineAt s n e u) (hr : e.state = .run) (hp : e.prepared = true) (hb : e.breakReq = false)
    (hh : e.breakHit = false) (hi : e.injFaults = []) : EngineAt s n (startedEng e) (startFrame u n) := by
  have hne : e.state ≠ .idle := by rw [hr]; decide
  unfold startFrame
  rw [h.engine]
  dsimp only
  rw [runsNext_run hr hb hh, hp, hi]
  have hissue := engineAt_modEng (f := fun e => { e with
    stage := .program, prepared := false, breakHit := false, stepReq := if e.state = .debug then false else e.stepReq }) h rfl hne
  simp only [Bool.and_self, if_true, List.foldl_nil]
  refine engineAt_modEng (f := fun e => { e with injFaults := [] }) hissue ?_ hne
  simp only [hr, reduceCtorEq, if_false, startedEng]

theorem publishedEng_state (t : MT) : (publishedEng e t).state = e.state := rfl
theorem swappedEng_state (fed : Nat × Word → Bool) : (swappedEng e fed).state = e.state := rfl
theorem preparedEng_state (t : MT) : (preparedEng e t).state = e.state := rfl

/-- What starts a frame stands as it did before the boundary prepared, swapped and published. -/
theorem boundary_starts (fed : Nat × Word → Bool) (t : MT) : let x := publishedEng (swappedEng (preparedEng e t) fed) t
    x.state = e.state ∧ x.prepared = true ∧ x.breakReq = e.breakReq ∧ x.breakHit = e.breakHit ∧ x.injFaults = e.injFaults := by
  simp only [publishedEng, publish, swappedEng, preparedEng, and_self]

/-- The boundary of a prepared engine in RUN: prepared anew for it, buffers swapped, outputs published, cycle 0. -/
theorem engineAt_frameBoundary {k : Fin 32} (hgate : s.clocks.gateOpen = true) (hrestart : s.clocks.restart = false)
    (hrun : (eng s k.val).state = .run) (hfade : (eng s k.val).fade = none) (hb : (eng s k.val).breakReq = false)
    (hh : (eng s k.val).breakHit = false) (hi : (eng s k.val).injFaults = []) (hp : (eng s k.val).prepared = true)
    (hstage : (eng s k.val).stage = .none) (hbound : isBoundary (engClass s k.val) (now s) = true)
    (hat : (eng s k.val).boundaryAt ≠ some (now s)) : ∃ t fed, exec (.frameBoundary k) s = .next t ∧
      EngineAt s k.val (startedEng (publishedEng (swappedEng (preparedEng (eng s k.val) (now s)) fed) (now s))) t := by
  have hne : (eng s k.val).state ≠ .idle := by rw [hrun]; decide
  have hfree : freeRun (eng s k.val) = false := by unfold freeRun saplMode; simp only [hrun, Bool.false_and]
  have hframes : framesRun s = true := by unfold framesRun; rw [hgate, hrestart]; rfl
  have hgo : execFrameBoundary k s = .next (startFrame (modEng (swapBuffers (prepare s k.val (now s)) k.val) k.val
      (publishedEng · (now s))) k.val) := by
    unfold execFrameBoundary
    simp only [hframes, hbound, hfree, hat, hstage, hp, ne_eq, not_true, decide_false, Bool.not_true, Bool.or_self, Bool.false_eq_true,
      if_false, if_true]
    rfl
  have hprep := engineAt_prepare ⟨rfl, fun _ _ => rfl, rfl⟩ (now s) hrun hfade hb hh
  have hswap := engineAt_swapBuffers hprep (by rw [preparedEng_state]; exact hne)
  have hpub := engineAt_modEng (f := (publishedEng · (now s))) hswap rfl
    (by rw [publishedEng_state, swappedEng_state, preparedEng_state]; exact hne)
  obtain ⟨h1, h2, h3, h4, h5⟩ := boundary_starts (e := eng s k.val) (fun kv => fedInput (prepare s k.val (now s)) k.val (kv.1 / 2)
    (nextBoundary (engClass (prepare s k.val (now s)) k.val) (now (prepare s k.val (now s))))) (now s)
  exact ⟨_, _, hgo, engineAt_startFrame hpub (h1.trans hrun) h2 (h3.trans hb) (h4.trans hh) (h5.trans hi)⟩

/-- The frame end's command closes the frame that ends at the next boundary, where frames run. -/
theorem exec_frameEnd {k : Fin 32} (hgate : s.clocks.gateOpen = true) (hrestart : s.clocks.restart = false)
    (hp : (eng s k.val).prepared = false) (hc : engClass s k.val ≤ 3) :
    exec (.frameEnd k) s = .next (closeFrame s k.val (nextBoundary (engClass s k.val) (now s))) := by
  have hframes : framesRun s = true := by unfold framesRun; rw [hgate, hrestart]; rfl
  show execFrameEnd k s = _
  unfold execFrameEnd
  have h4 : ¬ 4 ≤ engClass s k.val := by omega
  simp only [hframes, h4, hp, decide_false, Bool.not_true, Bool.false_and, Bool.or_self, Bool.false_eq_true, if_false]
  rfl

/-- Settles O33: the engine after the frame's end, and after the boundary, is the one that the lemmas above write out. -/
theorem frameSequence : Obligations.FrameSequence := by
  unfold Obligations.FrameSequence
  intro s e
  dsimp only
  rintro hgate hrestart ⟨hrun, hfade, hb, hh, hi⟩ hsched
  refine ⟨fun hp hstage hfl hc => ⟨_, exec_frameEnd hgate hrestart hp hc, ?_⟩, fun hp hstage hbound hat => ?_⟩
  · obtain ⟨x, hx⟩ := (frameAt_closeFrame (nextBoundary (engClass s e.val) (now s)) hrun hfade hb hh hsched hstage hfl).engine
    rw [hx]
    cases hf : (eng s e.val).faulted with
    | false =>
      simp [expels, judged, hf, preparedEng, headsOn, outcomeEng, closedEng, emptied, freshRun, hrun, hp, st, rW]
    | true =>
      by_cases hpol : engPolicy s e.val = 1 ∨ 4 ≤ (eng s e.val).faultRun
      · have hnot : engPolicy s e.val = 0 → ¬ (eng s e.val).faultRun < 4 := by omega
        simp +contextual [expels, judged, headsOn, expelled, outcomeEng, closedEng, emptied, hf, hp, st, rW, hnot, hpol]
      · simp [expels, judged, preparedEng, headsOn, outcomeEng, closedEng, emptied, freshRun, hrun, hf, hp, st, rW, hpol]
  · obtain ⟨t, fed, ht, hframe, hothers, heng⟩ := engineAt_frameBoundary hgate hrestart hrun hfade hb hh hi hp hstage hbound hat
    refine ⟨t, ht, hframe, hothers, ?_⟩
    rw [heng]
    simp [startedEng, publishedEng, publish, swappedEng, preparedEng, freshRun, hp]

end Sys2Proof.Machine
end

section
/-! Streams: what each command of the stream table answers and leaves (R28, R34, R377, R420 to R427, R431, R432). -/
namespace Sys2Proof.Machine

/-! ### A write to a stream entry -/

section
variable {s t : State} {r : Req} {e role : Nat} {range idle : Bool} {body : State → Except Word State}

theorem gateFails_served {obj : Nat} (h : Served s r obj role) (g : Gate) (ho : g.obj = obj) (hr : g.role = role) :
    gateFails (taken s r) r g = if !g.range then some eRange else if !g.idle then some eState else none := by
  obtain ⟨⟨_, _⟩, h3, h4, h5⟩ := h
  subst ho hr
  simp only [gateFails, taken_session, taken_keylessBars, taken_dictAdmits, h4, h5, Bool.and_false, Bool.or_false,
    Bool.not_true, Bool.false_or, Bool.false_eq_true, if_false, Nat.not_lt.mpr h3, decide_false]

theorem streamCmd_served (h : Served s r (streamObj e) role) (he : e < 8192) :
    streamCmd s r e role range idle body = .next (match
        (if !range then some eRange else if !idle then some eState else none : Option Word) with
      | some c => sendReply (taken s r) r 2 1 c 0 []
      | none => match body (taken s r) with
        | .error c => sendReply (taken s r) r 2 1 c 0 []
        | .ok t => sendReply t r 2 1 eOK 0xFF []) := by
  unfold streamCmd ok writeAt
  rw [decide_eq_true he, runRequest_heard h.1]
  simp only [if_true]
  rw [gateFails_served h { obj := streamObj e, role := role, range := range, idle := idle } rfl rfl]
  dsimp only
  cases range
  · rfl
  · cases idle
    · rfl
    · simp only [Bool.not_true, Bool.false_eq_true, if_false]
      cases body (taken s r) <;> rfl

theorem streamCmd_range (h : Served s r (streamObj e) role) (he : e < 8192) (hr : range = false) :
    streamCmd s r e role range idle body = .next (sendReply (taken s r) r 2 1 eRange 0 []) := by
  rw [streamCmd_served h he, hr]; rfl

theorem streamCmd_busy (h : Served s r (streamObj e) role) (he : e < 8192) (hr : range = true) (hi : idle = false) :
    streamCmd s r e role range idle body = .next (sendReply (taken s r) r 2 1 eState 0 []) := by
  rw [streamCmd_served h he, hr, hi]; rfl

theorem streamCmd_error {c : Word} (h : Served s r (streamObj e) role) (he : e < 8192) (hr : range = true) (hi : idle = true)
    (hb : body (taken s r) = .error c) : streamCmd s r e role range idle body = .next (sendReply (taken s r) r 2 1 c 0 []) := by
  rw [streamCmd_served h he, hr, hi]; simp only [Bool.not_true, Bool.false_eq_true, if_false, hb]

theorem streamCmd_ok (h : Served s r (streamObj e) role) (he : e < 8192) (hr : range = true) (hi : idle = true)
    (hb : body (taken s r) = .ok t) : streamCmd s r e role range idle body = .next (sendReply t r 2 1 eOK 0xFF []) := by
  rw [streamCmd_served h he, hr, hi]; simp only [Bool.not_true, Bool.false_eq_true, if_false, hb]

end

/-- An entry that is not FREE reads back what is written of it. -/
theorem stream_setStream_busy (s : State) {e : Nat} {v : Stream} (h : v.state ≠ .free) : stream (setStream s e v) e = v :=
  stream_setStream_some _ fun hv => h (congrArg Stream.state hv)

/-! ### SOURCE_DEF (R422) -/

section
variable {s : State} {r : Req} {e : Nat} {cls ch : Byte} {lat : Word} {margin flags : Byte} {src : Endpoint}

/-- The definition that the fields spell. -/
def sourceOf (cls ch : Byte) (lat : Word) (margin flags : Byte) (src : Endpoint) : SourceDef :=
  ⟨cls.toNat, ch.toNat, lat.toNat, margin.toNat, decide (flags = 1), epLong src⟩

/-- The fields of a definition lie in range. -/
def sourceRange (s : State) (cls ch : Byte) (lat : Word) (margin flags : Byte) (src : Endpoint) : Bool :=
  decide (cls.toNat ≤ 9) && decide (1 ≤ ch.toNat) && decide (ch.toNat ≤ 64) && decide (1 ≤ lat.toNat) && decide (lat.toNat ≤ 1024) &&
    decide (margin.toNat ≤ 15) && decide (flags.toNat ≤ 1) && epRange s (epLong src) ch.toNat false

theorem sourceRange_iff : sourceRange s cls ch lat margin flags src = true ↔
    cls.toNat ≤ 9 ∧ 1 ≤ ch.toNat ∧ ch.toNat ≤ 64 ∧ 1 ≤ lat.toNat ∧ lat.toNat ≤ 1024 ∧ margin.toNat ≤ 15 ∧ flags.toNat ≤ 1 ∧
      epRange s (epLong src) ch.toNat false = true := by
  simp only [sourceRange, Bool.and_eq_true, decide_eq_true_eq, and_assoc]

/-- The state in which the definition stands. -/
def sourceDefined (u : State) (e : Nat) (d : SourceDef) : State :=
  setStream (bumpEpoch { u with cfg := { u.cfg with sources := tset {} u.cfg.sources e d } }) e { stream u e with
    state := .defined, source := true, id := BitVec.ofNat 32 (u.cfg.deviceNumber * 65536 + e), sdef := d }

theorem exec_sourceDef : exec (.sourceDef r e cls ch lat margin flags src 0) s =
    streamCmd s r e engineer (sourceRange s cls ch lat margin flags src)
      (decide ((stream s e).state = .free) || decide ((stream s e).state = .defined)) (fun u =>
        if !epMeets u (epLong src) false cls.toNat then .error eConflict
        else if epSapling u (epLong src) then .error eState
        else .ok (sourceDefined u e (sourceOf cls ch lat margin flags src))) := by
  show execSourceDef .. = _
  unfold execSourceDef sourceRange
  simp only [decide_true, Bool.and_true]
  refine congrArg _ (funext fun u => ?_)
  unfold sourceDefined sourceOf
  rw [bumpEpoch_stream]
  simp only [bumpEpoch_cfg]
  rfl

/-- A source is defined where its entry is FREE or DEFINED. -/
theorem sourceDefined_spec (u : State) (e : Nat) {d : SourceDef} (hd : d ≠ {}) :
    stream (sourceDefined u e d) e = { stream u e with
      state := .defined, source := true, id := BitVec.ofNat 32 (u.cfg.deviceNumber * 65536 + e), sdef := d } ∧
    tget {} (sourceDefined u e d).cfg.sources e = d ∧
    { sourceDefined u e d with streams := u.streams, cfg := u.cfg, epoch := u.epoch, grove := u.grove } = u := by
  refine ⟨stream_setStream_busy _ (by simp), ?_, ?_⟩
  · unfold sourceDefined
    rw [setStream_cfg, bumpEpoch_cfg]
    exact tget_tset_of_ne _ _ hd
  · unfold sourceDefined bumpEpoch
    split <;> rfl

end

section
variable {s : State} {r : Req} {e : Nat} {cls ch : Byte} {lat : Word} {margin flags : Byte} {src : Endpoint}
  (h : Served s r (streamObj e) engineer) (he : e < 8192)
include h he

theorem sourceDef_range (hr : ¬ sourceRange s cls ch lat margin flags src = true) : Refuses (.sourceDef r e cls ch lat margin flags src 0) s r eRange :=
  exec_sourceDef.trans (streamCmd_range h he (Bool.eq_false_of_not_eq_true hr))

variable (hr : sourceRange s cls ch lat margin flags src = true)
include hr

theorem sourceDef_busy (hf : (stream s e).state ≠ .free) (hd : (stream s e).state ≠ .defined) :
    Refuses (.sourceDef r e cls ch lat margin flags src 0) s r eState :=
  exec_sourceDef.trans (streamCmd_busy h he hr (by simp [hf, hd]))

variable (hx : (stream s e).state = .free ∨ (stream s e).state = .defined)
include hx

theorem sourceDef_conflict (hm : epMeets (taken s r) (epLong src) false cls.toNat = false) :
    Refuses (.sourceDef r e cls ch lat margin flags src 0) s r eConflict :=
  exec_sourceDef.trans (streamCmd_error h he hr (by simpa using hx) (if_pos (by simp [hm])))

theorem sourceDef_ok (hm : epMeets (taken s r) (epLong src) false cls.toNat = true) (hs : epSapling s (epLong src) = false) :
    Accepts (.sourceDef r e cls ch lat margin flags src 0) s r (sourceDefined (taken s r) e (sourceOf cls ch lat margin flags src)) :=
  exec_sourceDef.trans (streamCmd_ok h he hr (by simpa using hx) (by
    rw [if_neg (by simp [hm]), if_neg (by simp [taken_epSapling, hs])]))

end

/-! ### START, STOP and CANCEL (R71, R426) -/

theorem requestRange {target : MT} (hp : target.phase = 0) : (decide ((0 : Byte) = 0) && isPeriod target) = true := by
  unfold isPeriod; rw [decide_eq_true hp]; rfl

section
variable {s : State} {r : Req} {e : Nat} {target : MT} (h : Served s r (streamObj e) operator) (he : e < 8192) (hp : target.phase = 0)
include h he hp

/-- A START or STOP past its cutoff, of an entry that is no source, and of one that is. -/
theorem streamArm_spec (a : SchedAct) :
    (inTime (now s) target = false → streamArm s r e 0 target a = .next (sendReply (taken s r) r 2 1 eLate 0 [])) ∧
    (inTime (now s) target = true → (stream s e).source = false ∨ (stream s e).state = .free →
      streamArm s r e 0 target a = .next (sendReply (taken s r) r 2 1 eState 0 [])) ∧
    (inTime (now s) target = true → (stream s e).source = true → (stream s e).state ≠ .free → dormant s = false →
      schedTaken s target a = false → schedRoom s 1 = true →
      streamArm s r e 0 target a = .next (sendReply (schedAdd (taken s r) target [a]) r 2 1 eOK 0xFF [])) := by
  refine ⟨fun ht => ?_, fun ht hx => ?_, fun ht hx hf hd hs hr => ?_⟩
  · exact streamCmd_error h he (requestRange hp) rfl (by rw [taken_now, ht]; rfl)
  · have hsrc : isSource (stream s e) = false := by
      unfold isSource
      rcases hx with hx | hx
      · rw [hx, Bool.false_and]
      · simp [hx]
    exact streamCmd_error h he (requestRange hp) rfl (by simp [ht, hsrc])
  · have hsrc : isSource (stream s e) = true := by unfold isSource; simp [hx, hf]
    exact streamCmd_ok h he (requestRange hp) rfl
      (by simp [ht, hsrc, taken_dormant, taken_schedTaken, taken_schedRoom, hd, hs, hr])

/-- CANCEL of a START or STOP that is armed, and with none armed. -/
theorem streamCancel_spec (ht : inTime (now s) target = true) (hx : (stream s e).source = true) (hf : (stream s e).state ≠ .free) :
    (schedTaken s target (.streamStart e) = false → Refuses (.streamCancel r e 0 target) s r eState) ∧
    (schedTaken s target (.streamStart e) = true → Accepts (.streamCancel r e 0 target) s r
      (schedDrop (taken s r) (fun y => decide (y.target = target) && sameItem y.act (.streamStart e)))) := by
  have hsrc : isSource (stream s e) = true := by unfold isSource; simp [hx, hf]
  refine ⟨fun hs => ?_, fun hs => ?_⟩
  · exact streamCmd_error h he (requestRange hp) rfl (by simp [ht, hsrc, taken_schedTaken, hs])
  · exact streamCmd_ok h he (requestRange hp) rfl (by simp [ht, hsrc, taken_schedTaken, hs])

end

/-! ### Staged changes -/

theorem foldl_keeps {α β : Type} (g : State → β) {f : State → α → State} (hf : ∀ s x, g (f s x) = g s) (l : List α) (s : State) :
    g (l.foldl f s) = g s := by
  induction l generalizing s with
  | nil => rfl
  | cons x l ih => rw [List.foldl_cons, ih, hf]

theorem mem_insertStaged {x y : Staged} {l : List Staged} : y ∈ insertStaged x l ↔ y = x ∨ y ∈ l := by
  induction l with
  | nil => simp [insertStaged]
  | cons z l ih =>
    unfold insertStaged
    split
    · simp
    · simp only [List.mem_cons, ih]; tauto

theorem mem_stage {s : State} {t : MT} {a : StageAct} {y : Staged} :
    y ∈ (stage s t a).clocks.staged ↔ y ∈ s.clocks.staged ∨ y = ⟨t, a⟩ := mem_insertStaged.trans or_comm

/-- What a run of steps stages, where each adds what it stands for. -/
theorem mem_staged_foldl {α : Type} {f : State → α → State} {p : α → Staged → Prop}
    (hf : ∀ s x y, y ∈ (f s x).clocks.staged ↔ y ∈ s.clocks.staged ∨ p x y) (l : List α) (s : State) (y : Staged) :
    y ∈ (l.foldl f s).clocks.staged ↔ y ∈ s.clocks.staged ∨ ∃ x ∈ l, p x y := by
  induction l generalizing s with
  | nil => simp
  | cons x l ih => rw [List.foldl_cons, ih, hf]; simp only [List.mem_cons, exists_eq_or_imp]; tauto

/-- The slots of an entry in one map of a link. -/
def slotsOf (k : Link) (out : Bool) (e : Nat) : List Nat := entrySlots (if out then k.txMap else k.rxMap) e

/-- An entry that lets go of everything: its own staged changes are gone, and the end of every mapping it has is staged. -/
theorem mem_unmap {s : State} {e : Nat} {t : MT} {y : Staged} : y ∈ (unmap s e none t).clocks.staged ↔
    (y ∈ s.clocks.staged ∧ ofEntry e y.act = false) ∨
      ∃ kv ∈ s.links, ∃ out, slotsOf kv.2 out e ≠ [] ∧ y = ⟨t, .unmap kv.1 out (slotsOf kv.2 out e)⟩ := by
  have hstep (s : State) (kv : Nat × Link) (out : Bool) (y : Staged) :
      y ∈ (if (slotsOf kv.2 out e).isEmpty then s else stage s t (.unmap kv.1 out (slotsOf kv.2 out e))).clocks.staged ↔
        y ∈ s.clocks.staged ∨ slotsOf kv.2 out e ≠ [] ∧ y = ⟨t, .unmap kv.1 out (slotsOf kv.2 out e)⟩ := by
    cases hm : slotsOf kv.2 out e with
    | nil => simp
    | cons a l => simp [mem_stage]
  unfold unmap
  refine (mem_staged_foldl (p := fun kv y => ∃ out, slotsOf kv.2 out e ≠ [] ∧ y = ⟨t, .unmap kv.1 out (slotsOf kv.2 out e)⟩)
    (fun s kv y => ?_) s.links _ y).trans ?_
  · simp only [Option.isSome_none, Bool.false_and, Bool.false_eq_true, if_false]
    refine (mem_staged_foldl (fun s out y => hstep s kv out y) [false, true] s y).trans ?_
    simp
  · simp [setClocks]

/-- Giving up mappings stages changes, and leaves the streams and the pending actions. -/
theorem unmap_keeps (s : State) (e : Nat) (o : Option Nat) (t : MT) :
    ((unmap s e o t).streams, (unmap s e o t).clocks.sched, (unmap s e o t).leaving) = (s.streams, s.clocks.sched, s.leaving) := by
  unfold unmap
  refine (foldl_keeps (fun s => (s.streams, s.clocks.sched, s.leaving)) (fun s kv => ?_) _ _).trans ?_
  · split
    · rfl
    · refine foldl_keeps (fun s => (s.streams, s.clocks.sched, s.leaving)) (fun s out => ?_) _ _
      cases hm : (slotsOf kv.2 out e).isEmpty
      · exact (congrArg (fun s : State => (s.streams, s.clocks.sched, s.leaving)) (if_neg (ne_true_of_eq_false hm))).trans rfl
      · exact congrArg (fun s : State => (s.streams, s.clocks.sched, s.leaving)) (if_pos hm)
  · split <;> rfl

theorem markEmpty_streams (s : State) : (markEmpty s).streams = s.streams := by
  unfold markEmpty
  refine foldl_keeps State.streams (fun s b => ?_) _ _
  dsimp only
  split <;> rfl

theorem markEmpty_clocks (s : State) : (markEmpty s).clocks = s.clocks := by
  unfold markEmpty
  refine foldl_keeps State.clocks (fun s b => ?_) _ _
  dsimp only
  split <;> rfl

section
variable (s : State) (e : Nat) (t : MT)

theorem freeEntry_clocks : (freeEntry s e t).clocks = (schedDrop (unmap s e none t) (fun y => sameItem y.act (.streamStart e))).clocks := by
  unfold freeEntry
  rw [markEmpty_clocks, setStream_clocks]
  split <;> rfl

theorem freeEntry_staged : (freeEntry s e t).clocks.staged = (unmap s e none t).clocks.staged := by rw [freeEntry_clocks]; rfl

/-- No START or STOP of the entry stays pending. -/
theorem freeEntry_sched {y : Sched} (hy : y ∈ (freeEntry s e t).clocks.sched) : y.act ≠ .streamStart e ∧ y.act ≠ .streamStop e := by
  rw [freeEntry_clocks] at hy
  have hn : (!sameItem y.act (.streamStart e)) = true := (List.mem_filter.mp hy).2
  constructor <;> (intro h; rw [h] at hn; simp [sameItem] at hn)

/-- A freed entry is at its reset values. -/
theorem freeEntry_stream {s : State} (w : Tbl.wf {} s.streams = true) : stream (freeEntry s e t) e = {} := by
  have hs : (unmap s e none t).streams = s.streams := congrArg Prod.fst (unmap_keeps s e none t)
  unfold freeEntry stream
  rw [markEmpty_streams]
  refine tget_tset_self (d := ({} : Stream)) {} ?_
  split
  · exact hs ▸ w
  · exact hs ▸ w

end

theorem mem_of_tget_ne {α : Type} {d : α} {t : Tbl α} {k : Nat} (h : tget d t k ≠ d) : (k, tget d t k) ∈ t := by
  induction t with
  | nil => exact absurd rfl h
  | cons p t ih =>
    obtain ⟨j, u⟩ := p
    by_cases hj : j = k
    · subst hj; simp [tget]
    · simp only [tget, hj, if_false] at h ⊢
      exact List.mem_cons_of_mem _ (ih h)

/-- A link on which an entry has slots is listed. -/
theorem link_listed {s : State} {k : Nat} {out : Bool} {e : Nat} (h : slotsOf (link s k) out e ≠ []) : (k, link s k) ∈ s.links := by
  refine mem_of_tget_ne fun hd => h ?_
  show slotsOf (tget {} s.links k) out e = []
  rw [hd]; cases out <;> rfl

/-! ### RELEASE (R431, R432) -/

section
variable {s : State} {r : Req} {e : Nat} (h : Served s r (streamObj e) engineer) (he : e < 8192)
include h he

theorem streamRelease_refused (hx : (stream s e).state = .running ∨ (stream s e).transit = true) : Refuses (.streamRelease r e 1) s r eState := by
  have hb : (decide ((stream s e).state = .running) || (stream s e).transit) = true := by
    rcases hx with hx | hx <;> simp [hx]
  exact streamCmd_error h he (by decide) rfl (by simp only [taken_stream, hb]; rfl)

theorem streamRelease_free (hx : (stream s e).state = .free) (ht : (stream s e).transit = false) :
    Accepts (.streamRelease r e 1) s r (taken s r) :=
  streamCmd_ok h he (by decide) rfl (by simp [hx, ht])

theorem streamRelease_zero : Accepts (.streamRelease r e 0) s r (taken s r) := streamCmd_ok h he (by decide) rfl (if_pos rfl)

/-- The state that RELEASE leaves. -/
def streamReleased (u : State) (e : Nat) : State :=
  let v := freeEntry { u with cfg := { u.cfg with sources := tset {} u.cfg.sources e {}, subs := tset (0, 0) u.cfg.subs e (0, 0) } } e (stageAt u 0)
  if decide ((stream u e).state ≠ .pending) then bumpEpoch v else v

theorem streamRelease_ok (hr : (stream s e).state ≠ .running) (hf : (stream s e).state ≠ .free) (ht : (stream s e).transit = false) :
    Accepts (.streamRelease r e 1) s r (streamReleased (taken s r) e) := by
  refine streamCmd_ok h he (by decide) rfl ?_
  simp only [taken_stream, hr, hf, ht]
  rfl

end

section
variable (u : State) (e : Nat)

theorem streamReleased_clocks : (streamReleased u e).clocks = (freeEntry { u with cfg := { u.cfg with
    sources := tset {} u.cfg.sources e {}, subs := tset (0, 0) u.cfg.subs e (0, 0) } } e (stageAt u 0)).clocks := by
  unfold streamReleased
  dsimp only
  split
  · exact bumpEpoch_clocks _
  · rfl

theorem streamReleased_stream {u : State} (w : Tbl.wf {} u.streams = true) : stream (streamReleased u e) e = {} := by
  unfold streamReleased
  dsimp only
  split
  · exact (bumpEpoch_stream ..).trans (freeEntry_stream e _ w)
  · exact freeEntry_stream e _ w

theorem mem_streamReleased {y : Staged} : y ∈ (streamReleased u e).clocks.staged ↔ (y ∈ u.clocks.staged ∧ ofEntry e y.act = false) ∨
    ∃ kv ∈ u.links, ∃ out, slotsOf kv.2 out e ≠ [] ∧ y = ⟨stageAt u 0, .unmap kv.1 out (slotsOf kv.2 out e)⟩ := by
  rw [streamReleased_clocks, freeEntry_staged]
  exact mem_unmap

end

section
variable {s : State} {r : Req} {e : Nat} (h : Served s r (streamObj e) engineer) (he : e < 8192)
include h he

/-- An entry that is released is free at once; what it has of links is free from the boundary that is staged. -/
theorem streamRelease_frees (hr : (stream s e).state ≠ .running) (hf : (stream s e).state ≠ .free) (ht : (stream s e).transit = false)
    (hc : Canon s) : ∃ t, Accepts (.streamRelease r e 1) s r t ∧ stream t e = {} ∧
      (∀ y ∈ t.clocks.sched, y.act ≠ .streamStart e ∧ y.act ≠ .streamStop e) ∧ (∀ y ∈ t.clocks.staged, ofEntry e y.act = false) ∧
      (∀ k out, slotsOf (link s k) out e ≠ [] → ⟨stageAt s 0, .unmap k out (slotsOf (link s k) out e)⟩ ∈ t.clocks.staged) := by
  obtain ⟨-, -, -, -, -, -, hw, -⟩ := hc
  refine ⟨_, streamRelease_ok h he hr hf ht, streamReleased_stream e hw, fun y hy => ?_, fun y hy => ?_, fun k out hk => ?_⟩
  · rw [streamReleased_clocks] at hy
    exact freeEntry_sched _ e _ hy
  · rcases (mem_streamReleased ..).mp hy with ⟨-, hy⟩ | ⟨_, _, _, _, rfl⟩
    · exact hy
    · rfl
  · exact (mem_streamReleased ..).mpr (.inr ⟨_, link_listed hk, out, hk, rfl⟩)

end

/-! ### What admission keeps -/

/-- What admission takes is booked: it stages changes and takes banks, and leaves the streams and the links. -/
def Booked (s u : State) : Prop := u.streams = s.streams ∧ u.links = s.links

theorem Booked.trans {s u v : State} (h : Booked s u) (h' : Booked u v) : Booked s v := ⟨h'.1.trans h.1, h'.2.trans h.2⟩

theorem Booked.stream {s u : State} (h : Booked s u) (e : Nat) : stream u e = Machine.stream s e := by unfold Machine.stream; rw [h.1]

theorem stage_booked (s : State) (t : MT) (a : StageAct) : Booked s (stage s t a) := ⟨rfl, rfl⟩

theorem setClocks_booked (s : State) (f : Clocks → Clocks) : Booked s (setClocks s f) := ⟨rfl, rfl⟩

section
variable {s : State} {t : MT} {l w cls ch lat hops : Nat}

theorem placeRing_booked {x : State × Ring} (h : placeRing s t l w = some x) : Booked s x.1 := by
  unfold placeRing at h
  dsimp only at h
  split at h
  · cases h; exact ⟨rfl, rfl⟩
  · split at h
    · cases h
    · split at h
      · cases h; exact stage_booked ..
      · cases h

theorem arrivalRing_booked {x : State × Option Ring} (h : arrivalRing s t l cls ch lat hops = .ok x) : Booked s x.1 := by
  unfold arrivalRing at h
  split at h
  · split at h
    case h_1 hp => cases h; exact placeRing_booked hp
    · cases h
  · cases h; exact ⟨rfl, rfl⟩

theorem arriveOn_booked {x : State × List Nat × Option Ring} (h : arriveOn s t l cls ch lat hops = .ok x) : Booked s x.1 := by
  unfold arriveOn at h
  split at h
  · cases h
  · split at h
    · cases h
    · cases hr : arrivalRing s t l cls ch lat hops with
      | error c => rw [hr] at h; cases h
      | ok y => rw [hr] at h; cases h; exact arrivalRing_booked hr

end

/-! ### SUBSCRIBE (R423) -/

section
variable {s : State} {r : Req} {e : Nat} (h : Served s r (streamObj e) engineer) (he : e < 8192) (id : Long) (dst : Endpoint)
include h he

theorem subscribe_busy (hx : (stream s e).state ≠ .free) : Refuses (.subscribe r e id dst) s r eState :=
  streamCmd_error h he rfl rfl (if_pos (by simpa using hx))

theorem subscribe_ok (hx : (stream s e).state = .free) : Accepts (.subscribe r e id dst) s r (setStream (taken s r) e { stream s e with
    state := .pending, receiver := true, id := id, dest := epLong dst, failDevice := 0xFFFF }) :=
  streamCmd_ok h he rfl rfl (if_neg (by simpa using hx))

end

/-! ### SUBSCRIBE_RESULT (R424 to R426) -/

section
variable {s : State} {e : Nat} {code dev : Word} {told : Option Plan} {terms : StreamTerms} {cls ch : Nat}

/-- The plan of a subscription whose routes leave its margin. -/
def fittingPlan (s : State) (e : Nat) (told : Option Plan) (terms : StreamTerms) (cls ch : Nat) : Option Plan :=
  (if s.grove.role = .root then rootPlan s ((stream s e).id.extractLsb' 16 12).toNat (ch * slotsPer cls) terms.protect else told).filter
    (planFits · terms)

theorem receiverResult_fails {c : Word} (h : subscribeFails s e cls ch = some c) :
    receiverResult s e code dev told terms cls ch = notAdmitted s e c 0xFFFF := by
  unfold receiverResult
  simp only [h]

theorem receiverResult_noPlan (h : subscribeFails s e cls ch = none) (hp : fittingPlan s e told terms cls ch = none) :
    receiverResult s e code dev told terms cls ch =
      if s.grove.role = .root ∨ code = eOK then notAdmitted s e eCapacity 0xFFFF else notAdmitted s e code dev := by
  unfold fittingPlan at hp
  unfold receiverResult
  simp only [h, decide_eq_true_eq, hp, Bool.or_eq_true]

section
variable {p : Plan} (h : subscribeFails s e cls ch = none) (hp : fittingPlan s e told terms cls ch = some p)
include h hp

theorem receiverResult_code (hk : code ≠ eOK) : receiverResult s e code dev told terms cls ch = notAdmitted s e code dev := by
  unfold fittingPlan at hp
  unfold receiverResult
  simp only [h, decide_eq_true_eq, hp]
  exact if_pos hk

theorem receiverResult_error {k : Word} (ha : admitHere s e p terms cls ch = .error k) :
    receiverResult s e eOK dev told terms cls ch = notAdmitted s e k (BitVec.ofNat 16 s.cfg.deviceNumber) := by
  unfold fittingPlan at hp
  unfold receiverResult
  simp only [h, decide_eq_true_eq, hp, ha]
  exact if_neg (by decide)

theorem receiverResult_admitted {v : State} (ha : admitHere s e p terms cls ch = .ok v) : receiverResult s e eOK dev told terms cls ch =
    bumpEpoch { v with cfg := { v.cfg with subs := tset (0, 0) v.cfg.subs e ((stream s e).id, (stream s e).dest) } } := by
  unfold fittingPlan at hp
  unfold receiverResult
  simp only [h, decide_eq_true_eq, hp, ha]
  exact if_neg (by decide)

end

theorem fittingPlan_margin {p : Plan} (hp : fittingPlan s e told terms cls ch = some p) : p.hops + terms.margin.toNat ≤ terms.latency.toNat := by
  have h : planFits p terms = true := (Option.filter_eq_some_iff.mp hp).2
  unfold planFits at h
  exact of_decide_eq_true (Bool.and_eq_true_iff.mp h).1

/-- What the entry of a subscription holds that is admitted; the maps of its links stay as they are until the boundary. -/
def AdmittedBy (s : State) (e : Nat) (p : Plan) (terms : StreamTerms) (v : State) : Prop :=
  (stream v e).state = .admitted ∧ (stream v e).result = eOK ∧ (stream v e).hops = BitVec.ofNat 8 p.hops ∧ (stream v e).link = some p.link ∧
    (stream v e).effectiveAt = some (stageAt s terms.effective) ∧ v.links = s.links

theorem admittedBy_setStream {p : Plan} {u : State} {x : Stream} (hu : Booked s u) (hs : x.state = .admitted) (hr : x.result = eOK)
    (hh : x.hops = BitVec.ofNat 8 p.hops) (hl : x.link = some p.link) (ht : x.effectiveAt = some (stageAt s terms.effective)) :
    AdmittedBy s e p terms (setStream u e x) := by
  unfold AdmittedBy
  rw [stream_setStream_busy _ (by rw [hs]; decide)]
  exact ⟨hs, hr, hh, hl, ht, hu.2⟩

theorem admitHere_spec {p : Plan} {v : State} (h : admitHere s e p terms cls ch = .ok v) : AdmittedBy s e p terms v := by
  unfold admitHere at h
  dsimp only at h
  split at h
  · cases h
  · split at h
    · cases h
    · cases ha : arriveOn s (stageAt s terms.effective) p.link cls ch terms.latency.toNat p.hops with
      | error c => rw [ha] at h; cases h
      | ok x =>
        rw [ha] at h
        have hx := (arriveOn_booked ha).trans (stage_booked x.1 (stageAt s terms.effective) (.map p.link false e x.2.1))
        cases hp : p.alt with
        | none =>
          rw [hp] at h
          cases h
          exact admittedBy_setStream hx rfl rfl rfl rfl rfl
        | some a =>
          rw [hp] at h
          dsimp only [bind, Except.bind, pure, Except.pure] at h
          split at h
          · cases h
          case h_2 y hy =>
            cases h
            exact admittedBy_setStream ((hx.trans (arriveOn_booked hy)).trans (stage_booked ..)) rfl rfl rfl rfl rfl

end

/-- The outcome at a receiver that awaits it (R424). -/
theorem subscribeResult_pending {s : State} {e : Nat} (code dev : Word) (h ah : Byte) (terms : StreamTerms) (cls ch : Byte) (l l2 : BitVec 2)
    (hu : coreUp s = true) (hx : (stream s e).state = .pending) :
    exec (.subscribeResult e code dev h ah terms cls ch l l2) s =
      .next (receiverResult s e code dev (toldPlan h.toNat ah.toNat l.toNat l2.toNat terms.protect) terms cls.toNat ch.toNat) := by
  show execSubscribeResult .. = _
  unfold execSubscribeResult
  simp only [hu, hx]
  rfl

/-- Every outcome at a receiver that awaits it. -/
theorem subscribeResult_receiver {s : State} {e : Nat} (code dev : Word) (h ah : Byte) (terms : StreamTerms) (cls ch : Byte) (l l2 : BitVec 2)
    (hu : coreUp s = true) (hx : (stream s e).state = .pending) :
    let cmd : Instr := .subscribeResult e code dev h ah terms cls ch l l2
    let fails := subscribeFails s e cls.toNat ch.toNat
    let plan := fittingPlan s e (toldPlan h.toNat ah.toNat l.toNat l2.toNat terms.protect) terms cls.toNat ch.toNat
    (∀ c, fails = some c → exec cmd s = .next (notAdmitted s e c 0xFFFF)) ∧
    (fails = none →
      (plan = none → s.grove.role = .root ∨ code = eOK → exec cmd s = .next (notAdmitted s e eCapacity 0xFFFF)) ∧
      (code ≠ eOK → ¬ s.grove.role = .root ∨ plan ≠ none → exec cmd s = .next (notAdmitted s e code dev)) ∧
      (∀ p, plan = some p → p.hops + terms.margin.toNat ≤ terms.latency.toNat ∧ (code = eOK →
        (∀ c, admitHere s e p terms cls.toNat ch.toNat = .error c →
          exec cmd s = .next (notAdmitted s e c (BitVec.ofNat 16 s.cfg.deviceNumber))) ∧
        (∀ v, admitHere s e p terms cls.toNat ch.toNat = .ok v → ∃ t, exec cmd s = .next t ∧ AdmittedBy s e p terms t ∧
          ((stream s e).id ≠ 0 ∨ (stream s e).dest ≠ 0 → tget (0, 0) t.cfg.subs e = ((stream s e).id, (stream s e).dest)))))) := by
  intro cmd fails plan
  rw [subscribeResult_pending code dev h ah terms cls ch l l2 hu hx]
  refine ⟨fun c hc => by rw [receiverResult_fails hc], fun hf => ⟨fun hp hk => ?_, fun hk hp => ?_, fun p hp => ⟨fittingPlan_margin hp, fun hk => ⟨fun c hc => ?_, fun v hv => ?_⟩⟩⟩⟩
  · rw [receiverResult_noPlan hf hp, if_pos hk]
  · cases hq : plan with
    | none => rw [receiverResult_noPlan hf hq, if_neg (by tauto)]
    | some q => rw [receiverResult_code hf hq hk]
  · rw [hk, receiverResult_error hf hp hc]
  · rw [hk, receiverResult_admitted hf hp hv]
    refine ⟨_, rfl, ?_, fun hn => ?_⟩
    · have hw := admitHere_spec hv
      unfold AdmittedBy at hw ⊢
      rw [bumpEpoch_stream, bumpEpoch_links]
      exact hw
    · rw [bumpEpoch_cfg]
      refine tget_tset_of_ne _ _ fun hd => ?_
      obtain ⟨h1, h2⟩ := Prod.mk.inj hd
      exact hn.elim (· h1) (· h2)

/-- A boundary that is staged lies at least 4 base periods ahead. -/
theorem stageAt_ahead {s : State} (eff : BitVec 64) (hn : mtNat (now s) < 2 ^ 79) : 4 * 65536 ≤ mtDiff (now s) (stageAt s eff) := by
  have hof (m : Nat) (hm : m < 2 ^ 80) : mtNat (mtOf m) = m := by
    simp only [mtNat, mtOf, BitVec.toNat_ofNat]; omega
  have hl : mtNat (now s) + 4 * 65536 ≤ mtNat (periodFrom (mtPlus (now s) (4 * 65536))) ∧
      mtNat (periodFrom (mtPlus (now s) (4 * 65536))) < 2 ^ 80 := by
    unfold periodFrom boundaryFrom mtPlus frameUnits
    rw [hof (mtNat (now s) + 4 * 65536) (by omega), hof _ (by omega)]
    omega
  unfold mtDiff stageAt
  dsimp only
  split
  case isTrue h =>
    have h1 := of_decide_eq_true (Bool.and_eq_true_iff.mp h).2
    have h2 : mtNat ⟨eff, 0⟩ = eff.toNat * 65536 := by simp [mtNat]
    have h3 := eff.isLt
    omega
  · omega

/-! ### What SUBSCRIBE_RESULT does elsewhere -/

section
variable {s : State} {e : Nat} {code dev : Word} {h ah : Byte} {terms : StreamTerms} {cls ch : Byte} {l l2 : BitVec 2}

theorem subscribeResult_down (hu : coreUp s = false) : exec (.subscribeResult e code dev h ah terms cls ch l l2) s = .next s := by
  show execSubscribeResult .. = _
  unfold execSubscribeResult
  simp only [hu]
  rfl

theorem subscribeResult_free (hu : coreUp s = true) (hx : (stream s e).state = .free)
    (hk : code ≠ eOK ∨ s.grove.state = 4 ∨ rootHeard s = false) : exec (.subscribeResult e code dev h ah terms cls ch l l2) s = .next s := by
  show execSubscribeResult .. = _
  unfold execSubscribeResult
  simp only [hu, hx, if_pos hk]
  rfl

/-- What an entry that is neither FREE nor PENDING nor of a transit device makes of an outcome. -/
def toldEntry (s : State) (e : Nat) (code dev : Word) (h ah : Byte) (terms : StreamTerms) (l l2 : BitVec 2) : State :=
  if !(stream s e).source || decide (code ≠ eOK) then setStream s e { stream s e with result := code, failDevice := dev }
  else if s.grove.state = 4 ∨ rootHeard s = false then
    setStream s e { stream s e with result := eState, failDevice := BitVec.ofNat 16 s.cfg.deviceNumber }
  else match sourceShare s e h ah terms l.toNat l2.toNat with
    | .error k => setStream s e { stream s e with result := k, failDevice := BitVec.ofNat 16 s.cfg.deviceNumber }
    | .ok t => t

theorem subscribeResult_other (hu : coreUp s = true) (hp : (stream s e).state ≠ .pending) (hf : (stream s e).state ≠ .free)
    (ht : (stream s e).transit = false) :
    exec (.subscribeResult e code dev h ah terms cls ch l l2) s = .next (toldEntry s e code dev h ah terms l l2) := by
  show execSubscribeResult .. = _
  unfold execSubscribeResult toldEntry
  simp only [hu, ht, Bool.not_true, Bool.false_eq_true, if_false, Bool.false_and, apply_ite Host.Outcome.next]
  cases hs : (stream s e).state with
  | free => exact absurd hs hf
  | pending => exact absurd hs hp
  | defined | admitted | running | rerouting | held =>
    refine if_congr Iff.rfl rfl (if_congr Iff.rfl rfl ?_)
    cases sourceShare s e h ah terms l.toNat l2.toNat <;> rfl

theorem toldEntry_told (hk : (stream s e).source = false ∨ code ≠ eOK) :
    toldEntry s e code dev h ah terms l l2 = setStream s e { stream s e with result := code, failDevice := dev } :=
  if_pos (by rcases hk with hk | hk <;> simp [hk])

theorem toldEntry_apart (hs : (stream s e).source = true) (hg : s.grove.state = 4 ∨ rootHeard s = false) :
    toldEntry s e eOK dev h ah terms l l2 =
      setStream s e { stream s e with result := eState, failDevice := BitVec.ofNat 16 s.cfg.deviceNumber } :=
  (if_neg (by simp [hs])).trans (if_pos hg)

/-- A source that has its slots already leaves on the link that it is told. -/
theorem toldEntry_leaves (hd : (stream s e).state = .defined) (hs : (stream s e).source = true) (hg : s.grove.state ≠ 4)
    (hr : rootHeard s = true) (hl : heldSlots s l.toNat true e ≠ []) : toldEntry s e eOK dev h 0xFF terms l l2 =
      setStream s e { stream s e with state := .admitted, link := some l.toNat, hops := h, altHops := 0xFF, result := eOK } := by
  have hleave : leaveOn s terms.effective e l.toNat (stream s e).sdef.cls (stream s e).sdef.channels = .ok s := by
    unfold leaveOn
    rw [if_pos (by simpa using hl)]
  have hshare : sourceShare s e h 0xFF terms l.toNat l2.toNat = .ok
      (setStream s e { stream s e with state := .admitted, link := some l.toNat, hops := h, altHops := 0xFF, result := eOK }) := by
    unfold sourceShare
    simp only [hleave, hd]
    rfl
  unfold toldEntry
  rw [if_neg (by simp [hs]), if_neg (by simp [hg, hr]), hshare]

end

/-! ### REROUTE (R427) -/

theorem ok_of_ite {α : Type} {c : Prop} [Decidable c] {a b : Except Word α} {v : α} (h : (if c then a else b) = .ok v) : a = .ok v ∨ b = .ok v := by
  split at h
  · exact .inl h
  · exact .inr h

theorem ok_of_map {α β : Type} {f : α → β} {r : Except Word α} {v : β} (h : r.map f = .ok v) : ∃ x, r = .ok x ∧ f x = v := by
  cases r with
  | error c => cases h
  | ok x => cases h; exact ⟨x, rfl, rfl⟩

/-- A switch that is booked takes what it needs and is staged. -/
theorem bookSwitch_booked {s v : State} {t : MT} {e : Nat} {alt : Bool} {l hops : Nat} (h : bookSwitch s t e alt l hops = .ok v) :
    Booked s v ∧ ∃ slots ring, ⟨t, .switch e alt l hops slots ring⟩ ∈ v.clocks.staged := by
  have hb {u : State} (hu : Booked s u) (slots : List Nat) (ring : Option Ring) :
      Booked s (stage u t (.switch e alt l hops slots ring)) ∧
        ∃ slots' ring', ⟨t, .switch e alt l hops slots' ring'⟩ ∈ (stage u t (.switch e alt l hops slots ring)).clocks.staged :=
    ⟨hu.trans (stage_booked ..), slots, ring, mem_stage.mpr (.inr rfl)⟩
  unfold bookSwitch at h
  rcases ok_of_ite h with h | h
  · rcases ok_of_ite h with h | h
    · obtain ⟨x, hx, rfl⟩ := ok_of_map h
      exact hb ((setClocks_booked s _).trans (arrivalRing_booked hx)) ..
    · cases h
      exact hb (setClocks_booked s _) ..
  · obtain ⟨x, hx, rfl⟩ := ok_of_map h
    exact hb ((setClocks_booked s _).trans (arriveOn_booked hx)) ..

/-- The entry of a copy that takes a new route: it is no longer REROUTING; its present route stands until the boundary. -/
def onNewRoute (x : Stream) (alt : Bool) (via : List Nat) : Stream :=
  let x : Stream := { x with state := if x.state = .rerouting then .admitted else x.state }
  if alt then { x with altVia := via } else { x with via := via }

theorem onNewRoute_spec (x : Stream) (alt : Bool) (via : List Nat) :
    (onNewRoute x alt via).state = (if x.state = .rerouting then .admitted else x.state) ∧ (onNewRoute x alt via).link = x.link ∧
      (onNewRoute x alt via).hops = x.hops ∧ (onNewRoute x alt via).ring = x.ring := by
  cases alt <;> exact ⟨rfl, rfl, rfl, rfl⟩

section
variable {s : State} {e : Nat}

theorem reroute_idle (rt : Option NewRoute) (h : coreUp s = false ∨ (stream s e).state = .free ∨ (stream s e).state = .pending) :
    exec (.reroute e rt) s = .next s := by
  show execReroute .. = _
  unfold execReroute
  rw [if_pos (by rcases h with h | h | h <;> simp [h])]
  rfl

variable (hu : coreUp s = true) (hr : (stream s e).receiver = true) (hf : (stream s e).state ≠ .free) (hp : (stream s e).state ≠ .pending)
  (hg : s.grove.role ≠ .root)
include hu hr hf hp

theorem reroute_receiver (rt : Option NewRoute) : exec (.reroute e rt) s = .next (rerouteHere s e rt) := by
  show execReroute .. = _
  unfold execReroute
  simp only [hu, hr, hf, hp]
  rfl

include hg

/-- A receiver that is not the Root, and is told of no route. -/
theorem reroute_none : exec (.reroute e none) s = .next (noRoute s e) := by
  rw [reroute_receiver hu hr hf hp]
  unfold rerouteHere foundRoute
  simp [hg]

/-- A route that is too long, or whose boundary has passed, is none. -/
theorem reroute_unfit (nr : NewRoute) (h : nr.hops.toNat = 0 ∨ 62 < nr.hops.toNat ∨ (stream s e).sdef.latency < nr.hops.toNat ∨ namedLate s nr.effective = true) :
    exec (.reroute e (some nr)) s = .next (noRoute s e) := by
  rw [reroute_receiver hu hr hf hp]
  unfold rerouteHere foundRoute
  simp [hg, h]

/-- A route that fits: its copy switches to it at the boundary; the entry keeps its present route until then. -/
theorem reroute_fit (nr : NewRoute)
    (h : ¬ (nr.hops.toNat = 0 ∨ 62 < nr.hops.toNat ∨ (stream s e).sdef.latency < nr.hops.toNat ∨ namedLate s nr.effective = true)) {v : State}
    (hv : bookSwitch s (stageAt s nr.effective) e (lostCopy s (stream s e)) nr.link.toNat nr.hops.toNat = .ok v) :
    ∃ t slots ring, exec (.reroute e (some nr)) s = .next t ∧
      (stream t e).state = (if (stream s e).state = .rerouting then .admitted else (stream s e).state) ∧
      (stream t e).link = (stream s e).link ∧ (stream t e).hops = (stream s e).hops ∧ (stream t e).ring = (stream s e).ring ∧
      ⟨stageAt s nr.effective, .switch e (lostCopy s (stream s e)) nr.link.toNat nr.hops.toNat slots ring⟩ ∈ t.clocks.staged := by
  obtain ⟨hb, slots, ring, hm⟩ := bookSwitch_booked hv
  have hto : rerouteHere s e (some nr) = setStream v e (onNewRoute (stream s e) (lostCopy s (stream s e)) []) := by
    rw [← hb.stream e]
    unfold rerouteHere foundRoute
    simp only [hg, decide_false, Bool.false_and, Bool.false_eq_true, if_false, Option.map_some, if_neg h, hv, hb.stream]
    rfl
  obtain ⟨hs, hrest⟩ := onNewRoute_spec (stream s e) (lostCopy s (stream s e)) []
  have hbusy : (onNewRoute (stream s e) (lostCopy s (stream s e)) []).state ≠ .free := by
    rw [hs]
    split
    · decide
    · exact hf
  refine ⟨_, slots, ring, reroute_receiver hu hr hf hp _, ?_⟩
  rw [hto, stream_setStream_busy v hbusy]
  exact ⟨hs, hrest.1, hrest.2.1, hrest.2.2, hm⟩

end

theorem noRoute_rerouting {s : State} {e : Nat} (h : (stream s e).state = .rerouting) : noRoute s e = s := if_pos h

/-- A stream whose route is lost and not replaced reads REROUTING and is reported. -/
theorem noRoute_reports {s : State} {e : Nat} (h : (stream s e).state ≠ .rerouting) :
    stream (noRoute s e) e = { stream s e with state := .rerouting } ∧
      tget 0 (noRoute s e).events.det 0x5017 = satInc31 (tget 0 s.events.det 0x5017) := by
  unfold noRoute
  rw [if_neg h, detect_stream, detect_count_self]
  exact ⟨stream_setStream_busy _ (by simp), rfl⟩

/-! ### PLAYOUT_BANK_FREE (R425) -/

section
variable {s : State} {b : Fin 32} {t : MT} (he : (bank s b).emptySince = some t)
include he

theorem playoutBankFree_frees (hk : (bank s b).kind = 2) (hr : ringsIn s b = []) (hd : isDue (now s) (periodFrom (mtPlus t (4 * 65536))) = true) :
    exec (.playoutBankFree b) s = .next (setBank s b { bank s b with kind := 0, id := 0, emptySince := none }) := by
  show execPlayoutBankFree b s = _
  unfold execPlayoutBankFree
  simp only [he]
  exact if_pos (by simp [hk, hr, hd])

theorem playoutBankFree_keeps (h : (bank s b).kind ≠ 2 ∨ ringsIn s b ≠ [] ∨ isDue (now s) (periodFrom (mtPlus t (4 * 65536))) = false) :
    exec (.playoutBankFree b) s = .next s := by
  show execPlayoutBankFree b s = _
  unfold execPlayoutBankFree
  simp only [he]
  exact if_neg (by rcases h with h | h | h <;> simp [h])

end

/-- Settles O49: a lemma per command of the stream table; what admission books leaves the streams and the links, and what it stages lies
at least 4 base periods ahead. -/
theorem streamCommands : Obligations.StreamCommands := by
  unfold Obligations.StreamCommands
  intro s e he x counts
  refine ⟨fun r cls ch lat margin flags src h => ?_, fun r id dst h => ⟨subscribe_busy h he id dst, subscribe_ok h he id dst⟩,
    fun code dev h ah terms cls ch l l2 => ?_, fun r target h hp => ?_, fun r h => ?_, reroute_idle, fun hu hr hf hp hg => ?_,
    fun b t hb => ⟨playoutBankFree_frees hb, playoutBankFree_keeps hb⟩⟩
  · intro cmd d inRange
    have hrange : sourceRange s cls ch lat margin flags src = true ↔ inRange := sourceRange_iff
    refine ⟨fun hn => sourceDef_range h he (hrange.not.mpr hn), fun hn => sourceDef_busy h he (hrange.mpr hn), fun hn hx =>
      ⟨sourceDef_conflict h he (hrange.mpr hn) hx, fun hm hs => ⟨_, sourceDef_ok h he (hrange.mpr hn) hx hm hs, ?_⟩⟩⟩
    have hd : d ≠ {} := fun hd => absurd hn.2.1 (by rw [show ch.toNat = 0 from congrArg SourceDef.channels hd]; decide)
    obtain ⟨hstream, hsrc, hrest⟩ := sourceDefined_spec (taken s r) e hd
    exact ⟨hstream, hsrc, congrArg (fun z : State => { z with streams := s.streams, cfg := s.cfg, epoch := s.epoch, grove := s.grove }) hrest⟩
  · refine ⟨subscribeResult_down, fun hu hx => ?_, stageAt_ahead _, subscribeResult_free, fun hu hp hf ht hk => ?_, fun hu hd ht hs hk => ?_⟩
    · obtain ⟨hfails, hfound⟩ := subscribeResult_receiver code dev h ah terms cls ch l l2 hu hx
      refine ⟨hfails, fun hn => ?_⟩
      obtain ⟨hnone, hcode, hplan⟩ := hfound hn
      refine ⟨hnone, hcode, fun p hp => ⟨(hplan p hp).1, fun hk => ⟨((hplan p hp).2 hk).1, fun v hv => ?_⟩⟩⟩
      obtain ⟨t, ht, ⟨h1, h2, h3, h4, h5, hlinks⟩, hsubs⟩ := ((hplan p hp).2 hk).2 v hv
      have hlink (k : Nat) : link t k = link s k := by unfold link; rw [hlinks]
      exact ⟨t, ht, h1, h2, h3, h4, h5, fun k => by rw [hlink]; exact ⟨rfl, rfl⟩, hsubs⟩
    · rw [subscribeResult_other hu hp hf ht, toldEntry_told hk]
    · have hbusy (st : StreamState) (hst : st ≠ .defined) : (stream s e).state ≠ st := fun h => hst (h.symm.trans hd)
      rw [subscribeResult_other hu (hbusy _ (by decide)) (hbusy _ (by decide)) ht, hk]
      exact ⟨fun hg => by rw [toldEntry_apart hs hg], fun hg hr ha hl => by rw [ha, toldEntry_leaves hd hs hg hr hl]⟩
  · exact ⟨streamArm_spec h he hp _, streamArm_spec h he hp _, streamCancel_spec h he hp⟩
  · exact ⟨streamRelease_refused h he, streamRelease_free h he, streamRelease_zero h he, streamRelease_frees h he⟩
  · refine ⟨fun hx => ?_, fun hx => ⟨_, reroute_none hu hr hf hp hg, noRoute_reports hx⟩, fun nr => ⟨reroute_unfit hu hr hf hp hg nr,
      fun h1 h2 h3 h4 v hv => reroute_fit hu hr hf hp hg nr ?_ hv⟩⟩
    · rw [reroute_none hu hr hf hp hg, noRoute_rerouting hx]
    · have h3' : nr.hops.toNat ≤ (stream s e).sdef.latency := h3
      simp only [h4, Bool.false_eq_true, or_false]
      omega

end Sys2Proof.Machine
end

section
/-! What the power manager's steps keep: the power block, Heartwood, fuses, flash and settings, the clock gates, and the count of one
detection code. -/
namespace Sys2Proof.Machine

/-- The blocks of the AON domain and of Heartwood, and the settings. -/
def hub (s : State) : Power × Heartwood × Fuses × Flash × Persist := (s.power, s.heart, s.fuses, s.flash, s.cfg)

/-- Media time, the engine clock's gate and lock, and the crystal's frequency. -/
def gates (s : State) : MT × Bool × Ecpll × Nat := (s.clocks.mt, s.clocks.gateOpen, s.clocks.ecpll, s.clocks.xoFreq)

/-- Both, the count of detections of code `c`, and crossing RAM. -/
def vital (c : Nat) (s : State) : (Power × Heartwood × Fuses × Flash × Persist) × (MT × Bool × Ecpll × Nat) × Long × Tbl Cross :=
  (hub s, gates s, tget 0 s.events.det c, s.mem.cross)

section
variable {c : Nat} {a b : State} (h : vital c a = vital c b)
include h

theorem hub_of_vital : hub a = hub b := congrArg (·.1) h
theorem power_of_vital : a.power = b.power := congrArg (·.1.1) h
theorem heart_of_vital : a.heart = b.heart := congrArg (·.1.2.1) h
theorem fuses_of_vital : a.fuses = b.fuses := congrArg (·.1.2.2.1) h
theorem flash_of_vital : a.flash = b.flash := congrArg (·.1.2.2.2.1) h
theorem cfg_of_vital : a.cfg = b.cfg := congrArg (·.1.2.2.2.2) h
theorem gates_of_vital : gates a = gates b := congrArg (·.2.1) h
theorem now_of_vital : now a = now b := congrArg (·.2.1.1) h
theorem gateOpen_of_vital : a.clocks.gateOpen = b.clocks.gateOpen := congrArg (·.2.1.2.1) h
theorem ecpll_of_vital : a.clocks.ecpll = b.clocks.ecpll := congrArg (·.2.1.2.2.1) h
theorem det_of_vital : tget 0 a.events.det c = tget 0 b.events.det c := congrArg (·.2.2.1) h
theorem crossRam_of_vital : a.mem.cross = b.mem.cross := congrArg (·.2.2.2) h

end

theorem vital_foldl {α : Type} {c : Nat} (f : State → α → State) (h : ∀ s x, vital c (f s x) = vital c s) (l : List α) (s : State) :
    vital c (l.foldl f s) = vital c s := by
  induction l generalizing s with
  | nil => rfl
  | cons x l ih => rw [List.foldl_cons, ih, h]

theorem vital_ite {p : Prop} [Decidable p] {c : Nat} {a b : State} {v} (h : vital c a = v) (h' : vital c b = v) :
    vital c (if p then a else b) = v := by
  split <;> assumption

section
variable (c : Nat) (s : State)

theorem vital_modEng (n : Nat) (f : Engine → Engine) : vital c (modEng s n f) = vital c s := rfl
theorem vital_setPort (n : Nat) (v : Port) : vital c (setPort s n v) = vital c s := rfl
theorem vital_setBridge (n : Nat) (v : Bridge) : vital c (setBridge s n v) = vital c s := rfl
theorem vital_setBank (n : Nat) (v : Bank) : vital c (setBank s n v) = vital c s := rfl
theorem vital_setSession (n : Nat) (v : Session) : vital c (setSession s n v) = vital c s := rfl
theorem vital_setStream (n : Nat) (v : Stream) : vital c (setStream s n v) = vital c s := rfl

theorem detectAs_count_self (k u : Nat) (x : Long) (i : Bool) : tget 0 (detectAs s k u x i).events.det k = satInc31 (tget 0 s.events.det k) :=
  (detectAs_count ..).trans (if_pos rfl)

theorem vital_detectAs {c k : Nat} (u : Nat) (x : Long) (i : Bool) (h : c ≠ k) : vital c (detectAs s k u x i) = vital c s := by
  have hd : tget 0 (detectAs s k u x i).events.det c = tget 0 s.events.det c := (detectAs_count ..).trans (if_neg h)
  unfold vital
  rw [hd]
  simp [hub, gates]

theorem vital_detect {c k : Nat} (u : Nat) (x : Long) (h : c ≠ k) : vital c (detect s k u x) = vital c s := vital_detectAs s u x false h

theorem vital_logRecord (v : Event) : vital c (logRecord s v) = vital c s := by simp [vital, hub, gates]

theorem vital_bumpEpoch : vital c (bumpEpoch s) = vital c s := by unfold bumpEpoch; exact vital_ite rfl rfl

theorem vital_eachEng (f : Engine → Engine) : vital c (eachEng s f) = vital c s := by
  unfold eachEng; exact vital_foldl _ (fun s (kv : Nat × Engine) => vital_modEng c s kv.1 f) _ _

theorem vital_eachPort (f : Nat → Port → Port) : vital c (eachPort s f) = vital c s := by
  unfold eachPort; exact vital_foldl _ (fun s (kv : Nat × Port) => vital_setPort c s kv.1 _) _ _

theorem vital_eachBridge (f : Nat → Bridge → Bridge) : vital c (eachBridge s f) = vital c s := by
  unfold eachBridge; exact vital_foldl _ (fun s (kv : Nat × Bridge) => vital_setBridge c s kv.1 _) _ _

theorem vital_drainQueue (h : c ≠ 0x6009) : vital c (drainQueue s) = vital c s := by
  have hlog : vital c (s.events.hwq.foldl logRecord { s with events := { s.events with hwq := [], hwOvf := 0, lostBefore := false } }) = vital c s :=
    (vital_foldl _ (vital_logRecord c) _ _).trans rfl
  unfold drainQueue
  dsimp only
  exact vital_ite hlog ((vital_detect _ _ _ h).trans hlog)

/-! ### Engines and fades -/

theorem vital_eachReplaced (n : Nat) (b : ProgBank) (f : List Word → Page → Page) : vital c (eachReplaced s n b f) = vital c s := by
  unfold eachReplaced; exact vital_foldl _ (fun s (x : Nat × List Word) => vital_modEng c s n _) _ _

theorem vital_endFade (n r : Nat) : vital c (endFade s n r) = vital c s := by
  unfold endFade
  dsimp only
  refine vital_ite rfl ?_
  exact (vital_modEng ..).trans (vital_eachReplaced ..)

theorem vital_gateEng (n : Nat) : vital c (gateEng s n) = vital c s := by
  unfold gateEng
  exact vital_ite rfl (vital_endFade c s n 3)

theorem vital_gateEngs : vital c (gateEngs s) = vital c s := vital_foldl _ (fun s (kv : Nat × Engine) => vital_gateEng c s kv.1) _ _

/-! ### Links -/

theorem vital_setPath (l : Nat) (b : Bool) (v : Path) : vital c (setPath s l b v) = vital c s := by unfold setPath; exact vital_ite rfl rfl

theorem vital_pathOut (l : Nat) (b : Bool) (st : PathState) : vital c (pathOut s l b st) = vital c s := by
  unfold pathOut
  dsimp only
  split <;> exact vital_setPath ..

theorem vital_endJoin (l k : Nat) : vital c (endJoin s l k) = vital c s := by unfold endJoin; exact vital_ite rfl rfl

theorem vital_sendPath (l : Nat) (b : Bool) (st : PathState) (h : c ≠ 0x5003) : vital c (sendPath s l b st) = vital c s := by
  unfold sendPath
  refine vital_ite ((vital_detect _ _ _ h).trans ?_) (vital_pathOut ..)
  show vital c (endJoin ..) = _
  rw [vital_endJoin, vital_pathOut]

theorem vital_steerRate (n : Nat) (low : Bool) (h : c ≠ 0x5003) : vital c (steerRate s n low) = vital c s := by
  unfold steerRate
  exact vital_ite ((vital_sendPath _ _ _ _ _ h).trans rfl) (vital_ite ((vital_sendPath _ _ _ _ _ h).trans rfl) rfl)

theorem vital_rateChange (n : Nat) (low : Bool) (h : c ≠ 0x5003) : vital c (rateChange s n low) = vital c s := by
  unfold rateChange
  exact vital_ite rfl (vital_steerRate _ _ _ _ h)

/-! ### Patrol, bridges -/

theorem vital_releaseRegion (p : Bool) (h : c ≠ 0x3005) : vital c (releaseRegion s p) = vital c s := by
  have hq (r : Nat) (u : State) (hu : vital c u = vital c s) : vital c (endPass u r) = vital c s := by
    unfold endPass
    exact (vital_detect _ _ _ h).trans hu
  unfold releaseRegion
  dsimp only
  have hs : vital c (setPatrol (if s.mem.patrol.left = 0 then s else setBank s ((s.mem.patrol.region - 10368) / 256) { bank s ((s.mem.patrol.region - 10368) / 256) with
      queue := (bank s ((s.mem.patrol.region - 10368) / 256)).queue.filter (fun q => decide (q.who ≠ 5)) }) { s.mem.patrol with
      state := if p || s.mem.patrol.pauseReq then .paused else .idle, redirected := false, pauseReq := false
      region := s.mem.patrol.region + 1, left := 0, cells := [] }) = vital c s := vital_ite (a := s) rfl rfl
  exact vital_ite (hq _ _ hs) (vital_ite (hq _ _ hs) hs)

theorem vital_stopPatrol (h : c ≠ 0x3005) : vital c (stopPatrol s) = vital c s := by
  unfold stopPatrol
  exact vital_ite (vital_releaseRegion _ _ _ h) rfl

theorem vital_resumePatrol : vital c (resumePatrol s) = vital c s := by unfold resumePatrol; exact vital_ite rfl rfl

theorem vital_unlockSide (b : Nat) (e p i : Bool) (h : c ≠ 0x4011) : vital c (unlockSide s b e p i) = vital c s := by
  have hset (u : State) (d : Side) : vital c (setSide u b e d) = vital c u := by unfold setSide; exact vital_ite rfl rfl
  unfold unlockSide
  dsimp only
  split
  · rfl
  · rfl
  · exact hset ..
  · exact (vital_detectAs _ _ _ _ h).trans (hset ..)

end

/-! ### Trips (R506, R507) -/

section
variable {c : Nat} (s : State)

theorem vital_record {k : Nat} (u : Nat) (x : Long) (m : MT) (i : Bool) : vital c (record s k u x m i) = vital c s := by
  unfold vital
  rw [record_det]
  simp [hub, gates]

theorem vital_detectAon {k : Nat} (x : Long) (h : c ≠ k) : vital c (detectAon s k x) = vital c s := by
  have hd : tget 0 (countDet s k).events.det c = tget 0 s.events.det c := tget_tset_other _ _ _ h
  unfold detectAon
  refine vital_ite ((vital_record ..).trans ?_) (vital_detect _ _ _ h)
  unfold vital
  rw [hd]
  rfl

theorem hub_detectAon (k : Nat) (x : Long) : hub (detectAon s k x) = hub s := hub_of_vital (vital_detectAon s x (Nat.succ_ne_self k))

theorem detectAon_counts (k : Nat) (x : Long) : tget 0 (detectAon s k x).events.det k = satInc31 (tget 0 s.events.det k) := by
  unfold detectAon
  split
  · rw [record_det]
    exact tget_tset_of_ne _ _ (satInc31_ne _)
  · exact detect_count_self ..

theorem vital_endSessions (p : Session → Bool) : vital c (endSessions s p) = vital c s := by
  unfold endSessions
  refine vital_foldl _ (fun s k => ?_) _ _
  exact vital_ite rfl rfl

/-- Heartwood is wiped for a cause, and the wipe is counted. -/
def WipedFor (cause : Nat) (s t : State) : Prop :=
  t.heart.keys = [] ∧ t.heart.identity = [] ∧ t.heart.lastCause = cause ∧ t.fuses.tamperCount = min 255 (s.fuses.tamperCount + 1) ∧
    t.fuses.rollbackMin = s.fuses.rollbackMin ∧ tget 0 t.events.det 0x7008 = satInc31 (tget 0 s.events.det 0x7008)

/-- A trip before its records: Heartwood wiped, the tamper count one higher, and the last of 255 ending the device's life. -/
def tripped (s : State) (cause : Nat) : State :=
  let s := wipeHeart s cause
  let n := min 255 (s.fuses.tamperCount + 1)
  let ends := decide (n = 255) && decide (s.fuses.life ≠ .ended)
  { s with fuses := { s.fuses with tamperCount := n, life := if ends then .ended else s.fuses.life } }

/-- The two records of every trip. -/
def tripRecords (s : State) (cause code : Nat) (x : Long) : State :=
  detectAon (detectAon (tripped s cause) code x) 0x7008 (BitVec.ofNat 32 cause)

theorem tripWipe_cases (cause code : Nat) (x : Long) :
    tripWipe s cause code x = tripRecords s cause code x ∨ tripWipe s cause code x = detectAon (tripRecords s cause code x) 0x7009 4 :=
  (ite_eq_or_eq _ _ _).symm

theorem det_tripped (c cause : Nat) : tget 0 (tripped s cause).events.det c = tget 0 s.events.det c := by
  unfold tripped wipeHeart
  dsimp only
  exact det_of_vital (vital_endSessions s (fun _ => true))

theorem tripped_wiped (cause : Nat) : (tripped s cause).heart.keys = [] ∧ (tripped s cause).heart.identity = [] ∧
    (tripped s cause).heart.lastCause = cause ∧ (tripped s cause).fuses.tamperCount = min 255 (s.fuses.tamperCount + 1) ∧
      (tripped s cause).fuses.rollbackMin = s.fuses.rollbackMin ∧ (tripped s cause).power = s.power := by
  have hv := vital_endSessions (c := 0) s (fun _ => true)
  unfold tripped wipeHeart
  dsimp only
  rw [fuses_of_vital hv]
  exact ⟨rfl, rfl, rfl, rfl, rfl, power_of_vital hv⟩

theorem tripWipe_hub (cause code : Nat) (x : Long) : hub (tripWipe s cause code x) = hub (tripped s cause) := by
  have h : hub (tripRecords s cause code x) = hub (tripped s cause) := (hub_detectAon ..).trans (hub_detectAon ..)
  rcases tripWipe_cases s cause code x with e | e <;> rw [e]
  · exact h
  · exact (hub_detectAon ..).trans h

/-- A trip counts its own code and HEARTWOOD_WIPED. -/
theorem tripWipe_counts (cause : Nat) {code : Nat} (x : Long) (h8 : code ≠ 0x7008) (h9 : code ≠ 0x7009) :
    tget 0 (tripWipe s cause code x).events.det code = satInc31 (tget 0 s.events.det code) ∧
      tget 0 (tripWipe s cause code x).events.det 0x7008 = satInc31 (tget 0 s.events.det 0x7008) := by
  have hlast (c : Nat) (hc : c ≠ 0x7009) : tget 0 (tripWipe s cause code x).events.det c = tget 0 (tripRecords s cause code x).events.det c := by
    rcases tripWipe_cases s cause code x with e | e <;> rw [e]
    exact det_of_vital (vital_detectAon _ _ hc)
  constructor
  · rw [hlast _ h9, tripRecords, det_of_vital (vital_detectAon _ _ h8), detectAon_counts, det_tripped]
  · rw [hlast _ (by decide), tripRecords, detectAon_counts, det_of_vital (vital_detectAon _ _ h8.symm), det_tripped]

theorem tripWipe_wiped (cause : Nat) {code : Nat} (x : Long) (h8 : code ≠ 0x7008) (h9 : code ≠ 0x7009) :
    WipedFor cause s (tripWipe s cause code x) ∧ (tripWipe s cause code x).power = s.power := by
  have hub := tripWipe_hub s cause code x
  have hheart : (tripWipe s cause code x).heart = _ := congrArg (·.2.1) hub
  have hfuses : (tripWipe s cause code x).fuses = _ := congrArg (·.2.2.1) hub
  obtain ⟨h1, h2, h3, h4, h5, hpower⟩ := tripped_wiped s cause
  unfold WipedFor
  rw [hheart, hfuses]
  exact ⟨⟨h1, h2, h3, h4, h5, (tripWipe_counts s cause x h8 h9).2⟩, (congrArg (·.1) hub : _).trans hpower⟩

/-! ### FAULT (R504) -/

/-- ECPLL acquires, and SCLK is no longer divided. -/
def restEnds (s : State) : State := { s with clocks := { s.clocks with ecpll := .acquire }, power := { s.power with dividerAt := some (now s) } }

theorem vital_linksUp (h : c ≠ 0x5003) : vital c ((List.range 4).foldl (fun s l => steerRate s l (link s l).lowPeer) s) = vital c s :=
  vital_foldl _ (fun s (l : Nat) => vital_steerRate c s l (link s l).lowPeer h) _ _

theorem endRest_keeps (h : c ≠ 0x5003) : (endRest s).heart = s.heart ∧ (endRest s).fuses = s.fuses ∧
    tget 0 (endRest s).events.det c = tget 0 s.events.det c ∧ (endRest s).power.tjC = s.power.tjC := by
  have hv := vital_linksUp (restEnds s) h
  have he : endRest s = if ownLow s then (List.range 4).foldl (fun s l => steerRate s l (link s l).lowPeer) (restEnds s) else s := rfl
  rw [he]
  split
  · rw [heart_of_vital hv, fuses_of_vital hv, det_of_vital hv, power_of_vital hv]
    exact ⟨rfl, rfl, rfl, rfl⟩
  · exact ⟨rfl, rfl, rfl, rfl⟩

/-- A device in FAULT with its cause, and the rest as it was. -/
theorem enterFault_spec (cause : Nat) (hr : running s = true) : (enterFault s cause).power.dev = .fault ∧
    (enterFault s cause).power.faultCause = cause ∧ (enterFault s cause).power.aonCause = cause ∧ (enterFault s cause).power.tjC = s.power.tjC ∧
    (enterFault s cause).heart = s.heart ∧ (enterFault s cause).fuses = s.fuses ∧
    ∀ c, c ≠ 0x5003 → tget 0 (enterFault s cause).events.det c = tget 0 s.events.det c := by
  have hg (c : Nat) := vital_gateEngs c s
  have hk (c : Nat) (hc : c ≠ 0x5003) := endRest_keeps (gateEngs s) hc
  obtain ⟨hheart, hfuses, -, htj⟩ := hk 0 (by decide)
  unfold enterFault
  rw [if_pos hr]
  exact ⟨rfl, rfl, rfl, htj.trans (congrArg Power.tjC (power_of_vital (hg 0))), hheart.trans (heart_of_vital (hg 0)),
    hfuses.trans (fuses_of_vital (hg 0)), fun c hc => (hk c hc).2.2.1.trans (det_of_vital (hg c))⟩

/-- A monitor's trip: the wipe, and the stop in FAULT. -/
theorem trip_spec (cause fault : Nat) {code : Nat} (x : Long) (h3 : code ≠ 0x5003) (h8 : code ≠ 0x7008) (h9 : code ≠ 0x7009)
    (hr : running s = true) : let t := enterFault (tripWipe s cause code x) fault
    WipedFor cause s t ∧ tget 0 t.events.det code = satInc31 (tget 0 s.events.det code) ∧ t.power.dev = .fault ∧
      t.power.faultCause = fault ∧ t.power.aonCause = fault ∧ t.power.tjC = s.power.tjC := by
  intro t
  obtain ⟨hw, hp⟩ := tripWipe_wiped s cause x h8 h9
  have hrun : running (tripWipe s cause code x) = true := by unfold running at hr ⊢; rw [hp]; exact hr
  obtain ⟨h1, h2, h4, h5, hheart, hfuses, hdet⟩ := enterFault_spec (tripWipe s cause code x) fault hrun
  refine ⟨?_, (hdet _ h3).trans (tripWipe_counts s cause x h8 h9).1, h1, h2, h4, h5.trans (congrArg Power.tjC hp)⟩
  unfold WipedFor at hw ⊢
  rw [hheart, hfuses, hdet _ (by decide)]
  exact hw

end

/-! ### Restarts of the control core (R487, R508, R509) -/

section
variable {c : Nat} (s : State)

theorem vital_stage (t : MT) (a : StageAct) : vital c (stage s t a) = vital c s := rfl

theorem vital_unmap (e : Nat) (o : Option Nat) (t : MT) : vital c (unmap s e o t) = vital c s := by
  unfold unmap
  refine (vital_foldl _ (fun s kv => vital_ite rfl ?_) _ _).trans (vital_ite rfl rfl)
  exact vital_foldl _ (fun s out => vital_ite rfl (vital_stage ..)) _ _

theorem vital_markEmpty : vital c (markEmpty s) = vital c s := by
  unfold markEmpty
  exact vital_foldl _ (fun s b => vital_ite (vital_setBank ..) rfl) _ _

theorem vital_freeEntry (e : Nat) (t : MT) : vital c (freeEntry s e t) = vital c s := by
  have hu := vital_unmap (c := c) s e none t
  unfold freeEntry
  refine (vital_markEmpty _).trans ((vital_setStream ..).trans ?_)
  exact vital_ite hu hu

theorem vital_releaseShare (e : Nat) : vital c (releaseShare s e) = vital c s := by
  unfold releaseShare
  exact vital_ite (vital_freeEntry ..) (vital_ite (vital_ite rfl rfl) rfl)

theorem vital_releasePending : vital c (releasePending s) = vital c s := by
  unfold releasePending
  exact vital_foldl _ (fun s (kv : Nat × Stream) => vital_ite (vital_setStream ..) (vital_releaseShare ..)) _ _

theorem vital_skipRestart : vital c (skipRestart s) = vital c s := by
  unfold skipRestart
  exact vital_ite rfl rfl

/-- The power block as a restart leaves it. -/
def restartPower (p : Power) (at_ : MT) (cause : Nat) : Power :=
  { p with
    ccDown := some cause, ccAt := at_, compatChange := false
    saving := false, saveResult := if p.saving then eBusy else p.saveResult
    fwState := if p.fwState = .writing then .failed else p.fwState
    fwResult := if p.fwState = .writing then eIntegrity else p.fwResult
    fwIncoming := none
    slotA := if p.fwState = .writing && p.fwSlotB then {} else p.slotA
    slotB := if p.fwState = .writing && !p.fwSlotB then {} else p.slotB }

/-- What a restart cuts short: the requests that wait, the firmware's write. -/
def restartCuts (s : State) (cause : Nat) : State :=
  let m := s.mem.patrol
  { s with
    mgmt := { s.mgmt with qEth := [], qHq := [], qGrove := [], relays := [] }
    grove := { s.grove with reasm := [], delivered := [], arrived := [] }
    mem := { s.mem with patrol := if m.state = .idle then { m with state := .paused } else { m with pauseReq := true } }
    flash := { s.flash with writing := none }
    power := restartPower s.power (now s) cause }

/-- A restart ends what hangs on the control core, and reports the loads that it cuts. -/
theorem beginRestart_cuts (cause : Nat) : ∃ u, (∀ c, vital c u = vital c s) ∧
    beginRestart s cause = (tkeys (fun e : Engine => e.loading.isSome) s.engines).foldl (fun s n => detect s 0x2013 n (eBusy.setWidth 32))
      (restartCuts u cause) := by
  unfold beginRestart
  extract_lets u1 u2 u3 u4 m p cut u5
  have h2 (c : Nat) : vital c u2 = vital c u1 := vital_foldl _ (fun s (k : Nat) => vital_ite (vital_setSession c s k _) rfl) _ _
  have h4 (c : Nat) : vital c u4 = vital c u3 := vital_foldl _ (fun s (kv : Nat × Engine) => vital_ite (vital_modEng c s kv.1 _) rfl) _ _
  have h4 (c : Nat) : vital c u4 = vital c s :=
    (h4 c).trans ((vital_releasePending u2).trans ((h2 c).trans (vital_skipRestart s)))
  refine ⟨u4, h4, ?_⟩
  clear_value u4
  rfl

theorem vital_beginRestart (cause : Nat) : ∃ u, (∀ c, vital c u = vital c s) ∧
    ∀ c, c ≠ 0x2013 → vital c (beginRestart s cause) = vital c (restartCuts u cause) := by
  obtain ⟨u, hu, he⟩ := beginRestart_cuts s cause
  exact ⟨u, hu, fun c h => by rw [he]; exact vital_foldl _ (fun s n => vital_detect _ _ _ h) _ _⟩

theorem beginRestart_power (cause : Nat) : (beginRestart s cause).power = restartPower s.power (now s) cause := by
  obtain ⟨u, hu, he⟩ := vital_beginRestart s cause
  rw [power_of_vital (he 0 (by decide)), ← power_of_vital (hu 0), ← now_of_vital (hu 0)]
  rfl

theorem beginRestart_now (cause : Nat) : now (beginRestart s cause) = now s := by
  obtain ⟨u, hu, he⟩ := vital_beginRestart s cause
  rw [now_of_vital (he 0 (by decide)), ← now_of_vital (hu 0)]
  rfl

theorem beginRestart_det (cause : Nat) (h : c ≠ 0x2013) : tget 0 (beginRestart s cause).events.det c = tget 0 s.events.det c := by
  obtain ⟨u, hu, he⟩ := vital_beginRestart s cause
  rw [det_of_vital (he c h), ← det_of_vital (hu c)]
  rfl

/-- Requests that waited are lost. -/
theorem beginRestart_queues (cause : Nat) : (beginRestart s cause).mgmt.qEth = [] ∧ (beginRestart s cause).mgmt.qHq = [] ∧
    (beginRestart s cause).mgmt.qGrove = [] := by
  have hm (l : List Nat) (u : State) : (l.foldl (fun s n => detect s 0x2013 n (eBusy.setWidth 32)) u).mgmt = u.mgmt := by
    induction l generalizing u with
    | nil => rfl
    | cons n l ih => rw [List.foldl_cons, ih, detect_mgmt]
  obtain ⟨u, -, he⟩ := beginRestart_cuts s cause
  rw [he, hm]
  exact ⟨rfl, rfl, rfl⟩

/-! #### Lockstep -/

/-- A mismatch, noted. -/
def mismatchNoted (was : State) (cycle : Long) : State :=
  let s := writeCut was (detectAs (beginRestart was 1) 0x6005 devUnit cycle false)
  { s with events := { s.events with
    mismatches := satInc31 s.events.mismatches, lastMismatch := now s, window := (mismatchWindow was ++ [now s]).take 4 } }

theorem vital_writeCut (was : State) (h : c ≠ 0x6006) : vital c (writeCut was s) = vital c s := by
  unfold writeCut
  exact vital_ite (vital_detect _ _ _ h) rfl

theorem writeCut_mgmt (was : State) : (writeCut was s).mgmt = s.mgmt := by
  unfold writeCut
  split
  · exact detect_mgmt ..
  · rfl

theorem mismatchNoted_power (cycle : Long) : (mismatchNoted s cycle).power = restartPower s.power (now s) 1 := by
  unfold mismatchNoted
  exact (power_of_vital (vital_writeCut (c := 0) _ s (by decide))).trans ((detectAs_power ..).trans (beginRestart_power s 1))

theorem mismatchNoted_det (cycle : Long) : tget 0 (mismatchNoted s cycle).events.det 0x6005 = satInc31 (tget 0 s.events.det 0x6005) := by
  unfold mismatchNoted
  dsimp only
  rw [det_of_vital (vital_writeCut (c := 0x6005) _ s (by decide)), detectAs_count, if_pos rfl, beginRestart_det _ _ (by decide)]

theorem mismatchNoted_queues (cycle : Long) : (mismatchNoted s cycle).mgmt.qEth = [] ∧ (mismatchNoted s cycle).mgmt.qHq = [] ∧
    (mismatchNoted s cycle).mgmt.qGrove = [] := by
  unfold mismatchNoted
  dsimp only
  rw [writeCut_mgmt, detectAs_mgmt]
  exact beginRestart_queues s 1

theorem mismatchNoted_window (cycle : Long) (h : (mismatchWindow s).length < 4) :
    (mismatchNoted s cycle).events.window = mismatchWindow s ++ [now s] := by
  unfold mismatchNoted
  dsimp only
  rw [now_of_vital (vital_writeCut (c := 0) _ s (by decide)), detectAs_now, beginRestart_now]
  exact List.take_of_length_le (by rw [List.length_append, List.length_singleton]; omega)

variable {s : State}

theorem lockstep_restarts {cycle : Long} (hu : coreUp s = true) (h : (mismatchWindow s).length < 4) (hf : s.power.fwState ≠ .trial) :
    exec (.lockstep cycle) s = .next (mismatchNoted s cycle) := by
  have hs : (mismatchNoted s cycle).power.fwState ≠ .trial := by
    rw [mismatchNoted_power]
    unfold restartPower
    dsimp only
    split
    · decide
    · exact hf
  have hhit : lockstepHit s cycle false = mismatchNoted s cycle := (if_neg (by omega)).trans (if_pos hs)
  rw [← hhit]
  exact if_pos hu

theorem lockstep_faults {cycle : Long} (hu : coreUp s = true) (h : 4 ≤ (mismatchWindow s).length) : exec (.lockstep cycle) s =
    .next (drainQueue (enterFault (setPower (skipRestart (mismatchNoted s cycle)) (fun p => { p with ccDown := none })) 3)) := by
  have hhit : lockstepHit s cycle false = drainQueue (enterFault (setPower (skipRestart (mismatchNoted s cycle)) (fun p => { p with ccDown := none })) 3) :=
    if_pos h
  rw [← hhit]
  exact if_pos hu

theorem lockstep_spec (cycle : Long) (hu : coreUp s = true) :
    ((mismatchWindow s).length < 4 → s.power.fwState ≠ .trial → ∃ t, exec (.lockstep cycle) s = .next t ∧ t.power.ccDown = some 1 ∧
      tget 0 t.events.det 0x6005 = satInc31 (tget 0 s.events.det 0x6005) ∧ t.events.window = mismatchWindow s ++ [now s] ∧ t.mgmt.qEth = [] ∧
      t.mgmt.qHq = [] ∧ t.mgmt.qGrove = []) ∧
    (4 ≤ (mismatchWindow s).length → running s = true → ∃ t, exec (.lockstep cycle) s = .next t ∧ t.power.dev = .fault ∧
      t.power.faultCause = 3 ∧ tget 0 t.events.det 0x6005 = satInc31 (tget 0 s.events.det 0x6005)) := by
  refine ⟨fun h hf => ⟨_, lockstep_restarts hu h hf, ?_, mismatchNoted_det s cycle, mismatchNoted_window s cycle h, mismatchNoted_queues s cycle⟩,
    fun h hr => ⟨_, lockstep_faults hu h, ?_⟩⟩
  · rw [mismatchNoted_power]
    rfl
  · have hv := vital_skipRestart (c := 0x6005) (mismatchNoted s cycle)
    have hp := power_of_vital hv
    have hd := det_of_vital hv
    rw [mismatchNoted_power] at hp
    rw [mismatchNoted_det] at hd
    generalize skipRestart (mismatchNoted s cycle) = u at hp hd
    have hrun : running (setPower u (fun p => { p with ccDown := none })) = true := by
      unfold running setPower at *
      dsimp only
      rw [hp]
      exact hr
    obtain ⟨h1, h2, -, -, -, -, hdet⟩ := enterFault_spec _ 3 hrun
    have hdrain := vital_drainQueue 0x6005 (enterFault (setPower u (fun p => { p with ccDown := none })) 3) (by decide)
    rw [power_of_vital hdrain, det_of_vital hdrain]
    exact ⟨h1, h2, (hdet _ (by decide)).trans hd⟩

end

/-! #### Trials and the end of a restart -/

section
variable {c : Nat} (s : State)

theorem vital_recheckCompat (old : Byte) : vital c (recheckCompat s old) = vital c s := by
  have hj : vital c (((List.range 4).filter (fun l => decide ((link s l).join = 4))).foldl (fun s l => endJoin s l 3) s) = vital c s :=
    vital_foldl _ (fun s l => vital_endJoin c s l 3) _ _
  unfold recheckCompat
  dsimp only
  exact vital_ite rfl (vital_ite hj hj)

/-- A trial that ends: the firmware state is FAILED in the other slot, and FW_FAILED is counted. -/
theorem revertTrial_spec : (revertTrial s).power.fwState = .failed ∧ (revertTrial s).power.fwSlotB = (!s.power.fwSlotB) ∧
    tget 0 (revertTrial s).events.det 0x6006 = satInc31 (tget 0 s.events.det 0x6006) := by
  have hp := beginRestart_power s 2
  have hd := beginRestart_det (c := 0x6006) s 2 (by decide)
  unfold revertTrial restartOther
  dsimp only
  generalize beginRestart s 2 = u at hp hd
  have hv := vital_recheckCompat (c := 0x6006)
    (setPower u (fun p => { p with fwSlotB := !p.fwSlotB, fwState := .failed, trialMismatches := 0, trialAt := now u })) (ownCompat s)
  rw [detect_power, power_of_vital hv, detect_count_self, det_of_vital hv]
  refine ⟨rfl, ?_, congrArg satInc31 hd⟩
  show (!u.power.fwSlotB) = _
  rw [hp]
  rfl

theorem trialDictionaryTimeout_spec {s : State} {cause : Nat} (hc : s.power.ccDown = some cause) :
    (s.power.fwState = .trial → passed s s.power.ccAt 2000 = true → ∃ t, exec .trialDictionaryTimeout s = .next t ∧ t.power.fwState = .failed ∧
      t.power.fwSlotB = (!s.power.fwSlotB) ∧ tget 0 t.events.det 0x6006 = satInc31 (tget 0 s.events.det 0x6006)) ∧
    (s.power.fwState ≠ .trial ∨ passed s s.power.ccAt 2000 = false → exec .trialDictionaryTimeout s = .next s) := by
  refine ⟨fun hf hp => ⟨_, if_pos ?_, revertTrial_spec s⟩, fun h => if_neg ?_⟩
  · simp [hf, hc, hp]
  · rcases h with h | h <;> simp [h]

/-! A record that the control core takes goes to the log: nothing is held in the hardware queue. -/

theorem logRecord_held (v : Event) : (logRecord s v).events.hwq = s.events.hwq ∧ (logRecord s v).events.hwOvf = s.events.hwOvf := by
  simp only [logRecord, and_self]

theorem coreUp_of_power {s t : State} (h : t.power = s.power) : coreUp t = coreUp s := by unfold coreUp; rw [h]

theorem detect_held {s : State} (hu : coreUp s = true) (k u : Nat) (x : Long) :
    (detect s k u x).events.hwq = s.events.hwq ∧ (detect s k u x).events.hwOvf = s.events.hwOvf := by
  have hrec (v : State) (hv : coreUp v = true) (m : MT) : (record v k u x m false).events.hwq = v.events.hwq ∧
      (record v k u x m false).events.hwOvf = v.events.hwOvf := by
    unfold record
    rw [if_pos hv]
    exact logRecord_held ..
  unfold detect detectAs detectWhen
  dsimp only
  split
  · split
    · exact ⟨rfl, rfl⟩
    · exact hrec { countDet s k with events := { (countDet s k).events with limits := _ } } hu _
  · exact hrec (countDet s k) hu _

theorem drainQueue_held {s : State} (hu : coreUp s = true) : (drainQueue s).events.hwq = [] ∧ (drainQueue s).events.hwOvf = 0 := by
  let u : State := { s with events := { s.events with hwq := [], hwOvf := 0, lostBefore := false } }
  have hl (l : List Event) (v : State) : (l.foldl logRecord v).events.hwq = v.events.hwq ∧ (l.foldl logRecord v).events.hwOvf = v.events.hwOvf := by
    induction l generalizing v with
    | nil => exact ⟨rfl, rfl⟩
    | cons x l ih => rw [List.foldl_cons, (ih _).1, (ih _).2]; exact logRecord_held v x
  have hv : vital 0 (s.events.hwq.foldl logRecord u) = vital 0 u := vital_foldl _ (vital_logRecord 0) _ _
  have hcore : coreUp (s.events.hwq.foldl logRecord u) = true := (coreUp_of_power (power_of_vital hv)).trans hu
  have hheld := hl s.events.hwq u
  unfold drainQueue
  dsimp only
  split
  · exact hheld
  · exact (detect_held (s := { s.events.hwq.foldl logRecord u with events := { (s.events.hwq.foldl logRecord u).events with lostBefore := true } })
      hcore _ _ _).imp (·.trans hheld.1) (·.trans hheld.2)

/-- The control core returns: what was held reaches the log, and then CC_RESTART. -/
theorem ccRestart_returns {s : State} {cause : Nat} (hc : s.power.ccDown = some cause)
    (hs : ¬ ((s.power.dev = .fault ∧ (s.power.faultCause = 1 ∨ s.power.faultCause = 2 ∨ s.power.faultCause = 5)) ∨
      (cause = 3 ∧ s.clocks.scpllLock = false))) (hd : s.power.dev ≠ .booting) (hh : s.power.held = false) :
    ∃ t, exec .ccRestart s = .next t ∧ t.power = { s.power with ccDown := none } ∧
      tget 0 t.events.det 0x6004 = satInc31 (tget 0 s.events.det 0x6004) ∧ t.events.hwq = [] ∧ t.events.hwOvf = 0 := by
  have hstay : ¬ ((decide (s.power.dev = .fault) && [1, 2, 5].contains s.power.faultCause || (decide (cause = 3) && !s.clocks.scpllLock)) = true) := by
    simpa using hs
  have hv := vital_skipRestart (c := 0x6004) s
  have hp := power_of_vital hv
  have hdet := det_of_vital hv
  have hexec : exec .ccRestart s = .next (resumePatrol (detect (drainQueue (setPower (skipRestart s) (fun p => { p with ccDown := none }))) 0x6004
      devUnit (BitVec.ofNat 32 cause))) := by
    show execCcRestart s = _
    unfold execCcRestart
    simp only [hc]
    exact if_neg hstay
  rw [hexec]
  generalize skipRestart s = u at hp hdet
  let w := setPower u (fun p => { p with ccDown := none })
  have hw : w.power = { s.power with ccDown := none } := congrArg (fun p : Power => { p with ccDown := none }) hp
  have hcore : coreUp w = true := by
    unfold coreUp
    rw [hw]
    have hfault : ¬ (s.power.dev = .fault ∧ (s.power.faultCause = 1 ∨ s.power.faultCause = 2 ∨ s.power.faultCause = 5)) := fun h => hs (.inl h)
    simpa [hh, hd, imp_iff_not_or] using hfault
  have hdrain := vital_drainQueue 0x6004 w (by decide)
  have hheld := drainQueue_held hcore
  have hcore' : coreUp (drainQueue w) = true := (coreUp_of_power (power_of_vital hdrain)).trans hcore
  have hlast := detect_held hcore' 0x6004 devUnit (BitVec.ofNat 32 cause)
  have hres (x : State) : (resumePatrol x).events = x.events := by
    unfold resumePatrol
    dsimp only
    split <;> rfl
  refine ⟨_, rfl, ?_, ?_, ?_, ?_⟩
  · rw [power_of_vital (vital_resumePatrol 0 _), detect_power, power_of_vital hdrain, hw]
  · rw [hres, detect_count_self, det_of_vital hdrain]
    exact congrArg satInc31 hdet
  · rw [hres, hlast.1, hheld.1]
  · rw [hres, hlast.2, hheld.2]

theorem ccRestart_stays {s : State} {cause : Nat} (hc : s.power.ccDown = some cause)
    (hs : (s.power.dev = .fault ∧ (s.power.faultCause = 1 ∨ s.power.faultCause = 2 ∨ s.power.faultCause = 5)) ∨
      (cause = 3 ∧ s.clocks.scpllLock = false)) : exec .ccRestart s = .next s := by
  show execCcRestart s = _
  unfold execCcRestart
  simp only [hc]
  exact if_pos (by simpa using hs)

end

/-! ### Monitors, VCORE and I/O banks (R474, R493, R498, R506, R507, R522) -/

section
variable {s : State}

/-- A tamper event wipes, in every state of the device, and does not stop it. -/
theorem tamper_spec : ∃ t, exec .tamper s = .next t ∧ WipedFor 1 s t ∧ tget 0 t.events.det 0x7004 = satInc31 (tget 0 s.events.det 0x7004) ∧
    t.power.dev = s.power.dev := by
  obtain ⟨hw, hp⟩ := tripWipe_wiped s 1 (code := 0x7004) 0 (by decide) (by decide)
  exact ⟨_, rfl, hw, (tripWipe_counts s 1 0 (by decide) (by decide)).1, congrArg Power.dev hp⟩

theorem vmonTrip_spec (b : Bool) (hr : running s = true) : ∃ t, exec (.vmonTrip b) s = .next t ∧ WipedFor 2 s t ∧
    tget 0 t.events.det 0x7005 = satInc31 (tget 0 s.events.det 0x7005) ∧ t.power.dev = .fault ∧ t.power.faultCause = 4 ∧ t.power.aonCause = 4 := by
  obtain ⟨h1, h2, h3, h4, h5, -⟩ := trip_spec s 2 4 (code := 0x7005) (if b then 2 else 1) (by decide) (by decide) (by decide) hr
  exact ⟨_, rfl, h1, h2, h3, h4, h5⟩

/-- The clock monitor in a window that counts: nothing happens in its band. -/
theorem cmonTrip_spec (mhz : Long) (hl : s.clocks.scpllLock = true) (hv : sclkDivided s = false) :
    (∀ d, s.power.dividerAt = some d → passed s d 1 = false → exec (.cmonTrip mhz) s = .next s) ∧
    ((∀ d, s.power.dividerAt = some d → passed s d 1 = true) →
      (375 ≤ mhz.toNat → mhz.toNat ≤ 625 → exec (.cmonTrip mhz) s = .next s) ∧
      (mhz.toNat < 375 ∨ 625 < mhz.toNat → running s = true → ∃ t, exec (.cmonTrip mhz) s = .next t ∧ WipedFor 3 s t ∧
        tget 0 t.events.det 0x7006 = satInc31 (tget 0 s.events.det 0x7006) ∧ t.power.dev = .fault ∧ t.power.faultCause = 5)) := by
  have hexec : exec (.cmonTrip mhz) s = if windowCut s || between 375 625 mhz.toNat then .next s else .next (enterFault (tripWipe s 3 0x7006 mhz) 5) := by
    show execCmonTrip mhz s = _
    unfold execCmonTrip
    rw [hv, hl]
    rfl
  rw [hexec]
  refine ⟨fun d hd hp => if_pos ?_, fun hw => ?_⟩
  · unfold windowCut
    rw [hd, Option.any_some, hp]
    rfl
  · have hcut : windowCut s = false := by
      unfold windowCut
      cases hd : s.power.dividerAt with
      | none => rfl
      | some d => rw [Option.any_some, hw d hd]; rfl
    refine ⟨fun h1 h2 => if_pos (by simp [between, h1, h2]), fun h hr => ?_⟩
    obtain ⟨h1, h2, h3, h4, -⟩ := trip_spec s 3 5 (code := 0x7006) mhz (by decide) (by decide) (by decide) hr
    refine ⟨_, if_neg ?_, h1, h2, h3, h4⟩
    simp only [hcut, between, Bool.false_or, Bool.and_eq_true, decide_eq_true_eq]
    omega

/-- The temperature monitor: nothing happens in its range. -/
theorem tmonTrip_spec (tj : Word) : (-55 ≤ tj.toInt → tj.toInt ≤ 125 → exec (.tmonTrip tj) s = .next s) ∧
    (tj.toInt < -55 ∨ 125 < tj.toInt → running s = true → ∃ t, exec (.tmonTrip tj) s = .next t ∧ WipedFor 4 s t ∧
      tget 0 t.events.det 0x7007 = satInc31 (tget 0 s.events.det 0x7007) ∧ t.power.dev = .fault ∧ t.power.faultCause = 6 ∧ t.power.tjC = tj) := by
  refine ⟨fun h1 h2 => if_pos (by simp [h1, h2]), fun h hr => ?_⟩
  obtain ⟨h1, h2, h3, h4, -, h5⟩ := trip_spec (noteTj s tj) 4 6 (code := 0x7007) (tj.signExtend 32) (by decide) (by decide) (by decide) hr
  refine ⟨_, if_neg ?_, h1, h2, h3, h4, h5⟩
  simp only [Bool.and_eq_true, decide_eq_true_eq]
  omega

theorem tjWarning_spec (tj : Word) : (s.power.tjArmed = true → 105 ≤ tj.toInt → ∃ t, exec (.tjWarning tj) s = .next t ∧
      tget 0 t.events.det 0x7003 = satInc31 (tget 0 s.events.det 0x7003) ∧ t.power.tjArmed = false ∧ t.power.tjC = tj) ∧
    (s.power.tjArmed = false ∨ tj.toInt < 105 → exec (.tjWarning tj) s = .next (noteTj s tj)) := by
  refine ⟨fun ha ht => ⟨_, if_pos (by simp [ha, ht]), ?_, rfl, ?_⟩, fun h => if_neg ?_⟩
  · exact detectAs_count_self ..
  · exact congrArg Power.tjC (detectAs_power ..)
  · rcases h with h | h
    · simp [h]
    · simp; omega

theorem slackLimit_spec (m : Fin 16) : (s.power.vcoreMv ≠ 780 → exec (.slackLimit m) s = .next s) ∧
    (s.power.vcoreMv = 780 → ∃ t, exec (.slackLimit m) s = .next t ∧ t.power = { s.power with slackEvents := satInc31 s.power.slackEvents } ∧
      tget 0 t.events.det 0x7002 = satInc31 (tget 0 s.events.det 0x7002)) := by
  refine ⟨fun h => if_neg h, fun h => ⟨_, if_pos h, detectAs_power .., ?_⟩⟩
  exact detectAs_count_self ..

theorem vcore_spec (hh : s.power.held = false) :
    exec .vcoreRaise s = .next { s with power := { s.power with vcoreMv := BitVec.ofNat 16 (min 780 (s.power.vcoreMv.toNat + 5)) } } ∧
      exec .vcoreLower s = .next { s with power := { s.power with vcoreMv := BitVec.ofNat 16 (max 620 (s.power.vcoreMv.toNat - 5)) } } := by
  have hr : vcoreRuns s = true := by unfold vcoreRuns; rw [hh]; rfl
  exact ⟨if_pos hr, if_pos hr⟩

theorem bankThresholds_spec (i : Nat) : (tget 0 s.power.bankMv i = 1800 → bankThresholds s i = some (1170, 630)) ∧
    (tget 0 s.power.bankMv i = 2500 → bankThresholds s i = some (1700, 700)) ∧
    (tget 0 s.power.bankMv i = 3300 → bankThresholds s i = some (2000, 800)) := by
  unfold bankThresholds
  refine ⟨fun h => ?_, fun h => ?_, fun h => ?_⟩ <;> simp only [h]

end

/-! ### Requests for a power state (R476, R477) -/

/-- The power block once a state is asked for, whose boundary would be `b`. -/
def askedPower (p : Power) (code : Nat) (b : MT) : Power :=
  match p.wake with
  | some (_, w) => { p with req := code, wake := some (code, w) }
  | none => { p with req := code, pendingTo := some (code, b) }

theorem askedPower_awake {p : Power} {code : Nat} {b : MT} (h : p.wake = none) :
    askedPower p code b = { p with req := code, pendingTo := some (code, b) } := by
  unfold askedPower
  split
  case h_1 hw => rw [h] at hw; cases hw
  · rfl

theorem askedPower_waking {p : Power} {code c : Nat} {b w : MT} (h : p.wake = some (c, w)) :
    askedPower p code b = { p with req := code, wake := some (code, w) } := by
  unfold askedPower
  split
  case h_1 hw => rw [h] at hw; cases hw; rfl
  case h_2 hw => rw [h] at hw; cases hw

section
variable {s t : State} {r : Req} {obj role : Nat} {g : Gate} {body : State → Except Word State}

theorem writeCmd_ok (h : Served s r obj role) (ho : g.obj = obj) (hr : g.role = role) (hi : g.idle = true) (hg : g.range = true)
    (hb : body (taken s r) = .ok t) : writeCmd s r g body = sendReply t r 2 1 eOK 0xFF [] := by
  rw [writeCmd_served h g body ho hr hi, if_pos hg, hb]

theorem writeCmd_error {c : Word} (h : Served s r obj role) (ho : g.obj = obj) (hr : g.role = role) (hi : g.idle = true) (hg : g.range = true)
    (hb : body (taken s r) = .error c) : writeCmd s r g body = sendReply (taken s r) r 2 1 c 0 [] := by
  rw [writeCmd_served h g body ho hr hi, if_pos hg, hb]

variable {i : Instr} {code : Nat} (h : Served s r 0x0101 engineer) (hi : exec i s = .next (powerReq s r code))
include h hi

theorem powerReq_same (hd : devCode s.power.dev = code) : Accepts i s r (taken s r) :=
  hi.trans (congrArg _ (writeCmd_ok h rfl rfl rfl rfl (if_pos hd)))

variable (hd : devCode s.power.dev ≠ code)
include hd

theorem powerReq_barred (h1 : s.power.dev ≠ .run) (h2 : s.power.dev ≠ .quiet) (h3 : s.power.dev ≠ .dormant) : Refuses i s r eState :=
  hi.trans (congrArg _ (writeCmd_error h rfl rfl rfl rfl ((if_neg hd).trans (if_pos ⟨h1, h2, h3⟩))))

variable (hx : s.power.dev = .run ∨ s.power.dev = .quiet ∨ s.power.dev = .dormant)
include hx

theorem powerReq_bars (hc : code = 4) (hb : dormantBars (taken s r) = true) : Refuses i s r eState :=
  hi.trans (congrArg _ (writeCmd_error h rfl rfl rfl rfl ((if_neg hd).trans ((if_neg (by tauto)).trans (if_pos (by simp [hc, hb]))))))

theorem powerReq_takes (hb : code ≠ 4 ∨ dormantBars (taken s r) = false) :
    Accepts i s r { taken s r with power := askedPower s.power code (powerBoundary s) } :=
  hi.trans (congrArg _ (writeCmd_ok h rfl rfl rfl rfl ((if_neg hd).trans ((if_neg (by tauto)).trans (if_neg (by rcases hb with hb | hb <;> simp [hb]))))))

/-- A request for another state waits for its boundary; during a wake it becomes the state that the wake returns to. -/
theorem powerReq_spec (hb : code ≠ 4 ∨ dormantBars (taken s r) = false) :
    (s.power.wake = none → Accepts i s r { taken s r with
      power := { s.power with req := code, pendingTo := some (code, periodFrom (mtPlus (now s) (4 * 65536))) } }) ∧
    (∀ c w, s.power.wake = some (c, w) → Accepts i s r { taken s r with power := { s.power with req := code, wake := some (code, w) } }) := by
  have ha := powerReq_takes h hi hd hx hb
  refine ⟨fun hw => ?_, fun c w hw => ?_⟩
  · rw [askedPower_awake hw] at ha
    exact ha
  · rw [askedPower_waking hw] at ha
    exact ha

end

end Sys2Proof.Machine
end

section
/-! Power states: gating, dormancy and the wake (R37, R38, R179, R476 to R479). -/
namespace Sys2Proof.Machine

/-! ### Engines that a power state gates or returns -/

section
variable {s : State} {k n : Nat}

theorem modEng_state {f : Engine → Engine} (hf : ∀ e, (f e).state = e.state) (hs : (eng s k).state ≠ .idle) :
    (eng (modEng s n f) k).state = (eng s k).state := by
  by_cases h : k = n
  · subst h
    rw [eng_modEng_some _ (engine_ne_default (by rw [hf]; exact hs)), hf]
  · rw [eng_modEng_ne _ _ h]

theorem eachReplaced_state {b : ProgBank} {f : List Word → Page → Page} (hs : (eng s k).state ≠ .idle) :
    (eng (eachReplaced s n b f) k).state = (eng s k).state := by
  unfold eachReplaced
  generalize replacedPages b = l
  induction l generalizing s with
  | nil => rfl
  | cons x l ih =>
    have h1 : (eng (modPage s n x.1 (f x.2)) k).state = (eng s k).state := modEng_state (fun _ => rfl) hs
    rw [List.foldl_cons, ih (by rw [h1]; exact hs), h1]

theorem eachReplaced_other {b : ProgBank} {f : List Word → Page → Page} (h : k ≠ n) : eng (eachReplaced s n b f) k = eng s k := by
  unfold eachReplaced
  exact foldl_keeps (fun s => eng s k) (fun s x => eng_modEng_ne s _ h) _ _

theorem endFade_state {r : Nat} (hs : (eng s k).state ≠ .idle) : (eng (endFade s n r) k).state = (eng s k).state := by
  unfold endFade
  dsimp only
  split
  · rfl
  · rw [modEng_state (fun e => ?_), eachReplaced_state hs]
    · rw [eachReplaced_state hs]; exact hs
    · split <;> rfl

theorem endFade_other {r : Nat} (h : k ≠ n) : eng (endFade s n r) k = eng s k := by
  unfold endFade
  dsimp only
  split
  · rfl
  · rw [eng_modEng_ne _ _ h, eachReplaced_other h]

/-- An engine in GATED that ran before. -/
def GatedFromRun (e : Engine) : Prop := e.state = .gated ∧ e.before = .run

theorem gateEng_other (h : k ≠ n) : eng (gateEng s n) k = eng s k := by
  unfold gateEng
  split
  · rfl
  · rw [eng_modEng_ne _ _ h, endFade_other h]

theorem gateEng_gated (h : GatedFromRun (eng s k)) : GatedFromRun (eng (gateEng s n) k) := by
  by_cases hn : k = n
  · subst hn
    unfold gateEng
    rwa [if_pos (by simp [h.1])]
  · rwa [gateEng_other hn]

theorem gateEng_runs (h : (eng s k).state = .run) : GatedFromRun (eng (gateEng s k) k) := by
  have hs := endFade_state (r := 3) (n := k) (s := s) (k := k) (by rw [h]; decide)
  unfold gateEng
  rw [if_neg (by simp [h]), eng_modEng_some _ (engine_ne_default (by simp))]
  exact ⟨rfl, hs.trans h⟩

/-- Every engine in RUN enters GATED. -/
theorem gateEngs_runs (h : (eng s k).state = .run) : GatedFromRun (eng (gateEngs s) k) := by
  have hmem : k ∈ s.engines.map Prod.fst :=
    List.mem_map_of_mem (f := Prod.fst) (mem_of_tget_ne (d := ({} : Engine)) (engine_ne_default (by rw [show tget {} s.engines k = eng s k from rfl, h]; decide)))
  have hgated (l : List (Nat × Engine)) (u : State) (hu : GatedFromRun (eng u k)) : GatedFromRun (eng (l.foldl (fun s kv => gateEng s kv.1) u) k) := by
    induction l generalizing u with
    | nil => exact hu
    | cons x l ih => exact ih _ (gateEng_gated hu)
  unfold gateEngs
  generalize s.engines = l at hmem
  induction l generalizing s with
  | nil => cases hmem
  | cons x l ih =>
    rw [List.foldl_cons]
    by_cases hk : k = x.1
    · exact hgated _ _ (hk ▸ gateEng_runs (hk ▸ h))
    · refine ih (s := gateEng s x.1) (by rw [gateEng_other hk]; exact h) ?_
      simpa [hk] using hmem

/-- A change of every engine that settles at once where it is made: what it makes of an engine that is not at its reset value. -/
theorem eachEng_eng {f : Engine → Engine} (he : eng s k ≠ {}) (hf : f (eng s k) ≠ {}) (hi : f (f (eng s k)) = f (eng s k)) :
    eng (eachEng s f) k = f (eng s k) := by
  have hmem : k ∈ s.engines.map Prod.fst := List.mem_map_of_mem (f := Prod.fst) (mem_of_tget_ne (d := ({} : Engine)) he)
  have hdone (l : List (Nat × Engine)) (u : State) (hu : eng u k = f (eng s k)) : eng (l.foldl (fun s kv => modEng s kv.1 f) u) k = f (eng s k) := by
    induction l generalizing u with
    | nil => exact hu
    | cons x l ih =>
      refine ih _ ?_
      by_cases hk : k = x.1
      · subst hk
        rw [eng_modEng_some _ (by rw [hu, hi]; exact hf), hu, hi]
      · rw [eng_modEng_ne _ _ hk, hu]
  have hto (l : List (Nat × Engine)) (u : State) (hu : eng u k = eng s k) (hl : k ∈ l.map Prod.fst) :
      eng (l.foldl (fun s kv => modEng s kv.1 f) u) k = f (eng s k) := by
    induction l generalizing u with
    | nil => cases hl
    | cons x l ih =>
      rw [List.foldl_cons]
      by_cases hk : k = x.1
      · refine hdone _ _ ?_
        subst hk
        rw [eng_modEng_some _ (by rw [hu]; exact hf), hu]
      · exact ih _ (by rw [eng_modEng_ne _ _ hk, hu]) (by simpa [hk] using hl)
  exact hto _ _ rfl hmem

theorem ungate_gated {e : Engine} (h : GatedFromRun e) : ungate e = restartEng e := by
  unfold ungate
  rw [if_neg (not_not.mpr h.1)]
  simp only [h.2]

/-- An engine returns from QUIET to RUN at ENTRY, with its RAM as left. -/
theorem ungate_eng (h : GatedFromRun (eng s k)) : eng (eachEng s ungate) k = restartEng (eng s k) := by
  rw [← ungate_gated h]
  refine eachEng_eng (engine_ne_default (by rw [h.1]; decide)) (engine_ne_default ?_) ?_
  · rw [ungate_gated h]; simp [restartEng]
  · rw [ungate_gated h]
    exact if_pos (by simp [restartEng])

end

/-! ### POWER_TRANSITION -/

section
variable {c : Nat} (s : State)

theorem vital_links (f : State → Nat → Bool) (h : c ≠ 0x5003) : vital c ((List.range 4).foldl (fun s l => rateChange s l (f s l)) s) = vital c s :=
  vital_foldl _ (fun s l => vital_rateChange c s l _ h) _ _

theorem vital_dropMarks (p : Nat → Bool) : vital c (dropMarks s p) = vital c s := rfl

/-- DORMANT: what powers off. -/
theorem enterDormant_spec : (enterDormant s).power.dev = .dormant ∧ (enterDormant s).power.vcoreBefore = s.power.vcoreMv ∧
    (enterDormant s).power.dividerAt = some (now s) ∧ (enterDormant s).clocks.gateOpen = false ∧ (enterDormant s).clocks.ecpll = .off := by
  let a := setPower s (fun p => { p with
    dev := .dormant, dividerAt := some (now s), vcoreBefore := p.vcoreMv, pendingTo := none, offPorts := s.ports, offBridges := s.bridges })
  let b := setClocks a (fun c => { c with ecpll := .off, gateOpen := false, restart := false, gapStart := none })
  have hv : vital 0 (enterDormant s) = vital 0 b := by
    unfold enterDormant
    refine (vital_links _ _ (by decide)).trans ((vital_stopPatrol 0 _ (by decide)).trans ((vital_eachBridge ..).trans ?_))
    refine (vital_foldl _ (fun s (i : Nat) => ?_) _ _).trans (vital_eachPort ..)
    exact (vital_unlockSide _ _ _ _ _ _ (by decide)).trans (vital_unlockSide _ _ _ _ _ _ (by decide))
  rw [power_of_vital hv, gateOpen_of_vital hv, ecpll_of_vital hv]
  exact ⟨rfl, rfl, rfl, rfl, rfl⟩

/-- A wake as it begins, before the memories are cleared and the links change their rate. -/
def wakeBegun (s : State) (code : Nat) (w : MT) : State :=
  let s := setPower s (fun p => { p with
    wake := some (code, w), pendingTo := none, portsDue := some (mtPlus w (msUnits s 3)), dividerAt := some (now s), vcoreMv := BitVec.ofNat 16 (min 780 (p.vcoreBefore.toNat + 20)) })
  setClocks s (fun c => { c with ecpll := .acquire })

/-- The memories of an engine and of its bank, cleared. -/
def clearBank (s : State) (b : Nat) : State := setCross (zeroBank s b) b { cross s b with mem := [], waitCc := [], waitLink := [] }

theorem beginWake_eq (code : Nat) (w : MT) : ∃ f : State → Nat → Bool, beginWake s code w = resumePatrol ((List.range 4).foldl (fun s l => rateChange s l (f s l))
    (dropMarks ((List.range 32).foldl clearBank (wakeBegun s code w)) (fun l => decide (l / 2 ^ 29 = 4)))) := ⟨fun s l => (link s l).lowPeer, rfl⟩

theorem clearBanks_hub (l : List Nat) : hub (l.foldl clearBank s) = hub s ∧ gates (l.foldl clearBank s) = gates s := by
  induction l generalizing s with
  | nil => exact ⟨rfl, rfl⟩
  | cons b l ih => exact ih (clearBank s b)

theorem clearBank_mem {s : State} (w : Tbl.wf {} s.mem.cross = true) (b : Nat) : Tbl.wf {} (clearBank s b).mem.cross = true ∧
    ∀ k, k = b ∨ (cross s k).mem = [] → (cross (clearBank s b) k).mem = [] := by
  refine ⟨tset_wf _ _ w, fun k hk => ?_⟩
  have hc : cross (clearBank s b) k = if k = b then { cross s b with mem := [], waitCc := [], waitLink := [] } else cross s k := tget_tset _ _ _ w
  rw [hc]
  split
  · rfl
  case isFalse h => exact hk.resolve_left h

/-- The memories of every engine that is cleared read 0. -/
theorem clearBanks_mem {s : State} (l : List Nat) (w : Tbl.wf {} s.mem.cross = true) :
    ∀ k, k ∈ l ∨ (cross s k).mem = [] → (cross (l.foldl clearBank s) k).mem = [] := by
  induction l generalizing s with
  | nil => simp
  | cons b l ih =>
    obtain ⟨hw, hb⟩ := clearBank_mem w b
    intro k hk
    refine ih hw k ?_
    rcases hk with hk | hk
    · rcases List.mem_cons.mp hk with hk | hk
      · exact .inr (hb k (.inl hk))
      · exact .inl hk
    · exact .inr (hb k (.inr hk))

theorem beginWake_spec (code : Nat) (w : MT) : (beginWake s code w).power = (wakeBegun s code w).power ∧ (beginWake s code w).clocks.ecpll = .acquire ∧
    (Canon s → ∀ k < 32, (cross (beginWake s code w) k).mem = []) := by
  obtain ⟨f, he⟩ := beginWake_eq s code w
  let u := (List.range 32).foldl clearBank (wakeBegun s code w)
  have hv : vital 0 (beginWake s code w) = vital 0 u := by
    rw [he]
    exact (vital_resumePatrol ..).trans ((vital_links _ f (by decide)).trans (vital_dropMarks u _))
  obtain ⟨hh, hg⟩ := clearBanks_hub (wakeBegun s code w) (List.range 32)
  refine ⟨(power_of_vital hv).trans (congrArg (·.1) hh), (ecpll_of_vital hv).trans (congrArg (·.2.2.1) hg), fun hc k hk => ?_⟩
  obtain ⟨-, -, -, -, -, -, -, -, -, hw, -⟩ := hc
  unfold cross
  rw [crossRam_of_vital hv]
  exact clearBanks_mem (s := wakeBegun s code w) (List.range 32) hw k (.inl (List.mem_range.mpr hk))

end

section
variable {s : State} {code : Nat} {b : MT}

theorem powerTransition_none (h : s.power.pendingTo = none) : exec .powerTransition s = .next s := by
  show execPowerTransition s = _
  unfold execPowerTransition
  simp only [h]
  rfl

variable (hp : s.power.pendingTo = some (code, b))
include hp

theorem powerTransition_waits (hd : isDue (now s) b = false) : exec .powerTransition s = .next s := by
  show execPowerTransition s = _
  unfold execPowerTransition
  simp only [hp, hd]
  rfl

/-- The state in which a due change is no longer pending. -/
def changeTaken (s : State) : State := { s with power := { s.power with pendingTo := none } }

variable (hd : isDue (now s) b = true)
include hd

/-- RUN to QUIET: every engine in RUN is gated. -/
theorem powerTransition_quiet (hs : s.power.dev = .run) (hc : code = 3) : ∃ t, exec .powerTransition s = .next t ∧
    t.power = { s.power with dev := .quiet, pendingTo := none, quietAt := now s } ∧
    (Canon s → ∀ k, (eng s k).state = .run → (eng t k).state = .gated ∧ (eng t k).before = .run) := by
  have hv := vital_gateEngs 0 (changeTaken s)
  refine ⟨setPower (gateEngs (changeTaken s)) (fun p => { p with dev := .quiet, quietAt := now s }), ?_, ?_, fun _ k hk => ?_⟩
  · show execPowerTransition s = _
    unfold execPowerTransition
    simp only [hp, hd, hs, hc, changeTaken]
    rfl
  · unfold setPower
    dsimp only
    rw [power_of_vital hv]
    rfl
  · exact gateEngs_runs (s := changeTaken s) hk

/-- QUIET to RUN: the engines that ran start again at ENTRY. -/
theorem powerTransition_run (hs : s.power.dev = .quiet) (hc : code = 2) : ∃ t, exec .powerTransition s = .next t ∧
    t.power = { s.power with dev := .run, pendingTo := none } ∧
    (Canon s → ∀ k, (eng s k).state = .gated → (eng s k).before = .run → (eng t k).state = .run ∧ (eng t k).stage = .none ∧
      (eng t k).ctx.pc = (eng s k).active.entry ∧ (eng t k).localRam = (eng s k).localRam) := by
  have hv := vital_eachEng 0 (changeTaken s) ungate
  refine ⟨setPower (eachEng (changeTaken s) ungate) (fun p => { p with dev := .run }), ?_, ?_, fun _ k hg hb => ?_⟩
  · show execPowerTransition s = _
    unfold execPowerTransition
    simp only [hp, hd, hs, hc, changeTaken]
    rfl
  · unfold setPower
    dsimp only
    rw [power_of_vital hv]
    rfl
  · have he : eng (setPower (eachEng (changeTaken s) ungate) (fun p => { p with dev := .run })) k = restartEng (eng s k) :=
      ungate_eng (s := changeTaken s) ⟨hg, hb⟩
    rw [he]
    unfold restartEng freshRun
    exact ⟨rfl, rfl, rfl, rfl⟩

/-- RUN to DORMANT begins with the fade of the outputs. -/
theorem powerTransition_fades (hs : s.power.dev = .run) (hc : code = 4) : ∃ t, exec .powerTransition s = .next t ∧
    t.power = { s.power with pendingTo := some (5, mtPlus b (64 * 65536)) } := by
  have hv := vital_gateEngs 0 (changeTaken s)
  refine ⟨setPower (gateEngs (changeTaken s)) (fun p => { p with pendingTo := some (5, mtPlus b (64 * 65536)) }), ?_, ?_⟩
  · show execPowerTransition s = _
    unfold execPowerTransition
    simp only [hp, hd, hs, hc, changeTaken]
    rfl
  · unfold setPower
    dsimp only
    rw [power_of_vital hv]
    rfl

/-- QUIET to DORMANT waits for the end of QUIET's fade. -/
theorem powerTransition_fading (hs : s.power.dev = .quiet) (hc : code = 4) (hf : isDue (now s) (mtPlus s.power.quietAt (64 * 65536)) = false) :
    exec .powerTransition s = .next { s with power := { s.power with pendingTo := some (5, mtPlus s.power.quietAt (64 * 65536)) } } := by
  show execPowerTransition s = _
  unfold execPowerTransition
  simp only [hp, hd, hs, hc, hf]
  rfl

theorem powerTransition_dormant (h : code = 5 ∧ (s.power.dev = .run ∨ s.power.dev = .quiet) ∨
      (s.power.dev = .quiet ∧ code = 4 ∧ isDue (now s) (mtPlus s.power.quietAt (64 * 65536)) = true)) :
    exec .powerTransition s = .next (enterDormant (gateEngs (changeTaken s))) := by
  show execPowerTransition s = _
  unfold execPowerTransition
  rcases h with ⟨hc, hs | hs⟩ | ⟨hs, hc, hf⟩
  · simp only [hp, hd, hs, hc, changeTaken]
    rfl
  · simp only [hp, hd, hs, hc, changeTaken]
    rfl
  · simp only [hp, hd, hs, hc, hf, changeTaken]
    rfl

theorem powerTransition_sleeps (h : code = 5 ∧ (s.power.dev = .run ∨ s.power.dev = .quiet) ∨
      (s.power.dev = .quiet ∧ code = 4 ∧ isDue (now s) (mtPlus s.power.quietAt (64 * 65536)) = true)) :
    ∃ t, exec .powerTransition s = .next t ∧ t.power.dev = .dormant ∧ t.power.vcoreBefore = s.power.vcoreMv ∧
      t.power.dividerAt = some (now s) ∧ t.clocks.gateOpen = false ∧ t.clocks.ecpll = .off := by
  have hv := vital_gateEngs 0 (changeTaken s)
  obtain ⟨h1, h2, h3, h4, h5⟩ := enterDormant_spec (gateEngs (changeTaken s))
  rw [power_of_vital hv] at h2
  rw [now_of_vital hv] at h3
  exact ⟨_, powerTransition_dormant hp hd h, h1, h2, h3, h4, h5⟩

theorem powerTransition_wakes (hs : s.power.dev = .dormant) : ∃ t, exec .powerTransition s = .next t ∧ t.power.wake = some (code, b) ∧
    t.power.dev = .dormant ∧ t.power.vcoreMv = BitVec.ofNat 16 (min 780 (s.power.vcoreBefore.toNat + 20)) ∧ t.clocks.ecpll = .acquire ∧
    t.power.portsDue = some (mtPlus b (msUnits s 3)) ∧ t.power.dividerAt = some (now s) ∧ (Canon s → ∀ k < 32, (cross t k).mem = []) := by
  obtain ⟨h1, h2, h3⟩ := beginWake_spec (changeTaken s) code b
  refine ⟨beginWake (changeTaken s) code b, ?_, ?_⟩
  · show execPowerTransition s = _
    unfold execPowerTransition
    simp only [hp, hd, hs, changeTaken]
    rfl
  · rw [h1]
    exact ⟨rfl, hs, rfl, h2, rfl, rfl, h3⟩

end

/-! ### WAKE_PIN and WAKE_COMPLETE (R478, R479) -/

/-- The configured edge at the configured pin wakes a device in DORMANT. -/
theorem wakePin_spec {s : State} (g : Fin 14) (falling : Bool) :
    let hit := s.power.dev = .dormant ∧ s.power.wake = none ∧ s.cfg.power.wakeGpio.toNat = g.val ∧ s.cfg.power.wakeEdge = (if falling then 1 else 0)
    (¬ hit → exec (.wakePin g falling) s = .next s) ∧
    (hit → exec (.wakePin g falling) s = .next { s with
      fresh := s.fresh + 1
      power := { s.power with pendingTo := some (2 + (Config.freeWord s.fresh).toNat % 2, boundaryFrom 3 (mtPlus (now s) 1)) } }) := by
  intro hit
  have hiff : (decide (s.power.dev = .dormant) && s.power.wake.isNone && decide (s.cfg.power.wakeGpio.toNat = g.val) &&
      decide (s.cfg.power.wakeEdge = bitOf falling)) = true ↔ hit := by
    simp only [Bool.and_eq_true, decide_eq_true_eq, Option.isNone_iff_eq_none, and_assoc]
    rfl
  exact ⟨fun h => if_neg (hiff.not.mpr h), fun h => if_pos (hiff.mpr h)⟩

/-- A wake is complete 40 ms after it began, at a base-period boundary. -/
theorem wakeComplete_spec {s : State} {code : Nat} {w : MT} (hw : s.power.wake = some (code, w)) (hs : s.power.dev = .dormant)
    (hp : (now s).phase = 0) :
    (isDue (now s) (mtPlus w (msUnits s 40)) = false → exec .wakeComplete s = .next s) ∧
    (isDue (now s) (mtPlus w (msUnits s 40)) = true → ∃ t, exec .wakeComplete s = .next t ∧
      t.power = { s.power with wake := none, portsDue := none, dev := if code = 2 then .run else .quiet }) := by
  have hperiod : isPeriod (now s) = true := decide_eq_true hp
  refine ⟨fun hd => ?_, fun hd => ?_⟩
  · show execWakeComplete s = _
    unfold execWakeComplete
    simp only [hw, hs, hperiod, hd]
    rfl
  · have hv : vital 0 (if code = 2 then eachEng (eachEng s wakeEng) ungate else gateEngs (eachEng s wakeEng)) = vital 0 s :=
      vital_ite ((vital_eachEng ..).trans (vital_eachEng ..)) ((vital_gateEngs ..).trans (vital_eachEng ..))
    refine ⟨setPower (if code = 2 then eachEng (eachEng s wakeEng) ungate else gateEngs (eachEng s wakeEng))
      (fun p => { p with wake := none, portsDue := none, dev := if code = 2 then .run else .quiet }), ?_, ?_⟩
    · show execWakeComplete s = _
      unfold execWakeComplete
      simp only [hw, hs, hperiod, hd]
      rfl
    · unfold setPower
      dsimp only
      rw [power_of_vital hv]

/-! ### Resets (R473, R480, R481) -/

/-- What a reset leaves: the queue of commands, fuses and boot flash, and the rest at its default. -/
def ResetTo (s t : State) : Prop :=
  t.pending = s.pending ∧ t.fuses = s.fuses ∧ t.flash = { s.flash with writing := none } ∧ t.engines = [] ∧ t.routes = [] ∧ t.cfg = {} ∧
    t.events = {} ∧ t.power.dev = .booting ∧ t.epoch = 0

theorem fullReset_resets (s : State) (cause : Nat) : ResetTo s (fullReset s cause) := ⟨rfl, rfl, rfl, rfl, rfl, rfl, rfl, rfl, rfl⟩

section
variable {s : State}

theorem por_resets (hb : s.power.brown = false) :
    ∃ t, exec .por s = .next t ∧ ResetTo s t ∧ t.mgmt = {} ∧ t.power.resetCause = 1 :=
  ⟨fullReset s 1, if_neg (by simp [hb]), fullReset_resets s 1, rfl, rfl⟩

/-- VIN is back after a brown-out. -/
theorem por_releases (hb : s.power.brown = true) : ∃ t, exec .por s = .next t ∧ t.power.brown = false ∧
    t.power.held = (s.power.rstLow || s.jtag.scanHold) ∧ { t with power := s.power } = s :=
  ⟨holdReset s false s.power.rstLow s.jtag.scanHold, if_pos hb, rfl, by simp [holdReset], rfl⟩

theorem brownout_resets (hb : s.power.brown = false) : ∃ t, exec .brownout s = .next t ∧ ResetTo s t ∧ t.mgmt = {} ∧
    t.power.resetCause = 2 ∧ t.power.brown = true ∧ t.power.held = true :=
  ⟨fullReset (holdReset s true s.power.rstLow s.jtag.scanHold) 2, if_neg (by simp [hb]), fullReset_resets (holdReset ..) 2, rfl, rfl, rfl, rfl⟩

theorem resetN_low (hr : s.power.rstLow = false) : ∃ t, exec (.resetN false) s = .next t ∧ ResetTo s t ∧ t.mgmt = {} ∧
    t.power.resetCause = 3 ∧ t.power.held = true :=
  ⟨fullReset (holdReset s s.power.brown true s.jtag.scanHold) 3, if_neg (by simp [hr]),
    fullReset_resets (holdReset ..) 3, rfl, rfl, by simp [fullReset, powerKept, holdReset]⟩

theorem resetN_high : ∃ t, exec (.resetN true) s = .next t ∧ t.power.rstLow = false ∧ t.power.held = (s.power.brown || s.jtag.scanHold) ∧
    { t with power := s.power } = s :=
  ⟨holdReset s s.power.brown false s.jtag.scanHold, rfl, rfl, by simp [holdReset], rfl⟩

/-! What waits for the reply does not change it. -/

theorem sendTo_later (u : State) (a : After) (i : Iface) (x : Long) (p : Word) (m : OutMsg) :
    sendTo (later u a) i x p m = later (sendTo u i x p m) a := by
  cases i <;> rfl

theorem sendTo_after (u : State) (i : Iface) (x : Long) (p : Word) (m : OutMsg) : (sendTo u i x p m).mgmt.after = u.mgmt.after := by
  cases i <;> rfl

/-- The reply OK to a write, and its session with the reply in its cache. -/
def okReply (u : State) (r : Req) : Reply := ⟨r.sess.val, r.seq, 2, 1, eOK, 0xFF, now u, []⟩

def okNoted (u : State) (r : Req) : State :=
  let s := countStat u 0 (session u r.sess.val).iface
  setSession s r.sess.val { session s r.sess.val with high := some r.seq, cache := (okReply u r :: (session s r.sess.val).cache).take 32 }

theorem sendReply_ok (u : State) (r : Req) : sendReply u r 2 1 eOK 0xFF [] = sendTo (okNoted u r) (session (okNoted u r) r.sess.val).iface
    (session (okNoted u r) r.sess.val).address (session (okNoted u r) r.sess.val).port (.reply (okReply u r)) := by
  unfold sendReply
  rw [if_neg (by decide)]
  rfl

theorem okNoted_later (u : State) (a : After) (r : Req) : okNoted (later u a) r = later (okNoted u r) a := rfl

theorem sendReply_later (u : State) (a : After) (r : Req) : sendReply (later u a) r 2 1 eOK 0xFF [] = later (sendReply u r 2 1 eOK 0xFF []) a := by
  rw [sendReply_ok, sendReply_ok, okNoted_later]
  exact sendTo_later ..

theorem sendReply_after (u : State) (r : Req) : (sendReply u r 2 1 eOK 0xFF []).mgmt.after = u.mgmt.after := by
  rw [sendReply_ok, sendTo_after]
  rfl

theorem taken_after (s : State) (r : Req) : (taken s r).mgmt.after = s.mgmt.after := by
  unfold taken
  cases (session s r.sess.val).iface <;> rfl

theorem afterReply_reset {v : State} (h : v.mgmt.after = []) :
    afterReply (later v .reset) = commandReset (setMgmt (later v .reset) (fun m => { m with after := [] })) := by
  have hl : (later v .reset).mgmt.after = [.reset] := by simp [later, setMgmt, h]
  unfold afterReply
  dsimp only
  rw [hl]
  rfl

/-- A commanded reset comes after its reply, which is sent with what else was to be sent. -/
theorem reset_spec {r : Req} (h : Served s r 0x0101 custodian) (ha : s.mgmt.after = []) : ∃ t, exec (.reset r) s = .next t ∧ ResetTo s t ∧
    t.power.resetCause = 4 ∧ t.power.resetCount = (satInc s.power.resetCount).1 ∧
    (let g := (sendReply (taken s r) r 2 1 eOK 0xFF []).mgmt
     t.mgmt = { outEth := g.outEth, outHq := g.outHq, outGrove := g.outGrove }) := by
  have hcmd : resetCmd s r = sendReply (later (taken s r) .reset) r 2 1 eOK 0xFF [] := writeCmd_ok h rfl rfl rfl rfl rfl
  have hpend : (sendReply (taken s r) r 2 1 eOK 0xFF []).pending = s.pending := by simp
  have hfuses : (sendReply (taken s r) r 2 1 eOK 0xFF []).fuses = s.fuses := by simp
  have hflash : (sendReply (taken s r) r 2 1 eOK 0xFF []).flash = s.flash := by simp
  have hpower : (sendReply (taken s r) r 2 1 eOK 0xFF []).power = s.power := by simp
  have hafter : (sendReply (taken s r) r 2 1 eOK 0xFF []).mgmt.after = [] := by rw [sendReply_after, taken_after, ha]
  rw [sendReply_later] at hcmd
  generalize sendReply (taken s r) r 2 1 eOK 0xFF [] = v at *
  refine ⟨_, congrArg Host.Outcome.next ((congrArg afterReply hcmd).trans (afterReply_reset hafter)), ?_, rfl, ?_, rfl⟩
  · unfold ResetTo
    rw [← hpend, ← hfuses, ← hflash]
    exact ⟨rfl, rfl, rfl, rfl, rfl, rfl, rfl, rfl, rfl⟩
  · rw [← hpower]
    rfl

end

end Sys2Proof.Machine
end

section
/-! The boot (R433, R483, R485, R488, R522). -/
namespace Sys2Proof.Machine

/-! ### The I/O banks as they are measured (R522) -/

section
variable {s : State}

theorem measureBanks_measured (h : s.power.bankMv ≠ []) : measureBanks s = s := by
  unfold measureBanks
  exact if_pos (by simpa using h)

/-- Of three voltages a bank has one. -/
theorem voltage_cases (n : Nat) : let mv : Nat := match n with
      | 0 => 1800
      | 1 => 2500
      | _ => 3300
    mv = 1800 ∨ mv = 2500 ∨ mv = 3300 := by
  intro mv
  rcases n with _ | _ | n
  · exact .inl rfl
  · exact .inr (.inl rfl)
  · exact .inr (.inr rfl)

/-- The first measurement: a free value, and a voltage for every bank. -/
theorem measureBanks_first (h : s.power.bankMv = []) :
    { measureBanks s with fresh := s.fresh, power := { (measureBanks s).power with bankMv := [] } } = s ∧
    (∀ i < 3, tget 0 (measureBanks s).power.bankMv i = 1800 ∨ tget 0 (measureBanks s).power.bankMv i = 2500 ∨
      tget 0 (measureBanks s).power.bankMv i = 3300) ∧
    (tget 0 (measureBanks s).power.bankMv 3 = 1800 ∨ tget 0 (measureBanks s).power.bankMv 3 = 2500) := by
  unfold measureBanks
  rw [if_neg (by simp [h])]
  refine ⟨?_, fun i hi => ?_, ?_⟩
  · show { s with power := { s.power with bankMv := [] } } = s
    rw [← h]
  · have hc := voltage_cases ((Config.freeLong s.fresh).toNat / 4 ^ i % 3)
    interval_cases i <;> exact hc
  · have hm : (Config.freeLong s.fresh).toNat / 4 ^ 3 % 2 < 2 := Nat.mod_lt _ (by decide)
    show (match (Config.freeLong s.fresh).toNat / 4 ^ 3 % 2 with
      | 0 => 1800
      | 1 => 2500
      | _ => 3300) = 1800 ∨ (match (Config.freeLong s.fresh).toNat / 4 ^ 3 % 2 with
      | 0 => 1800
      | 1 => 2500
      | _ => 3300) = 2500
    generalize (Config.freeLong s.fresh).toNat / 4 ^ 3 % 2 = n at hm
    interval_cases n
    · exact .inl rfl
    · exact .inr rfl

/-- A measurement changes nothing else. -/
theorem measureBanks_keeps : ∃ v n, measureBanks s = { s with fresh := n, power := { s.power with bankMv := v } } := by
  by_cases h : s.power.bankMv = []
  · unfold measureBanks
    rw [if_neg (by simp [h])]
    exact ⟨_, _, rfl⟩
  · exact ⟨s.power.bankMv, s.fresh, measureBanks_measured h⟩

theorem bootSlot_measured (a b : Bool) : bootSlot (measureBanks s) a b = bootSlot s a b := by
  obtain ⟨v, n, h⟩ := measureBanks_keeps (s := s)
  rw [h]
  rfl

end

/-! ### What a boot keeps once its firmware runs -/

/-- What the later steps of a boot leave: the power block but for what the store and the ports note, Heartwood, fuses, flash, settings, clock
gates. -/
def bootHub (s : State) : Power × Heartwood × Fuses × Flash × Persist × (MT × Bool × Ecpll × Nat) :=
  ({ s.power with loadFail := 0, portsDue := none, storeUsed := 0 }, s.heart, s.fuses, s.flash, s.cfg, gates s)

theorem bootHub_of_vital {a b : State} (h : vital 0 a = vital 0 b) : bootHub a = bootHub b := by
  unfold bootHub
  rw [power_of_vital h, heart_of_vital h, fuses_of_vital h, flash_of_vital h, cfg_of_vital h, gates_of_vital h]

section
variable {a b : State} (h : bootHub a = bootHub b)
include h

theorem heart_of_bootHub : a.heart = b.heart := congrArg (·.2.1) h
theorem fuses_of_bootHub : a.fuses = b.fuses := congrArg (·.2.2.1) h
theorem cfg_of_bootHub : a.cfg = b.cfg := congrArg (·.2.2.2.2.1) h
theorem gates_of_bootHub : gates a = gates b := congrArg (·.2.2.2.2.2) h
theorem fwSlotB_of_bootHub : a.power.fwSlotB = b.power.fwSlotB := congrArg (·.1.fwSlotB) h
theorem engFail_of_bootHub : a.power.engFail = b.power.engFail := congrArg (·.1.engFail) h
theorem recovery_of_bootHub : a.power.recovery = b.power.recovery := congrArg (·.1.recovery) h
theorem bankMv_of_bootHub : a.power.bankMv = b.power.bankMv := congrArg (·.1.bankMv) h

end

theorem bootHub_foldl {α : Type} (f : State → α → State) (h : ∀ s x, bootHub (f s x) = bootHub s) (l : List α) (s : State) :
    bootHub (l.foldl f s) = bootHub s := foldl_keeps bootHub h l s

section
variable (s : State)

theorem vital_zeroBank (c b : Nat) : vital c (zeroBank s b) = vital c s := rfl

theorem vital_applyLease (c b k i : Nat) (z : Bool) (m : Option MT) : vital c (applyLease s b k i z m) = vital c s := by
  unfold applyLease
  extract_lets old s1 s2 bk s3 s4
  have h1 : vital c s1 = vital c s := vital_ite (by split <;> rfl) rfl
  have h2 : vital c s2 = vital c s1 := vital_ite (by split <;> rfl) rfl
  have h4 : vital c s4 = vital c s3 := vital_ite (vital_zeroBank s3 c b) rfl
  have h : vital c s4 = vital c s := h4.trans ((vital_setBank c s2 b _).trans (h2.trans h1))
  exact vital_ite ((vital_bumpEpoch c s4).trans h) h

theorem bootHub_bootImage (t : MT) (n : Nat) (raw : List Byte) : bootHub (bootImage t s n raw) = bootHub s := by
  unfold bootImage
  dsimp only
  split
  · rfl
  · split
    · exact Eq.trans (b := bootHub (loadFails s n _)) rfl (bootHub_of_vital ((vital_detect _ _ _ (by decide)).trans rfl))
    · exact bootHub_of_vital rfl

theorem vital_bootRoute (c : Nat) (t : MT) (r : Nat) (x : Route) : vital c (bootRoute t s r x) = vital c s := by
  unfold bootRoute
  refine vital_ite rfl ?_
  split <;> rfl

theorem vital_bootStreams (c : Nat) : vital c (bootStreams s) = vital c s := by
  unfold bootStreams
  exact (vital_foldl _ (fun s kv => vital_setStream ..) _ _).trans (vital_foldl _ (fun s kv => vital_setStream ..) _ _)

/-- The store is applied over its settings. -/
theorem bootHub_applyConfig (cfg : Persist) (epoch : Long) (leases : List (Nat × Nat)) (images : Tbl (List Byte)) (routes : Tbl Route) :
    bootHub (applyConfig s cfg epoch leases images routes) = bootHub { s with cfg := cfg } := by
  unfold applyConfig
  extract_lets u1 u2 g u3 t u4 u5
  have h2 : bootHub u2 = bootHub u1 := bootHub_of_vital (vital_foldl _ (fun s (x : Nat × Nat) => vital_applyLease s 0 x.1 1 x.2 false none) _ _)
  have h4 : bootHub u4 = bootHub u3 := bootHub_foldl _ (fun s (kv : Nat × List Byte) => bootHub_bootImage s t kv.1 kv.2) _ _
  have h5 : bootHub u5 = bootHub u4 := bootHub_of_vital (vital_foldl _ (fun s (kv : Nat × Route) => vital_bootRoute s 0 t kv.1 kv.2) _ _)
  exact (bootHub_of_vital (vital_bootStreams u5 0)).trans (h5.trans (h4.trans (Eq.trans (b := bootHub u2) rfl h2)))

theorem bootHub_bootStore : bootHub (bootStore s) =
    bootHub { s with cfg := if (currentStore s).valid then (currentStore s).cfg else s.cfg } := by
  unfold bootStore
  cases hv : (currentStore s).valid with
  | false =>
    simp only [hv, Bool.not_false, if_true, Bool.false_eq_true, if_false]
    exact (bootHub_of_vital (vital_detect _ _ _ (by decide))).trans rfl
  | true =>
    simp only [hv, Bool.not_true, Bool.false_eq_true, if_false, if_true]
    exact (bootHub_applyConfig ..).trans rfl

theorem vital_startPath (c l : Nat) (b : Bool) : vital c (startPath s l b) = vital c s := vital_setPath ..

theorem vital_sendTo (c : Nat) (i : Iface) (x : Long) (p : Word) (m : OutMsg) : vital c (sendTo s i x p m) = vital c s := by
  cases i <;> rfl

theorem vital_useMgmt (c : Nat) {m : MgmtCfg} (h : m = s.cfg.mgmt) : vital c (useMgmt s m) = vital c s := by
  subst h
  unfold useMgmt
  exact vital_ite ((vital_sendTo ..).trans rfl) rfl

theorem bootHub_enablePorts : bootHub (enablePorts s) = bootHub s := by
  unfold enablePorts
  extract_lets u1 u2
  have h2 : vital 0 u2 = vital 0 u1 := by
    refine vital_foldl _ (fun s p => ?_) _ _
    exact vital_ite (vital_setPort 0 s p _) rfl
  refine (bootHub_of_vital ((vital_foldl _ (fun s b => ?_) _ _).trans h2)).trans rfl
  exact vital_ite (vital_setBridge 0 s b _) rfl

theorem bootHub_bootSettings : bootHub (bootSettings s) = bootHub s := by
  unfold bootSettings
  extract_lets u1 u2 p u3 u4
  have h1 : vital 0 u1 = vital 0 s := by
    refine vital_foldl _ (fun s l => vital_foldl _ (fun s b => ?_) _ _) _ _
    exact vital_ite (vital_startPath s 0 l b) rfl
  clear_value u1
  have h4 : vital 0 u4 = vital 0 u1 := rfl
  clear_value u4
  have he := bootHub_enablePorts u4
  have hcfg : u4.cfg.mgmt = (enablePorts u4).cfg.mgmt := (congrArg Persist.mgmt (cfg_of_bootHub he)).symm
  exact (bootHub_of_vital (vital_useMgmt _ 0 hcfg)).trans (he.trans (bootHub_of_vital (h4.trans h1)))

/-- The clocks and the engines' tests of a boot, before the records of the tests that failed. -/
def bootTested (s : State) (failed : Long) : State :=
  let (k, s) := draw s
  let s := [0, 1, 2].foldl (fun s f => storeBand s f (Config.freeWord (k + f)) s.power.tjC) { s with fresh := k + 3 }
  let s := setClocks s (fun c => { c with ceiling := Config.freeLong k, ecpll := .locked, gateOpen := true })
  setPower s (fun p => { p with engFail := failed })

theorem vital_storeBand (c f : Nat) (b x : Word) : vital c (storeBand s f b x) = vital c s := rfl

/-- The clocks run, with their bands stored. -/
def clocksRun (s : State) (k : Nat) (failed : Long) : State :=
  setPower (setClocks s (fun c => { c with ceiling := Config.freeLong k, ecpll := .locked, gateOpen := true })) (fun p => { p with engFail := failed })

theorem bootTested_eq (failed : Long) : ∃ u, vital 0 u = vital 0 s ∧ bootTested s failed = clocksRun u s.fresh failed :=
  ⟨[0, 1, 2].foldl (fun u f => storeBand u f (Config.freeWord (s.fresh + f)) u.power.tjC) { s with fresh := s.fresh + 3 },
    (vital_foldl _ (fun u f => vital_storeBand u 0 f _ _) _ _).trans rfl, rfl⟩

theorem clocksRun_power (k : Nat) (failed : Long) : (clocksRun s k failed).power = { s.power with engFail := failed } := rfl

theorem clocksRun_gates (k : Nat) (failed : Long) : gates (clocksRun s k failed) = (s.clocks.mt, true, .locked, s.clocks.xoFreq) := rfl

theorem clocksRun_rest (k : Nat) (failed : Long) : (clocksRun s k failed).heart = s.heart ∧ (clocksRun s k failed).fuses = s.fuses ∧
    (clocksRun s k failed).flash = s.flash ∧ (clocksRun s k failed).cfg = s.cfg := ⟨rfl, rfl, rfl, rfl⟩

/-- A boot's clocks and tests: the engines that failed are noted, and the engine clock runs. -/
theorem bootTested_spec (failed : Long) : (bootTested s failed).power = { s.power with engFail := failed } ∧
    gates (bootTested s failed) = (s.clocks.mt, true, .locked, s.clocks.xoFreq) ∧ (bootTested s failed).heart = s.heart ∧
    (bootTested s failed).fuses = s.fuses ∧ (bootTested s failed).flash = s.flash ∧ (bootTested s failed).cfg = s.cfg := by
  obtain ⟨u, hu, he⟩ := bootTested_eq s failed
  obtain ⟨h1, h2, h3, h4⟩ := clocksRun_rest u s.fresh failed
  have hg : (u.clocks.mt, true, Ecpll.locked, u.clocks.xoFreq) = (s.clocks.mt, true, Ecpll.locked, s.clocks.xoFreq) :=
    congrArg (fun g : MT × Bool × Ecpll × Nat => (g.1, true, Ecpll.locked, g.2.2.2)) (gates_of_vital hu)
  rw [he, h1, h2, h3, h4, clocksRun_power, clocksRun_gates, hg, power_of_vital hu, heart_of_vital hu, fuses_of_vital hu, flash_of_vital hu, cfg_of_vital hu]
  exact ⟨rfl, rfl, rfl, rfl, rfl, rfl⟩

theorem vital_bootSelfTest (failed : Long) : vital 0 (bootSelfTest s failed) = vital 0 (bootTested s failed) := by
  unfold bootSelfTest bootTested draw
  refine vital_foldl _ (fun s n => vital_ite ?_ rfl) _ _
  exact (vital_detect _ _ _ (by decide)).trans rfl

/-- The firmware started, with the clocks and Heartwood as its record has them, before the first record. -/
def firmwareStarted (s : State) (slotB : Bool) (straps : Nat) (okA okB : Bool) : State :=
  let f := s.flash
  let mine := decide (f.keyLife = s.fuses.life) && decide (f.keyTamper = s.fuses.tamperCount)
  let keys := if mine then f.keyRecord else []
  { s with
    heart := { s.heart with keys := keys, identity := Config.identityKey Config.deviceSecret, state := if keys.isEmpty then 0 else 1 }
    power := { s.power with
      dev := .sapling, fwSlotB := slotB, fwFallback := slotB != s.power.fwPreferredB, vcoreMv := 780, recovery := false
      slotA := { s.power.slotA with valid := slotGood s.power.slotA okA }, slotB := { s.power.slotB with valid := slotGood s.power.slotB okB }
      lastFaultCause := s.power.aonCause }
    clocks := { s.clocks with xoFreq := straps, scpllLock := true, lkpllLock := true } }

theorem vital_bootFirmware (slotB : Bool) (straps : Nat) (okA okB : Bool) :
    vital 0 (bootFirmware s slotB straps okA okB) = vital 0 (firmwareStarted s slotB straps okA okB) :=
  (vital_drainQueue 0 _ (by decide)).trans (vital_detect _ _ _ (by decide))

end

/-- The device once it has booted. -/
def booted (m : State) (slotB : Bool) (straps : BitVec 2) (failed bootMs : Long) (okA okB : Bool) : State :=
  setPower (bootSettings (bootStore (bootSelfTest (bootFirmware m slotB straps.toNat okA okB) failed)))
    (fun p => { p with dev := .run, req := 2, bootMs := bootMs })

theorem booted_spec (m : State) (slotB : Bool) (straps : BitVec 2) (failed bootMs : Long) (okA okB : Bool) :
    let t := booted m slotB straps failed bootMs okA okB
    t.power.dev = .run ∧ t.power.fwSlotB = slotB ∧ t.power.bootMs = bootMs ∧ t.power.engFail = failed ∧ t.power.recovery = false ∧
      t.clocks.gateOpen = true ∧ t.clocks.xoFreq = straps.toNat ∧ t.heart.identity = Config.identityKey Config.deviceSecret ∧
      t.fuses = m.fuses ∧ t.power.bankMv = m.power.bankMv ∧
      t.cfg = if (currentStore m).valid then (currentStore m).cfg else m.cfg := by
  intro t
  have hf := vital_bootFirmware m slotB straps.toNat okA okB
  generalize hF : bootFirmware m slotB straps.toNat okA okB = f at hf
  have ht := vital_bootSelfTest f failed
  obtain ⟨hpower, hgates, hheart, hfuses, hflash, hcfg⟩ := bootTested_spec f failed
  rw [← power_of_vital ht, power_of_vital hf] at hpower
  rw [← gates_of_vital ht] at hgates
  rw [← heart_of_vital ht, heart_of_vital hf] at hheart
  rw [← fuses_of_vital ht, fuses_of_vital hf] at hfuses
  rw [← flash_of_vital ht, flash_of_vital hf] at hflash
  rw [← cfg_of_vital ht, cfg_of_vital hf] at hcfg
  generalize hT : bootSelfTest f failed = u at *
  have hs := (bootHub_bootSettings (bootStore u)).trans (bootHub_bootStore u)
  generalize hG : bootSettings (bootStore u) = g at hs
  have htg : t = setPower g (fun p => { p with dev := .run, req := 2, bootMs := bootMs }) := by
    show booted .. = _
    unfold booted
    rw [hF, hT, hG]
  have hx : f.clocks.xoFreq = straps.toNat := congrArg (·.2.2.2) (gates_of_vital hf)
  have hgate : gates g = (f.clocks.mt, true, .locked, f.clocks.xoFreq) := (gates_of_bootHub hs).trans hgates
  have hcur : currentStore u = currentStore m := by
    unfold currentStore
    rw [hflash]
    rfl
  have hid : g.heart.identity = Config.identityKey Config.deviceSecret := by
    rw [heart_of_bootHub hs, hheart]
    rfl
  have hbank : u.power.bankMv = m.power.bankMv := by rw [hpower]; rfl
  rw [htg]
  refine ⟨rfl, ?_, rfl, ?_, ?_, ?_, ?_, ?_, ?_, ?_, ?_⟩
  · exact (fwSlotB_of_bootHub hs).trans (congrArg Power.fwSlotB hpower)
  · exact (engFail_of_bootHub hs).trans (congrArg Power.engFail hpower)
  · exact (recovery_of_bootHub hs).trans (congrArg Power.recovery hpower)
  · exact congrArg (·.2.1) hgate
  · exact (congrArg (·.2.2.2) hgate).trans hx
  · exact hid
  · exact (fuses_of_bootHub hs).trans hfuses
  · exact (bankMv_of_bootHub hs).trans hbank
  · have hset := cfg_of_bootHub hs
    rw [hcur] at hset
    exact hset.trans (congrArg (fun c => if (currentStore m).valid then (currentStore m).cfg else c) hcfg)

/-! ### BOOT -/

section
variable {s : State} (straps : BitVec 2) (failed bootMs : Long) (a b : Bool)

theorem boot_idle (h : s.power.dev ≠ .booting ∨ s.power.held = true) : exec (.boot straps failed bootMs a b) s = .next s :=
  if_pos (by rcases h with h | h <;> simp [h])

variable (hd : s.power.dev = .booting) (hh : s.power.held = false)
include hd hh

theorem boot_eq : exec (.boot straps failed bootMs a b) s = .next (match bootSlot (measureBanks s) a b with
    | none => setPower (measureBanks s) (fun p => { p with recovery := true })
    | some x => booted (measureBanks s) x straps failed bootMs a b) := by
  show execBoot .. = _
  unfold execBoot
  rw [if_neg (by simp [hd, hh])]
  dsimp only
  cases bootSlot (measureBanks s) a b <;> rfl

/-- With no slot accepted the boot waits in recovery. -/
theorem boot_recovers (hx : bootSlot s a b = none) : exec (.boot straps failed bootMs a b) s =
    .next { measureBanks s with power := { (measureBanks s).power with recovery := true } } := by
  rw [boot_eq straps failed bootMs a b hd hh, bootSlot_measured, hx]
  rfl

/-- With a slot accepted the device boots to RUN, under the store's settings. -/
theorem boot_runs {x : Bool} (hx : bootSlot s a b = some x) : ∃ t, exec (.boot straps failed bootMs a b) s = .next t ∧ t.power.dev = .run ∧
    t.power.fwSlotB = x ∧ t.power.bootMs = bootMs ∧ t.power.engFail = failed ∧ t.power.recovery = false ∧ t.clocks.gateOpen = true ∧
    t.clocks.xoFreq = straps.toNat ∧ t.heart.identity = Config.identityKey Config.deviceSecret ∧ t.fuses = s.fuses ∧
    t.power.bankMv = (measureBanks s).power.bankMv ∧
    ((currentStore s).valid = true → t.cfg = (currentStore s).cfg) ∧ ((currentStore s).valid = false → t.cfg = s.cfg) := by
  obtain ⟨h1, h2, h3, h4, h5, h6, h7, h8, h9, h10, h11⟩ := booted_spec (measureBanks s) x straps failed bootMs a b
  obtain ⟨v, n, hm⟩ := measureBanks_keeps (s := s)
  have hfuses : (measureBanks s).fuses = s.fuses := by rw [hm]
  have hcfg : (measureBanks s).cfg = s.cfg := by rw [hm]
  have hcur : currentStore (measureBanks s) = currentStore s := by
    rw [hm]
    rfl
  rw [hcur, hcfg] at h11
  refine ⟨booted (measureBanks s) x straps failed bootMs a b, ?_, h1, h2, h3, h4, h5, h6, h7, h8, h9.trans hfuses, h10,
    fun hv => h11.trans (if_pos hv), fun hv => h11.trans (if_neg (by simp [hv]))⟩
  rw [boot_eq straps failed bootMs a b hd hh, bootSlot_measured, hx]

end

/-- Settles O54: the power states, resets, the boot, monitors and restarts each by a lemma of their own; what the many steps of a change keep is
said once, by `vital`, for every function that they go through. -/
theorem powerCommands : Obligations.PowerCommands := by
  unfold Obligations.PowerCommands
  intro s p counts kept wiped
  refine ⟨fun r h => ?_, powerTransition_none, fun code b hp => ⟨powerTransition_waits hp, fun hd => ?_⟩, wakePin_spec,
    fun code w hw hs hph => wakeComplete_spec hw hs hph, fun r h ha => reset_spec h ha, por_resets, por_releases, brownout_resets, resetN_low,
    resetN_high, fun straps failed bootMs a b => ?_, bankThresholds_spec, vcore_spec, slackLimit_spec, tamper_spec,
    fun b hr => vmonTrip_spec b hr, fun mhz hl hv => cmonTrip_spec mhz hl hv, fun tj => ?_, rfl, fun cycle hu => lockstep_spec cycle hu,
    fun cause hc => ?_⟩
  · intro u asks
    have hasks (i : Instr) (code : Nat) (hi : exec i s = .next (powerReq s r code)) : asks i code :=
      ⟨powerReq_same h hi, powerReq_barred h hi, powerReq_spec h hi⟩
    refine ⟨hasks _ 2 rfl, hasks _ 3 rfl, hasks _ 4 rfl, fun hx hb => ?_⟩
    refine powerReq_bars (code := 4) h rfl ?_ (hx.imp_right .inl) rfl hb
    rcases hx with hx | hx <;> (show devCode s.power.dev ≠ 4; rw [show s.power.dev = _ from hx]; decide)
  · exact ⟨powerTransition_quiet hp hd, powerTransition_run hp hd, powerTransition_fades hp hd, powerTransition_fading hp hd,
      powerTransition_sleeps hp hd, powerTransition_wakes hp hd⟩
  · exact ⟨boot_idle straps failed bootMs a b, boot_recovers straps failed bootMs a b, fun x hd hh hx => boot_runs straps failed bootMs a b hd hh hx,
      measureBanks_measured, measureBanks_first⟩
  · obtain ⟨h1, h2⟩ := tmonTrip_spec (s := s) tj
    obtain ⟨h3, h4⟩ := tjWarning_spec (s := s) tj
    exact ⟨h1, h2, h3, h4⟩
  · obtain ⟨h1, h2⟩ := trialDictionaryTimeout_spec hc
    exact ⟨h1, h2, ccRestart_stays hc, ccRestart_returns hc⟩

end Sys2Proof.Machine
end

section
/-! A command written to one element, where it is served: the three answers that its own checks leave (R456, R457). -/
namespace Sys2Proof.Machine

variable {s t : State} {r : Req} {i : Instr} {g : Gate} {body : State → Except Word State}
  (hx : exec i s = ok (writeCmd s r g body)) (h : Served s r g.obj g.role) (h2 : g.idle = true)
include hx h h2

theorem writeCmd_outOfRange (h1 : g.range = false) : Refuses i s r eRange := by
  unfold Refuses
  rw [hx, writeCmd_served h g body rfl rfl h2, h1]; rfl

theorem writeCmd_refuses {c : Word} (h1 : g.range = true) (hb : body (taken s r) = .error c) : Refuses i s r c :=
  hx.trans (congrArg _ (writeCmd_error h rfl rfl h2 h1 hb))

theorem writeCmd_accepts (h1 : g.range = true) (hb : body (taken s r) = .ok t) : Accepts i s r t :=
  hx.trans (congrArg _ (writeCmd_ok h rfl rfl h2 h1 hb))

end Sys2Proof.Machine
end

section
/-! The machine right after reset: its tables are empty, so every unit reads its default (R42, R307, R345, R430, R437, R480). -/
namespace Sys2Proof.Machine

/-- The empty tables of reset are in their canonical form. -/
theorem canon_reset : Canon State.reset := by
  have hctx : CtxCanon {} := ⟨rfl, rfl, rfl, rfl, rfl, rfl⟩
  have heng : EngCanon {} := ⟨hctx, hctx, rfl, rfl, rfl, rfl, fun _ => ⟨rfl, rfl⟩, rfl, rfl, fun _ h => absurd h (by simp)⟩
  exact ⟨rfl, rfl, rfl, rfl, rfl, rfl, rfl, rfl, rfl, rfl, rfl, fun _ => heng, fun _ => rfl, fun _ => rfl⟩

/-- Settles O57: every field of `State.reset` has its default, and an empty table reads its default at every key. -/
theorem resetLeaves : Obligations.ResetLeaves := by
  unfold Obligations.ResetLeaves
  refine ⟨rfl, rfl, rfl, rfl, rfl, rfl, rfl, rfl, rfl, rfl, rfl, rfl, rfl, rfl, rfl, canon_reset, fun n => ⟨rfl, rfl, rfl, rfl⟩, fun _ => rfl,
    fun _ => rfl, fun _ => ⟨rfl, rfl⟩, fun _ => ⟨rfl, rfl⟩, fun _ => ⟨rfl, rfl, rfl⟩, fun _ => ⟨rfl, rfl⟩, fun _ => rfl⟩

end Sys2Proof.Machine
end

section
/-! Commit groups: what a served write of COMMIT_GROUP answers (R71, R280 to R282, R302, R308). -/
namespace Sys2Proof.Machine

/-! ### A write to a group -/

section
variable {s t : State} {r : Req} {g role : Nat} {range : Bool} {body : State → Except Word State}
  (h : Served s r (0x1300 + g) role) (h1 : 1 ≤ g) (h2 : g ≤ 255)
include h h1 h2

theorem groupCmd_ok (hr : range = true) (hb : body (taken s r) = .ok t) :
    groupCmd s r g role range body = .next (sendReply t r 2 1 eOK 0xFF []) := by
  unfold groupCmd ok
  rw [decide_eq_true h1, decide_eq_true h2]
  exact congrArg _ (writeCmd_ok (g := { obj := 0x1300 + g, role := role, range := range }) h rfl rfl rfl hr hb)

theorem groupCmd_error {c : Word} (hr : range = true) (hb : body (taken s r) = .error c) :
    groupCmd s r g role range body = .next (sendReply (taken s r) r 2 1 c 0 []) := by
  unfold groupCmd ok
  rw [decide_eq_true h1, decide_eq_true h2]
  exact congrArg _ (writeCmd_error (g := { obj := 0x1300 + g, role := role, range := range }) h rfl rfl rfl hr hb)

end

theorem groupOpen_iff {x : Group} : groupOpen x = true ↔ x.state = .empty ∨ x.state = .opened := by simp [groupOpen]

theorem groupArmed_iff {x : Group} : groupArmed x = true ↔ x.state = .preparing ∨ x.state = .armed ∨ x.state = .locked := by
  simp [groupArmed, or_assoc]

theorem groupOpen_eq_false {x : Group} (h : ¬ (x.state = .empty ∨ x.state = .opened)) : groupOpen x = false :=
  Bool.eq_false_of_not_eq_true (mt groupOpen_iff.1 h)

theorem groupArmed_eq_false {x : Group} (h : ¬ (x.state = .preparing ∨ x.state = .armed ∨ x.state = .locked)) : groupArmed x = false :=
  Bool.eq_false_of_not_eq_true (mt groupArmed_iff.1 h)

/-! ### Pages (R280) -/

section
variable {s : State} {r : Req} {g : Nat} {k : Word} (h : Served s r (0x1300 + g) operator) (h1 : 1 ≤ g) (h2 : g ≤ 255) (hk : k.toNat < 4096)
include h h1 h2 hk

theorem addPage_ok (hg : (page (eng s (k.toNat / 128)) (k.toNat % 128)).group.toNat = 0 ∨
      (page (eng s (k.toNat / 128)) (k.toNat % 128)).group.toNat = g)
    (hb : (page (eng s (k.toNat / 128)) (k.toNat % 128)).state ≠ .bound) (hl : (page (eng s (k.toNat / 128)) (k.toNat % 128)).state ≠ .gliding)
    (ho : (group s g).state = .empty ∨ (group s g).state = .opened) :
    Accepts (.addPage r g k) s r (setGroup (modPage (taken s r) (k.toNat / 128) (k.toNat % 128) (fun q => { q with group := BitVec.ofNat 8 g })) g
      { group s g with state := .opened
                       pages := if (group s g).pages.contains k.toNat then (group s g).pages else (group s g).pages ++ [k.toNat] }) := by
  have hfree : ¬ ((page (eng s (k.toNat / 128)) (k.toNat % 128)).group.toNat ≠ 0 ∧
      (page (eng s (k.toNat / 128)) (k.toNat % 128)).group.toNat ≠ g) := fun ⟨h0, hn⟩ => hg.elim h0 hn
  refine groupCmd_ok h h1 h2 (decide_eq_true hk) ?_
  simp only [taken_eng, taken_group, hfree, hb, hl, groupOpen_iff.2 ho, decide_false, Bool.or_self, Bool.not_true, Bool.false_eq_true, if_false]

theorem addPage_conflict (hc : ((page (eng s (k.toNat / 128)) (k.toNat % 128)).group.toNat ≠ 0 ∧
      (page (eng s (k.toNat / 128)) (k.toNat % 128)).group.toNat ≠ g) ∨ (page (eng s (k.toNat / 128)) (k.toNat % 128)).state = .bound ∨
      (page (eng s (k.toNat / 128)) (k.toNat % 128)).state = .gliding) : Refuses (.addPage r g k) s r eConflict :=
  groupCmd_error h h1 h2 (decide_eq_true hk) (if_pos (by
    simpa only [taken_eng, Bool.or_eq_true, decide_eq_true_eq, or_assoc] using hc))

theorem removePage_ok (ho : (group s g).state = .empty ∨ (group s g).state = .opened) (hc : (group s g).pages.contains k.toNat = true) :
    Accepts (.removePage r g k) s r (setGroup (modPage (taken s r) (k.toNat / 128) (k.toNat % 128) (fun q => { q with group := 0 })) g
      { group s g with pages := (group s g).pages.filter (fun j => decide (j ≠ k.toNat)) }) := by
  refine groupCmd_ok h h1 h2 (decide_eq_true hk) ?_
  simp only [taken_group, groupOpen_iff.2 ho, hc, Bool.not_true, Bool.or_self, Bool.false_eq_true, if_false]

theorem removePage_state (hx : ¬ ((group s g).state = .empty ∨ (group s g).state = .opened) ∨ (group s g).pages.contains k.toNat = false) :
    Refuses (.removePage r g k) s r eState := by
  refine groupCmd_error h h1 h2 (decide_eq_true hk) (if_pos ?_)
  rw [taken_group]
  rcases hx with ho | hc
  · rw [groupOpen_eq_false ho]; rfl
  · rw [hc]; exact Bool.or_true _

end

/-! ### Scope and members (R280, R308) -/

section
variable {s : State} {r : Req} {g : Nat} (h : Served s r (0x1300 + g) engineer) (h1 : 1 ≤ g) (h2 : g ≤ 255)
include h h1 h2

theorem scope_ok (ho : (group s g).state = .empty ∨ (group s g).state = .opened) :
    Accepts (.scope r g 0) s r (setGroup (taken s r) g { group s g with grove := false }) ∧
    Accepts (.scope r g 1) s r (setGroup (taken s r) g { group s g with grove := true, state := .opened }) := by
  refine ⟨groupCmd_ok h h1 h2 rfl ?_, groupCmd_ok h h1 h2 rfl ?_⟩ <;> dsimp only <;> rw [taken_group, groupOpen_iff.2 ho] <;> rfl

theorem scope_state (ho : ¬ ((group s g).state = .empty ∨ (group s g).state = .opened)) :
    Refuses (.scope r g 0) s r eState ∧ Refuses (.scope r g 1) s r eState := by
  refine ⟨groupCmd_error h h1 h2 rfl ?_, groupCmd_error h h1 h2 rfl ?_⟩ <;> dsimp only <;> rw [taken_group, groupOpen_eq_false ho] <;> rfl

variable {v : Word} (hv : v.toNat < 4096) (ho : (group s g).state = .empty ∨ (group s g).state = .opened)
include hv ho

theorem addMember_listed (hc : (group s g).members.contains v.toNat = true) :
    Accepts (.addMember r g v) s r (setGroup (taken s r) g { group s g with state := .opened }) := by
  refine groupCmd_ok h h1 h2 (decide_eq_true hv) ?_
  simp only [taken_group, groupOpen_iff.2 ho, hc, Bool.not_true, Bool.false_eq_true, if_false, if_true]

theorem addMember_room (hl : (group s g).members.length < 256) (hc : (group s g).members.contains v.toNat = false) :
    Accepts (.addMember r g v) s r
      (setGroup (taken s r) g { group s g with state := .opened, members := (group s g).members ++ [v.toNat] }) := by
  refine groupCmd_ok h h1 h2 (decide_eq_true hv) ?_
  simp only [taken_group, groupOpen_iff.2 ho, hc, Nat.not_le.2 hl, Bool.not_true, Bool.false_eq_true, if_false]

theorem addMember_full (hl : (group s g).members.length = 256) (hc : (group s g).members.contains v.toNat = false) :
    Refuses (.addMember r g v) s r eCapacity := by
  refine groupCmd_error h h1 h2 (decide_eq_true hv) ?_
  simp only [taken_group, groupOpen_iff.2 ho, hc, hl, le_refl, Bool.not_true, Bool.false_eq_true, if_false, if_true]

end

/-! ### ARM, CANCEL and RELEASE (R71, R281, R282) -/

section
variable {s : State} {r : Req} {g : Nat} (h : Served s r (0x1300 + g) operator) (h1 : 1 ≤ g) (h2 : g ≤ 255)
include h h1 h2

theorem arm_local {t : MT} (hg : (group s g).grove = false) :
    (armFails (taken s r) g t = none → Accepts (.arm r g t) s r (armGroup (taken s r) g t .armed)) ∧
    ∀ c, armFails (taken s r) g t = some c → Refuses (.arm r g t) s r c := by
  have hrole : (if (group s g).grove then engineer else operator) = operator := by rw [hg]; rfl
  refine ⟨fun ha => groupCmd_ok (hrole.symm ▸ h) h1 h2 rfl ?_, fun c hc => groupCmd_error (hrole.symm ▸ h) h1 h2 rfl ?_⟩
  · simp only [taken_group, hg, ha, Bool.false_and, Bool.not_false, Bool.false_eq_true, if_false, if_true]
  · simp only [taken_group, hg, hc, Bool.false_and, Bool.false_eq_true, if_false]

theorem cancel_ok (ha : groupArmed (group s g) = true) (hc : (group s g).coordinating = false)
    (ht : inTime (now s) ((group s g).target.getD MT.zero) = true) : Accepts (.cancel r g 1) s r (disarm (taken s r) g 2) := by
  refine groupCmd_ok h h1 h2 rfl ?_
  simp only [taken_group, taken_now, ha, hc, ht, Bool.not_true, Bool.false_eq_true, if_false, BitVec.reduceEq]

theorem cancel_late (ha : groupArmed (group s g) = true) (ht : inTime (now s) ((group s g).target.getD MT.zero) = false) :
    Refuses (.cancel r g 1) s r eLate := by
  refine groupCmd_error h h1 h2 rfl ?_
  simp only [taken_group, taken_now, ha, ht, Bool.not_true, Bool.not_false, Bool.false_eq_true, if_false, if_true, BitVec.reduceEq]

theorem cancel_state (ha : groupArmed (group s g) = false) : Refuses (.cancel r g 1) s r eState := by
  refine groupCmd_error h h1 h2 rfl ?_
  simp only [taken_group, ha, Bool.not_false, if_false, if_true, BitVec.reduceEq]

theorem groupRelease_state (ha : groupArmed (group s g) = true) : Refuses (.groupRelease r g 1) s r eState := by
  refine groupCmd_error h h1 h2 rfl ?_
  simp only [taken_group, ha, if_false, if_true, BitVec.reduceEq]

theorem groupRelease_ok (ha : groupArmed (group s g) = false) (hgr : (group s g).grafts = []) : Accepts (.groupRelease r g 1) s r
    (setGroup ((group s g).pages.foldl (fun s k => modPage s (k / 128) (k % 128) (fun q => { q with group := 0 })) (taken s r)) g
      (groupEmpty (group s g))) := by
  refine groupCmd_ok h h1 h2 rfl ?_
  simp only [taken_group, ha, hgr, Bool.false_eq_true, if_false, BitVec.reduceEq, List.foldl_nil]

end

/-- Settles O29: each command of a group is taken through its checks; ARM ends in `armGroup`, CANCEL in `disarm`. -/
theorem groupCommands : Obligations.GroupCommands := by
  unfold Obligations.GroupCommands
  intro s r g k v t h1 h2
  refine ⟨fun h hk => ⟨addPage_ok h h1 h2 hk, addPage_conflict h h1 h2 hk, removePage_ok h h1 h2 hk, removePage_state h h1 h2 hk⟩,
    fun h => ⟨scope_ok h h1 h2, scope_state h h1 h2, fun hv => addMember_room h h1 h2 hv, fun hv => addMember_listed h h1 h2 hv,
      fun hv => addMember_full h h1 h2 hv⟩,
    fun h => ⟨arm_local h h1 h2, fun ha => cancel_ok h h1 h2 (groupArmed_iff.2 ha), fun ha => cancel_late h h1 h2 (groupArmed_iff.2 ha),
      fun ha => cancel_state h h1 h2 (groupArmed_eq_false ha), fun ha => groupRelease_state h h1 h2 (groupArmed_iff.2 ha),
      fun ha => groupRelease_ok h h1 h2 (groupArmed_eq_false ha)⟩⟩

end Sys2Proof.Machine
end

section
/-! BASE_RATE.TARGET: what a served write of it answers (R81, R84, R88). -/
namespace Sys2Proof.Machine

theorem rateTargetOk_iff {s : State} {t : MT} :
    rateTargetOk s t = true ↔ t = MT.zero ∨ (t.phase = 0 ∧ t.count.toNat % rateHz s.clocks.rate = 0) := by simp [rateTargetOk]

theorem rateTargetOk_zero (s : State) : rateTargetOk s MT.zero = true := rateTargetOk_iff.2 (.inl rfl)

theorem taken_joinedGrove (s : State) (r : Req) : joinedGrove (taken s r) = joinedGrove s := rfl

/-- A base-rate change with target `x`. -/
def hopAt (x : MT) (y : Sched) : Bool := decide (y.target = x) && (match y.act with
  | .baseRate _ => true
  | _ => false)

theorem hopAt_baseRate {x : MT} {y : Sched} {k : Nat} (ha : y.act = .baseRate k) : hopAt x y = decide (y.target = x) := by
  unfold hopAt; rw [ha]; exact Bool.and_true _

section
variable {s : State} {r : Req} {t : MT} (h : Served s r 0x0201 custodian)
include h

theorem baseRateArm_range (ht : ¬ (t = MT.zero ∨ (t.phase = 0 ∧ t.count.toNat % rateHz s.clocks.rate = 0))) :
    Refuses (.baseRateArm r t) s r eRange :=
  writeCmd_outOfRange rfl h rfl (Bool.eq_false_of_not_eq_true (mt rateTargetOk_iff.1 ht))

/-- R88: a member that is not the Root takes no target. -/
theorem baseRateArm_follows (ht : t = MT.zero ∨ (t.phase = 0 ∧ t.count.toNat % rateHz s.clocks.rate = 0))
    (hf : ¬ (joinedGrove s = false ∨ s.grove.role = .root)) : Refuses (.baseRateArm r t) s r eState := by
  obtain ⟨hj, hr⟩ := not_or.1 hf
  refine writeCmd_refuses rfl h rfl (rateTargetOk_iff.2 ht) (if_pos ?_)
  rw [taken_joinedGrove, Bool.eq_true_of_not_eq_false hj, taken_grove, decide_eq_true hr]; rfl

omit h in
/-- The device sets its own time: it is alone, or its grove's Root. -/
theorem not_follows (ha : joinedGrove s = false ∨ s.grove.role = .root) : (joinedGrove (taken s r) && decide ((taken s r).grove.role ≠ .root)) = false := by
  rw [taken_joinedGrove, taken_grove]
  rcases ha with hj | hr
  · rw [hj]; rfl
  · rw [hr]; exact Bool.and_false _

variable (ha : joinedGrove s = false ∨ s.grove.role = .root)
include ha

/-! ### A target of 0 -/

theorem baseRateArm_none (hn : s.clocks.rateTarget = none) : Accepts (.baseRateArm r MT.zero) s r (taken s r) := by
  refine writeCmd_accepts rfl h rfl (rateTargetOk_zero s) ?_
  simp only [not_follows ha, hn, Bool.false_eq_true, if_false, if_true]

theorem baseRateArm_cancelLate {x : MT} (hx : s.clocks.rateTarget = some x) (ht : inTime (now s) x = false) :
    Refuses (.baseRateArm r MT.zero) s r eLate := by
  refine writeCmd_refuses rfl h rfl (rateTargetOk_zero s) ?_
  simp only [not_follows ha, hx, taken_now, ht, Bool.false_eq_true, if_false, if_true]

/-- An armed hop is taken back: `rateTarget` shows the latest of those that are left. -/
theorem baseRateArm_cancels {x : MT} (hx : s.clocks.rateTarget = some x) (ht : inTime (now s) x = true) :
    ∃ v, Accepts (.baseRateArm r MT.zero) s r v ∧ v.clocks.rateTarget = lastRateTarget v.clocks.sched ∧
      (∀ y ∈ v.clocks.sched, ∀ k, y.act = .baseRate k → y.target ≠ x) ∧
      { v with clocks := s.clocks } = { taken s r with clocks := s.clocks } := by
  let w := schedDrop (taken s r) (hopAt x)
  refine ⟨{ w with clocks := { w.clocks with rateTarget := lastRateTarget w.clocks.sched } }, ?_, rfl, fun y hy k hk => ?_, rfl⟩
  · refine writeCmd_accepts rfl h rfl (rateTargetOk_zero s) ?_
    simp only [not_follows ha, hx, taken_now, ht, Bool.false_eq_true, if_false, if_true]
    rfl
  · have hkept : hopAt x y = false := by simpa using (List.mem_filter.1 hy).2
    rw [hopAt_baseRate hk] at hkept
    exact of_decide_eq_false hkept

/-! ### A target in whole seconds -/

variable (hz : t ≠ MT.zero) (hp : t.phase = 0) (hw : t.count.toNat % rateHz s.clocks.rate = 0)
include hz hp hw

theorem baseRateArm_late (ht : inTime (now s) t = false) : Refuses (.baseRateArm r t) s r eLate := by
  refine writeCmd_refuses rfl h rfl (rateTargetOk_iff.2 (.inr ⟨hp, hw⟩)) ?_
  simp only [not_follows ha, hz, taken_now, ht, Bool.not_false, Bool.false_eq_true, if_false, if_true]

theorem baseRateArm_armed (hd : dormant s = false) (ht : inTime (now s) t = true)
    (hb : s.engines.any (fun kv => imageBars s.clocks.next kv.2.active || imageBars s.clocks.next kv.2.standby) = false)
    (hf : schedTaken s t (.baseRate s.clocks.next) = false) (hr : schedRoom s 1 = true) :
    Accepts (.baseRateArm r t) s r { taken s r with clocks := { s.clocks with
      sched := s.clocks.sched ++ [⟨t, .baseRate s.clocks.next, false⟩], rateTarget := some t } } := by
  refine writeCmd_accepts rfl h rfl (rateTargetOk_iff.2 (.inr ⟨hp, hw⟩)) ?_
  simp only [not_follows ha, hz, taken_now, taken_dormant, taken_engines, taken_schedTaken, taken_schedRoom, hd, ht, hb, hf, hr,
    Bool.not_true, Bool.false_eq_true, if_false]
  rfl

end

/-- Settles O37: a target is judged by its range, then by who sets the grove's time; 0 takes a hop back and a whole second arms one. -/
theorem baseRateRequests : Obligations.BaseRateRequests := by
  unfold Obligations.BaseRateRequests
  intro s r t h
  exact ⟨baseRateArm_range h, baseRateArm_follows h, fun ha hz hd hp hw ht hb hf hr => baseRateArm_armed h ha hz hp hw hd ht hb hf hr,
    fun ha hz _ hp hw ht => baseRateArm_late h ha hz hp hw ht, baseRateArm_none h, fun ha _ => baseRateArm_cancelLate h ha,
    fun ha _ => baseRateArm_cancels h ha⟩

end Sys2Proof.Machine
end

section
/-! The base-period boundary: what each of its parts leaves, put together (R45, R65, R66, R79, R82, R98, R133). -/
namespace Sys2Proof.Machine

variable (s : State)

/-- The boundary's media time. -/
def boundaryTime (s : State) : MT := ⟨(now s).count + 1, 0⟩

/-- The state of a boundary when its pending actions have been applied. -/
def actedOn (s : State) : State := boundaryActs (boundaryStart s) (boundaryTime s)

/-- The state after a boundary at which time runs. -/
def afterBoundary (s : State) : State := boundaryEnd (boundaryMid (actedOn s))

theorem exec_boundary (h : timeRuns s = true) : exec .basePeriodBoundary s = .next (afterBoundary s) := by
  unfold afterBoundary actedOn boundaryTime
  exact execBasePeriodBoundary_eq s h

theorem exec_boundary_stopped (h : timeRuns s = false) : exec .basePeriodBoundary s = .next s := by
  show execBasePeriodBoundary s = _
  unfold execBasePeriodBoundary ok
  rw [h]; rfl

/-! ### Reading off what a part keeps -/

section
variable {a b : State} {m : MT} {r : Nat} {g : Bool} {k : ClockCfg} {w : Int} {c : Persist} {ro : Tbl Route} {cr : Tbl Cross} {sd : List Sched}
  {st : List Staged}

theorem timeKept_parts (h : timeKept a = (m, r, g, k, w, c)) : a.clocks.mt = m ∧ a.clocks.rate = r ∧ a.clocks.gateOpen = g ∧
    a.clocks.clkoutApplied = k ∧ a.clocks.ntoPpb = w ∧ a.cfg = c := by
  simpa only [timeKept, Prod.mk.injEq] using h

theorem steady_routes (h : steady a = ((m, r, g, k, w, c), ro, cr)) : a.routes = ro := congrArg (·.2.1) h

theorem settled_parts (h : settled a = settled b) : timeKept a = timeKept b ∧ a.routes = b.routes ∧ a.clocks.sched = b.clocks.sched ∧
    a.clocks.staged = b.clocks.staged := by
  simpa only [settled, Prod.mk.injEq] using h

theorem kept_parts (h : kept a = (((m, r, g, k, w, c), ro, cr), sd, st)) : timeKept a = (m, r, g, k, w, c) ∧ a.routes = ro ∧ a.clocks.sched = sd ∧
    a.clocks.staged = st :=
  ⟨congrArg (·.1.1) h, congrArg (·.1.2.1) h, congrArg (·.2.1) h, congrArg (·.2.2) h⟩

end

/-! ### What the parts after the pending actions leave of them -/

theorem mcpllTick_keeps : (mcpllTick s).clocks.mt = s.clocks.mt ∧ (mcpllTick s).clocks.rate = s.clocks.rate ∧
    (mcpllTick s).clocks.clkoutApplied = s.clocks.clkoutApplied ∧ (mcpllTick s).cfg = s.cfg ∧ (mcpllTick s).routes = s.routes ∧
    (mcpllTick s).clocks.sched = s.clocks.sched ∧ (mcpllTick s).clocks.staged = s.clocks.staged := ⟨rfl, rfl, rfl, rfl, rfl, rfl, rfl⟩

theorem boundaryRest_keeps : let t := boundaryEnd (boundaryMid s)
    t.clocks.mt = s.clocks.mt ∧ t.clocks.rate = s.clocks.rate ∧ t.clocks.clkoutApplied = s.clocks.clkoutApplied ∧ t.cfg = s.cfg ∧
    t.routes = s.routes ∧ (t.clocks.ntoPpb - s.clocks.ntoPpb).natAbs ≤ 10000000 / rateHz s.clocks.rate := by
  obtain ⟨hend, hroutes, -, -⟩ := settled_parts (settled_end (boundaryMid s))
  obtain ⟨hmt, hrate, -, hclk, hword, hcfg⟩ := timeKept_parts hend
  obtain ⟨hmt', hrate', -, hclk', hword', hcfg'⟩ := timeKept_parts (timeKept_of_steady (steady_mid s))
  obtain ⟨tmt, trate, tclk, tcfg, troutes, -, -⟩ := mcpllTick_keeps (boundaryMid s)
  refine ⟨hmt.trans (tmt.trans hmt'), hrate.trans (trate.trans hrate'), hclk.trans (tclk.trans hclk'), hcfg.trans (tcfg.trans hcfg'),
    hroutes.trans (troutes.trans (steady_routes (steady_mid s))), ?_⟩
  rw [hword, ← hword', ← hrate']
  exact mcpllTick_slews _

theorem boundaryRest_pending (h : alone s = true) : (boundaryEnd (boundaryMid s)).clocks.sched = s.clocks.sched ∧
    (boundaryEnd (boundaryMid s)).clocks.staged = s.clocks.staged.filter (fun x => !isDue (now s) x.target) := by
  obtain ⟨-, -, hsched, hstaged⟩ := settled_parts (settled_end (boundaryMid s))
  obtain ⟨-, -, hsched', hstaged'⟩ := kept_parts (kept_mid s h)
  obtain ⟨-, -, -, -, -, tsched, tstaged⟩ := mcpllTick_keeps (boundaryMid s)
  exact ⟨hsched.trans (tsched.trans hsched'), hstaged.trans (tstaged.trans hstaged')⟩

/-- From its pending actions a boundary goes on to its end with the count and settings, the routes, and MCPLL's word one step further. -/
theorem afterActs_keeps : let t := afterBoundary s
    let a := actedOn s
    t.clocks.mt = a.clocks.mt ∧ t.clocks.rate = a.clocks.rate ∧ t.clocks.clkoutApplied = a.clocks.clkoutApplied ∧ t.cfg = a.cfg ∧
    t.routes = a.routes ∧ (t.clocks.ntoPpb - a.clocks.ntoPpb).natAbs ≤ 10000000 / rateHz a.clocks.rate := by
  unfold afterBoundary
  exact boundaryRest_keeps _

theorem afterActs_pending (h : alone (actedOn s) = true) : (afterBoundary s).clocks.sched = (actedOn s).clocks.sched ∧
    (afterBoundary s).clocks.staged = (actedOn s).clocks.staged.filter (fun x => !isDue (now (actedOn s)) x.target) := by
  unfold afterBoundary
  exact boundaryRest_pending _ h

theorem alone_of_cfg {a b : State} (h : a.cfg = b.cfg) : alone a = alone b := by unfold alone; rw [h]

/-! ### The pending actions -/

theorem boundaryStart_clocks : (boundaryStart s).clocks.mt = boundaryTime s ∧ (boundaryStart s).clocks.rate = s.clocks.rate ∧
    (boundaryStart s).clocks.gateOpen = s.clocks.gateOpen ∧ (boundaryStart s).clocks.clkoutApplied = s.cfg.clocks ∧
    (boundaryStart s).clocks.ntoPpb = s.clocks.ntoPpb ∧ (boundaryStart s).cfg = s.cfg :=
  timeKept_parts (kept_parts (kept_boundaryStart s)).1

theorem boundaryStart_pending : (boundaryStart s).routes = s.routes ∧ (boundaryStart s).clocks.sched = s.clocks.sched ∧
    (boundaryStart s).clocks.staged = s.clocks.staged := (kept_parts (kept_boundaryStart s)).2

/-- A pending action that a boundary at `t` applies: it is due, and no running frame touches its engines. -/
def appliesAt (s : State) (t : MT) (x : Sched) : Bool :=
  isDue t x.target && (touched s x.act).all (fun n => decide ((eng s n).stage = .none) || freeRun (eng s n))

theorem boundaryActs_open (t : MT) (h : s.clocks.gateOpen = true) : boundaryActs s t = endLeases (applyWhere s (appliesAt s t)) := by
  unfold boundaryActs; rw [if_pos h]; rfl

theorem kept_boundaryActs_closed (t : MT) (h : s.clocks.gateOpen = false) : kept (boundaryActs s t) = kept s := by
  unfold boundaryActs; rw [if_neg (by rw [h]; decide)]
  exact kept_eachBridge ..

/-- Where every action waits, it keeps its place. -/
theorem kept_boundaryActs_waits (t : MT) (h : s.clocks.gateOpen = false ∨ ∀ x ∈ s.clocks.sched, isDue t x.target = false) :
    kept (boundaryActs s t) = kept s := by
  cases hg : s.clocks.gateOpen with
  | false => exact kept_boundaryActs_closed s t hg
  | true =>
    have hdue := h.resolve_left (by rw [hg]; decide)
    rw [boundaryActs_open s t hg, kept_endLeases, applyWhere_none]
    intro x hx
    unfold appliesAt
    rw [hdue x hx, Bool.false_and]

theorem timeKept_boundaryActs (t : MT)
    (h : ¬ (s.clocks.gateOpen = true ∧ ∃ x ∈ s.clocks.sched, isDue t x.target = true ∧ ∃ k, x.act = .baseRate k)) :
    timeKept (boundaryActs s t) = timeKept s := by
  cases hg : s.clocks.gateOpen with
  | false => exact timeKept_of_steady (steady_of_kept (kept_boundaryActs_closed s t hg))
  | true =>
    rw [boundaryActs_open s t hg, timeKept_of_steady (steady_of_kept (kept_endLeases _))]
    refine timeKept_applyWhere s _ fun x hx hp k hk => h ⟨hg, x, hx, ?_, k, hk⟩
    exact (Bool.and_eq_true_iff.1 hp).1

/-- A time is due at itself. -/
theorem isDue_self (t : MT) : isDue t t = true := by unfold isDue inFuture countTo; simp

/-- The one pending action, due now and of no engine, is applied, with nothing left pending. -/
theorem boundaryActs_one {t : MT} {a : SchedAct} {l : Bool} (hg : s.clocks.gateOpen = true) (hs : s.clocks.sched = [⟨t, a, l⟩])
    (ht : touched s a = []) : boundaryActs s t = endLeases (applySched (setClocks s fun c => { c with sched := [] }) ⟨t, a, l⟩) := by
  have happ : appliesAt s t ⟨t, a, l⟩ = true := by unfold appliesAt; rw [isDue_self, ht]; rfl
  rw [boundaryActs_open s t hg]
  congr 1
  unfold applyWhere schedDrop
  simp only [hs, List.filter_cons, happ, if_true, List.filter_nil, List.foldl_cons, List.foldl_nil, insertDue, Bool.not_true,
    Bool.false_eq_true, if_false, List.append_nil, List.erase_cons_head]
  rfl

/-! ### The boundary as a whole -/

section
variable {s}

theorem boundary_keepsTime (h : ¬ (s.clocks.gateOpen = true ∧ ∃ x ∈ s.clocks.sched, isDue (boundaryTime s) x.target = true ∧ ∃ k, x.act = .baseRate k)) :
    let t := afterBoundary s
    t.clocks.mt = boundaryTime s ∧ t.clocks.rate = s.clocks.rate ∧ t.clocks.clkoutApplied = s.cfg.clocks ∧ t.cfg = s.cfg ∧
    (t.clocks.ntoPpb - s.clocks.ntoPpb).natAbs ≤ 10000000 / rateHz s.clocks.rate := by
  obtain ⟨hmt, hrate, hgate, hclk, hword, hcfg⟩ := boundaryStart_clocks s
  obtain ⟨-, hsched, -⟩ := boundaryStart_pending s
  obtain ⟨amt, arate, -, aclk, aword, acfg⟩ :=
    timeKept_parts (show timeKept (actedOn s) = timeKept (boundaryStart s) from
      timeKept_boundaryActs _ _ (by rw [hgate, hsched]; exact h))
  obtain ⟨tmt, trate, tclk, tcfg, -, tslews⟩ := afterActs_keeps s
  refine ⟨tmt.trans (amt.trans hmt), trate.trans (arate.trans hrate), tclk.trans (aclk.trans hclk), tcfg.trans (acfg.trans hcfg), ?_⟩
  rw [show (actedOn s).clocks.ntoPpb = s.clocks.ntoPpb from aword.trans hword, show (actedOn s).clocks.rate = s.clocks.rate from arate.trans hrate] at tslews
  exact tslews

section
variable (h : s.clocks.gateOpen = false ∨ ∀ x ∈ s.clocks.sched, isDue (boundaryTime s) x.target = false)
include h

theorem kept_actedOn_waits : kept (actedOn s) = kept (boundaryStart s) := by
  obtain ⟨-, -, hgate, -⟩ := boundaryStart_clocks s
  obtain ⟨-, hsched, -⟩ := boundaryStart_pending s
  exact kept_boundaryActs_waits _ _ (by rw [hgate, hsched]; exact h)

theorem boundary_waits_routes : (afterBoundary s).routes = s.routes := by
  obtain ⟨-, -, -, -, troutes, -⟩ := afterActs_keeps s
  obtain ⟨-, aroutes, -, -⟩ := kept_parts (kept_actedOn_waits h)
  exact troutes.trans (aroutes.trans (boundaryStart_pending s).1)

theorem boundary_waits_pending (ha : alone s = true) : (afterBoundary s).clocks.sched = s.clocks.sched ∧
    (afterBoundary s).clocks.staged = s.clocks.staged.filter (fun x => !isDue (boundaryTime s) x.target) := by
  obtain ⟨hmt, -, -, -, -, hcfg⟩ := boundaryStart_clocks s
  obtain ⟨-, hsched, hstaged⟩ := boundaryStart_pending s
  obtain ⟨atime, -, asched, astaged⟩ := kept_parts (kept_actedOn_waits h)
  obtain ⟨amt, -, -, -, -, acfg⟩ := timeKept_parts atime
  obtain ⟨h1, h2⟩ := afterActs_pending s ((alone_of_cfg (acfg.trans hcfg)).trans ha)
  rw [show now (actedOn s) = boundaryTime s from amt.trans hmt, astaged.trans hstaged] at h2
  exact ⟨h1.trans (asched.trans hsched), h2⟩

end

/-- The state in which the one pending action is applied. -/
def aboutToAct (s : State) : State := setClocks (boundaryStart s) fun c => { c with sched := [] }

theorem aboutToAct_route (k : Nat) : route (aboutToAct s) k = route s k := by
  unfold route
  rw [show (aboutToAct s).routes = s.routes from (boundaryStart_pending s).1]

section
variable {a : SchedAct} {l : Bool} {v : State} (hg : s.clocks.gateOpen = true) (hs : s.clocks.sched = [⟨boundaryTime s, a, l⟩])
  (ht : touched (boundaryStart s) a = []) (hv : applySched (aboutToAct s) ⟨boundaryTime s, a, l⟩ = v)
include hg hs ht hv

theorem kept_actedOn_one : kept (actedOn s) = kept v := by
  obtain ⟨-, -, hgate, -⟩ := boundaryStart_clocks s
  obtain ⟨-, hsched, -⟩ := boundaryStart_pending s
  unfold actedOn
  rw [boundaryActs_one (boundaryStart s) (hgate.trans hg) (hsched.trans hs) ht, kept_endLeases, ← hv]
  rfl

theorem boundary_one_time : (afterBoundary s).clocks.rate = v.clocks.rate ∧ (afterBoundary s).clocks.mt = v.clocks.mt := by
  obtain ⟨tmt, trate, -⟩ := afterActs_keeps s
  obtain ⟨amt, arate, -⟩ := timeKept_parts (kept_parts (kept_actedOn_one hg hs ht hv)).1
  exact ⟨trate.trans arate, tmt.trans amt⟩

theorem boundary_one_route (k : Nat) : route (afterBoundary s) k = route v k := by
  obtain ⟨-, -, -, -, troutes, -⟩ := afterActs_keeps s
  obtain ⟨-, aroutes, -, -⟩ := kept_parts (kept_actedOn_one hg hs ht hv)
  unfold route
  rw [show (afterBoundary s).routes = v.routes from troutes.trans aroutes]

theorem boundary_one_sched (hc : v.cfg = s.cfg) (hn : v.clocks.sched = []) (ha : alone s = true) : (afterBoundary s).clocks.sched = [] := by
  obtain ⟨atime, -, asched, -⟩ := kept_parts (kept_actedOn_one hg hs ht hv)
  obtain ⟨-, -, -, -, -, acfg⟩ := timeKept_parts atime
  obtain ⟨h1, -⟩ := afterActs_pending s ((alone_of_cfg (acfg.trans hc)).trans ha)
  exact h1.trans (asched.trans hn)

end

section
variable {k : Nat} {l : Bool} (hg : s.clocks.gateOpen = true)
include hg

/-- A route begins at its target (R32). -/
theorem boundary_addsRoute (hs : s.clocks.sched = [⟨boundaryTime s, .routeAdd k, l⟩]) :
    route (afterBoundary s) k = { route s k with state := .active, target := none, since := boundaryTime s } ∧
    (∀ j, j ≠ k → route (afterBoundary s) j = route s j) ∧ (alone s = true → (afterBoundary s).clocks.sched = []) := by
  have hv : applySched (aboutToAct s) ⟨boundaryTime s, .routeAdd k, l⟩ = bumpEpoch (setRoute (aboutToAct s) k
    { route s k with state := .active, target := none, since := boundaryTime s }) := by rw [← aboutToAct_route]; rfl
  refine ⟨?_, fun j hj => ?_, boundary_one_sched hg hs rfl hv ?_ ?_⟩
  · rw [boundary_one_route hg hs rfl hv, bumpEpoch_route, route_setRoute_some]
    exact fun h => RouteState.noConfusion (congrArg Route.state h)
  · rw [boundary_one_route hg hs rfl hv, bumpEpoch_route, route_setRoute_ne _ _ hj, aboutToAct_route]
  · rw [bumpEpoch_cfg, setRoute_cfg]
    exact (boundaryStart_clocks s).2.2.2.2.2
  · rw [bumpEpoch_clocks, setRoute_clocks]; rfl

/-- The state in which a removed route has gone on to its tail. -/
def withTail (s : State) (k : Nat) : State :=
  { aboutToAct s with tails := (aboutToAct s).tails ++ [(route (aboutToAct s) k, boundaryTime s)] }

/-- A route ends at its target (R32). -/
theorem boundary_removesRoute (hs : s.clocks.sched = [⟨boundaryTime s, .routeRemove k, l⟩]) :
    (Tbl.wf {} s.routes = true → route (afterBoundary s) k = { result := (route s k).result }) ∧
    (∀ j, j ≠ k → route (afterBoundary s) j = route s j) ∧ (alone s = true → (afterBoundary s).clocks.sched = []) := by
  have hv : applySched (aboutToAct s) ⟨boundaryTime s, .routeRemove k, l⟩ =
    bumpEpoch (setRoute (withTail s k) k { result := (route s k).result }) := by rw [← aboutToAct_route]; rfl
  have hroutes : (withTail s k).routes = s.routes := (boundaryStart_pending s).1
  refine ⟨fun w => ?_, fun j hj => ?_, boundary_one_sched hg hs rfl hv ?_ ?_⟩
  · rw [boundary_one_route hg hs rfl hv, bumpEpoch_route, route_setRoute_self _ _ (by rw [hroutes]; exact w)]
  · rw [boundary_one_route hg hs rfl hv, bumpEpoch_route, route_setRoute_ne _ _ hj]
    exact aboutToAct_route j
  · rw [bumpEpoch_cfg, setRoute_cfg]
    exact (boundaryStart_clocks s).2.2.2.2.2
  · rw [bumpEpoch_clocks, setRoute_clocks]; rfl

/-- A base-rate change takes effect at its target (R82). -/
theorem boundary_hops (hs : s.clocks.sched = [⟨boundaryTime s, .baseRate k, l⟩]) : (afterBoundary s).clocks.rate = k ∧
    (afterBoundary s).clocks.mt = mtOf ((boundaryTime s).count.toNat * rateHz k / rateHz s.clocks.rate * 65536) := by
  obtain ⟨hmt, hrate, -⟩ := boundaryStart_clocks s
  obtain ⟨h1, h2, -⟩ := hop_time (aboutToAct s) k
  obtain ⟨t1, t2⟩ := boundary_one_time hg hs rfl (v := hop (aboutToAct s) k) rfl
  refine ⟨t1.trans h1, t2.trans (h2.trans ?_)⟩
  rw [show (aboutToAct s).clocks.mt = boundaryTime s from hmt, show (aboutToAct s).clocks.rate = s.clocks.rate from hrate]

end

/-- Port B's accesses have been carried out by the end of a boundary. -/
theorem boundary_settles (h : timeRuns s = true) (w : Tbl.wf {} s.mem.cross = true) {b : Nat} (hb : b < 32) :
    (cross (afterBoundary s) b).waitCc = [] ∧ (cross (afterBoundary s) b).waitLink = [] := by
  obtain ⟨t, ht, hw⟩ := boundary_waits s h w b hb
  have ht : exec .basePeriodBoundary s = .next t := ht
  rw [exec_boundary s h] at ht
  rw [Host.Outcome.next.inj ht]
  simpa only [waits, Prod.mk.injEq] using hw

end

/-- Settles O35: the boundary is cut into its start, the pending actions, and the rest; `kept` says what each part leaves. -/
theorem basePeriod : Obligations.BasePeriod := by
  unfold Obligations.BasePeriod
  intro s
  refine ⟨exec_boundary_stopped s, fun h => ⟨_, exec_boundary s h, boundary_keepsTime, boundary_waits_routes, boundary_waits_pending,
      fun hc b hb => ?_⟩, fun h hg k l hs => ⟨_, exec_boundary s h, boundary_addsRoute hg hs⟩,
    fun h hg k l hs => ⟨_, exec_boundary s h, ?_⟩, fun h hg k l hs => ⟨_, exec_boundary s h, boundary_hops hg hs⟩⟩
  · obtain ⟨-, -, -, -, -, -, -, -, -, hcross, -⟩ := hc
    exact boundary_settles h hcross hb
  · obtain ⟨h1, h2, h3⟩ := boundary_removesRoute hg hs
    exact ⟨fun ⟨_, hroutes, _⟩ => h1 hroutes, h2, h3⟩

end Sys2Proof.Machine
end

section
/-! Late results, the schedule lock, interrupts and breaks (R56, R75, R166, R167, R310, R495). -/
namespace Sys2Proof.Machine

variable {s : State} {e : Fin 32}

/-! ### Results in flight of an engine that issues no more (R56) -/

theorem foldl_min_due (l : List Flight) (m : Nat) : (l.foldl (fun m f => min m f.due) m ≤ m ∧ ∀ f ∈ l, l.foldl (fun m f => min m f.due) m ≤ f.due) ∧
    (l.foldl (fun m f => min m f.due) m = m ∨ ∃ f ∈ l, l.foldl (fun m f => min m f.due) m = f.due) := by
  induction l generalizing m with
  | nil => simp
  | cons x l ih =>
    obtain ⟨⟨h1, h2⟩, h3⟩ := ih (min m x.due)
    simp only [List.foldl_cons, List.mem_cons, forall_eq_or_imp, exists_eq_or_imp]
    refine ⟨⟨by omega, by omega, h2⟩, ?_⟩
    rcases h3 with h3 | h3
    · omega
    · exact .inr (.inr h3)

/-- The least due cycle of a list that starts with `f`. -/
theorem foldl_min_eq {f : Flight} {l : List Flight} {c : Nat} (hc : ∃ x ∈ f :: l, x.due = c) (hl : ∀ x ∈ f :: l, c ≤ x.due) :
    l.foldl (fun m f => min m f.due) f.due = c := by
  obtain ⟨⟨h1, h2⟩, h3⟩ := foldl_min_due l f.due
  apply Nat.le_antisymm
  · obtain ⟨x, hx, rfl⟩ := hc
    rcases List.mem_cons.1 hx with rfl | hx
    · exact h1
    · exact h2 x hx
  · rcases h3 with h3 | ⟨x, hx, h3⟩
    · rw [h3]; exact hl f List.mem_cons_self
    · rw [h3]; exact hl x (List.mem_cons_of_mem _ hx)

theorem resultLand_idle (h : (eng s e.val).stage = .program ∨ (eng s e.val).ctx.inflight = []) : exec (.resultLand e) s = .next s := by
  show execResultLand e s = _
  unfold execResultLand ok
  by_cases hp : (eng s e.val).stage = .program
  · simp only [hp, if_true]
  · simp only [hp, h.resolve_left hp, if_false]

/-- The earliest results land, unless their cycle is U or later. -/
theorem resultLand_spec {c : Nat} (hp : (eng s e.val).stage ≠ .program) (hc : ∃ f ∈ (eng s e.val).ctx.inflight, f.due = c)
    (hl : ∀ f ∈ (eng s e.val).ctx.inflight, c ≤ f.due) : exec (.resultLand e) s = .next
      (if !freeRun (eng s e.val) && decide (usable (engClass s e.val) ≤ c) then discard s e.val else landUpTo s e.val c) := by
  show execResultLand e s = _
  unfold execResultLand ok
  dsimp only
  rw [if_neg hp]
  split
  · next h0 => rw [h0] at hc; simp at hc
  · next f l h0 =>
    rw [h0] at hc hl
    rw [foldl_min_eq hc hl]
    split <;> rfl

/-! ### The schedule lock (R75, R310) -/

/-- What the lock of an action that is near does beside it: its group, its graft. -/
def lockItem (s : State) (x : Sched) : State :=
  match x.act with
  | .commit g n =>
    let s := if (group s g).state = .armed then setGroup s g { group s g with state := .locked } else s
    modEng s n (fun e => { e with graft := e.graft.map (fun a => if a.group = g then { a with locked := true } else a) })
  | .graft n => modEng s n (fun e => { e with graft := e.graft.map (fun a => { a with locked := true }) })
  | _ => s

theorem lockItem_frame (s : State) (x : Sched) : { lockItem s x with groups := s.groups, engines := s.engines } = s := by
  unfold lockItem
  split
  · split <;> rfl
  · rfl
  · rfl

theorem lockItem_locks {x : Sched} {k m : Nat} (hx : x.act = .commit k m) (h : (group s k).state = .armed ∨ (group s k).state = .locked) :
    (group (lockItem s x) k).state = .locked := by
  unfold lockItem
  rw [hx]
  simp only [modEng_group]
  rcases h with h | h
  · rw [if_pos h, group_setGroup_some]
    exact fun hd => GroupState.noConfusion (congrArg Group.state hd)
  · rw [if_neg (by rw [h]; decide), h]

theorem lockItem_other {x : Sched} {k : Nat} (hx : ∀ m, x.act ≠ .commit k m) : group (lockItem s x) k = group s k := by
  unfold lockItem
  split
  · next g n hg =>
    have hk : k ≠ g := fun h => hx n (h ▸ hg)
    rw [modEng_group]
    split
    · exact group_setGroup_ne _ _ hk
    · rfl
  · rfl
  · rfl

theorem lockItem_keeps {x : Sched} {k : Nat} (h : (group s k).state = .locked) : (group (lockItem s x) k).state = .locked := by
  by_cases hx : ∃ m, x.act = .commit k m
  · obtain ⟨m, hx⟩ := hx
    exact lockItem_locks hx (.inr h)
  · rw [lockItem_other (not_exists.1 hx), h]

theorem lockItems_frame (l : List Sched) (s : State) : { l.foldl lockItem s with groups := s.groups, engines := s.engines } = s := by
  induction l generalizing s with
  | nil => rfl
  | cons x l ih =>
    have h := ih (lockItem s x)
    exact (congrArg (fun u : State => { u with groups := s.groups, engines := s.engines }) h).trans (lockItem_frame s x)

theorem lockItems_keeps (l : List Sched) {s : State} {k : Nat} (h : (group s k).state = .locked) :
    (group (l.foldl lockItem s) k).state = .locked := by
  induction l generalizing s with
  | nil => exact h
  | cons x l ih => exact ih (lockItem_keeps h)

theorem lockItems_locks {l : List Sched} {s : State} {x : Sched} {k m : Nat} (hx : x ∈ l) (ha : x.act = .commit k m)
    (h : (group s k).state = .armed ∨ (group s k).state = .locked) : (group (l.foldl lockItem s) k).state = .locked := by
  induction l generalizing s with
  | nil => cases hx
  | cons y l ih =>
    rw [List.foldl_cons]
    rcases List.mem_cons.1 hx with rfl | hx
    · exact lockItems_keeps l (lockItem_locks ha h)
    · by_cases hy : ∃ j, y.act = .commit k j
      · obtain ⟨j, hy⟩ := hy
        exact ih hx (.inr (lockItem_locks hy h))
      · exact ih hx (by rw [lockItem_other (not_exists.1 hy)]; exact h)

/-- A pending action whose target is at most one base period away. -/
def isNear (s : State) (x : Sched) : Bool := isDue (mtPlus (now s) 65536) x.target

/-- The near actions locked in the schedule table. -/
def nearLocked (s : State) : State :=
  { s with clocks := { s.clocks with sched := s.clocks.sched.map (fun x => if isNear s x then { x with locked := true } else x) } }

theorem exec_scheduleLock : exec .scheduleLock s = .next ((s.clocks.sched.filter (isNear s)).foldl lockItem (nearLocked s)) := rfl

theorem scheduleLock_spec : ∃ t, exec .scheduleLock s = .next t ∧
    t.clocks.sched = s.clocks.sched.map (fun x => if isNear s x then { x with locked := true } else x) ∧
    { t with clocks := s.clocks, groups := s.groups, engines := s.engines } = s ∧
    (∀ x ∈ s.clocks.sched, ∀ k m, x.act = .commit k m → isNear s x = true → (group s k).state = .armed → (group t k).state = .locked) := by
  have hframe := lockItems_frame (s.clocks.sched.filter (isNear s)) (nearLocked s)
  refine ⟨_, exec_scheduleLock, congrArg (fun u => u.clocks.sched) hframe,
    congrArg (fun u : State => { u with clocks := s.clocks, groups := s.groups, engines := s.engines }) hframe, fun x hx k m ha hn hg => ?_⟩
  exact lockItems_locks (List.mem_filter.2 ⟨hx, hn⟩) ha (.inl hg)

/-! ### Interrupts and breaks (R166, R167, R495) -/

theorem hostServiceInterrupt_taken (h1 : mayInterrupt s e.val = true) (h2 : (eng s e.val).hsrWait = true)
    (h3 : (eng s e.val).ctx.emode.getLsbD 3 = true) : exec (.hostServiceInterrupt e) s = .next (modEng (landAll s e.val) e.val (fun g =>
      { g with ira := BitVec.ofNat 16 g.ctx.pc, inh := true, hsrWait := false
               ctx := { g.ctx with pc := 0x0010, cycle := g.ctx.cycle + 2 } })) := by
  show execHostServiceInterrupt e s = _
  unfold execHostServiceInterrupt ok
  dsimp only
  rw [h1, h2, h3]
  rfl

theorem hostServiceInterrupt_idle (h : mayInterrupt s e.val = false ∨ (eng s e.val).hsrWait = false ∨
    (eng s e.val).ctx.emode.getLsbD 3 = false) : exec (.hostServiceInterrupt e) s = .next s := by
  show execHostServiceInterrupt e s = _
  unfold execHostServiceInterrupt ok
  dsimp only
  rw [if_neg]
  rw [Bool.and_eq_true, Bool.and_eq_true]
  rintro ⟨⟨h1, h2⟩, h3⟩
  rw [h1, h2, h3] at h
  simp at h

/-- An engine that may be interrupted is in Sapling mode. -/
theorem saplMode_of_mayInterrupt {n : Nat} (h : mayInterrupt s n = true) : saplMode (eng s n) = true := by
  unfold mayInterrupt at h
  simp only [Bool.and_eq_true] at h
  exact h.1.1.1.1

theorem halted_ne_default {g : Engine} (h : g.state = .halted) : g ≠ {} := fun hd => by rw [hd] at h; cases h

theorem debugBreak_halts (h1 : mayInterrupt s e.val = true) (h2 : (eng s e.val).breakReq = true ∨ (eng s e.val).breakAddr = some (eng s e.val).ctx.pc) :
    ∃ t, exec (.debugBreakTaken e) s = .next t ∧ (eng t e.val).state = .halted ∧ (eng t e.val).haltByDebug = true ∧
      (eng t e.val).haltPc = BitVec.ofNat 16 (eng s e.val).ctx.pc ∧ (eng t e.val).breakReq = false ∧ (eng t e.val).running = false := by
  refine ⟨modEng (haltAt s e.val (eng s e.val).ctx.pc true) e.val (fun g => { g with breakReq := false, breakHit := false }), ?_, ?_⟩
  · show execDebugBreakTaken e s = _
    unfold execDebugBreakTaken ok
    simp only [saplMode_of_mayInterrupt h1, h1, if_true, Bool.true_and, Bool.or_eq_true, decide_eq_true_eq, if_pos h2]
  · have hhalt : eng (haltAt s e.val (eng s e.val).ctx.pc true) e.val = { eng (landAll s e.val) e.val with
        state := .halted, haltByDebug := true, running := false, stage := .ended, stepReq := false, atEnd := false
        haltPc := BitVec.ofNat 16 (eng s e.val).ctx.pc } := eng_modEng_some _ (halted_ne_default rfl)
    rw [eng_modEng_some _ (halted_ne_default (by rw [hhalt])), hhalt]
    exact ⟨rfl, rfl, rfl, rfl, rfl⟩

/-- A frame engine breaks between its frames. -/
theorem debugBreak_frame (hs : (eng s e.val).state = .run) (hst : (eng s e.val).stage = .none) (hf : (eng s e.val).fade = none)
    (hb : (eng s e.val).breakReq = true ∨ (eng s e.val).breakHit = true) : exec (.debugBreakTaken e) s =
      .next (modEng s e.val (fun g => { g with state := .debug, breakReq := false, breakHit := false })) := by
  have hmode : saplMode (eng s e.val) = false := by unfold saplMode; simp only [hs]
  have hfade : endFade s e.val 3 = s := by unfold endFade; simp only [hf]; rfl
  show execDebugBreakTaken e s = _
  unfold execDebugBreakTaken ok
  simp only [hmode, hs, hst, hfade, decide_true, Bool.true_and, Bool.or_eq_true, if_pos hb, Bool.false_eq_true, if_false]

/-- Settles O34: the earliest due cycle decides on a late result; the lock goes through the near actions; interrupts and breaks by their
conditions. -/
theorem locksAndInterrupts : Obligations.LocksAndInterrupts := by
  unfold Obligations.LocksAndInterrupts
  intro s e
  refine ⟨resultLand_idle, fun c hp hc hl => ⟨fun h => ?_, fun hf hu => ?_⟩, scheduleLock_spec, hostServiceInterrupt_taken, hostServiceInterrupt_idle,
    debugBreak_halts, debugBreak_frame⟩
  · refine (resultLand_spec hp hc hl).trans (congrArg _ (if_neg ?_))
    rw [Bool.and_eq_true, Bool.not_eq_true', decide_eq_true_eq]
    rintro ⟨h1, h2⟩
    rcases h with h | h
    · exact absurd (h1.symm.trans h) (by decide)
    · omega
  · exact (resultLand_spec hp hc hl).trans (congrArg _ (if_pos (by rw [hf, decide_eq_true hu]; rfl)))

end Sys2Proof.Machine
end

section
/-! Grove-wide commits: the coordinator's ARM, its members' PREPARE, and the acknowledgements (R72, R302 to R305). -/
namespace Sys2Proof.Machine

/-! ### What arming and decoding leave -/

section
variable (s : State)

/-- A page of a group that is armed. -/
def armPageOf (s : State) (k : Nat) : State := modPage s (k / 128) (k % 128) armPage

/-- A graft bound to a group that is armed for `t`. -/
def armGraftOf (t : MT) (s : State) (n : Nat) : State :=
  modEng s n (fun e => { e with graft := e.graft.map (fun a => { a with target := t }) })

/-- The pages and grafts of a group, armed for `t`. -/
def armItems (s : State) (g : Nat) (t : MT) : State := (group s g).grafts.foldl (armGraftOf t) ((group s g).pages.foldl armPageOf s)

theorem armItems_epoch (g : Nat) (t : MT) : (armItems s g t).epoch = s.epoch :=
  (foldl_keeps State.epoch (f := armGraftOf t) (fun _ _ => rfl) _ _).trans (foldl_keeps State.epoch (f := armPageOf) (fun _ _ => rfl) _ _)

theorem armGroup_eq (g : Nat) (t : MT) (st : GroupState) : armGroup s g t st =
    setGroup (schedAdd (armItems s g t) t ((groupEngines (group s g)).map (fun n => .commit g n))) g
      { group s g with state := st, target := some t, epoch := (armItems s g t).epoch } := rfl

theorem armGroup_epoch (g : Nat) (t : MT) (st : GroupState) : (armGroup s g t st).epoch = s.epoch := by
  rw [armGroup_eq, setGroup_epoch, schedAdd_epoch, armItems_epoch]

/-- What a group reads once it is armed. -/
theorem group_armGroup {g : Nat} {t : MT} {st : GroupState} (h : st ≠ .empty) :
    group (armGroup s g t st) g = { group s g with state := st, target := some t, epoch := s.epoch } := by
  rw [armGroup_eq, armItems_epoch, group_setGroup_some]
  exact fun hd => h (congrArg Group.state hd)

theorem decoded_group (kind : Byte) (src : BitVec 12) (g : Nat) (t : MT) (k : Nat) : group (decoded s kind src g t) k = group s k := rfl
theorem decoded_coreUp (kind : Byte) (src : BitVec 12) (g : Nat) (t : MT) : coreUp (decoded s kind src g t) = coreUp s := rfl

end

/-! ### The coordinator's ARM (R302) -/

/-- The group as its coordinator arms it, before PREPARE is sent. -/
def preparing (u : State) (g : Nat) (target : MT) : State :=
  let w := armGroup u g target .preparing
  setGroup w g { group w g with coordinating := true, coordinator := some u.cfg.deviceNumber, deadline := ackBy u (group u g) target
                                acked := if (group u g).members.contains u.cfg.deviceNumber then [u.cfg.deviceNumber] else [] }

section
variable {s : State} {r : Req} {g : Nat} {target : MT} (h : Served s r (0x1300 + g) engineer) (h1 : 1 ≤ g) (h2 : g ≤ 255)
  (hg : (group s g).grove = true)
include h hg

theorem armRole : Served s r (0x1300 + g) (if (group s g).grove then engineer else operator) := by rw [hg]; exact h

include h1 h2

theorem arm_late (ht : inFuture (ackBy (taken s r) (group s g) target) (now s) = true) : Refuses (.arm r g target) s r eLate := by
  refine groupCmd_error (armRole h hg) h1 h2 rfl ?_
  simp only [taken_group, taken_now, hg, ht, Bool.and_self, if_true]

variable (ht : inFuture (ackBy (taken s r) (group s g) target) (now s) = false)
include ht

theorem arm_refused {c : Word} (hc : armFails (taken s r) g target = some c) : Refuses (.arm r g target) s r c := by
  refine groupCmd_error (armRole h hg) h1 h2 rfl ?_
  simp only [taken_group, taken_now, ht, hc, Bool.and_false, Bool.false_eq_true, if_false]

theorem arm_prepares (hc : armFails (taken s r) g target = none) : Accepts (.arm r g target) s r
    (ackDone (originate (preparing (taken s r) g target) 3 true 0 (groupOctets g target ++ be 4 s.epoch.toNat)) g) := by
  refine groupCmd_ok (armRole h hg) h1 h2 rfl ?_
  simp only [taken_group, taken_now, ht, hc, hg, Bool.and_false, Bool.not_true, Bool.false_eq_true, if_false, setGroup_epoch, armGroup_epoch,
    taken_epoch, preparing]

end

/-! ### PREPARE at a member (R303) -/

section
variable {s : State} {g : Nat} {target : MT} {src : BitVec 12} {m : Word} {ep : Long}

theorem prepare_again (hp : (group s g).prepares.contains (src.toNat, target) = true) :
    exec (.prepare src m g target ep) s = .next (decoded s 3 src g target) := by
  show execPrepare src m g target ep s = _
  unfold execPrepare ok
  simp only [decoded_group, hp, Bool.or_true, if_true]

/-- The group has noted a PREPARE. -/
def prepareHeard (u : State) (g who : Nat) (target : MT) : State := setGroup u g { group u g with prepares := (group u g).prepares ++ [(who, target)] }

theorem group_prepareHeard (u : State) (g who : Nat) (target : MT) :
    group (prepareHeard u g who target) g = { group u g with prepares := (group u g).prepares ++ [(who, target)] } :=
  group_setGroup_some _ fun h => by simpa using congrArg Group.prepares h

/-- The group as a PREPARE arms it. -/
def armedFor (u : State) (g who : Nat) (target : MT) : State :=
  let w := armGroup (prepareHeard u g who target) g target .armed
  setGroup w g { group w g with coordinator := some who }

theorem armedFor_cancelled (u : State) (g who : Nat) (target : MT) : (group (armedFor u g who target) g).cancelled = (group u g).cancelled := by
  unfold armedFor
  dsimp only
  rw [group_armGroup _ (by decide), group_setGroup_some, group_prepareHeard]
  exact fun h => GroupState.noConfusion (congrArg Group.state h)

/-- What a PREPARE answers: its code, sent to the coordinator from the state that it leaves. -/
def Answers (i : Instr) (s : State) (g who : Nat) (target : MT) (t : State) (c : Word) : Prop :=
  exec i s = .next (originate t 4 false who (groupOctets g target ++ be 2 c.toNat))

variable (h1 : 1 ≤ g) (h2 : g ≤ 255) (hu : coreUp s = true) (hg : (group s g).grove = true)
  (hm : (group s g).members.contains src.toNat = true) (hd : src.toNat ≠ s.cfg.deviceNumber)
  (hp : (group s g).prepares.contains (src.toNat, target) = false)
include h1 h2 hu hg hm hd hp

/-- The code with which a first PREPARE is acknowledged. -/
def prepareCode (s : State) (g : Nat) (target : MT) (src : BitVec 12) (ep : Long) : Word :=
  if (group s g).state ≠ .opened then eState else if s.epoch ≠ ep then eEpoch
  else (armFailsAt (cellArrival s 3 src g target) (decoded s 3 src g target) g target).getD eOK

/-- A first PREPARE of a listed coordinator is judged, noted and acknowledged. -/
theorem prepare_judged : Answers (.prepare src m g target ep) s g src.toNat target
    (if prepareCode s g target src ep = eOK then
      cancelLast (armedFor (decoded s 3 src g target) g src.toNat target) g src.toNat target (cellArrival s 3 src g target)
    else prepareHeard (decoded s 3 src g target) g src.toNat target) (prepareCode s g target src ep) := by
  have hd' : ¬ src.toNat = (decoded s 3 src g target).cfg.deviceNumber := hd
  have h0 : ¬ g = 0 := by omega
  have h255 : ¬ 255 < g := by omega
  unfold Answers
  show execPrepare src m g target ep s = _
  unfold execPrepare ok
  refine if_neg ?_
  simp only [decoded_group, decoded_coreUp, hu, hg, hm, hp, hd', h0, h255, decide_false, Bool.not_true, Bool.or_self, Bool.false_eq_true,
    not_false_eq_true]

/-- A PREPARE that finds the group not to be armed is noted, and leaves it as it is. -/
theorem prepare_refused {c : Word} (hc : prepareCode s g target src ep = c) (hne : c ≠ eOK) : Answers (.prepare src m g target ep) s g src.toNat target
    (prepareHeard (decoded s 3 src g target) g src.toNat target) c := by
  have h := prepare_judged (m := m) (ep := ep) h1 h2 hu hg hm hd hp
  rwa [hc, if_neg hne] at h

theorem prepare_state (hs : (group s g).state ≠ .opened) : Answers (.prepare src m g target ep) s g src.toNat target
    (prepareHeard (decoded s 3 src g target) g src.toNat target) eState :=
  prepare_refused h1 h2 hu hg hm hd hp (if_pos hs) (by decide)

variable (hs : (group s g).state = .opened)
include hs

theorem prepare_epoch (he : s.epoch ≠ ep) : Answers (.prepare src m g target ep) s g src.toNat target
    (prepareHeard (decoded s 3 src g target) g src.toNat target) eEpoch :=
  prepare_refused h1 h2 hu hg hm hd hp (by unfold prepareCode; rw [if_neg (not_not.2 hs), if_pos he]) (by decide)

variable (he : s.epoch = ep)
include he

theorem prepare_fails {c : Word} (hc : armFailsAt (cellArrival s 3 src g target) (decoded s 3 src g target) g target = some c) (hne : c ≠ eOK) :
    Answers (.prepare src m g target ep) s g src.toNat target (prepareHeard (decoded s 3 src g target) g src.toNat target) c :=
  prepare_refused h1 h2 hu hg hm hd hp (by unfold prepareCode; rw [if_neg (not_not.2 hs), if_neg (not_not.2 he), hc]; rfl) hne

/-- A group that may be armed is armed; a CANCEL that came first with the same stamp then applies (R72). -/
theorem prepare_arms (hc : armFailsAt (cellArrival s 3 src g target) (decoded s 3 src g target) g target = none) :
    Answers (.prepare src m g target ep) s g src.toNat target
      (if (group s g).cancelled = some (src.toNat, target, cellArrival s 3 src g target) then
        disarm (armedFor (decoded s 3 src g target) g src.toNat target) g 3
        else armedFor (decoded s 3 src g target) g src.toNat target) eOK := by
  have hcode : prepareCode s g target src ep = eOK := by
    unfold prepareCode; rw [if_neg (not_not.2 hs), if_neg (not_not.2 he), hc]; rfl
  have h := prepare_judged (m := m) (ep := ep) h1 h2 hu hg hm hd hp
  rw [hcode, if_pos rfl] at h
  unfold cancelLast at h
  rwa [armedFor_cancelled, decoded_group] at h

end

/-! ### Acknowledgements at the coordinator (R304) -/

section
variable {s : State} {g : Nat} {target : MT} {src : BitVec 12} {code : Word}

theorem prepAck_late (hl : inFuture (group s g).deadline (cellArrival s 4 src g target) = true) :
    exec (.prepAck src g target code) s = .next (decoded s 4 src g target) := by
  show execPrepAck src g target code s = _
  unfold execPrepAck ok
  simp only [decoded_group, hl, Bool.or_true, if_true]

/-- The members that have acknowledged, with one more. -/
def ackedBy (x : Group) (who : Nat) : List Nat := if x.acked.contains who then x.acked else x.acked ++ [who]

/-- Where the group waits for acknowledgements, it reads back what is written of it. -/
theorem group_ackDone {u : State} {x : Group} (hx : x.state = .preparing) : group (ackDone (setGroup u g x) g) g =
    if x.members.all (fun d => x.acked.contains d) then { x with state := .armed } else x := by
  have hread : group (setGroup u g x) g = x :=
    group_setGroup_some _ fun h => GroupState.noConfusion (hx.symm.trans (congrArg Group.state h))
  unfold ackDone
  dsimp only
  rw [hread, hx]
  cases x.members.all (fun d => x.acked.contains d) with
  | false => exact hread
  | true => exact group_setGroup_some _ fun h => GroupState.noConfusion (congrArg Group.state h)

section
variable (hu : coreUp s = true) (hc : (group s g).coordinating = true) (hst : (group s g).state = .preparing) (ht : (group s g).target = some target)
  (hm : (group s g).members.contains src.toNat = true) (hl : inFuture (group s g).deadline (cellArrival s 4 src g target) = false)
include hu hc hst ht hm hl

theorem prepAck_counted : exec (.prepAck src g target code) s = .next (if code = eOK then
      ackDone (setGroup (decoded s 4 src g target) g { group s g with acked := ackedBy (group s g) src.toNat }) g
    else coordinatorCancels (decoded s 4 src g target) g src.toNat code) := by
  show execPrepAck src g target code s = _
  unfold execPrepAck ok
  simp only [decoded_group, decoded_coreUp, hu, hc, hst, ht, hm, hl, decide_false, Bool.not_true, Bool.or_self, Bool.false_eq_true, if_false,
    ne_eq, not_true]
  split <;> rfl

theorem prepAck_ok (hcode : code = eOK) : ∃ t, exec (.prepAck src g target code) s = .next t ∧ group t g =
    if (group s g).members.all (fun d => (ackedBy (group s g) src.toNat).contains d) then
      { group s g with acked := ackedBy (group s g) src.toNat, state := .armed }
    else { group s g with acked := ackedBy (group s g) src.toNat } :=
  ⟨_, (prepAck_counted hu hc hst ht hm hl).trans (congrArg _ (if_pos hcode)),
    group_ackDone (x := { group s g with acked := ackedBy (group s g) src.toNat }) hst⟩

theorem prepAck_some_wait (hcode : code = eOK) (hw : ∃ d ∈ (group s g).members, (ackedBy (group s g) src.toNat).contains d = false) :
    ∃ t, exec (.prepAck src g target code) s = .next t ∧ group t g = { group s g with acked := ackedBy (group s g) src.toNat } := by
  obtain ⟨t, hx, hgt⟩ := prepAck_ok hu hc hst ht hm hl hcode
  refine ⟨t, hx, hgt.trans (if_neg fun hall => ?_)⟩
  obtain ⟨d, hd, hn⟩ := hw
  exact absurd ((List.all_eq_true.1 hall d hd).symm.trans hn) (by decide)

theorem prepAck_all_in (hcode : code = eOK) (hall : ∀ d ∈ (group s g).members, (ackedBy (group s g) src.toNat).contains d = true) :
    ∃ t, exec (.prepAck src g target code) s = .next t ∧
      group t g = { group s g with acked := ackedBy (group s g) src.toNat, state := .armed } := by
  obtain ⟨t, hx, hgt⟩ := prepAck_ok hu hc hst ht hm hl hcode
  exact ⟨t, hx, hgt.trans (if_pos (List.all_eq_true.2 hall))⟩

theorem prepAck_fails (hcode : code ≠ eOK) :
    exec (.prepAck src g target code) s = .next (coordinatorCancels (decoded s 4 src g target) g src.toNat code) :=
  (prepAck_counted hu hc hst ht hm hl).trans (congrArg _ (if_neg hcode))

end

theorem ackDeadline_cancels {d : Nat} (hc : (group s g).coordinating = true) (hst : (group s g).state = .preparing)
    (hl : isDue (now s) (group s g).deadline = true) (hf : (group s g).members.find? (fun d => !(group s g).acked.contains d) = some d) :
    exec (.ackDeadline g) s = .next (coordinatorCancels { s with fresh := s.fresh + 1 } g d (missedCode s.fresh)) := by
  show execAckDeadline g s = _
  unfold execAckDeadline ok
  simp only [hc, hst, hl, hf, decide_false, Bool.not_true, Bool.or_self, Bool.false_eq_true, if_false, ne_eq, not_true]
  rfl

end

/-- Settles O31: the coordinator's ARM, a member's PREPARE with its five codes, and the acknowledgements up to the deadline. -/
theorem groveCommit : Obligations.GroveCommit := by
  unfold Obligations.GroveCommit
  intro s g target h1 h2 hu
  refine ⟨fun r h hg => ⟨fun hc ht => arm_prepares h h1 h2 hg ht hc, fun c hc ht => arm_refused h h1 h2 hg ht hc, arm_late h h1 h2 hg⟩,
    fun src m ep => ⟨prepare_again, fun hg hm hd hp => ⟨fun hs he hc => prepare_arms h1 h2 hu hg hm hd hp hs he hc,
      prepare_state h1 h2 hu hg hm hd hp, prepare_epoch h1 h2 hu hg hm hd hp,
      fun c hs he hc hne => prepare_fails h1 h2 hu hg hm hd hp hs he hc hne⟩⟩,
    fun src code => ⟨prepAck_late, fun hc hst ht hm hl => ⟨fun hcode hw _ => prepAck_some_wait hu hc hst ht hm hl hcode hw,
      fun hcode hall _ => prepAck_all_in hu hc hst ht hm hl hcode hall, prepAck_fails hu hc hst ht hm hl⟩⟩,
    fun d hc hst hl hf => ackDeadline_cancels hc hst hl hf⟩

end Sys2Proof.Machine
end

section
/-! ECPLL and its gate: what a loss, a lock, a restored clock and RESEARCH leave (R77, R78, R116 to R122). -/
namespace Sys2Proof.Machine

/-! ### The gate closes (R77, R122) -/

section
variable (s : State)

/-- The clocks as a gap begins. -/
def gapClocks (c : Clocks) : Clocks :=
  { c with gateOpen := false, restart := false, gapStart := some c.mt, gapCount := (satInc c.gapCount).1, gapOvf := c.gapOvf || (satInc c.gapCount).2 }

/-- Everything but the engines. -/
def besideEngines (s : State) : State := { s with engines := [] }

theorem besideEngines_mirrorPub (n : Nat) : besideEngines (mirrorPub s n) = besideEngines s := by
  unfold mirrorPub
  refine foldl_keeps besideEngines (fun u kv => ?_) _ _
  dsimp only
  split
  · exact foldl_keeps besideEngines (f := fun s i => putIn s (epUnit kv.2.dest) (epFirst kv.2.dest + i) _) (fun _ _ => rfl) _ _
  · rfl

theorem besideEngines_eachEng (f : Engine → Engine) : besideEngines (eachEng s f) = besideEngines s := by
  unfold eachEng
  exact foldl_keeps besideEngines (f := fun s (kv : Nat × Engine) => modEng s kv.1 f) (fun _ _ => rfl) _ _

theorem closeGate_closed (h : s.clocks.gateOpen = false) : closeGate s = s := by
  unfold closeGate
  rw [h]; rfl

/-- The state in which a gap has begun, with the frames still running. -/
def gapBegun (s : State) : State := { s with clocks := gapClocks s.clocks }

theorem closeGate_open (h : s.clocks.gateOpen = true) :
    closeGate s = (s.engines.filter (fun kv => midFrame kv.2)).foldl (fun s kv => mirrorPub s kv.1) (eachEng (gapBegun s) abandon) := by
  unfold closeGate
  rw [h]; rfl

theorem besideEngines_closeGate : besideEngines (closeGate s) = besideEngines (if s.clocks.gateOpen then gapBegun s else s) := by
  cases h : s.clocks.gateOpen with
  | false => rw [closeGate_closed s h]; rfl
  | true =>
    rw [closeGate_open s h, foldl_keeps besideEngines (fun u (kv : Nat × Engine) => besideEngines_mirrorPub u kv.1), besideEngines_eachEng]
    rfl

theorem closeGate_clocks : (closeGate s).clocks = if s.clocks.gateOpen then gapClocks s.clocks else s.clocks := by
  have h : (besideEngines (closeGate s)).clocks = (besideEngines (if s.clocks.gateOpen then gapBegun s else s)).clocks :=
    congrArg State.clocks (besideEngines_closeGate s)
  change (closeGate s).clocks = (if s.clocks.gateOpen then gapBegun s else s).clocks at h
  rw [h]
  split <;> rfl

theorem closeGate_events : (closeGate s).events = s.events := by
  have h : (besideEngines (closeGate s)).events = (besideEngines (if s.clocks.gateOpen then gapBegun s else s)).events :=
    congrArg State.events (besideEngines_closeGate s)
  change (closeGate s).events = (if s.clocks.gateOpen then gapBegun s else s).events at h
  rw [h]
  split <;> rfl

theorem closeGate_gate : (closeGate s).clocks.gateOpen = false := by
  rw [closeGate_clocks]
  cases h : s.clocks.gateOpen with
  | false => exact h
  | true => rfl

end

/-- The table of engines is canonical, and engine `n` is in no stage of a frame. -/
def Rests (n : Nat) (u : State) : Prop := Tbl.wf {} u.engines = true ∧ (eng u n).stage = .none

theorem rests_modEng {n : Nat} {u : State} (h : Rests n u) (k : Nat) {f : Engine → Engine} (hf : ∀ e : Engine, e.stage = .none → (f e).stage = .none) :
    Rests n (modEng u k f) := by
  obtain ⟨w, hs⟩ := h
  refine ⟨setEng_wf k _ w, ?_⟩
  by_cases hk : n = k
  · subst hk; rw [eng_modEng_self _ _ w]; exact hf _ hs
  · rw [eng_modEng_ne _ _ hk]; exact hs

theorem rests_putIn {n : Nat} {u : State} (h : Rests n u) (d i : Nat) (v : Long) : Rests n (putIn u d i v) :=
  rests_modEng h d fun _ hs => hs

theorem rests_mirrorPub {n : Nat} {u : State} (h : Rests n u) (k : Nat) : Rests n (mirrorPub u k) := by
  unfold mirrorPub
  refine List.foldlRecOn (motive := Rests n) u.routes _ h fun v hv kv _ => ?_
  dsimp only
  split
  · exact List.foldlRecOn (motive := Rests n) _ _ hv fun _ hv _ _ => rests_putIn hv _ _ _
  · exact hv

theorem abandon_stage {e : Engine} (h : freeRun e = false ∨ e.stage = .none) : (abandon e).stage = .none := by
  unfold abandon
  split
  · next hf => exact h.resolve_left (by rw [hf]; decide)
  · rfl

/-- Of engines that run no free program, each rests once its frame has been abandoned. -/
theorem rests_abandonAll {n : Nat} (l : List (Nat × Engine)) {u : State} (w : Tbl.wf {} u.engines = true)
    (h : (eng u n).stage = .none ∨ (freeRun (eng u n) = false ∧ n ∈ l.map Prod.fst)) :
    Rests n (l.foldl (fun s kv => modEng s kv.1 abandon) u) := by
  induction l generalizing u with
  | nil => exact ⟨w, h.resolve_right fun h => nomatch h.2⟩
  | cons x l ih =>
    refine ih (setEng_wf x.1 _ w) ?_
    by_cases hk : n = x.1
    · subst hk
      left
      rw [eng_modEng_self _ _ w]
      exact abandon_stage (h.elim .inr fun h => .inl h.1)
    · rw [eng_modEng_ne _ _ hk]
      exact h.imp_right fun ⟨hf, hl⟩ => ⟨hf, (List.mem_cons.1 hl).resolve_left hk⟩

theorem closeGate_rests {s : State} (h : s.clocks.gateOpen = true) (w : Tbl.wf {} s.engines = true) {n : Nat} (hn : freeRun (eng s n) = false) :
    Rests n (closeGate s) := by
  rw [closeGate_open s h]
  refine List.foldlRecOn (motive := Rests n) _ _ ?_ fun u hu kv _ => rests_mirrorPub hu kv.1
  refine rests_abandonAll s.engines (u := gapBegun s) w ?_
  by_cases he : eng s n = {}
  · exact .inl (congrArg Engine.stage he)
  · exact .inr ⟨hn, List.mem_map_of_mem (f := Prod.fst) (mem_of_tget_ne he)⟩

/-! ### Losses and trips (R120, R122) -/

/-- From `s` to `t` the gate has closed and ECPLL acquires; where it was open, a gap is counted and its frames are abandoned. -/
def GapFrom (s t : State) : Prop := t.clocks.ecpll = .acquire ∧ t.clocks.gateOpen = false ∧
  (s.clocks.gateOpen = true → t.clocks.gapStart = some s.clocks.mt ∧ t.clocks.gapCount = (satInc s.clocks.gapCount).1 ∧
    ∀ n, freeRun (eng s n) = false → (eng t n).stage = .none)

section
variable {s : State}

theorem reacquire_clocks : (reacquire s).clocks = { (closeGate s).clocks with ecpll := .acquire } := rfl

theorem reacquire_gap (w : Tbl.wf {} s.engines = true) : GapFrom s (reacquire s) := by
  refine ⟨rfl, closeGate_gate s, fun h => ?_⟩
  have hc : (reacquire s).clocks = { gapClocks s.clocks with ecpll := .acquire } := by rw [reacquire_clocks, closeGate_clocks, if_pos h]
  rw [hc]
  exact ⟨rfl, rfl, fun n hn => (closeGate_rests h w hn).2⟩

theorem reacquire_detCounts (k u : Nat) (x : Long) (i : Bool) (f : Clocks → Clocks) :
    tget 0 (detectAs (setClocks (reacquire s) f) k u x i).events.det k = satInc31 (tget 0 s.events.det k) := by
  rw [detectAs_count_self]
  exact congrArg (fun e : Events => satInc31 (tget 0 e.det k)) (closeGate_events s)

section
variable (h : s.clocks.ecpll = .locked ∨ s.clocks.ecpll = .verify) (w : Tbl.wf {} s.engines = true)
include h w

theorem ecpllLoss_gap : ∃ t, exec .ecpllLoss s = .next t ∧ GapFrom s t ∧ tget 0 t.events.det 0x1007 = satInc31 (tget 0 s.events.det 0x1007) := by
  refine ⟨detectAs (reacquire s) 0x1007 devUnit 0 false, ?_, ?_, reacquire_detCounts _ _ _ _ id⟩
  · show ok (ecpllLost s false) = _
    unfold ecpllLost ok
    rw [if_pos (by simpa using h)]
  · unfold GapFrom
    simp only [detectAs_clocks, detectAs_eng]
    exact reacquire_gap w

/-- A trip counts itself beside the gap. -/
def tripClocks (c : Clocks) (n : Long × Bool) : Clocks := { c with tripCount := n.1, tripOvf := c.tripOvf || n.2 }

theorem eclkTrip_gap (absolute : Bool) : ∃ t, exec (.eclkTrip absolute) s = .next t ∧ GapFrom s t ∧
    tget 0 t.events.det 0x1008 = satInc31 (tget 0 s.events.det 0x1008) ∧ t.clocks.tripCount = (satInc s.clocks.tripCount).1 := by
  refine ⟨detectAs (setClocks (reacquire s) (tripClocks · (satInc s.clocks.tripCount))) 0x1008 devUnit (if absolute then 2 else 1) false, ?_, ?_,
    reacquire_detCounts _ _ _ _ _, ?_⟩
  · show ok (eclkTripped s absolute false) = _
    unfold eclkTripped ok
    rw [if_pos (by simpa using h)]
    rfl
  · unfold GapFrom
    simp only [detectAs_clocks, detectAs_eng]
    exact reacquire_gap w
  · rw [detectAs_clocks]; rfl

end

theorem ecpll_idle (h : ¬ (s.clocks.ecpll = .locked ∨ s.clocks.ecpll = .verify)) (absolute : Bool) :
    exec .ecpllLoss s = .next s ∧ exec (.eclkTrip absolute) s = .next s := by
  have hc : ¬ (decide (s.clocks.ecpll = .locked) || decide (s.clocks.ecpll = .verify)) = true := by simpa using h
  exact ⟨congrArg Host.Outcome.next (if_neg hc), congrArg Host.Outcome.next (if_neg hc)⟩

/-! ### STORED, SEARCH and the lock (R116 to R118) -/

theorem ecpll_acquires (h : s.clocks.ecpll = .acquire) :
    exec .ecpllFallback s = .next (detect { s with clocks := { s.clocks with ecpll := .search } } 0x1009 devUnit (BitVec.ofNat 32 s.clocks.rate)) ∧
    exec .ecpllLock s = .next { s with
      fresh := s.fresh + 1
      clocks := { s.clocks with ecpll := .verify, ecWord := underCeiling s.clocks.ceiling (Config.freeLong s.fresh) } } := by
  refine ⟨congrArg Host.Outcome.next (if_pos h), ?_⟩
  show execEcpllLock s = _
  unfold execEcpllLock
  rw [h]; rfl

theorem ecpllLock_search (h : s.clocks.ecpll = .search) : exec .ecpllLock s = .next { s with
    fresh := s.fresh + 2
    clocks := { s.clocks with
      ecpll := .verify, bands := tset 0xFFFF s.clocks.bands s.clocks.rate (Config.freeWord s.fresh)
      bandTemps := tset 0 s.clocks.bandTemps s.clocks.rate s.power.tjC, ceiling := Config.freeLong (s.fresh + 1)
      ecWord := underCeiling (Config.freeLong (s.fresh + 1)) (Config.freeLong s.fresh) } } := by
  show execEcpllLock s = _
  unfold execEcpllLock
  rw [h]; rfl

theorem underCeiling_le (ceil w : Long) : (underCeiling ceil w).toNat ≤ ceil.toNat := by
  unfold underCeiling
  split
  · assumption
  · exact le_refl _

end

/-! ### The clock is restored (R78, R119) -/

section
variable {s : State}

/-- Everything that the stamps of a gap and the sides of bridges leave alone. -/
def besideStamps (s : State) : State := { s with clocks := {}, ports := [], bridges := [], events := {} }

/-- The same, and the count, the gate and the pending actions. -/
def gapView (s : State) := (besideStamps s, kept s)

theorem gapView_bufferOff (u : State) (p : Nat) : gapView (bufferOff u p) = gapView u := by
  refine Prod.ext ?_ (kept_bufferOff u p)
  have hdet (v : State) (k j : Nat) (x : Long) : besideStamps (detect v k j x) = besideStamps v := by simp [besideStamps]
  show besideStamps (bufferOff u p) = besideStamps u
  unfold bufferOff
  split
  · unfold steerFrom
    split
    · split
      · rfl
      · exact (hdet ..).trans rfl
    · split
      · exact (hdet ..).trans rfl
      · rfl
  · rfl

theorem gapView_deliverStamp {u : State} (h : u.clocks.gateOpen = false) (p : Nat) (x : MT) (f : Option InEntry) :
    gapView (deliverStamp u p x f) = gapView u := by
  have hmoves (q : Port) : inboundMoves (setPort u p q) = false := by
    unfold inboundMoves; rw [setPort_clocks, h]; rfl
  unfold deliverStamp
  simp only [hmoves, Bool.false_eq_true, if_false]
  rfl

theorem gapView_inStamp {u : State} (h : u.clocks.gateOpen = false) (p : Nat) (x : MT) : gapView (inStamp u p x) = gapView u := by
  have hdet (v : State) (m : MT) (k j : Nat) (y : Long) (i : Bool) : gapView (detectWhen v m k j y i) = gapView v :=
    Prod.ext (by simp [gapView, besideStamps]) (kept_detectWhen ..)
  unfold inStamp
  dsimp only
  split
  · exact gapView_deliverStamp h ..
  · split
    · unfold underrunIn
      exact (hdet ..).trans ((gapView_bufferOff ..).trans (gapView_deliverStamp h p x none))
    · split
      · exact gapView_deliverStamp h ..
      · rfl

theorem gateOpen_of_gapView {u v : State} (h : gapView u = gapView v) : u.clocks.gateOpen = v.clocks.gateOpen :=
  congrArg (fun x => x.2.1.1.2.2.1) h

/-- In a gap, steps that keep what is beside the stamps keep it together. -/
theorem gapView_foldl {α : Type} {f : State → α → State} (hf : ∀ u x, u.clocks.gateOpen = false → gapView (f u x) = gapView u) (l : List α) {u : State}
    (h : u.clocks.gateOpen = false) : gapView (l.foldl f u) = gapView u := by
  induction l generalizing u with
  | nil => rfl
  | cons x l ih => exact (ih ((gateOpen_of_gapView (hf u x h)).trans h)).trans (hf u x h)

theorem gapView_portStamps {u : State} (h : u.clocks.gateOpen = false) (p : Nat) (t : MT) : gapView (portStamps u p t) = gapView u := by
  unfold portStamps
  split
  · rfl
  · split
    · rfl
    · exact gapView_foldl (fun u x hu => gapView_inStamp hu p x) _ h

/-- Everything but bridges and events. -/
def besideSides (s : State) : State := { s with bridges := [], events := {} }

theorem besideSides_followSide (u : State) (x : Nat × Bool) : besideSides (followSide u x) = besideSides u := by
  have hset (v : State) (b : Nat) (e : Bool) (d : Side) : besideSides (setSide v b e d) = besideSides v := by unfold setSide; split <;> rfl
  have hdet (v : State) (k j : Nat) (y : Long) (i : Bool) : besideSides (detectAs v k j y i) = besideSides v := by simp [besideSides]
  unfold followSide
  dsimp only
  split
  · split
    · exact hset ..
    · rfl
  · unfold unlockSide
    dsimp only
    split
    · rfl
    · rfl
    · exact hset ..
    · exact (hdet ..).trans (hset ..)

theorem besideSides_followSides (u : State) : besideSides (followSides u) = besideSides u := by
  unfold followSides
  exact foldl_keeps besideSides (fun u b => (besideSides_followSide _ _).trans (besideSides_followSide _ _)) _ _

theorem besideSides_eachBridge (u : State) (f : Nat → Bridge → Bridge) : besideSides (eachBridge u f) = besideSides u := by
  unfold eachBridge
  exact foldl_keeps besideSides (f := fun s (kv : Nat × Bridge) => setBridge s kv.1 (f kv.1 (bridge s kv.1))) (fun _ _ => rfl) _ _

/-- A device without ports and bridges has no side to follow anything. -/
theorem followSide_none {u : State} (hp : u.ports = []) (hb : u.bridges = []) (x : Nat × Bool) : followSide u x = u := by
  have hside : (side u x.1 x.2).state = .off := by unfold side bridge; rw [hb]; cases x.2 <;> rfl
  have hruns : sideRuns u (sideCfg (rbCfg u x.1) x.2) x.2 = false := by
    have hport (p : Nat) : (port u p).state = .off := by unfold port; rw [hp]; rfl
    unfold sideRuns
    rw [hport]; simp
  unfold followSide
  simp only [hruns, Bool.false_and, Bool.false_eq_true, if_false]
  unfold unlockSide
  simp only [hside]

theorem followSides_none {u : State} (hp : u.ports = []) (hb : u.bridges = []) : followSides u = u := by
  unfold followSides
  have hall (l : List Nat) : l.foldl (fun s b => followSide (followSide s (b, false)) (b, true)) u = u := by
    induction l with
    | nil => rfl
    | cons b l ih => rw [List.foldl_cons, followSide_none hp hb, followSide_none hp hb, ih]
  exact hall _

theorem eachBridge_none {u : State} (hb : u.bridges = []) (f : Nat → Bridge → Bridge) : eachBridge u f = u := by
  unfold eachBridge; simp only [hb, List.foldl_nil]

/-- The clocks as the gate reopens. -/
def reopened (c : Clocks) : Clocks := { c with ecpll := .locked, gateOpen := true, restart := true, hopping := false }

/-- The stamps of the gap, on every port. -/
def gapStamped (s : State) : State := s.ports.foldl (fun u kv => portStamps u kv.1 (now u)) s

/-- The state in which the gate has reopened, with the bridges' sides still as the gap left them. -/
def gateReopened (s : State) : State := setClocks (gapStamped s) reopened

theorem eclkRestored_idle (h : s.clocks.ecpll ≠ .verify) : exec .eclkRestored s = .next s := by
  show execEclkRestored s = _
  unfold execEclkRestored ok
  rw [if_neg (by simp [h])]

section
variable (h : s.clocks.ecpll = .verify) (hb : s.power.dev ≠ .booting) (hd : s.power.dev ≠ .dormant)
include h hb hd

theorem exec_eclkRestored : exec .eclkRestored s = .next (followSides (eachBridge (gateReopened s) (fun _ b =>
    { ingress := hopEnds (now (gateReopened s)) b.ingress, egress := hopEnds (now (gateReopened s)) b.egress }))) := by
  show execEclkRestored s = _
  unfold execEclkRestored ok
  rw [if_pos (by simp [h, hb, hd])]
  rfl

theorem eclkRestored_alone (hp : s.ports = []) (hbr : s.bridges = []) : exec .eclkRestored s = .next { s with clocks := reopened s.clocks } := by
  have hst : gapStamped s = s := by unfold gapStamped; simp only [hp, List.foldl_nil]
  have hre : gateReopened s = { s with clocks := reopened s.clocks } := by unfold gateReopened; rw [hst]; rfl
  rw [exec_eclkRestored h hb hd, hre, eachBridge_none (u := { s with clocks := reopened s.clocks }) hbr,
    followSides_none (u := { s with clocks := reopened s.clocks }) hp hbr]

theorem eclkRestored_spec (hg : s.clocks.gateOpen = false) : ∃ t, exec .eclkRestored s = .next t ∧
    t.clocks.ecpll = .locked ∧ t.clocks.gateOpen = true ∧ t.clocks.restart = true ∧ t.clocks.hopping = false ∧
    t.clocks.mt = s.clocks.mt ∧ t.clocks.sched = s.clocks.sched ∧
    { t with clocks := s.clocks, ports := s.ports, bridges := s.bridges, events := s.events } = s ∧
    (s.ports = [] → s.bridges = [] → t = { s with clocks := reopened s.clocks }) := by
  have hexec := exec_eclkRestored h hb hd
  have hsides := (besideSides_followSides _).trans (besideSides_eachBridge (gateReopened s) (fun _ b =>
    { ingress := hopEnds (now (gateReopened s)) b.ingress, egress := hopEnds (now (gateReopened s)) b.egress }))
  have hstamps : gapView (gapStamped s) = gapView s := gapView_foldl (fun u kv hu => gapView_portStamps hu kv.1 _) _ hg
  generalize followSides _ = t at hexec hsides
  have hclocks : t.clocks = reopened (gapStamped s).clocks := congrArg State.clocks hsides
  obtain ⟨htime, -, hsched, -⟩ := kept_parts (congrArg Prod.snd hstamps)
  obtain ⟨hmt, -⟩ := timeKept_parts htime
  refine ⟨t, hexec, ?_, ?_, ?_, ?_, ?_, ?_, ?_, fun hp hbr => ?_⟩
  iterate 4 rw [hclocks]; rfl
  · rw [hclocks]; exact hmt
  · rw [hclocks]; exact hsched
  · have hbeside : besideStamps t = besideStamps s := by
      refine Eq.trans ?_ (congrArg Prod.fst hstamps)
      exact congrArg (fun u : State => { u with clocks := {}, ports := [], bridges := [], events := {} }) hsides
    exact congrArg (fun u : State => { u with clocks := s.clocks, ports := s.ports, bridges := s.bridges, events := s.events }) hbeside
  · exact Host.Outcome.next.inj (hexec.symm.trans (eclkRestored_alone h hb hd hp hbr))

end

/-- Before the restart boundary no frame runs (R78). -/
theorem frames_wait (hr : s.clocks.restart = true) (e : Fin 32) : exec (.frameBoundary e) s = .next s ∧ exec (.frameEnd e) s = .next s := by
  have hf : framesRun s = false := by unfold framesRun; rw [hr]; exact Bool.and_false _
  refine ⟨?_, ?_⟩
  · show execFrameBoundary e s = _
    unfold execFrameBoundary ok
    simp only [hf, Bool.not_false, Bool.true_or, if_true]
  · show execFrameEnd e s = _
    unfold execFrameEnd ok
    simp only [hf, Bool.not_false, Bool.true_or, if_true]

/-! ### RESEARCH (R116) -/

/-- An element that takes writes only from an idle unit refuses one while it is not. -/
theorem writeCmd_notIdle {r : Req} {i : Instr} {g : Gate} {body : State → Except Word State} (hx : exec i s = ok (writeCmd s r g body))
    (h : Served s r g.obj g.role) (h1 : g.range = true) (h2 : g.idle = false) : Refuses i s r eState := by
  have hgate : gateFails (taken s r) r g = some eState := by rw [gateFails_served h g rfl rfl, h1, h2]; rfl
  unfold Refuses
  rw [hx, writeCmd, runRequest_heard h.1, hgate]
  rfl

/-- The state in which RESEARCH has searched: three bands stored, and CEILING measured. -/
def searched (s : State) (b32 b44 b48 temp : Word) : State :=
  { storeBand (storeBand (storeBand s 0 b32 temp) 1 b44 temp) 2 b48 temp with fresh := s.fresh + 1 }

/-- The clocks after RESEARCH, in a device of ECPLL's mode `mode`. -/
def researchClocks (mode : Nat) (ceil : Long) (c : Clocks) : Clocks :=
  { c with ecpll := if mode = 1 then .search else .acquire, ceiling := ceil, ecWord := underCeiling ceil c.ecWord }

/-- The state after RESEARCH. -/
def researched (s : State) (b32 b44 b48 temp : Word) : State :=
  setClocks (closeGate (searched s b32 b44 b48 temp))
    (researchClocks s.cfg.clocks.ecpllMode (Config.freeLong s.fresh))

theorem closeGate_bands (u : State) : (closeGate u).clocks.bands = u.clocks.bands := by
  rw [closeGate_clocks]
  split <;> rfl

theorem research_accepts {r : Req} (h : Served s r 0x0230 engineer) (hd : s.power.dev = .sapling) (b32 b44 b48 temp : Word) :
    ∃ t, Accepts (.research r b32 b44 b48 temp) s r t ∧ t.clocks.gateOpen = false ∧
      t.clocks.ecpll = (if s.cfg.clocks.ecpllMode = 1 then .search else .acquire) ∧
      t.clocks.bands = tset 0xFFFF (tset 0xFFFF (tset 0xFFFF s.clocks.bands 0 b32) 1 b44) 2 b48 := by
  refine ⟨researched (taken s r) b32 b44 b48 temp, writeCmd_accepts rfl h (decide_eq_true hd) rfl rfl, closeGate_gate _, ?_, closeGate_bands _⟩
  show (if (taken s r).cfg.clocks.ecpllMode = 1 then Ecpll.search else .acquire) = _
  rw [taken_cfg]

theorem ecpllBandStore_locked (h : s.clocks.ecpll = .locked) (band temp : Word) :
    exec (.ecpllBandStore band temp) s = .next (storeBand s s.clocks.rate band temp) := by
  show execEcpllBandStore band temp s = _
  unfold execEcpllBandStore
  exact if_pos h

/-- Settles O39: each command's effect is read off its definition; what the gap leaves is followed through the abandoned frames, and what
the restored clock leaves through the gap's stamps and the bridges' sides. -/
theorem ecpllCommands : Obligations.EcpllCommands := by
  intro s absolute word band temp ceil
  refine ⟨fun h hc => ⟨ecpllLoss_gap h hc.1, eclkTrip_gap h hc.1 absolute⟩, fun h => ecpll_idle h absolute, ecpll_acquires, ecpllLock_search,
    fun h hg hb hd => eclkRestored_spec h hb hd hg, fun _ hr => frames_wait hr, eclkRestored_idle, rfl, underCeiling_le ceil,
    fun h => ecpllBandStore_locked h band temp, fun r h => ⟨fun hd => ?_, fun hd => ?_⟩⟩
  · exact writeCmd_notIdle rfl h rfl (decide_eq_false hd)
  · exact research_accepts h hd word band word temp

end

end Sys2Proof.Machine
end

section
/-! References, the choice of the one that steers MCPLL, and time of day: what each command leaves (R96 to R99, R104 to R107, R113 to R115). -/
namespace Sys2Proof.Machine

/-! ### A monitor is written and read -/

section
variable {s : State} {i : Nat}

theorem refMon_setRefMon {m : RefMon} (h : m.state ≠ .empty) : refMon (setRefMon s i m) i = m :=
  tget_tset_of_ne _ _ fun hm => h (congrArg RefMon.state hm)

theorem refMon_setRefMon_ne {m : RefMon} {j : Nat} (h : j ≠ i) : refMon (setRefMon s i m) j = refMon s j :=
  tget_tset_other _ _ _ h

/-- What the tests of an entry leave in its monitor (R104, R105). -/
def tested (m : RefMon) : RefState × List MT × Nat × Nat := (m.state, m.glitches, m.rateRun, m.conforming)

theorem tested_seekOrigin (x : Int) (m : RefMon) : tested (seekOrigin s i x m) = tested m ∧ (seekOrigin s i x m).freqPpb = m.freqPpb := by
  unfold seekOrigin
  dsimp only
  split
  · exact ⟨rfl, rfl⟩
  · split <;> exact ⟨rfl, rfl⟩

/-! ### An edge that is no glitch (R98 to R102) -/

section
variable (line : Bool) (freqDev : Int) (subPs : Long)

/-- The monitor with what an edge tells of the reference, but for its phase. -/
def edgeNoted (s : State) (i : Nat) (line : Bool) (freqDev : Int) (subPs : Long) : RefMon :=
  if line then refMon s i
  else seekOrigin s i (edgeAt s subPs) { refMon s i with lastEdge := some (now s), freqPpb := freqDev }

theorem tested_edgeNoted : tested (edgeNoted s i line freqDev subPs) = tested (refMon s i) := by
  unfold edgeNoted
  split
  · rfl
  · exact (tested_seekOrigin _ _).1

theorem edgeNoted_freqPpb : (edgeNoted s i false freqDev subPs).freqPpb = freqDev := (tested_seekOrigin _ _).2

theorem refMon_edgeSeen (h : (refMon s i).state ≠ .empty) :
    ∃ ph, refMon (edgeSeen s i line freqDev subPs) i = { edgeNoted s i line freqDev subPs with phasePs := ph } := by
  have hn : (edgeNoted s i line freqDev subPs).state ≠ .empty := fun hc =>
    h ((congrArg Prod.fst (tested_edgeNoted line freqDev subPs)).symm.trans hc)
  unfold edgeSeen
  dsimp only
  generalize hm : ite (line = true) (refMon s i) _ = m
  have hm : edgeNoted s i line freqDev subPs = m := hm
  rw [hm] at hn ⊢
  split
  · exact ⟨_, refMon_setRefMon hn⟩
  · exact ⟨m.phasePs, refMon_setRefMon hn⟩

theorem tested_edgeSeen (h : (refMon s i).state ≠ .empty) : tested (refMon (edgeSeen s i line freqDev subPs) i) = tested (refMon s i) := by
  obtain ⟨ph, hph⟩ := refMon_edgeSeen line freqDev subPs h
  rw [hph]
  exact tested_edgeNoted line freqDev subPs

theorem edgeSeen_freqPpb (h : (refMon s i).state ≠ .empty) : (refMon (edgeSeen s i false freqDev subPs) i).freqPpb = freqDev := by
  obtain ⟨ph, hph⟩ := refMon_edgeSeen false freqDev subPs h
  rw [hph]
  exact edgeNoted_freqPpb freqDev subPs

end

/-- The monitors, and everything but the clocks. -/
def edgeView (s : State) : Tbl RefMon × State := (s.clocks.refs, { s with clocks := {} })

/-- What MCPLL follows. -/
def followed (s : State) : Option Nat × Int × Int × Nat := (s.clocks.active, s.clocks.phasePs, s.clocks.refPpb, s.clocks.acqEdges)

theorem edgeSeen_keeps (line : Bool) (freqDev : Int) (subPs : Long) :
    followed (edgeSeen s i line freqDev subPs) = followed s ∧ (edgeSeen s i line freqDev subPs).events = s.events := by
  unfold edgeSeen
  dsimp only
  split <;> exact ⟨rfl, rfl⟩

theorem anchorAt_keeps : edgeView (anchorAt s i) = edgeView s ∧ followed (anchorAt s i) = followed s := by
  unfold anchorAt
  dsimp only
  split
  · split
    · split <;> exact ⟨rfl, rfl⟩
    · exact ⟨rfl, rfl⟩
  · exact ⟨rfl, rfl⟩

theorem refMon_of_edgeView {u v : State} (h : edgeView u = edgeView v) : refMon u i = refMon v i :=
  congrArg (fun w : Tbl RefMon × State => tget ({} : RefMon) w.1 i) h

/-- The edge as it has been seen, and has steered if its entry is active. -/
def edgeSteers (s : State) (i : Nat) (x : EdgePos) (freqDev : Int) (far : Bool) : State :=
  let u := edgeSeen s i x.line freqDev x.subPs
  if u.clocks.active = some i then steered u i x.line far else u

/-- What becomes of an edge once its entry has been tested: a glitch tells nothing, any other may steer and give the TAI anchor. -/
def edgeTold (s : State) (i : Nat) (x : EdgePos) (freqDev : Int) (glitch far : Bool) : State :=
  if glitch then s
  else if x.line then edgeSteers s i x freqDev far
  else anchorAt (edgeSteers s i x freqDev far) i

section
variable (x : EdgePos) (freqDev : Int) (far : Bool)

theorem edgeView_edgeSteers : edgeView (edgeSteers s i x freqDev far) = edgeView (edgeSeen s i x.line freqDev x.subPs) := by
  unfold edgeSteers
  dsimp only
  split <;> rfl

theorem edgeView_edgeTold : edgeView (edgeTold s i x freqDev false far) = edgeView (edgeSeen s i x.line freqDev x.subPs) := by
  unfold edgeTold
  rw [if_neg Bool.false_ne_true]
  split
  · exact edgeView_edgeSteers ..
  · exact anchorAt_keeps.1.trans (edgeView_edgeSteers ..)

/-- However an edge ends, its entry stays as the tests left it, and nothing is recorded. -/
theorem edgeTold_keeps (glitch : Bool) (h : (refMon s i).state ≠ .empty) :
    tested (refMon (edgeTold s i x freqDev glitch far) i) = tested (refMon s i) ∧ (edgeTold s i x freqDev glitch far).events = s.events := by
  cases glitch with
  | true => exact ⟨rfl, rfl⟩
  | false =>
    have hv := edgeView_edgeTold (s := s) (i := i) x freqDev far
    refine ⟨?_, ?_⟩
    · rw [refMon_of_edgeView hv]; exact tested_edgeSeen _ _ _ h
    · exact (congrArg (fun v : Tbl RefMon × State => v.2.events) hv).trans (edgeSeen_keeps ..).2

theorem phaseNear_congr {u v : State} (h : edgeView u = edgeView v) (ha : u.clocks.active = v.clocks.active) (ps : Int) :
    phaseNear u ps = phaseNear v ps := by
  have hr (j : Nat) : refMon u j = refMon v j := refMon_of_edgeView h
  have ht (j : Nat) : refType u j = refType v j := congrArg (fun w : Tbl RefMon × State => refType w.2 j) h
  unfold phaseNear
  simp only [ha, hr, ht]

/-- What MCPLL follows after an edge of the entry that steers (R96, R99). -/
theorem edgeTold_follows (ha : s.clocks.active = some i) (hl : x.line = false) (h : (refMon s i).state ≠ .empty) :
    let t := edgeTold s i x freqDev false far
    t.clocks.refPpb = (if far then s.clocks.refPpb else freqDev) ∧ t.clocks.phasePs = (refMon t i).phasePs ∧
      t.clocks.acqEdges = (if phaseNear t t.clocks.phasePs then s.clocks.acqEdges + 1 else 0) := by
  intro t
  let u := edgeSeen s i false freqDev x.subPs
  have hu : followed u = followed s := (edgeSeen_keeps ..).1
  have hua : u.clocks.active = some i := (congrArg (fun w => w.1) hu).trans ha
  have huf : u.clocks.refPpb = s.clocks.refPpb := congrArg (fun w => w.2.2.1) hu
  have hue : u.clocks.acqEdges = s.clocks.acqEdges := congrArg (fun w => w.2.2.2) hu
  have ht : t = anchorAt (steered u i false far) i := by
    show edgeTold s i x freqDev false far = _
    unfold edgeTold edgeSteers
    rw [if_neg Bool.false_ne_true, hl, if_neg Bool.false_ne_true]
    exact congrArg (anchorAt · i) (if_pos hua)
  have hv : edgeView t = edgeView u := by rw [ht]; exact anchorAt_keeps.1
  have hf : followed t = followed (steered u i false far) := by rw [ht]; exact anchorAt_keeps.2
  have hta : t.clocks.active = u.clocks.active := congrArg (fun w => w.1) hf
  have hps : t.clocks.phasePs = (refMon u i).phasePs := congrArg (fun w => w.2.1) hf
  have hfr : t.clocks.refPpb = if (false || far) = true then u.clocks.refPpb else (refMon u i).freqPpb := congrArg (fun w => w.2.2.1) hf
  have hed : t.clocks.acqEdges = if (!phaseNear u (refMon u i).phasePs) = true then 0 else u.clocks.acqEdges + 1 :=
    congrArg (fun w => w.2.2.2) hf
  refine ⟨?_, ?_, ?_⟩
  · rw [hfr, huf, edgeSeen_freqPpb _ _ h, Bool.false_or]
  · rw [hps, refMon_of_edgeView hv]
  · rw [hed, hps, phaseNear_congr hv hta, hue]
    cases phaseNear u (refMon u i).phasePs <;> rfl

end

/-! ### The choice of the entry that steers (R106, R107) -/

/-- All that the choice reads but the states of the entries. -/
def besideStates (s : State) : State := { s with clocks := { s.clocks with refs := [] }, events := {} }

/-- An entry of state `st` may steer MCPLL. -/
def usableAs (s : State) (i : Nat) (st : RefState) : Bool :=
  decide (refType s i ≠ 0) && decide (st = .qualified) && !refIgnored s i && (!follower s || decide (refType s i = 5)) &&
    (decide (refType s i ≠ 5) || groveFed s i)

theorem refUsable_eq (u : State) (j : Nat) : refUsable u j = usableAs (besideStates u) j (refMon u j).state := rfl

theorem refChoice_congr {u v : State} (h : besideStates u = besideStates v) (hs : ∀ j, (refMon u j).state = (refMon v j).state) :
    refChoice u = refChoice v := by
  have hu : refUsable u = refUsable v := funext fun j => by rw [refUsable_eq, refUsable_eq, h, hs]
  have hf : u.clocks.forceHold = v.clocks.forceHold := (congrArg (fun w : State => w.clocks.forceHold) h :)
  have ha : u.clocks.active = v.clocks.active := (congrArg (fun w : State => w.clocks.active) h :)
  have hr : u.cfg.clocks.revert = v.cfg.clocks.revert := (congrArg (fun w : State => w.cfg.clocks.revert) h :)
  unfold refChoice
  simp only [hu, hf, ha, hr]

theorem refChoice_setRefMon {m m' : RefMon} (h : m.state ≠ .empty) (hm : m.state = m'.state) :
    refChoice (setRefMon s i m) = refChoice (setRefMon s i m') := by
  refine refChoice_congr rfl fun j => ?_
  by_cases hj : j = i
  · subst hj; rw [refMon_setRefMon h, refMon_setRefMon (hm ▸ h), hm]
  · rw [refMon_setRefMon_ne hj, refMon_setRefMon_ne hj]

theorem refChoice_detectAs (k n : Nat) (a : Long) (b : Bool) : refChoice (detectAs s k n a b) = refChoice s :=
  refChoice_congr (by simp [besideStates]) fun j => by simp [refMon]

theorem steerFrom_active (old : Word) : (steerFrom s old).clocks.active = refChoice s := by
  unfold steerFrom
  split
  · next j hj =>
    split
    · next hc =>
      simp only [Bool.and_eq_true, decide_eq_true_eq] at hc
      rw [hj, hc.1]
    · rw [detect_clocks]; exact hj.symm
  · next hj =>
    rw [hj]
    split
    · unfold holdover holdAtWord; rw [detect_clocks]; rfl
    · next hc =>
      simp only [Bool.or_eq_true, not_or, Bool.not_eq_true, Option.isSome_eq_false_iff] at hc
      exact Option.isNone_iff_eq_none.1 hc.1

theorem steerFrom_refs (old : Word) : (steerFrom s old).clocks.refs = s.clocks.refs := by
  unfold steerFrom
  split
  · split
    · rfl
    · rw [detect_clocks]; rfl
  · split
    · unfold holdover holdAtWord; rw [detect_clocks]; rfl
    · rfl

theorem refMon_steer (j : Nat) : refMon (steer s) j = refMon s j := congrArg (tget ({} : RefMon) · j) (steerFrom_refs _)

/-- A switch and a HOLDOVER are all that steering records. -/
theorem steerFrom_counts (old : Word) {k : Nat} (h4 : k ≠ 0x1004) (h5 : k ≠ 0x1005) :
    tget 0 (steerFrom s old).events.det k = tget 0 s.events.det k := by
  unfold steerFrom
  split
  · split
    · rfl
    · rw [detect_count, if_neg h4]; rfl
  · split
    · unfold holdover holdAtWord; rw [detect_count, if_neg h5]; rfl
    · rfl

/-! ### Disqualification (R104) -/

section
variable {st : RefState} (hst : st ≠ .empty)
include hst

theorem refMon_disqualify (code : Nat) : refMon (disqualify s i st code false) i = { state := st } := by
  unfold disqualify
  dsimp only
  rw [refMon_steer]
  unfold refMon
  rw [detectAs_clocks]
  exact refMon_setRefMon (s := s) (m := { state := st }) hst

end

theorem disqualify_counts (st : RefState) {code : Nat} (h4 : code ≠ 0x1004) (h5 : code ≠ 0x1005) :
    tget 0 (disqualify s i st code false).events.det code = satInc31 (tget 0 s.events.det code) := by
  unfold disqualify steer
  dsimp only
  rw [steerFrom_counts _ h4 h5, detectAs_count_self]
  rfl

theorem disqualify_active (st : RefState) (code : Nat) :
    (disqualify s i st code false).clocks.active = refChoice (setRefMon s i { state := st }) := by
  unfold disqualify steer
  dsimp only
  rw [steerFrom_active, refChoice_detectAs]

theorem refStop_disqualifies (h0 : refType s i ≠ 0) (h6 : refType s i ≠ 6) (h : (refMon s i).state ≠ .stopped) :
    refStop s i false = disqualify s i .stopped 0x1001 false := by
  unfold refStop
  rw [if_neg (by simp [h0, h6, h])]

/-! ### An edge of an entry (R104, R105) -/

/-- An edge of the entry counts: it is neither empty nor a BUFFER entry, its link carries time, and VID_LINES gives a line. -/
def edgeCounts (s : State) (i : Nat) (x : EdgePos) : Prop :=
  refType s i ≠ 0 ∧ refType s i ≠ 6 ∧ (refType s i = 5 → groveFed s i = true) ∧ (x.line = true → refType s i = 2 ∧ s.cfg.clocks.vidLines ≠ 0)

/-- The entry of an edge has been tested. -/
def edgeTested (s : State) (i : Nat) (x : EdgePos) (glitch far : Bool) : State :=
  if (refMon s i).state = .qualified then qualifiedEdge s i x.line glitch far else requalify s i x.line (!glitch && (x.line || !far))

/-- An edge beyond 5 % of the expected period. -/
def isGlitch (posDev : Int) : Bool := decide (50000000 < posDev.natAbs)

/-- A period beyond the pull range. -/
def isFar (s : State) (freqDev : Int) : Bool := decide (freqDev < -pullBelow s) || decide (pullAbove s < freqDev)

section
variable (e : Fin 8) (posDev freqDev : Int) (x : EdgePos)

theorem edgeGuard_iff : ¬ (decide (refType s e = 0) || decide (refType s e = 6) || (decide (refType s e = 5) && !groveFed s e) ||
    (x.line && (decide (refType s e ≠ 2) || decide (s.cfg.clocks.vidLines = 0)))) = true ↔ edgeCounts s e x := by
  unfold edgeCounts
  simp only [Bool.or_eq_true, Bool.and_eq_true, decide_eq_true_eq, Bool.not_eq_true', not_or, not_and, and_assoc, ne_eq, not_not,
    Bool.not_eq_false]

theorem refEdge_uncounted (h : ¬ edgeCounts s e x) : exec (.refEdge e posDev freqDev x) s = .next s := by
  show execRefEdge e posDev freqDev x s = _
  unfold execRefEdge ok
  exact if_pos (not_not.1 (mt (edgeGuard_iff e x).1 h))

theorem refEdge_counted (h : edgeCounts s e x) : exec (.refEdge e posDev freqDev x) s =
    .next (edgeTold (edgeTested s e x (isGlitch posDev) (isFar s freqDev)) e x freqDev (isGlitch posDev) (isFar s freqDev)) := by
  show execRefEdge e posDev freqDev x s = _
  unfold execRefEdge ok
  refine (if_neg ((edgeGuard_iff e x).2 h)).trans ?_
  exact (apply_ite Host.Outcome.next ..).symm

end

/-- The glitches of the last 64 expected periods, after an edge (R104). -/
def glitchesAfter (s : State) (i : Nat) (glitch : Bool) : List MT :=
  nearGlitches s i (if glitch then now s :: (refMon s i).glitches else (refMon s i).glitches)

/-- The consecutive periods beyond the pull range, after an edge. -/
def runAfter (s : State) (i : Nat) (line glitch far : Bool) : Nat :=
  if glitch || line then (refMon s i).rateRun else if far then (refMon s i).rateRun + 1 else 0

section
variable {x : EdgePos} {glitch far : Bool}

theorem edgeTested_glitch (hq : (refMon s i).state = .qualified) (h : 4 ≤ (glitchesAfter s i glitch).length) :
    edgeTested s i x glitch far = disqualify s i .disqGlitch 0x1002 false := by
  unfold edgeTested qualifiedEdge
  exact (if_pos hq).trans (if_pos h)

theorem edgeTested_rate (hq : (refMon s i).state = .qualified) (h : (glitchesAfter s i glitch).length < 4) (hr : 8 ≤ runAfter s i x.line glitch far) :
    edgeTested s i x glitch far = disqualify s i .disqRate 0x1003 false := by
  unfold edgeTested qualifiedEdge
  exact (if_pos hq).trans ((if_neg (Nat.not_le.2 h)).trans (if_pos hr))

theorem edgeTested_stays (hq : (refMon s i).state = .qualified) (h : (glitchesAfter s i glitch).length < 4) (hr : runAfter s i x.line glitch far < 8) :
    edgeTested s i x glitch far =
      setRefMon s i { refMon s i with glitches := glitchesAfter s i glitch, rateRun := runAfter s i x.line glitch far } := by
  unfold edgeTested qualifiedEdge
  exact (if_pos hq).trans ((if_neg (Nat.not_le.2 h)).trans (if_neg (Nat.not_le.2 hr)))

/-- The monitor after a conforming edge (R105). -/
def conformed (s : State) (i : Nat) : RefMon :=
  if (refMon s i).state = .qualifying ∧ (refMon s i).conforming ≠ 0 then { refMon s i with conforming := (refMon s i).conforming + 1 }
  else { state := .qualifying, conforming := 1, since := now s }

theorem edgeTested_conforms (hq : (refMon s i).state ≠ .qualified) (hl : x.line = false) :
    edgeTested s i x false false = setRefMon s i (conformed s i) := by
  unfold edgeTested requalify
  rw [if_neg hq, hl]; rfl

theorem edgeTested_restarts (hq : (refMon s i).state = .qualifying) (h : glitch = true ∨ (x.line = false ∧ far = true)) :
    edgeTested s i x glitch far = setRefMon s i { refMon s i with conforming := 0 } := by
  have hn : (refMon s i).state ≠ .qualified := by rw [hq]; decide
  have hc : (!glitch && (x.line || !far)) = false := by
    obtain rfl | ⟨hl, rfl⟩ := h
    · rfl
    · rw [hl]; exact Bool.and_false _
  unfold edgeTested requalify
  rw [if_neg hn, hc]
  simp [hq]

/-- The entry of an edge ends in the state in which its test left it, and so do its counts. -/
theorem edgeTold_tested {u : State} (freqDev : Int) {m : RefMon} (h : refMon u i = m) (hm : m.state ≠ .empty) :
    tested (refMon (edgeTold u i x freqDev glitch far) i) = tested m ∧ (edgeTold u i x freqDev glitch far).events = u.events := by
  subst h
  exact edgeTold_keeps x freqDev far glitch hm

end

section
variable {e : Fin 8} {posDev freqDev : Int} {x : EdgePos}

/-- An edge that disqualifies its entry. -/
theorem edgeTold_disqualify {st : RefState} (hst : st ≠ .empty) {code : Nat} (h4 : code ≠ 0x1004) (h5 : code ≠ 0x1005) (glitch far : Bool) :
    let t := edgeTold (disqualify s i st code false) i x freqDev glitch far
    (refMon t i).state = st ∧ tget 0 t.events.det code = satInc31 (tget 0 s.events.det code) := by
  obtain ⟨hs, he⟩ := edgeTold_tested (x := x) (glitch := glitch) (far := far) freqDev (refMon_disqualify (s := s) (i := i) hst code) hst
  exact ⟨congrArg Prod.fst hs, he ▸ disqualify_counts st h4 h5⟩

theorem refEdge_qualified (h : edgeCounts s e x) (hq : (refMon s e).state = .qualified) :
    let l := glitchesAfter s e (isGlitch posDev)
    let run := runAfter s e x.line (isGlitch posDev) (isFar s freqDev)
    ∃ t, exec (.refEdge e posDev freqDev x) s = .next t ∧
      (4 ≤ l.length → (refMon t e).state = .disqGlitch ∧ tget 0 t.events.det 0x1002 = satInc31 (tget 0 s.events.det 0x1002)) ∧
      (l.length < 4 → 8 ≤ run → (refMon t e).state = .disqRate ∧ tget 0 t.events.det 0x1003 = satInc31 (tget 0 s.events.det 0x1003)) ∧
      (l.length < 4 → run < 8 → (refMon t e).state = .qualified ∧ (refMon t e).glitches = l ∧ (refMon t e).rateRun = run ∧
        t.events = s.events ∧
        (s.clocks.active = some e.val → isGlitch posDev = false → x.line = false →
          t.clocks.refPpb = (if isFar s freqDev then s.clocks.refPpb else freqDev) ∧ t.clocks.phasePs = (refMon t e).phasePs ∧
          t.clocks.acqEdges = (if phaseNear t t.clocks.phasePs then s.clocks.acqEdges + 1 else 0))) := by
  refine ⟨_, refEdge_counted e posDev freqDev x h, fun hl => ?_, fun hl hr => ?_, fun hl hr => ?_⟩
  · rw [edgeTested_glitch hq hl]
    exact edgeTold_disqualify (by decide) (by decide) (by decide) _ _
  · rw [edgeTested_rate hq hl hr]
    exact edgeTold_disqualify (by decide) (by decide) (by decide) _ _
  · rw [edgeTested_stays hq hl hr]
    have hm := refMon_setRefMon (s := s) (i := e) (m := { refMon s e with
      glitches := glitchesAfter s e (isGlitch posDev), rateRun := runAfter s e x.line (isGlitch posDev) (isFar s freqDev) })
      (by rw [hq]; decide)
    obtain ⟨ht, he⟩ := edgeTold_tested (x := x) (glitch := isGlitch posDev) (far := isFar s freqDev) freqDev hm (by rw [hq]; decide)
    refine ⟨(congrArg Prod.fst ht).trans hq, congrArg (fun w => w.2.1) ht, congrArg (fun w => w.2.2.1) ht, he, fun ha hg hx => ?_⟩
    rw [hg] at hm ⊢
    exact edgeTold_follows x freqDev (isFar s freqDev) ha hx (by rw [hm, hq]; decide)

theorem refEdge_unqualified (h : edgeCounts s e x) (hq : (refMon s e).state ≠ .qualified) :
    ∃ t, exec (.refEdge e posDev freqDev x) s = .next t ∧
      (x.line = false → isGlitch posDev = false → isFar s freqDev = false → (refMon t e).state = .qualifying ∧
        (refMon t e).conforming =
          (if (refMon s e).state = .qualifying ∧ (refMon s e).conforming ≠ 0 then (refMon s e).conforming + 1 else 1)) ∧
      (isGlitch posDev = true ∨ (x.line = false ∧ isFar s freqDev = true) → (refMon s e).state = .qualifying →
        (refMon t e).state = .qualifying ∧ (refMon t e).conforming = 0) := by
  refine ⟨_, refEdge_counted e posDev freqDev x h, fun hl hg hf => ?_, fun hr hs => ?_⟩
  · have hst : (conformed s e).state = .qualifying := by unfold conformed; split; exacts [(‹_ ∧ _›).1, rfl]
    have hcf : (conformed s e).conforming =
        if (refMon s e).state = .qualifying ∧ (refMon s e).conforming ≠ 0 then (refMon s e).conforming + 1 else 1 := by
      unfold conformed; split <;> rfl
    have hne : (conformed s e).state ≠ .empty := by rw [hst]; decide
    rw [hg, hf, edgeTested_conforms hq hl]
    obtain ⟨ht, -⟩ := edgeTold_tested (x := x) (glitch := false) (far := false) freqDev (refMon_setRefMon (s := s) (i := e) hne) hne
    exact ⟨(congrArg Prod.fst ht).trans hst, (congrArg (fun w => w.2.2.2) ht).trans hcf⟩
  · have hne : ({ refMon s e with conforming := 0 } : RefMon).state ≠ .empty := by rw [hs]; decide
    rw [edgeTested_restarts hs hr]
    obtain ⟨ht, -⟩ := edgeTold_tested (x := x) (glitch := isGlitch posDev) (far := isFar s freqDev) freqDev
      (refMon_setRefMon (s := s) (i := e) hne) hne
    exact ⟨(congrArg Prod.fst ht).trans hs, congrArg (fun w => w.2.2.2) ht⟩

end

/-! ### Stops and qualification (R104, R105) -/

section
variable (e : Fin 8)

theorem refStopped_spec (h0 : refType s e ≠ 0) (h6 : refType s e ≠ 6) (h : (refMon s e).state ≠ .stopped) :
    ∃ t, exec (.refStopped e) s = .next t ∧ (refMon t e).state = .stopped ∧
      tget 0 t.events.det 0x1001 = satInc31 (tget 0 s.events.det 0x1001) ∧ t.clocks.active = refChoice (setRefMon s e { state := .stopped }) :=
  ⟨_, congrArg Host.Outcome.next (refStop_disqualifies h0 h6 h), congrArg RefMon.state (refMon_disqualify (by decide) _),
    disqualify_counts _ (by decide) (by decide), disqualify_active _ _⟩

theorem mayQualify_asks (h : mayQualify s i = true) : msUnits s s.cfg.clocks.requalMs.toNat ≤ mtDiff (refMon s i).since (now s) ∧
    (refType s i ≠ 6 → 4 ≤ (refMon s i).conforming) ∧ (refType s i = 3 → 2 ≤ s.clocks.todRun) := by
  unfold mayQualify at h
  simp only [Bool.and_eq_true, decide_eq_true_eq] at h
  obtain ⟨⟨-, hms⟩, hrest⟩ := h
  have hedges (h6 : refType s i ≠ 6) : 4 ≤ (refMon s i).conforming ∧ (refType s i ≠ 3 ∨ 2 ≤ s.clocks.todRun) := by
    rw [if_neg h6] at hrest
    simpa using hrest
  exact ⟨hms, fun h6 => (hedges h6).1, fun h3 => (hedges (by omega)).2.resolve_left (not_not.2 h3)⟩

/-- A monitor as its entry qualifies. -/
def asQualified (m : RefMon) : RefMon := { m with state := .qualified, glitches := [], rateRun := 0, origin := none, tried := 0, nearest := none }

theorem refQualified_spec (h : mayQualify s e = true) : ∃ t, exec (.refQualified e) s = .next t ∧ (refMon t e).state = .qualified ∧
    t.clocks.active = refChoice (setRefMon s e { state := .qualified }) := by
  have hne : (asQualified (refMon s e)).state ≠ .empty := RefState.noConfusion
  refine ⟨steer (setRefMon s e (asQualified (refMon s e))), ?_, ?_, ?_⟩
  · show execRefQualified e s = _
    unfold execRefQualified ok
    exact if_pos h
  · rw [refMon_steer, refMon_setRefMon hne]; rfl
  · exact (steerFrom_active _).trans (refChoice_setRefMon hne rfl)

theorem refQualified_refused (h : mayQualify s e = false) : exec (.refQualified e) s = .next s := by
  show execRefQualified e s = _
  unfold execRefQualified ok
  exact if_neg (by rw [h]; decide)

end

/-! ### MCPLL's lock, and its loss (R96, R97) -/

/-- ACQUIRE has held within 100 ns for 1 s and two edges; a BUFFER entry has no edges. -/
def acquired (s : State) : Prop := s.clocks.mcpll = .acquire ∧ aSecond s s.clocks.nearSince = true ∧
  (2 ≤ s.clocks.acqEdges ∨ (∃ j, s.clocks.active = some j ∧ refType s j = 6))

theorem lockGuard_iff : (decide (s.clocks.mcpll = .acquire) &&
    (decide (2 ≤ s.clocks.acqEdges) || s.clocks.active.any (fun i => decide (refType s i = 6))) && aSecond s s.clocks.nearSince) = true ↔
    acquired s := by
  unfold acquired
  simp only [Bool.and_eq_true, Bool.or_eq_true, decide_eq_true_eq, Option.any_eq_true]
  tauto

theorem mcpllLocked_acquired (h : acquired s) :
    exec .mcpllLocked s = .next (setClocks s (fun c => { c with mcpll := .locked, offSince := none })) := by
  show execMcpllLocked s = _
  unfold execMcpllLocked ok
  exact if_pos (lockGuard_iff.2 h)

theorem mcpllLocked_waits (h : ¬ acquired s) : exec .mcpllLocked s = .next s := by
  show execMcpllLocked s = _
  unfold execMcpllLocked ok
  exact if_neg (mt lockGuard_iff.1 h)

theorem mcpllUnlock_spec {ppb : Long} {j : Nat} (hm : s.clocks.mcpll = .locked) (ha : s.clocks.active = some j)
    (hp : 60000 < ppb.toInt.natAbs) (hs : aSecond s s.clocks.offSince = true) :
    exec (.mcpllUnlock ppb) s = .next (detect (acquire s j) 0x1006 devUnit ppb) := by
  show execMcpllUnlock ppb s = _
  unfold execMcpllUnlock ok mcpllOut
  refine (if_pos (by simp [hp, hs])).trans (congrArg Host.Outcome.next ((if_pos hm).trans ?_))
  unfold reacquireRef
  rw [ha]; rfl

theorem mcpllUnlock_waits {ppb : Long} (h : s.clocks.mcpll ≠ .locked ∨ ppb.toInt.natAbs ≤ 60000 ∨ aSecond s s.clocks.offSince = false) :
    exec (.mcpllUnlock ppb) s = .next s := by
  show execMcpllUnlock ppb s = _
  unfold execMcpllUnlock ok mcpllOut
  split
  · next hc =>
    simp only [Bool.and_eq_true, decide_eq_true_eq] at hc
    obtain hm | hp | hs := h
    · rw [if_neg hm]
    · omega
    · rw [hs] at hc; exact absurd hc.2 Bool.false_ne_true
  · rfl

/-! ### Time of day (R113 to R115) -/

section
variable {line : List Byte} {a b : Nat}

/-- The clocks once a message has been discarded. -/
def todDiscarded (c : Clocks) : Clocks :=
  { c with todErr := (satInc c.todErr).1, todErrOvf := c.todErrOvf || (satInc c.todErr).2, todRun := 0 }

theorem todMessage_bad (h : todParse line = none ∨ a < 100 ∨ b < 100) : exec (.todMessage line a b) s = .next (todError s false) := by
  show execTodMessage line a b s = _
  unfold execTodMessage ok
  split
  · rfl
  · next hp =>
    refine if_pos ?_
    simpa [hp] using h

theorem todError_spec : (todError s false).clocks = todDiscarded s.clocks ∧
    tget 0 (todError s false).events.det 0x100E = satInc31 (tget 0 s.events.det 0x100E) := by
  unfold todError
  exact ⟨detectAs_clocks .., detectAs_count_self ..⟩

/-- The clocks once a message has labelled the next PPS edge. -/
def todLabelled (c : Clocks) (tai : Nat) (utc : Int) : Clocks :=
  { c with
    todRun := if c.todLast.map (· + 1) = some (BitVec.ofNat 64 tai) then c.todRun + 1 else 1
    todLast := some (BitVec.ofNat 64 tai), todFresh := true, taiUtc := BitVec.ofInt 16 utc }

theorem todMessage_good {tai : Nat} {utc : Int} (hp : todParse line = some (tai, utc)) (ha : 100 ≤ a) (hb : 100 ≤ b)
    (ht : s.clocks.taiValid = true → taiAhead s b = tai) :
    exec (.todMessage line a b) s = .next { s with clocks := todLabelled s.clocks tai utc } := by
  show execTodMessage line a b s = _
  unfold execTodMessage ok todLabelled
  rw [hp]
  refine (if_neg (by simp; omega)).trans ((if_neg (by simpa using ht)).trans ?_)
  cases hl : s.clocks.todLast with
  | none => simp [setClocks, hl]
  | some l => simp [setClocks, hl]

end

end

/-- Settles O38: the test of an edge is followed by what the edge tells, which leaves the entry as tested; a disqualification or a
qualification is followed by the choice of the entry that steers, which reads only the states of the monitors. -/
theorem referenceCommands : Obligations.ReferenceCommands := by
  intro s i posDev freqDev x
  have hglitch : isGlitch posDev = true ↔ 50000000 < posDev.natAbs := decide_eq_true_iff
  have hfar : isFar s freqDev = true ↔ freqDev < -pullBelow s ∨ pullAbove s < freqDev := by simp [isFar]
  have hnear : isGlitch posDev = false ↔ ¬ 50000000 < posDev.natAbs := decide_eq_false_iff_not
  have hclose : isFar s freqDev = false ↔ ¬ (freqDev < -pullBelow s ∨ pullAbove s < freqDev) := by simp [isFar]
  refine ⟨refEdge_uncounted i posDev freqDev x, fun h hq => ?_, fun h hq => ?_, refStopped_spec i, mayQualify_asks, refQualified_spec i,
    refQualified_refused i, ⟨mcpllLocked_acquired, mcpllLocked_waits⟩,
    fun ppb => ⟨fun j hm ha hp hs => ⟨mcpllUnlock_spec hm ha hp hs, rfl⟩, mcpllUnlock_waits⟩, fun line a b => ⟨fun h => ?_, fun tai utc hp ha hb ht => ?_⟩⟩
  · simpa [glitchesAfter, runAfter, hglitch, hfar, hnear, hclose] using refEdge_qualified (posDev := posDev) (freqDev := freqDev) h hq
  · simpa [hglitch, hfar, hnear, hclose] using refEdge_unqualified (posDev := posDev) (freqDev := freqDev) h hq
  · exact ⟨_, todMessage_bad h, todError_spec⟩
  · exact ⟨_, todMessage_good hp ha hb ht, rfl, rfl, rfl, rfl, rfl⟩

end Sys2Proof.Machine
end

section
/-! Root election, drills and time steps: what a change of claims leaves alone, and what a jump of the count keeps (R409 to R414, R417). -/
namespace Sys2Proof.Machine

/-! ### What hearing claims leaves alone (R409, R410, R413) -/

/-- The part of the grove's state that claims heard do not change: this device's own role, its claiming and its drills. -/
def office (g : Grove) : Grove :=
  { role := g.role, claimRun := g.claimRun, rootEpoch := g.rootEpoch, drillState := g.drillState, drillResult := g.drillResult
    drillMt := g.drillMt, drillDwell := g.drillDwell, drillAsked := g.drillAsked, withheldAt := g.withheldAt }

/-- That part with the epoch, the count, the TAI mapping's validity and the count of detections of code `c`. -/
def elected (c : Nat) (s : State) : Grove × Long × (MT × Bool) × Long :=
  (office s.grove, s.epoch, (s.clocks.mt, s.clocks.taiValid), tget 0 s.events.det c)

section
variable {c : Nat}

theorem elected_ite {p : Prop} [Decidable p] {a b : State} {v} (ha : elected c a = v) (hb : elected c b = v) :
    elected c (if p then a else b) = v := by split <;> assumption

theorem elected_detectAs {k : Nat} (s : State) (u : Nat) (x : Long) (i : Bool) (h : c ≠ k) : elected c (detectAs s k u x i) = elected c s := by
  have hd : tget 0 (detectAs s k u x i).events.det c = tget 0 s.events.det c := (detectAs_count ..).trans (if_neg h)
  unfold elected
  rw [hd, detectAs_grove, detectAs_epoch, detectAs_clocks]

theorem elected_detect {k : Nat} (s : State) (u : Nat) (x : Long) (h : c ≠ k) : elected c (detect s k u x) = elected c s :=
  elected_detectAs s u x false h

section
variable (s : State)

theorem elected_unmap (e : Nat) (o : Option Nat) (t : MT) : elected c (unmap s e o t) = elected c s := by
  unfold unmap
  dsimp only
  rw [foldl_keeps (elected c) fun u x => ?_]
  · exact elected_ite rfl rfl
  · split
    · rfl
    · refine foldl_keeps (elected c) (fun u out => ?_) _ _
      split <;> exact elected_ite rfl rfl

theorem elected_markEmpty : elected c (markEmpty s) = elected c s := by
  unfold markEmpty
  refine foldl_keeps (elected c) (fun u b => ?_) _ _
  dsimp only
  split <;> rfl

theorem elected_freeEntry (e : Nat) (t : MT) : elected c (freeEntry s e t) = elected c s := by
  unfold freeEntry
  dsimp only
  rw [elected_markEmpty]
  split <;> exact elected_unmap s e none t

theorem elected_releasePending : elected c (releasePending s) = elected c s := by
  unfold releasePending
  refine foldl_keeps (elected c) (fun s kv => ?_) _ _
  split
  · rfl
  · unfold releaseShare
    exact elected_ite (elected_freeEntry ..) (elected_ite (elected_ite rfl rfl) rfl)

/-- The codes that claims heard and steering record. -/
def claimCodes : List Nat := [0x1001, 0x1004, 0x1005, 0x5015]

section
variable (hc : c ∉ claimCodes)
include hc

theorem elected_holdAtWord (w : Int) : elected c (holdAtWord s w) = elected c s :=
  (elected_detect _ _ _ fun h => hc (by subst h; decide)).trans rfl

theorem elected_steer : elected c (steer s) = elected c s := by
  unfold steer steerFrom
  split
  · exact elected_ite rfl ((elected_detect _ _ _ fun h => hc (by subst h; decide)).trans rfl)
  · exact elected_ite (elected_holdAtWord s hc _) rfl

theorem elected_rootSteers : elected c (rootSteers s) = elected c s := by
  unfold rootSteers
  split
  · exact elected_ite ((elected_steer _ hc).trans (elected_holdAtWord s hc _)) (elected_steer s hc)
  · exact elected_steer s hc

theorem elected_groveStops : elected c (groveStops s) = elected c s := by
  unfold groveStops refStop disqualify
  refine foldl_keeps (elected c) (fun s i => elected_ite (elected_ite rfl ?_) rfl) _ _
  exact (elected_steer _ hc).trans ((elected_detectAs _ _ _ _ fun h => hc (by subst h; decide)).trans rfl)

theorem elected_followRoot (claim : Long) : elected c (followRoot s claim) = elected c s := by
  unfold followRoot
  dsimp only
  split
  · rw [elected_detect _ _ _ fun h => hc (by subst h; decide)]
    split
    · rfl
    · split <;> exact elected_releasePending _
  · rfl

theorem elected_hearClaims : elected c (hearClaims s) = elected c s := by
  unfold hearClaims
  dsimp only
  split
  · exact elected_ite ((elected_followRoot _ hc _).trans rfl) ((elected_followRoot _ hc _).trans rfl)
  · exact elected_ite (elected_ite rfl ((elected_groveStops _ hc).trans rfl)) ((elected_followRoot _ hc _).trans rfl)

end

theorem elected_markJoined : elected c (markJoined s) = elected c s := by
  unfold markJoined
  refine Eq.trans (rfl : _ = elected c _) (foldl_keeps (elected c) (fun u kv => ?_) s.links s)
  split <;> rfl

end

section
variable {u v : State} (h : elected c u = elected c v)
include h

theorem office_of_elected : office u.grove = office v.grove := congrArg Prod.fst h
theorem role_of_elected : u.grove.role = v.grove.role := congrArg (fun w => w.1.role) h
theorem count_of_elected : tget 0 u.events.det c = tget 0 v.events.det c := congrArg (fun w => w.2.2.2) h

end

end

/-! ### A jump of the count (R417) -/

/-- The grove's state but for what is stamped. -/
def undated (g : Grove) : Grove := { g with withheldAt := MT.zero, rootSince := MT.zero, reasm := [], records := [] }

/-- What a jump keeps once the count is set: the pending actions, the grove's undated state, the epoch, the settings and the counts of detections. -/
def jumpView (s : State) : (MT × List Sched) × Grove × Long × Persist × Tbl Long :=
  ((s.clocks.mt, s.clocks.sched), undated s.grove, s.epoch, s.cfg, s.events.det)

section
variable (s : State)

theorem jumpView_eachEng (f : Engine → Engine) : jumpView (eachEng s f) = jumpView s := by
  unfold eachEng
  exact foldl_keeps jumpView (f := fun u (kv : Nat × Engine) => modEng u kv.1 f) (fun _ _ => rfl) _ _

theorem jumpView_eachPort (f : Nat → Port → Port) : jumpView (eachPort s f) = jumpView s := by
  unfold eachPort
  exact foldl_keeps jumpView (f := fun u (kv : Nat × Port) => setPort u kv.1 (f kv.1 (port u kv.1))) (fun _ _ => rfl) _ _

theorem jumpView_eachBridge (f : Nat → Bridge → Bridge) : jumpView (eachBridge s f) = jumpView s := by
  unfold eachBridge
  exact foldl_keeps jumpView (f := fun u (kv : Nat × Bridge) => setBridge u kv.1 (f kv.1 (bridge u kv.1))) (fun _ _ => rfl) _ _

theorem jumpView_eachLink (f : Nat → Link → Link) : jumpView (eachLink s f) = jumpView s := by
  unfold eachLink
  exact foldl_keeps jumpView (f := fun u (kv : Nat × Link) => setLink u kv.1 (f kv.1 (link u kv.1))) (fun _ _ => rfl) _ _

theorem jumpView_carryStamps (f : MT → MT) : jumpView (carryStamps f s) = jumpView s := by
  unfold carryStamps
  dsimp only
  rw [jumpView_eachBridge, jumpView_eachLink, jumpView_eachPort]
  exact (rfl : _ = jumpView _).trans
    (foldl_keeps jumpView (f := fun u (kv : Nat × Route) => setRoute u kv.1 { kv.2 with since := f kv.2.since }) (fun _ _ => rfl) s.routes s)

theorem jumpView_carryFrames (f : MT → MT) : jumpView (carryFrames f s) = jumpView s := by
  unfold carryFrames
  dsimp only
  rw [jumpView_eachEng, jumpView_eachEng]

theorem jumpView_setPlaying (e : Nat) (v : Stream) : jumpView (setPlaying s e v) = jumpView s := by
  unfold setPlaying
  split <;> rfl

theorem jumpView_jumpTo (t : MT) : jumpView (jumpTo s t) = jumpView { s with clocks := { s.clocks with mt := t } } := by
  unfold jumpTo
  dsimp only
  rw [foldl_keeps jumpView fun u kv => jumpView_setPlaying u .., jumpView_eachBridge, jumpView_eachPort, jumpView_eachEng, jumpView_carryFrames,
    jumpView_carryStamps]
  rfl

end

theorem parts_of_jumpView {u v : State} (h : jumpView u = jumpView v) : u.clocks.mt = v.clocks.mt ∧ u.clocks.sched = v.clocks.sched ∧
    undated u.grove = undated v.grove ∧ u.events.det = v.events.det :=
  ⟨congrArg (fun w => w.1.1) h, congrArg (fun w => w.1.2) h, congrArg (fun w => w.2.1) h, congrArg (fun w => w.2.2.2.2) h⟩

theorem jumpTo_mt (s : State) (t : MT) : (jumpTo s t).clocks.mt = t := (parts_of_jumpView (jumpView_jumpTo s t)).1

/-! ### Engines and ports after a jump -/

/-- A fold that steps through the keys of a table: what holds of the keys that are not listed, and of each key once it has been stepped to,
holds of all in the end. -/
theorem foldl_each {α β : Type} {inv : State → Prop} {get : State → Nat → β} {P : β → Prop} {step : State → Nat × α → State}
    (hinv : ∀ u x, inv u → inv (step u x)) (hself : ∀ u x, inv u → P (get (step u x) x.1))
    (hother : ∀ u x k, k ≠ x.1 → get (step u x) k = get u k) (l : List (Nat × α)) {u : State} (hu : inv u)
    (h : ∀ k, P (get u k) ∨ k ∈ l.map Prod.fst) (k : Nat) : P (get (l.foldl step u) k) := by
  induction l generalizing u with
  | nil => exact (h k).resolve_right (nomatch ·)
  | cons x l ih =>
    refine ih (hinv u x hu) fun k => ?_
    by_cases hk : k = x.1
    · exact .inl (hk ▸ hself u x hu)
    · rw [hother u x k hk]
      exact (h k).imp_right fun hl => (List.mem_cons.1 hl).resolve_left hk

section
variable {s : State}

theorem eachEng_wf (f : Engine → Engine) (w : Tbl.wf {} s.engines = true) : Tbl.wf {} (eachEng s f).engines = true := by
  unfold eachEng
  exact List.foldlRecOn (motive := fun u : State => Tbl.wf {} u.engines = true) s.engines _ w fun u hu x _ => setEng_wf x.1 _ hu

theorem eachPort_wf (f : Nat → Port → Port) (w : Tbl.wf {} s.ports = true) : Tbl.wf {} (eachPort s f).ports = true := by
  unfold eachPort
  exact List.foldlRecOn (motive := fun u : State => Tbl.wf {} u.ports = true) s.ports _ w fun u hu x _ => setPort_wf x.1 _ hu

theorem eachEng_all {f : Engine → Engine} {P : Engine → Prop} (w : Tbl.wf {} s.engines = true) (h0 : P {}) (hf : ∀ e, P (f e)) (k : Nat) :
    P (eng (eachEng s f) k) := by
  unfold eachEng
  refine foldl_each (inv := fun u => Tbl.wf {} u.engines = true) (get := eng) (fun u x hu => setEng_wf x.1 _ hu)
    (fun u x hu => ?_) (fun u x k hk => eng_modEng_ne u f hk) s.engines w (fun k => ?_) k
  · exact (eng_modEng_self x.1 f hu).symm ▸ hf _
  · by_cases he : eng s k = {}
    · exact .inl (he ▸ h0)
    · exact .inr (List.mem_map_of_mem (f := Prod.fst) (mem_of_tget_ne he))

theorem eachPort_all {f : Nat → Port → Port} {P : Port → Prop} (w : Tbl.wf {} s.ports = true) (h0 : P {}) (hf : ∀ n q, P (f n q)) (k : Nat) :
    P (port (eachPort s f) k) := by
  unfold eachPort
  refine foldl_each (inv := fun u => Tbl.wf {} u.ports = true) (get := port) (fun u x hu => setPort_wf x.1 _ hu)
    (fun u x hu => ?_) (fun u x k hk => port_setPort_ne u _ hk) s.ports w (fun k => ?_) k
  · rw [port_setPort_self _ _ hu]; exact hf ..
  · by_cases he : port s k = {}
    · exact .inl (he ▸ h0)
    · exact .inr (List.mem_map_of_mem (f := Prod.fst) (mem_of_tget_ne he))

/-- A change of each port keeps what it keeps of every port. -/
theorem eachPort_keeps {f : Nat → Port → Port} {P : Port → Prop} (w : Tbl.wf {} s.ports = true) (h : ∀ k, P (port s k))
    (hf : ∀ n q, P q → P (f n q)) (k : Nat) : P (port (eachPort s f) k) := by
  unfold eachPort
  refine (List.foldlRecOn (motive := fun u : State => Tbl.wf {} u.ports = true ∧ ∀ k, P (port u k)) s.ports _ ⟨w, h⟩
    fun u ⟨hw, hu⟩ x _ => ⟨setPort_wf x.1 _ hw, fun k => ?_⟩).2 k
  by_cases hk : k = x.1
  · subst hk; rw [port_setPort_self _ _ hw]; exact hf _ _ (hu _)
  · rw [port_setPort_ne _ _ hk]; exact hu k

/-- The engines and ports. -/
def boxes (s : State) : Tbl Engine × Tbl Port := (s.engines, s.ports)

theorem boxes_eachBridge (f : Nat → Bridge → Bridge) : boxes (eachBridge s f) = boxes s := by
  unfold eachBridge
  exact foldl_keeps boxes (f := fun u (kv : Nat × Bridge) => setBridge u kv.1 (f kv.1 (bridge u kv.1))) (fun _ _ => rfl) _ _

theorem boxes_eachLink (f : Nat → Link → Link) : boxes (eachLink s f) = boxes s := by
  unfold eachLink
  exact foldl_keeps boxes (f := fun u (kv : Nat × Link) => setLink u kv.1 (f kv.1 (link u kv.1))) (fun _ _ => rfl) _ _

theorem boxes_setPlaying (e : Nat) (v : Stream) : boxes (setPlaying s e v) = boxes s := by
  unfold setPlaying
  split <;> rfl

theorem engines_eachPort (f : Nat → Port → Port) : (eachPort s f).engines = s.engines := by
  unfold eachPort
  exact foldl_keeps State.engines (f := fun u (kv : Nat × Port) => setPort u kv.1 (f kv.1 (port u kv.1))) (fun _ _ => rfl) _ _

theorem ports_eachEng (f : Engine → Engine) : (eachEng s f).ports = s.ports := by
  unfold eachEng
  exact foldl_keeps State.ports (f := fun u (kv : Nat × Engine) => modEng u kv.1 f) (fun _ _ => rfl) _ _

/-- Both tables are canonical. -/
def BoxesOk (u : State) : Prop := Tbl.wf {} u.engines = true ∧ Tbl.wf {} u.ports = true

theorem boxesOk_of_boxes {u v : State} (h : boxes u = boxes v) (hv : BoxesOk v) : BoxesOk u := by
  obtain ⟨he, hp⟩ := Prod.mk.injEq .. ▸ h
  unfold BoxesOk
  rwa [show u.engines = v.engines from he, show u.ports = v.ports from hp]

theorem boxesOk_eachEng (h : BoxesOk s) (f : Engine → Engine) : BoxesOk (eachEng s f) := ⟨eachEng_wf f h.1, (ports_eachEng f).symm ▸ h.2⟩
theorem boxesOk_eachPort (h : BoxesOk s) (f : Nat → Port → Port) : BoxesOk (eachPort s f) := ⟨(engines_eachPort f).symm ▸ h.1, eachPort_wf f h.2⟩

/-- Both tables are canonical, no engine's boundary is prepared, and no port holds a frame. -/
def Fresh (u : State) : Prop := BoxesOk u ∧ (∀ k, (eng u k).prepared = false) ∧ ∀ k, (port u k).inFifo = []

theorem fresh_of_boxes {u v : State} (h : boxes u = boxes v) (hv : Fresh v) : Fresh u := by
  obtain ⟨hw, hrest⟩ := hv
  obtain ⟨he, hp⟩ := Prod.mk.injEq .. ▸ h
  refine ⟨boxesOk_of_boxes h hw, ?_⟩
  unfold eng port at hrest ⊢
  rwa [show u.engines = v.engines from he, show u.ports = v.ports from hp]

theorem boxesOk_carryStamps (f : MT → MT) (h : BoxesOk s) : BoxesOk (carryStamps f s) := by
  unfold carryStamps
  extract_lets s1 m g e p d s2 s3 s4
  have h1 : boxes s1 = boxes s :=
    foldl_keeps boxes (f := fun u (kv : Nat × Route) => setRoute u kv.1 { kv.2 with since := f kv.2.since }) (fun _ _ => rfl) _ _
  have h2 : BoxesOk s2 := boxesOk_of_boxes (v := s) h1 h
  have h3 : BoxesOk s3 := boxesOk_eachPort h2 _
  exact boxesOk_of_boxes ((boxes_eachBridge _).trans (boxes_eachLink _)) h3

theorem boxesOk_carryFrames (f : MT → MT) (h : BoxesOk s) : BoxesOk (carryFrames f s) := boxesOk_eachEng (boxesOk_eachEng h _) _

theorem jumpTo_fresh (h : BoxesOk s) (t : MT) : Fresh (jumpTo s t) := by
  unfold jumpTo
  extract_lets f s1 c s2 s3 s4 s5
  have h1 : BoxesOk s1 := h
  have h2 : BoxesOk s2 := boxesOk_carryFrames f (boxesOk_carryStamps f h1)
  have h3 : BoxesOk s3 := boxesOk_eachEng h2 _
  have he : ∀ k, (eng s3 k).prepared = false := eachEng_all (P := fun e => e.prepared = false) h2.1 rfl fun _ => rfl
  have h4 : Fresh s4 := by
    refine ⟨boxesOk_eachPort h3 _, fun k => ?_, eachPort_all (P := fun q => q.inFifo = []) h3.2 rfl fun _ _ => rfl⟩
    exact (congrArg (fun e : Tbl Engine => (tget ({} : Engine) e k).prepared) (engines_eachPort _)).trans (he k)
  have h5 : Fresh s5 := fresh_of_boxes (boxes_eachBridge _) h4
  exact fresh_of_boxes (foldl_keeps boxes (fun u kv => boxes_setPlaying ..) _ _) h5

theorem rampEndpoints_fresh (h : Fresh s) : Fresh (rampEndpoints s) := by
  unfold rampEndpoints
  extract_lets ramp s1 s2
  obtain ⟨hw, he, hp⟩ := h
  have h1 : Fresh s1 := by
    refine ⟨boxesOk_eachPort hw _, fun k => ?_, eachPort_keeps (P := fun q => q.inFifo = []) hw.2 hp fun n q hq => ?_⟩
    · exact (congrArg (fun e : Tbl Engine => (tget ({} : Engine) e k).prepared) (engines_eachPort _)).trans (he k)
    · exact List.foldlRecOn (motive := fun q : Port => q.inFifo = []) _ _ hq fun q hq i _ => hq
  exact fresh_of_boxes (boxes_eachLink _) (fresh_of_boxes (boxes_eachBridge _) h1)

theorem jumpView_rampEndpoints : jumpView (rampEndpoints s) = jumpView s := by
  unfold rampEndpoints
  dsimp only
  rw [jumpView_eachLink, jumpView_eachBridge, jumpView_eachPort]

end

/-! ### Loss of the Root, and incumbency (R411, R412) -/

section
variable {s : State}

theorem loseRoot_spec : (loseRoot s).grove.role = (if s.cfg.priority ≠ 0 ∧ s.grove.role ≠ .withheld then .claiming else s.grove.role) ∧
    tget 0 (loseRoot s).events.det 0x5019 = satInc31 (tget 0 s.events.det 0x5019) := by
  have hc : 0x5019 ∉ claimCodes := by decide
  have hd := detect_count_self s 0x5019 devUnit 0
  unfold loseRoot
  simp only [detect_cfg, detect_grove, Bool.and_eq_true, decide_eq_true_eq]
  split
  · have he := elected_hearClaims (setGrove (detect s 0x5019 devUnit 0) fun g => { g with role := .claiming, claimRun := 0 }) hc
    exact ⟨role_of_elected he, (count_of_elected he).trans hd⟩
  · have he := elected_hearClaims (detect s 0x5019 devUnit 0) hc
    exact ⟨(role_of_elected he).trans (congrArg Grove.role (detect_grove ..)), (count_of_elected he).trans hd⟩

theorem rootLost_spec (hj : anyJoined s = true) (hn : 16 ≤ s.grove.noRoot) (hr : s.grove.role ≠ .root) (hc : s.grove.role ≠ .claiming) :
    exec .rootLost s = .next (loseRoot s) := by
  show execRootLost s = _
  unfold execRootLost ok
  exact if_pos (by simp [hj, hn, hr, hc])

theorem rootLost_idle (h : anyJoined s = false ∨ s.grove.noRoot < 16 ∨ s.grove.role = .root ∨ s.grove.role = .claiming) :
    exec .rootLost s = .next s := by
  show execRootLost s = _
  unfold execRootLost ok
  refine if_neg fun hg => ?_
  simp only [Bool.and_eq_true, decide_eq_true_eq] at hg
  obtain ⟨⟨⟨hj, hn⟩, hr⟩, hc⟩ := hg
  obtain h | h | h | h := h
  · rw [hj] at h; exact nomatch h
  · omega
  · exact hr h
  · exact hc h

/-- A member's place in the election, the epoch and the time. -/
def seated (s : State) : (Role × Nat × Long × Long) × MT × Bool :=
  ((s.grove.role, s.grove.claimRun, s.grove.rootEpoch, s.epoch), s.clocks.mt, s.clocks.taiValid)

theorem seated_of_elected {c : Nat} {u v : State} (h : elected c u = elected c v) : seated u = seated v :=
  congrArg (fun w => ((w.1.role, w.1.claimRun, w.1.rootEpoch, w.2.1), w.2.2.1.1, w.2.2.1.2)) h

theorem seat_of_jumpView {u v : State} (h : jumpView u = jumpView v) : (seated u).1 = (seated v).1 :=
  congrArg (fun w => (w.2.1.role, w.2.1.claimRun, w.2.1.rootEpoch, w.2.2.1)) h

/-- A member's place does not hang on its clocks. -/
theorem seat_setClocks (v : State) (f : Clocks → Clocks) : (seated (setClocks v f)).1 = (seated v).1 := rfl

theorem seat_formTime (u : State) : (seated (formTime u)).1 = (seated u).1 := by
  have hj (t : MT) : (seated (jumpTo u t)).1 = (seated u).1 := (seat_of_jumpView (jumpView_jumpTo u t)).trans rfl
  unfold formTime
  dsimp only
  split
  · exact (seat_setClocks ..).trans (hj _)
  · exact (seat_setClocks ..).trans (hj _)

theorem formTime_noPps {u : State} (h : ∀ i < 8, refType u i ≠ 3) :
    (formTime u).clocks.mt = MT.zero ∧ (formTime u).clocks.taiValid = false := by
  have hnone : (List.range 8).find? (fun i => decide (refType u i = 3) && decide ((refMon u i).state = .qualified)) = none :=
    List.find?_eq_none.2 fun i hi => by simp [h i (List.mem_range.1 hi)]
  have hmt : (jumpTo u MT.zero).clocks.mt = MT.zero := jumpTo_mt u MT.zero
  unfold formTime
  simp only [hnone, Option.bind_none]
  generalize jumpTo u MT.zero = v at hmt ⊢
  exact ⟨hmt, rfl⟩

/-- The member has become the Root. -/
def takesRoot (s : State) : State :=
  setGrove s (fun g => { g with role := .root, claimRun := 0, rootEpoch := s.epoch, rootSince := now s })

/-- The grove forms: it had no Root. -/
def groveForms (s : State) : Bool := decide (s.grove.state ≠ 3) && decide (s.grove.rootDevice = 0xFFFF)

/-- The new Root ends a round trip's drill, and is JOINED. -/
def rootSettles (u : State) : State :=
  let u := if u.grove.drillState = 3 then drillEnds u 2 0 else u
  if u.grove.state = 1 ∨ u.grove.state = 2 then markJoined (setGrove u (fun g => { g with firstJoin := false })) else u

theorem seated_rootSettles (u : State) : seated (rootSettles u) = seated u := by
  unfold rootSettles
  dsimp only
  have hd : seated (if u.grove.drillState = 3 then drillEnds u 2 0 else u) = seated u := by split <;> rfl
  generalize ite (u.grove.drillState = 3) _ _ = v at hd ⊢
  split
  · exact (seated_of_elected (elected_markJoined (c := 0) _)).trans hd
  · exact hd

theorem rootIncumbency_spec (h : s.grove.role = .claiming) (hn : 64 ≤ s.grove.claimRun) : ∃ t, exec .rootIncumbency s = .next t ∧
    seated t = seated (if groveForms s then formTime (takesRoot s) else takesRoot s) := by
  have hc : 0x5019 ∉ claimCodes := by decide
  refine ⟨rootSteers (hearClaims (rootSettles (if groveForms s then formTime (takesRoot s) else takesRoot s))), ?_, ?_⟩
  · show execRootIncumbency s = _
    unfold execRootIncumbency ok
    exact if_pos (by simp [h, hn])
  · exact ((seated_of_elected (elected_rootSteers _ hc)).trans (seated_of_elected (elected_hearClaims _ hc))).trans (seated_rootSettles _)

theorem rootIncumbency_idle (h : s.grove.role ≠ .claiming ∨ s.grove.claimRun < 64) : exec .rootIncumbency s = .next s := by
  show execRootIncumbency s = _
  unfold execRootIncumbency ok
  refine if_neg fun hg => ?_
  simp only [Bool.and_eq_true, decide_eq_true_eq] at hg
  exact h.elim (· hg.1) fun h => by omega

theorem rootIncumbency_takes (h : s.grove.role = .claiming) (hn : 64 ≤ s.grove.claimRun) :
    ∃ t, exec .rootIncumbency s = .next t ∧ t.grove.role = .root ∧ t.grove.claimRun = 0 ∧ t.grove.rootEpoch = s.epoch ∧ t.epoch = s.epoch ∧
      (s.grove.state ≠ 3 ∧ s.grove.rootDevice = 0xFFFF → (∀ i < 8, refType s i ≠ 3) → t.clocks.mt = MT.zero ∧ t.clocks.taiValid = false) ∧
      (¬ (s.grove.state ≠ 3 ∧ s.grove.rootDevice = 0xFFFF) → t.clocks.mt = s.clocks.mt ∧ t.clocks.taiValid = s.clocks.taiValid) := by
  obtain ⟨t, hx, ht⟩ := rootIncumbency_spec h hn
  have hforms : groveForms s = true ↔ s.grove.state ≠ 3 ∧ s.grove.rootDevice = 0xFFFF := by simp [groveForms]
  have hseat : (seated t).1 = (seated (takesRoot s)).1 := by
    rw [ht]
    split
    · exact seat_formTime _
    · rfl
  refine ⟨t, hx, congrArg (fun w => w.1) hseat, congrArg (fun w => w.2.1) hseat, congrArg (fun w => w.2.2.1) hseat, congrArg (fun w => w.2.2.2) hseat,
    fun hf hp => ?_, fun hf => ?_⟩
  · rw [if_pos (hforms.2 hf)] at ht
    obtain ⟨hm, hv⟩ := formTime_noPps (u := takesRoot s) hp
    exact ⟨(congrArg (fun w => w.2.1) ht).trans hm, (congrArg (fun w => w.2.2) ht).trans hv⟩
  · rw [if_neg (mt hforms.1 hf)] at ht
    exact ⟨congrArg (fun w => w.2.1) ht, congrArg (fun w => w.2.2) ht⟩

end

/-! ### Drills (R414) -/

theorem sameItem_drill {a : SchedAct} {d : Option Nat} : sameItem a (.drill d) = true ↔ ∃ d', a = .drill d' := by
  cases a <;> simp [sameItem]

theorem schedTaken_drill {s : State} {t : MT} {d : Option Nat} :
    schedTaken s t (.drill d) = true ↔ ∃ x ∈ s.clocks.sched, x.target = t ∧ ∃ d', x.act = .drill d' := by
  unfold schedTaken
  simp only [List.any_eq_true, Bool.and_eq_true, decide_eq_true_eq, sameItem_drill]

section
variable {s : State} {r : Req} {target : MT}

section
variable {i : Instr} {range : Bool} {d : Option Nat} (hx : exec i s = drillArm s r range d target) (h : Served s r 0x0E01 custodian)
  (hg : (range && isPeriod target) = true)
include hx h hg

theorem drillArm_late (ht : inTime (now s) target = false) : Refuses i s r eLate := by
  refine writeCmd_refuses hx h rfl hg (if_pos ?_)
  rw [taken_now, ht]; rfl

section
variable (ht : inTime (now s) target = true)
include ht

theorem drillArm_state (hs : s.grove.role ≠ .root ∨ standbyKnown (taken s r) = false ∨ dormant s = true) : Refuses i s r eState := by
  refine writeCmd_refuses hx h rfl hg ((if_neg ?_).trans (if_pos ?_))
  · rw [taken_now, ht]; decide
  · rw [taken_grove, taken_dormant]
    obtain hs | hs | hs := hs <;> simp [hs]

variable (hr : s.grove.role = .root) (hk : standbyKnown (taken s r) = true) (hd : dormant s = false)
include hr hk hd

theorem drillArm_conflict (hc : schedTaken s target (.drill d) = true) : Refuses i s r eConflict := by
  refine writeCmd_refuses hx h rfl hg ((if_neg ?_).trans ((if_neg ?_).trans (if_pos ?_)))
  · rw [taken_now, ht]; decide
  · rw [taken_grove, taken_dormant]; simp [hr, hk, hd]
  · exact hc

theorem drillArm_full (hc : schedTaken s target (.drill d) = false) (hm : schedRoom s 1 = false) : Refuses i s r eCapacity := by
  refine writeCmd_refuses hx h rfl hg ((if_neg ?_).trans ((if_neg ?_).trans ((if_neg ?_).trans (if_pos ?_))))
  · rw [taken_now, ht]; decide
  · rw [taken_grove, taken_dormant]; simp [hr, hk, hd]
  · rw [taken_schedTaken, hc]; decide
  · rw [taken_schedRoom, hm]; rfl

theorem drillArm_armed (hc : schedTaken s target (.drill d) = false) (hm : schedRoom s 1 = true) :
    Accepts i s r { schedAdd (taken s r) target [.drill d] with grove := { s.grove with drillState := 1 } } := by
  refine writeCmd_accepts hx h rfl hg ((if_neg ?_).trans ((if_neg ?_).trans ((if_neg ?_).trans (if_neg ?_))))
  · rw [taken_now, ht]; decide
  · rw [taken_grove, taken_dormant]; simp [hr, hk, hd]
  · rw [taken_schedTaken, hc]; decide
  · rw [taken_schedRoom, hm]; decide

end

/-- What a command that arms a drill answers. -/
theorem drillArm_arms :
    (inTime (now s) target = false → Refuses i s r eLate) ∧
    (inTime (now s) target = true → s.grove.role ≠ .root ∨ standbyKnown (taken s r) = false ∨ dormant s = true → Refuses i s r eState) ∧
    (inTime (now s) target = true → s.grove.role = .root → standbyKnown (taken s r) = true → dormant s = false →
      (schedTaken s target (.drill d) = true → Refuses i s r eConflict) ∧
      (schedTaken s target (.drill d) = false → schedRoom s 1 = false → Refuses i s r eCapacity) ∧
      (schedTaken s target (.drill d) = false → schedRoom s 1 = true →
        Accepts i s r { schedAdd (taken s r) target [.drill d] with grove := { s.grove with drillState := 1 } })) :=
  ⟨drillArm_late hx h hg, drillArm_state hx h hg, fun ht hr hk hd => ⟨drillArm_conflict hx h hg ht hr hk hd, drillArm_full hx h hg ht hr hk hd,
    drillArm_armed hx h hg ht hr hk hd⟩⟩

end

section
variable (h : Served s r 0x0E01 custodian)
include h

theorem roundTrip_dwell {dwell : Word} (hd : dwell = 0 ∨ 3600 < dwell.toNat) : Refuses (.roundTrip r 0 dwell target) s r eRange := by
  refine writeCmd_outOfRange rfl h rfl ?_
  obtain rfl | hd := hd
  · rfl
  · simp [Nat.not_le.2 hd]

variable {dwell : Word} (hp : isPeriod target = true)
include hp

theorem drillCancel_late (ht : inTime (now s) target = false) : Refuses (.drillCancel r 0 dwell target) s r eLate := by
  refine writeCmd_refuses rfl h rfl hp (if_pos ?_)
  rw [taken_now, ht]; rfl

variable (ht : inTime (now s) target = true)
include ht

theorem drillCancel_none (hn : ∀ x ∈ s.clocks.sched, ∀ d, x.act ≠ .drill d) : Refuses (.drillCancel r 0 dwell target) s r eState := by
  refine writeCmd_refuses rfl h rfl hp ((if_neg ?_).trans (if_pos ?_))
  · rw [taken_now, ht]; decide
  · have hf : schedTaken s target (.drill none) = false := Bool.eq_false_iff.2 fun hc => by
      obtain ⟨x, hx, -, d, hd⟩ := schedTaken_drill.1 hc
      exact hn x hx d hd
    rw [taken_schedTaken, hf]; rfl

theorem drillCancel_cancels {d : Option Nat} (hm : ⟨target, .drill d, false⟩ ∈ s.clocks.sched) :
    ∃ t, Accepts (.drillCancel r 0 dwell target) s r t ∧
      (∀ x ∈ t.clocks.sched, x ∈ s.clocks.sched ∧ ¬ (x.target = target ∧ ∃ d, x.act = .drill d)) ∧
      t.grove = { s.grove with drillResult := 3, drillMt := now s, drillState := 0 } := by
  refine ⟨_, writeCmd_accepts rfl h rfl hp ((if_neg ?_).trans (if_neg ?_)), fun x hx => ?_, rfl⟩
  · rw [taken_now, ht]; decide
  · rw [taken_schedTaken, schedTaken_drill.2 ⟨_, hm, rfl, d, rfl⟩]; decide
  · obtain ⟨hin, hkept⟩ := List.mem_filter.1 hx
    refine ⟨hin, fun ⟨hxt, hd⟩ => ?_⟩
    dsimp only at hkept
    rw [decide_eq_true hxt, sameItem_drill.2 hd] at hkept
    exact nomatch hkept

end

/-- The new Root of a round trip has been incumbent for `d` seconds. -/
def dwellEnds (s : State) (d : Nat) : Prop := s.grove.role = .root ∧ isDue (now s) (mtPlus s.grove.rootSince (msUnits s (1000 * d))) = true

theorem drillDwellEnd_ends {d : Nat} (ha : s.grove.drillAsked = some d) (he : dwellEnds s d) : ∃ t, exec .drillDwellEnd s = .next t ∧
    t.grove.role = .withheld ∧ t.grove.drillState = 2 ∧ t.grove.withheldAt = now s ∧ t.grove.drillDwell = none ∧ t.grove.drillAsked = none := by
  let u := setGrove s (fun g => { g with drillAsked := none })
  have hw : withhold u none = { u with grove := { u.grove with
      role := .withheld, drillState := 2, drillDwell := none, drillTold := false, withheldAt := now u, claimRun := 0 } } := by
    unfold withhold
    exact if_pos he.1
  have ho := (office_of_elected (elected_hearClaims (c := 0) (withhold u none) (by decide))).trans (congrArg (fun v : State => office v.grove) hw)
  refine ⟨hearClaims (withhold u none), ?_, congrArg Grove.role ho, congrArg Grove.drillState ho, congrArg Grove.withheldAt ho,
    congrArg Grove.drillDwell ho, congrArg Grove.drillAsked ho⟩
  show execDrillDwellEnd s = _
  unfold execDrillDwellEnd ok
  rw [ha]
  exact if_pos (by simp [he.1, he.2])

theorem drillDwellEnd_waits {d : Nat} (ha : s.grove.drillAsked = some d) (he : ¬ dwellEnds s d) : exec .drillDwellEnd s = .next s := by
  show execDrillDwellEnd s = _
  unfold execDrillDwellEnd ok
  rw [ha]
  exact if_neg fun hc => he (by simpa [dwellEnds] using hc)

theorem drillDwellEnd_none (ha : s.grove.drillAsked = none) : exec .drillDwellEnd s = .next s := by
  show execDrillDwellEnd s = _
  unfold execDrillDwellEnd
  rw [ha]; rfl

theorem drillNoTakeover_spec (hr : s.grove.role = .withheld) (hd : isDue (now s) (mtPlus s.grove.withheldAt (msUnits s 1000)) = true) :
    ∃ t, exec .drillNoTakeover s = .next t ∧ t.grove.role = .claiming ∧ t.grove.drillResult = 4 ∧ t.grove.drillState = 0 ∧
      t.grove.drillMt = now s ∧ tget 0 t.events.det 0x5016 = satInc31 (tget 0 s.events.det 0x5016) := by
  let u := setGrove (drillEnds s 4 0) (fun g => { g with role := .claiming, claimRun := 0 })
  have he := elected_hearClaims (c := 0x5016) u (by decide)
  have ho := office_of_elected he
  have hcount : tget 0 (hearClaims u).events.det 0x5016 = tget 0 s.events.det 0x5016 := (count_of_elected he).trans rfl
  refine ⟨detect (hearClaims u) 0x5016 devUnit 0, ?_, ?_⟩
  · show execDrillNoTakeover s = _
    unfold execDrillNoTakeover ok
    exact if_pos (by simp [hr, hd])
  · rw [detect_grove, detect_count_self, hcount]
    exact ⟨congrArg Grove.role ho, congrArg Grove.drillResult ho, congrArg Grove.drillState ho, congrArg Grove.drillMt ho, rfl⟩

end

/-! ### Time steps (R417) -/

section
variable {s : State} {up : BitVec 64} {ns : Int} {a : Nat}

/-- The state in which the count has been stepped. -/
def stepped (s : State) (up : BitVec 64) (ns : Int) : State :=
  setGrove (rampEndpoints (jumpTo s ⟨up, 0⟩)) (fun g => { g with stepFade := none, timeErrNs := BitVec.ofInt 64 ns, countErr := 0 })

theorem jumpView_ramped (s : State) (t : MT) : jumpView (rampEndpoints (jumpTo s t)) = jumpView { s with clocks := { s.clocks with mt := t } } :=
  jumpView_rampEndpoints.trans (jumpView_jumpTo s t)

theorem stepped_spec (s : State) (up : BitVec 64) (ns : Int) : (stepped s up ns).clocks.mt = ⟨up, 0⟩ ∧ (stepped s up ns).clocks.sched = s.clocks.sched ∧
    undated (stepped s up ns).grove = undated { s.grove with stepFade := none, timeErrNs := BitVec.ofInt 64 ns, countErr := 0 } ∧
    (stepped s up ns).events.det = s.events.det := by
  obtain ⟨hm, hs, hg, hd⟩ := parts_of_jumpView (jumpView_ramped s ⟨up, 0⟩)
  unfold stepped
  generalize rampEndpoints (jumpTo s ⟨up, 0⟩) = u at hm hs hg hd ⊢
  exact ⟨hm, hs, congrArg (fun g : Grove => { g with stepFade := none, timeErrNs := BitVec.ofInt 64 ns, countErr := 0 }) hg, hd⟩

theorem fresh_setGrove {u : State} (h : Fresh u) (f : Grove → Grove) : Fresh (setGrove u f) := fresh_of_boxes rfl h

theorem stepped_fresh (h : BoxesOk s) (up : BitVec 64) (ns : Int) : Fresh (stepped s up ns) :=
  fresh_setGrove (rampEndpoints_fresh (jumpTo_fresh h ⟨up, 0⟩)) _

theorem timeFar_iff {s : State} {e ns : Int} : timeFar s e (1000 * ns) = true ↔ 8 * onePeriod ≤ (e * onePeriod + 1000 * ns * rateHz s.clocks.rate).natAbs :=
  decide_eq_true_iff

variable (ha : s.grove.stepFade = some a)
include ha

theorem timeStep_waits (h : timeFar s (countError s up) (1000 * ns) = false ∨ (now s).count.toNat < a + 64 ∨ (now s).phase ≠ 0) :
    exec (.timeStep up ns) s = .next s := by
  show execTimeStep up ns s = _
  unfold execTimeStep ok
  rw [ha]
  refine if_pos ?_
  simp only [isPeriod, Bool.or_eq_true, Bool.not_eq_true', decide_eq_true_eq, decide_eq_false_iff_not]
  tauto

theorem timeStep_steps (hf : timeFar s (countError s up) (1000 * ns) = true) (hn : a + 64 ≤ (now s).count.toNat) (hp : (now s).phase = 0)
    (hd : ∀ x ∈ s.clocks.sched, isDue ⟨up, 0⟩ x.target = false) :
    exec (.timeStep up ns) s = .next (detect (stepped s up ns) 0x5014 devUnit (BitVec.ofInt 32 (countError s up))) := by
  obtain ⟨hm, hs, -⟩ := stepped_spec s up ns
  have hnone : applyWhere (stepped s up ns) (fun x => isDue (now (stepped s up ns)) x.target) = stepped s up ns :=
    applyWhere_none _ _ fun x hx => (congrArg (isDue · x.target) hm).trans (hd x (hs ▸ hx))
  show execTimeStep up ns s = _
  unfold execTimeStep ok
  rw [ha]
  refine (if_neg (by simp [isPeriod, hp, hf, hn])).trans ?_
  show Host.Outcome.next (detect (if 0 < countError s up then applyWhere (stepped s up ns) (fun x => isDue (now (stepped s up ns)) x.target)
    else stepped s up ns) 0x5014 devUnit (BitVec.ofInt 32 (countError s up))) = _
  rw [hnone, ite_self]

end

/-- Settles O48: whatever claims are heard, a member's own role and drills stay as they are, and a jump of the count keeps all but what is
stamped. -/
theorem rootAndTime : Obligations.RootAndTime := by
  intro s r dwell target
  refine ⟨fun hj hn hr hc => ⟨_, rootLost_spec hj hn hr hc, loseRoot_spec.2, loseRoot_spec.1⟩, rootLost_idle, rootIncumbency_takes,
    rootIncumbency_idle, fun h hp => ?_, ⟨fun d ha => ⟨drillDwellEnd_ends ha, drillDwellEnd_waits ha⟩, drillDwellEnd_none⟩, drillNoTakeover_spec,
    fun up ns a ha => ⟨fun h => ?_, fun hf hn hp hd => ?_⟩⟩
  · have hp : isPeriod target = true := decide_eq_true hp
    refine ⟨drillArm_arms rfl h hp, fun hlo hhi => drillArm_arms rfl h (by simp [hlo, hhi, hp]), roundTrip_dwell h, drillCancel_late h hp,
      drillCancel_none h hp, fun d ht hm => drillCancel_cancels h hp ht hm⟩
  · exact timeStep_waits ha (h.imp_left fun hf => Bool.eq_false_iff.2 (mt timeFar_iff.1 hf))
  · have hx := timeStep_steps ha (timeFar_iff.2 hf) hn hp hd
    have hfresh : Canon s → Fresh (stepped s up ns) := fun ⟨we, _, _, wp, _⟩ => stepped_fresh ⟨we, wp⟩ up ns
    obtain ⟨hm, hs, hg, hdet⟩ := stepped_spec s up ns
    generalize stepped s up ns = u at hx hfresh hm hs hg hdet
    refine ⟨_, hx, ?_, ?_, ?_, ?_, fun hc => ?_⟩
    · rw [detect_clocks, hm]
    · rw [detect_clocks, hs]
    · rw [detect_grove]
      exact congrArg (fun g : Grove => { g with
        withheldAt := s.grove.withheldAt, rootSince := s.grove.rootSince, reasm := s.grove.reasm, records := s.grove.records }) hg
    · exact (detect_count_self ..).trans (hdet ▸ rfl)
    · obtain ⟨-, he, hq⟩ := hfresh hc
      exact ⟨fun k => (congrArg Engine.prepared (detect_eng ..)).trans (he k), fun k => (congrArg Port.inFifo (detect_port ..)).trans (hq k)⟩

end Sys2Proof.Machine
end

section
/-! SYNC_IN, the substitutes of a gap, and the losses of the crystal, SCPLL and LKPLL (R92, R95, R123, R126 to R128, R504). -/
namespace Sys2Proof.Machine

/-! ### SYNC_IN (R127, R128) -/

/-- CLKOUT0 to CLKOUT3 as SYNC_IN leaves their phases: an enabled divider restarts at cycle `at4`. -/
def restartOutputs (k : ClockCfg) (at4 : Nat) (l : List Nat) (t : Tbl Nat) : Tbl Nat :=
  l.foldl (fun t n => let m := tget 0 k.mclkOut n; if m = 0 then t else tset 0 t n (at4 % 2 ^ (m - 1))) t

/-- The clocks once every enabled divider restarts at cycle `at4`. -/
def restartDividers (c : Clocks) (at4 : Nat) : Clocks :=
  let k := c.clkoutApplied
  { c with
    wckPhase := if k.wckMode = 0 then c.wckPhase else at4 % (512 / wckMul k.wckMode)
    outPhase := restartOutputs k at4 (List.range 4) c.outPhase }

theorem restartOutputs_reads {k : ClockCfg} {at4 j : Nat} (hj : tget 0 k.mclkOut j ≠ 0) (l : List Nat) {t : Tbl Nat} (w : Tbl.wf 0 t = true)
    (h : j ∈ l ∨ tget 0 t j = at4 % 2 ^ (tget 0 k.mclkOut j - 1)) :
    tget 0 (restartOutputs k at4 l t) j = at4 % 2 ^ (tget 0 k.mclkOut j - 1) := by
  induction l generalizing t with
  | nil => exact h.resolve_left (nomatch ·)
  | cons n l ih =>
    by_cases hn : tget 0 k.mclkOut n = 0
    · have hne : j ≠ n := fun e => hj (e ▸ hn)
      simpa [restartOutputs, hn] using ih w (h.imp_left fun hl => (List.mem_cons.1 hl).resolve_left hne)
    · have hset := ih (tset_wf n (at4 % 2 ^ (tget 0 k.mclkOut n - 1)) w) (by
        rw [tget_tset _ _ _ w]
        by_cases hne : j = n
        · exact .inr (by simp [hne])
        · exact h.imp (fun hl => (List.mem_cons.1 hl).resolve_left hne) fun ht => (if_neg hne).trans ht)
      simpa [restartOutputs, hn] using hset

section
variable {s : State} {mclk : Nat}

theorem syncIn_off (h : s.clocks.clkoutApplied.syncMode = 0) : exec (.syncIn mclk) s = .next s :=
  if_pos (by simp [h])

/-- An edge that takes effect; one of mode ONCE sets SYNC_MODE to 0. -/
theorem syncIn_restarts (h : 1 ≤ s.clocks.clkoutApplied.syncMode) (hb : s.power.dev ≠ .booting) (hh : s.clocks.hopping = false) :
    exec (.syncIn mclk) s = .next
      (if s.clocks.clkoutApplied.syncMode = 1 then
        { s with
          cfg := { s.cfg with clocks := { s.cfg.clocks with syncMode := 0 } }
          clocks := { restartDividers s.clocks (mclk + 4) with clkoutApplied := { s.clocks.clkoutApplied with syncMode := 0 } } }
      else { s with clocks := restartDividers s.clocks (mclk + 4) }) := by
  have hruns : ¬ (s.clocks.clkoutApplied.syncMode = 0 || s.power.dev = .booting || s.clocks.hopping) = true := by
    simp [hb, hh]; omega
  refine (if_neg hruns).trans ?_
  split <;> rfl

end

/-! ### The substitutes of a gap (R123) -/

section
variable {s : State} {u : Byte} {i : Word}

/-- An endpoint that has been starved for 64 base periods and has no fade yet begins one from full gain. -/
theorem gapFade_begins {n : Nat} {f : Option Fader} (hf : f = none) (h : 64 ≤ n) : gapFade n f = some ⟨false, 64, 0, 1, 1⟩ := by
  subst hf
  exact if_neg (by omega)

theorem gapFade_waits {n : Nat} {f : Option Fader} (h : n < 64) : gapFade n f = f := if_pos h

theorem gapSubstitute_gateOpen (ep : Endpoint) (h : s.clocks.gateOpen = true) : exec (.eclkGapSubstitute ep) s = .next s := if_pos h

variable (h : s.clocks.gateOpen = false)
include h

theorem gapSubstitute_bridge {e : EndPoint} (he : e = tget {} (bridge s u.toNat).egress.ends i.toNat) :
    exec (.eclkGapSubstitute ⟨4, u, i⟩) s = .next (setBridge s u.toNat { bridge s u.toNat with egress := { (bridge s u.toNat).egress with
      ends := tset {} (bridge s u.toNat).egress.ends i.toNat { e with starve := gapFade e.starved e.starve } } }) := by
  subst he
  exact if_neg (ne_true_of_eq_false h)

theorem gapSubstitute_link {e : EndPoint} (he : e = tget {} (link s u.toNat).txEnds i.toNat) :
    exec (.eclkGapSubstitute ⟨5, u, i⟩) s = .next (setLink s u.toNat { link s u.toNat with
      txEnds := tset {} (link s u.toNat).txEnds i.toNat { e with starve := gapFade e.starved e.starve } }) := by
  subst he
  exact if_neg (ne_true_of_eq_false h)

theorem gapSubstitute_port {k : Byte} (hk : k = 2 ∨ k = 3) {p : Nat} (hp : p = if k = 2 then u.toNat else 16 + u.toNat)
    {e : Chan} (he : e = chan (port s p) true i.toNat) : exec (.eclkGapSubstitute ⟨k, u, i⟩) s =
      .next (setPort s p (setChan (port s p) true i.toNat { e with starve := gapFade e.starved e.starve })) := by
  subst he hp
  rcases hk with rfl | rfl <;> exact if_neg (ne_true_of_eq_false h)

end

/-- What a port's outbound channel reads after a write. -/
theorem chan_setChan_out {q : Port} (w : Tbl.wf {} q.chOut = true) (j : Nat) (e : Chan) : chan (setChan q true j e) true j = e :=
  tget_tset_self _ w

/-! ### Every path loses its lane clock (R92, R388, R389) -/

/-- `foldl_each` over a list of keys: what a step brings about for its key, and the steps of the others leave. -/
theorem foldl_reaches {β : Type} {inv : State → Prop} {get : State → Nat → β} {P : β → Prop} {step : State → Nat → State}
    (hinv : ∀ u x, inv u → inv (step u x)) (hself : ∀ u x, inv u → P (get (step u x) x))
    (hother : ∀ u x k, k ≠ x → get (step u x) k = get u k) {l : List Nat} {u : State} (hu : inv u) {k : Nat} (hk : k ∈ l) :
    P (get (l.foldl step u) k) := by
  have h := foldl_each (inv := inv) (get := fun u k => k ∈ l → P (get u k)) (P := (·)) (step := fun u (x : Nat × Unit) => step u x.1)
    (fun u x => hinv u x.1) (fun u x hu _ => hself u x.1 hu) (fun u x i hi => by simp only [hother u x.1 i hi]) (l.map (·, ())) hu
    (fun i => by by_cases hi : i ∈ l <;> simp [hi]) k hk
  rwa [List.foldl_map] at h

section
variable (s : State) (l : Nat) (b : Bool)

theorem path_congr {s t : State} {l : Nat} (h : link s l = link t l) (b : Bool) : path s l b = path t l b := by unfold path; rw [h]

/-- A path that is not off reads back in every state: its link differs from what an unlisted one reads as. -/
theorem path_setPath {v : Path} (hv : v.state ≠ .off) (k : Nat) (c : Bool) :
    path (setPath s l b v) k c = if k = l ∧ c = b then v else path s k c := by
  have hlink (x : Link) (hx : x.pathA.state ≠ .off ∨ x.pathB.state ≠ .off) : link (setLink s l x) l = x :=
    link_setLink_some s fun e => hx.elim (· (congrArg (·.pathA.state) e)) (· (congrArg (·.pathB.state) e))
  by_cases hk : k = l
  · subst hk
    cases b <;> cases c <;> simp [path, setPath, hlink, hv]
  · rw [if_neg fun h => hk h.1]
    unfold setPath
    split <;> exact path_congr (link_setLink_ne _ _ hk) c

/-- A path leaves its state, in every state. -/
theorem path_pathOut_state {st : PathState} (hst : st ≠ .off) (k : Nat) (c : Bool) :
    (path (pathOut s l b st) k c).state = if k = l ∧ c = b then st else (path s k c).state := by
  unfold pathOut
  dsimp only
  split <;> (rw [path_setPath _ _ _ hst, apply_ite Path.state])

/-- The state of a path that has lost its lane clock. -/
def lostState (p : PathState) : PathState := if p = .off then .off else .signal

theorem lostState_eq_off {p : PathState} : lostState p = .off ↔ p = .off := by unfold lostState; split <;> simp [*]

theorem lostState_ne_up (p : PathState) : lostState p ≠ .up := by unfold lostState; split <;> decide

/-- One path loses its lane clock. -/
def laneLost (s : State) (l : Nat) (b : Bool) : State :=
  if (path s l b).state = .off then s
  else if pathUp s l b then detect (pathOut s l b .signal) 0x5001 l (pathArg b 1) else pathOut s l b .signal

/-- The lane clocks of both paths of a link are lost. -/
def lanesLost (s : State) (l : Nat) : State := [false, true].foldl (fun s b => laneLost s l b) s

/-- Links that have been up are down. -/
def linksDown (s : State) (was : List Nat) : State := was.foldl (fun s l => detect (linkDown s l) 0x5003 l 0) s

theorem allPathsDown_eq : allPathsDown s = linksDown ((List.range 4).foldl lanesLost s) ((List.range 4).filter (linkUp s)) := rfl

theorem path_laneLost_state (k : Nat) (c : Bool) :
    (path (laneLost s l b) k c).state = if k = l ∧ c = b then lostState (path s k c).state else (path s k c).state := by
  unfold laneLost lostState
  by_cases hoff : (path s l b).state = .off
  · rw [if_pos hoff]
    by_cases hk : k = l ∧ c = b
    · obtain ⟨rfl, rfl⟩ := hk; simp [hoff]
    · rw [if_neg hk]
  · have hout := path_pathOut_state s l b (st := .signal) (by decide) k c
    have hdet (x : Long) : path (detect (pathOut s l b .signal) 0x5001 l x) k c = path (pathOut s l b .signal) k c :=
      path_congr (detect_link ..) c
    rw [if_neg hoff, apply_ite (fun u => (path u k c).state), hdet, ite_self, hout]
    by_cases hk : k = l ∧ c = b
    · obtain ⟨rfl, rfl⟩ := hk; simp [hoff]
    · rw [if_neg hk, if_neg hk]

theorem path_lanesLost_state (k : Nat) (c : Bool) :
    (path (lanesLost s l) k c).state = if k = l then lostState (path s k c).state else (path s k c).state := by
  show (path (laneLost (laneLost s l false) l true) k c).state = _
  rw [path_laneLost_state, path_laneLost_state]
  cases c <;> simp

theorem linkUp_eq_false : linkUp s l = false ↔ ∀ b, (path s l b).state ≠ .up := by simp [linkUp, pathUp]

theorem linkUp_lanesLost : linkUp (lanesLost s l) l = false := by
  refine (linkUp_eq_false ..).2 fun b => ?_
  rw [path_lanesLost_state, if_pos rfl]
  exact lostState_ne_up _

theorem linkUp_lanesLost_ne {k : Nat} (h : k ≠ l) : linkUp (lanesLost s l) k = linkUp s k := by
  simp [linkUp, pathUp, path_lanesLost_state, h]

theorem off_lanesLost (k : Nat) (c : Bool) : decide ((path (lanesLost s l) k c).state = .off) = decide ((path s k c).state = .off) := by
  rw [path_lanesLost_state]
  split
  · simp only [lostState_eq_off]
  · rfl

/-- A write that leaves the paths of a link, in every state in which one of them is not off. -/
theorem path_setLink {x : Link} (h : ∃ b, (path s l b).state ≠ .off) (hA : x.pathA = (link s l).pathA) (hB : x.pathB = (link s l).pathB)
    (k : Nat) (c : Bool) : path (setLink s l x) k c = path s k c := by
  by_cases hk : k = l
  · have hx : x ≠ {} := by
      rintro rfl
      obtain ⟨b, hb⟩ := h
      have hoff : path s l b = {} := by unfold path; rw [← hA, ← hB, ite_self]
      exact hb (congrArg Path.state hoff)
    subst hk
    unfold path
    rw [link_setLink_some _ hx, hA, hB]
  · exact path_congr (link_setLink_ne _ _ hk) c

theorem path_linkDown (h : ∃ b, (path s l b).state ≠ .off) (k : Nat) (c : Bool) : path (linkDown s l) k c = path s k c := by
  have hjoin (k : Nat) (c : Bool) : path (endJoin s l 0) k c = path s k c := by
    unfold endJoin
    dsimp only
    split <;> exact path_setLink s l h (by rfl) (by rfl) k c
  have hjoined : ∃ b, (path (endJoin s l 0) l b).state ≠ .off := by simpa only [hjoin] using h
  show path (setLink (endJoin s l 0) l _) k c = _
  exact (path_setLink _ l hjoined (by rfl) (by rfl) k c).trans (hjoin k c)

theorem path_linksDown (was : List Nat) (h : ∀ l ∈ was, ∃ b, (path s l b).state ≠ .off) (k : Nat) (c : Bool) :
    path (linksDown s was) k c = path s k c := by
  refine List.foldlRecOn (motive := fun u => ∀ k c, path u k c = path s k c) was _ (fun _ _ => rfl) (fun u hu l hl k c => ?_) k c
  have hl : ∃ b, (path u l b).state ≠ .off := by simpa only [hu] using h l hl
  exact (path_congr (detect_link ..) c).trans ((path_linkDown u l hl k c).trans (hu k c))

/-- In every state, no link is up once the lane clocks are lost. -/
theorem linkUp_allPathsDown {l : Nat} (hl : l < 4) : linkUp (allPathsDown s) l = false := by
  have hlost : linkUp ((List.range 4).foldl lanesLost s) l = false :=
    foldl_reaches (inv := fun _ => True) (get := linkUp) (P := (· = false)) (fun _ _ _ => trivial) (fun u x _ => linkUp_lanesLost u x)
      (fun u x _ hk => linkUp_lanesLost_ne u x hk) trivial (List.mem_range.2 hl)
  have hwas : ∀ k ∈ (List.range 4).filter (linkUp s), ∃ b, (path ((List.range 4).foldl lanesLost s) k b).state ≠ .off := by
    intro k hk
    obtain ⟨b, hb⟩ : ∃ b, (path s k b).state = .up := by
      by_contra hn
      exact ne_true_of_eq_false ((linkUp_eq_false s k).2 (not_exists.1 hn)) (List.mem_filter.1 hk).2
    refine ⟨b, of_decide_eq_false ?_⟩
    rw [foldl_keeps (fun u => decide ((path u k b).state = .off)) (fun u x => off_lanesLost u x k b), hb]
    rfl
  rw [allPathsDown_eq, linkUp_eq_false]
  intro b
  rw [path_linksDown _ _ hwas]
  exact (linkUp_eq_false ..).1 hlost b

/-- Everything but the links, the grove and the records. -/
def besideLinks (s : State) : State := { s with links := [], grove := {}, events := {} }

theorem besideLinks_detect (k u : Nat) (x : Long) : besideLinks (detect s k u x) = besideLinks s := by simp [besideLinks]

theorem besideLinks_pathOut (st : PathState) : besideLinks (pathOut s l b st) = besideLinks s := by
  unfold pathOut setPath
  dsimp only
  split <;> split <;> rfl

theorem besideLinks_laneLost : besideLinks (laneLost s l b) = besideLinks s := by
  unfold laneLost
  split
  · rfl
  · split
    · rw [besideLinks_detect, besideLinks_pathOut]
    · exact besideLinks_pathOut ..

theorem besideLinks_linkDown : besideLinks (linkDown s l) = besideLinks s := by
  unfold linkDown endJoin
  dsimp only
  split <;> rfl

theorem besideLinks_allPathsDown : besideLinks (allPathsDown s) = besideLinks s := by
  rw [allPathsDown_eq]
  refine (foldl_keeps besideLinks (fun u k => ?_) _ _).trans (foldl_keeps besideLinks (fun u k => ?_) _ s)
  · rw [besideLinks_detect, besideLinks_linkDown]
  · exact foldl_keeps besideLinks (f := fun u b => laneLost u k b) (fun u b => besideLinks_laneLost u k b) _ u

theorem allPathsDown_clocks : (allPathsDown s).clocks = s.clocks := congrArg (·.clocks) (besideLinks_allPathsDown s)
theorem allPathsDown_power : (allPathsDown s).power = s.power := congrArg (·.power) (besideLinks_allPathsDown s)

end

/-! ### The crystal and LKPLL (R92, R95, R504) -/

section
variable {s : State}

theorem endRest_now (s : State) : now (endRest s) = now s := by
  have he : endRest s = if ownLow s then (List.range 4).foldl (fun s l => steerRate s l (link s l).lowPeer) (restEnds s) else s := rfl
  rw [he]
  split
  · exact (now_of_vital (vital_linksUp (c := 0) (restEnds s) (by decide))).trans rfl
  · rfl

/-- A device in FAULT keeps the time at which it came there. -/
theorem enterFault_mt (cause : Nat) (hr : running s = true) : (enterFault s cause).power.faultMt = now s := by
  unfold enterFault
  rw [if_pos hr]
  exact (endRest_now _).trans (now_of_vital (vital_gateEngs 0 s))

theorem xoLost_spec (hx : s.clocks.xoLost = false) (hr : running s = true) : ∃ t, exec .xoLost s = .next t ∧ t.power.dev = .fault ∧
    t.power.faultCause = 1 ∧ t.power.faultMt = now s ∧ t.clocks.xoLost = true ∧ t.clocks.scpllLock = false ∧ t.clocks.lkpllLock = false ∧
    ∀ l < 4, linkUp t l = false := by
  obtain ⟨hdev, hcause, -⟩ := enterFault_spec s 1 hr
  refine ⟨_, if_neg (ne_true_of_eq_false hx), ?_⟩
  rw [allPathsDown_power, allPathsDown_clocks, detect_power, detect_clocks]
  exact ⟨hdev, hcause, enterFault_mt 1 hr, rfl, rfl, rfl, fun l hl => linkUp_allPathsDown _ hl⟩

theorem lkpllUnlock_spec (h : s.clocks.lkpllLock = true) :
    ∃ t, exec .lkpllUnlock s = .next t ∧ t.clocks.lkpllLock = false ∧ ∀ l < 4, linkUp t l = false := by
  refine ⟨_, if_pos h, ?_, fun l hl => linkUp_allPathsDown _ hl⟩
  rw [allPathsDown_clocks, detect_clocks]
  rfl

end

/-! ### SCPLL (R95, R454, R504, R508) -/

section
variable (s : State)

/-- Everything that admissions given up leave: all but the streams, the banks, and what is staged and pending. -/
def besideStreams (s : State) : State :=
  { s with streams := [], leaving := [], mem := { s.mem with banks := [] }, clocks := { s.clocks with staged := [], sched := [] } }

theorem besideStreams_unmap (e : Nat) (o : Option Nat) (t : MT) : besideStreams (unmap s e o t) = besideStreams s := by
  unfold unmap
  dsimp only
  rw [foldl_keeps besideStreams fun u kv => ?_]
  · split <;> rfl
  · split
    · rfl
    · refine foldl_keeps besideStreams (fun u out => ?_) _ _
      split <;> split <;> rfl

theorem besideStreams_markEmpty : besideStreams (markEmpty s) = besideStreams s := by
  unfold markEmpty
  refine foldl_keeps besideStreams (fun u b => ?_) _ _
  dsimp only
  split <;> rfl

theorem besideStreams_freeEntry (e : Nat) (t : MT) : besideStreams (freeEntry s e t) = besideStreams s := by
  unfold freeEntry
  rw [besideStreams_markEmpty]
  split <;> exact besideStreams_unmap s e none t

theorem besideStreams_releaseShare (e : Nat) : besideStreams (releaseShare s e) = besideStreams s := by
  unfold releaseShare
  dsimp only
  split
  · exact besideStreams_freeEntry ..
  · split
    · split <;> rfl
    · rfl

theorem besideStreams_releasePending : besideStreams (releasePending s) = besideStreams s := by
  unfold releasePending
  refine foldl_keeps besideStreams (fun u kv => ?_) _ _
  split
  · rfl
  · exact besideStreams_releaseShare ..

/-- Open transfers of the sessions are lost. -/
def endTransfers (s : State) : State :=
  (List.range 16).foldl (fun s k => if (session s k).transfer.isSome then setSession s k { session s k with transfer := none } else s) s

theorem endTransfers_clocks : (endTransfers s).clocks = s.clocks :=
  foldl_keeps State.clocks (fun u k => by split <;> rfl) _ s

theorem endTransfers_none {s : State} (w : Tbl.wf {} s.mgmt.sessions = true) {j : Nat} (hj : j < 16) :
    (session (endTransfers s) j).transfer = none := by
  refine foldl_reaches (inv := fun u => Tbl.wf {} u.mgmt.sessions = true) (get := session) (P := (·.transfer = none)) (fun u k hu => ?_)
    (fun u k hu => ?_) (fun u k i hi => ?_) w (List.mem_range.2 hj)
  · split
    · exact setSession_wf _ _ hu
    · exact hu
  · split
    · rw [session_setSession_self _ _ hu]
    · next h => exact Option.not_isSome_iff_eq_none.1 h
  · split
    · exact session_setSession_ne _ _ hi
    · rfl

/-- SCPLL's lock, and the sessions. -/
def coreView (s : State) : Bool × Tbl Session := (s.clocks.scpllLock, s.mgmt.sessions)

theorem scpllLock_of_coreView {s t : State} (h : coreView s = coreView t) : s.clocks.scpllLock = t.clocks.scpllLock := congrArg Prod.fst h
theorem session_of_coreView {s t : State} (h : coreView s = coreView t) (j : Nat) : session s j = session t j :=
  congrArg (fun v : Bool × Tbl Session => tget ({} : Session) v.2 j) h

theorem coreView_releasePending : coreView (releasePending s) = coreView s := by
  have h : coreView (besideStreams (releasePending s)) = coreView (besideStreams s) := congrArg coreView (besideStreams_releasePending s)
  exact h

theorem coreView_detectAs (k u : Nat) (x : Long) (i : Bool) : coreView (detectAs s k u x i) = coreView s := by simp [coreView]

/-- A restart leaves SCPLL's lock, and of the sessions all but their transfers. -/
theorem coreView_beginRestart (cause : Nat) : coreView (beginRestart s cause) = coreView (endTransfers (skipRestart s)) := by
  unfold beginRestart
  extract_lets u1 u2 u3 u4 m p cut u5
  have hloads : coreView u4 = coreView u3 := foldl_keeps coreView (fun u kv => by split <;> rfl) _ _
  have hrest : coreView u4 = coreView u2 := hloads.trans (coreView_releasePending u2)
  change coreView (cut.foldl (fun s n => detect s 0x2013 n (eBusy.setWidth 32)) (restartCuts u4 cause)) = coreView u2
  clear_value u4
  exact (foldl_keeps coreView (fun u n => coreView_detectAs u 0x2013 n (eBusy.setWidth 32) false) _ _).trans hrest

theorem skipRestart_clocks : (skipRestart s).clocks = s.clocks := by unfold skipRestart; split <;> rfl
theorem skipRestart_sessions : (skipRestart s).mgmt.sessions = s.mgmt.sessions := by unfold skipRestart; split <;> rfl

theorem beginRestart_scpllLock (cause : Nat) : (beginRestart s cause).clocks.scpllLock = s.clocks.scpllLock := by
  rw [scpllLock_of_coreView (coreView_beginRestart s cause), endTransfers_clocks, skipRestart_clocks]

theorem beginRestart_transfers {s : State} (cause : Nat) (w : Tbl.wf {} s.mgmt.sessions = true) {j : Nat} (hj : j < 16) :
    (session (beginRestart s cause) j).transfer = none := by
  rw [session_of_coreView (coreView_beginRestart s cause)]
  exact endTransfers_none (by rwa [skipRestart_sessions]) hj

theorem writeCut_clocks (was : State) : (writeCut was s).clocks = s.clocks := by
  unfold writeCut
  split
  · exact detect_clocks ..
  · rfl

variable {s}

theorem scpllUnlock_spec (h : s.clocks.scpllLock = true) (w : Tbl.wf {} s.mgmt.sessions = true) : ∃ t, exec .scpllUnlock s = .next t ∧
    t.clocks.scpllLock = false ∧ t.power.ccDown = some 3 ∧ t.mgmt.qEth = [] ∧ t.mgmt.qHq = [] ∧ t.mgmt.qGrove = [] ∧
    ∀ j < 16, (session t j).transfer = none := by
  have hexec : exec .scpllUnlock s = .next (writeCut s (detectAs (beginRestart (setClocks s fun c => { c with scpllLock := false }) 3)
      0x100C devUnit 0 false)) := by
    show execScpllUnlock s = _
    unfold execScpllUnlock scpllLost
    rw [if_pos h]
    rfl
  obtain ⟨hEth, hHq, hGrove⟩ := beginRestart_queues (setClocks s fun c => { c with scpllLock := false }) 3
  refine ⟨_, hexec, ?_, ?_, ?_⟩
  · rw [writeCut_clocks, detectAs_clocks, beginRestart_scpllLock]
    rfl
  · rw [power_of_vital (vital_writeCut (c := 0) _ _ (by decide)), detectAs_power, beginRestart_power]
    rfl
  · have hsession (j : Nat) (t : State) : session t j = tget {} t.mgmt.sessions j := rfl
    simp only [hsession, writeCut_mgmt, detectAs_mgmt]
    refine ⟨hEth, hHq, hGrove, fun j hj => ?_⟩
    rw [← hsession]
    exact beginRestart_transfers (s := setClocks s fun c => { c with scpllLock := false }) 3 w hj

theorem scpllRelockTimeout_faults (h : s.clocks.scpllLock = false) (hd : s.power.ccDown = some 3) (hp : passed s s.power.ccAt 100 = true)
    (hr : running s = true) : ∃ t, exec .scpllRelockTimeout s = .next t ∧ t.power.dev = .fault ∧ t.power.faultCause = 2 := by
  obtain ⟨hdev, hcause, -⟩ := enterFault_spec s 2 hr
  exact ⟨_, if_pos (by simp [h, hd, hp]), hdev, hcause⟩

theorem scpllRelockTimeout_waits (hp : passed s s.power.ccAt 100 = false) : exec .scpllRelockTimeout s = .next s := if_neg (by simp [hp])

theorem relocks (h : s.clocks.xoLost = false) :
    exec .scpllRelock s = .next { s with clocks := { s.clocks with scpllLock := true } } ∧
    exec .lkpllRelock s = .next { s with clocks := { s.clocks with lkpllLock := true } } :=
  ⟨if_neg (ne_true_of_eq_false h), if_neg (ne_true_of_eq_false h)⟩

end

/-- Settles O40: a lemma per command; a link whose paths have lost their lane clocks reads as down in every state, since such a link is never at
its reset values. -/
theorem clockLosses : Obligations.ClockLosses := by
  intro s mclk
  refine ⟨syncIn_off, fun h hb hh => ⟨_, syncIn_restarts h hb hh, ?_⟩, fun ep => ?_, fun hx hr _ => xoLost_spec hx hr,
    fun h ⟨_, _, _, _, _, _, _, w, _⟩ => scpllUnlock_spec h w,
    fun h hd => ⟨fun hp hr => scpllRelockTimeout_faults h hd hp hr, scpllRelockTimeout_waits⟩, relocks, lkpllUnlock_spec⟩
  · have hout (j : Nat) (hj : j < 4) (hm : tget 0 s.clocks.clkoutApplied.mclkOut j ≠ 0) (w : Tbl.wf 0 s.clocks.outPhase = true) :=
      restartOutputs_reads (at4 := mclk + 4) hm (List.range 4) w (.inl (List.mem_range.2 hj))
    split
    · next hm => exact ⟨fun hw => if_neg hw, fun hw => if_pos hw, hout, fun _ => ⟨rfl, rfl⟩, fun h2 => absurd (hm.symm.trans h2) (by decide)⟩
    · next hm => exact ⟨fun hw => if_neg hw, fun hw => if_pos hw, hout, fun h1 => absurd h1 hm, fun _ => ⟨rfl, rfl⟩⟩
  · obtain ⟨k, u, i⟩ := ep
    refine ⟨gapSubstitute_gateOpen _, fun hg => ⟨?_, ?_, fun hk => ⟨fun hn h64 => ?_, fun hc w h64 => ?_⟩⟩⟩
    · rintro rfl _ _ hn h64
      rw [gapSubstitute_bridge hg rfl, gapFade_begins hn h64]
    · rintro rfl _ hn h64
      rw [gapSubstitute_link hg rfl, gapFade_begins hn h64]
    · rw [gapSubstitute_port hg hk rfl rfl, gapFade_begins hn h64]
    · obtain ⟨_, _, _, wp, _⟩ := hc
      refine ⟨_, gapSubstitute_port hg hk rfl rfl, ?_⟩
      rw [port_setPort_self _ _ wp, chan_setChan_out w]
      exact gapFade_waits h64

end Sys2Proof.Machine
end

section
/-! Moves and pair words: each move lands its value, and a slot has the effect of its long-format counterpart (R153 to R155, R201, R219). -/
namespace Sys2Proof.Machine

/-- Settles O4: each move's meaning is the list of its landings. -/
theorem moveResults : Obligations.MoveResults := by
  intro s w c x writes
  exact ⟨fun d a h => does_reg h rfl rfl, fun d a h => does_reg h rfl rfl, fun d v h => does_reg h rfl rfl,
    fun d f h => does_reg h rfl rfl, fun d p => ⟨fun h => does_reg h rfl rfl, fun h => does_reg h rfl rfl⟩⟩

/-! ### A word that faults -/

section
variable {s : State} {w : Issue} {i : Instr}

/-- A word whose effect faults raises that fault; an uncorrectable word of memory is detected first (R261). -/
theorem word_faults {f fl} (h : Runs s w i) (hx : exec i s = ok (issueWord s w i f))
    (e : f (sees s w.eng.val) w.eng.val (prefixOf s w.eng.val) = .error fl) :
    exec i s = .next (engFault (if fl.cause = 4 then eccDetect (sees s w.eng.val) true fl.loc else sees s w.eng.val) w.eng.val fl) := by
  rw [hx, issueWord_runs _ h, e]; rfl

/-- A word whose meaning is a fault other than DATA_ECC raises it in the state that the word sees. -/
theorem word_traps {idle f fl} (h : Runs s w i) (hx : exec i s = ok (issueWith s w i idle f))
    (e : f (sees s w.eng.val) w.eng.val (prefixOf s w.eng.val) = .error fl) (hc : fl.cause ≠ 4) :
    exec i s = .next (engFault (sees s w.eng.val) w.eng.val fl) := by
  rw [issueWith_error h hx e, if_neg hc]

end

/-! ### Slots -/

/-- An effect that reads and writes no delay line. -/
def NoDelayLine (e : Eff) : Prop := e.dls = [] ∧ e.dwr = none

section
variable {s : State} {n : Nat} {m : MemOp} {e : Eff}

theorem effLd_noDelayLine {code : Nat} (h : effLd s n code m = .ok e) : NoDelayLine e := by
  unfold effLd at h; dsimp only at h
  split at h <;> cases h
  exact ⟨rfl, rfl⟩

theorem effSt_noDelayLine {code : Nat} (h : effSt s n code m = .ok e) : NoDelayLine e := by
  unfold effSt at h; dsimp only at h
  split at h <;> cases h
  exact ⟨rfl, rfl⟩

theorem effLdl_noDelayLine {d : Nat} (h : effLdl s n d m = .ok e) : NoDelayLine e := by
  unfold effLdl at h; dsimp only at h
  split at h <;> cases h
  exact ⟨rfl, rfl⟩

theorem effStl_noDelayLine {v : Long} (h : effStl s n v m = .ok e) : NoDelayLine e := by
  unfold effStl at h; dsimp only at h
  split at h <;> cases h
  exact ⟨rfl, rfl⟩

/-- No slot has a delay line: the slot codes hold none (R219). -/
theorem slotEff_noDelayLine {x : Slot} (h : slotEff s n x = .ok e) : NoDelayLine e := by
  cases x
  case ldl => exact effLdl_noDelayLine h
  case stl => exact effStl_noDelayLine h
  case ld => exact effLd_noDelayLine h
  case st => exact effSt_noDelayLine h
  all_goals cases h; exact ⟨rfl, rfl⟩

end

/-- The long-format word of a slot means what the slot does (R219). -/
theorem counterpart_means (w : Issue) (x : Slot) : ∃ f : State → Nat → Option (BitVec 21) → Except Flt Eff,
    (∀ s, exec (counterpart w x) s = ok (issueWord s w (counterpart w x) f)) ∧ ∀ u n k, f u n k = slotEff u n x := by
  cases x
  all_goals exact ⟨_, fun _ => rfl, fun _ _ _ => rfl⟩

theorem pairEff_snop {e : Eff} (h : NoDelayLine e) : pairEff e {} = e := by
  obtain ⟨acts, stores, loads, dls, dwr⟩ := e
  obtain ⟨rfl, rfl⟩ := h
  have hnone : destsOf {} = [] := rfl
  simp [pairEff, hnone]

theorem pairEff_conflict {h l : Eff} (hd : ∃ d ∈ destsOf h, d ∈ destsOf l) :
    pairEff h l = { h with acts := h.acts ++ [landing 1 .setPcf], loads := h.loads ++ l.loads } := by
  unfold pairEff
  rw [if_pos (by simpa using hd)]

theorem pairEff_together {h l : Eff} (hh : NoDelayLine h) (hl : NoDelayLine l) (hd : ∀ d ∈ destsOf h, d ∉ destsOf l) : pairEff h l =
    { acts := h.acts ++ (if h.acts.any writesC then l.acts.filter (fun a => !writesC a) else l.acts)
      stores := h.stores ++ l.stores, loads := h.loads ++ l.loads } := by
  unfold pairEff
  rw [if_neg (by simpa using hd), hh.1, hl.1]
  rfl

/-- Settles O13: both slots' effects are taken from the state that the word sees; `pairEff` puts them together. -/
theorem pairResults : Obligations.PairResults := by
  intro s w h l n u
  refine ⟨fun hp hc => ?_, fun hp => ⟨fun f hf => ?_, fun eh f he hf => ?_, fun eh el he hl => ⟨fun hd => ?_, fun hd => ?_⟩⟩⟩
  · obtain ⟨f, hx, hf⟩ := counterpart_means w h
    rw [hx]
    refine congrArg ok ?_
    rw [issueWord_runs _ hp, issueWord_runs _ hc, hf]
    cases he : slotEff (sees s w.eng.val) w.eng.val h with
    | error f => rfl
    | ok e => exact congrArg (afterWord s w.eng.val) (pairEff_snop (slotEff_noDelayLine he))
  · exact word_faults hp rfl (by rw [show slotEff (sees s w.eng.val) w.eng.val h = _ from hf])
  · exact word_faults hp rfl (by rw [show slotEff (sees s w.eng.val) w.eng.val h = _ from he,
      show slotEff (sees s w.eng.val) w.eng.val l = _ from hf])
  · refine does_word hp rfl ?_
    rw [show slotEff (sees s w.eng.val) w.eng.val h = _ from he, show slotEff (sees s w.eng.val) w.eng.val l = _ from hl,
      ← pairEff_conflict hd]
  · refine does_word hp rfl ?_
    rw [show slotEff (sees s w.eng.val) w.eng.val h = _ from he, show slotEff (sees s w.eng.val) w.eng.val l = _ from hl,
      ← pairEff_together (slotEff_noDelayLine he) (slotEff_noDelayLine hl) hd]

end Sys2Proof.Machine
end

section
/-! Debug steps of a PACED Sapling engine: the word or fault that ends its frame halts it (R164, R166), which two statements about frames
leave out. -/
namespace Sys2Proof.Machine

/-- Engine 0 is debug-stepped through a PACED Sapling program (EMODE bit 4): its next word is the one at address 1, ENTRY is 0. -/
def steppedPaced : State :=
  { State.reset with
    clocks := { gateOpen := true }
    power := { dev := .run }
    engines := [(0, { state := .sapling, running := true, stage := .program, stepReq := true, ctx := { emode := 0x10, pc := 1 } })] }

/-- The state of engine 0 after an outcome. -/
def engStateAfter : Outc → Option EngState
  | .next t => some (eng t 0).state
  | _ => none

/-- Refutes O14: the END clause leaves out that a debug step of a PACED Sapling run halts the engine with its frame: engine 0 of
`steppedPaced` is HALTED after END, and the clause leaves it in SAPLING. -/
theorem not_controlResults : ¬ Obligations.ControlResults := by
  unfold Obligations.ControlResults
  intro h
  obtain ⟨-, -, hend, -⟩ := h steppedPaced ⟨0, false, 0⟩
  have hruns : Runs steppedPaced ⟨0, false, 0⟩ (.endFrame ⟨0, false, 0⟩) := by
    unfold Runs Issues GuardTrue; decide +kernel
  have heq := hend (.inl (by decide +kernel)) (by decide +kernel) hruns
  exact absurd (congrArg engStateAfter heq) (by decide +kernel)

/-- Refutes O19: the hypotheses admit a PACED Sapling run that is debug-stepped, whose fault halts the engine with ENTRY as its next word:
the program counter of `steppedPaced` goes from 1 to 0, where the statement keeps the context. -/
theorem not_frameFault : ¬ Obligations.FrameFault := by
  unfold Obligations.FrameFault
  intro h
  obtain ⟨-, -, -, -, -, -, -, -, -, -, hctx, -⟩ := h steppedPaced 0 { cause := 1 } (by decide +kernel) (by decide +kernel) (by decide +kernel)
  exact absurd (congrArg Ctx.pc hctx) (by decide +kernel)

/-- An engineer's session on a device in RUN whose engine 0 failed its self-test (R483). -/
def untestedEngine : State :=
  { State.reset with
    clocks := { mt := ⟨1000, 0⟩, gateOpen := true }
    power := { dev := .run }
    mgmt := { sessions := [(0, { phase := 2, role := 3 })] }
    engines := [(0, { selfTestFailed := true })] }

/-- Refutes O21: an engine that failed its self-test stays IDLE and answers STATE to ENTER_SAPLING (R483), where the statement has it enter
SAPLING. -/
theorem not_engineCommands : ¬ Obligations.EngineCommands := by
  unfold Obligations.EngineCommands
  intro h
  obtain ⟨hcmd, -⟩ := h untestedEngine ⟨0, 7⟩ 0 0
  have hserved : Served untestedEngine ⟨0, 7⟩ (0x0400 + 32 * (0 : Fin 32).val) engineer := by
    unfold Served Heard; decide +kernel
  have henters : Accepts (.enterSapling ⟨0, 7⟩ 0) untestedEngine ⟨0, 7⟩ _ := (hcmd hserved).1 (by decide +kernel)
  exact absurd (congrArg engStateAfter henters) (by decide +kernel)

end Sys2Proof.Machine
end

section
/-! Landing results: what one landing does to its engine, which result of those in flight is next, and what a cycle's landings leave (R136 to
R138, R146, R149, R150, R232). -/
namespace Sys2Proof.Machine

/-! ### An engine in a frame reads back -/

theorem eng_of_engines {s t : State} (h : t.engines = s.engines) (k : Nat) : eng t k = eng s k := by unfold eng; rw [h]

section
variable {s : State} {n : Nat}

theorem staged_ne_default {e : Engine} (h : e.stage ≠ .none) : e ≠ {} := fun he => h (congrArg Engine.stage he)

theorem eng_modEng_staged {f : Engine → Engine} (h : (f (eng s n)).stage ≠ .none) : eng (modEng s n f) n = f (eng s n) :=
  eng_modEng_some s (staged_ne_default h)

theorem setEng_setEng {e : Engine} (e' : Engine) (h : e ≠ {}) : setEng (setEng s n e) n e' = setEng s n e' := by
  unfold setEng; simp only [tset_tset _ _ _ h]

theorem modEng_modEng {f g : Engine → Engine} (h : (f (eng s n)).stage ≠ .none) :
    modEng (modEng s n f) n g = modEng s n (fun e => g (f e)) := by
  have hr := eng_modEng_staged h
  unfold modEng at hr ⊢
  rw [hr, setEng_setEng _ (staged_ne_default h)]

variable (h : (eng s n).stage ≠ .none)
include h

theorem eng_modCtx (f : Ctx → Ctx) : eng (modCtx s n f) n = { eng s n with ctx := f (eng s n).ctx } := eng_modEng_staged h

theorem modCtx_modCtx (f g : Ctx → Ctx) : modCtx (modCtx s n f) n g = modCtx s n (fun c => g (f c)) := modEng_modEng h

end

/-! ### One landing -/

/-- What a landing that is no atomic writes of its run. -/
def landsIn (a : Act) (c : Ctx) : Ctx :=
  match a with
  | .word code v => wW c code v
  | .stWrite v => wW c codeST (stWritten (st c) v)
  | .acc k v => { c with acs := tset 0 c.acs k v }
  | .prod k v => { c with prods := tset 0 c.prods k v }
  | .tap k v => { c with taps := tset 0 c.taps k v }
  | .guard k v => wG c k v
  | .flagC v => wW c codeST (stSet (st c) 6 v)
  | .flagD dc hc => wW c codeST (stDigits (st c) dc hc)
  | .setSat => wW c codeST (stSet (st c) 4 true)
  | .setPcf => wW c codeST (stSet (st c) 5 true)
  | .setAov k => wW c codeST (stSet (st c) k true)
  | .atomCross .. | .atomDls .. => c

/-- An accumulator overflow sets ESTAT.OVF, and is an event where that was clear (R138). -/
def tellOverflow (s : State) (n : Nat) : State :=
  if (eng s n).ovf then s
  else detect (modEng s n (fun e => { e with ovf := true })) 0x2012 n ((st (eng s n).ctx).setWidth 32)

def setsAov : Act → Bool
  | .setAov _ => true
  | _ => false

section
variable {s : State} {n : Nat} {f : Flight}

theorem applyAct_register (ha : f.act.isAtomic = false) (ho : setsAov f.act = false) : applyAct s n f = modCtx s n (landsIn f.act) := by
  unfold applyAct
  revert ha ho
  cases f.act
  case setAov => exact fun _ ho => (Bool.false_ne_true ho.symm).elim
  case atomCross => exact fun ha _ => (Bool.false_ne_true ha.symm).elim
  case atomDls => exact fun ha _ => (Bool.false_ne_true ha.symm).elim
  all_goals exact fun _ _ => rfl

theorem applyAct_overflow (ho : setsAov f.act = true) : applyAct s n f = tellOverflow (modCtx s n (landsIn f.act)) n := by
  unfold applyAct
  revert ho
  cases f.act
  case setAov => exact fun _ => rfl
  all_goals exact fun ho => (Bool.false_ne_true ho).elim

@[simp] theorem clearMark_engines (s : State) (l : Nat) : (clearMark s l).engines = s.engines := rfl

@[simp] theorem eccRead_engines (s : State) (l : Nat) : (eccRead s l).engines = s.engines := by
  unfold eccRead
  split
  · rfl
  · unfold eccDetect; simp
  · unfold eccDetect; simp

/-- An atomic changes its memory and leaves one landing of its own, of a tap (R216, R217). -/
theorem applyAct_atomic (ha : f.act.isAtomic = true) :
    ∃ (u : State) (reg : Nat) (old : Long), u.engines = s.engines ∧ applyAct s n f = modCtx u n (tapFlight f reg old) := by
  unfold applyAct
  revert ha
  cases f.act
  case atomCross swap a op reg =>
    intro _
    refine ⟨_, reg, _, ?_, rfl⟩
    unfold setCross portAcc
    simp [setCross]
  case atomDls swap b a op reg => exact fun _ => ⟨setBank s b _, reg, _, rfl, rfl⟩
  all_goals exact fun ha => (Bool.false_ne_true ha).elim

end

/-! ### What landings leave of an engine -/

/-- An engine but for what landing results change: registers, results in flight, ESTAT.OVF. -/
def unlanded (e : Engine) : Engine :=
  { e with ovf := false, ctx := { e.ctx with regs := [], acs := [], prods := [], taps := [], guards := 0, inflight := [] } }

theorem stage_of_unlanded {e e' : Engine} (h : unlanded e = unlanded e') : e.stage = e'.stage :=
  show (unlanded e).stage = (unlanded e').stage from h ▸ rfl

theorem unlanded_landsIn (e : Engine) (a : Act) : unlanded { e with ctx := landsIn a e.ctx } = unlanded e := by
  cases a
  case guard k v => simp only [landsIn, wG]; split <;> rfl
  all_goals rfl

theorem landsIn_inflight (a : Act) (c : Ctx) : (landsIn a c).inflight = c.inflight := by
  cases a
  case guard k v => simp only [landsIn, wG]; split <;> rfl
  all_goals rfl

section
variable {s : State} {n : Nat} (h : (eng s n).stage ≠ .none)
include h

theorem eng_tellOverflow : eng (tellOverflow s n) n = { eng s n with ovf := true } := by
  unfold tellOverflow
  split
  · next ho => rw [← ho]
  · rw [eng_of_engines (detect_engines ..)]; exact eng_modEng_staged h

theorem unlanded_applyAct (f : Flight) : unlanded (eng (applyAct s n f) n) = unlanded (eng s n) := by
  cases ha : f.act.isAtomic
  · cases ho : setsAov f.act
    · rw [applyAct_register ha ho, eng_modCtx h, unlanded_landsIn]
    · have hs : (eng (modCtx s n (landsIn f.act)) n).stage ≠ .none := by rw [eng_modCtx h]; exact h
      rw [applyAct_overflow ho, eng_tellOverflow hs, eng_modCtx h]
      exact unlanded_landsIn (eng s n) f.act
  · obtain ⟨u, reg, old, hu, hx⟩ := applyAct_atomic (s := s) (n := n) ha
    have he := eng_of_engines hu n
    rw [hx, eng_modCtx (he ▸ h), he]
    rfl

/-- What a landing leaves in flight: an atomic leaves a landing of its own, which is none. -/
theorem inflight_applyAct (f : Flight) : ∃ l, (eng (applyAct s n f) n).ctx.inflight = (eng s n).ctx.inflight ++ l ∧
    (f.act.isAtomic = false → l = []) ∧ (f.act.isAtomic = true → ∃ g, g.act.isAtomic = false ∧ l = [g]) := by
  cases ha : f.act.isAtomic
  · refine ⟨[], ?_, fun _ => rfl, nofun⟩
    rw [List.append_nil]
    cases ho : setsAov f.act
    · rw [applyAct_register ha ho, eng_modCtx h, landsIn_inflight]
    · have hs : (eng (modCtx s n (landsIn f.act)) n).stage ≠ .none := by rw [eng_modCtx h]; exact h
      rw [applyAct_overflow ho, eng_tellOverflow hs, eng_modCtx h]
      exact landsIn_inflight ..
  · obtain ⟨u, reg, old, hu, hx⟩ := applyAct_atomic (s := s) (n := n) ha
    have he := eng_of_engines hu n
    refine ⟨[⟨f.due + 3, f.iss, none, .tap reg old⟩], ?_, nofun, fun _ => ⟨_, rfl, rfl⟩⟩
    rw [hx, eng_modCtx (he ▸ h), he]
    rfl

end

theorem unlanded_landFuel (c : Nat) : ∀ (k : Nat) {s : State} {n : Nat}, (eng s n).stage ≠ .none →
    unlanded (eng (landFuel k s n c) n) = unlanded (eng s n)
  | 0, _, _, _ => rfl
  | k + 1, s, n, h => by
    rw [landFuel]
    split
    · rfl
    · next f _ =>
      have hs : (eng (modCtx s n (fun x => { x with inflight := dropFlight f x.inflight })) n).stage ≠ .none := by rw [eng_modCtx h]; exact h
      have hl := unlanded_applyAct hs f
      have hs' : (eng (applyAct (modCtx s n (fun x => { x with inflight := dropFlight f x.inflight })) n f) n).stage ≠ .none := by
        rw [stage_of_unlanded hl]; exact hs
      rw [unlanded_landFuel c k hs', hl, eng_modCtx h]
      rfl

section
variable {s : State} {n : Nat} (h : (eng s n).stage ≠ .none)
include h

theorem unlanded_landUpTo (c : Nat) : unlanded (eng (landUpTo s n c) n) = unlanded (eng s n) := unlanded_landFuel c _ h

end

/-! ### Which result lands next -/

/-- One step of `nextFlight`: of the result found so far and another that is due, the one that lands first. -/
def firstOf (c : Nat) (m : Option Flight) (f : Flight) : Option Flight :=
  if c < f.due then m
  else match m with
    | none => some f
    | some g => if landsFirst f g then some f else some g

theorem nextFlight_eq (c : Nat) (l : List Flight) : nextFlight c l = l.foldl (firstOf c) none := rfl

theorem landsFirst_iff (f g : Flight) :
    landsFirst f g = true ↔ flightKey f < flightKey g ∨ (flightKey f = flightKey g ∧ f.iss < g.iss) := by
  simp [landsFirst]

section
variable {c : Nat} {f : Flight}

theorem firstOf_later (m : Option Flight) (h : c < f.due) : firstOf c m f = m := if_pos h

/-- Of the two the one that lands first is kept. -/
theorem firstOf_due (m : Option Flight) (h : ¬ c < f.due) :
    firstOf c m f = some f ∧ (∀ g, m = some g → landsFirst f g = true) ∨
      (∃ g, m = some g ∧ firstOf c m f = some g ∧ landsFirst f g = false) := by
  unfold firstOf
  rw [if_neg h]
  cases m with
  | none => exact .inl ⟨rfl, nofun⟩
  | some g =>
    cases hl : landsFirst f g
    · exact .inr ⟨g, rfl, by simp [hl], hl⟩
    · exact .inl ⟨by simp [hl], fun g' hg => by cases hg; exact hl⟩

theorem foldl_firstOf_mem {l : List Flight} : ∀ {m}, l.foldl (firstOf c) m = some f → m = some f ∨ (f ∈ l ∧ f.due ≤ c) := by
  induction l with
  | nil => exact fun h => .inl h
  | cons x l ih =>
    intro m h
    rcases ih h with h | ⟨h1, h2⟩
    · by_cases hx : c < x.due
      · rw [firstOf_later m hx] at h; exact .inl h
      · rcases firstOf_due m hx with ⟨he, -⟩ | ⟨g, hg, he, -⟩
        · cases he.symm.trans h; exact .inr ⟨.head _, Nat.le_of_not_lt hx⟩
        · cases he.symm.trans h; exact .inl hg
    · exact .inr ⟨.tail _ h1, h2⟩

theorem foldl_firstOf_first {l : List Flight} : ∀ {m}, l.foldl (firstOf c) m = some f →
    (∀ g, m = some g → landsFirst g f = false) ∧ ∀ g ∈ l, g.due ≤ c → landsFirst g f = false := by
  induction l with
  | nil =>
    intro m h
    refine ⟨fun g hg => ?_, nofun⟩
    cases hg.symm.trans h
    simp [landsFirst]
  | cons x l ih =>
    intro m h
    obtain ⟨h1, h2⟩ := ih h
    by_cases hx : c < x.due
    · rw [firstOf_later m hx] at h1
      refine ⟨h1, fun g hg hd => ?_⟩
      rcases List.mem_cons.1 hg with rfl | hg
      · exact absurd hd (Nat.not_le_of_lt hx)
      · exact h2 g hg hd
    · rcases firstOf_due m hx with ⟨he, hm⟩ | ⟨g, hg, he, hl⟩
      · have hxf := h1 x he
        refine ⟨fun g hg => ?_, fun g hg hd => ?_⟩
        · have hxg := hm g hg
          rw [← Bool.not_eq_true, landsFirst_iff] at hxf ⊢
          rw [landsFirst_iff] at hxg
          omega
        · rcases List.mem_cons.1 hg with rfl | hg
          · exact hxf
          · exact h2 g hg hd
      · have hgf := h1 g he
        refine ⟨fun g' hg' => ?_, fun g' hg' hd => ?_⟩
        · cases hg.symm.trans hg'; exact hgf
        · rcases List.mem_cons.1 hg' with rfl | hg'
          · rw [← Bool.not_eq_true, landsFirst_iff] at hgf hl ⊢
            omega
          · exact h2 g' hg' hd

theorem foldl_firstOf_none {l : List Flight} : ∀ {m}, l.foldl (firstOf c) m = none → m = none ∧ ∀ g ∈ l, c < g.due := by
  induction l with
  | nil => exact fun h => ⟨h, nofun⟩
  | cons x l ih =>
    intro m h
    obtain ⟨h1, h2⟩ := ih h
    by_cases hx : c < x.due
    · rw [firstOf_later m hx] at h1
      exact ⟨h1, fun g hg => (List.mem_cons.1 hg).elim (fun e => e ▸ hx) (h2 g)⟩
    · rcases firstOf_due m hx with ⟨he, -⟩ | ⟨g, -, he, -⟩
      · cases he.symm.trans h1
      · cases he.symm.trans h1

theorem nextFlight_none_of_later {l : List Flight} (h : ∀ g ∈ l, c < g.due) : nextFlight c l = none := by
  rw [nextFlight_eq]
  induction l with
  | nil => rfl
  | cons x l ih => rw [List.foldl_cons, firstOf_later _ (h x (.head _))]; exact ih fun g hg => h g (.tail _ hg)

/-- The next result is due, and of those due none lands before it: by cycle, sticky sets last, then by issue. -/
theorem nextFlight_spec {l : List Flight} (h : nextFlight c l = some f) : f ∈ l ∧ f.due ≤ c ∧
    ∀ g ∈ l, g.due ≤ c → f.due < g.due ∨ (f.due = g.due ∧
      (sticky f.act = false ∨ sticky g.act = true) ∧ (sticky f.act = sticky g.act → f.iss ≤ g.iss)) := by
  rw [nextFlight_eq] at h
  obtain ⟨hm, hd⟩ := (foldl_firstOf_mem h).resolve_left nofun
  refine ⟨hm, hd, fun g hg hgd => ?_⟩
  have hl := (foldl_firstOf_first h).2 g hg hgd
  rw [← Bool.not_eq_true, landsFirst_iff] at hl
  unfold flightKey at hl
  cases hf : sticky f.act <;> cases hg : sticky g.act
  all_goals
    simp [hf, hg, bitOf] at hl ⊢
    omega

end

/-! ### All that is due lands -/

theorem dropFlight_eq_erase (f : Flight) (l : List Flight) : dropFlight f l = l.erase f := by
  induction l with
  | nil => rfl
  | cons g l ih => simp [dropFlight, List.erase_cons, ih]

/-- Landings that a list of results stands for: an atomic leaves one more. -/
def landings (l : List Flight) : Nat := (l.map (fun f => if f.act.isAtomic then 2 else 1)).sum

theorem landings_append (l m : List Flight) : landings (l ++ m) = landings l + landings m := by simp [landings]

theorem landings_le (l : List Flight) : landings l ≤ 2 * l.length := by
  induction l with
  | nil => exact Nat.le_refl _
  | cons f l ih =>
    simp only [landings, List.map_cons, List.sum_cons, List.length_cons] at ih ⊢
    split <;> omega

theorem landings_erase {f : Flight} {l : List Flight} (h : f ∈ l) :
    landings l = (if f.act.isAtomic then 2 else 1) + landings (l.erase f) :=
  ((List.perm_cons_erase h).map _).sum_eq

theorem landFuel_lands (c : Nat) : ∀ (k : Nat) {s : State} {n : Nat}, (eng s n).stage ≠ .none → landings (eng s n).ctx.inflight ≤ k →
    ∀ f ∈ (eng (landFuel k s n c) n).ctx.inflight, c < f.due
  | 0, s, n, _, hk => by
    intro f hf
    have := landings_erase (show f ∈ (eng s n).ctx.inflight from hf)
    split at this <;> omega
  | k + 1, s, n, h, hk => by
    rw [landFuel]
    split
    · next hn => exact (foldl_firstOf_none hn).2
    · next f hf =>
      have hs : (eng (modCtx s n (fun x => { x with inflight := dropFlight f x.inflight })) n).stage ≠ .none := by rw [eng_modCtx h]; exact h
      obtain ⟨l, hl, hna, ha⟩ := inflight_applyAct hs f
      refine landFuel_lands c k (by rw [stage_of_unlanded (unlanded_applyAct hs f)]; exact hs) ?_
      have he := landings_erase (nextFlight_spec hf).1
      rw [hl, eng_modCtx h, landings_append]
      dsimp only
      rw [dropFlight_eq_erase]
      cases hat : f.act.isAtomic
      · rw [hna hat, show landings [] = 0 from rfl]
        simp only [hat, Bool.false_eq_true, if_false] at he
        omega
      · obtain ⟨g, hg, rfl⟩ := ha hat
        have h1 : landings [g] = 1 := by simp [landings, hg]
        simp only [hat, if_true] at he
        omega

theorem landUpTo_lands {s : State} {n : Nat} (h : (eng s n).stage ≠ .none) (c : Nat) :
    ∀ f ∈ (eng (landUpTo s n c) n).ctx.inflight, c < f.due := landFuel_lands c _ h (landings_le _)

theorem landUpTo_none {s : State} {n c : Nat} (h : ∀ f ∈ (eng s n).ctx.inflight, c < f.due) : landUpTo s n c = s := by
  unfold landUpTo
  cases 2 * (eng s n).ctx.inflight.length with
  | zero => rfl
  | succ k => rw [landFuel, nextFlight_none_of_later h]

end Sys2Proof.Machine
end

section
/-! A cycle's results land in the order of their issue, sticky sets last (R149, R232), and what each landing leaves in the registers (R136 to
R138). -/
namespace Sys2Proof.Machine

/-! ### Detections and an engine's own change commute -/

theorem record_setEng (s : State) (n : Nat) (e : Engine) (c u : Nat) (a : Long) (t : MT) (i : Bool) :
    record (setEng s n e) c u a t i = setEng (record s c u a t i) n e := by
  have hq (v : Event) : queueRecord (setEng s n e) v = setEng (queueRecord s v) n e := by
    unfold queueRecord; dsimp only [setEng_events]; split <;> rfl
  have hl (v : Event) : logRecord (setEng s n e) v = setEng (logRecord s v) n e := by
    unfold logRecord setEng; dsimp only
  unfold record
  rw [show coreUp (setEng s n e) = coreUp s from rfl]
  dsimp only
  rw [hq, hl]
  split <;> rfl

theorem detect_setEng (s : State) (n : Nat) (e : Engine) (c u : Nat) (a : Long) :
    detect (setEng s n e) c u a = setEng (detect s c u a) n e := by
  unfold detect detectAs detectWhen
  dsimp only
  rw [show countDet (setEng s n e) c = setEng (countDet s c) n e from rfl, setEng_events, setEng_now]
  split
  · split
    · rfl
    · exact record_setEng { countDet s c with events := { (countDet s c).events with limits := _ } } n e c u a _ false
  · exact record_setEng ..

theorem detect_modCtx (s : State) (n : Nat) (g : Ctx → Ctx) (c u : Nat) (a : Long) :
    detect (modCtx s n g) c u a = modCtx (detect s c u a) n g := by
  unfold modCtx modEng
  rw [detect_setEng, eng_of_engines (detect_engines ..)]

/-! ### A landing and the list of results in flight commute -/

/-- The results in flight are `l`. -/
def withFlights (l : List Flight) (c : Ctx) : Ctx := { c with inflight := l }

theorem landsIn_withFlights (a : Act) (l : List Flight) (c : Ctx) : landsIn a (withFlights l c) = withFlights l (landsIn a c) := by
  cases a
  case guard k v => simp only [landsIn, wG]; split <;> rfl
  all_goals rfl

section
variable {s : State} {n : Nat} (h : (eng s n).stage ≠ .none) (l : List Flight)
include h

theorem modCtx_landsIn_withFlights (a : Act) :
    modCtx (modCtx s n (withFlights l)) n (landsIn a) = modCtx (modCtx s n (landsIn a)) n (withFlights l) := by
  rw [modCtx_modCtx h, modCtx_modCtx h]
  exact congrArg (modCtx s n) (funext fun c => landsIn_withFlights a l c)

theorem tellOverflow_withFlights : tellOverflow (modCtx s n (withFlights l)) n = modCtx (tellOverflow s n) n (withFlights l) := by
  unfold tellOverflow
  rw [eng_modCtx h]
  split
  · rfl
  · have hm : modEng (modCtx s n (withFlights l)) n (fun e => { e with ovf := true }) =
        modCtx (modEng s n (fun e => { e with ovf := true })) n (withFlights l) := by
      unfold modCtx
      rw [modEng_modEng h, modEng_modEng h]
    rw [hm, detect_modCtx]
    rfl

theorem applyAct_withFlights {f : Flight} (ha : f.act.isAtomic = false) :
    applyAct (modCtx s n (withFlights l)) n f = modCtx (applyAct s n f) n (withFlights l) := by
  cases ho : setsAov f.act
  · rw [applyAct_register ha ho, applyAct_register ha ho, modCtx_landsIn_withFlights h]
  · have hs : (eng (modCtx s n (landsIn f.act)) n).stage ≠ .none := by rw [eng_modCtx h]; exact h
    rw [applyAct_overflow ho, applyAct_overflow ho, modCtx_landsIn_withFlights h, tellOverflow_withFlights hs]

end

/-! ### The order of a cycle's landings -/

/-- Sticky sets behind the others, each as they stand. -/
def stickyLast (l : List Flight) : List Flight := l.filter (fun f => !sticky f.act) ++ l.filter (fun f => sticky f.act)

section
variable {c : Nat}

theorem landsFirst_sameCycle {f g : Flight} (hf : f.due = c) (hg : g.due = c) (hi : g.iss ≤ f.iss) :
    landsFirst f g = (!sticky f.act && sticky g.act) := by
  rw [Bool.eq_iff_iff, landsFirst_iff, flightKey, flightKey, hf, hg]
  cases sticky f.act <;> cases sticky g.act <;> simp [bitOf] <;> omega

/-- Behind a result of the cycle, a later-issued one lands before it only where it is no sticky set and the first is. -/
theorem foldl_firstOf_sameCycle {l : List Flight} : ∀ {g : Flight}, g.due = c → (∀ f ∈ l, f.due = c ∧ g.iss ≤ f.iss) →
    l.Pairwise (fun f g => f.iss ≤ g.iss) →
    l.foldl (firstOf c) (some g) = some (if sticky g.act then (l.find? (fun f => !sticky f.act)).getD g else g) := by
  induction l with
  | nil => intro g _ _ _; simp
  | cons x l ih =>
    intro g hg hl hp
    obtain ⟨hx, hxg⟩ := hl x (.head _)
    obtain ⟨hpx, hp⟩ := List.pairwise_cons.1 hp
    have hstep : firstOf c (some g) x = some (if !sticky x.act && sticky g.act then x else g) := by
      unfold firstOf
      rw [if_neg (by omega)]
      dsimp only
      rw [landsFirst_sameCycle hx hg hxg]
      split <;> rfl
    rw [List.foldl_cons, hstep]
    cases hs : sticky x.act
    · cases hsg : sticky g.act
      · rw [Bool.and_false, if_neg Bool.false_ne_true, ih hg (fun f hf => hl f (.tail _ hf)) hp]
        simp [hsg]
      · rw [Bool.not_false, Bool.true_and, if_pos rfl, ih hx (fun f hf => ⟨(hl f (.tail _ hf)).1, hpx f hf⟩) hp]
        simp [hs]
    · rw [Bool.not_true, Bool.false_and, if_neg Bool.false_ne_true, ih hg (fun f hf => hl f (.tail _ hf)) hp]
      simp [hs]

theorem nextFlight_sameCycle {l : List Flight} (hd : ∀ f ∈ l, f.due = c) (hp : l.Pairwise (fun f g => f.iss ≤ g.iss)) :
    nextFlight c l = (stickyLast l).head? := by
  cases l with
  | nil => rfl
  | cons x l =>
    have hx := hd x (.head _)
    obtain ⟨hpx, hp⟩ := List.pairwise_cons.1 hp
    have hstep : firstOf c none x = some x := if_neg (by omega)
    rw [nextFlight_eq, List.foldl_cons, hstep, foldl_firstOf_sameCycle hx (fun f hf => ⟨hd f (.tail _ hf), hpx f hf⟩) hp]
    unfold stickyLast
    cases hs : sticky x.act
    · simp [hs]
    · simp only [if_true, List.filter_cons, hs, Bool.not_true, Bool.false_eq_true, if_false, List.head?_append, List.head?_filter,
        List.head?_cons]
      cases l.find? (fun f => !sticky f.act) <;> rfl

end

theorem stickyLast_erase {f : Flight} {l r : List Flight} (h : stickyLast l = f :: r) : stickyLast (l.erase f) = r := by
  unfold stickyLast at h ⊢
  rw [← List.erase_filter, ← List.erase_filter]
  cases hs : sticky f.act
  · have hnot : f ∉ l.filter (fun f => sticky f.act) := fun hm => by simp [hs] at hm
    cases hn : l.filter (fun f => !sticky f.act) with
    | nil =>
      rw [hn, List.nil_append] at h
      exact absurd (h ▸ List.mem_cons_self) hnot
    | cons x r' =>
      rw [hn, List.cons_append, List.cons.injEq] at h
      obtain ⟨rfl, rfl⟩ := h
      rw [List.erase_cons_head, List.erase_of_not_mem hnot]
  · have hnot : f ∉ l.filter (fun f => !sticky f.act) := fun hm => by simp [hs] at hm
    cases hn : l.filter (fun f => !sticky f.act) with
    | nil =>
      rw [hn, List.nil_append] at h
      rw [h, List.erase_cons_head]
      rfl
    | cons x r' =>
      rw [hn, List.cons_append, List.cons.injEq] at h
      exact absurd (hn ▸ h.1 ▸ List.mem_cons_self) hnot

/-! ### A cycle's landings in order -/

section
variable {s : State} {n : Nat}

theorem withFlights_twice (h : (eng s n).stage ≠ .none) (l m : List Flight) :
    modCtx (modCtx s n (withFlights l)) n (withFlights m) = modCtx s n (withFlights m) := modCtx_modCtx h _ _

/-- One landing of those in flight: the others stay in flight, and the result takes effect as if none were. -/
theorem applyAct_leavesFlights (h : (eng s n).stage ≠ .none) {f : Flight} (ha : f.act.isAtomic = false) (l : List Flight) :
    applyAct (modCtx s n (withFlights l)) n f = modCtx (applyAct (modCtx s n (withFlights [])) n f) n (withFlights l) := by
  have hs : (eng (modCtx s n (withFlights [])) n).stage ≠ .none := by rw [eng_modCtx h]; exact h
  rw [← applyAct_withFlights hs l ha, withFlights_twice h]

theorem landFuel_inOrder (c : Nat) : ∀ (k : Nat) {s : State} {n : Nat} {l : List Flight}, (eng s n).stage ≠ .none → l.length ≤ k →
    (∀ f ∈ l, f.due = c ∧ f.act.isAtomic = false) → l.Pairwise (fun f g => f.iss ≤ g.iss) →
    landFuel k (modCtx s n (withFlights l)) n c = (stickyLast l).foldl (fun s f => applyAct s n f) (modCtx s n (withFlights []))
  | 0, s, n, l, _, hk, _, _ => by
    obtain rfl := List.eq_nil_of_length_eq_zero (Nat.le_zero.1 hk)
    rfl
  | k + 1, s, n, l, h, hk, hl, hp => by
    have hin : (eng (modCtx s n (withFlights l)) n).ctx.inflight = l := by rw [eng_modCtx h]; rfl
    have hnext := nextFlight_sameCycle (fun f hf => (hl f hf).1) hp
    rw [landFuel, hin, hnext]
    cases ho : stickyLast l with
    | nil =>
      have hnil : l = [] := List.eq_nil_iff_forall_not_mem.2 fun f hf => by
        have : f ∈ stickyLast l := by unfold stickyLast; cases hs : sticky f.act <;> simp [hf, hs]
        simp [ho] at this
      rw [hnil]; rfl
    | cons f r =>
      have hf : f ∈ l := (nextFlight_spec (hnext.trans (by rw [ho]; rfl))).1
      have hs0 : (eng (modCtx s n (withFlights [])) n).stage ≠ .none := by rw [eng_modCtx h]; exact h
      have hs1 : (eng (applyAct (modCtx s n (withFlights [])) n f) n).stage ≠ .none := by
        rw [stage_of_unlanded (unlanded_applyAct hs0 f)]; exact hs0
      have hdrop : modCtx (modCtx s n (withFlights l)) n (fun x => { x with inflight := dropFlight f x.inflight }) =
          modCtx s n (withFlights (l.erase f)) := by
        rw [modCtx_modCtx h, ← dropFlight_eq_erase]; rfl
      have hlen : (l.erase f).length ≤ k := by rw [List.length_erase_of_mem hf]; omega
      simp only [List.head?_cons]
      rw [hdrop, applyAct_leavesFlights h (hl f hf).2,
        landFuel_inOrder c k hs1 hlen (fun g hg => hl g (List.mem_of_mem_erase hg)) (hp.sublist List.erase_sublist),
        stickyLast_erase ho, ← applyAct_leavesFlights h (hl f hf).2, List.foldl_cons]

theorem landUpTo_inOrder (h : (eng s n).stage ≠ .none) {c : Nat} (hne : (eng s n).ctx.inflight ≠ [])
    (hl : ∀ f ∈ (eng s n).ctx.inflight, f.due = c ∧ f.act.isAtomic = false)
    (hp : (eng s n).ctx.inflight.Pairwise (fun f g => f.iss ≤ g.iss)) :
    landUpTo s n c = (stickyLast (eng s n).ctx.inflight).foldl (fun s f => applyAct s n f) (modCtx s n (withFlights [])) := by
  obtain ⟨k, hk⟩ := Nat.exists_eq_succ_of_ne_zero (n := 2 * (eng s n).ctx.inflight.length)
    (by have := List.length_pos_iff.2 hne; omega)
  have hin : (eng (modCtx s n (withFlights (eng s n).ctx.inflight)) n).ctx.inflight = (eng s n).ctx.inflight := by rw [eng_modCtx h]; rfl
  rw [← landFuel_inOrder c (k + 1) h (by omega) hl hp]
  unfold landUpTo
  rw [hk, landFuel, landFuel, hin, nextFlight_sameCycle (fun f hf => (hl f hf).1) hp]
  cases ho : (stickyLast (eng s n).ctx.inflight).head? with
  | none =>
    rw [← nextFlight_sameCycle (fun f hf => (hl f hf).1) hp] at ho
    obtain ⟨f, hf⟩ := List.exists_mem_of_ne_nil _ hne
    exact absurd ((foldl_firstOf_none ho).2 f hf) (by have := (hl f hf).1; omega)
  | some f =>
    dsimp only
    rw [modCtx_modCtx h]
    rfl

end

/-! ### What a landing leaves in the registers -/

theorem rW_wW {c : Ctx} (w : Tbl.wf 0 c.regs = true) (d : Nat) (v : Word) (j : Nat) :
    rW (wW c d v) j = if j = d then (if d = 0x2C then v &&& 0x3FFF else if d = 0x2D then v &&& 0x07FF else v) else rW c j :=
  tget_tset d j _ w

theorem getLsbD_stSet (v : Word) (k : Nat) (b : Bool) {j : Nat} (hj : j < 16) : (stSet v k b).getLsbD j = if j = k then b else v.getLsbD j := by
  have hbit : (BitVec.ofNat 16 (2 ^ k)).getLsbD j = decide (j = k) := by
    rw [BitVec.getLsbD_ofNat, Nat.testBit_two_pow]
    simp [hj, eq_comm]
  unfold stSet
  generalize BitVec.ofNat 16 (2 ^ k) = m at hbit ⊢
  cases b
  · rw [if_neg Bool.false_ne_true, BitVec.getLsbD_and, BitVec.getLsbD_not, hbit]
    by_cases h : j = k <;> simp [h, hj]
  · rw [if_pos rfl, BitVec.getLsbD_or, hbit]
    by_cases h : j = k <;> simp [h]

theorem getLsbD_sticky (v : Word) (k : Nat) {j : Nat} (hj : j < 16) : (stSet v k true).getLsbD j = (v.getLsbD j || decide (j = k)) := by
  rw [getLsbD_stSet v k true hj]
  by_cases h : j = k <;> simp [h]

theorem getLsbD_stWritten (o v : Word) {b : Nat} (hb : b < 11) :
    (stWritten o v).getLsbD b = if b < 6 then o.getLsbD b && !v.getLsbD b else v.getLsbD b := by
  have hlow : ∀ b < 11, (0x003F : Word).getLsbD b = decide (b < 6) := by decide
  have hhigh : ∀ b < 11, (0x07C0 : Word).getLsbD b = decide (6 ≤ b) := by decide
  unfold stWritten
  rw [BitVec.getLsbD_or, BitVec.getLsbD_and, BitVec.getLsbD_and, BitVec.getLsbD_and, BitVec.getLsbD_not, hlow b hb, hhigh b hb]
  by_cases h : b < 6
  · simp [h, show b < 16 by omega]
  · simp [h, show 6 ≤ b by omega]

theorem getLsbD_stDigits (o : Word) (dc : Bool) (hc : BitVec 3) {b : Nat} (hb : b < 11) :
    (stDigits o dc hc).getLsbD b = if b = 7 then dc else if 8 ≤ b then hc.getLsbD (b - 8) else o.getLsbD b := by
  have hmask : ∀ b < 11, (0xF8FF#16).getLsbD b = decide (b < 8) := by decide
  show (stSet ((o &&& 0xF8FF#16) ||| (hc.setWidth 16 <<< 8)) 7 dc).getLsbD b = _
  generalize 0xF8FF#16 = m at hmask ⊢
  rw [getLsbD_stSet _ 7 dc (by omega)]
  by_cases h7 : b = 7
  · simp [h7]
  · rw [if_neg h7, BitVec.getLsbD_or, BitVec.getLsbD_and, BitVec.getLsbD_shiftLeft, BitVec.getLsbD_setWidth, hmask b hb]
    by_cases h8 : 8 ≤ b
    · simp [h7, h8, show ¬ b < 8 by omega, show b < 16 by omega, show b - 8 < 16 by omega]
    · simp [h7, h8, show b < 8 by omega]

/-- A write of a guard is read back, but for G0, which reads 1 (R136). -/
theorem guard_wG (c : Ctx) (g : Nat) (v : Bool) : { wG c g v with guards := c.guards } = c ∧
    ∀ j < 8, guard (wG c g v) j = if j = g ∧ g ≠ 0 then v else guard c j := by
  by_cases hg : g = 0
  · subst hg; exact ⟨rfl, fun j _ => by simp [wG]⟩
  · unfold wG
    rw [if_neg hg]
    refine ⟨rfl, fun j hj => ?_⟩
    have hbit : (BitVec.ofNat 8 (2 ^ g)).getLsbD j = decide (j = g) := by
      rw [BitVec.getLsbD_ofNat, Nat.testBit_two_pow]
      simp [hj, eq_comm]
    generalize BitVec.ofNat 8 (2 ^ g) = m at hbit ⊢
    unfold guard
    by_cases h0 : j = 0
    · subst h0; simp [Ne.symm hg]
    · rw [if_neg h0, if_neg h0]
      cases v
      · rw [if_neg Bool.false_ne_true, BitVec.getLsbD_and, BitVec.getLsbD_not, hbit]
        by_cases h : j = g <;> simp [h, hg, hj]
      · rw [if_pos rfl, BitVec.getLsbD_or, hbit]
        by_cases h : j = g <;> simp [h, hg]

/-- The write of ST that a landing makes: bits 10 to 0 of `v` are kept, and no other register changes. -/
theorem wW_status {c : Ctx} (w : Tbl.wf 0 c.regs = true) (v : Word) (p : Nat → Bool → Bool)
    (hv : ∀ b < 11, v.getLsbD b = p b ((st c).getLsbD b)) :
    { wW c codeST v with regs := c.regs } = c ∧ (∀ j, j ≠ 0x2D → rW (wW c codeST v) j = rW c j) ∧
      ∀ b < 11, (st (wW c codeST v)).getLsbD b = p b ((st c).getLsbD b) := by
  refine ⟨rfl, fun j hj => by rw [rW_wW w, if_neg (show j ≠ codeST from hj)], fun b hb => ?_⟩
  have hmask : ∀ b < 11, (0x07FF#16).getLsbD b = true := by decide
  have hst : st (wW c codeST v) = v &&& 0x07FF := by
    unfold st
    rw [rW_wW w]
    rfl
  rw [hst, BitVec.getLsbD_and, ← hv b hb, show (0x07FF : Word).getLsbD b = true from hmask b hb, Bool.and_true]

section
variable {s : State} {n : Nat} {f : Flight} (w : Tbl.wf {} s.engines = true)
include w

/-- A landing but for an overflow's changes the run's registers alone. -/
theorem applyAct_registers (ha : f.act.isAtomic = false) (ho : setsAov f.act = false) :
    ({ applyAct s n f with engines := s.engines } = s ∧ ∀ k, k ≠ n → eng (applyAct s n f) k = eng s k) ∧
    eng (applyAct s n f) n = { eng s n with ctx := landsIn f.act (eng s n).ctx } := by
  rw [applyAct_register ha ho]
  exact ⟨⟨rfl, fun k hk => eng_modEng_ne s _ hk⟩, eng_modEng_self n _ w⟩

/-- AOVn sets ESTAT.OVF too, with its event where that was clear (R138). -/
theorem applyAct_overflows (ho : setsAov f.act = true) :
    eng (applyAct s n f) n = { eng s n with ovf := true, ctx := landsIn f.act (eng s n).ctx } ∧
    { applyAct s n f with engines := s.engines, events := s.events } = s ∧ ((eng s n).ovf = true → (applyAct s n f).events = s.events) ∧
    ((eng s n).ovf = false → tget 0 (applyAct s n f).events.det 0x2012 = satInc31 (tget 0 s.events.det 0x2012)) := by
  have he : eng (modCtx s n (landsIn f.act)) n = { eng s n with ctx := landsIn f.act (eng s n).ctx } := eng_modEng_self n _ w
  have hw : Tbl.wf {} (modCtx s n (landsIn f.act)).engines = true := setEng_wf n _ w
  rw [applyAct_overflow ho]
  unfold tellOverflow
  cases hov : (eng s n).ovf
  · rw [if_neg (by rw [he, hov]; exact Bool.false_ne_true)]
    refine ⟨?_, ?_, nofun, fun _ => detect_count_self ..⟩
    · rw [eng_of_engines (detect_engines ..), eng_modEng_self n _ hw, he]
    · simp [modCtx]
  · rw [if_pos (by rw [he, hov])]
    refine ⟨?_, rfl, fun _ => rfl, nofun⟩
    rw [he, ← hov]

end

/-- Settles O17: of the results in flight `nextFlight` takes the one that lands first, until none is due; each landing is read off
`landsIn`. -/
theorem landingResults : Obligations.LandingResults := by
  refine ⟨fun s n c h => ⟨landUpTo_lands h c, landUpTo_none, fun f hf => nextFlight_spec hf, fun hne hl hp => landUpTo_inOrder h hne hl hp⟩,
    ?_⟩
  intro s n f hcanon c t c' quiet here words status
  obtain ⟨w, -, -, -, -, -, -, -, -, -, -, hengs, -⟩ := hcanon
  obtain ⟨⟨wregs, waccs, wprods, wtaps, -⟩, -⟩ := hengs n
  have register (ha : f.act.isAtomic = false) (ho : setsAov f.act = false) : quiet ∧ here ∧ c' = landsIn f.act c := by
    obtain ⟨hq, he⟩ := applyAct_registers (n := n) w ha ho
    exact ⟨hq, by show { eng t n with ctx := c } = _; rw [he], by show (eng t n).ctx = _; rw [he]⟩
  have written (a : Act) (v : Word) (p : Nat → Bool → Bool) (hf : f.act = a) (ha : a.isAtomic = false) (ho : setsAov a = false)
      (hl : landsIn a c = wW c codeST v) (hv : ∀ b < 11, v.getLsbD b = p b ((st c).getLsbD b)) : quiet ∧ here ∧ status p := by
    subst hf
    obtain ⟨hq, hh, hc⟩ := register ha ho
    exact ⟨hq, hh, by show { c' with regs := c.regs } = c ∧ _; rw [hc, hl]; exact wW_status wregs v p hv⟩
  refine ⟨fun d v hf => ?_, fun k v hf => ?_, fun k v hf => ?_, fun k v hf => ?_, fun g v hf => ?_, fun v hf => ?_, fun v hf => ?_,
    fun dc hc hf => ?_, fun hf => ?_, fun hf => ?_, fun k hf hk => ?_⟩
  · obtain ⟨hq, hh, hc⟩ := register (by rw [hf]; rfl) (by rw [hf]; rfl)
    refine ⟨hq, hh, ?_⟩
    show { c' with regs := c.regs } = c ∧ ∀ j, rW c' j = _
    rw [hc, hf]
    exact ⟨rfl, rW_wW wregs d v⟩
  · obtain ⟨hq, hh, hc⟩ := register (by rw [hf]; rfl) (by rw [hf]; rfl)
    rw [hc, hf]
    exact ⟨hq, hh, rfl, fun j => tget_tset k j v waccs⟩
  · obtain ⟨hq, hh, hc⟩ := register (by rw [hf]; rfl) (by rw [hf]; rfl)
    rw [hc, hf]
    exact ⟨hq, hh, rfl, fun j => tget_tset k j v wprods⟩
  · obtain ⟨hq, hh, hc⟩ := register (by rw [hf]; rfl) (by rw [hf]; rfl)
    rw [hc, hf]
    exact ⟨hq, hh, rfl, fun j => tget_tset k j v wtaps⟩
  · obtain ⟨hq, hh, hc⟩ := register (by rw [hf]; rfl) (by rw [hf]; rfl)
    rw [hc, hf]
    exact ⟨hq, hh, guard_wG c g v⟩
  · exact written _ _ (fun b old => if b < 6 then old && !v.getLsbD b else v.getLsbD b) hf rfl rfl rfl fun b hb =>
      getLsbD_stWritten (st c) v hb
  · exact written _ _ (fun b old => if b = 6 then v else old) hf rfl rfl rfl fun b hb => getLsbD_stSet (st c) 6 v (by omega)
  · exact written _ _ (fun b old => if b = 7 then dc else if 8 ≤ b then hc.getLsbD (b - 8) else old) hf rfl rfl rfl fun b hb =>
      getLsbD_stDigits (st c) dc hc hb
  · exact written _ _ (fun b old => old || decide (b = 4)) hf rfl rfl rfl fun b hb => getLsbD_sticky (st c) 4 (by omega)
  · exact written _ _ (fun b old => old || decide (b = 5)) hf rfl rfl rfl fun b hb => getLsbD_sticky (st c) 5 (by omega)
  · obtain ⟨he, hframe, hquiet, hcount⟩ := applyAct_overflows (n := n) (f := f) w (by rw [hf]; rfl)
    have hc : c' = wW c codeST (stSet (st c) k true) := by show (eng t n).ctx = _; rw [he, hf]; rfl
    refine ⟨?_, by show (eng t n).ovf = true; rw [he],
      by show { eng t n with ctx := c, ovf := (eng s n).ovf } = eng s n; rw [he], hframe, hquiet, hcount⟩
    show { c' with regs := c.regs } = c ∧ _
    rw [hc]
    exact wW_status wregs _ (fun b old => old || decide (b = k)) fun b hb => getLsbD_sticky (st c) k (by omega)

end Sys2Proof.Machine
end

section
/-! How a word issues or does not (R151, R168, R169, R220, R221), and how calls, returns and branches leave their transfer to the delay slot
(R161, R162, R165, R198, R199). -/
namespace Sys2Proof.Machine

/-! ### What a word sees -/

section
variable {s : State} {n : Nat}

theorem canIssue_stage (h : canIssue s n = true) : (eng s n).stage ≠ .none := by
  simp only [canIssue, Bool.and_eq_true, decide_eq_true_eq] at h
  rw [h.1.2]
  exact Stage.noConfusion

variable (h : (eng s n).stage ≠ .none)
include h

theorem unlanded_landed : unlanded (eng (landed s n) n) = unlanded (eng s n) := unlanded_landUpTo h _

theorem eng_sees : eng (sees s n) n = { eng (landed s n) n with
    ctx := { (eng (landed s n) n).ctx with imm := none }
    breakHit := (eng (landed s n) n).breakHit || decide ((eng (landed s n) n).breakAddr = some (eng (landed s n) n).ctx.pc) } := by
  have he := eng_of_engines (eccRead_engines (landed s n) (progLoc (eng (landed s n) n) n)) n
  unfold sees
  dsimp only
  rw [eng_modEng_staged (by rw [he]; exact stage_of_unlanded (unlanded_landed h) ▸ h), he]

theorem stage_sees : (eng (sees s n) n).stage ≠ .none := by
  rw [eng_sees h]
  exact stage_of_unlanded (unlanded_landed h) ▸ h

end

/-! ### A word issues or stops -/

section
variable {s : State} {w : Issue} {i : Instr} {idle : State → Nat → State} {run : State → Nat → Option (BitVec 21) → Except Flt State}

theorem issueWith_stands (h : canIssue s w.eng.val = false) : issueWith s w i idle run = s := by
  unfold issueWith
  exact if_pos (by rw [h]; rfl)

/-- What is judged of a word that issues, in order: its program word, its guard, its encoding, its own faults. -/
theorem issueWith_issues (h : canIssue s w.eng.val = true) : issueWith s w i idle run =
    if eccMark (sees s w.eng.val) (progLoc (eng (landed s w.eng.val) w.eng.val) w.eng.val) = 2 then
      engFault (sees s w.eng.val) w.eng.val { cause := 3 }
    else if !guardHolds (eng (landed s w.eng.val) w.eng.val).ctx w then
      idle (landUpTo (sees s w.eng.val) w.eng.val (eng (sees s w.eng.val) w.eng.val).ctx.cycle) w.eng.val
    else if !wordDefined i (prefixOf s w.eng.val) then engFault (sees s w.eng.val) w.eng.val { cause := 1 }
    else match run (sees s w.eng.val) w.eng.val (prefixOf s w.eng.val) with
      | .error f => engFault (if f.cause = 4 then eccDetect (sees s w.eng.val) true f.loc else sees s w.eng.val) w.eng.val f
      | .ok t => t := by
  have hcycle : (eng (sees s w.eng.val) w.eng.val).ctx.cycle = (eng (landed s w.eng.val) w.eng.val).ctx.cycle := by
    rw [eng_sees (canIssue_stage h)]
  rw [hcycle]
  unfold issueWith
  dsimp only
  rw [if_neg (by rw [h]; decide)]
  rfl

end

/-- The cycles that a word with a false guard takes (R151). -/
def idles : IdleKind → State → Nat → State
  | .plain => advance
  | .frameEnd => idleEnd
  | .ext x => holdImm x
  | .transfer k => idleXfer k

/-- Every engine word issues alike: its meaning is what it does with a true guard. -/
theorem engWord_issues {i : Instr} {w : Issue} (h : engWord i = some w) : ∃ idle run, idle = idles (idleKind i) ∧ ∀ s,
    exec i s = .next (issueWith s w i idle run) := by
  have word {i : Instr} {f} (hk : idleKind i = .plain) (hx : ∀ s, exec i s = .next (issueWord s w i f)) :
      ∃ idle run, idle = idles (idleKind i) ∧ ∀ s, exec i s = .next (issueWith s w i idle run) := ⟨_, _, by rw [hk]; rfl, hx⟩
  cases i
  all_goals cases h
  case endFrame | halt | rpt | rptx | blk | immExt | call | ret | callm | retm | br | brc => exact ⟨_, _, rfl, fun _ => rfl⟩
  all_goals exact word rfl fun _ => rfl

/-- Settles O16: the four stops are the first three branches of an issuing word, and the test before it. -/
theorem wordStops : Obligations.WordStops := by
  intro s i w hw
  dsimp only
  obtain ⟨idle, run, hidle, hx⟩ := engWord_issues hw
  simp only [hx]
  refine ⟨fun h => congrArg _ (issueWith_stands h), fun h hecc => congrArg _ ?_, fun ⟨h, hecc⟩ hg hd => congrArg _ ?_,
    fun ⟨h, hecc⟩ hg => congrArg _ ?_⟩
  · rw [issueWith_issues h, if_pos hecc]
  · have hg' : guardHolds (eng (landed s w.eng.val) w.eng.val).ctx w = true := hg
    rw [issueWith_issues h, if_neg hecc, hg', if_neg (by decide), if_pos (by rw [hd]; rfl)]
  · have hg' : guardHolds (eng (landed s w.eng.val) w.eng.val).ctx w = false := Bool.eq_false_iff.2 hg
    rw [issueWith_issues h, if_neg hecc, hg', Bool.not_false, if_pos rfl, hidle]
    cases idleKind i with
    | plain => rfl
    | frameEnd => rfl
    | ext x => rfl
    | transfer k => rfl

/-! ### A delay slot transfers -/

theorem movedRegs_zero : movedRegs 0 = [] := by decide

theorem saveArea_zero (low : Word) : saveArea 0 low = [] := by unfold saveArea; rw [movedRegs_zero]; rfl

theorem beforeU_nil (s : State) (n t : Nat) : beforeU s n t [] = [] := by unfold beforeU; split <;> simp

theorem arrive_open {c : Ctx} (h : c.defer = []) (t : Nat) : arrive c t = { c with pc := t } := by
  unfold arrive
  dsimp only
  rw [h]

theorem pastWord_noLoop {c : Ctx} (h : c.loops = []) (a : Nat) : pastWord c a = { c with pc := (a + 1) % 0x4000, loops := [] } := by
  unfold pastWord
  rw [h]
  rfl

/-- The transfer `x` moves no registers, and after a slot at `a` it goes to `target`. -/
def goesTo (x : Xfer) (a target : Nat) : Prop :=
  (∃ ret low, x = .call target ret 0 low) ∨ (∃ low inh, x = .ret target 0 low inh) ∨ x = .branch target ∨
    (x = .fallThrough 0 ∧ target = (a + 1) % 0x4000)

section
variable {s : State} {n : Nat} (h : (eng s n).stage ≠ .none)
include h

/-- The slot's transfer as a change of the run's context. -/
theorem eng_transferred {g : Ctx → Ctx} {target t : Nat} (hl : (eng s n).ctx.loops = []) (hd : (eng s n).ctx.defer = [])
    (hg : ∀ c : Ctx, c.loops = [] → c.defer = [] → c.xfer = none → (g c).pc = target ∧ (g c).cycle = t + 2 ∧ (g c).xfer = none) :
    let e := eng (modCtx (modCtx s n (fun c => { c with xfer := none })) n g) n
    e.stage = (eng s n).stage ∧ e.ctx.pc = target ∧ e.ctx.cycle = t + 2 ∧ e.ctx.xfer = none ∧ e.stepReq = (eng s n).stepReq := by
  rw [modCtx_modCtx h, eng_modCtx h]
  obtain ⟨hpc, hcycle, hxfer⟩ := hg { (eng s n).ctx with xfer := none } hl hd rfl
  exact ⟨rfl, hpc, hcycle, hxfer, rfl⟩

/-- Where no loop and no held-back check is open, the target is next, two cycles after the slot. -/
theorem transfer_arrives (a t : Nat) {x : Xfer} {target : Nat} (hl : (eng s n).ctx.loops = []) (hd : (eng s n).ctx.defer = [])
    (hx : goesTo x a target) :
    let e := eng (transfer s n a t x) n
    e.ctx.pc = target ∧ e.ctx.cycle = t + 2 ∧ e.ctx.xfer = none ∧ e.stepReq = (eng s n).stepReq := by
  unfold transfer
  rcases hx with ⟨ret, low, rfl⟩ | ⟨low, inh, rfl⟩ | rfl | ⟨rfl, rfl⟩
  · simp only [moveRegs, saveArea_zero, List.reverse_nil, beforeU_nil, saveRegs, movedRegs_zero, List.length_nil, Nat.add_zero]
    refine (eng_transferred h hl hd fun c hl hd hx => ?_).2
    simp only [hl, List.head?_nil, Option.map_none, reduceCtorEq, if_false, true_and]
    rw [arrive_open hd]
    exact ⟨rfl, hx⟩
  · simp only [moveRegs, saveArea_zero, beforeU_nil, restoreRegs, movedRegs_zero, List.length_nil, Nat.add_zero]
    have hret := eng_transferred h hl hd (g := fun c => { arrive (pastWord c a) target with cycle := t + 2 }) (target := target) (t := t)
      fun c hl hd hx => by
        rw [pastWord_noLoop hl, arrive_open (by exact hd)]
        exact ⟨rfl, rfl, hx⟩
    dsimp only at hret
    generalize modCtx (modCtx s n _) n _ = v at hret ⊢
    obtain ⟨hstage, hret⟩ := hret
    split
    · rw [eng_modEng_staged (by rw [hstage]; exact h)]
      exact hret
    · exact hret
  · simp only [moveRegs]
    refine (eng_transferred h hl hd fun c hl hd hx => ?_).2
    rw [pastWord_noLoop hl]
    dsimp only
    rw [if_neg Bool.false_ne_true, arrive_open (by exact hd)]
    exact ⟨rfl, rfl, hx⟩
  · simp only [moveRegs]
    refine (eng_transferred h hl hd fun c hl hd hx => ?_).2
    rw [pastWord_noLoop hl]
    exact ⟨rfl, rfl, hx⟩

/-- A word without an effect only lands what is due. -/
theorem unlanded_commit_nothing : unlanded (eng (commit s n {}) n) = unlanded (eng s n) := by
  have hm := eng_modCtx h (fun c => { c with inflight := c.inflight ++ [] })
  have hs : (eng (modCtx s n (fun c => { c with inflight := c.inflight ++ [] })) n).stage ≠ .none := by rw [hm]; exact h
  have hc : commit s n {} = landUpTo (modCtx s n (fun c => { c with inflight := c.inflight ++ [] })) n (eng s n).ctx.cycle := rfl
  rw [hc, unlanded_landUpTo hs, hm]
  rfl

end

theorem advance_transfers {s : State} {n : Nat} {x : Xfer} (hr : (eng s n).ctx.rpt = none) (hx : (eng s n).ctx.xfer = some x) :
    advance s n = afterStep (transfer s n (eng s n).ctx.pc (eng s n).ctx.cycle x) n := by
  unfold advance
  simp only [hr, hx]

theorem afterStep_running {s : State} {n : Nat} (h : (eng s n).stepReq = false) : afterStep s n = s := by
  unfold afterStep
  exact if_neg (by rw [h]; simp)

/-- A delay slot without an effect makes its transfer. -/
theorem idleSlot_transfers {u : State} {n : Nat} {x : Xfer} {target : Nat} (hs : (eng u n).stage ≠ .none)
    (hx : (eng u n).ctx.xfer = some x) (hr : (eng u n).ctx.rpt = none) (hl : (eng u n).ctx.loops = []) (hd : (eng u n).ctx.defer = [])
    (hstep : (eng u n).stepReq = false) (ht : goesTo x (eng u n).ctx.pc target) :
    let e := eng (advance (commit u n {}) n) n
    e.ctx.pc = target ∧ e.ctx.cycle = (eng u n).ctx.cycle + 2 ∧ e.ctx.xfer = none := by
  have hc := unlanded_commit_nothing hs
  generalize commit u n {} = v at hc ⊢
  have keeps {β : Type} (f : Engine → β) (hf : ∀ e, f (unlanded e) = f e) : f (eng v n) = f (eng u n) := by rw [← hf, hc, hf]
  have hpc := keeps (·.ctx.pc) fun _ => rfl
  have hcycle := keeps (·.ctx.cycle) fun _ => rfl
  have hxv := (keeps (·.ctx.xfer) fun _ => rfl).trans hx
  have hrv := (keeps (·.ctx.rpt) fun _ => rfl).trans hr
  have hlv := (keeps (·.ctx.loops) fun _ => rfl).trans hl
  have hdv := (keeps (·.ctx.defer) fun _ => rfl).trans hd
  have hsv := (keeps (·.stepReq) fun _ => rfl).trans hstep
  have hstage : (eng v n).stage ≠ .none := by rw [stage_of_unlanded hc]; exact hs
  obtain ⟨h1, h2, h3, h4⟩ := transfer_arrives hstage (eng v n).ctx.pc (eng v n).ctx.cycle hlv hdv (hpc ▸ ht)
  rw [advance_transfers hrv hxv, afterStep_running (h4.trans hsv), ← hcycle]
  exact ⟨h1, h2, h3⟩

/-! ### Transfer words -/

section
variable {s : State} {w : Issue} {addr : BitVec 14} {mask : Word}

/-- R162: LK receives the return address; the target follows the slot. -/
theorem call_awaits (h : Runs s w (.call w addr)) :
    let u := sees s w.eng.val
    let ret := ((eng u w.eng.val).ctx.pc + 2) % 0x4000
    exec (.call w addr) s = .next (awaitSlot (commit u w.eng.val { acts := [landing 3 (.word codeLK (BitVec.ofNat 16 ret))] }) w.eng.val
      (.call addr.toNat ret 0 0)) := issueWith_ok h rfl rfl

theorem ret_awaits (h : Runs s w (.ret w)) :
    let u := sees s w.eng.val
    let e := eng u w.eng.val
    exec (.ret w) s = .next (awaitSlot u w.eng.val (.ret (returnTo e) 0 0 e.inh)) := issueWith_ok h rfl rfl

/-- A nonzero mask has no meaning in Sapling mode (R199). -/
theorem callm_modeTraps (h : Runs s w (.callm w addr mask)) (hs : saplMode (eng (sees s w.eng.val) w.eng.val) = true) (hm : mask ≠ 0) :
    exec (.callm w addr mask) s = .next (engFault (sees s w.eng.val) w.eng.val { cause := 6 }) :=
  word_traps h rfl (if_pos (by rw [hs, decide_eq_true hm]; rfl)) (by decide)

theorem retm_modeTraps (h : Runs s w (.retm w mask)) (hs : saplMode (eng (sees s w.eng.val) w.eng.val) = true) (hm : mask ≠ 0) :
    exec (.retm w mask) s = .next (engFault (sees s w.eng.val) w.eng.val { cause := 6 }) :=
  word_traps h rfl (if_pos (by rw [hs, decide_eq_true hm]; rfl)) (by decide)

/-- The write of A7 beside a CALLM or RETM of `k` words. -/
def a7Lands (k : Nat) (v : Word) : List (Nat × Option Nat × Act) := if k = 0 then [] else [landing (2 + k) (.word (codeA 7) v)]

section
variable (hm : saplMode (eng (sees s w.eng.val) w.eng.val) = false ∨ mask = 0)
include hm

theorem mask_moves : ¬ (saplMode (eng (sees s w.eng.val) w.eng.val) && decide (mask ≠ 0)) = true := by
  rcases hm with h | h <;> simp [h]

theorem callm_awaits (h : Runs s w (.callm w addr mask)) :
    let u := sees s w.eng.val
    let e := eng u w.eng.val
    let k := (movedRegs mask).length
    let low := rW e.ctx (codeA 7) - BitVec.ofNat 16 k
    let ret := (e.ctx.pc + 2) % 0x4000
    (∀ p ∈ saveArea mask low, canWrite e p.2 = true) → exec (.callm w addr mask) s = .next (awaitSlot
      (commit u w.eng.val { acts := a7Lands k low ++ [landing (3 + k) (.word codeLK (BitVec.ofNat 16 ret))] }) w.eng.val
      (.call addr.toNat ret mask low)) := by
  intro u e k low ret hw
  refine issueWith_ok h rfl ((if_neg (mask_moves hm)).trans ?_)
  split
  · next p hp =>
    have hbad := List.find?_some hp
    rw [hw p (List.mem_of_find?_eq_some hp)] at hbad
    exact absurd hbad (by decide)
  · rfl

theorem callm_accessTraps (h : Runs s w (.callm w addr mask)) :
    let e := eng (sees s w.eng.val) w.eng.val
    let low := rW e.ctx (codeA 7) - BitVec.ofNat 16 (movedRegs mask).length
    (∃ p ∈ saveArea mask low, canWrite e p.2 = false) →
      ∃ a, exec (.callm w addr mask) s = .next (engFault (sees s w.eng.val) w.eng.val { cause := 2, addr := a }) := by
  intro e low ⟨p, hp, hno⟩
  cases hf : (saveArea mask low).find? (fun p => !canWrite e p.2) with
  | none => exact absurd (List.find?_eq_none.1 hf p hp) (by rw [hno]; decide)
  | some q =>
    refine ⟨q.2, word_traps h rfl ((if_neg (mask_moves hm)).trans ?_) (show 2 ≠ 4 by decide)⟩
    split
    · next hq => cases hf.symm.trans hq; rfl
    · next hnone => cases hf.symm.trans hnone

theorem retm_awaits (h : Runs s w (.retm w mask)) :
    let u := sees s w.eng.val
    let e := eng u w.eng.val
    let k := (movedRegs mask).length
    let low := rW e.ctx (codeA 7)
    (∀ p ∈ saveArea mask low, Readable u w.eng.val p.2) → exec (.retm w mask) s = .next (awaitSlot
      (commit u w.eng.val { acts := a7Lands k (low + BitVec.ofNat 16 k) }) w.eng.val (.ret (returnTo e) mask low e.inh)) := by
  intro u e k low hr
  refine issueWith_ok h rfl ((if_neg (mask_moves hm)).trans ?_)
  split
  · next p hp =>
    have hbad := List.find?_some hp
    obtain ⟨hmapped, -⟩ := hr p (List.mem_of_find?_eq_some hp)
    rw [Option.isNone_iff_eq_none.1 hbad] at hmapped
    cases hmapped
  · split
    · next p hp =>
      have hbad := List.find?_some hp
      obtain ⟨-, hgood⟩ := hr p (List.mem_of_find?_eq_some hp)
      rw [hgood] at hbad
      cases hbad
    · rfl

theorem retm_accessTraps (h : Runs s w (.retm w mask)) :
    let u := sees s w.eng.val
    (∃ p ∈ saveArea mask (rW (eng u w.eng.val).ctx (codeA 7)), peekWord u w.eng.val p.2 = none) →
      ∃ a, exec (.retm w mask) s = .next (engFault u w.eng.val { cause := 2, addr := a }) := by
  intro u ⟨p, hp, hno⟩
  cases hf : (saveArea mask (rW (eng u w.eng.val).ctx (codeA 7))).find? (fun p => (peekWord u w.eng.val p.2).isNone) with
  | none => exact absurd (List.find?_eq_none.1 hf p hp) (by rw [hno]; decide)
  | some q =>
    refine ⟨q.2, word_traps h rfl ((if_neg (mask_moves hm)).trans ?_) (show 2 ≠ 4 by decide)⟩
    split
    · next hq => cases hf.symm.trans hq; rfl
    · next hnone => cases hf.symm.trans hnone

end

section
variable (hs : saplMode (eng (sees s w.eng.val) w.eng.val) = false)
include hs

theorem br_traps (h : Runs s w (.br w addr)) : exec (.br w addr) s = .next (engFault (sees s w.eng.val) w.eng.val { cause := 1 }) :=
  word_traps h rfl (if_neg (by rw [hs]; decide)) (by decide)

theorem brc_traps {cc : Fin 4} {d : Fin 16} (h : Runs s w (.brc w cc d addr)) :
    exec (.brc w cc d addr) s = .next (engFault (sees s w.eng.val) w.eng.val { cause := 1 }) :=
  word_traps h rfl (if_pos (by rw [hs]; rfl)) (by decide)

end

section
variable (hs : saplMode (eng (sees s w.eng.val) w.eng.val) = true)
include hs

theorem br_awaits (h : Runs s w (.br w addr)) :
    exec (.br w addr) s = .next (awaitSlot (sees s w.eng.val) w.eng.val (.branch addr.toNat)) := issueWith_ok h rfl (if_pos hs)

theorem brc_awaits {cc : Fin 4} {d : Fin 16} (h : Runs s w (.brc w cc d addr)) : exec (.brc w cc d addr) s = .next (awaitSlot
    (sees s w.eng.val) w.eng.val
    (if branchCond cc.val (rW (eng (sees s w.eng.val) w.eng.val).ctx d.val) then .branch addr.toNat else .fallThrough 0)) :=
  issueWith_ok h rfl (if_neg (by rw [hs]; decide))

end

end

/-- R198: the condition of BRC, in the order Z, NZ, N, NN. -/
theorem branchCond_eq (cc : Fin 4) (v : Word) : branchCond cc.val v =
    if cc.val = 0 then decide (v = 0) else if cc.val = 1 then !decide (v = 0) else if cc.val = 2 then v.getLsbD 15 else !v.getLsbD 15 := by
  have hmsb : v.msb = v.getLsbD 15 := BitVec.msb_eq_getLsbD_last v
  match cc with
  | 0 => rfl
  | 1 => exact decide_not
  | 2 => exact hmsb
  | 3 => exact congrArg (!·) hmsb

/-- Settles O15: each transfer word's meaning awaits its slot; a slot without an effect makes the transfer. -/
theorem transferResults : Obligations.TransferResults := by
  refine ⟨?_, ?_⟩
  · intro s w addr mask
    simp only [seenCtx]
    refine ⟨call_awaits, ret_awaits, fun hs hm => ⟨fun h => callm_modeTraps h hs hm, fun h => retm_modeTraps h hs hm⟩,
      fun hm => ⟨fun hw h => callm_awaits hm h hw, fun hno h => callm_accessTraps hm h hno, fun hr h => retm_awaits hm h hr,
        fun hno h => retm_accessTraps hm h hno⟩,
      fun hs => ⟨br_traps hs, fun cc d => brc_traps hs⟩, fun hs => ⟨br_awaits hs, fun cc d h => ?_⟩⟩
    rw [brc_awaits hs h, branchCond_eq]
    rfl
  · intro s w x target
    simp only [seenCtx]
    intro h hx hr hl hd hstep ht
    obtain ⟨⟨hissue, -⟩, -⟩ := id h
    have hword : exec (.nop w) s = .next (advance (commit (sees s w.eng.val) w.eng.val {}) w.eng.val) := does_word h rfl rfl
    have hnext := idleSlot_transfers (u := sees s w.eng.val) (stage_sees (canIssue_stage hissue)) hx hr hl hd hstep ht
    exact ⟨_, hword, hnext⟩

end Sys2Proof.Machine
end

section
/-! Stores to the data space: what each region's store writes, what a read of any word then gives, and that it changes nothing else (R137, R138,
R140, R141, R144, R147, R548). -/
namespace Sys2Proof.Machine

/-! ### The store of each region -/

section
variable {s : State} {n : Nat} {a v : Word}

theorem setCross_setCross {c : Cross} (c' : Cross) (h : c ≠ {}) : setCross (setCross s n c) n c' = setCross s n c' := by
  unfold setCross
  simp only [tset_tset _ _ _ h]

/-- Where a program may write: local RAM, the output buffer, its crossing block, ESTAT and EMODE. -/
theorem writeOk_regions (h : writeOk (eng s n) a v = true) : a.toNat < 0x8000 ∨ (0xA800 ≤ a.toNat ∧ a.toNat < 0xB000) ∨
    (0xB000 ≤ a.toNat ∧ a.toNat < 0xB400) ∨ a = 0xF000 ∨ a = 0xF004 := by
  unfold writeOk canWrite at h
  simp only [Bool.and_eq_true, Bool.or_eq_true, decide_eq_true_eq] at h
  obtain ⟨((hl | ho) | hs) | ⟨hm, -⟩, -⟩ := h
  · exact .inl hl
  · by_cases hb : a.toNat < 0xB000
    · exact .inr (.inl ⟨ho.1, hb⟩)
    · exact .inr (.inr (.inl ⟨Nat.le_of_not_lt hb, ho.2⟩))
  · exact .inr (.inr (.inr (.inl (BitVec.eq_of_toNat_eq hs))))
  · exact .inr (.inr (.inr (.inr (BitVec.eq_of_toNat_eq hm))))

theorem storeWord_local (h : a.toNat < 0x8000) : storeWord s n a v =
    modEng (clearMark s (locOf 2 n a.toNat)) n (fun e => { e with localRam := tset 0 e.localRam a.toNat v }) := if_pos h

theorem storeWord_output (hl : 0xA800 ≤ a.toNat) (h : a.toNat < 0xB000) : storeWord s n a v =
    modCtx s n (fun c => { c with outCur := tset 0 c.outCur (a.toNat - 0xA800) v }) :=
  (if_neg (by omega)).trans (if_pos h)

/-- A crossing block after a store of its engine: the word, and the record of the access (R257). -/
def crossStored (c : Cross) (w : Nat) (v : Word) : Cross :=
  { c with mem := tset 0 c.mem w v, portA := c.portA ++ [⟨w, tget 0 c.mem w, some v, false⟩] }

theorem storeWord_crossing (hl : 0xB000 ≤ a.toNat) (h : a.toNat < 0xB400) : storeWord s n a v =
    setCross (clearMark s (locOf 4 n (a.toNat - 0xB000))) n (crossStored (cross s n) (a.toNat - 0xB000) v) := by
  have hp : ∀ (c : Cross) (x : PortA), ({ c with portA := c.portA ++ [x] } : Cross) ≠ {} := fun c x hc =>
    List.append_ne_nil_of_right_ne_nil c.portA (List.cons_ne_nil x []) (congrArg Cross.portA hc)
  refine (if_neg (by omega)).trans ((if_neg (by omega)).trans ((if_pos h).trans ?_))
  unfold portAcc
  dsimp only
  rw [cross_setCross_some _ (hp _ _), setCross_setCross _ (hp _ _)]
  rfl

section
variable (hc : Canon s)
include hc

theorem eng_storeWord_local (h : a.toNat < 0x8000) :
    eng (storeWord s n a v) n = { eng s n with localRam := tset 0 (eng s n).localRam a.toNat v } :=
  (congrArg (eng · n) (storeWord_local h)).trans (eng_modEng_self (s := clearMark s _) n _ hc.1)

theorem eng_storeWord_output (hl : 0xA800 ≤ a.toNat) (h : a.toNat < 0xB000) : eng (storeWord s n a v) n =
    { eng s n with ctx := { (eng s n).ctx with outCur := tset 0 (eng s n).ctx.outCur (a.toNat - 0xA800) v } } :=
  (congrArg (eng · n) (storeWord_output hl h)).trans (eng_modEng_self n _ hc.1)

theorem cross_storeWord_crossing (hl : 0xB000 ≤ a.toNat) (h : a.toNat < 0xB400) :
    (cross (storeWord s n a v) n).mem = tset 0 (cross s n).mem (a.toNat - 0xB000) v := by
  obtain ⟨-, -, -, -, -, -, -, -, -, w, -⟩ := hc
  rw [storeWord_crossing hl h, cross_setCross_self (s := clearMark s _) n _ w]
  rfl

end

theorem storeWord_estat (h : a = 0xF000) : storeWord s n a v = modEng s n (fun e =>
    { e with ovf := e.ovf && !v.getLsbD 0, hsrPend := e.hsrPend && !v.getLsbD 2, hsrWait := e.hsrWait && !v.getLsbD 2 }) := by
  subst h; rfl

theorem storeWord_emode (h : a = 0xF004) : storeWord s n a v = modCtx s n (fun c => { c with emode := v &&& 0x1F }) := by
  subst h; rfl

end

/-! ### What a store leaves alone -/

section
variable (s : State) (n : Nat) (a v : Word)

/-- The arms of a store of any address: it changes one engine, or one crossing block. -/
theorem storeWord_cases {p : State → Prop} (hm : ∀ s f, p s → p (modEng s n f)) (hx : ∀ s c, p s → p (setCross s n c))
    (he : ∀ s l, p s → p (clearMark s l)) (h : p s) : p (storeWord s n a v) := by
  unfold storeWord
  dsimp only
  split
  · exact hm _ _ (he _ _ h)
  · split
    · exact hm _ _ h
    · split
      · exact hx _ _ (hx _ _ (he _ _ h))
      · split
        · exact hm _ _ h
        · exact hm _ _ h

theorem engClass_storeWord (k : Nat) : engClass (storeWord s n a v) k = engClass s k :=
  storeWord_cases s n a v (p := fun t => engClass t k = engClass s k) (fun _ _ h => h) (fun _ _ h => h) (fun _ _ h => h) rfl

theorem storeWord_keeps : { storeWord s n a v with engines := s.engines, mem := s.mem } = s :=
  storeWord_cases s n a v (p := fun t => { t with engines := s.engines, mem := s.mem } = s) (fun _ _ h => h) (fun _ _ h => h) (fun _ _ h => h) rfl

theorem storeWord_mem : { (storeWord s n a v).mem with cross := s.mem.cross, ecc := s.mem.ecc } = s.mem :=
  storeWord_cases s n a v (p := fun t => { t.mem with cross := s.mem.cross, ecc := s.mem.ecc } = s.mem) (fun _ _ h => h) (fun _ _ h => h)
    (fun _ _ h => h) rfl

theorem storeWord_others {k : Nat} (hk : k ≠ n) : eng (storeWord s n a v) k = eng s k ∧ cross (storeWord s n a v) k = cross s k :=
  storeWord_cases s n a v (p := fun t => eng t k = eng s k ∧ cross t k = cross s k) (fun _ f h => ⟨(eng_modEng_ne _ f hk).trans h.1, h.2⟩)
    (fun _ c h => ⟨h.1, (cross_setCross_ne _ c hk).trans h.2⟩) (fun _ _ h => h) ⟨rfl, rfl⟩

end

/-! ### Reads after a store -/

section
variable {s t : State} {n : Nat} {a v : Word} (hk : engClass t n = engClass s n)
include hk

theorem peekWord_localStored (he : eng t n = { eng s n with localRam := tset 0 (eng s n).localRam a.toNat v })
    (hc : (cross t n).mem = (cross s n).mem) (w : Tbl.wf 0 (eng s n).localRam = true) (h : a.toNat < 0x8000) (b : Word) :
    peekWord t n b = if b = a then some v else peekWord s n b := by
  unfold peekWord
  rw [he, hc, hk]
  by_cases hb : b.toNat < 0x8000
  · simp only [hb, if_true, tget_tset _ _ _ w, BitVec.toNat_inj]
    split <;> rfl
  · rw [if_neg (fun e : b = a => hb (e ▸ h))]
    simp only [hb, if_false]
    rfl

theorem peekWord_outputStored
    (he : eng t n = { eng s n with ctx := { (eng s n).ctx with outCur := tset 0 (eng s n).ctx.outCur (a.toNat - 0xA800) v } })
    (hc : (cross t n).mem = (cross s n).mem) (w : Tbl.wf 0 (eng s n).ctx.outCur = true) (hl : 0xA800 ≤ a.toNat) (h : a.toNat < 0xB000)
    (b : Word) : peekWord t n b = if b = a then some v else peekWord s n b := by
  unfold peekWord
  rw [he, hc, hk]
  by_cases hb : 0xA800 ≤ b.toNat ∧ b.toNat < 0xB000
  · obtain ⟨hbl, hbu⟩ := hb
    have hab : b.toNat - 0xA800 = a.toNat - 0xA800 ↔ b = a := by rw [← BitVec.toNat_inj]; omega
    simp only [show ¬ b.toNat < 0x8000 by omega, show ¬ b.toNat < 0xA000 by omega, show ¬ b.toNat < 0xA800 by omega, hbu, if_true, if_false,
      tget_tset _ _ _ w, hab]
    split <;> rfl
  · rw [if_neg (fun e : b = a => hb (e ▸ ⟨hl, h⟩))]
    by_cases hu : b.toNat < 0xB000
    · have hbl : b.toNat < 0xA800 := by omega
      simp only [hbl, if_true]
      rfl
    · simp only [show ¬ b.toNat < 0x8000 by omega, show ¬ b.toNat < 0xA000 by omega, show ¬ b.toNat < 0xA800 by omega, hu, if_false]
      rfl

theorem peekWord_crossingStored (he : eng t n = eng s n) (hc : (cross t n).mem = tset 0 (cross s n).mem (a.toNat - 0xB000) v)
    (w : Tbl.wf 0 (cross s n).mem = true) (hl : 0xB000 ≤ a.toNat) (h : a.toNat < 0xB400) (b : Word) :
    peekWord t n b = if b = a then some v else peekWord s n b := by
  unfold peekWord
  rw [he, hc, hk]
  by_cases hb : 0xB000 ≤ b.toNat ∧ b.toNat < 0xB400
  · obtain ⟨hbl, hbu⟩ := hb
    have hab : b.toNat - 0xB000 = a.toNat - 0xB000 ↔ b = a := by rw [← BitVec.toNat_inj]; omega
    simp only [show ¬ b.toNat < 0x8000 by omega, show ¬ b.toNat < 0xA000 by omega, show ¬ b.toNat < 0xA800 by omega,
      show ¬ b.toNat < 0xB000 by omega, hbu, if_true, if_false, tget_tset _ _ _ w, hab]
    split <;> rfl
  · rw [if_neg (fun e : b = a => hb (e ▸ ⟨hl, h⟩))]
    by_cases hu : b.toNat < 0xB000
    · simp only [hu, if_true]
    · simp only [hu, show ¬ b.toNat < 0xB400 by omega, if_false]

end

/-- A word stored below the control registers reads back, and every other word reads as before. -/
theorem peekWord_storeWord {s : State} {n : Nat} {a v : Word} (hc : Canon s) (hw : writeOk (eng s n) a v = true) (h : a.toNat < 0xF000)
    (b : Word) : peekWord (storeWord s n a v) n b = if b = a then some v else peekWord s n b := by
  obtain ⟨-, -, -, -, -, -, -, -, -, -, -, hengs, -, hcross⟩ := id hc
  obtain ⟨⟨-, -, -, -, wo, -⟩, -, wl, -⟩ := hengs n
  have hk : engClass (storeWord s n a v) n = engClass s n := engClass_storeWord s n a v n
  obtain hl | ⟨hl, hu⟩ | ⟨hl, hu⟩ | rfl | rfl := writeOk_regions hw
  · exact peekWord_localStored hk (eng_storeWord_local hc hl) (by rw [storeWord_local hl]; rfl) wl hl b
  · exact peekWord_outputStored hk (eng_storeWord_output hc hl hu) (by rw [storeWord_output hl hu]; rfl) wo hl hu b
  · exact peekWord_crossingStored hk (by rw [storeWord_crossing hl hu]; rfl) (cross_storeWord_crossing hc hl hu) (hcross n) hl hu b
  · exact absurd h (by decide)
  · exact absurd h (by decide)

/-! ### The mirroring of outputs -/

/-- No live route mirrors an output of engine `n` (R548). -/
def Unmirrored (s : State) (n : Nat) : Prop := ∀ kv ∈ s.routes, (routeLive kv.2 && mirrored s kv.2 && decide (epUnit kv.2.source = n)) = false

theorem unmirrored_of_kept {s t : State} {n : Nat} (h : Unmirrored s n) (ht : { t with engines := s.engines, mem := s.mem } = s) :
    Unmirrored t n := by
  rw [← ht] at h; exact h

theorem mirrorOut_unmirrored {s : State} {n : Nat} (h : Unmirrored s n) (i : Nat) (v : Long) : mirrorOut s n i v = s := by
  have key : ∀ l : Tbl Route, (∀ kv ∈ l, kv ∈ s.routes) → l.foldl (fun s kv =>
      let r := kv.2
      if routeLive r && mirrored s r && decide (epUnit r.source = n) && decide (epFirst r.source ≤ i) &&
          decide (i < epFirst r.source + r.channels) then
        putIn s (epUnit r.dest) (epFirst r.dest + (i - epFirst r.source)) v
      else s) s = s := by
    intro l
    induction l with
    | nil => exact fun _ => rfl
    | cons kv l ih =>
      intro hl
      simp only [List.foldl_cons, h kv (hl kv (.head _)), Bool.false_and, Bool.false_eq_true, if_false]
      exact ih fun x hx => hl x (.tail _ hx)
  exact key s.routes fun _ hx => hx

theorem storeAll_unmirrored {s : State} {n : Nat} (h : Unmirrored s n) (l : List (Word × Word)) :
    storeAll s n l = l.foldl (fun s p => storeWord s n p.1 p.2) s := by
  have hm : Unmirrored (l.foldl (fun s p => storeWord s n p.1 p.2) s) n :=
    List.foldlRecOn (motive := (Unmirrored · n)) l _ h fun t ht p _ => unmirrored_of_kept ht (storeWord_keeps t n p.1 p.2)
  unfold storeAll
  generalize l.foldl (fun s p => storeWord s n p.1 p.2) s = t at hm
  refine List.foldlRecOn (motive := fun u => u = t) l _ rfl fun u hu p _ => ?_
  subst hu
  dsimp only
  split
  · exact mirrorOut_unmirrored hm _ _
  · rfl

/-- Settles O18: by the region of the address. -/
theorem storedWords : Obligations.StoredWords := by
  intro s n a v hc hw
  obtain ⟨we, -⟩ := id hc
  dsimp only
  refine ⟨peekWord_storeWord hc hw, storeWord_keeps s n a v, fun k hk => ?_, fun h => ?_, fun hl h => ?_, fun hl h => ?_, fun h => ?_,
    fun h => ?_, storeWord_mem s n a v, storeAll_unmirrored⟩
  · obtain ⟨he, hx⟩ := storeWord_others s n a v hk
    exact ⟨he, congrArg Cross.mem hx⟩
  · exact ⟨by rw [eng_storeWord_local hc h], by rw [storeWord_local h]; rfl⟩
  · exact ⟨by rw [eng_storeWord_output hc hl h], by rw [storeWord_output hl h]; rfl⟩
  · rw [storeWord_crossing hl h]; rfl
  · rw [storeWord_estat h]
    exact ⟨rfl, eng_modEng_self _ _ we⟩
  · rw [storeWord_emode h]
    exact ⟨rfl, eng_modEng_self _ _ we⟩

end Sys2Proof.Machine
end

section
/-! The close of an image domain and the completion of its load (R173 to R177, R446). -/
namespace Sys2Proof.Machine

/-! ### The bars of a load -/

section
variable {s : State} {n : Nat}

theorem loadBars_loading (h : (eng s n).loading ≠ none) : loadBars s n = some eBusy := if_pos (Option.isSome_iff_ne_none.mpr h)

theorem loadBars_standby (hl : (eng s n).loading = none) (h : (eng s n).standbyState = 3 ∨ (eng s n).fade ≠ none) :
    loadBars s n = some eState := by
  have hd : (decide ((eng s n).standbyState = 3) || (eng s n).fade.isSome) = true := by
    simpa [Option.isSome_iff_ne_none, -not_or, or_iff_not_imp_left] using h
  exact (if_neg (by rw [hl]; decide)).trans (if_pos hd)

theorem loadBars_free (hl : (eng s n).loading = none) (hb : (eng s n).standbyState ≠ 3) (hf : (eng s n).fade = none) : loadBars s n = none := by
  unfold loadBars
  simp [hl, hb, hf]

theorem loadBars_taken (s : State) (r : Req) (n : Nat) : loadBars (taken s r) n = loadBars s n := by
  unfold loadBars
  rw [eng_of_engines (taken_engines s r)]

theorem eng_loadFails (w : Tbl.wf {} s.engines = true) (c : Word) : eng (loadFails s n c) n = { eng s n with loadResult := c } :=
  (detect_eng ..).trans (eng_modEng_self n _ w)

theorem loadBars_loadFails (w : Tbl.wf {} s.engines = true) (c : Word) : loadBars (loadFails s n c) n = loadBars s n := by
  unfold loadBars
  rw [eng_loadFails w]

end

/-! ### The close of a served request -/

theorem gateFails_taken (s : State) (r : Req) (g : Gate) : gateFails (taken s r) r g = gateFails s r g := by
  unfold gateFails
  rw [taken_session, taken_keylessBars, taken_dictAdmits]

section
variable {s : State} {r : Req} {obj role : Nat}

theorem served_loadFails (h : Served s r obj role) (n : Nat) (c : Word) : Served (loadFails s n c) r obj role := by
  unfold loadFails Served Heard keylessBars dictAdmits dictPresent coreUp at *
  simpa using h

theorem closeCmd_served (h : Served s r obj role) (k : Nat) (body : State → Except Word State) :
    closeCmd s r { obj := obj, role := role } k body = match body (taken s r) with
      | .error c => sendReply (taken s r) r 5 1 c 0 (be 4 k)
      | .ok t => sendReply t r 5 1 eOK 0xFF (be 4 k) := by
  unfold closeCmd
  rw [runRequest_heard h.1, served_gate h _ rfl rfl rfl rfl]
  cases body (taken s r) <;> rfl

end

section
variable {s : State} {r : Req} {e : Fin 32} (h : Served s r (engObj e.val 1) engineer)
include h

theorem noteRefusal_served : noteRefusal s r e.val (gateFails s r { obj := engObj e.val 1, role := engineer }).isNone =
    (loadBars s e.val).elim s (loadFails s e.val) := by
  obtain ⟨hp, hs, -⟩ := id h.1
  have hg : gateFails s r { obj := engObj e.val 1, role := engineer } = none :=
    (gateFails_taken s r _).symm.trans (served_gate h _ rfl rfl rfl rfl)
  unfold noteRefusal
  cases loadBars s e.val with
  | none => rfl
  | some c => simp only [hp, hs, hg, decide_true, Option.isNone_none, Bool.and_self, if_true, Option.elim_some]

theorem imageLoad_barred (w : Tbl.wf {} s.engines = true) {c : Word} (hb : loadBars s e.val = some c) (image : List Byte) :
    exec (.imageLoad r e image) s = .next (sendReply (taken (loadFails s e.val c) r) r 5 1 c 0 (be 4 image.length)) := by
  have hc : closeImage (taken (loadFails s e.val c) r) e image = .error c := by
    unfold closeImage
    rw [loadBars_taken, loadBars_loadFails w, hb]
  show execImageLoad r e image s = _
  unfold execImageLoad
  dsimp only
  rw [noteRefusal_served h, hb, Option.elim_some, closeCmd_served (served_loadFails h ..), hc]
  rfl

theorem imageLoad_begins (hb : loadBars s e.val = none) (image : List Byte) :
    exec (.imageLoad r e image) s = .next (sendReply (beginLoad (taken s r) e image) r 5 1 eOK 0xFF (be 4 image.length)) := by
  have hc : closeImage (taken s r) e image = .ok (beginLoad (taken s r) e image) := by
    unfold closeImage
    rw [loadBars_taken, hb]
  show execImageLoad r e image s = _
  unfold execImageLoad
  dsimp only
  rw [noteRefusal_served h, hb, Option.elim_none, closeCmd_served h, hc]
  rfl

end

theorem beginLoad_loads {s : State} {e : Fin 32} {image : List Byte} {b : ProgBank} (h : loadImage s e image = .ok b) : beginLoad s e image =
    modEng s e.val (fun g => { g with loading := some b, standbyState := if b.sapling then g.standbyState else 1 }) := by
  unfold beginLoad; rw [h]

theorem beginLoad_fails {s : State} {e : Fin 32} {image : List Byte} {c : Word} (h : loadImage s e image = .error c) :
    beginLoad s e image = loadFails s e.val c := by
  unfold beginLoad; rw [h]

/-! ### The completion of a load -/

section
variable {s : State} {e : Fin 32} {b : ProgBank}

/-- The load runs no longer. -/
def loadDone (s : State) (n : Nat) : State := modEng s n (fun g => { g with loading := none })

theorem loadComplete_idle (h : (eng s e.val).loading = none) : exec (.loadComplete e) s = .next s := by
  show execLoadComplete e s = _
  unfold execLoadComplete
  dsimp only
  rw [h]
  rfl

variable (w : Tbl.wf {} s.engines = true)
include w

theorem eng_loadDone (n : Nat) : eng (loadDone s n) n = { eng s n with loading := none } := eng_modEng_self n _ w

theorem loadDone_wf (n : Nat) : Tbl.wf {} (loadDone s n).engines = true := setEng_wf n _ w

variable (h : (eng s e.val).loading = some b)
include h

omit w in
theorem loadComplete_frame (hb : b.sapling = false) : exec (.loadComplete e) s = .next (modEng (dropProgMarks (loadDone s e.val) e.val true) e.val
    (fun g => { g with standby := b, standbyState := 2, loadResult := eOK })) := by
  show execLoadComplete e s = _
  unfold execLoadComplete
  dsimp only
  rw [h]
  simp only [hb, Bool.not_false, if_true]
  rfl

theorem loadComplete_sapling (hb : b.sapling = true) (hs : (eng s e.val).state = .sapling ∨ (eng s e.val).state = .halted) :
    exec (.loadComplete e) s = .next (modEng (dropProgMarks (loadDone s e.val) e.val false) e.val (fun g =>
      { g with active := b, loadResult := eOK, state := .sapling, running := false, stage := .none, ctx := { g.ctx with inflight := [] } })) := by
  have hd : (decide ((eng (loadDone s e.val) e.val).state = .sapling) || decide ((eng (loadDone s e.val) e.val).state = .halted)) = true := by
    rw [eng_loadDone w]; simpa using hs
  show execLoadComplete e s = _
  unfold execLoadComplete
  dsimp only
  rw [h]
  simp only [hb, Bool.not_true, Bool.false_eq_true, if_false]
  exact if_pos hd

theorem loadComplete_refused (hb : b.sapling = true) (hs : (eng s e.val).state ≠ .sapling) (hh : (eng s e.val).state ≠ .halted) :
    exec (.loadComplete e) s = .next (loadFails (loadDone s e.val) e.val eState) := by
  have hd : ¬ (decide ((eng (loadDone s e.val) e.val).state = .sapling) || decide ((eng (loadDone s e.val) e.val).state = .halted)) = true := by
    rw [eng_loadDone w]; simpa using ⟨hs, hh⟩
  show execLoadComplete e s = _
  unfold execLoadComplete
  dsimp only
  rw [h]
  simp only [hb, Bool.not_true, Bool.false_eq_true, if_false]
  exact if_neg hd

end

theorem eng_dropProgMarks (s : State) (n : Nat) (x : Bool) (k : Nat) : eng (dropProgMarks s n x) k = eng s k := eng_of_engines rfl k

theorem loadDone_others {s : State} {n k : Nat} (h : k ≠ n) : eng (loadDone s n) k = eng s k := eng_modEng_ne s _ h

section
variable {s : State} {n : Nat} (w : Tbl.wf {} s.engines = true)
include w

theorem eng_bankLoaded (x : Bool) (f : Engine → Engine) :
    eng (modEng (dropProgMarks (loadDone s n) n x) n f) n = f { eng s n with loading := none } := by
  rw [← eng_loadDone w n, ← eng_dropProgMarks _ n x n]
  exact eng_modEng_self n f (loadDone_wf w n)

omit w in
theorem bankLoaded_rest (x : Bool) (f : Engine → Engine) {t : State} (ht : t = modEng (dropProgMarks (loadDone s n) n x) n f) :
    { t with engines := s.engines, mem := s.mem, events := s.events } = s ∧ ∀ k, k ≠ n → eng t k = eng s k := by
  subst ht
  refine ⟨by unfold dropProgMarks dropMarks loadDone; simp, fun k hk => ?_⟩
  exact (eng_modEng_ne _ f hk).trans ((eng_dropProgMarks ..).trans (loadDone_others hk))

theorem loadFails_done (c : Word) : eng (loadFails (loadDone s n) n c) n = { eng s n with loading := none, loadResult := c } := by
  rw [eng_loadFails (loadDone_wf w n), eng_loadDone w]

omit w in
theorem loadFails_rest (c : Word) : { loadFails (loadDone s n) n c with engines := s.engines, mem := s.mem, events := s.events } = s ∧
    ∀ k, k ≠ n → eng (loadFails (loadDone s n) n c) k = eng s k := by
  refine ⟨by unfold loadFails loadDone; simp, fun k hk => ?_⟩
  exact (detect_eng ..).trans ((eng_modEng_ne _ _ hk).trans (loadDone_others hk))

end

/-- Settles O22: by what bars the load, what the loader answers, and the image's kind. -/
theorem imageLoading : Obligations.ImageLoading := by
  intro s r e image b c hc
  obtain ⟨w, -⟩ := hc
  refine ⟨fun hs => ?_, loadComplete_idle, fun h => ?_⟩
  · rw [show 0x0401 + 32 * e.val = engObj e.val 1 by unfold engObj; omega] at hs
    refine ⟨fun h => imageLoad_barred hs w (loadBars_loading h) image, fun hl h => imageLoad_barred hs w (loadBars_standby hl h) image,
      fun hl hb hf => ?_⟩
    have hx := imageLoad_begins hs (loadBars_free hl hb hf) image
    exact ⟨fun hi => by rw [beginLoad_loads hi] at hx; exact hx, fun hi => by rw [beginLoad_fails hi] at hx; exact hx⟩
  · cases hb : b.sapling with
    | false =>
      obtain ⟨hrest, hother⟩ := bankLoaded_rest (s := s) (n := e.val) true _ rfl
      have he := eng_bankLoaded w (n := e.val) true (fun g => { g with standby := b, standbyState := 2, loadResult := eOK })
      refine ⟨_, loadComplete_frame h hb, by rw [he], fun _ => by rw [he]; exact ⟨rfl, rfl, rfl, rfl⟩, nofun, nofun, hrest, hother⟩
    | true =>
      by_cases hs : (eng s e.val).state = .sapling ∨ (eng s e.val).state = .halted
      · obtain ⟨hrest, hother⟩ := bankLoaded_rest (s := s) (n := e.val) false _ rfl
        have he := eng_bankLoaded w (n := e.val) false (fun g =>
          { g with active := b, loadResult := eOK, state := .sapling, running := false, stage := .none, ctx := { g.ctx with inflight := [] } })
        exact ⟨_, loadComplete_sapling w h hb hs, by rw [he], nofun, fun _ _ => by rw [he]; exact ⟨rfl, rfl, rfl, rfl⟩,
          fun _ hns hnh => absurd hs (not_or.mpr ⟨hns, hnh⟩), hrest, hother⟩
      · obtain ⟨hns, hnh⟩ := not_or.mp hs
        obtain ⟨hrest, hother⟩ := loadFails_rest (s := s) (n := e.val) eState
        have he := loadFails_done w (n := e.val) eState
        exact ⟨_, loadComplete_refused w h hb hns hnh, by rw [he], nofun, fun _ h' => absurd h' hs,
          fun _ _ _ => by rw [he]; exact ⟨rfl, rfl⟩, hrest, hother⟩

end Sys2Proof.Machine
end

section
/-! JTAG and the debug port: the selection of an instruction, the common course of the debug commands, and DBG_DATA (R166, R167, R492 to R497). -/
namespace Sys2Proof.Machine

/-! ### Selecting an instruction (R494) -/

section
variable (s : State)

theorem decodeIr_eq : ∀ {code : BitVec 5}, code ≠ 0x00 → code ≠ 0x03 → decodeIr code =
    if code.toNat = 1 ∨ code.toNat = 2 ∨ (0x10 ≤ code.toNat ∧ code.toNat ≤ 0x14) then code else 0x1F := by decide

variable {s} {code : BitVec 5}

section
variable (h0 : code ≠ 0x00) (h3 : code ≠ 0x03)
include h0 h3

theorem selectIr_away : selectIr s code = if s.jtag.scanHold then
    holdReset (setDebug s (fun d => { d with ir := decodeIr code })) s.power.brown s.power.rstLow false
    else setDebug s (fun d => { d with ir := decodeIr code }) := by
  have hx : (decide (code = 0x00) || decide (code = 0x03)) = false := by rw [decide_eq_false h0, decide_eq_false h3]; rfl
  unfold selectIr
  dsimp only
  rw [hx]
  rfl

/-- A selection that starts no boundary scan changes only the TAP and what holds the part in reset. -/
theorem selectIr_keeps : { selectIr s code with jtag := s.jtag, power := s.power } = s := by
  rw [selectIr_away h0 h3]
  split <;> rfl

theorem jtag_selectIr : (selectIr s code).jtag = { s.jtag with ir := decodeIr code, scanHold := false } := by
  rw [selectIr_away h0 h3]
  split
  · rfl
  · next h => rw [← Bool.eq_false_of_not_eq_true h]; rfl

theorem selectIr_unheld (h : s.jtag.scanHold = false) : selectIr s code = { s with jtag := { s.jtag with ir := decodeIr code } } := by
  rw [selectIr_away h0 h3, h]; rfl

theorem selectIr_releases (h : s.jtag.scanHold = true) : selectIr s code = { s with
    jtag := { s.jtag with ir := decodeIr code, scanHold := false }, power := { s.power with held := s.power.brown || s.power.rstLow } } := by
  rw [selectIr_away h0 h3, h, ← Bool.or_false (s.power.brown || s.power.rstLow)]; rfl

theorem fuses_selectIr : (selectIr s code).fuses = s.fuses := (congrArg State.fuses (selectIr_keeps h0 h3) :)
theorem fresh_selectIr : (selectIr s code).fresh = s.fresh := (congrArg State.fresh (selectIr_keeps h0 h3) :)
theorem heart_selectIr : (selectIr s code).heart = s.heart := (congrArg State.heart (selectIr_keeps h0 h3) :)
theorem cfg_selectIr : (selectIr s code).cfg = s.cfg := (congrArg State.cfg (selectIr_keeps h0 h3) :)
theorem events_selectIr : (selectIr s code).events = s.events := (congrArg State.events (selectIr_keeps h0 h3) :)
theorem now_selectIr : now (selectIr s code) = now s := (congrArg now (selectIr_keeps h0 h3) :)

end

section
variable (hc : code = 0x00 ∨ code = 0x03)
include hc

theorem selectIr_held (h : s.jtag.scanHold = true) : selectIr s code = { s with jtag := { s.jtag with ir := code } } := by
  unfold selectIr setDebug
  dsimp only
  obtain rfl | rfl := hc <;> rw [h] <;> rfl

/-- EXTEST and CLAMP hold the part in a reset whose cause is a free value (R492). -/
theorem selectIr_scans (h : s.jtag.scanHold = false) : selectIr s code =
    resetUncaused (holdReset (setDebug s (fun d => { d with ir := code })) s.power.brown s.power.rstLow true) := by
  unfold selectIr setDebug
  dsimp only
  obtain rfl | rfl := hc <;> rw [h] <;> rfl

theorem selectIr_resets (h : s.jtag.scanHold = false) :
    (selectIr s code).jtag.ir = code ∧ (selectIr s code).jtag.scanHold = true ∧
    drivenPins (selectIr s code) = some (selectIr s code).jtag.preload ∧
    (selectIr s code).power.held = true ∧ (selectIr s code).power.dev = .booting ∧ (selectIr s code).engines = [] ∧
    (selectIr s code).power.resetCause = (Config.freeWord s.fresh).toNat ∧ (selectIr s code).fuses = s.fuses := by
  rw [selectIr_scans hc h]
  have hd : (decide (code = 0x00) || decide (code = 0x03)) = true := by simpa using hc
  exact ⟨rfl, rfl, if_pos hd, Bool.or_true _, rfl, rfl, rfl, rfl⟩

end

end

/-! ### The course of a debug command (R495, R497) -/

section
variable (s : State)

/-- The state an accepted debug command works on: the transfer before it has ended. -/
def transferEnded : State :=
  dropReads { selectIr s 0x12 with jtag := { (selectIr s 0x12).jtag with error := 0, xfer := none } }

/-- A debug command fails LOCKED, then RANGE, then STATE, and does nothing else then; else it leaves `t`. -/
def DebugDoes (i : Instr) (range accepted : Prop) (t : State) : Prop :=
  let v := selectIr s 0x12
  let fails (c : Nat) : Prop := exec i s = .next { v with jtag := { v.jtag with error := c } }
  (debugOpen v = false → fails 1) ∧ (debugOpen v = true → ¬ range → fails 3) ∧
  (debugOpen v = true → range → ¬ accepted → fails 2) ∧ (debugOpen v = true → range → accepted → exec i s = .next t)

variable {s}

theorem dropReads_unqueued {t : State} (h : ∀ b < 32, ∀ q ∈ (bank t b).queue, q.who = 6 → q.write ≠ none) : dropReads t = t := by
  unfold dropReads
  refine List.foldlRecOn (motive := (· = t)) (List.range 32) _ rfl fun u hu b hb => ?_
  subst hu
  refine if_neg fun hq => ?_
  obtain ⟨q, hm, hx⟩ := List.any_eq_true.mp hq
  obtain ⟨hw, hn⟩ := Bool.and_eq_true_iff.mp hx
  exact h b (List.mem_range.mp hb) q hm (of_decide_eq_true hw) (Option.isNone_iff_eq_none.mp hn)

theorem transferEnded_unqueued (h : ∀ b < 32, ∀ q ∈ (bank (selectIr s 0x12) b).queue, q.who = 6 → q.write ≠ none) :
    transferEnded s = { selectIr s 0x12 with jtag := { (selectIr s 0x12).jtag with error := 0, xfer := none } } := dropReads_unqueued h

theorem dropReads_jtag (t : State) : (dropReads t).jtag = t.jtag := by
  unfold dropReads
  refine List.foldlRecOn (motive := fun u : State => u.jtag = t.jtag) (List.range 32) _ rfl fun (u : State) hu b _ => ?_
  split <;> exact hu

variable {i : Instr} {rangeOk stateOk : Bool} {effect : State → State} {range accepted : Prop} {t : State}

theorem dbgCmd_does (hx : exec i s = dbgCmd s rangeOk stateOk effect) (hr : rangeOk = true ↔ range) (ha : stateOk = true ↔ accepted)
    (ht : effect (transferEnded s) = t) : DebugDoes s i range accepted t := by
  subst ht
  unfold DebugDoes
  rw [hx, ← hr, ← ha]
  unfold dbgCmd
  refine ⟨fun ho => ?_, fun ho hr => ?_, fun ho hr ha => ?_, fun ho hr ha => ?_⟩
  · simp only [ho, Bool.not_false, if_true]; rfl
  · simp only [ho, hr, Bool.not_true, Bool.false_eq_true, if_false, Bool.not_false, if_true]; rfl
  · simp only [ho, hr, ha, Bool.not_true, Bool.false_eq_true, if_false, Bool.not_false, if_true]; rfl
  · simp only [ho, hr, ha, Bool.not_true, Bool.false_eq_true, if_false]; rfl

/-- A command with no condition on the engine's state. -/
theorem dbgCmd_doesAlways (hx : exec i s = dbgCmd s rangeOk true effect) (hr : rangeOk = true ↔ range) (ht : effect (transferEnded s) = t) :
    DebugDoes s i range True t := dbgCmd_does hx hr (iff_of_true rfl trivial) ht

theorem debugDoes_effect (h : DebugDoes s i range accepted t) (ho : debugOpen (selectIr s 0x12) = true) (hr : range) (ha : accepted) :
    exec i s = .next t := h.2.2.2 ho hr ha

theorem jtag_transferEnded (s : State) : (transferEnded s).jtag = { (selectIr s 0x12).jtag with error := 0, xfer := none } := dropReads_jtag _

/-- An accepted command's transfer through DBG_DATA. -/
def opened (s : State) (x : DbgXfer) : State :=
  { transferEnded s with jtag := { (selectIr s 0x12).jtag with error := 0, xfer := some x } }

theorem setDebug_opens (s : State) (x : DbgXfer) : setDebug (transferEnded s) (fun d => { d with xfer := some x }) = opened s x := by
  unfold setDebug opened
  rw [jtag_transferEnded]

theorem readyValues_some (s : State) (op unit addr : Nat) (l : List Long) :
    readyValues s op unit addr (l.map some) = setDebug s (fun d => { d with xfer := some ⟨false, op, unit, addr, 0, l, []⟩ }) := by
  have hn : ∀ l : List Long, (l.map some).any (fun v => v.isNone) = false := fun l => by simp
  unfold readyValues
  dsimp only
  rw [hn, List.map_map]
  simp

end

/-! ### The debug commands (R495, R496) -/

section
variable (s : State) (unit : Byte) (addr : BitVec 24) (count : Byte)

theorem ownUnit_iff : (engUnit unit && decide (addr = 0)) = true ↔ unit.toNat < 32 ∧ addr = 0 := by
  unfold engUnit; simp only [Bool.and_eq_true, decide_eq_true_eq]

theorem dlsRange_iff : dlsRange unit addr count = true ↔
    addr.toNat / 0x80000 = unit.toNat ∧ addr.toNat % 0x80000 + (count.toNat + 1) ≤ 0x80000 := by
  unfold dlsRange dbgCount; simp only [Bool.and_eq_true, decide_eq_true_eq]

section
variable (e : Engine)

theorem writesRegs_iff : writesRegs e = true ↔ e.state = .debug ∨ e.state = .halted := by
  unfold writesRegs; simp only [Bool.or_eq_true, decide_eq_true_eq]

theorem writesData_iff : writesData e = true ↔ (e.state = .debug ∨ e.state = .halted) ∨ e.state = .sapling := by
  unfold writesData; simp only [Bool.or_eq_true, decide_eq_true_eq]

end

theorem breakEng_does : DebugDoes s (.breakEng unit addr count) (unit.toNat < 32 ∧ addr = 0)
    ((eng s unit.toNat).state = .run ∨ ((eng s unit.toNat).state = .sapling ∧ (eng s unit.toNat).running = true))
    (modEng (transferEnded s) unit.toNat (fun e => { e with breakReq := true })) := by
  have hx : exec (.breakEng unit addr count) s = execBreakEng unit addr count s := rfl
  unfold execBreakEng at hx
  exact dbgCmd_does hx (ownUnit_iff unit addr) (by unfold saplRuns; simp only [Bool.or_eq_true, Bool.and_eq_true, decide_eq_true_eq]) rfl

theorem step_does : DebugDoes s (.step unit addr count) (unit.toNat < 32 ∧ addr = 0)
    ((eng s unit.toNat).state = .debug ∨ (eng s unit.toNat).state = .halted)
    (if (eng s unit.toNat).state = .debug then modEng (transferEnded s) unit.toNat (fun e => { e with stepReq := true })
     else if (eng s unit.toNat).haltByDebug then modEng (transferEnded s) unit.toNat (fun e => goOn e true)
     else transferEnded s) := by
  have hx : exec (.step unit addr count) s = execStep unit addr count s := rfl
  unfold execStep at hx
  exact dbgCmd_does hx (ownUnit_iff unit addr) (writesRegs_iff _) rfl

theorem resume_does : DebugDoes s (.resume unit addr count) (unit.toNat < 32 ∧ addr = 0)
    ((eng s unit.toNat).state = .debug ∨ ((eng s unit.toNat).state = .halted ∧ (eng s unit.toNat).haltByDebug = true))
    (modEng (transferEnded s) unit.toNat (fun e =>
      if e.state = .debug then { e with state := .run, stage := .none, prepared := false, stepReq := false, breakReq := false }
      else goOn e false)) := by
  have hx : exec (.resume unit addr count) s = execResume unit addr count s := rfl
  unfold execResume at hx
  exact dbgCmd_does hx (ownUnit_iff unit addr) (by simp only [Bool.or_eq_true, Bool.and_eq_true, decide_eq_true_eq]) rfl

theorem setBreak_does : DebugDoes s (.setBreak unit addr count) (unit.toNat < 32 ∧ (addr.toNat < 0x4000 ∨ addr = 0xFFFF)) True
    (modEng (transferEnded s) unit.toNat (fun e => { e with breakAddr := if addr = 0xFFFF then none else some addr.toNat })) := by
  have hx : exec (.setBreak unit addr count) s = execSetBreak unit addr count s := rfl
  unfold execSetBreak at hx
  exact dbgCmd_doesAlways hx (by unfold engUnit; simp only [Bool.or_eq_true, Bool.and_eq_true, decide_eq_true_eq]) rfl

theorem readData_does : DebugDoes s (.readData unit addr count) (unit.toNat < 32 ∧ addr.toNat < 0x10000) True
    (readyValues (debugEcc (transferEnded s) (((List.range (count.toNat + 1)).map (fun i => addr.toNat + i)).flatMap
        (fun a => if a < 0x10000 then eccLocs (transferEnded s) unit.toNat (BitVec.ofNat 16 a) else []))) 0x10 unit.toNat addr.toNat
      (((List.range (count.toNat + 1)).map (fun i => addr.toNat + i)).map (debugWord (transferEnded s) unit.toNat))) := by
  have hx : exec (.readData unit addr count) s = execReadData unit addr count s := rfl
  unfold execReadData at hx
  exact dbgCmd_doesAlways hx (by unfold engUnit; simp only [Bool.and_eq_true, decide_eq_true_eq]) rfl

theorem writeData_does : DebugDoes s (.writeData unit addr count) (unit.toNat < 32 ∧ debugWritable addr.toNat (count.toNat + 1) = true)
    (((eng s unit.toNat).state = .debug ∨ (eng s unit.toNat).state = .halted) ∨ (eng s unit.toNat).state = .sapling)
    (opened s ⟨true, 0x11, unit.toNat, addr.toNat, count.toNat + 1, [], []⟩) := by
  have hx : exec (.writeData unit addr count) s = execWriteData unit addr count s := rfl
  unfold execWriteData at hx
  exact dbgCmd_does hx (by unfold engUnit dbgCount; simp only [Bool.and_eq_true, decide_eq_true_eq]) (writesData_iff _) (setDebug_opens ..)

/-- The transfers of the registers from a code on, as READ_REG finds them. -/
def debugRegs (s : State) (n code : Nat) : List Long :=
  (List.range 64).flatMap (fun i => regValues (debugCtx (transferEnded s) n)
    (if (eng s n).state = .debug then (eng s n).active.entry else (debugCtx (transferEnded s) n).pc) (code + i))

/-- The registers that a command names exist. -/
def regsNamed (unit : Byte) (addr : BitVec 24) (count : Byte) : Prop :=
  unit.toNat < 32 ∧ addr.toNat < 0x100 ∧ regsThere 64 addr.toNat (count.toNat + 1) = true

theorem readReg_does : DebugDoes s (.readReg unit addr count) (regsNamed unit addr count)
    (((eng s unit.toNat).state = .debug ∨ (eng s unit.toNat).state = .halted) ∨ (eng s unit.toNat).state = .sapling)
    (opened s ⟨false, 0x12, unit.toNat, addr.toNat, 0, (debugRegs s unit.toNat addr.toNat).take (count.toNat + 1), []⟩) := by
  have hx : exec (.readReg unit addr count) s = execReadReg unit addr count s := rfl
  unfold execReadReg at hx
  exact dbgCmd_does hx (by unfold engUnit dbgCount regsNamed; simp only [Bool.and_eq_true, decide_eq_true_eq, and_assoc]) (writesData_iff _)
    ((readyValues_some ..).trans (setDebug_opens ..))

theorem debugRegs_first {n code : Nat} (h : code < 0x2E) :
    (debugRegs s n code).take 1 = [(rW (debugCtx (transferEnded s) n) code).setWidth 32] := by
  unfold debugRegs
  rw [List.range_succ_eq_map, List.flatMap_cons, Nat.add_zero]
  unfold regValues
  rw [if_pos (Nat.le_of_lt_succ h)]
  rfl

theorem writeReg_does : DebugDoes s (.writeReg unit addr count) (regsNamed unit addr count ∧
      ¬ ∃ i < 64, ((List.range i).map (fun j => regTransfers (addr.toNat + j))).sum < count.toNat + 1 ∧ addr.toNat + i = 0x3B)
    ((eng s unit.toNat).state = .debug ∨ (eng s unit.toNat).state = .halted)
    (opened s ⟨true, 0x13, unit.toNat, addr.toNat, count.toNat + 1, [], []⟩) := by
  have hx : exec (.writeReg unit addr count) s = execWriteReg unit addr count s := rfl
  unfold execWriteReg at hx
  refine dbgCmd_does hx ?_ (writesRegs_iff _) (setDebug_opens ..)
  unfold engUnit dbgCount regsNamed
  simp only [Bool.and_eq_true, decide_eq_true_eq, and_assoc, List.all_eq_true, List.mem_filter, List.mem_range, not_exists, not_and, and_imp,
    ne_eq]

theorem readProg_does : DebugDoes s (.readProg unit addr count) (unit.toNat < 32 ∧ addr &&& 0xFEC000 = 0) True
    (let n := unit.toNat
     let e := eng s n
     let half := if e.actBank = addr.getLsbD 16 then 0 else 0x4000
     let at' := (List.range (count.toNat + 1)).map (fun i => addr.toNat % 0x4000 + i)
     readyValues (debugEcc (transferEnded s) (at'.filterMap (fun a => if a < 0x4000 then some (locOf 1 n (half + a)) else none))) 0x14 n
       (addr.toNat % 0x4000) (at'.map (fun a => if a < 0x4000 ∧ eccMark (transferEnded s) (locOf 1 n (half + a)) ≠ 2 then
         some (tget 0 (if addr.getLsbD 16 then e.standby else e.active).words a) else none))) := by
  have hh : bitOf ((eng s unit.toNat).actBank != addr.getLsbD 16) * 0x4000 =
      if (eng s unit.toNat).actBank = addr.getLsbD 16 then 0 else 0x4000 := by
    unfold bitOf
    by_cases h : (eng s unit.toNat).actBank = addr.getLsbD 16 <;> simp [h]
  have hx : exec (.readProg unit addr count) s = execReadProg unit addr count s := rfl
  unfold execReadProg at hx
  refine dbgCmd_doesAlways hx ?_ ?_
  · unfold engUnit
    simp only [Bool.and_eq_true, decide_eq_true_eq, ← BitVec.toNat_inj, BitVec.toNat_and]
    rfl
  · dsimp only [dbgCount]
    rw [hh]
    refine congrArg (readyValues _ 0x14 unit.toNat (addr.toNat % 0x4000)) (List.map_congr_left fun a _ => ?_)
    by_cases ha : a < 0x4000
    · simp [ha]
    · simp [ha]

theorem writeDls_does : DebugDoes s (.writeDls unit addr count)
    (addr.toNat / 0x80000 = unit.toNat ∧ addr.toNat % 0x80000 + (count.toNat + 1) ≤ 0x80000) ((bank s unit.toNat).kind = 0)
    (opened s ⟨true, 0x21, unit.toNat, addr.toNat, count.toNat + 1, [], []⟩) := by
  have hx : exec (.writeDls unit addr count) s = execWriteDls unit addr count s := rfl
  unfold execWriteDls at hx
  exact dbgCmd_does hx (dlsRange_iff ..) decide_eq_true_iff (setDebug_opens ..)

theorem queueShared_opened (x : DbgXfer) (n : Nat) (l : List SharedReq) : queueShared (opened s x) n l =
    setBank (opened s x) n { bank (transferEnded s) n with queue := (bank (transferEnded s) n).queue ++ l } := by
  have hb : bank (opened s x) n = bank (transferEnded s) n := by unfold bank opened; dsimp only
  unfold queueShared
  rw [hb]

theorem readDls_does : DebugDoes s (.readDls unit addr count)
    (addr.toNat / 0x80000 = unit.toNat ∧ addr.toNat % 0x80000 + (count.toNat + 1) ≤ 0x80000) True
    (setBank (opened s ⟨false, 0x20, unit.toNat, addr.toNat, count.toNat + 1, [], []⟩) unit.toNat { bank (transferEnded s) unit.toNat with
      queue := (bank (transferEnded s) unit.toNat).queue ++
        (List.range (count.toNat + 1)).map (fun i => ⟨6, addr.toNat % 0x80000 + i, 1, none⟩) }) := by
  have hx : exec (.readDls unit addr count) s = execReadDls unit addr count s := rfl
  unfold execReadDls at hx
  exact dbgCmd_doesAlways hx (dlsRange_iff ..) ((congrArg (queueShared · _ _) (setDebug_opens ..)).trans (queueShared_opened ..))

end

/-! ### Reads of one word that is intact -/

section

theorem eccRead_unmarked {s : State} {l : Nat} (h : eccMark s l = 0) : eccRead s l = s := by unfold eccRead; rw [h]; rfl

variable {s : State} {unit : Byte} {addr : BitVec 24} (hu : unit.toNat < 32) (ho : debugOpen (selectIr s 0x12) = true)
include hu ho

theorem readData_intact (ha : addr.toNat < 0x8000) (he : eccMark (transferEnded s) (locOf 2 unit.toNat addr.toNat) = 0) :
    exec (.readData unit addr 0) s = .next (opened s
      ⟨false, 0x10, unit.toNat, addr.toNat, 0, [(wordSeen (transferEnded s) unit.toNat (BitVec.ofNat 16 addr.toNat)).setWidth 32], []⟩) := by
  have hn : (BitVec.ofNat 16 addr.toNat).toNat = addr.toNat := by rw [BitVec.toNat_ofNat]; omega
  have hl : eccLocs (transferEnded s) unit.toNat (BitVec.ofNat 16 addr.toNat) = [locOf 2 unit.toNat addr.toNat] := by
    unfold eccLocs; simp only [hn, ha, if_true]
  have hb : wordBad (transferEnded s) unit.toNat (BitVec.ofNat 16 addr.toNat) = false := by
    unfold wordBad badLoc; rw [hl]; simp [he]
  have hp : peekWord (transferEnded s) unit.toNat (BitVec.ofNat 16 addr.toNat) =
      some (wordSeen (transferEnded s) unit.toNat (BitVec.ofNat 16 addr.toNat)) := by
    have hs : peekWord (transferEnded s) unit.toNat (BitVec.ofNat 16 addr.toNat) =
        some (tget 0 (eng (transferEnded s) unit.toNat).localRam addr.toNat) := by
      unfold peekWord; simp only [hn, ha, if_true]
    unfold wordSeen; rw [hs, Option.getD_some]
  have hr : eccRead (transferEnded s) (locOf 2 unit.toNat addr.toNat) = transferEnded s := eccRead_unmarked he
  have hd : debugWord (transferEnded s) unit.toNat addr.toNat =
      some ((wordSeen (transferEnded s) unit.toNat (BitVec.ofNat 16 addr.toNat)).setWidth 32) := by
    unfold debugWord; rw [if_neg (by omega), if_neg (by rw [hb]; decide), hp]; rfl
  have hx := debugDoes_effect (readData_does s unit addr 0) ho ⟨hu, by omega⟩ trivial
  have hone : (List.range ((0 : Byte).toNat + 1)).map (fun i => addr.toNat + i) = [addr.toNat] := rfl
  rw [hone, List.map_singleton, hd] at hx
  simp only [List.flatMap_cons, List.flatMap_nil, List.append_nil, show addr.toNat < 0x10000 by omega, if_true, hl, debugEcc, List.foldl_cons,
    List.foldl_nil, hr] at hx
  exact hx.trans (congrArg _ ((readyValues_some _ _ _ _ [_]).trans (setDebug_opens ..)))

theorem readProg_intact (ha : addr.toNat < 0x4000)
    (he : eccMark (transferEnded s) (locOf 1 unit.toNat ((if (eng s unit.toNat).actBank then 0x4000 else 0) + addr.toNat)) = 0) :
    exec (.readProg unit addr 0) s = .next (opened s
      ⟨false, 0x14, unit.toNat, addr.toNat, 0, [tget 0 (eng s unit.toNat).active.words addr.toNat], []⟩) := by
  have hclear : ∀ i, 14 ≤ i → addr.getLsbD i = false := fun i hi =>
    Nat.testBit_lt_two_pow (Nat.lt_of_lt_of_le ha (Nat.pow_le_pow_right (n := 2) (by decide) hi))
  have hlow : ∀ i < 14, BitVec.getLsbD (0xFEC000 : BitVec 24) i = false := by decide
  have hmask : addr &&& 0xFEC000 = 0 := by
    refine BitVec.eq_of_getLsbD_eq fun i _ => (BitVec.getLsbD_and).trans (Eq.trans ?_ BitVec.getLsbD_zero.symm)
    by_cases h : i < 14
    · rw [hlow i h, Bool.and_false]
    · rw [hclear i (Nat.le_of_not_lt h), Bool.false_and]
  have hhalf : (if (eng s unit.toNat).actBank = false then 0 else 0x4000) = if (eng s unit.toNat).actBank then 0x4000 else 0 := by
    cases (eng s unit.toNat).actBank <;> rfl
  have hx := debugDoes_effect (readProg_does s unit addr 0) ho ⟨hu, hmask⟩ trivial
  have hone : (List.range ((0 : Byte).toNat + 1)).map (fun i => addr.toNat % 0x4000 + i) = [addr.toNat % 0x4000] := rfl
  dsimp only at hx
  rw [hone, Nat.mod_eq_of_lt ha, hclear 16 (by decide), hhalf] at hx
  simp only [List.filterMap_cons, List.filterMap_nil, List.map_cons, List.map_nil, ha, true_and, if_true, he, debugEcc, List.foldl_cons,
    List.foldl_nil, eccRead_unmarked he, Bool.false_eq_true, if_false, ne_eq, OfNat.zero_ne_ofNat, not_false_eq_true] at hx
  exact hx.trans (congrArg _ ((readyValues_some _ _ _ _ [_]).trans (setDebug_opens ..)))

end

/-! ### DBG_DATA (R497) -/

section
variable {s : State} {valid : Bool} {data : Long} {x : DbgXfer}

theorem dbgData_idle (h : (selectIr s 0x13).jtag.xfer = none) :
    exec (.dbgData valid data) s = .next (setDebug (selectIr s 0x13) (fun d => { d with dataOut := 0 })) := by
  show execDbgData valid data s = _
  unfold execDbgData
  dsimp only
  rw [h]
  rfl

section
variable (h : (selectIr s 0x13).jtag.xfer = some x)
include h

theorem dbgData_write (hw : x.write = true) :
    exec (.dbgData valid data) s = .next (if valid then takeValue (selectIr s 0x13) x data else selectIr s 0x13) := by
  show execDbgData valid data s = _
  unfold execDbgData
  dsimp only
  rw [h]
  cases valid <;> simp only [hw, if_true, Bool.false_eq_true, if_false] <;> rfl

variable (hw : x.write = false)
include hw

theorem dbgData_notReady (hv : x.values = []) :
    exec (.dbgData valid data) s = .next (setDebug (selectIr s 0x13) (fun d => { d with dataOut := 0 })) := by
  show execDbgData valid data s = _
  unfold execDbgData
  dsimp only
  rw [h]
  simp only [hw, Bool.false_eq_true, if_false, hv]
  rfl

theorem dbgData_shifts {a : Long} {l : List Long} (hv : x.values = a :: l) :
    exec (.dbgData valid data) s = .next (setDebug (selectIr s 0x13) (fun d => { d with
      dataOut := 1#1 ++ a
      xfer := if l = [] ∧ x.left ≤ 1 then none else some { x with values := l, left := x.left - 1 } })) := by
  have hlast : (l.isEmpty && decide (x.left - 1 = 0)) = true ↔ l = [] ∧ x.left ≤ 1 := by
    rw [Bool.and_eq_true, List.isEmpty_iff, decide_eq_true_iff, Nat.sub_eq_zero_iff_le]
  show execDbgData valid data s = _
  unfold execDbgData
  dsimp only
  rw [h]
  simp only [hw, Bool.false_eq_true, if_false, hv, hlast]
  rfl

end

theorem takeValue_data (h : x.op = 0x11) : takeValue s x data =
    if writesData (eng s x.unit) then storeWord (nextTransfer s { x with addr := x.addr + 1 }) x.unit (BitVec.ofNat 16 x.addr) (data.setWidth 16)
    else setError (nextTransfer s { x with addr := x.addr + 1 }) 2 := by
  unfold takeValue
  rw [h]
  rfl

theorem takeValue_part (h : x.op = 0x13) (hp : (x.part ++ [data]).length < regTransfers x.addr) :
    takeValue s x data = nextTransfer s { x with part := x.part ++ [data] } := by
  unfold takeValue
  rw [h]
  exact if_pos hp

theorem takeValue_register (h : x.op = 0x13) (hp : regTransfers x.addr ≤ (x.part ++ [data]).length) : takeValue s x data =
    let whole := nextTransfer s { x with addr := x.addr + 1, part := [] }
    if writesRegs (eng s x.unit) = false then setError whole 2
    else if x.addr = 0x3C ∧ data.toNat / 2 % 4 = 3 then setError whole 3
    else modEng whole x.unit (fun e => { e with ctx := writeRegValue e.ctx x.addr (x.part ++ [data]) }) := by
  unfold takeValue
  rw [h]
  refine (if_neg (Nat.not_lt.mpr hp)).trans (if_congr ?_ rfl (if_congr ?_ rfl rfl))
  · rw [Bool.not_eq_true']; rfl
  · rw [Bool.and_eq_true, decide_eq_true_iff, decide_eq_true_iff]

theorem takeValue_dls (h : x.op = 0x21) : takeValue s x data =
    if ∃ q ∈ (bank s x.unit).queue, q.who = 6 then setError s 5
    else queueShared (nextTransfer s { x with addr := x.addr + 1 }) x.unit [⟨6, x.addr % 0x80000, 1, some [data.setWidth 16]⟩] := by
  unfold takeValue
  rw [h]
  refine if_congr ?_ rfl rfl
  simp only [List.any_eq_true, decide_eq_true_eq]

end

/-! ### Challenge and response (R492) -/

section
variable {s : State}

/-- A nonce is issued for the first read of a part that is deployed, and none between a failed response and its reissue. -/
def IssuesNonce (s : State) : Prop :=
  s.fuses.life = .deployed ∧ (selectIr s 0x10).jtag.nonce = none ∧ (selectIr s 0x10).jtag.nonceUsed = false

theorem issuesNonce_iff : (decide ((selectIr s 0x10).fuses.life = .deployed) && (selectIr s 0x10).jtag.nonce.isNone &&
    !(selectIr s 0x10).jtag.nonceUsed) = true ↔ IssuesNonce s := by
  unfold IssuesNonce
  rw [fuses_selectIr (by decide) (by decide)]
  simp only [Bool.and_eq_true, decide_eq_true_eq, Option.isNone_iff_eq_none, Bool.not_eq_true', and_assoc]

theorem dbgChallenge_stands (h : ¬ IssuesNonce s) : exec .dbgChallenge s = .next (selectIr s 0x10) :=
  if_neg (mt issuesNonce_iff.mp h)

theorem dbgChallenge_issues (h : IssuesNonce s) : exec .dbgChallenge s = .next { selectIr s 0x10 with
    fresh := s.fresh + 1, jtag := { (selectIr s 0x10).jtag with nonce := some (Config.freeNonce 32 s.fresh) } } := by
  rw [← fresh_selectIr (s := s) (code := 0x10) (by decide) (by decide)]
  exact if_pos (issuesNonce_iff.mpr h)

/-- The response that unlocks: signed for the nonce, in a part that permits it. -/
def responseGood (s : State) (nonce sig : List Byte) : Bool := unlockSigned s nonce sig && s.cfg.power.debugPermit

theorem responseGood_selectIr (nonce sig : List Byte) : responseGood (selectIr s 0x11) nonce sig = responseGood s nonce sig := by
  unfold responseGood unlockSigned
  rw [heart_selectIr (by decide) (by decide), cfg_selectIr (by decide) (by decide)]

theorem nonce_selectIr : (selectIr s 0x11).jtag.nonce = s.jtag.nonce :=
  (congrArg Debug.nonce (jtag_selectIr (s := s) (code := 0x11) (by decide) (by decide)) :)

theorem dbgResponse_answers {nonce : List Byte} (hl : s.fuses.life = .deployed) (hn : s.jtag.nonce = some nonce) (sig : List Byte) :
    exec (.dbgResponse sig) s = .next (if responseGood s nonce sig then
      detect (setDebug (selectIr s 0x11) (fun d => { d with unlocked := true, unlockCount := satInc31 d.unlockCount })) 0x700A devUnit 0
    else setDebug (selectIr s 0x11) (fun d => { d with nonce := none, nonceUsed := true, failAt := now (selectIr s 0x11) })) := by
  rw [← responseGood_selectIr]
  show execDbgResponse sig s = _
  unfold execDbgResponse
  dsimp only
  rw [fuses_selectIr (by decide) (by decide), hl, nonce_selectIr, hn]
  exact (apply_ite Host.Outcome.next _ _ _).symm

theorem dbgResponse_idle (h : s.fuses.life ≠ .deployed ∨ s.jtag.nonce = none) (sig : List Byte) :
    exec (.dbgResponse sig) s = .next (selectIr s 0x11) := by
  show execDbgResponse sig s = _
  unfold execDbgResponse
  dsimp only
  rw [fuses_selectIr (by decide) (by decide), nonce_selectIr]
  split
  · next hd hs => exact (h.elim (· hd) (fun hx => Option.some_ne_none _ (hs.symm.trans hx))).elim
  · rfl

theorem nonceReissue_issues (hu : s.jtag.nonceUsed = true) (hp : passed s s.jtag.failAt 1000 = true) : exec .dbgNonceReissue s = .next { s with
    fresh := s.fresh + 1, jtag := { s.jtag with nonce := some (Config.freeNonce 32 s.fresh), nonceUsed := false } } :=
  if_pos (by rw [hu, hp]; rfl)

theorem nonceReissue_waits (h : s.jtag.nonceUsed = false ∨ passed s s.jtag.failAt 1000 = false) : exec .dbgNonceReissue s = .next s :=
  if_neg (by obtain h | h := h <;> rw [h] <;> simp)

theorem samplePreload_captures : exec .samplePreload s = .next { selectIr s 0x02 with
    fresh := s.fresh + 2
    jtag := { (selectIr s 0x02).jtag with boundary := Config.boundaryCapture s.fresh, preload := Config.freeLong (s.fresh + 1) } } := by
  rw [← fresh_selectIr (s := s) (code := 0x02) (by decide) (by decide)]
  rfl

end

/-- Settles O55: selections by what they do to the hold of boundary scan, commands by their common course, transfers by DBG_DATA's cases. -/
theorem debugCommands : Obligations.DebugCommands := by
  intro s unit addr count n v e k words clean fails does transfer own bankRange stopped goes c regs registers pcReached
  refine ⟨transferEnded_unqueued, breakEng_does s unit addr count, step_does s unit addr count, resume_does s unit addr count,
    setBreak_does s unit addr count, readData_does s unit addr count, ?_, writeData_does s unit addr count,
    readReg_does s unit addr count, ?_, writeReg_does s unit addr count, ?_, readProg_does s unit addr count,
    writeDls_does s unit addr count, readDls_does s unit addr count, ?_, ⟨dbgChallenge_stands, dbgChallenge_issues⟩, ?_, dbgResponse_idle,
    nonceReissue_issues, nonceReissue_waits, rfl, samplePreload_captures, fun _ => rfl, ?_, fun code h hc => selectIr_held hc h,
    rfl, rfl, rfl, rfl, fun code h hc => selectIr_resets hc h⟩
  · intro hu ha hc he ho
    subst hc
    exact readData_intact hu ho ha he
  · intro ha hc
    subst hc
    exact debugRegs_first s ha
  · intro hu ha hc he ho
    subst hc
    exact readProg_intact hu ho ha he
  · intro valid data cmd w d
    refine ⟨dbgData_idle, fun x h hw hv => dbgData_notReady h hw hv, fun x a l h hw hv => dbgData_shifts h hw hv, fun x h hw hv => ?_,
      fun x h hw hv => ?_⟩
    · subst hv
      exact dbgData_write h hw
    · have hx : exec cmd s = .next (takeValue w x data) := by subst hv; exact dbgData_write h hw
      exact ⟨fun ho => hx.trans (congrArg _ (takeValue_data ho)), fun ho hp => hx.trans (congrArg _ (takeValue_part ho hp)),
        fun ho hp => hx.trans (congrArg _ (takeValue_register ho hp)), fun ho => hx.trans (congrArg _ (takeValue_dls ho))⟩
  · intro a sig hl hn w good
    refine ⟨_, dbgResponse_answers hl hn sig, fun hg => ?_, fun hg => ?_⟩
    · have hg' : responseGood s a sig = true := hg
      rw [if_pos hg']
      refine ⟨(detect_jtag ..).trans ?_, (detect_count_self ..).trans ?_⟩
      · unfold setDebug
        rw [jtag_selectIr (by decide) (by decide)]
      · rw [setDebug_events, events_selectIr (by decide) (by decide)]
    · have hg' : ¬ responseGood s a sig = true := by rw [show responseGood s a sig = false from hg]; decide
      rw [if_neg hg', now_selectIr (by decide) (by decide)]
      rfl
  · intro code h0 h3 listed ir
    have hir : decodeIr code = ir := decodeIr_eq h0 h3
    rw [← hir]
    exact ⟨selectIr_unheld h0 h3, selectIr_releases h0 h3⟩

end Sys2Proof.Machine
end

section
/-! What every step upholds: tables and memories stay in their canonical form, fuses only burn, and a command leaves the queue of those that
wait. `Upholds s₀ t` says so of a state `t` that was reached from `s₀`; the lemmas `Upholds.f` say that operation `f` of the model keeps it. -/
namespace Sys2Proof.Machine

/-- No life-cycle advance is among what waits for a reply. -/
def NoAdvance (l : List After) : Prop := ∀ a ∈ l, ∀ x, a ≠ .advance x

/-- `t` was reached from `s₀` by operations that keep canonical tables canonical, burn fuses only further, and leave the queue. -/
structure Upholds (s₀ t : State) : Prop where
  canon : Canon s₀ → Canon t
  tamper : s₀.fuses.tamperCount ≤ 255 → t.fuses.tamperCount ≤ 255 ∧ s₀.fuses.tamperCount ≤ t.fuses.tamperCount
  rollback : s₀.fuses.rollbackMin.toNat ≤ t.fuses.rollbackMin.toNat
  ended : s₀.fuses.life = .ended → NoAdvance s₀.mgmt.after → t.fuses.life = .ended ∧ NoAdvance t.mgmt.after
  queue : t.pending = s₀.pending

/-- The parts of the state that `Upholds` speaks of. -/
abbrev upheld (s : State) : List Instr × Tbl Engine × Tbl Route × Tbl Group × Tbl Port × Tbl Bridge × Tbl Link × Tbl Stream × Tbl Session ×
    Tbl Bank × Tbl Cross × Tbl Nat × List After × Fuses :=
  (s.pending, s.engines, s.routes, s.groups, s.ports, s.bridges, s.links, s.streams, s.mgmt.sessions, s.mem.banks, s.mem.cross, s.mem.ecc,
    s.mgmt.after, s.fuses)

/-- The outcome is a next state, which upholds. -/
def OutUpholds (s₀ : State) (o : Outc) : Prop := ∃ t, o = .next t ∧ Upholds s₀ t

/-- Where a check passes, the state that it leaves upholds; -/
def OkUpholds (s₀ : State) {ε : Type} (x : Except ε State) : Prop := ∀ t, x = .ok t → Upholds s₀ t

/-- so too where it leaves more than a state. -/
def FstUpholds (s₀ : State) {ε α : Type} (x : Except ε (State × α)) : Prop := ∀ y, x = .ok y → Upholds s₀ y.1

/-- A memory is canonical where `s₀` is; -/
def MemOk (s₀ : State) (m : Tbl Word) : Prop := Canon s₀ → Tbl.wf 0 m = true

/-- so are the copies of a page, -/
def PageOk (s₀ : State) (q : Page) : Prop := Canon s₀ → Tbl.wf 0 q.copy0 = true ∧ Tbl.wf 0 q.copy1 = true

/-- the registers of a run, -/
def CtxOk (s₀ : State) (c : Ctx) : Prop := Canon s₀ → CtxCanon c

/-- and an engine. -/
def EngOk (s₀ : State) (e : Engine) : Prop := Canon s₀ → EngCanon e

variable {s₀ s t : State}

theorem Upholds.refl (s : State) : Upholds s s := ⟨id, fun h => ⟨h, Nat.le_refl _⟩, Nat.le_refl _, fun h h' => ⟨h, h'⟩, rfl⟩

theorem canon_congr (e : upheld t = upheld s) : Canon t ↔ Canon s := by
  simp only [upheld, Prod.mk.injEq] at e
  obtain ⟨-, he, hr, hg, hp, hb, hl, hs, hm, hk, hc, hx, -, -⟩ := e
  unfold Canon eng bank cross
  rw [he, hr, hg, hp, hb, hl, hs, hm, hk, hc, hx]

/-- An operation that leaves those parts alone upholds. -/
theorem Upholds.of_upheld (h : Upholds s₀ s) (e : upheld t = upheld s) : Upholds s₀ t := by
  have hc := canon_congr e
  simp only [upheld, Prod.mk.injEq] at e
  obtain ⟨hq, -, -, -, -, -, -, -, -, -, -, -, ha, hf⟩ := e
  exact ⟨fun h0 => hc.mpr (h.canon h0), hf ▸ h.tamper, hf ▸ h.rollback, hf ▸ ha ▸ h.ended, hq.trans h.queue⟩

/-- One that leaves fuses and queues alone and keeps the tables canonical upholds. -/
theorem Upholds.tables (h : Upholds s₀ s) (e : (t.pending, t.mgmt.after, t.fuses) = (s.pending, s.mgmt.after, s.fuses))
    (hc : Canon s₀ → Canon s → Canon t) : Upholds s₀ t := by
  simp only [Prod.mk.injEq] at e
  obtain ⟨hq, ha, hf⟩ := e
  exact ⟨fun h0 => hc h0 (h.canon h0), hf ▸ h.tamper, hf ▸ h.rollback, hf ▸ ha ▸ h.ended, hq.trans h.queue⟩

/-! ### Branches and folds -/

theorem Upholds.ite {p : Prop} [Decidable p] {a b : State} (ha : Upholds s₀ a) (hb : Upholds s₀ b) : Upholds s₀ (if p then a else b) := by
  split <;> assumption

theorem Upholds.foldl (h : Upholds s₀ s) {α : Type} {f : State → α → State} (hf : ∀ u x, Upholds s₀ u → Upholds s₀ (f u x)) {l : List α} :
    Upholds s₀ (l.foldl f s) := by
  induction l generalizing s with
  | nil => exact h
  | cons x l ih => exact ih (hf _ _ h)

theorem OutUpholds.ok (h : Upholds s₀ t) : OutUpholds s₀ (.next t) := ⟨t, rfl, h⟩

theorem OutUpholds.ite {p : Prop} [Decidable p] {a b : Outc} (ha : OutUpholds s₀ a) (hb : OutUpholds s₀ b) :
    OutUpholds s₀ (if p then a else b) := by
  split <;> assumption

section
variable {ε α : Type}

theorem OkUpholds.ok (h : Upholds s₀ t) : OkUpholds s₀ (.ok t : Except ε State) := fun _ e => Except.ok.inj e ▸ h

theorem OkUpholds.error {c : ε} : OkUpholds s₀ (.error c : Except ε State) := fun _ e => by simp at e

theorem OkUpholds.ite {p : Prop} [Decidable p] {a b : Except ε State} (ha : OkUpholds s₀ a) (hb : OkUpholds s₀ b) :
    OkUpholds s₀ (if p then a else b) := by
  split <;> assumption

/-- A step after a check that passes. -/
theorem OkUpholds.bind {x : Except ε α} {f : α → Except ε State} (hf : ∀ a, x = .ok a → OkUpholds s₀ (f a)) :
    OkUpholds s₀ (x.bind f) := by
  cases x with
  | error c => exact .error
  | ok a => exact hf a rfl

theorem OkUpholds.map {x : Except ε α} {f : α → State} (hf : ∀ a, x = .ok a → Upholds s₀ (f a)) : OkUpholds s₀ (x.map f) := by
  cases x with
  | error c => exact .error
  | ok a => exact .ok (hf a rfl)

theorem FstUpholds.ok {y : State × α} (h : Upholds s₀ y.1) : FstUpholds s₀ (.ok y : Except ε (State × α)) := fun _ e => Except.ok.inj e ▸ h

theorem FstUpholds.error {c : ε} : FstUpholds s₀ (.error c : Except ε (State × α)) := fun _ e => by simp at e

theorem FstUpholds.ite {p : Prop} [Decidable p] {a b : Except ε (State × α)} (ha : FstUpholds s₀ a) (hb : FstUpholds s₀ b) :
    FstUpholds s₀ (if p then a else b) := by
  split <;> assumption

end

/-! ### Memories, pages, registers and engines -/

theorem MemOk.tset {m : Tbl Word} (hm : MemOk s₀ m) {k v} : MemOk s₀ (tset 0 m k v) := fun h0 => tset_wf k v (hm h0)

theorem MemOk.tsetRun {m : Tbl Word} (hm : MemOk s₀ m) {k l} : MemOk s₀ (tsetRun 0 m k l) := fun h0 => tsetRun_wf k l (hm h0)

theorem MemOk.nil : MemOk s₀ [] := fun _ => rfl

theorem MemOk.filter {m : Tbl Word} (hm : MemOk s₀ m) {p} : MemOk s₀ (m.filter p) := fun h0 => filter_wfFrom p (hm h0)

theorem MemOk.ite {p : Prop} [Decidable p] {a b : Tbl Word} (ha : MemOk s₀ a) (hb : MemOk s₀ b) : MemOk s₀ (if p then a else b) := by
  split <;> assumption

theorem MemOk.foldl {m : Tbl Word} (hm : MemOk s₀ m) {α : Type} {f : Tbl Word → α → Tbl Word} (hf : ∀ m x, MemOk s₀ m → MemOk s₀ (f m x))
    {l : List α} : MemOk s₀ (l.foldl f m) := by
  induction l generalizing m with
  | nil => exact hm
  | cons x l ih => exact ih (hf _ _ hm)

theorem PageOk.ite {p : Prop} [Decidable p] {a b : Page} (ha : PageOk s₀ a) (hb : PageOk s₀ b) : PageOk s₀ (if p then a else b) := by
  split <;> assumption

theorem PageOk.copies {q : Page} (h0 : MemOk s₀ q.copy0) (h1 : MemOk s₀ q.copy1) : PageOk s₀ q := fun h => ⟨h0 h, h1 h⟩

section
variable {q : Page} (hq : PageOk s₀ q)
include hq

/-- What a page keeps beside its copies. -/
theorem PageOk.beside {view1 state glideFrames glideForm dirty group glideStart glideN glideLong abort bindAfter} : PageOk s₀ { q with
      view1 := view1, state := state, glideFrames := glideFrames, glideForm := glideForm, dirty := dirty, group := group
      glideStart := glideStart, glideN := glideN, glideLong := glideLong, abort := abort, bindAfter := bindAfter } := hq

theorem PageOk.copy0 : MemOk s₀ q.copy0 := fun h0 => (hq h0).1
theorem PageOk.copy1 : MemOk s₀ q.copy1 := fun h0 => (hq h0).2
theorem PageOk.viewCopy : MemOk s₀ (viewCopy q) := .ite hq.copy1 hq.copy0
theorem PageOk.otherCopy : MemOk s₀ (otherCopy q) := .ite hq.copy0 hq.copy1
theorem PageOk.setOther {m} (hm : MemOk s₀ m) : PageOk s₀ (setOther q m) := .ite (.copies hm hq.copy1) (.copies hq.copy0 hm)
theorem PageOk.levelled : PageOk s₀ (levelled q) := hq.setOther hq.viewCopy

end

theorem pageTbl_ok {ws} : MemOk s₀ (pageTbl ws) := MemOk.nil.tsetRun

theorem PageOk.startPage {q : Page} (hq : PageOk s₀ q) {ws} : PageOk s₀ (startPage q ws) :=
  .ite (PageOk.ite (.copies hq.copy0 pageTbl_ok) (.copies pageTbl_ok hq.copy1)) (.copies pageTbl_ok pageTbl_ok)

theorem CtxOk.ite {p : Prop} [Decidable p] {a b : Ctx} (ha : CtxOk s₀ a) (hb : CtxOk s₀ b) : CtxOk s₀ (if p then a else b) := by
  split <;> assumption

theorem CtxOk.start : CtxOk s₀ {} := fun _ => ⟨rfl, rfl, rfl, rfl, rfl, rfl⟩

section
variable {c : Ctx} (hc : CtxOk s₀ c)
include hc

theorem CtxOk.wW {k v} : CtxOk s₀ (wW c k v) := fun h0 => let ⟨r, a⟩ := hc h0; ⟨tset_wf _ _ r, a⟩
theorem CtxOk.setAc {k v} : CtxOk s₀ { c with acs := tset 0 c.acs k v } := fun h0 => let ⟨r, a, b⟩ := hc h0; ⟨r, tset_wf _ _ a, b⟩
theorem CtxOk.setProd {k v} : CtxOk s₀ { c with prods := tset 0 c.prods k v } :=
  fun h0 => let ⟨r, a, p, b⟩ := hc h0; ⟨r, a, tset_wf _ _ p, b⟩
theorem CtxOk.setTap {k v} : CtxOk s₀ { c with taps := tset 0 c.taps k v } :=
  fun h0 => let ⟨r, a, p, t, b⟩ := hc h0; ⟨r, a, p, tset_wf _ _ t, b⟩
theorem CtxOk.outCur : MemOk s₀ c.outCur := fun h0 => let ⟨_, _, _, _, o, _⟩ := hc h0; o
theorem CtxOk.outAlt : MemOk s₀ c.outAlt := fun h0 => let ⟨_, _, _, _, _, o⟩ := hc h0; o
theorem CtxOk.outs {o o'} (ho : MemOk s₀ o) (ho' : MemOk s₀ o') : CtxOk s₀ { c with outCur := o, outAlt := o' } :=
  fun h0 => let ⟨r, a, p, t, _⟩ := hc h0; ⟨r, a, p, t, ho h0, ho' h0⟩
theorem CtxOk.wG {k v} : CtxOk s₀ (wG c k v) := .ite hc hc
theorem CtxOk.freshRun {a} : CtxOk s₀ (freshRun c a) := hc
theorem CtxOk.startCtx {b} : CtxOk s₀ (startCtx b c) := CtxOk.start.outs hc.outCur hc.outAlt

/-- What a run keeps beside its registers, accumulators, products, taps and outputs. -/
theorem CtxOk.beside {g m d pc t l f r x i q} : CtxOk s₀ { c with
    guards := g, emode := m, descs := d, pc := pc, cycle := t, loops := l, defer := f, rpt := r, xfer := x, imm := i, inflight := q } := hc

theorem CtxOk.loopCheck {a l} : CtxOk s₀ (loopCheck c a l) := by
  induction l with
  | nil => exact hc
  | cons x l ih =>
    unfold Machine.loopCheck
    exact .ite (.ite ih hc.wW) hc

theorem CtxOk.pastWord {a} : CtxOk s₀ (pastWord c a) := CtxOk.loopCheck (c := { c with pc := (a + 1) % 0x4000 }) hc

theorem CtxOk.arrive {a} : CtxOk s₀ (arrive c a) := by
  unfold Machine.arrive
  dsimp only
  split
  · next d ds _ => exact .ite (CtxOk.loopCheck (c := { c with pc := a, defer := ds }) hc) hc
  · exact hc

end

theorem EngOk.ite {p : Prop} [Decidable p] {a b : Engine} (ha : EngOk s₀ a) (hb : EngOk s₀ b) : EngOk s₀ (if p then a else b) := by
  split <;> assumption

section
variable {e : Engine} (he : EngOk s₀ e)
include he

theorem EngOk.ctx : CtxOk s₀ e.ctx := fun h0 => let ⟨c, _⟩ := he h0; c
theorem EngOk.alt : CtxOk s₀ e.alt := fun h0 => let ⟨_, c, _⟩ := he h0; c
theorem EngOk.localRam : MemOk s₀ e.localRam := fun h0 => let ⟨_, _, m, _⟩ := he h0; m
theorem EngOk.inCur : MemOk s₀ e.inCur := fun h0 => let ⟨_, _, _, m, _⟩ := he h0; m
theorem EngOk.inAlt : MemOk s₀ e.inAlt := fun h0 => let ⟨_, _, _, _, m, _⟩ := he h0; m
theorem EngOk.page {p} : PageOk s₀ (page e p) := fun h0 => let ⟨_, _, _, _, _, _, q, _⟩ := he h0; q p
theorem EngOk.active : MemOk s₀ e.active.data := fun h0 => let ⟨_, _, _, _, _, _, _, m, _⟩ := he h0; m
theorem EngOk.standby : MemOk s₀ e.standby.data := fun h0 => let ⟨_, _, _, _, _, _, _, _, m, _⟩ := he h0; m
theorem EngOk.loading {b} (hb : e.loading = some b) : MemOk s₀ b.data := fun h0 => let ⟨_, _, _, _, _, _, _, _, _, m⟩ := he h0; m b hb

theorem EngOk.runs {c a} (hc : CtxOk s₀ c) (ha : CtxOk s₀ a) : EngOk s₀ { e with ctx := c, alt := a } :=
  fun h0 => let ⟨_, _, r⟩ := he h0; ⟨hc h0, ha h0, r⟩
theorem EngOk.setCtx {c} (hc : CtxOk s₀ c) : EngOk s₀ { e with ctx := c } := he.runs hc he.alt
theorem EngOk.setRam {m} (hm : MemOk s₀ m) : EngOk s₀ { e with localRam := m } :=
  fun h0 => let ⟨c, a, _, r⟩ := he h0; ⟨c, a, hm h0, r⟩
theorem EngOk.inputs {i j} (hi : MemOk s₀ i) (hj : MemOk s₀ j) : EngOk s₀ { e with inCur := i, inAlt := j } :=
  fun h0 => let ⟨c, a, m, _, _, r⟩ := he h0; ⟨c, a, m, hi h0, hj h0, r⟩
theorem EngOk.banks {a b} (ha : MemOk s₀ a.data) (hb : MemOk s₀ b.data) : EngOk s₀ { e with active := a, standby := b } :=
  fun h0 => let ⟨c, d, m, i, j, p, q, _, _, l⟩ := he h0; ⟨c, d, m, i, j, p, q, ha h0, hb h0, l⟩
theorem EngOk.setActive {b} (hb : MemOk s₀ b.data) : EngOk s₀ { e with active := b } := he.banks hb he.standby
theorem EngOk.setStandby {b} (hb : MemOk s₀ b.data) : EngOk s₀ { e with standby := b } := he.banks he.active hb
theorem EngOk.setLoading {b} (hb : ∀ x, b = some x → MemOk s₀ x.data) : EngOk s₀ { e with loading := b } :=
  fun h0 => let ⟨c, d, m, i, j, p, q, a, t, _⟩ := he h0; ⟨c, d, m, i, j, p, q, a, t, fun x hx => hb x hx h0⟩

theorem EngOk.setPage {p q} (hq : PageOk s₀ q) : EngOk s₀ (setPage e p q) := fun h0 => by
  obtain ⟨c, a, m, i, j, hp, hpages, r⟩ := he h0
  refine ⟨c, a, m, i, j, tset_wf p q hp, fun k => ?_, r⟩
  have hk : Machine.page (Machine.setPage e p q) k = if k = p then q else Machine.page e k := tget_tset p k q hp
  rw [hk]
  split
  · exact hq h0
  · exact hpages k

/-- What an engine keeps beside its memories and the registers of its runs. -/
theorem EngOk.beside {
    state haltPc haltByDebug atEnd running before stage newRun ovf hsrPend hsrWait pflt inh ira faultCause faultArg faultRun faultPc
    faultAddr faulted frameCtr ctrLatch mtFrame pub outFade nextPub prepared boundaryAt standbyState actBank loadResult bank0 bank1
    bank2 bank3 faultCount faultOvf lastCause lastPc lastFrame quarCount quarOvf stAtEnd releaseReq graft fade graftResult breakReq
    stepReq breakHit breakAddr injFaults powered selfTestFailed} : EngOk s₀ { e with
      state := state, haltPc := haltPc, haltByDebug := haltByDebug, atEnd := atEnd, running := running, before := before
      stage := stage, newRun := newRun, ovf := ovf, hsrPend := hsrPend, hsrWait := hsrWait, pflt := pflt, inh := inh, ira := ira
      faultCause := faultCause, faultArg := faultArg, faultRun := faultRun, faultPc := faultPc, faultAddr := faultAddr
      faulted := faulted, frameCtr := frameCtr, ctrLatch := ctrLatch, mtFrame := mtFrame, pub := pub, outFade := outFade
      nextPub := nextPub, prepared := prepared, boundaryAt := boundaryAt, standbyState := standbyState, actBank := actBank
      loadResult := loadResult, bank0 := bank0, bank1 := bank1, bank2 := bank2, bank3 := bank3, faultCount := faultCount
      faultOvf := faultOvf, lastCause := lastCause, lastPc := lastPc, lastFrame := lastFrame, quarCount := quarCount
      quarOvf := quarOvf, stAtEnd := stAtEnd, releaseReq := releaseReq, graft := graft, fade := fade, graftResult := graftResult
      breakReq := breakReq, stepReq := stepReq, breakHit := breakHit, breakAddr := breakAddr, injFaults := injFaults
      powered := powered, selfTestFailed := selfTestFailed } := he

theorem EngOk.swapBanks : EngOk s₀ (swapBanks e) := he.banks he.standby he.active

end

/-! ### The unit tables -/

section
variable (h : Upholds s₀ s)
include h

/-- What of the state `Upholds` does not speak of. -/
theorem Upholds.beside {
    clocks tails grove leaving events heart power jtag flash cfg epoch fresh corr uncorr eccOvf lastLoc patrol sharedOut heardAt qEth
    qHq qGrove lastServed lastStamp outEth outHq outGrove hqIn hqDiscard hqStatus hqGot netLink relays authFail authOvf fails lockout
    stats statsOvf activeAddr} :
    Upholds s₀ { s with
      clocks := clocks, tails := tails, grove := grove, leaving := leaving, events := events, heart := heart, power := power
      jtag := jtag, flash := flash, cfg := cfg, epoch := epoch, fresh := fresh
      mem := { s.mem with
        corr := corr, uncorr := uncorr, eccOvf := eccOvf, lastLoc := lastLoc, patrol := patrol, sharedOut := sharedOut }
      mgmt := { s.mgmt with
        heardAt := heardAt, qEth := qEth, qHq := qHq, qGrove := qGrove, lastServed := lastServed, lastStamp := lastStamp
        outEth := outEth, outHq := outHq, outGrove := outGrove, hqIn := hqIn, hqDiscard := hqDiscard, hqStatus := hqStatus
        hqGot := hqGot, netLink := netLink, relays := relays, authFail := authFail, authOvf := authOvf, fails := fails
        lockout := lockout, stats := stats, statsOvf := statsOvf, activeAddr := activeAddr } } :=
  h.of_upheld rfl

theorem Upholds.setRoute {n v} : Upholds s₀ (setRoute s n v) := h.tables rfl fun _ ⟨e, a, b⟩ => ⟨e, tset_wf n v a, b⟩
theorem Upholds.setGroup {n v} : Upholds s₀ (setGroup s n v) := h.tables rfl fun _ ⟨e, r, a, b⟩ => ⟨e, r, tset_wf n v a, b⟩
theorem Upholds.setPort {n v} : Upholds s₀ (setPort s n v) := h.tables rfl fun _ ⟨e, r, g, a, b⟩ => ⟨e, r, g, tset_wf n v a, b⟩
theorem Upholds.setBridge {n v} : Upholds s₀ (setBridge s n v) := h.tables rfl fun _ ⟨e, r, g, p, a, b⟩ => ⟨e, r, g, p, tset_wf n v a, b⟩
theorem Upholds.setLink {n v} : Upholds s₀ (setLink s n v) := h.tables rfl fun _ ⟨e, r, g, p, i, a, b⟩ => ⟨e, r, g, p, i, tset_wf n v a, b⟩
theorem Upholds.setStream {n v} : Upholds s₀ (setStream s n v) :=
  h.tables rfl fun _ ⟨e, r, g, p, i, l, a, b⟩ => ⟨e, r, g, p, i, l, tset_wf n v a, b⟩
theorem Upholds.setSession {n v} : Upholds s₀ (setSession s n v) :=
  h.tables rfl fun _ ⟨e, r, g, p, i, l, x, a, b⟩ => ⟨e, r, g, p, i, l, x, tset_wf n v a, b⟩
theorem Upholds.clearMark {n} : Upholds s₀ (clearMark s n) :=
  h.tables rfl fun _ ⟨e, r, g, p, i, l, x, m, k, c, a, b⟩ => ⟨e, r, g, p, i, l, x, m, k, c, tset_wf n 0 a, b⟩
theorem Upholds.dropMarks {p} : Upholds s₀ (dropMarks s p) :=
  h.tables rfl fun _ ⟨e, r, g, q, i, l, x, m, k, c, a, b⟩ => ⟨e, r, g, q, i, l, x, m, k, c, filter_wfFrom _ a, b⟩

theorem Upholds.setEng {n v} (hv : EngOk s₀ v) : Upholds s₀ (setEng s n v) := by
  refine h.tables rfl fun h0 hc => ?_
  obtain ⟨a, r, g, p, i, l, x, m, k, c, e, hengs, b⟩ := hc
  refine ⟨tset_wf n v a, r, g, p, i, l, x, m, k, c, e, fun j => ?_, b⟩
  by_cases hj : j = n
  · subst hj; rw [eng_setEng_self _ _ a]; exact hv h0
  · rw [eng_setEng_ne _ _ hj]; exact hengs j

theorem Upholds.setBank {n v} (hv : MemOk s₀ v.mem) : Upholds s₀ (setBank s n v) := by
  refine h.tables rfl fun h0 hc => ?_
  obtain ⟨e, r, g, p, i, l, x, m, a, c, z, hengs, hbanks, b⟩ := hc
  refine ⟨e, r, g, p, i, l, x, m, tset_wf n v a, c, z, hengs, fun j => ?_, b⟩
  by_cases hj : j = n
  · subst hj; rw [bank_setBank_self _ _ a]; exact hv h0
  · rw [bank_setBank_ne _ _ hj]; exact hbanks j

theorem Upholds.setCross {n v} (hv : MemOk s₀ v.mem) : Upholds s₀ (setCross s n v) := by
  refine h.tables rfl fun h0 hc => ?_
  obtain ⟨e, r, g, p, i, l, x, m, k, a, z, hengs, hbanks, b⟩ := hc
  refine ⟨e, r, g, p, i, l, x, m, k, tset_wf n v a, z, hengs, hbanks, fun j => ?_⟩
  by_cases hj : j = n
  · subst hj; rw [cross_setCross_self _ _ a]; exact hv h0
  · rw [cross_setCross_ne _ _ hj]; exact b j

theorem Upholds.eng {n} : EngOk s₀ (eng s n) := fun h0 =>
  let ⟨_, _, _, _, _, _, _, _, _, _, _, he, _⟩ := h.canon h0
  he n
theorem Upholds.bankMem {n} : MemOk s₀ (bank s n).mem := fun h0 =>
  let ⟨_, _, _, _, _, _, _, _, _, _, _, _, hb, _⟩ := h.canon h0
  hb n
theorem Upholds.crossMem {n} : MemOk s₀ (cross s n).mem := fun h0 =>
  let ⟨_, _, _, _, _, _, _, _, _, _, _, _, _, hx⟩ := h.canon h0
  hx n

/-- What a bank and a crossing block keep beside their memories; -/
theorem Upholds.markBank {n kind id leaseEnd zeroPending waits waitOvf queue emptySince} : Upholds s₀ (Machine.setBank s n { Machine.bank s n with
      kind := kind, id := id, leaseEnd := leaseEnd, zeroPending := zeroPending, waits := waits, waitOvf := waitOvf, queue := queue
      emptySince := emptySince }) :=
  h.setBank h.bankMem

theorem Upholds.markCross {n flag count ovf portA waitCc waitLink lastCc lastTag readB} : Upholds s₀ (Machine.setCross s n { Machine.cross s n with
      flag := flag, count := count, ovf := ovf, portA := portA, waitCc := waitCc, waitLink := waitLink, lastCc := lastCc
      lastTag := lastTag, readB := readB }) :=
  h.setCross h.crossMem

theorem Upholds.modEng {n f} (hf : ∀ e, EngOk s₀ e → EngOk s₀ (f e)) : Upholds s₀ (modEng s n f) :=
  h.setEng (hf _ h.eng)

theorem Upholds.modCtx {n f} (hf : ∀ c, CtxOk s₀ c → CtxOk s₀ (f c)) : Upholds s₀ (modCtx s n f) :=
  h.modEng fun _ he => he.setCtx (hf _ he.ctx)

theorem Upholds.modPage {n p f} (hf : ∀ q, PageOk s₀ q → PageOk s₀ (f q)) : Upholds s₀ (modPage s n p f) :=
  h.modEng fun _ he => he.setPage (hf _ he.page)

theorem Upholds.eachEng {f} (hf : ∀ e, EngOk s₀ e → EngOk s₀ (f e)) : Upholds s₀ (eachEng s f) :=
  h.foldl fun _ _ h => h.modEng hf

end

end Sys2Proof.Machine
end

section
/-! The shared operations: records, replies and requests uphold. -/
namespace Sys2Proof.Machine

variable {s₀ s t : State}

theorem Upholds.setPlaying (h : Upholds s₀ s) {e v} : Upholds s₀ (setPlaying s e v) := .ite h.beside h.setStream

theorem Upholds.setPortCfg (h : Upholds s₀ s) {p v} : Upholds s₀ (setPortCfg s p v) := h.beside

theorem Upholds.setRbCfg (h : Upholds s₀ s) {b v} : Upholds s₀ (setRbCfg s b v) := h.beside

theorem Upholds.setLinkCfg (h : Upholds s₀ s) {l v} : Upholds s₀ (setLinkCfg s l v) := h.beside

theorem Upholds.draw (h : Upholds s₀ s) : Upholds s₀ (draw s).2 := h.beside

theorem Upholds.schedAdd (h : Upholds s₀ s) {t acts} : Upholds s₀ (schedAdd s t acts) := h.beside

theorem Upholds.schedDrop (h : Upholds s₀ s) {p} : Upholds s₀ (schedDrop s p) := h.beside

theorem Upholds.logRecord (h : Upholds s₀ s) {v} : Upholds s₀ (logRecord s v) := by
  unfold Machine.logRecord
  dsimp only
  exact h.beside

theorem Upholds.queueRecord (h : Upholds s₀ s) {v} : Upholds s₀ (queueRecord s v) := .ite h.beside h.beside

theorem Upholds.record (h : Upholds s₀ s) {code unit arg t inj} : Upholds s₀ (record s code unit arg t inj) :=
  .ite h.logRecord h.queueRecord

theorem Upholds.countDet (h : Upholds s₀ s) {code} : Upholds s₀ (countDet s code) := h.beside

theorem Upholds.detectWhen (h : Upholds s₀ s) {t code unit arg inj} : Upholds s₀ (detectWhen s t code unit arg inj) := by
  unfold Machine.detectWhen
  dsimp only
  refine .ite ?_ h.countDet.record
  split
  · exact h.countDet.beside
  · exact h.countDet.beside.record

theorem Upholds.detectAs (h : Upholds s₀ s) {code unit arg inj} : Upholds s₀ (detectAs s code unit arg inj) := h.detectWhen

theorem Upholds.suppress (h : Upholds s₀ s) : Upholds s₀ (suppress s) := h.beside

theorem Upholds.detect (h : Upholds s₀ s) {code unit arg} : Upholds s₀ (detect s code unit arg) := h.detectAs

theorem Upholds.drainQueue (h : Upholds s₀ s) : Upholds s₀ (drainQueue s) := by
  unfold Machine.drainQueue
  extract_lets held n events emptied logged
  have hlogged : Upholds s₀ logged := h.beside.foldl fun _ _ h => h.logRecord
  exact .ite hlogged hlogged.beside.detect

theorem Upholds.timePasses (h : Upholds s₀ s) : Upholds s₀ (timePasses s) := .ite h.beside h

theorem Upholds.sendTo (h : Upholds s₀ s) {i address port m} : Upholds s₀ (sendTo s i address port m) := by
  cases i <;> exact h.beside

theorem Upholds.sendOn (h : Upholds s₀ s) {k m} : Upholds s₀ (sendOn s k m) := h.sendTo

theorem Upholds.countStat (h : Upholds s₀ s) {base i} : Upholds s₀ (countStat s base i) := h.beside

theorem Upholds.heardHost (h : Upholds s₀ s) {k} : Upholds s₀ (heardHost s k) := h.beside

theorem Upholds.dequeue (h : Upholds s₀ s) {i r} : Upholds s₀ (dequeue s i r) := by
  cases i <;> exact h.beside

theorem Upholds.freshStamp (h : Upholds s₀ s) : Upholds s₀ (freshStamp s) := .ite h.timePasses h

theorem Upholds.refuseUnbound (h : Upholds s₀ s) {i r} : Upholds s₀ (refuseUnbound s i r) := h.draw.beside.sendTo

theorem Upholds.sendReply (h : Upholds s₀ s) {r op count st fail data} : Upholds s₀ (sendReply s r op count st fail data) :=
  (Upholds.ite h.beside h).countStat.setSession.sendOn

/-- A request that is served leaves what its body leaves, and its reply. -/
theorem Upholds.runRequest (h : Upholds s₀ s) {r op count gate body onFail} (hb : ∀ v, Upholds s₀ v → FstUpholds s₀ (body v)) :
    Upholds s₀ (runRequest s r op count gate body onFail) := by
  unfold Machine.runRequest
  dsimp only
  refine .ite h (.ite h.refuseUnbound ?_)
  split
  · exact h.freshStamp.dequeue.sendReply
  · split
    · exact h.freshStamp.dequeue.sendReply
    · next e => exact (hb _ h.freshStamp.dequeue _ e).sendReply

theorem Upholds.writeCmd (h : Upholds s₀ s) {r g body} (hb : ∀ v, Upholds s₀ v → OkUpholds s₀ (body v)) :
    Upholds s₀ (writeCmd s r g body) :=
  h.runRequest fun v hv => by
    split
    · exact .error
    · next e => exact .ok (hb v hv _ e)

theorem Upholds.closeCmd (h : Upholds s₀ s) {r g received body} (hb : ∀ v, Upholds s₀ v → OkUpholds s₀ (body v)) :
    Upholds s₀ (closeCmd s r g received body) :=
  h.runRequest fun v hv => by
    split
    · exact .error
    · next e => exact .ok (hb v hv _ e)

theorem Upholds.bumpEpoch (h : Upholds s₀ s) : Upholds s₀ (bumpEpoch s) := .ite h.beside h.beside

theorem Upholds.setClocks (h : Upholds s₀ s) {f} : Upholds s₀ (setClocks s f) := h.beside

end Sys2Proof.Machine
end

section
/-! An engine's words uphold: what they land, store and read, and how they issue. -/
namespace Sys2Proof.Machine

variable {s₀ s t : State}

theorem Upholds.putIn (h : Upholds s₀ s) {d idx v} : Upholds s₀ (putIn s d idx v) :=
  h.modEng fun _ he => he.inputs he.inCur he.inAlt.tset.tset

theorem Upholds.mirrorOut (h : Upholds s₀ s) {n idx v} : Upholds s₀ (mirrorOut s n idx v) := h.foldl fun _ _ h => .ite h.putIn h

theorem Upholds.clearPage (h : Upholds s₀ s) {e p copy1 i n} : Upholds s₀ (clearPage s e p copy1 i n) := h.foldl fun _ _ h => h.clearMark

theorem Upholds.clearRows (h : Upholds s₀ s) {b words} : Upholds s₀ (clearRows s b words) := h.foldl fun _ _ h => h.clearMark

theorem Upholds.portAcc (h : Upholds s₀ s) {b word before wrote atomic} : Upholds s₀ (portAcc s b word before wrote atomic) := h.markCross

theorem Upholds.storeWord (h : Upholds s₀ s) {n addr v} : Upholds s₀ (storeWord s n addr v) :=
  .ite (h.clearMark.modEng fun _ he => he.setRam he.localRam.tset)
    (.ite (h.modEng fun _ he => he.setCtx (he.ctx.outs he.ctx.outCur.tset he.ctx.outAlt))
      (.ite (h.clearMark.portAcc.setCross h.clearMark.portAcc.crossMem.tset)
        (.ite (h.modEng fun _ he => he.beside) (h.modEng fun _ he => he.beside))))

theorem Upholds.storeAll (h : Upholds s₀ s) {n ws} : Upholds s₀ (storeAll s n ws) :=
  (h.foldl fun _ _ h => h.storeWord).foldl fun _ _ h => .ite h.mirrorOut h

theorem Upholds.eccDetect (h : Upholds s₀ s) {bad loc inj} : Upholds s₀ (eccDetect s bad loc inj) :=
  (Upholds.ite h.beside h.beside).detectAs

theorem Upholds.eccRead (h : Upholds s₀ s) {loc} : Upholds s₀ (eccRead s loc) := by
  unfold Machine.eccRead
  split
  · exact h
  · exact h.eccDetect
  · exact h.eccDetect

theorem Upholds.applyAct (h : Upholds s₀ s) {n f} : Upholds s₀ (applyAct s n f) := by
  unfold Machine.applyAct
  cases f.act with
  | word code v => exact h.modCtx fun _ hc => hc.wW
  | stWrite v => exact h.modCtx fun _ hc => hc.wW
  | acc k v => exact h.modCtx fun _ hc => hc.setAc
  | prod k v => exact h.modCtx fun _ hc => hc.setProd
  | tap k v => exact h.modCtx fun _ hc => hc.setTap
  | guard k v => exact h.modCtx fun _ hc => hc.wG
  | flagC v => exact h.modCtx fun _ hc => hc.wW
  | flagD dc hc => exact h.modCtx fun _ hc => hc.wW
  | setSat => exact h.modCtx fun _ hc => hc.wW
  | setPcf => exact h.modCtx fun _ hc => hc.wW
  | setAov k =>
    have hmarked : Upholds s₀ (Machine.modCtx s n fun c => wW c codeST (stSet (st c) k true)) := h.modCtx fun _ hc => hc.wW
    exact .ite hmarked (.detect (hmarked.modEng fun _ he => he.beside))
  | atomCross swap a op reg =>
    refine .modCtx (.setCross (.portAcc (.portAcc ?_)) h.crossMem.tset.tset) fun _ hc => hc.beside
    exact h.foldl fun _ _ h => h.eccRead.clearMark
  | atomDls swap b a op reg => exact (h.setBank h.bankMem.tset.tset).modCtx fun _ hc => hc.beside

theorem Upholds.landFuel {n c} : ∀ (k : Nat) {s}, Upholds s₀ s → Upholds s₀ (landFuel k s n c)
  | 0, _, h => h
  | k + 1, s, h => by
    unfold Machine.landFuel
    split
    · exact h
    · exact .landFuel k (.applyAct (h.modCtx fun _ hc => hc.beside))

theorem Upholds.landUpTo (h : Upholds s₀ s) {n c} : Upholds s₀ (landUpTo s n c) := Upholds.landFuel _ h

theorem Upholds.landAll (h : Upholds s₀ s) {n} : Upholds s₀ (landAll s n) := h.landUpTo

theorem Upholds.discard (h : Upholds s₀ s) {n} : Upholds s₀ (discard s n) := h.modCtx fun _ hc => hc.beside

theorem Upholds.noteLoads (h : Upholds s₀ s) {n f} : Upholds s₀ (noteLoads s n f) := by
  have hread {u} (hu : Upholds s₀ u) {l} : Upholds s₀ (List.foldl Machine.eccRead u l) := hu.foldl fun _ _ h => h.eccRead
  unfold Machine.noteLoads
  exact hread (h.foldl fun _ _ h => .ite (hread h).portAcc (.ite ((hread h).modEng fun _ he => he.beside) (hread h)))

theorem Upholds.saveRegs (h : Upholds s₀ s) {n l t} : Upholds s₀ (saveRegs s n l t) := by
  induction l generalizing s t with
  | nil => exact h
  | cons x l ih => exact ih h.landUpTo.storeAll

theorem Upholds.restoreRegs (h : Upholds s₀ s) {n iss l t} : Upholds s₀ (restoreRegs s n iss l t) := by
  induction l generalizing s t with
  | nil => exact h
  | cons x l ih => exact ih (.landUpTo (.modCtx h.landUpTo.noteLoads fun _ hc => hc.beside))

theorem Upholds.moveRegs (h : Upholds s₀ s) {n t x} : Upholds s₀ (moveRegs s n t x) := by
  unfold Machine.moveRegs
  split
  · exact h.saveRegs
  · exact h.restoreRegs
  · exact h

theorem Upholds.switchRun (h : Upholds s₀ s) {n} : Upholds s₀ (switchRun s n) := by
  unfold Machine.switchRun
  exact h.landUpTo.modEng fun _ he => he.runs he.alt.freshRun.beside he.ctx.beside

theorem Upholds.haltAt (h : Upholds s₀ s) {n pc dbg} : Upholds s₀ (haltAt s n pc dbg) := h.landAll.modEng fun _ he => he.beside

theorem Upholds.stepOver (h : Upholds s₀ s) {n} : Upholds s₀ (stepOver s n) := .ite (h.haltAt.modEng fun _ he => he.beside) h

theorem Upholds.engFault (h : Upholds s₀ s) {n f inj} : Upholds s₀ (engFault s n f inj) := by
  unfold Machine.engFault
  dsimp only
  split
  · exact .ite (.detectAs (.modEng (h.moveRegs.modEng fun _ he => he.beside) fun _ he => he.beside))
      (.switchRun (.modEng (.detectAs (h.moveRegs.modEng fun _ he => he.beside)) fun _ he => he.beside))
  · exact .ite (.haltAt (.detectAs (h.moveRegs.modEng fun _ he => he.beside)))
      (.stepOver (.modEng (.detectAs (h.moveRegs.modEng fun _ he => he.beside)) fun _ he => he.beside))

theorem Upholds.transfer (h : Upholds s₀ s) {n a t x} : Upholds s₀ (transfer s n a t x) := by
  unfold Machine.transfer
  extract_lets moved
  have hmoved : Upholds s₀ moved := .moveRegs (h.modCtx fun _ hc => hc.beside)
  cases x with
  | call target ret mask low => exact hmoved.modCtx fun _ hc => .beside (.arrive (.ite hc.beside hc))
  | ret target mask low inh =>
    have hback : Upholds s₀ (Machine.modCtx moved n fun c =>
        { arrive (pastWord c a) target with cycle := t + (movedRegs mask).length + 2 }) :=
      hmoved.modCtx fun _ hc => hc.pastWord.arrive.beside
    exact .ite (hback.modEng fun _ he => he.beside) hback
  | branch target => exact hmoved.modCtx fun _ hc => .beside (.arrive (.ite hc.pastWord.beside hc.pastWord))
  | fallThrough w => exact hmoved.modCtx fun _ hc => hc.pastWord.beside

theorem Upholds.afterStep (h : Upholds s₀ s) {n} : Upholds s₀ (afterStep s n) := .ite h.haltAt h

theorem Upholds.advance (h : Upholds s₀ s) {n} : Upholds s₀ (advance s n) := by
  unfold Machine.advance
  dsimp only
  refine .afterStep ?_
  split
  · exact .ite (h.modCtx fun _ hc => hc.beside) (h.modCtx fun _ hc => hc.beside.pastWord.beside)
  · split
    · exact h.transfer
    · exact h.modCtx fun _ hc => hc.pastWord.beside

/-- A word upholds where its idle cycles and what it does do so. -/
theorem Upholds.issueWith (h : Upholds s₀ s) {w i idle run} (hi : ∀ u n, Upholds s₀ u → Upholds s₀ (idle u n))
    (hr : ∀ u n x, Upholds s₀ u → OkUpholds s₀ (run u n x)) : Upholds s₀ (issueWith s w i idle run) := by
  unfold Machine.issueWith
  extract_lets n landed before quiet e loc counted imm ready
  have hready : Upholds s₀ ready := Upholds.modEng (.eccRead h.landUpTo.markCross) fun _ he => he.beside.setCtx he.ctx.beside
  refine .ite h (.ite hready.engFault (.ite (hi _ _ hready.landUpTo) (.ite hready.engFault ?_)))
  split
  · exact .engFault (.ite hready.eccDetect hready)
  · next u hu => exact hr _ _ _ hready _ hu

theorem MemOk.slotWrite {m} (hm : MemOk s₀ m) {d j v} : MemOk s₀ (slotWrite m d j v) := .ite (.ite hm.tset.tset hm.tset.tset) hm.tset.tset

theorem Upholds.delayWrite (h : Upholds s₀ s) {n k v} : Upholds s₀ (delayWrite s n k v) := h.setBank h.bankMem.slotWrite

theorem Upholds.commit (h : Upholds s₀ s) {n f} : Upholds s₀ (commit s n f) := by
  unfold Machine.commit
  dsimp only
  refine .landUpTo (.modCtx ?_ fun _ hc => hc.beside)
  split
  · exact h.noteLoads.storeAll.delayWrite
  · exact h.noteLoads.storeAll

theorem Upholds.issueWord (h : Upholds s₀ s) {w i f} : Upholds s₀ (issueWord s w i f) := by
  unfold Machine.issueWord
  refine h.issueWith (fun _ _ h => h.advance) fun s n ext h => ?_
  split
  · exact .error
  · exact .ok h.commit.advance

end Sys2Proof.Machine
end

section
/-! The sides of bridges, program pages, grafts, leases and the schedule uphold. -/
namespace Sys2Proof.Machine

variable {s₀ s t : State}

theorem Upholds.setSide (h : Upholds s₀ s) {b egress d} : Upholds s₀ (setSide s b egress d) := .ite h.setBridge h.setBridge

theorem Upholds.unlockSide (h : Upholds s₀ s) {b egress portLost inj} : Upholds s₀ (unlockSide s b egress portLost inj) := by
  unfold Machine.unlockSide
  dsimp only
  split
  · exact h
  · exact h
  · exact h.setSide
  · exact h.setSide.detectAs

theorem Upholds.unlockPort (h : Upholds s₀ s) {p} : Upholds s₀ (unlockPort s p) := h.foldl fun _ _ h => h.unlockSide

theorem Upholds.followSide (h : Upholds s₀ s) {x} : Upholds s₀ (followSide s x) := .ite (.ite h.setSide h) h.unlockSide

theorem Upholds.followPort (h : Upholds s₀ s) {p} : Upholds s₀ (followPort s p) := h.foldl fun _ _ h => h.followSide

theorem Upholds.noteFill (h : Upholds s₀ s) {b egress} : Upholds s₀ (noteFill s b egress) := by
  unfold Machine.noteFill
  dsimp only
  split
  · exact h.draw.setSide
  · exact h.draw.setSide
  · exact h.draw

theorem Upholds.estimate (h : Upholds s₀ s) {p period} : Upholds s₀ (estimate s p period) := h.setPort

theorem Upholds.eachPort (h : Upholds s₀ s) {f} : Upholds s₀ (eachPort s f) := h.foldl fun _ _ h => h.setPort

theorem Upholds.eachBridge (h : Upholds s₀ s) {f} : Upholds s₀ (eachBridge s f) := h.foldl fun _ _ h => h.setBridge

theorem Upholds.eachLink (h : Upholds s₀ s) {f} : Upholds s₀ (eachLink s f) := h.foldl fun _ _ h => h.setLink

theorem Upholds.advanceEpoch (h : Upholds s₀ s) {e kind origin count} : Upholds s₀ (advanceEpoch s e kind origin count) := h.beside

theorem Upholds.mirrorPub (h : Upholds s₀ s) {n} : Upholds s₀ (mirrorPub s n) := h.foldl fun _ _ h => .ite (h.foldl fun _ _ h => h.putIn) h

theorem EngOk.abandon {e : Engine} (he : EngOk s₀ e) : EngOk s₀ (abandon e) :=
  .ite he (EngOk.ite (a := { e with ctx := e.alt, alt := e.ctx, newRun := false }) (he.runs he.alt he.ctx) he)

theorem Upholds.closeGate (h : Upholds s₀ s) : Upholds s₀ (closeGate s) :=
  .ite h ((h.beside.eachEng fun _ he => he.abandon).foldl fun _ _ h => h.mirrorPub)

theorem PageOk.bindPage {q : Page} (hq : PageOk s₀ q) {ws} : PageOk s₀ (bindPage ws q) := .ite hq (hq.setOther pageTbl_ok)

theorem Upholds.bindOn (h : Upholds s₀ s) {n p ws} : Upholds s₀ (bindOn s n p ws) :=
  (Upholds.ite h h.clearPage).modPage fun _ hq => hq.bindPage

theorem Upholds.startOn (h : Upholds s₀ s) {n p ws} : Upholds s₀ (startOn s n p ws) := by
  unfold Machine.startOn
  dsimp only
  split
  · exact .bindOn (.modPage (.ite h.clearPage h.clearPage.clearPage) fun _ hq => hq.startPage)
  · exact .modPage (.ite h.clearPage h.clearPage.clearPage) fun _ hq => hq.startPage

theorem Upholds.startImage (h : Upholds s₀ s) {n} : Upholds s₀ (startImage s n) := by
  unfold Machine.startImage
  refine .modEng (h.dropMarks.foldl fun _ _ h => h.startOn) fun e he => ?_
  exact ((he.runs (c := startCtx e.active e.ctx) he.ctx.startCtx .start).setRam he.active)

theorem PageOk.flipBound {q : Page} (hq : PageOk s₀ q) {fade ws} : PageOk s₀ (flipBound fade ws q) := PageOk.ite hq (hq.setOther pageTbl_ok)

theorem Upholds.flipOn (h : Upholds s₀ s) {fade n p ws} : Upholds s₀ (flipOn fade s n p ws) :=
  (Upholds.ite h h.clearPage).modPage fun _ hq => hq.flipBound

theorem Upholds.eachReplaced (h : Upholds s₀ s) {n b f} (hf : ∀ ws q, PageOk s₀ q → PageOk s₀ (f ws q) := by exact fun _ _ hq => hq) :
    Upholds s₀ (eachReplaced s n b f) :=
  h.foldl fun _ x h => h.modPage (hf x.2)

theorem MemOk.graftRam {b m} (hm : MemOk s₀ m) : MemOk s₀ (graftRam b m) := hm.filter.foldl fun _ _ hm => .ite hm hm.tset

theorem Upholds.graftWords (h : Upholds s₀ s) {n} : Upholds s₀ (graftWords s n) :=
  h.dropMarks.modEng fun _ he => he.setRam he.localRam.graftRam

theorem Upholds.flipPages (h : Upholds s₀ s) {n fade} : Upholds s₀ (flipPages s n fade) := h.foldl fun _ _ h => h.flipOn

theorem Upholds.flipBounds (h : Upholds s₀ s) {n} : Upholds s₀ (flipBounds s n) := h.foldl fun _ _ h => .ite h.flipOn h

theorem Upholds.applyGraft (h : Upholds s₀ s) {n t} : Upholds s₀ (applyGraft s n t) := by
  unfold Machine.applyGraft
  dsimp only
  split
  · exact h
  · next g _ =>
    have hs := h.modEng (n := n) (f := fun e => { swapBanks e with
      graft := none
      graftResult := if g.fade = 0 then 1 else if decide (0 < g.fade) && decide ((Machine.eng s n).state = .run) then 0 else 3 })
      fun _ he => he.swapBanks
    split
    · exact .ite (hs.flipBounds.startImage.modEng fun _ he => he.beside) hs.flipBounds.startImage
    · exact hs.flipPages
    · exact hs.flipPages
    · exact hs.flipPages.graftWords.modEng fun _ he => .ite (he.runs he.ctx (CtxOk.outs he.ctx .nil .nil)) he

theorem Upholds.endFade (h : Upholds s₀ s) {n result} : Upholds s₀ (endFade s n result) := by
  unfold Machine.endFade
  refine .ite h (.modEng h.eachReplaced fun e he => ?_)
  have hrun {c} (hc : CtxOk s₀ c) : EngOk s₀ { e with
      fade := none, graftResult := result, newRun := false, alt := {}, ctx := c } := he.runs hc .start
  exact .ite (hrun (.ite (.ite h.eng.ctx h.eng.alt) (.ite h.eng.alt h.eng.ctx)))
    (.swapBanks (hrun (.ite (.ite h.eng.ctx h.eng.alt) (.ite h.eng.alt h.eng.ctx))))

theorem PageOk.unbindPage {q : Page} (hq : PageOk s₀ q) : PageOk s₀ (unbindPage q) := PageOk.ite hq hq

theorem Upholds.cancelGraft (h : Upholds s₀ s) {n} : Upholds s₀ (cancelGraft s n) := by
  unfold Machine.cancelGraft
  exact (h.eachReplaced fun _ _ hq => hq.unbindPage).modEng fun _ he => he.beside

theorem Upholds.quarantine (h : Upholds s₀ s) {n} : Upholds s₀ (quarantine s n) := by
  unfold Machine.quarantine
  exact .detect (h.endFade.modEng fun _ he => he.beside)

theorem Upholds.groupDone (h : Upholds s₀ s) {g t} : Upholds s₀ (groupDone s g t) := .ite h.setGroup.advanceEpoch h.setGroup

theorem Upholds.commitOn (h : Upholds s₀ s) {g n t} : Upholds s₀ (commitOn s g n t) := by
  have hp := h.foldl (f := fun s k => Machine.modPage s n (k % 128) (flipPage t))
    (l := (group s g).pages.filter fun k => decide (k / 128 = n))
    fun _ _ h => h.modPage fun _ hq => hq.beside
  unfold Machine.commitOn
  dsimp only
  split
  · exact .ite (.ite hp.applyGraft hp) (Upholds.ite hp.applyGraft hp).groupDone
  · exact .ite hp hp.groupDone

theorem Upholds.zeroBank (h : Upholds s₀ s) {b} : Upholds s₀ (zeroBank s b) := h.dropMarks.setBank .nil

theorem EngOk.setBankNo {e : Engine} (he : EngOk s₀ e) {i v} : EngOk s₀ (setBankNo e i v) := by
  unfold Machine.setBankNo
  split <;> exact he

theorem Upholds.applyLease (h : Upholds s₀ s) {b kind id zero endAt} : Upholds s₀ (applyLease s b kind id zero endAt) := by
  unfold Machine.applyLease
  extract_lets old given taken k kept zeroed
  have hgiven : Upholds s₀ given := .ite (by split; exacts [h.modEng fun _ he => he.setBankNo, h]) h
  have htaken : Upholds s₀ taken := .ite (by split; exacts [hgiven.modEng fun _ he => he.setBankNo, hgiven]) hgiven
  have hkept : Upholds s₀ kept := htaken.markBank
  have hzeroed : Upholds s₀ zeroed := .ite hkept.zeroBank hkept
  exact .ite hzeroed.bumpEpoch hzeroed

theorem Upholds.endLeases (h : Upholds s₀ s) : Upholds s₀ (endLeases s) := by
  unfold Machine.endLeases
  dsimp only
  refine h.foldl fun s kv h => ?_
  split
  · exact .ite h.markBank h
  · exact h

theorem Upholds.portActOn (h : Upholds s₀ s) {p out op gain t ch} : Upholds s₀ (portActOn s p out op gain t ch) := h.setPort

theorem Upholds.applyPort (h : Upholds s₀ s) {p out op gain first count t} : Upholds s₀ (applyPort s p out op gain first count t) :=
  h.foldl fun _ _ h => h.portActOn

/-- A table whose values are changed in place, none of them to what an unlisted key reads as, stays canonical. -/
theorem map_wf {α : Type} [DecidableEq α] {d : α} {t : Tbl α} {g : α → α} (hg : ∀ v, v ≠ d → g v ≠ d) (w : Tbl.wf d t = true) :
    Tbl.wf d (t.map fun kv => (kv.1, g kv.2)) = true := by
  suffices hfrom : ∀ a, Tbl.wfFrom d a t = true → Tbl.wfFrom d a (t.map fun kv => (kv.1, g kv.2)) = true from hfrom 0 w
  induction t with
  | nil => exact fun _ _ => rfl
  | cons x t ih =>
    intro a hw
    simp only [List.map_cons, Tbl.wfFrom, Bool.and_eq_true, decide_eq_true_eq] at hw ⊢
    obtain ⟨⟨hkey, hval⟩, hrest⟩ := hw
    exact ⟨⟨hkey, hg _ hval⟩, ih (Tbl.wfFrom_mono (Nat.zero_le _) hrest) _ hrest⟩

theorem tget_map {α : Type} {d : α} {t : Tbl α} {g : α → α} (hd : g d = d) (k : Nat) :
    tget d (t.map fun kv => (kv.1, g kv.2)) k = g (tget d t k) := by
  induction t with
  | nil => exact hd.symm
  | cons x t ih =>
    simp only [List.map_cons, tget]
    split
    · rfl
    · exact ih

/-- A session, with the stamp of its transfer carried over a jump of the count, -/
def carrySession (f : MT → MT) (x : Session) : Session := { x with transfer := x.transfer.map fun t => { t with lastAt := f t.lastAt } }

/-- and a bank, with the stamp of its last ring. -/
def carryBank (f : MT → MT) (x : Bank) : Bank := { x with emptySince := x.emptySince.map f }

section
variable {f : MT → MT}

theorem carryStream_ne {x : Stream} (hx : x ≠ {}) : carryStream f x ≠ {} := fun e => hx (by
  cases x; simpa [carryStream] using e)

theorem carrySession_ne {x : Session} (hx : x ≠ {}) : carrySession f x ≠ {} := fun e => hx (by
  cases x; simpa [carrySession] using e)

theorem carryBank_ne {x : Bank} (hx : x ≠ {}) : carryBank f x ≠ {} := fun e => hx (by
  cases x; simpa [carryBank] using e)

/-- A state that is another with the stamps of its streams, sessions and banks carried over a jump of the count. -/
theorem Upholds.carried (h : Upholds s₀ s) (hs : t.streams = s.streams.map fun kv => (kv.1, carryStream f kv.2))
    (hm : t.mgmt.sessions = s.mgmt.sessions.map fun kv => (kv.1, carrySession f kv.2))
    (hb : t.mem.banks = s.mem.banks.map fun kv => (kv.1, carryBank f kv.2))
    (hq : upheld { t with
      streams := s.streams, mgmt := { t.mgmt with sessions := s.mgmt.sessions }, mem := { t.mem with banks := s.mem.banks } } = upheld s) :
    Upholds s₀ t := by
  refine (h.of_upheld hq).tables rfl fun _ hc => ?_
  obtain ⟨e, r, g, p, i, l, x, m, b, c, z, hengs, hbanks, hcross⟩ := hc
  refine ⟨e, r, g, p, i, l, ?_, ?_, ?_, c, z, hengs, fun k => ?_, hcross⟩
  · rw [hs]; exact map_wf (fun _ => carryStream_ne) x
  · rw [hm]; exact map_wf (fun _ => carrySession_ne) m
  · rw [hb]; exact map_wf (fun _ => carryBank_ne) b
  · have hk : bank t k = carryBank f (bank s k) := by unfold bank; rw [hb]; exact tget_map rfl k
    rw [hk]
    exact hbanks k

end

theorem Upholds.carryStamps (h : Upholds s₀ s) {f} : Upholds s₀ (carryStamps f s) := by
  have hr := h.foldl (f := fun s kv => Machine.setRoute s kv.1 { kv.2 with since := f kv.2.since }) (l := s.routes) fun _ _ h => h.setRoute
  unfold Machine.carryStamps
  dsimp only
  refine .eachBridge (.eachLink (.eachPort ?_))
  generalize List.foldl _ s s.routes = u at hr ⊢
  exact hr.carried rfl rfl rfl rfl

/-- A page, with the start of its glide carried over a jump of the count. -/
def carryPage (f : MT → MT) (q : Page) : Page := { q with glideStart := if q.state = .gliding then f q.glideStart else q.glideStart }

theorem carryPage_ne {f : MT → MT} {q : Page} (hq : q ≠ {}) : carryPage f q ≠ {} := fun e => by
  by_cases hg : q.state = .gliding
  · have hs : (carryPage f q).state = q.state := rfl
    rw [e, hg] at hs
    exact absurd hs (by decide)
  · have hs : carryPage f q = q := by unfold carryPage; rw [if_neg hg]
    exact hq (hs.symm.trans e)

theorem EngOk.carryPages {e : Engine} (he : EngOk s₀ e) {f} : EngOk s₀ { e with pages := e.pages.map fun kv => (kv.1, carryPage f kv.2) } :=
  fun h0 => by
    obtain ⟨c, a, m, i, j, hp, hpages, r⟩ := he h0
    refine ⟨c, a, m, i, j, map_wf (fun _ => carryPage_ne) hp, fun k => ?_, r⟩
    have hk : Machine.page { e with pages := e.pages.map fun kv => (kv.1, carryPage f kv.2) } k = carryPage f (Machine.page e k) := tget_map
      rfl k
    rw [hk]
    exact hpages k

theorem Upholds.carryFrames (h : Upholds s₀ s) {f} : Upholds s₀ (carryFrames f s) := by
  unfold Machine.carryFrames
  exact .eachEng (h.eachEng fun _ he => he.beside) fun _ he => he.carryPages

theorem Upholds.mapInj (h : Upholds s₀ s) {f} : Upholds s₀ (mapInj f s) := h.beside

theorem Upholds.hop (h : Upholds s₀ s) {next} : Upholds s₀ (hop s next) := by
  unfold Machine.hop
  exact h.closeGate.carryStamps.carryFrames.mapInj.beside.eachPort.eachBridge.detect

theorem Upholds.applyStream (h : Upholds s₀ s) {e start t} : Upholds s₀ (applyStream s e start t) := .ite h.setStream h.setStream

theorem Upholds.withhold (h : Upholds s₀ s) {dwell} : Upholds s₀ (withhold s dwell) := .ite h.beside h.beside

theorem Upholds.applySched (h : Upholds s₀ s) {x} : Upholds s₀ (applySched s x) := by
  unfold Machine.applySched
  dsimp only
  split
  · exact h.commitOn
  · exact h.applyGraft
  · exact h.setRoute.bumpEpoch
  · exact h.beside.setRoute.bumpEpoch
  · exact h.applyLease
  · exact h.applyPort
  · exact h.applyStream
  · exact h.applyStream
  · exact h.hop
  · exact h.withhold

theorem Upholds.applyWhere (h : Upholds s₀ s) {p} : Upholds s₀ (applyWhere s p) := h.beside.foldl fun _ _ h => h.beside.applySched

end Sys2Proof.Machine
end

section
/-! References and frames uphold. -/
namespace Sys2Proof.Machine

variable {s₀ s t : State}

theorem Upholds.setRefMon (h : Upholds s₀ s) {i m} : Upholds s₀ (setRefMon s i m) := h.setClocks

theorem Upholds.holdAtWord (h : Upholds s₀ s) {w} : Upholds s₀ (holdAtWord s w) := h.setClocks.detect

theorem Upholds.holdover (h : Upholds s₀ s) : Upholds s₀ (holdover s) := h.holdAtWord

theorem Upholds.acquire (h : Upholds s₀ s) {i} : Upholds s₀ (acquire s i) := h.beside

theorem Upholds.steerFrom (h : Upholds s₀ s) {old} : Upholds s₀ (steerFrom s old) := by
  unfold Machine.steerFrom
  dsimp only
  split
  · exact .ite h h.setClocks.acquire.detect
  · exact .ite h.holdover h

theorem Upholds.steer (h : Upholds s₀ s) : Upholds s₀ (steer s) := h.steerFrom

theorem Upholds.reacquireRef (h : Upholds s₀ s) : Upholds s₀ (reacquireRef s) := by
  unfold Machine.reacquireRef
  split
  · exact h.acquire
  · exact h

theorem Upholds.rootSteers (h : Upholds s₀ s) : Upholds s₀ (rootSteers s) := by
  unfold Machine.rootSteers
  split
  · exact .ite h.holdAtWord.steer h.steer
  · exact h.steer

theorem Upholds.mcpllTick (h : Upholds s₀ s) : Upholds s₀ (mcpllTick s) := h.beside

theorem Upholds.disqualify (h : Upholds s₀ s) {i st code inj} : Upholds s₀ (disqualify s i st code inj) := h.setRefMon.detectAs.steer

theorem Upholds.refStop (h : Upholds s₀ s) {i inj} : Upholds s₀ (refStop s i inj) := .ite h h.disqualify

theorem Upholds.bufferOff (h : Upholds s₀ s) {p} : Upholds s₀ (bufferOff s p) := by
  unfold Machine.bufferOff
  split
  · exact h.setRefMon.steerFrom
  · exact h

theorem Upholds.bufferWatch (h : Upholds s₀ s) : Upholds s₀ (bufferWatch s) :=
  h.foldl fun _ _ h => .ite h (.ite (.ite h.setRefMon h) (.ite h h.setRefMon))

theorem Upholds.execResultLand (h : Upholds s₀ s) {e} : OutUpholds s₀ (execResultLand e s) := by
  unfold Machine.execResultLand
  dsimp only
  refine .ite (.ok h) ?_
  split
  · exact .ok h
  · exact .ite (.ok h.discard) (.ok h.landUpTo)

theorem Upholds.deadline (h : Upholds s₀ s) {n} : Upholds s₀ (deadline s n) :=
  .ite ((Upholds.ite h.engFault h).engFault) (.ite h.engFault h)

theorem Upholds.settle (h : Upholds s₀ s) {n} : Upholds s₀ (settle s n) := by
  unfold Machine.settle
  dsimp only
  have hs : Upholds s₀ (Machine.modEng s n fun e => { e with stage := .none, stAtEnd := st e.ctx }) := h.modEng fun _ he => he.beside
  refine .ite (hs.modEng fun _ he => he.beside) ?_
  split
  · have hold : CtxOk s₀ (if (Machine.eng s n).newRun then (Machine.eng s n).alt else (Machine.eng s n).ctx) := .ite h.eng.alt h.eng.ctx
    have hnew : CtxOk s₀ (if (Machine.eng s n).newRun then (Machine.eng s n).ctx else (Machine.eng s n).alt) := .ite h.eng.ctx h.eng.alt
    refine .ite (.quarantine ?_) ?_
    · exact hs.modEng fun _ he => he.runs hold hnew
    · exact hs.modEng fun _ he => he.runs hold hnew
  · exact .modEng (.ite (.quarantine (hs.modEng fun _ he => he.beside)) (hs.modEng fun _ he => he.beside)) fun _ he => he.beside

theorem Upholds.fadeAt (h : Upholds s₀ s) {n t} : Upholds s₀ (fadeAt s n t) := by
  unfold Machine.fadeAt
  split
  · exact h
  · refine .ite h.endFade ?_
    split
    · exact .ite h.endFade (.ite h.endFade h)
    · exact .ite h.endFade h

theorem Upholds.applyFor (h : Upholds s₀ s) {n t} : Upholds s₀ (applyFor s n t) := h.applyWhere

theorem Upholds.applyRelease (h : Upholds s₀ s) {n} : Upholds s₀ (applyRelease s n) := by
  unfold Machine.applyRelease
  exact .ite (.detect (.modEng h.startImage fun _ he => he.beside)) h

theorem Upholds.prepare (h : Upholds s₀ s) {n t} : Upholds s₀ (prepare s n t) := by
  unfold Machine.prepare
  refine h.applyRelease.modEng fun e he => .ite he ?_
  exact he.setCtx (c := freshRun e.ctx _) he.ctx

theorem Upholds.endFrame (h : Upholds s₀ s) {n} : Upholds s₀ (endFrame s n) := by
  unfold Machine.endFrame
  extract_lets missed landed bad settled
  have hsettled : Upholds s₀ settled := h.deadline.landUpTo.discard.settle.modEng fun _ he => he.runs he.ctx.beside he.alt.beside
  exact .ite hsettled.mirrorPub hsettled

theorem Upholds.repeatOutputs (h : Upholds s₀ s) {n} : Upholds s₀ (repeatOutputs s n) := .ite h.mirrorPub h

theorem Upholds.closeFrame (h : Upholds s₀ s) {n t} : Upholds s₀ (closeFrame s n t) :=
  (Upholds.ite h.endFrame h).repeatOutputs.fadeAt.applyFor.prepare

theorem Upholds.execFrameEnd (h : Upholds s₀ s) {e} : OutUpholds s₀ (execFrameEnd e s) := .ite (.ok h) (.ok h.closeFrame)

theorem Upholds.swapBuffers (h : Upholds s₀ s) {n} : Upholds s₀ (swapBuffers s n) :=
  h.modEng fun _ he => (he.inputs he.inAlt he.inCur.filter).runs (he.ctx.outs he.ctx.outAlt he.ctx.outCur)
    (he.alt.outs he.alt.outAlt he.alt.outCur)

theorem Upholds.injectStart (h : Upholds s₀ s) {n low trap} : Upholds s₀ (injectStart s n low trap) := by
  unfold Machine.injectStart
  exact .ite (.ite h.suppress (.detectAs (h.modEng fun _ he => he.beside)))
    (.ite (.detectAs (h.modEng fun _ he => he.beside)) (.ite h.suppress h.engFault))

theorem Upholds.startFrame (h : Upholds s₀ s) {n} : Upholds s₀ (startFrame s n) := by
  unfold Machine.startFrame
  exact .ite (Upholds.foldl (.modEng (h.modEng fun _ he => he.beside) fun _ he => he.beside) fun _ _ h => h.injectStart) h

theorem Upholds.execFrameBoundary (h : Upholds s₀ s) {e} : OutUpholds s₀ (execFrameBoundary e s) := by
  unfold Machine.execFrameBoundary
  exact .ite (.ok h) (.ok (.startFrame (.modEng (.swapBuffers (.prepare (.ite h.closeFrame (.ite h h.repeatOutputs.fadeAt.applyFor))))
    fun _ he => he.beside)))

theorem Upholds.execScheduleLock (h : Upholds s₀ s) : OutUpholds s₀ (execScheduleLock s) := by
  unfold Machine.execScheduleLock
  dsimp only
  refine .ok (h.beside.foldl fun u x h => ?_)
  split
  · exact .modEng (.ite h.setGroup h) fun _ he => he.beside
  · exact h.modEng fun _ he => he.beside
  · exact h

theorem Upholds.execHostServiceInterrupt (h : Upholds s₀ s) {e} : OutUpholds s₀ (execHostServiceInterrupt e s) :=
  .ite (.ok (h.landAll.modEng fun _ he => he.beside)) (.ok h)

theorem Upholds.execDebugBreakTaken (h : Upholds s₀ s) {e} : OutUpholds s₀ (execDebugBreakTaken e s) :=
  .ite (.ite (.ok (h.haltAt.modEng fun _ he => he.beside)) (.ok h)) (.ite (.ok (h.endFade.modEng fun _ he => he.beside)) (.ok h))

theorem Upholds.execBaseRateArm (h : Upholds s₀ s) {r target} : OutUpholds s₀ (execBaseRateArm r target s) := by
  unfold Machine.execBaseRateArm
  dsimp only
  refine .ok (h.writeCmd fun s h => .ite .error (.ite ?_ (.ite .error (.ite .error
    (.ite .error (.ite .error (.ite .error (.ok h.beside))))))))
  split
  · exact .ok h
  · exact .ite (.ok h.beside) .error

theorem Upholds.portCount (h : Upholds s₀ s) {p elem} : Upholds s₀ (portCount s p elem) := h.setPort

theorem Upholds.ppsOut (h : Upholds s₀ s) {t} : Upholds s₀ (ppsOut s t) := .ite h.beside h

theorem Upholds.linkCount (h : Upholds s₀ s) {l elem} : Upholds s₀ (linkCount s l elem) := h.setLink

theorem Upholds.loseSlots (h : Upholds s₀ s) {l} : Upholds s₀ (loseSlots s l) := h.foldl fun _ _ h => h.setLink

theorem Upholds.dropTails (h : Upholds s₀ s) {t} : Upholds s₀ (dropTails s t) := h.beside

theorem Upholds.endGap (h : Upholds s₀ s) {t} : Upholds s₀ (endGap s t) := by
  unfold Machine.endGap
  dsimp only
  refine .ite h ?_
  split
  · exact h.beside.detect
  · exact h.beside

end Sys2Proof.Machine
end

section
/-! Stamps, the router and the slots of links uphold. -/
namespace Sys2Proof.Machine

variable {s₀ s t : State}

theorem Upholds.capture (h : Upholds s₀ s) {p r} : Upholds s₀ (capture s p r) := by
  unfold Machine.capture
  dsimp only
  split
  · exact h
  · exact .ite h (h.setBank (h.bankMem.foldl fun _ _ hm => hm.slotWrite))

theorem Upholds.deliverStamp (h : Upholds s₀ s) {p x f} : Upholds s₀ (deliverStamp s p x f) := .ite h.setPort.capture h.setPort

theorem Upholds.underrunIn (h : Upholds s₀ s) {p x inj} : Upholds s₀ (underrunIn s p x inj) := by
  unfold Machine.underrunIn
  exact h.deliverStamp.portCount.bufferOff.detectWhen

theorem Upholds.inStamp (h : Upholds s₀ s) {p x} : Upholds s₀ (inStamp s p x) := by
  unfold Machine.inStamp
  dsimp only
  split
  · exact h.deliverStamp
  · exact .ite h.underrunIn (.ite h.deliverStamp h.setPort)

theorem Upholds.portStamps (h : Upholds s₀ s) {p t} : Upholds s₀ (portStamps s p t) := by
  unfold Machine.portStamps
  refine .ite h ?_
  split
  · exact h
  · exact h.foldl fun _ _ h => h.inStamp

theorem Upholds.overrun (h : Upholds s₀ s) {p dir inj} : Upholds s₀ (overrun s p dir inj) := h.portCount.detectAs.bufferOff

theorem Upholds.outStamp (h : Upholds s₀ s) {p x} : Upholds s₀ (outStamp s p x) := by
  unfold Machine.outStamp
  dsimp only
  refine .ite h.setPort ?_
  split
  · exact h.setPort.overrun
  · exact h.setPort

theorem Upholds.outStamps (h : Upholds s₀ s) {p t} : Upholds s₀ (outStamps s p t) := by
  unfold Machine.outStamps
  refine .ite h ?_
  split
  · exact h
  · exact h.foldl fun _ _ h => h.outStamp

theorem Upholds.lostForeign (h : Upholds s₀ s) {p t} : Upholds s₀ (lostForeign s p t) := .ite h h.setPort

theorem Upholds.allStamps (h : Upholds s₀ s) {t} : Upholds s₀ (allStamps s t) :=
  (h.foldl fun _ _ h => h.portStamps).foldl fun _ _ h => h.outStamps

theorem Upholds.stageBridge (h : Upholds s₀ s) {b t} : Upholds s₀ (stageBridge s b t) := .ite h h.setBridge

theorem Upholds.ringWrite (h : Upholds s₀ s) {r periods per count xs} : Upholds s₀ (ringWrite s r periods per count xs) :=
  h.foldl fun _ _ h => h.clearRows.setBank h.clearRows.bankMem.tsetRun

/-- A fold over a state and a list that it gathers. -/
theorem Upholds.gather {α β : Type} {f : State × α → β → State × α} (hf : ∀ u x, Upholds s₀ u.1 → Upholds s₀ (f u x).1)
    {l : List β} :
    ∀ {u}, Upholds s₀ u.1 → Upholds s₀ (l.foldl f u).1 := by
  induction l with
  | nil => exact id
  | cons x l ih => exact fun h => ih (hf _ x h)

theorem Upholds.ringRead (h : Upholds s₀ s) {r periods per count} : Upholds s₀ (ringRead s r periods per count).1 :=
  Upholds.gather (fun _ _ h => h.eccRead) h

theorem Upholds.copyOf (h : Upholds s₀ s) {e i t} : Upholds s₀ (copyOf s e i t).1 := by
  unfold Machine.copyOf
  dsimp only
  split
  · exact h
  · split
    · exact h
    · generalize (if i = 0 then _ else _) = hops
      split
      · exact h.ringWrite
      · exact h.ringWrite.ringRead

theorem Upholds.present (h : Upholds s₀ s) {e t} : Upholds s₀ (present s e t) := by
  unfold Machine.present
  dsimp only
  split
  · exact h.copyOf.copyOf.setPlaying
  · exact h.copyOf.setPlaying

theorem Upholds.toBlock (h : Upholds s₀ s) {kind unit ch t v} : Upholds s₀ (toBlock s kind unit ch t v) := by
  unfold Machine.toBlock
  dsimp only
  split
  · exact h.setBridge
  · exact h.setPort

theorem Upholds.toSlot (h : Upholds s₀ s) {l slot t v valid} : Upholds s₀ (toSlot s l slot t v valid) := .ite h.setLink h.setLink

theorem Upholds.moveToEngine (h : Upholds s₀ s) {r stop t} : Upholds s₀ (moveToEngine s r stop t) := .ite h (h.foldl fun _ _ h => h.putIn)

theorem Upholds.moveToBlock (h : Upholds s₀ s) {r stop t} : Upholds s₀ (moveToBlock s r stop t) :=
  .ite (.ite h (h.foldl fun _ _ h => h.toBlock)) (.ite h (h.foldl fun _ _ h => h.toBlock))

theorem Upholds.moveRoute (h : Upholds s₀ s) {r stop t} : Upholds s₀ (moveRoute s r stop t) := .ite h.moveToEngine h.moveToBlock

theorem Upholds.movePresented (h : Upholds s₀ s) {e t} : Upholds s₀ (movePresented s e t) :=
  .ite (.ite (h.foldl fun _ _ h => h.putIn) h) (.ite (h.foldl fun _ _ h => h.toBlock) h)

theorem Upholds.moveTransit (h : Upholds s₀ s) {e t} : Upholds s₀ (moveTransit s e t) := by
  unfold Machine.moveTransit
  dsimp only
  split
  · exact h
  · exact h.foldl fun _ _ h => h.foldl fun _ _ h => h.toSlot

theorem Upholds.moveSource (h : Upholds s₀ s) {e t} : Upholds s₀ (moveSource s e t) := by
  unfold Machine.moveSource
  dsimp only
  refine h.foldl fun s kv h => h.foldl fun s y h => ?_
  split
  · exact h
  · exact h.toSlot

theorem Upholds.execRouterWindow (h : Upholds s₀ s) {win} : OutUpholds s₀ (execRouterWindow win s) := by
  unfold Machine.execRouterWindow
  extract_lets t stamped go staged presented tails moved offered
  have hstamped : Upholds s₀ stamped := h.foldl fun _ _ h => h.portStamps
  have hstaged : Upholds s₀ staged := .ite hstamped (hstamped.foldl fun _ _ h => h.stageBridge)
  have hpresented : Upholds s₀ presented := .ite (hstaged.foldl fun _ _ h => .ite h.present h) hstaged
  have htails : Upholds s₀ tails := .ite (hpresented.foldl fun _ _ h => h.moveRoute) hpresented
  have hmoved : Upholds s₀ moved := .ite (htails.foldl fun _ _ h => .ite h.moveRoute h) htails
  have hoffered : Upholds s₀ offered := hmoved.foldl fun u kv h => by
    extract_lets shown passed
    have hshown : Upholds s₀ shown := .ite h.movePresented h
    have hpassed : Upholds s₀ passed := .ite hshown.moveTransit hshown
    exact .ite hpassed.moveSource hpassed
  exact .ite (.ok hstamped) (.ok (hoffered.foldl fun _ _ h => h.outStamps))

theorem Upholds.markEmpty (h : Upholds s₀ s) : Upholds s₀ (markEmpty s) := h.foldl fun _ _ h => .ite h.markBank h

theorem Upholds.stage (h : Upholds s₀ s) {t a} : Upholds s₀ (stage s t a) := h.setClocks

theorem Upholds.switchCopy (h : Upholds s₀ s) {e alt l hops slots ring} : Upholds s₀ (switchCopy s e alt l hops slots ring) := by
  unfold Machine.switchCopy
  dsimp only
  refine .setStream (.ite h (.setLink ?_))
  split
  · exact h.setLink
  · exact h

theorem Upholds.applyStage (h : Upholds s₀ s) {a} : Upholds s₀ (applyStage s a) := by
  cases a with
  | map l out e slots => exact h.setLink
  | unmap l out slots => exact h.setLink
  | playout b l => exact h.markBank
  | switch e alt l hops slots ring => exact h.switchCopy

theorem Upholds.applyStaged (h : Upholds s₀ s) : Upholds s₀ (applyStaged s) :=
  .ite h (.markEmpty (h.beside.foldl fun _ _ h => h.applyStage))

theorem Upholds.unmap (h : Upholds s₀ s) {e only t} : Upholds s₀ (unmap s e only t) :=
  (Upholds.ite h.setClocks h).foldl fun _ _ h => .ite h (h.foldl fun _ _ h => .ite h h.stage)

theorem Upholds.freeEntry (h : Upholds s₀ s) {e t} : Upholds s₀ (freeEntry s e t) := by
  unfold Machine.freeEntry
  exact .markEmpty (.setStream (.ite h.unmap.schedDrop.beside h.unmap.schedDrop))

end Sys2Proof.Machine
end

section
/-! The states of the device, admission, routes and the memories uphold. -/
namespace Sys2Proof.Machine

variable {s₀ s t : State}

theorem Upholds.gateEng (h : Upholds s₀ s) {n} : Upholds s₀ (gateEng s n) := .ite h (h.endFade.modEng fun _ he => he.beside)

theorem Upholds.gateEngs (h : Upholds s₀ s) : Upholds s₀ (gateEngs s) := h.foldl fun _ _ h => h.gateEng

theorem Upholds.setPath (h : Upholds s₀ s) {l b v} : Upholds s₀ (setPath s l b v) := .ite h.setLink h.setLink

theorem Upholds.startPath (h : Upholds s₀ s) {l b} : Upholds s₀ (startPath s l b) := h.setPath

theorem Upholds.pathOut (h : Upholds s₀ s) {l b st} : Upholds s₀ (pathOut s l b st) := h.setPath

theorem Upholds.endJoin (h : Upholds s₀ s) {l code} : Upholds s₀ (endJoin s l code) := .ite h.setLink h.setLink.beside

theorem Upholds.linkDown (h : Upholds s₀ s) {l} : Upholds s₀ (linkDown s l) := h.endJoin.setLink

theorem Upholds.losePath (h : Upholds s₀ s) {l b st code arg inj} : Upholds s₀ (losePath s l b st code arg inj) :=
  .ite h.pathOut.detectAs h.pathOut.detectAs.linkDown.detectAs

theorem Upholds.allPathsDown (h : Upholds s₀ s) : Upholds s₀ (allPathsDown s) :=
  (h.foldl fun _ _ h => h.foldl fun _ _ h => .ite h (.ite h.pathOut.detect h.pathOut)).foldl fun _ _ h => h.linkDown.detect

theorem Upholds.sendPath (h : Upholds s₀ s) {l b st} : Upholds s₀ (sendPath s l b st) := .ite h.pathOut.linkDown.detect h.pathOut

theorem Upholds.steerRate (h : Upholds s₀ s) {n low} : Upholds s₀ (steerRate s n low) :=
  .ite h.setLink.sendPath (.ite h.setLink.sendPath h.setLink)

theorem Upholds.endRest (h : Upholds s₀ s) : Upholds s₀ (endRest s) := .ite (h.beside.foldl fun _ _ h => h.steerRate) h

theorem Upholds.enterFault (h : Upholds s₀ s) {cause} : Upholds s₀ (enterFault s cause) := .ite h.gateEngs.endRest.beside h

theorem Upholds.endSession (h : Upholds s₀ s) {k} : Upholds s₀ (endSession s k) := by
  unfold Machine.endSession
  exact h.setSession.beside

theorem Upholds.endSessions (h : Upholds s₀ s) {p} : Upholds s₀ (endSessions s p) := h.foldl fun _ _ h => .ite h.endSession h

theorem Upholds.releaseShare (h : Upholds s₀ s) {e} : Upholds s₀ (releaseShare s e) :=
  .ite h.freeEntry (.ite (.ite h.setClocks.setStream h.setClocks) h)

theorem Upholds.releasePending (h : Upholds s₀ s) : Upholds s₀ (releasePending s) := h.foldl fun _ _ h => .ite h.setStream h.releaseShare

theorem Upholds.skipRestart (h : Upholds s₀ s) : Upholds s₀ (skipRestart s) := .ite h h.beside

theorem Upholds.beginRestart (h : Upholds s₀ s) {cause} : Upholds s₀ (beginRestart s cause) := by
  unfold Machine.beginRestart
  extract_lets skipped dropped released stopped m p cut mem grove mgmt flash restarting
  have hdropped : Upholds s₀ dropped := h.skipRestart.foldl fun _ _ h => .ite h.setSession h
  have hstopped : Upholds s₀ stopped := hdropped.releasePending.foldl fun _ _ h => .ite (h.modEng fun e he => by
    exact he.setLoading (b := none) fun _ hx => by cases hx) h
  clear_value stopped
  have hrestarting : Upholds s₀ restarting := hstopped.beside
  exact hrestarting.foldl fun _ _ h => h.detect

theorem Upholds.writeCut (h : Upholds s₀ s) {was} : Upholds s₀ (writeCut was s) := .ite h.detect h

theorem Upholds.wipeHeart (h : Upholds s₀ s) {cause} : Upholds s₀ (wipeHeart s cause) := by
  have hs := h.endSessions (p := fun _ => true)
  unfold Machine.wipeHeart
  dsimp only
  generalize Machine.endSessions s _ = u at hs ⊢
  exact hs.beside

theorem Upholds.writeAt (h : Upholds s₀ s) {r there g body} (hb : ∀ v, Upholds s₀ v → OkUpholds s₀ (body v)) :
    Upholds s₀ (writeAt s r there g body) :=
  h.runRequest fun v hv => by
    split
    · exact .error
    · next e => exact .ok (hb v hv _ e)

theorem Upholds.routeCmd (h : Upholds s₀ s) {r entry body} (hb : ∀ v, Upholds s₀ v → OkUpholds s₀ (body v)) :
    OutUpholds s₀ (routeCmd s r entry body) := .ok (h.writeAt hb)

theorem Upholds.execRouteAdd (h : Upholds s₀ s) {r entry cls channels src dst target} :
    OutUpholds s₀ (execRouteAdd r entry cls channels src dst target s) := by
  unfold Machine.execRouteAdd
  dsimp only
  refine h.routeCmd fun s h => .ite .error (.ite .error (.ite .error ?_))
  split
  · exact .error
  · exact .ok h.schedAdd.setRoute

theorem Upholds.execRouteRemove (h : Upholds s₀ s) {r entry target} : OutUpholds s₀ (execRouteRemove r entry target s) :=
  h.routeCmd fun _ h => .ite .error (.ite .error (.ite .error (.ite .error (.ite .error (.ok h.schedAdd.setRoute)))))

theorem Upholds.execRouteCancel (h : Upholds s₀ s) {r entry target} : OutUpholds s₀ (execRouteCancel r entry target s) :=
  h.routeCmd fun _ h => .ite .error (.ite .error (.ite .error (.ite (.ok h.schedDrop.setRoute)
    (.ite .error (.ite .error (.ite .error (.ok h.schedDrop.setRoute)))))))

theorem Upholds.execDlsLease (h : Upholds s₀ s) {r bank kind id flags startAt endAt} :
    OutUpholds s₀ (execDlsLease r bank kind id flags startAt endAt s) :=
  .ok (h.writeCmd fun _ h => .ite .error (.ite .error (.ite .error (.ite .error (.ite .error (.ok h.schedAdd))))))

theorem Upholds.execDlsLeaseCancel (h : Upholds s₀ s) {r bank kind id flags startAt endAt} :
    OutUpholds s₀ (execDlsLeaseCancel r bank kind id flags startAt endAt s) :=
  .ok (h.writeCmd fun _ h => .ite .error (.ite .error (.ite .error (.ok h.schedDrop))))

theorem Upholds.execZeroFillComplete (h : Upholds s₀ s) {bank} : OutUpholds s₀ (execZeroFillComplete bank s) := .ok h.markBank

theorem Upholds.queueShared (h : Upholds s₀ s) {b l} : Upholds s₀ (queueShared s b l) := h.markBank

theorem Upholds.debugServed (h : Upholds s₀ s) {value bad} : Upholds s₀ (debugServed s value bad) := h.beside

theorem Upholds.slotServed (h : Upholds s₀ s) {n q out} : Upholds s₀ (slotServed s n q out) :=
  .ite h.beside.debugServed (.ite (.ite h.beside.beside.queueShared h.beside.beside) h.beside)

theorem Upholds.serveRead (h : Upholds s₀ s) {n q} : Upholds s₀ (serveRead s n q) := (Upholds.ite h h.eccRead).slotServed

theorem Upholds.serveWrite (h : Upholds s₀ s) {n q ws} : Upholds s₀ (serveWrite s n q ws) :=
  .ite (h.clearRows.setBank h.clearRows.bankMem.tsetRun).slotServed h.slotServed

/-- Counting who waits leaves the bank's memory. -/
theorem waitCounts_mem (l : List SharedReq) (ks : List Nat) (b : Bank) :
    (ks.foldl (fun b k => if l.any (fun x => decide (x.who = k)) then waitCount b k else b) b).mem = b.mem := by
  induction ks generalizing b with
  | nil => rfl
  | cons k ks ih =>
    refine (ih _).trans ?_
    dsimp only
    split <;> rfl

theorem Upholds.execSharedSlotAccess (h : Upholds s₀ s) {slot} : OutUpholds s₀ (execSharedSlotAccess slot s) := by
  unfold Machine.execSharedSlotAccess
  dsimp only
  split
  · exact .ok h.queueShared
  · next q l _ =>
    refine .ok ?_
    generalize hb : (List.range 7).foldl _ _ = b
    have hm : MemOk s₀ b.mem := by
      rw [← hb, waitCounts_mem]
      exact h.queueShared.bankMem
    split
    · exact (h.queueShared.setBank hm).serveRead
    · exact (h.queueShared.setBank hm).serveWrite

theorem Upholds.collide (h : Upholds s₀ s) {b word} : Upholds s₀ (collide s b word) := .ite h.markCross h.markCross.detect

theorem Upholds.portBWrite (h : Upholds s₀ s) {b word v} :
    Upholds s₀ (portBWrite s b word v) := h.clearMark.setCross h.clearMark.crossMem.tset

theorem Upholds.portBAct (h : Upholds s₀ s) {b a sameCycle} : Upholds s₀ (portBAct s b a sameCycle) := by
  unfold Machine.portBAct
  dsimp only
  split
  · exact h.markCross.eccRead
  · split
    · exact h.portBWrite
    · split
      · exact h.portBWrite
      · exact .ite h.portBWrite (.ite h h.collide)

theorem Upholds.portBStep (h : Upholds s₀ s) {b sameCycle} : Upholds s₀ (portBStep s b sameCycle) := by
  unfold Machine.portBStep
  dsimp only
  split
  · exact h
  · exact h.markCross.portBAct

theorem Upholds.settlePortB (h : Upholds s₀ s) {b} : Upholds s₀ (settlePortB s b) := h.foldl fun _ _ h => h.portBStep

theorem Upholds.queueCross (h : Upholds s₀ s) {b word v tag} : Upholds s₀ (queueCross s b word v tag) := h.markCross

theorem Upholds.execPortBAccess (h : Upholds s₀ s) {block link word request sameCycle} :
    OutUpholds s₀ (execPortBAccess block link word request sameCycle s) :=
  .ok h.markCross.portBStep

theorem Upholds.execCrossAtomic (h : Upholds s₀ s) {r addr op reserved operand _sameCycle} :
    OutUpholds s₀ (execCrossAtomic r addr op reserved operand _sameCycle s) :=
  .ok (.writeCmd (.ite (h.settlePortB.foldl fun _ _ h => h.eccRead) h.settlePortB) fun _ h =>
    .ite .error (.ok h.portBWrite.portBWrite.markCross.setSession))

theorem Upholds.execCollClear (h : Upholds s₀ s) {r mask} : OutUpholds s₀ (execCollClear r mask s) :=
  .ok (h.writeCmd fun _ h => .ok (h.foldl fun _ _ h => .ite h.markCross h))

theorem Upholds.setPatrol (h : Upholds s₀ s) {p} : Upholds s₀ (setPatrol s p) := h.beside

theorem Upholds.patrolStep (h : Upholds s₀ s) {p perRow} : Upholds s₀ (patrolStep s p perRow) := .ite h.setPatrol h.setPatrol.queueShared

theorem Upholds.execPatrolRegionStart (h : Upholds s₀ s) : OutUpholds s₀ (execPatrolRegionStart s) := by
  unfold Machine.execPatrolRegionStart
  dsimp only
  split
  · exact .ok h
  · exact .ite (.ok h) (.ok ((h.foldl fun _ _ h => .ite h.eccRead.clearMark h.eccRead).patrolStep))

theorem Upholds.execPatrolRedirect (h : Upholds s₀ s) : OutUpholds s₀ (execPatrolRedirect s) := .ite (.ok h.patrolStep) (.ok h)

theorem Upholds.execPatrolTestDone (h : Upholds s₀ s) {defects} : OutUpholds s₀ (execPatrolTestDone defects s) :=
  .ite (.ok h) (.ite (.ok h.patrolStep) (.ite (.ok h.patrolStep.beside.detect) (.ok h.patrolStep.beside.detect)))

theorem Upholds.endPass (h : Upholds s₀ s) {result} : Upholds s₀ (endPass s result) := h.setPatrol.detect

theorem Upholds.releaseRegion (h : Upholds s₀ s) {pause} : Upholds s₀ (releaseRegion s pause) := by
  unfold Machine.releaseRegion
  extract_lets p b old u v
  have hu : Upholds s₀ u := .ite h h.markBank
  have hv : Upholds s₀ v := hu.setPatrol
  exact .ite hv.endPass (.ite hv.endPass hv)

theorem Upholds.execPatrolRelease (h : Upholds s₀ s) : OutUpholds s₀ (execPatrolRelease s) := .ite (.ok h) (.ok h.releaseRegion)

theorem Upholds.execRestartPass (h : Upholds s₀ s) {r} : OutUpholds s₀ (execRestartPass r s) :=
  .ok (h.writeCmd fun _ h => .ok (.ite h.setPatrol h.endPass))

theorem Upholds.execPatrolAbort (h : Upholds s₀ s) {r} : OutUpholds s₀ (execPatrolAbort r s) :=
  .ok (h.writeCmd fun _ h => .ite .error (.ok (.ite h.setPatrol h.endPass)))

theorem Upholds.execPatrolEnable (h : Upholds s₀ s) {r v} : OutUpholds s₀ (execPatrolEnable r v s) :=
  .ok (h.writeCmd fun _ h => .ok h.beside.bumpEpoch.setPatrol)

end Sys2Proof.Machine
end

section
/-! Ports, bridges and clocks uphold. -/
namespace Sys2Proof.Machine

variable {s₀ s t : State}

theorem Upholds.execPortEnable (h : Upholds s₀ s) {r port v} : OutUpholds s₀ (execPortEnable r port v s) :=
  .ok (h.writeCmd fun _ h => .ite (.ok h.bumpEpoch) (.ite (.ite .error (.ok h.setPort.setPortCfg.bumpEpoch))
    (.ite .error (.ok h.schedDrop.unlockPort.setPort.bufferOff.setPortCfg.bumpEpoch))))

theorem Upholds.portFails (h : Upholds s₀ s) {p st} : Upholds s₀ (portFails s p st) := h.setPort.unlockPort

theorem Upholds.aesUnlock (h : Upholds s₀ s) {p} : Upholds s₀ (aesUnlock s p) := h.setPort

theorem Upholds.clockLost (h : Upholds s₀ s) {p criterion inj} : Upholds s₀ (clockLost s p criterion inj) := by
  unfold Machine.clockLost
  dsimp only
  split
  · exact .ite h.aesUnlock h
  · exact (Upholds.ite h.aesUnlock h).portCount.portFails.detectAs.bufferOff
  · exact (Upholds.ite h.aesUnlock h).setPort

theorem Upholds.execPortClockLost (h : Upholds s₀ s) {port criterion} : OutUpholds s₀ (execPortClockLost port criterion s) :=
  .ite (.ok ((Upholds.ite h.aesUnlock.followPort h).clockLost)) (.ok (.ite h.aesUnlock.followPort h))

theorem Upholds.aesErrors (h : Upholds s₀ s) {p parity coding} : Upholds s₀ (aesErrors s p parity coding) :=
  h.foldl fun u i h => by
    extract_lets bad code v w
    have hv : Upholds s₀ v := .ite h.portCount h
    have hw : Upholds s₀ w := .ite hv.portCount hv
    exact .ite hw.detect hw

theorem Upholds.aesSees (h : Upholds s₀ s) {p f} : Upholds s₀ (aesSees s p f) :=
  .ite ((Upholds.ite h.setPort.aesUnlock.clockLost h.setPort.aesUnlock).followPort) h.setPort

theorem Upholds.acceptFrame (h : Upholds s₀ s) {p f} : Upholds s₀ (acceptFrame s p f) :=
  .ite h.setPort (.ite h.setPort.overrun h.setPort.setPort)

theorem Upholds.feedSides (h : Upholds s₀ s) {p e ys} : Upholds s₀ (feedSides s p e ys) := h.foldl fun _ _ h => .ite h.setBridge.noteFill h

theorem Upholds.acceptForeign (h : Upholds s₀ s) {p f} : Upholds s₀ (acceptForeign s p f) := h.setPort.feedSides

theorem Upholds.frameArrives (h : Upholds s₀ s) {p f} : Upholds s₀ (frameArrives s p f) := by
  unfold Machine.frameArrives
  extract_lets q good foreign u v q' window w
  have hu : Upholds s₀ u := h.setPort
  have hv : Upholds s₀ v := .ite hu.estimate.followPort hu
  have hw : Upholds s₀ w := hv.setPort
  split
  · exact hv
  · exact .ite hv hv.setPort
  · exact .ite hv hv.setPort
  · exact .ite hv hv.setPort
  · exact .ite (.ite hw (.ite hw.acceptForeign hw.acceptFrame)) (.ite hw.clockLost (.detect (.ite hw.portCount hw)))

theorem Upholds.execPortInboundFrame (h : Upholds s₀ s) {port f} : OutUpholds s₀ (execPortInboundFrame port f s) := by
  unfold Machine.execPortInboundFrame
  extract_lets p seen checked timed
  have hseen : Upholds s₀ seen := .ite h.aesSees h
  have hchecked : Upholds s₀ checked := .ite hseen.aesErrors hseen
  have htimed : Upholds s₀ timed := .ite hchecked.estimate.followPort hchecked
  exact .ite (.ok h) (.ok (.ite htimed.frameArrives htimed))

theorem Upholds.classOut (h : Upholds s₀ s) {p e} : Upholds s₀ (classOut s p e).1 := by
  unfold Machine.classOut
  dsimp only
  rw [apply_ite Prod.fst]
  refine .ite h.overrun ?_
  split
  · exact h
  · split
    · exact .ite h.outStamps.setPort.portCount.detect.bufferOff h.outStamps.setPort
    · exact h.outStamps.setPort

theorem Upholds.foreignChan (h : Upholds s₀ s) {p e ramp ch} : Upholds s₀ (foreignChan s p e ramp ch).1 := by
  unfold Machine.foreignChan
  dsimp only
  split
  · exact h.setPort
  · exact h.setBridge.setPort

theorem Upholds.foreignOut (h : Upholds s₀ s) {p e} : Upholds s₀ (foreignOut s p e).1 := by
  unfold Machine.foreignOut
  dsimp only
  refine Upholds.foldl (.setPort (Upholds.gather ?_ ?_)) fun _ _ h => .ite h.setBridge.noteFill h
  · exact fun _ _ h => h.foreignChan
  · exact h

theorem Upholds.timeOwnFrames (h : Upholds s₀ s) {p e} : Upholds s₀ (timeOwnFrames s p e) := by
  unfold Machine.timeOwnFrames
  dsimp only
  refine .ite (.setPort ?_) h
  split
  · exact .ite h.estimate.followPort h
  · exact h

theorem Upholds.drive (h : Upholds s₀ s) {p w v} : Upholds s₀ (drive s p w v) := .ite h.setPort h.setPort

theorem Upholds.execPortOutboundFrame (h : Upholds s₀ s) {port edge} : OutUpholds s₀ (execPortOutboundFrame port edge s) := by
  unfold Machine.execPortOutboundFrame
  dsimp only
  have ht : Upholds s₀ (if (portCfg s port.val).enable && decide ((portCfg s port.val).rate = 4) then Machine.timeOwnFrames s port.val edge
    else s) :=
    .ite h.timeOwnFrames h
  refine .ite (.ok h.setPort) (.ite (.ok h.drive) (.ite (.ok ht.drive) (.ok (.drive (.setPort ?_)))))
  split
  · exact ht.foreignOut
  · exact ht.classOut

theorem Upholds.execPortQualified (h : Upholds s₀ s) {port} : OutUpholds s₀ (execPortQualified port s) := .ite (.ok h.setPort) (.ok h)

theorem Upholds.execGroupAlignTimeout (h : Upholds s₀ s) {g} : OutUpholds s₀ (execGroupAlignTimeout g s) :=
  .ite (.ok (h.foldl fun _ _ h => .ite h.setPort h)) (.ok h)

theorem Upholds.enterRun (h : Upholds s₀ s) {p din dout} : Upholds s₀ (enterRun s p din dout) :=
  (Upholds.ite h.setPort.detect h.setPort).followPort

theorem Upholds.alignFaults (h : Upholds s₀ s) {p inj} : Upholds s₀ (alignFaults s p inj) := h.portCount.portFails.detectAs.bufferOff

theorem Upholds.rejoinFaulted (h : Upholds s₀ s) {g} : Upholds s₀ (rejoinFaulted s g) := h.foldl fun _ _ h => .ite h.setPort h

theorem Upholds.execPortAlign (h : Upholds s₀ s) {port _edgeIn _edgeOut _fill _spread} :
    OutUpholds s₀ (execPortAlign port _edgeIn _edgeOut _fill _spread s) :=
  .ite (.ok h) (.ite (.ok h.enterRun) (.ite (.ok (.ite h.enterRun.rejoinFaulted h.enterRun)) (.ok h.alignFaults)))

theorem Upholds.execAlignRecheck (h : Upholds s₀ s) {port _ok} : OutUpholds s₀ (execAlignRecheck port _ok s) := by
  unfold Machine.execAlignRecheck
  dsimp only
  refine .ite (.ok h) ?_
  split
  · exact .ite (.ok h.setPort) (.ite (.ok h.enterRun) (.ok h.setPort))
  · exact .ok h.setPort

theorem Upholds.execAesRxLock (h : Upholds s₀ s) {port} : OutUpholds s₀ (execAesRxLock port s) := .ite (.ok h) (.ok h.setPort)

theorem Upholds.execAesBlockCapture (h : Upholds s₀ s) {port csA csB uA uB vSeen} :
    OutUpholds s₀ (execAesBlockCapture port csA csB uA uB vSeen s) :=
  .ite (.ok h) (.ok ((Upholds.ite ((Upholds.ite h.portCount.detect h).portCount.detect) (.ite h.portCount.detect h)).setPort))

theorem Upholds.execAesTxUpdate (h : Upholds s₀ s) {port} : OutUpholds s₀ (execAesTxUpdate port s) := .ite (.ok h) (.ok h.setPort)

theorem Upholds.execCaptureBindingApply (h : Upholds s₀ s) {port} : OutUpholds s₀ (execCaptureBindingApply port s) := .ok h.setPort

theorem Upholds.execRbEnable (h : Upholds s₀ s) {r b v} : OutUpholds s₀ (execRbEnable r b v s) :=
  .ok (h.writeCmd fun _ h => .ite (.ite .error (.ite .error (.ite (.ok h.bumpEpoch) (.ok h.setBridge.setRbCfg.bumpEpoch))))
    (.ite (.ok h.bumpEpoch) (.ite .error (.ok h.setBridge.setRbCfg.bumpEpoch))))

theorem Upholds.lockSide (h : Upholds s₀ s) {x} : Upholds s₀ (lockSide s x) := .ite h h.draw.setSide.detect

theorem Upholds.execBridgeLocked (h : Upholds s₀ s) {b egress _ratio portMhz} :
    OutUpholds s₀ (execBridgeLocked b egress _ratio portMhz s) :=
  .ite (.ok h) (.ok (h.setPort.foldl fun _ _ h => h.lockSide))

theorem Upholds.slip (h : Upholds s₀ s) {b egress inj} : Upholds s₀ (slip s b egress inj) := .ite h.setSide (.ite h h.setSide.detectAs)

theorem Upholds.execBridgeSlip (h : Upholds s₀ s) {b egress} : OutUpholds s₀ (execBridgeSlip b egress s) := .ok h.slip

theorem Upholds.execBridgeUnlock (h : Upholds s₀ s) {b egress portLost} : OutUpholds s₀ (execBridgeUnlock b egress portLost s) :=
  .ok h.unlockSide

theorem Upholds.qualifiedEdge (h : Upholds s₀ s) {i line glitch far} : Upholds s₀ (qualifiedEdge s i line glitch far) :=
  .ite h.disqualify (.ite h.disqualify h.setRefMon)

theorem Upholds.requalify (h : Upholds s₀ s) {i line conforms} : Upholds s₀ (requalify s i line conforms) :=
  .ite (.ite h h.setRefMon) (.ite h.setRefMon (.ite h.setRefMon h))

theorem Upholds.edgeSeen (h : Upholds s₀ s) {i line freqDev subPs} : Upholds s₀ (edgeSeen s i line freqDev subPs) := by
  unfold Machine.edgeSeen
  dsimp only
  split
  · exact h.setRefMon.setRefMon
  · exact h.setRefMon

theorem Upholds.steered (h : Upholds s₀ s) {i line far} : Upholds s₀ (steered s i line far) := h.beside

theorem Upholds.anchorAt (h : Upholds s₀ s) {i} : Upholds s₀ (anchorAt s i) := by
  unfold Machine.anchorAt
  dsimp only
  refine .ite ?_ h
  split
  · exact .ite h.setClocks.setClocks h.setClocks
  · exact h.setClocks

theorem Upholds.execRefEdge (h : Upholds s₀ s) {entry posDev freqDev edge} : OutUpholds s₀ (execRefEdge entry posDev freqDev edge s) := by
  unfold Machine.execRefEdge
  extract_lets i line glitch far judged seen steered
  have hjudged : Upholds s₀ judged := .ite h.qualifiedEdge h.requalify
  have hsteered : Upholds s₀ steered := .ite hjudged.edgeSeen.steered hjudged.edgeSeen
  exact .ite (.ok h) (.ite (.ok hjudged) (.ok (.ite hsteered hsteered.anchorAt)))

theorem Upholds.execRefStopped (h : Upholds s₀ s) {entry} : OutUpholds s₀ (execRefStopped entry s) := .ok h.refStop

theorem Upholds.execRefQualified (h : Upholds s₀ s) {entry} : OutUpholds s₀ (execRefQualified entry s) :=
  .ite (.ok h.setRefMon.steer) (.ok h)

theorem Upholds.execMcpllLocked (h : Upholds s₀ s) : OutUpholds s₀ (execMcpllLocked s) := .ite (.ok h.setClocks) (.ok h)

theorem Upholds.mcpllOut (h : Upholds s₀ s) {ppb inj} : Upholds s₀ (mcpllOut s ppb inj) := .ite h.reacquireRef.detectAs h

theorem Upholds.execMcpllUnlock (h : Upholds s₀ s) {ppb} : OutUpholds s₀ (execMcpllUnlock ppb s) := .ite (.ok h.mcpllOut) (.ok h)

theorem Upholds.todError (h : Upholds s₀ s) {inj} : Upholds s₀ (todError s inj) := h.setClocks.detectAs

theorem Upholds.execTodMessage (h : Upholds s₀ s) {line sincePpsMs untilPpsMs} :
    OutUpholds s₀ (execTodMessage line sincePpsMs untilPpsMs s) := by
  unfold Machine.execTodMessage
  dsimp only
  split
  · exact .ok h.todError
  · exact .ite (.ok h.todError) (.ite (.ok h.todError) (.ok h.setClocks))

theorem Upholds.execSyncIn (h : Upholds s₀ s) {mclk} : OutUpholds s₀ (execSyncIn mclk s) :=
  .ite (.ok h) (.ite (.ok h.beside) (.ok h.setClocks))

theorem Upholds.reacquire (h : Upholds s₀ s) : Upholds s₀ (reacquire s) := h.closeGate.setClocks

theorem Upholds.ecpllLost (h : Upholds s₀ s) {inj} : Upholds s₀ (ecpllLost s inj) := .ite h.reacquire.detectAs h

theorem Upholds.execEcpllLoss (h : Upholds s₀ s) : OutUpholds s₀ (execEcpllLoss s) := .ok h.ecpllLost

theorem Upholds.eclkTripped (h : Upholds s₀ s) {absolute inj} : Upholds s₀ (eclkTripped s absolute inj) :=
  .ite h.reacquire.setClocks.detectAs h

theorem Upholds.execEclkTrip (h : Upholds s₀ s) {absolute} : OutUpholds s₀ (execEclkTrip absolute s) := .ok h.eclkTripped

theorem Upholds.ecpllFallsBack (h : Upholds s₀ s) {inj} : Upholds s₀ (ecpllFallsBack s inj) := .ite h.setClocks.detectAs h

theorem Upholds.execEcpllFallback (h : Upholds s₀ s) : OutUpholds s₀ (execEcpllFallback s) := .ok h.ecpllFallsBack

theorem Upholds.storeBand (h : Upholds s₀ s) {f band temp} : Upholds s₀ (storeBand s f band temp) := h.setClocks

theorem Upholds.execEcpllLock (h : Upholds s₀ s) : OutUpholds s₀ (execEcpllLock s) := by
  unfold Machine.execEcpllLock
  dsimp only
  split
  · exact .ok h.draw.setClocks
  · exact .ok h.draw.draw.storeBand.setClocks
  · exact .ok h

theorem Upholds.followSides (h : Upholds s₀ s) : Upholds s₀ (followSides s) := h.foldl fun _ _ h => h.followSide.followSide

theorem Upholds.execEclkRestored (h : Upholds s₀ s) : OutUpholds s₀ (execEclkRestored s) :=
  .ite (.ok ((h.foldl fun _ _ h => h.portStamps).setClocks.eachBridge.followSides)) (.ok h)

theorem Upholds.execEcpllCeilingRecal (h : Upholds s₀ s) {word} : OutUpholds s₀ (execEcpllCeilingRecal word s) := .ok h.setClocks

theorem Upholds.execEcpllBandStore (h : Upholds s₀ s) {band temp} : OutUpholds s₀ (execEcpllBandStore band temp s) :=
  .ite (.ok h.storeBand) (.ok h)

theorem Upholds.execResearch (h : Upholds s₀ s) {r b32 b44 b48 temp} : OutUpholds s₀ (execResearch r b32 b44 b48 temp s) :=
  .ok (h.writeCmd fun _ h => .ok h.storeBand.storeBand.storeBand.draw.closeGate.setClocks)

theorem Upholds.execEclkGapSubstitute (h : Upholds s₀ s) {ep} : OutUpholds s₀ (execEclkGapSubstitute ep s) := by
  unfold Machine.execEclkGapSubstitute
  dsimp only
  refine .ite (.ok h) ?_
  split
  · exact .ok h.setBridge
  · exact .ok h.setLink
  · exact .ok h.setPort
  · exact .ok h.setPort
  · exact .ok h

theorem Upholds.execXoLost (h : Upholds s₀ s) : OutUpholds s₀ (execXoLost s) :=
  .ite (.ok h) (.ok h.enterFault.setClocks.detect.allPathsDown)

theorem Upholds.scpllLost (h : Upholds s₀ s) {inj} : Upholds s₀ (scpllLost s inj) := .ite h.setClocks.beginRestart.detectAs.writeCut h

theorem Upholds.execScpllUnlock (h : Upholds s₀ s) : OutUpholds s₀ (execScpllUnlock s) := .ok h.scpllLost

theorem Upholds.execLkpllUnlock (h : Upholds s₀ s) : OutUpholds s₀ (execLkpllUnlock s) := .ite (.ok h.setClocks.detect.allPathsDown) (.ok h)

theorem Upholds.execScpllRelock (h : Upholds s₀ s) : OutUpholds s₀ (execScpllRelock s) := .ite (.ok h) (.ok h.setClocks)

theorem Upholds.execScpllRelockTimeout (h : Upholds s₀ s) : OutUpholds s₀ (execScpllRelockTimeout s) := .ite (.ok h.enterFault) (.ok h)

theorem Upholds.execLkpllRelock (h : Upholds s₀ s) : OutUpholds s₀ (execLkpllRelock s) := .ite (.ok h) (.ok h.setClocks)

end Sys2Proof.Machine
end

section
/-! Sequencing words, images and the commands to engines, pages and grafts uphold. -/
namespace Sys2Proof.Machine

variable {s₀ s t : State}

theorem Upholds.freeRestart (h : Upholds s₀ s) {n t} : Upholds s₀ (freeRestart s n t) :=
  h.modEng fun _ he => (he.setCtx he.ctx.beside).beside

theorem Upholds.endRun (h : Upholds s₀ s) {n} : Upholds s₀ (endRun s n) := by
  unfold Machine.endRun
  exact .ite h.landUpTo.switchRun (.ite h.landUpTo.freeRestart.afterStep
    (.stepOver (h.landUpTo.modEng fun _ he => (he.setCtx he.ctx.beside).beside)))

theorem Upholds.idleEnd (h : Upholds s₀ s) {n} : Upholds s₀ (idleEnd s n) := .ite (h.advance.modCtx fun _ hc => hc.beside) h.advance

theorem Upholds.execEndFrame (h : Upholds s₀ s) {w} : OutUpholds s₀ (execEndFrame w s) :=
  .ok (h.issueWith (fun _ _ h => h.idleEnd) fun _ _ _ h => .ok h.endRun)

theorem Upholds.execHalt (h : Upholds s₀ s) {w} : OutUpholds s₀ (execHalt w s) :=
  .ok (h.issueWith (fun _ _ h => h.advance) fun _ _ _ h => .ite (.ok h.haltAt) .error)

theorem Upholds.latchRepeat (h : Upholds s₀ s) {n k} : Upholds s₀ (latchRepeat s n k) := by
  unfold Machine.latchRepeat
  exact .ite (.afterStep (h.landUpTo.modCtx fun _ hc => hc.pastWord.beside)) (h.landUpTo.modCtx fun _ hc => hc.beside)

theorem Upholds.execRpt (h : Upholds s₀ s) {w n} : OutUpholds s₀ (execRpt w n s) :=
  .ok (h.issueWith (fun _ _ h => h.advance) fun _ _ _ h => .ite .error (.ok h.latchRepeat))

theorem Upholds.execRptx (h : Upholds s₀ s) {w d} : OutUpholds s₀ (execRptx w d s) :=
  .ok (h.issueWith (fun _ _ h => h.advance) fun _ _ _ h => .ite .error (.ok h.latchRepeat))

theorem Upholds.execBlk (h : Upholds s₀ s) {w field len} : OutUpholds s₀ (execBlk w field len s) :=
  .ok (h.issueWith (fun _ _ h => h.advance) fun _ _ _ h => .ite .error (.ok (h.commit.modCtx fun _ hc => hc.beside)))

theorem Upholds.holdImm (h : Upholds s₀ s) {ext n} : Upholds s₀ (holdImm ext s n) := by
  unfold Machine.holdImm
  exact h.landUpTo.modCtx fun _ hc => hc.pastWord.beside

theorem Upholds.execImmExt (h : Upholds s₀ s) {w ext} : OutUpholds s₀ (execImmExt w ext s) :=
  .ok (h.issueWith (fun _ _ h => h.holdImm) fun _ _ _ h => .ok h.holdImm)

theorem Upholds.awaitSlot (h : Upholds s₀ s) {n x} : Upholds s₀ (awaitSlot s n x) := by
  unfold Machine.awaitSlot
  exact .afterStep (h.landUpTo.modCtx fun _ hc => hc.pastWord.beside)

theorem Upholds.idleXfer (h : Upholds s₀ s) {w n} : Upholds s₀ (idleXfer w s n) := h.awaitSlot

theorem Upholds.execCall (h : Upholds s₀ s) {w addr} : OutUpholds s₀ (execCall w addr s) :=
  .ok (h.issueWith (fun _ _ h => h.idleXfer) fun _ _ _ h => .ok h.commit.awaitSlot)

theorem Upholds.execRet (h : Upholds s₀ s) {w} : OutUpholds s₀ (execRet w s) :=
  .ok (h.issueWith (fun _ _ h => h.idleXfer) fun _ _ _ h => .ok h.awaitSlot)

theorem Upholds.execCallm (h : Upholds s₀ s) {w addr mask} : OutUpholds s₀ (execCallm w addr mask s) := by
  unfold Machine.execCallm
  dsimp only
  refine .ok (h.issueWith (fun _ _ h => h.idleXfer) fun s n x h => .ite .error ?_)
  split
  · exact .error
  · exact .ok h.commit.awaitSlot

theorem Upholds.execRetm (h : Upholds s₀ s) {w mask} : OutUpholds s₀ (execRetm w mask s) := by
  unfold Machine.execRetm
  dsimp only
  refine .ok (h.issueWith (fun _ _ h => h.idleXfer) fun s n x h => .ite .error ?_)
  split
  · exact .error
  · split
    · exact .error
    · exact .ok h.commit.awaitSlot

theorem Upholds.execBr (h : Upholds s₀ s) {w addr} : OutUpholds s₀ (execBr w addr s) :=
  .ok (h.issueWith (fun _ _ h => h.idleXfer) fun _ _ _ h => .ite (.ok h.awaitSlot) .error)

theorem Upholds.execBrc (h : Upholds s₀ s) {w cc d addr} : OutUpholds s₀ (execBrc w cc d addr s) :=
  .ok (h.issueWith (fun _ _ h => h.idleXfer) fun _ _ _ h => .ite .error (.ok h.awaitSlot))

theorem Upholds.engCmd (h : Upholds s₀ s) {r n body} (hb : ∀ v, Upholds s₀ v → OkUpholds s₀ (body v)) : OutUpholds s₀ (engCmd s r n body) :=
  .ok (h.writeCmd hb)

theorem Upholds.execEnterSapling (h : Upholds s₀ s) {r e} : OutUpholds s₀ (execEnterSapling r e s) :=
  h.engCmd fun _ h => .ite .error (.ok (h.modEng fun _ he => he.beside))

theorem Upholds.startRun (h : Upholds s₀ s) {n} : Upholds s₀ (startRun s n) := by
  unfold Machine.startRun
  exact .modEng (.startImage (h.modEng fun _ he => he.beside)) fun _ he => he.beside

theorem Upholds.execStart (h : Upholds s₀ s) {r e} : OutUpholds s₀ (execStart r e s) := h.engCmd fun _ h => .ite .error (.ok h.startRun)

theorem Upholds.execExitSapling (h : Upholds s₀ s) {r e} : OutUpholds s₀ (execExitSapling r e s) := by
  unfold Machine.execExitSapling
  refine h.engCmd fun s h => .ite .error (.ok (h.modEng fun g hg => ?_))
  exact (hg.setActive (b := {}) .nil).setCtx (c := { g.ctx with inflight := [] }) hg.ctx

theorem Upholds.execRelease (h : Upholds s₀ s) {r e} : OutUpholds s₀ (execRelease r e s) :=
  h.engCmd fun _ h => .ite .error (.ok (h.modEng fun _ he => he.beside))

theorem Upholds.execHsr (h : Upholds s₀ s) {r e} : OutUpholds s₀ (execHsr r e s) := h.engCmd fun _ h => .ok (h.modEng fun _ he => he.beside)

theorem Upholds.loadFails (h : Upholds s₀ s) {n c} : Upholds s₀ (loadFails s n c) := by
  unfold Machine.loadFails
  exact .detect (h.modEng fun _ he => he.beside)

/-- An image that a check passes, with the data of its segments written word by word from an empty memory. -/
def DataOk (s₀ : State) {ε : Type} (x : Except ε ProgBank) : Prop := ∀ b, x = .ok b → MemOk s₀ b.data

section
variable {ε : Type}

theorem DataOk.error {c : ε} : DataOk s₀ (.error c : Except ε ProgBank) := fun _ e => by cases e

theorem DataOk.ok {b : ProgBank} (hb : MemOk s₀ b.data) : DataOk s₀ (.ok b : Except ε ProgBank) := fun _ e => Except.ok.inj e ▸ hb

theorem DataOk.ite {p : Prop} [Decidable p] {x y : Except ε ProgBank} (hx : DataOk s₀ x) (hy : DataOk s₀ y) :
    DataOk s₀ (if p then x else y) := by
  split <;> assumption

end

theorem checkImage_data {u : State} {e img code segs pages map dds} : DataOk s₀ (checkImage u e img code segs pages map dds) := by
  have hb : MemOk s₀ (bankOf img code segs pages map dds).data := MemOk.nil.foldl fun _ _ hm => hm.tsetRun
  unfold checkImage
  dsimp only
  refine .ite .error (.ite .error ?_)
  split
  · exact .error
  · exact .ite .error (.ite .error (.ite .error (.ite .error (.ite .error (.ite .error (.ite .error (.ite .error (.ok hb))))))))

theorem loadImage_data {u : State} {e img} : DataOk s₀ (loadImage u e img) := by
  unfold loadImage
  split
  · exact .error
  · exact .ite .error checkImage_data

theorem Upholds.beginLoad (h : Upholds s₀ s) {e image} : Upholds s₀ (beginLoad s e image) := by
  unfold Machine.beginLoad
  dsimp only
  split
  · exact h.loadFails
  · next b hb => exact h.modEng fun _ he => he.setLoading fun _ hx => Option.some.inj hx ▸ loadImage_data b hb

theorem Upholds.noteRefusal (h : Upholds s₀ s) {r n passes} : Upholds s₀ (noteRefusal s r n passes) := by
  unfold Machine.noteRefusal
  split
  · exact .ite h.loadFails h
  · exact h

theorem Upholds.closeImage (h : Upholds s₀ s) {e image} : OkUpholds s₀ (closeImage s e image) := by
  unfold Machine.closeImage
  split
  · exact .error
  · exact .ok h.beginLoad

theorem Upholds.execImageLoad (h : Upholds s₀ s) {r e image} : OutUpholds s₀ (execImageLoad r e image s) :=
  .ok (h.noteRefusal.closeCmd fun _ h => h.closeImage)

theorem Upholds.dropProgMarks (h : Upholds s₀ s) {n standby} : Upholds s₀ (dropProgMarks s n standby) := by
  unfold Machine.dropProgMarks
  exact h.dropMarks

theorem Upholds.execLoadComplete (h : Upholds s₀ s) {e} : OutUpholds s₀ (execLoadComplete e s) := by
  unfold Machine.execLoadComplete
  dsimp only
  split
  · exact .ok h
  · next b hb =>
    have hd := h.eng.loading hb
    have hs := h.modEng (n := e.val) (f := fun g => { g with loading := none }) fun _ he => he.setLoading fun _ hx => by simp at hx
    exact .ite (.ok (hs.dropProgMarks.modEng fun _ he => he.setStandby hd))
      (.ite (.ok (hs.dropProgMarks.modEng fun _ he => he.setActive hd)) (.ok hs.loadFails))

theorem Upholds.execClearStandby (h : Upholds s₀ s) {r e v} : OutUpholds s₀ (execClearStandby r e v s) :=
  .ok (h.writeCmd fun _ h => .ite (.ok h) (.ite .error (.ite .error (.ok (h.modEng fun _ he => he.setStandby .nil)))))

theorem Upholds.execOvfClear (h : Upholds s₀ s) {r e v} : OutUpholds s₀ (execOvfClear r e v s) :=
  .ok (h.writeCmd fun _ h => .ok (.ite (h.modEng fun _ he => he.beside) h))

theorem Upholds.shadowWrite (h : Upholds s₀ s) {e p first vs} : Upholds s₀ (shadowWrite s e p first vs) := by
  unfold Machine.shadowWrite
  exact h.clearPage.modPage fun q hq => hq.setOther (m := tsetRun 0 (otherCopy q) first vs) hq.otherCopy.tsetRun

theorem Upholds.execPageWrite (h : Upholds s₀ s) {r e p first values} : OutUpholds s₀ (execPageWrite r e p first values s) := by
  unfold Machine.execPageWrite
  refine .ok (h.runRequest fun s h => ?_)
  split
  · exact .error
  · exact .ok h.shadowWrite

theorem Upholds.execPageLevel (h : Upholds s₀ s) {r e p v} : OutUpholds s₀ (execPageLevel r e p v s) := by
  unfold Machine.execPageLevel
  dsimp only
  refine .ok (h.writeCmd fun s h => .ite (.ok h) ?_)
  split
  · exact .ok h
  · exact .ok (h.modPage fun _ hq => hq.beside)
  · exact .error

theorem Upholds.execLevellingComplete (h : Upholds s₀ s) {e p} : OutUpholds s₀ (execLevellingComplete e p s) :=
  .ite (.ok (h.clearPage.modPage fun _ hq => hq.levelled)) (.ok h)

theorem Upholds.afterGlide (h : Upholds s₀ s) {e p rev} : Upholds s₀ (afterGlide s e p rev) := by
  have hs := h.modPage (n := e) (p := p) (f := fun q =>
    if rev then { q with view1 := !q.view1, state := .dirty, dirty := true, group := 0, abort := none }
    else { q with state := .levelling, abort := none }) fun _ hq => .ite hq hq
  unfold Machine.afterGlide
  dsimp only
  split
  · exact hs.bindOn
  · exact hs.modPage fun _ hq => hq.beside

theorem Upholds.glideAbort (h : Upholds s₀ s) {r e p rev} : OutUpholds s₀ (glideAbort s r e p rev) :=
  .ok (h.writeCmd fun _ h => .ite .error (.ite .error (.ok (h.modPage fun _ hq => hq.beside))))

theorem Upholds.execGlideAbortFinish (h : Upholds s₀ s) {r e p} : OutUpholds s₀ (execGlideAbortFinish r e p s) := h.glideAbort

theorem Upholds.execGlideAbortRevert (h : Upholds s₀ s) {r e p} : OutUpholds s₀ (execGlideAbortRevert r e p s) := h.glideAbort

theorem Upholds.execGlideAbortEffect (h : Upholds s₀ s) {e p} : OutUpholds s₀ (execGlideAbortEffect e p s) := by
  unfold Machine.execGlideAbortEffect
  dsimp only
  split
  · exact .ite (.ok h) (.ok h.afterGlide)
  · exact .ok h

theorem Upholds.execGlideComplete (h : Upholds s₀ s) {e p} : OutUpholds s₀ (execGlideComplete e p s) := .ite (.ok h.afterGlide) (.ok h)

theorem Upholds.graftCmd (h : Upholds s₀ s) {r range body} (hb : ∀ v, Upholds s₀ v → OkUpholds s₀ (body v)) :
    OutUpholds s₀ (graftCmd s r range body) := .ok (h.writeCmd hb)

theorem Upholds.execGraftArm (h : Upholds s₀ s) {r engine curve group fade target} :
    OutUpholds s₀ (execGraftArm r engine curve group fade target s) :=
  h.graftCmd fun u h => by
    extract_lets e lone bound armed
    have hbound : Upholds s₀ bound := .ite h (h.foldl fun _ _ h => h.bindOn)
    have harmed : Upholds s₀ armed := hbound.modEng fun _ he => he.beside
    exact .ite .error (.ite .error (.ite .error (.ite .error (.ite .error (.ite .error (.ok (.ite harmed.schedAdd harmed.setGroup)))))))

theorem Upholds.execGraftCancel (h : Upholds s₀ s) {r engine curve _group _fade target} :
    OutUpholds s₀ (execGraftCancel r engine curve _group _fade target s) := by
  unfold Machine.execGraftCancel
  dsimp only
  refine h.graftCmd fun s h => ?_
  split
  · exact .error
  · exact .ite .error (.ite .error (.ok h.schedDrop.cancelGraft))

theorem Upholds.graftAbort (h : Upholds s₀ s) {r engine curve target rev} : OutUpholds s₀ (graftAbort s r engine curve target rev) := by
  unfold Machine.graftAbort
  dsimp only
  refine h.graftCmd fun s h => ?_
  split
  · exact .error
  · exact .ite .error (.ite .error (.ok (h.modEng fun _ he => he.beside)))

theorem Upholds.execAbortFinish (h : Upholds s₀ s) {r engine curve _group _fade target} :
    OutUpholds s₀ (execAbortFinish r engine curve _group _fade target s) :=
  h.graftAbort

theorem Upholds.execAbortRevert (h : Upholds s₀ s) {r engine curve _group _fade target} :
    OutUpholds s₀ (execAbortRevert r engine curve _group _fade target s) :=
  h.graftAbort

theorem Upholds.execGraftAbortEffect (h : Upholds s₀ s) {e} : OutUpholds s₀ (execGraftAbortEffect e s) := by
  unfold Machine.execGraftAbortEffect
  split
  · split
    · exact .ite (.ok h.endFade) (.ok h)
    · exact .ok h
  · exact .ok h

theorem Upholds.execFadeComplete (h : Upholds s₀ s) {e} : OutUpholds s₀ (execFadeComplete e s) := by
  unfold Machine.execFadeComplete
  split
  · exact .ite (.ok h.endFade) (.ok h)
  · exact .ok h

end Sys2Proof.Machine
end

section
/-! Links, claims, groups and port actions uphold. -/
namespace Sys2Proof.Machine

variable {s₀ s t : State}

theorem Upholds.mgmtDrop (h : Upholds s₀ s) {l} : Upholds s₀ (mgmtDrop s l) := h.setLink.detect

theorem Upholds.putCell (h : Upholds s₀ s) {l prio c} : Upholds s₀ (putCell s l prio c) :=
  .ite h.setLink (.ite h.setLink.mgmtDrop (.ite h.setLink.mgmtDrop h.mgmtDrop))

theorem Upholds.remember (h : Upholds s₀ s) {c} : Upholds s₀ (remember s c) := h.beside

theorem Upholds.forward (h : Upholds s₀ s) {c own arrivedOn} : Upholds s₀ (forward s c own arrivedOn) := by
  unfold Machine.forward
  dsimp only
  refine .ite (h.foldl fun _ _ h => .ite h.putCell h) ?_
  split
  · exact h
  · exact h.putCell

theorem Upholds.originate (h : Upholds s₀ s) {kind bcast dest payload} : Upholds s₀ (originate s kind bcast dest payload) :=
  (Upholds.ite h.beside.remember h.beside).forward

theorem Upholds.sendMessage (h : Upholds s₀ s) {dest m} : Upholds s₀ (sendMessage s dest m) := h.beside.foldl fun _ _ h => h.forward

theorem Upholds.reportOut (h : Upholds s₀ s) : Upholds s₀ (reportOut s) := .ite h.beside.sendMessage h

theorem Upholds.dwellOut (h : Upholds s₀ s) : Upholds s₀ (dwellOut s) := by
  unfold Machine.dwellOut
  dsimp only
  split
  · exact .ite h.beside.originate h
  · exact h

theorem Upholds.groveOut (h : Upholds s₀ s) : Upholds s₀ (groveOut s) := h.reportOut.dwellOut.beside.foldl fun _ _ h => h.sendMessage

theorem Upholds.pathStep (h : Upholds s₀ s) {l b from' to'} : Upholds s₀ (pathStep s l b from' to') := .ite h.setPath h

theorem Upholds.execCdrLock (h : Upholds s₀ s) {l pathB} : OutUpholds s₀ (execCdrLock l pathB s) := .ite (.ok h.setPath) (.ok h)

theorem Upholds.execBlockLock (h : Upholds s₀ s) {l pathB} : OutUpholds s₀ (execBlockLock l pathB s) := .ok h.pathStep

theorem Upholds.execAdaptDone (h : Upholds s₀ s) {l pathB eq} : OutUpholds s₀ (execAdaptDone l pathB eq s) := .ite (.ok h.setPath) (.ok h)

theorem Upholds.execFrameLock (h : Upholds s₀ s) {l pathB} : OutUpholds s₀ (execFrameLock l pathB s) := .ok h.pathStep

theorem Upholds.pathIsUp (h : Upholds s₀ s) {l b} : Upholds s₀ (pathIsUp s l b) := by
  unfold Machine.pathIsUp
  dsimp only
  refine .ite (.pathOut (.detect ?_)) (.detect ?_)
  · split
    · exact h.setPath.setLink
    · exact h.setPath
  · split
    · exact h.setPath.setLink
    · exact h.setPath

theorem Upholds.execMeasureDone (h : Upholds s₀ s) {l pathB peer peerLink peerPathB delayPs offsetPs} :
    OutUpholds s₀ (execMeasureDone l pathB peer peerLink peerPathB delayPs offsetPs s) :=
  .ite (.ok h) (.ite (.ok h.setPath.setPath.detect) (.ite (.ok h.setPath.setPath.detect) (.ok h.setPath.pathIsUp)))

theorem Upholds.execTrainingTimeout (h : Upholds s₀ s) {l pathB} : OutUpholds s₀ (execTrainingTimeout l pathB s) := by
  unfold Machine.execTrainingTimeout
  dsimp only
  split
  · exact .ok h
  · exact .ite (.ok h.setPath) (.ok h)

theorem Upholds.execPathDown (h : Upholds s₀ s) {l pathB criterion} : OutUpholds s₀ (execPathDown l pathB criterion s) :=
  .ite (.ok h.losePath) (.ok h)

theorem Upholds.execDelayFaultClear (h : Upholds s₀ s) {l pathB} : OutUpholds s₀ (execDelayFaultClear l pathB s) :=
  .ite (.ok h) (.ite (.ok h.setPath.detect) (.ok h.pathIsUp))

theorem Upholds.execRetrain (h : Upholds s₀ s) {r l v} : OutUpholds s₀ (execRetrain r l v s) :=
  .ok (h.writeCmd fun _ h => .ite .error (.ite (.ok h) (.ok h.sendPath)))

theorem Upholds.rateChange (h : Upholds s₀ s) {n low} : Upholds s₀ (rateChange s n low) := .ite h h.steerRate

theorem Upholds.execLinkRateChange (h : Upholds s₀ s) {l low} : OutUpholds s₀ (execLinkRateChange l low s) :=
  .ite (.ok h) (.ok h.setLink.steerRate)

theorem Upholds.holdMember (h : Upholds s₀ s) {cause} : Upholds s₀ (holdMember s cause) := .ite h h.beside.detect

theorem Upholds.rootTag (h : Upholds s₀ s) : Upholds s₀ (rootTag s).2 := by
  unfold Machine.rootTag
  split
  · exact h
  · exact h.beside

theorem Upholds.compareTag (h : Upholds s₀ s) {tag} : Upholds s₀ (compareTag s tag) := .ite h.beside h.beside.holdMember

theorem Upholds.checkEpoch (h : Upholds s₀ s) : Upholds s₀ (checkEpoch s) := .ite h (.ite h.holdMember (.ite h.beside h))

theorem Upholds.followRoot (h : Upholds s₀ s) {c} : Upholds s₀ (followRoot s c) := by
  unfold Machine.followRoot
  exact .ite (.detect (.beside (.ite h (.beside (.draw (.releasePending (.ite h.beside h))))))) h

theorem Upholds.groveStops (h : Upholds s₀ s) : Upholds s₀ (groveStops s) := h.foldl fun _ _ h => .ite h.refStop h

theorem Upholds.hearClaims (h : Upholds s₀ s) : Upholds s₀ (hearClaims s) := by
  unfold Machine.hearClaims
  dsimp only
  split
  · exact .ite h.beside.followRoot h.beside.followRoot
  · exact .ite (.ite h.beside h.beside.groveStops) h.beside.followRoot

theorem Upholds.drillEnds (h : Upholds s₀ s) {result state} : Upholds s₀ (drillEnds s result state) := h.beside

theorem Upholds.claimHeard (h : Upholds s₀ s) {l h'} : Upholds s₀ (claimHeard s l h') := by
  unfold Machine.claimHeard
  extract_lets cur root own k noted g known g' quiet drilled
  have hknown : Upholds s₀ known := .ite h.setLink.beside h.setLink
  have hquiet : Upholds s₀ quiet := .ite hknown.beside hknown
  exact .ite hquiet.drillEnds.beside hquiet

theorem Upholds.fadeEndpoints (h : Upholds s₀ s) : Upholds s₀ (fadeEndpoints s) := by
  unfold Machine.fadeEndpoints
  exact h.eachPort.eachBridge.eachLink

theorem Upholds.markJoined (h : Upholds s₀ s) : Upholds s₀ (markJoined s) := (h.foldl fun _ _ h => .ite h.setLink h).beside

theorem Upholds.becomeJoined (h : Upholds s₀ s) {epoch} : Upholds s₀ (becomeJoined s epoch) := by
  unfold Machine.becomeJoined
  dsimp only
  refine .ite h.markJoined.rootTag.beside ?_
  split
  · exact h.markJoined.checkEpoch.compareTag
  · exact h.markJoined.beside

theorem Upholds.joinsNow (h : Upholds s₀ s) : Upholds s₀ (joinsNow s) := by
  unfold Machine.joinsNow
  dsimp only
  split
  · exact .ite h.beside.becomeJoined h.beside
  · exact h

theorem Upholds.upstreamSays (h : Upholds s₀ s) {l h'} : Upholds s₀ (upstreamSays s l h') := by
  unfold Machine.upstreamSays
  extract_lets c t isRate armed told dropped x n added y rated e th ns z aligned fading
  have hrated : Upholds s₀ rated :=
    .ite (.ite h.beside.schedDrop.beside h.beside) (.ite h.beside (.ite h.beside.schedDrop.schedAdd.beside h.beside.schedDrop))
  have haligned : Upholds s₀ aligned := hrated.beside
  exact .ite (.ite haligned haligned.fadeEndpoints.beside)
    (.ite (.ite haligned.beside (.ite haligned.setLink haligned)) (.ite haligned.beside haligned))

theorem Upholds.groveHears (h : Upholds s₀ s) {l h'} : Upholds s₀ (groveHears s l h') := by
  unfold Machine.groveHears
  extract_lets heard grove rooted followed
  have hrooted : Upholds s₀ rooted := .ite h.claimHeard.hearClaims.beside h.claimHeard.hearClaims
  have hfollowed : Upholds s₀ followed := .ite hrooted.upstreamSays hrooted
  exact .ite h (.ite hfollowed.checkEpoch hfollowed)

theorem Upholds.writeTable (h : Upholds s₀ s) : Upholds s₀ (writeTable s) := h.beside

theorem Upholds.noteRecord (h : Upholds s₀ s) {m} : Upholds s₀ (noteRecord s m) :=
  .ite h (.ite h.beside.writeTable (.ite h.beside.writeTable.beside (.ite h.beside.writeTable.beside.checkEpoch.compareTag
    h.beside.writeTable.beside.checkEpoch)))

theorem Upholds.noteEpoch (h : Upholds s₀ s) {epoch device target} : Upholds s₀ (noteEpoch s epoch device target) := .ite h.beside h

theorem Upholds.noteAnnounce (h : Upholds s₀ s) {m} : Upholds s₀ (noteAnnounce s m) := .ite h h.noteEpoch

theorem Upholds.noteReport (h : Upholds s₀ s) : Upholds s₀ (noteReport s) := .ite h.beside h

theorem Upholds.noteDwell (h : Upholds s₀ s) {m} : Upholds s₀ (noteDwell s m) := h.beside

theorem Upholds.groupCmd (h : Upholds s₀ s) {r g role range body} (hb : ∀ v, Upholds s₀ v → OkUpholds s₀ (body v)) :
    OutUpholds s₀ (groupCmd s r g role range body) := .ok (h.writeAt hb)

theorem Upholds.execAddPage (h : Upholds s₀ s) {r g page} : OutUpholds s₀ (execAddPage r g page s) := by
  unfold Machine.execAddPage
  exact h.groupCmd fun _ h => .ite .error (.ite .error (.ok (.setGroup (h.modPage fun _ hq => hq.beside))))

theorem Upholds.execRemovePage (h : Upholds s₀ s) {r g page} : OutUpholds s₀ (execRemovePage r g page s) := by
  unfold Machine.execRemovePage
  exact h.groupCmd fun _ h => .ite .error (.ok (.setGroup (h.modPage fun _ hq => hq.beside)))

theorem Upholds.execScope (h : Upholds s₀ s) {r g v} : OutUpholds s₀ (execScope r g v s) :=
  h.groupCmd fun _ h => .ite .error (.ok h.setGroup)

theorem Upholds.execAddMember (h : Upholds s₀ s) {r g device} : OutUpholds s₀ (execAddMember r g device s) :=
  h.groupCmd fun _ h => .ite .error (.ite (.ok h.setGroup) (.ite .error (.ok h.setGroup)))

theorem PageOk.armPage {q : Page} (hq : PageOk s₀ q) : PageOk s₀ (armPage q) := .beside (.ite hq.levelled hq)

theorem Upholds.armGroup (h : Upholds s₀ s) {g t st} : Upholds s₀ (armGroup s g t st) := by
  unfold Machine.armGroup
  exact .setGroup (.schedAdd (Upholds.foldl (Upholds.foldl h fun _ _ h => h.modPage fun _ hq => hq.armPage) fun _ _ h =>
    h.modEng fun _ he => he.beside))

theorem Upholds.ackDone (h : Upholds s₀ s) {g} : Upholds s₀ (ackDone s g) := .ite h.setGroup h

theorem Upholds.execArm (h : Upholds s₀ s) {r g target} : OutUpholds s₀ (execArm r g target s) := by
  unfold Machine.execArm
  dsimp only
  refine h.groupCmd fun s h => .ite .error ?_
  split
  · exact .error
  · exact .ite (.ok h.armGroup) (.ok h.armGroup.setGroup.originate.ackDone)

theorem Upholds.disarm (h : Upholds s₀ s) {g result} : Upholds s₀ (disarm s g result) := by
  unfold Machine.disarm
  exact .detect (.setGroup (Upholds.foldl (Upholds.foldl h.schedDrop fun _ _ h => h.modPage fun _ hq => hq.beside) fun _ _ h =>
    h.modEng fun _ he => he.beside))

theorem Upholds.execCancel (h : Upholds s₀ s) {r g v} : OutUpholds s₀ (execCancel r g v s) :=
  h.groupCmd fun _ h => .ite (.ok h) (.ite .error (.ite .error (.ok (.ite h.disarm.originate h.disarm))))

theorem Upholds.coordinatorCancels (h : Upholds s₀ s) {g member code} : Upholds s₀ (coordinatorCancels s g member code) :=
  h.originate.disarm.setGroup

theorem Upholds.execGroupRelease (h : Upholds s₀ s) {r g v} : OutUpholds s₀ (execGroupRelease r g v s) := by
  unfold Machine.execGroupRelease
  exact h.groupCmd fun _ h => .ite (.ok h) (.ite .error (.ok (.setGroup
    (Upholds.foldl (Upholds.foldl h fun _ _ h => h.cancelGraft) fun _ _ h =>
    h.modPage fun _ hq => hq.beside))))

theorem Upholds.decoded (h : Upholds s₀ s) {kind src g t} : Upholds s₀ (decoded s kind src g t) := h.beside

theorem Upholds.cancelLast (h : Upholds s₀ s) {g who t u} : Upholds s₀ (cancelLast s g who t u) := .ite h.disarm h

theorem Upholds.execPrepare (h : Upholds s₀ s) {src _msgId g target epoch} : OutUpholds s₀ (execPrepare src _msgId g target epoch s) :=
  .ite (.ok h.decoded) (.ok ((Upholds.ite h.decoded.setGroup.armGroup.setGroup.cancelLast h.decoded.setGroup).originate))

theorem Upholds.execPrepAck (h : Upholds s₀ s) {src g target code} : OutUpholds s₀ (execPrepAck src g target code s) :=
  .ite (.ok h.decoded) (.ite (.ok h.decoded.setGroup.ackDone) (.ok h.decoded.coordinatorCancels))

theorem Upholds.execAckDeadline (h : Upholds s₀ s) {g} : OutUpholds s₀ (execAckDeadline g s) := by
  unfold Machine.execAckDeadline
  dsimp only
  refine .ite (.ok h) ?_
  split
  · exact .ok h.ackDone
  · exact .ok h.draw.coordinatorCancels

theorem Upholds.portArm (h : Upholds s₀ s) {r p op dir first count gain target} :
    OutUpholds s₀ (portArm s r p op dir first count gain target) :=
  .ok (h.writeCmd fun _ h => .ite .error (.ite .error (.ite .error (.ite .error (.ite .error (.ok h.schedAdd))))))

theorem Upholds.execPortStart (h : Upholds s₀ s) {r port dir first count gain target} :
    OutUpholds s₀ (execPortStart r port dir first count gain target s) :=
  h.portArm

theorem Upholds.execPortStop (h : Upholds s₀ s) {r port dir first count gain target} :
    OutUpholds s₀ (execPortStop r port dir first count gain target s) :=
  h.portArm

theorem Upholds.execMute (h : Upholds s₀ s) {r port dir first count gain target} :
    OutUpholds s₀ (execMute r port dir first count gain target s) :=
  h.portArm

theorem Upholds.execUnmute (h : Upholds s₀ s) {r port dir first count gain target} :
    OutUpholds s₀ (execUnmute r port dir first count gain target s) :=
  h.portArm

theorem Upholds.execGain (h : Upholds s₀ s) {r port dir first count gain target} :
    OutUpholds s₀ (execGain r port dir first count gain target s) :=
  h.portArm

theorem Upholds.execPortCancel (h : Upholds s₀ s) {r port dir first count gain target} :
    OutUpholds s₀ (execPortCancel r port dir first count gain target s) :=
  .ok (h.writeCmd fun _ h => .ite .error (.ite .error (.ite .error (.ok h.schedDrop.setPort))))

theorem Upholds.modChan (h : Upholds s₀ s) {p out ch f} : Upholds s₀ (modChan s p out ch f) := h.setPort

theorem Upholds.execZeroCrossing (h : Upholds s₀ s) {port out ch} : OutUpholds s₀ (execZeroCrossing port out ch s) :=
  .ite (.ok h.modChan) (.ok h)

theorem Upholds.zcOut (h : Upholds s₀ s) {p out ch inj} : Upholds s₀ (zcOut s p out ch inj) := h.modChan.setPort.detectAs

theorem Upholds.execZcTimeout (h : Upholds s₀ s) {port out ch} : OutUpholds s₀ (execZcTimeout port out ch s) := .ite (.ok h.zcOut) (.ok h)

theorem Upholds.execPortRampEnd (h : Upholds s₀ s) {port out ch} : OutUpholds s₀ (execPortRampEnd port out ch s) :=
  .ite (.ok h.modChan) (.ok h)

end Sys2Proof.Machine
end

section
/-! Records, frames of links, the grove and streams uphold. -/
namespace Sys2Proof.Machine

variable {s₀ s t : State}

theorem Upholds.composeFrame (h : Upholds s₀ s) {l low} : Upholds s₀ (composeFrame s l low) :=
  .ite h.groveOut.setLink.linkCount h.groveOut.setLink

theorem Upholds.execLinkFrameSend (h : Upholds s₀ s) {l pathB residual} : OutUpholds s₀ (execLinkFrameSend l pathB residual s) :=
  .ite (.ok h) (.ok ((Upholds.ite h.composeFrame h).setPath.setLink))

theorem Upholds.cancelCell (h : Upholds s₀ s) {c u} : Upholds s₀ (cancelCell s c u) := .ite h.disarm h.setGroup

theorem Upholds.fragment (h : Upholds s₀ s) {c} : Upholds s₀ (fragment s c) := h.beside

theorem Upholds.deliverCell (h : Upholds s₀ s) {c u} : Upholds s₀ (deliverCell s c u) :=
  .ite h.cancelCell (.ite h (.ite h.fragment h.beside))

theorem Upholds.handleCell (h : Upholds s₀ s) {l c u} : Upholds s₀ (handleCell s l c u) :=
  .ite h.mgmtDrop (.ite h (.ite (.ite h (.ite h.remember.deliverCell.forward h.remember.deliverCell))
    (.ite h.deliverCell (.ite h.forward h))))

theorem Upholds.measure (h : Upholds s₀ s) {l b u rPeer uPeer segs stray} : Upholds s₀ (measure s l b u rPeer uPeer segs stray) := by
  unfold Machine.measure
  dsimp only
  refine .ite h (.ite h.setPath ?_)
  split
  · exact h.setPath
  · exact .ite h.setPath.losePath h.setPath

theorem Upholds.recordArrives (h : Upholds s₀ s) {l m} : Upholds s₀ (recordArrives s l m) := .ite h.beside h.beside

theorem Upholds.takeRecord (h : Upholds s₀ s) {l u lost} : Upholds s₀ (takeRecord s l u lost) := by
  unfold Machine.takeRecord
  dsimp only
  split
  · exact h.setLink
  · exact .ite h.setLink.recordArrives (.ite h.setLink.beside h.setLink)

theorem Upholds.takeMessage (h : Upholds s₀ s) {l u} : Upholds s₀ (takeMessage s l u) := by
  unfold Machine.takeMessage
  dsimp only
  split
  · exact h.setLink.beside
  · exact h.setLink

theorem Upholds.takeBulk (h : Upholds s₀ s) {l u whole} : Upholds s₀ (takeBulk s l u whole) := by
  unfold Machine.takeBulk
  extract_lets x acked gap y counted spoilt
  have hspoilt : Upholds s₀ spoilt := .ite h.setLink.setLink.linkCount.setLink h.setLink.setLink.linkCount
  exact .ite h.setLink (.ite hspoilt.takeRecord (.ite hspoilt.takeMessage hspoilt.setLink))

theorem Upholds.takeSlots (h : Upholds s₀ s) {l f have'} : Upholds s₀ (takeSlots s l f have') :=
  h.foldl fun _ _ h => .ite h.setLink h.setLink.linkCount

theorem Upholds.receiveFrame (h : Upholds s₀ s) {l f} : Upholds s₀ (receiveFrame l f s) := by
  unfold Machine.receiveFrame
  extract_lets n upA upB takes low segs got there measured x heard counted y told headed cells bulk slots
  have hcounted : Upholds s₀ counted := Upholds.foldl (.setLink (.measure (.measure h))) fun u j h => by
    split
    · exact h.linkCount
    · exact h
    · exact h.linkCount.detect
  have hheaded : Upholds s₀ headed := .ite (.ite hcounted.setLink.linkCount hcounted.setLink) hcounted
  have hcells : Upholds s₀ cells := hheaded.foldl fun _ _ h => .ite h.handleCell h
  have hbulk : Upholds s₀ bulk := .ite hcells.takeBulk hcells
  have hslots : Upholds s₀ slots := .ite hbulk (.ite hbulk.takeSlots hbulk.loseSlots)
  exact .ite h.measure.measure (.ite hslots.groveHears hslots)

theorem Upholds.execMessageReassemblyTimeout (h : Upholds s₀ s) {src msgId} : OutUpholds s₀ (execMessageReassemblyTimeout src msgId s) :=
  .ok h.beside

theorem Upholds.setGrove (h : Upholds s₀ s) {f} : Upholds s₀ (setGrove s f) := h.beside

theorem Upholds.authFails (h : Upholds s₀ s) {l peer inj} : Upholds s₀ (authFails s l peer inj) := h.endJoin.setGrove.detectAs

theorem Upholds.execLinkJoin (h : Upholds s₀ s) {l peerGrove proof nonces peer compat} :
    OutUpholds s₀ (execLinkJoin l peerGrove proof nonces peer compat s) :=
  .ite (.ok h) (.ite (.ok h.setLink.endJoin) (.ite (.ok h.setLink.authFails)
    (.ite (.ok h.setLink.endJoin.setGrove.detect) (.ite (.ok h.setLink.endJoin.setGrove.detect)
    (.ok h.setLink.setLink.setGrove.writeTable)))))

theorem Upholds.execJoinReauth (h : Upholds s₀ s) {l proof nonces} : OutUpholds s₀ (execJoinReauth l proof nonces s) :=
  .ite (.ok h) (.ite (.ok h) (.ok h.authFails))

theorem Upholds.freshGrove (h : Upholds s₀ s) : Upholds s₀ (freshGrove s) := (h.foldl fun _ _ h => h.endJoin).setGrove.groveStops.steer

theorem Upholds.execGroveIdWrite (h : Upholds s₀ s) {r numbered v} : OutUpholds s₀ (execGroveIdWrite r numbered v s) :=
  .ok (h.writeCmd fun _ h => .ite .error (.ok h.bumpEpoch.beside.freshGrove))

theorem Upholds.loseRoot (h : Upholds s₀ s) : Upholds s₀ (loseRoot s) := .ite h.detect.setGrove.hearClaims h.detect.hearClaims

theorem Upholds.execRootLost (h : Upholds s₀ s) : OutUpholds s₀ (execRootLost s) := .ite (.ok h.loseRoot) (.ok h)

theorem Upholds.jumpTo (h : Upholds s₀ s) {t} : Upholds s₀ (jumpTo s t) := by
  unfold Machine.jumpTo
  exact Upholds.foldl (.eachBridge (.eachPort (.eachEng (.carryFrames (.carryStamps h.beside)) fun _ he => he.beside)))
    fun _ _ h => h.setPlaying

theorem Upholds.formTime (h : Upholds s₀ s) : Upholds s₀ (formTime s) := by
  unfold Machine.formTime
  dsimp only
  split
  · exact h.jumpTo.setClocks
  · exact h.jumpTo.setClocks

theorem Upholds.execRootIncumbency (h : Upholds s₀ s) : OutUpholds s₀ (execRootIncumbency s) := by
  unfold Machine.execRootIncumbency
  extract_lets forms root timed drilled joined
  have htimed : Upholds s₀ timed := .ite h.setGrove.formTime h.setGrove
  have hdrilled : Upholds s₀ drilled := .ite htimed.drillEnds htimed
  have hjoined : Upholds s₀ joined := .ite hdrilled.setGrove.markJoined hdrilled
  exact .ite (.ok hjoined.hearClaims.rootSteers) (.ok h)

theorem Upholds.drillArm (h : Upholds s₀ s) {r range dwell target} : OutUpholds s₀ (drillArm s r range dwell target) :=
  .ok (h.writeCmd fun _ h => .ite .error (.ite .error (.ite .error (.ite .error (.ok h.schedAdd.setGrove)))))

theorem Upholds.execHandover (h : Upholds s₀ s) {r reserved _dwell target} : OutUpholds s₀ (execHandover r reserved _dwell target s) :=
  h.drillArm

theorem Upholds.execRoundTrip (h : Upholds s₀ s) {r reserved dwell target} : OutUpholds s₀ (execRoundTrip r reserved dwell target s) :=
  h.drillArm

theorem Upholds.execDrillCancel (h : Upholds s₀ s) {r reserved _dwell target} :
    OutUpholds s₀ (execDrillCancel r reserved _dwell target s) :=
  .ok (h.writeCmd fun _ h => .ite .error (.ite .error (.ok h.schedDrop.drillEnds)))

theorem Upholds.execDrillDwellEnd (h : Upholds s₀ s) : OutUpholds s₀ (execDrillDwellEnd s) := by
  unfold Machine.execDrillDwellEnd
  split
  · exact .ite (.ok h.setGrove.withhold.hearClaims) (.ok h)
  · exact .ok h

theorem Upholds.execDrillNoTakeover (h : Upholds s₀ s) : OutUpholds s₀ (execDrillNoTakeover s) :=
  .ite (.ok h.drillEnds.setGrove.hearClaims.detect) (.ok h)

theorem Upholds.execLinkStateRecord (h : Upholds s₀ s) : OutUpholds s₀ (execLinkStateRecord s) := .ite (.ok h.writeTable.originate) (.ok h)

theorem Upholds.execEpochAnnounce (h : Upholds s₀ s) {epoch device target} : OutUpholds s₀ (execEpochAnnounce epoch device target s) :=
  .ite (.ok h) (.ite (.ite (.ok h.noteEpoch.originate) (.ok h)) (.ite (.ok h) (.ok h.noteEpoch)))

theorem Upholds.execEpochAdvance (h : Upholds s₀ s) : OutUpholds s₀ (execEpochAdvance s) :=
  .ok (h.setGrove.foldl fun _ _ h => h.advanceEpoch.setGrove)

theorem Upholds.execAdopt (h : Upholds s₀ s) {r} : OutUpholds s₀ (execAdopt r s) := .ok (h.writeCmd fun _ h => .ite .error (.ok h.setGrove))

theorem Upholds.execAdoptEffect (h : Upholds s₀ s) : OutUpholds s₀ (execAdoptEffect s) := by
  unfold Machine.execAdoptEffect
  dsimp only
  split
  · exact .ite (.ok h.rootTag.beside) (.ok h)
  · exact .ok h

theorem Upholds.rampEndpoints (h : Upholds s₀ s) : Upholds s₀ (rampEndpoints s) := by
  unfold Machine.rampEndpoints
  exact h.eachPort.eachBridge.eachLink

theorem Upholds.execTimeStep (h : Upholds s₀ s) {upstream offsetNs} : OutUpholds s₀ (execTimeStep upstream offsetNs s) := by
  unfold Machine.execTimeStep
  dsimp only
  split
  · exact .ok h
  · exact .ite (.ok h) (.ok ((Upholds.ite h.jumpTo.rampEndpoints.setGrove.applyWhere h.jumpTo.rampEndpoints.setGrove).detect))

theorem Upholds.streamCmd (h : Upholds s₀ s) {r e role range idle body} (hb : ∀ v, Upholds s₀ v → OkUpholds s₀ (body v)) :
    OutUpholds s₀ (streamCmd s r e role range idle body) := .ok (h.writeAt hb)

theorem Upholds.execSourceDef (h : Upholds s₀ s) {r e cls channels latency margin flags src reserved} :
    OutUpholds s₀ (execSourceDef r e cls channels latency margin flags src reserved s) :=
  h.streamCmd fun _ h => .ite .error (.ite .error (.ok h.beside.bumpEpoch.setStream))

theorem Upholds.execSubscribe (h : Upholds s₀ s) {r e stream dst} : OutUpholds s₀ (execSubscribe r e stream dst s) :=
  h.streamCmd fun _ h => .ite .error (.ok h.setStream)

theorem Upholds.placeRing (h : Upholds s₀ s) {t l w y} (hy : placeRing s t l w = some y) : Upholds s₀ y.1 := by
  unfold Machine.placeRing at hy
  dsimp only at hy
  split at hy
  · exact Option.some.inj hy ▸ h.markBank
  · split at hy
    · cases hy
    · split at hy
      · exact Option.some.inj hy ▸ h.stage
      · cases hy

theorem Upholds.arrivalRing (h : Upholds s₀ s) {t l cls channels latency hops} :
    FstUpholds s₀ (arrivalRing s t l cls channels latency hops) := by
  refine .ite ?_ (.ok h)
  split
  · next e => exact .ok (h.placeRing e)
  · exact .error

theorem Upholds.arriveOn (h : Upholds s₀ s) {t l cls channels latency hops} : FstUpholds s₀ (arriveOn s t l cls channels latency hops) := by
  refine .ite .error ?_
  split
  · exact .error
  · have hr := h.arrivalRing (t := t) (l := l) (cls := cls) (channels := channels) (latency := latency) (hops := hops)
    cases hx : Machine.arrivalRing s t l cls channels latency hops with
    | error c => exact .error
    | ok y => exact .ok (hr y hx)

theorem Upholds.leaveOn (h : Upholds s₀ s) {effective e l cls channels} : OkUpholds s₀ (leaveOn s effective e l cls channels) := by
  unfold Machine.leaveOn
  dsimp only
  refine .ite (.ok h) (.ite .error (.ite .error ?_))
  split
  · exact .error
  · exact .ite (.ok h.stage) .error

theorem Upholds.notAdmitted (h : Upholds s₀ s) {e code device} : Upholds s₀ (notAdmitted s e code device) := h.setStream

theorem Upholds.admitHere (h : Upholds s₀ s) {e p terms cls channels} : OkUpholds s₀ (admitHere s e p terms cls channels) := by
  unfold Machine.admitHere
  refine .ite .error (.ite .error (.bind fun y hy => ?_))
  have hs := (h.arriveOn y hy).stage (t := stageAt s terms.effective) (a := .map p.link false e y.2.1)
  dsimp only
  split
  · exact .ok hs.setStream
  · exact .bind fun z hz => .ok (hs.arriveOn z hz).stage.setStream

theorem Upholds.receiverResult (h : Upholds s₀ s) {e code failDevice told terms cls channels} :
    Upholds s₀ (receiverResult s e code failDevice told terms cls channels) := by
  unfold Machine.receiverResult
  dsimp only
  split
  · exact h.notAdmitted
  · split
    · exact .ite h.notAdmitted h.notAdmitted
    · refine .ite h.notAdmitted ?_
      split
      · exact h.notAdmitted
      · next s e =>
        exact (h.admitHere s e).beside.bumpEpoch

theorem Upholds.transitShare (h : Upholds s₀ s) {e terms cls channels inLink outLink} :
    Upholds s₀ (transitShare s e terms cls channels inLink outLink) := by
  unfold Machine.transitShare
  dsimp only
  split
  · exact h
  · split
    · next hu => exact h.stage.setStream.leaveOn _ hu
    · exact h

theorem Upholds.sourceShare (h : Upholds s₀ s) {e hops altHops terms l altLink} :
    OkUpholds s₀ (sourceShare s e hops altHops terms l altLink) := by
  refine .bind fun u hu => .map fun v hv => Upholds.setStream ?_
  have hl := h.leaveOn u hu
  exact OkUpholds.ite (.ok hl) hl.leaveOn v hv

theorem Upholds.execSubscribeResult (h : Upholds s₀ s) {e code failDevice hops altHops terms cls chans link altLink} :
    OutUpholds s₀ (execSubscribeResult e code failDevice hops altHops terms cls chans link altLink s) := by
  unfold Machine.execSubscribeResult
  dsimp only
  refine .ite (.ok h) ?_
  split
  · exact .ok h.receiverResult
  · exact .ite (.ok h) (.ok h.transitShare)
  · refine .ite (.ok h.freeEntry) (.ite (.ok h.setStream) (.ite (.ok h.setStream) ?_))
    split
    · exact .ok h.setStream
    · next s e =>
      exact .ok (h.sourceShare s e)

theorem Upholds.streamArm (h : Upholds s₀ s) {r e reserved target act} : OutUpholds s₀ (streamArm s r e reserved target act) :=
  h.streamCmd fun _ h => .ite .error (.ite .error (.ite .error (.ite .error (.ok h.schedAdd))))

theorem Upholds.execStreamStart (h : Upholds s₀ s) {r e reserved target} : OutUpholds s₀ (execStreamStart r e reserved target s) :=
  h.streamArm

theorem Upholds.execStreamStop (h : Upholds s₀ s) {r e reserved target} : OutUpholds s₀ (execStreamStop r e reserved target s) :=
  h.streamArm

theorem Upholds.execStreamCancel (h : Upholds s₀ s) {r e reserved target} : OutUpholds s₀ (execStreamCancel r e reserved target s) :=
  h.streamCmd fun _ h => .ite .error (.ite .error (.ok h.schedDrop))

theorem Upholds.execStreamRelease (h : Upholds s₀ s) {r e v} : OutUpholds s₀ (execStreamRelease r e v s) :=
  h.streamCmd fun _ h => .ite (.ok h) (.ite .error (.ite (.ok h) (.ok (.ite h.beside.freeEntry.bumpEpoch h.beside.freeEntry))))

theorem Upholds.bookSwitch (h : Upholds s₀ s) {t e alt l hops} : OkUpholds s₀ (bookSwitch s t e alt l hops) :=
  .ite (.ite (.map fun y hy => (h.setClocks.arrivalRing y hy).stage) (.ok h.setClocks.stage))
    (.map fun y hy => (h.setClocks.arriveOn y hy).stage)

theorem Upholds.noRoute (h : Upholds s₀ s) {e} : Upholds s₀ (noRoute s e) := .ite h h.setStream.detect

theorem Upholds.rerouteHere (h : Upholds s₀ s) {e told} : Upholds s₀ (rerouteHere s e told) := by
  unfold Machine.rerouteHere
  dsimp only
  refine .ite h ?_
  split
  · exact h.noRoute
  · refine .ite h.noRoute ?_
    split
    · exact h.noRoute
    · next s e =>
      exact (h.bookSwitch s e).setStream

theorem Upholds.rerouteSource (h : Upholds s₀ s) {e r} : Upholds s₀ (rerouteSource s e r) := by
  unfold Machine.rerouteSource
  dsimp only
  split
  · exact h
  · next s e =>
    exact ((h.leaveOn s e).foldl fun _ _ h => .ite h.unmap h).setStream

theorem Upholds.execReroute (h : Upholds s₀ s) {e route} : OutUpholds s₀ (execReroute e route s) := by
  unfold Machine.execReroute
  dsimp only
  refine .ite (.ok h) (.ite (.ok h.rerouteHere) ?_)
  split
  · exact .ite (.ok h.freeEntry) (.ok h)
  · exact .ite (.ok h.rerouteSource) (.ok h)

theorem Upholds.execPlayoutBankFree (h : Upholds s₀ s) {bank} : OutUpholds s₀ (execPlayoutBankFree bank s) := by
  unfold Machine.execPlayoutBankFree
  dsimp only
  split
  · exact .ite (.ok h.markBank) (.ok h)
  · exact .ok h

end Sys2Proof.Machine
end

section
/-! Resets, power, firmware and what is stored uphold. -/
namespace Sys2Proof.Machine

variable {s₀ s t : State}

theorem Upholds.noteTj (h : Upholds s₀ s) {tj} : Upholds s₀ (noteTj s tj) := h.beside

theorem Upholds.senseTj (h : Upholds s₀ s) : Upholds s₀ (senseTj s) := h.beside.noteTj

theorem Upholds.setPower (h : Upholds s₀ s) {f} : Upholds s₀ (setPower s f) := h.beside

/-- A reset empties the tables and what waits for a reply, and leaves the fuses and the queue (R480, R481). -/
theorem Upholds.fullReset (h : Upholds s₀ s) {cause} : Upholds s₀ (fullReset s cause) where
  canon _ := (canon_congr (s := State.reset) (t := { Machine.fullReset s cause with pending := [], fuses := {} }) rfl).mpr canon_reset
  tamper := h.tamper
  rollback := h.rollback
  ended hl ha := ⟨(h.ended hl ha).1, fun _ hx => absurd hx List.not_mem_nil⟩
  queue := h.queue

theorem Upholds.resetUncaused (h : Upholds s₀ s) : Upholds s₀ (resetUncaused s) := h.draw.fullReset

theorem Upholds.holdReset (h : Upholds s₀ s) {brown rstLow scan} : Upholds s₀ (holdReset s brown rstLow scan) := h.beside

theorem Upholds.recheckCompat (h : Upholds s₀ s) {old} : Upholds s₀ (recheckCompat s old) :=
  .ite h (.ite (h.foldl fun _ _ h => h.endJoin) ((h.foldl fun _ _ h => h.endJoin).setGrove))

theorem Upholds.restartOther (h : Upholds s₀ s) {st} : Upholds s₀ (restartOther s st) := h.beginRestart.setPower.recheckCompat

theorem Upholds.revertTrial (h : Upholds s₀ s) : Upholds s₀ (revertTrial s) := h.restartOther.detect

/-- An advance burns a fuse; ENDED has none R489. -/
theorem Upholds.advanceLife (h : Upholds s₀ s) {t} (ht : s₀.fuses.life = .ended → ¬ NoAdvance s₀.mgmt.after) :
    Upholds s₀ (advanceLife s t) := by
  have hs : Upholds s₀ { s with fuses := { s.fuses with life := t } } :=
    ⟨fun h0 => (canon_congr (s := s) rfl).mp (h.canon h0), h.tamper, h.rollback, fun hl ha => absurd ha (ht hl), h.queue⟩
  have hw := hs.wipeHeart (cause := 5)
  unfold Machine.advanceLife
  dsimp only
  generalize Machine.wipeHeart _ 5 = u at hw ⊢
  exact (Upholds.ite hw.beside hw).detect.detect

theorem Upholds.useMgmt (h : Upholds s₀ s) {c} : Upholds s₀ (useMgmt s c) := .ite h.beside.sendTo h.beside

theorem Upholds.commandReset (h : Upholds s₀ s) : Upholds s₀ (commandReset s) := h.fullReset.beside

theorem Upholds.doAfter (h : Upholds s₀ s) {a} (ha : s₀.fuses.life = .ended → NoAdvance s₀.mgmt.after → ∀ x, a ≠ .advance x) :
    Upholds s₀ (doAfter s a) := by
  cases a with
  | close k => exact h.endSession
  | mgmt c => exact h.useMgmt
  | reset => exact h.commandReset
  | activate => exact h.restartOther
  | revert => exact h.revertTrial
  | advance x => exact h.advanceLife fun hl hn => ha hl hn x rfl

theorem Upholds.doAll (h : Upholds s₀ s) {l : List After} (hl : s₀.fuses.life = .ended → NoAdvance s₀.mgmt.after → NoAdvance l) :
    Upholds s₀ (l.foldl Machine.doAfter s) := by
  induction l generalizing s with
  | nil => exact h
  | cons a l ih =>
    exact ih (h.doAfter fun he hn => hl he hn a List.mem_cons_self) fun he hn x hx => hl he hn x (List.mem_cons_of_mem _ hx)

theorem Upholds.afterReply (h : Upholds s₀ s) : Upholds s₀ (afterReply s) := by
  have hs : Upholds s₀ (Machine.setMgmt s fun m => { m with after := [] }) :=
    ⟨fun h0 => (canon_congr (s := s) rfl).mp (h.canon h0), h.tamper, h.rollback,
      fun hl ha => ⟨(h.ended hl ha).1, fun _ hx => absurd hx List.not_mem_nil⟩, h.queue⟩
  exact hs.doAll fun hl ha => (h.ended hl ha).2

/-- What waits for the reply is no advance in ENDED. -/
theorem Upholds.later (h : Upholds s₀ s) {a} (ha : s₀.fuses.life = .ended → NoAdvance s₀.mgmt.after → ∀ x, a ≠ .advance x := by
    exact fun _ _ => nofun) : Upholds s₀ (later s a) where
  canon h0 := (canon_congr (s := s) rfl).mp (h.canon h0)
  tamper := h.tamper
  rollback := h.rollback
  ended hl hn := by
    refine ⟨(h.ended hl hn).1, fun x hx => ?_⟩
    rcases List.mem_append.mp hx with hx | hx
    · exact (h.ended hl hn).2 x hx
    · exact List.mem_singleton.mp hx ▸ ha hl hn
  queue := h.queue

theorem Upholds.powerReq (h : Upholds s₀ s) {r code} : Upholds s₀ (powerReq s r code) :=
  h.writeCmd fun _ h => .ite (.ok h) (.ite .error (.ite .error (.ok h.setPower)))

theorem Upholds.execQuiet (h : Upholds s₀ s) {r} : OutUpholds s₀ (execQuiet r s) := .ok h.powerReq

theorem Upholds.execRun (h : Upholds s₀ s) {r} : OutUpholds s₀ (execRun r s) := .ok h.powerReq

theorem Upholds.execDormant (h : Upholds s₀ s) {r} : OutUpholds s₀ (execDormant r s) := .ok h.powerReq

theorem EngOk.ungate {e : Engine} (he : EngOk s₀ e) : EngOk s₀ (ungate e) := by
  refine .ite he ?_
  split
  · exact he
  · exact he
  · exact he
  · exact he
  · exact he

theorem Upholds.stopPatrol (h : Upholds s₀ s) : Upholds s₀ (stopPatrol s) := .ite h.releaseRegion h.setPatrol

theorem Upholds.resumePatrol (h : Upholds s₀ s) : Upholds s₀ (resumePatrol s) := .ite h h.setPatrol

theorem Upholds.enterDormant (h : Upholds s₀ s) : Upholds s₀ (enterDormant s) :=
  (h.setPower.setClocks.eachPort.foldl fun _ _ h => h.unlockSide.unlockSide).eachBridge.stopPatrol.foldl fun _ _ h => h.rateChange

theorem Upholds.enablePorts (h : Upholds s₀ s) : Upholds s₀ (enablePorts s) :=
  (h.setPower.foldl fun _ _ h => .ite h.setPort h).foldl fun _ _ h => .ite h.setBridge h

theorem Upholds.wakePorts (h : Upholds s₀ s) : Upholds s₀ (wakePorts s) := .ite h.enablePorts h

theorem Upholds.beginWake (h : Upholds s₀ s) {code w} : Upholds s₀ (beginWake s code w) :=
  ((h.setPower.setClocks.foldl fun _ _ h => h.zeroBank.setCross .nil).dropMarks.foldl fun _ _ h => h.rateChange).resumePatrol

theorem Upholds.execPowerTransition (h : Upholds s₀ s) : OutUpholds s₀ (execPowerTransition s) := by
  have ht : Upholds s₀ { s with power := { s.power with pendingTo := none } } := h.beside
  unfold Machine.execPowerTransition
  dsimp only
  split
  · exact .ok h
  · refine .ite (.ok h) ?_
    split
    · exact .ok ht.gateEngs.setPower
    · exact .ok (ht.eachEng fun _ he => he.ungate).setPower
    · exact .ok ht.gateEngs.setPower
    · exact .ok ht.gateEngs.enterDormant
    · exact .ite (.ok ht.gateEngs.enterDormant) (.ok ht.setPower)
    · exact .ok ht.gateEngs.enterDormant
    · exact .ok ht.beginWake
    · exact .ok ht

theorem Upholds.execWakePin (h : Upholds s₀ s) {gpio falling} : OutUpholds s₀ (execWakePin gpio falling s) :=
  .ite (.ok h.draw.setPower) (.ok h)

theorem EngOk.wakeEng {e : Engine} (he : EngOk s₀ e) : EngOk s₀ (wakeEng e) := by
  have hf : EngOk s₀ { e with ctx := { startCtx e.active e.ctx with cycle := 0 }, alt := {}, frameCtr := 0, ctrLatch := 0 } :=
    he.runs (c := startCtx e.active e.ctx) he.ctx.startCtx .start
  unfold Machine.wakeEng
  refine .ite he ?_
  split
  · exact hf
  · exact he.setActive (b := {}) .nil
  · exact he.setActive (b := {}) .nil
  · exact hf

theorem Upholds.execWakeComplete (h : Upholds s₀ s) : OutUpholds s₀ (execWakeComplete s) := by
  have hw := h.eachEng (f := wakeEng) fun _ he => he.wakeEng
  unfold Machine.execWakeComplete
  dsimp only
  split
  · exact .ok h
  · exact .ite (.ok h) (.ok (Upholds.ite (hw.eachEng fun _ he => he.ungate) hw.gateEngs).setPower)

theorem Upholds.resetCmd (h : Upholds s₀ s) {r} : Upholds s₀ (resetCmd s r) := h.writeCmd fun _ h => .ok h.later

theorem Upholds.execReset (h : Upholds s₀ s) {r} : OutUpholds s₀ (execReset r s) := .ok h.resetCmd.afterReply

theorem Upholds.execPor (h : Upholds s₀ s) : OutUpholds s₀ (execPor s) := .ite (.ok h.holdReset) (.ok h.fullReset)

theorem Upholds.execBrownout (h : Upholds s₀ s) : OutUpholds s₀ (execBrownout s) := .ite (.ok h) (.ok h.holdReset.fullReset)

theorem Upholds.execResetN (h : Upholds s₀ s) {high} : OutUpholds s₀ (execResetN high s) :=
  .ite (.ok h.holdReset) (.ite (.ok h) (.ok h.holdReset.fullReset))

theorem Upholds.bootFirmware (h : Upholds s₀ s) {slotB straps okA okB} : Upholds s₀ (bootFirmware s slotB straps okA okB) :=
  h.beside.detect.drainQueue

theorem Upholds.bootSelfTest (h : Upholds s₀ s) {failed} : Upholds s₀ (bootSelfTest s failed) :=
  (h.draw.beside.foldl fun _ _ h => h.storeBand).setClocks.setPower.foldl fun _ _ h =>
    .ite (.detect (h.draw.modEng fun _ he => he.beside)) h

theorem Upholds.bootImage (h : Upholds s₀ s) {t n raw} : Upholds s₀ (bootImage t s n raw) := by
  unfold Machine.bootImage
  dsimp only
  refine .ite h.setPower ?_
  split
  · exact h.loadFails.setPower
  · next b hb =>
    refine .schedAdd (h.modEng fun e he => ?_)
    exact he.setStandby (loadImage_data b hb)

theorem Upholds.bootRoute (h : Upholds s₀ s) {t r x} : Upholds s₀ (bootRoute t s r x) := by
  unfold Machine.bootRoute
  refine .ite h.setRoute ?_
  split
  · exact h.setRoute
  · exact h.schedAdd.setRoute

theorem Upholds.bootStreams (h : Upholds s₀ s) : Upholds s₀ (bootStreams s) :=
  (h.foldl fun _ _ h => h.setStream).foldl fun _ _ h => h.setStream

theorem Upholds.applyConfig (h : Upholds s₀ s) {cfg epoch leases images routes} :
    Upholds s₀ (applyConfig s cfg epoch leases images routes) := by
  unfold Machine.applyConfig
  extract_lets read leased grove counted t loaded routed
  have hleased : Upholds s₀ leased := h.beside.foldl fun _ _ h => h.applyLease
  have hloaded : Upholds s₀ loaded := hleased.beside.foldl fun _ _ h => h.bootImage
  have hrouted : Upholds s₀ routed := hloaded.foldl fun _ _ h => h.bootRoute
  exact hrouted.bootStreams

theorem Upholds.bootStore (h : Upholds s₀ s) : Upholds s₀ (bootStore s) := .ite h.setPower.detect h.setPower.applyConfig

theorem Upholds.bootSettings (h : Upholds s₀ s) : Upholds s₀ (bootSettings s) :=
  (h.foldl fun _ _ h => h.foldl fun _ _ h => .ite h.startPath h).setGrove.setPatrol.setClocks.enablePorts.useMgmt

theorem Upholds.measureBanks (h : Upholds s₀ s) : Upholds s₀ (measureBanks s) := .ite h h.draw.setPower

theorem Upholds.execBoot (h : Upholds s₀ s) {straps failed bootMs slotA slotB} :
    OutUpholds s₀ (execBoot straps failed bootMs slotA slotB s) := by
  unfold Machine.execBoot
  dsimp only
  refine .ite (.ok h) ?_
  split
  · exact .ok h.measureBanks.setPower
  · exact .ok h.measureBanks.bootFirmware.bootSelfTest.bootStore.bootSettings.setPower

theorem Upholds.execVcoreRaise (h : Upholds s₀ s) : OutUpholds s₀ (execVcoreRaise s) := .ite (.ok h.setPower) (.ok h)

theorem Upholds.execVcoreLower (h : Upholds s₀ s) : OutUpholds s₀ (execVcoreLower s) := .ite (.ok h.setPower) (.ok h)

theorem Upholds.slackOut (h : Upholds s₀ s) {monitor inj} : Upholds s₀ (slackOut s monitor inj) := h.setPower.detectAs

theorem Upholds.execSlackLimit (h : Upholds s₀ s) {monitor} : OutUpholds s₀ (execSlackLimit monitor s) := .ite (.ok h.slackOut) (.ok h)

theorem Upholds.beginFwWrite (h : Upholds s₀ s) {image} : OkUpholds s₀ (beginFwWrite s image) :=
  .ite .error (.ite .error (.ite .error (.ite .error (.ok h.setPower))))

theorem Upholds.execFwImageWrite (h : Upholds s₀ s) {r image} : OutUpholds s₀ (execFwImageWrite r image s) :=
  .ok (h.closeCmd fun _ h => h.beginFwWrite)

theorem Upholds.execFwWriteComplete (h : Upholds s₀ s) {good} : OutUpholds s₀ (execFwWriteComplete good s) := by
  unfold Machine.execFwWriteComplete
  dsimp only
  split
  · exact .ite (.ok h.setPower) (.ok h.setPower.detect)
  · exact .ok h

theorem Upholds.activateCmd (h : Upholds s₀ s) {r} : Upholds s₀ (activateCmd s r) :=
  h.writeCmd fun _ h => .ite .error (.ite .error (.ite .error (.ok h.later)))

theorem Upholds.execActivate (h : Upholds s₀ s) {r} : OutUpholds s₀ (execActivate r s) := .ok h.activateCmd.afterReply

/-- CONFIRM raises the least acceptable ROLLBACK R486. -/
theorem Upholds.confirmCmd (h : Upholds s₀ s) {r} : Upholds s₀ (confirmCmd s r) :=
  h.writeCmd fun u hu => .ite .error (.ok {
    canon := fun h0 => (canon_congr (s := u) rfl).mp (hu.canon h0)
    tamper := hu.tamper
    rollback := by
      refine Nat.le_trans hu.rollback ?_
      dsimp only
      split
      · next hlt => exact Nat.le_of_lt hlt
      · exact Nat.le_refl _
    ended := hu.ended
    queue := hu.queue })

theorem Upholds.execFwConfirm (h : Upholds s₀ s) {r} : OutUpholds s₀ (execFwConfirm r s) := .ok h.confirmCmd

theorem Upholds.discardCmd (h : Upholds s₀ s) {r} : Upholds s₀ (discardCmd s r) := by
  unfold Machine.discardCmd
  dsimp only
  refine h.writeCmd fun s h => ?_
  split
  · exact .ok h.setPower
  · exact .ok h.later
  · exact .error

theorem Upholds.execDiscard (h : Upholds s₀ s) {r} : OutUpholds s₀ (execDiscard r s) := .ok h.discardCmd.afterReply

theorem Upholds.execTrialTimeout (h : Upholds s₀ s) : OutUpholds s₀ (execTrialTimeout s) := .ite (.ok h.revertTrial) (.ok h)

theorem Upholds.execTrialDictionaryTimeout (h : Upholds s₀ s) : OutUpholds s₀ (execTrialDictionaryTimeout s) :=
  .ite (.ok h.revertTrial) (.ok h)

theorem Upholds.advanceCmd (h : Upholds s₀ s) {r target reserved serial} : Upholds s₀ (advanceCmd s r target reserved serial) := by
  refine h.writeCmd fun u hu => ?_
  dsimp only
  by_cases hm : mayAdvance u.fuses.life (lifeOf target) = true
  · refine .ite .error (.ite .error (.ok (hu.later fun hl hn => ?_)))
    rw [(hu.ended hl hn).1] at hm
    exact absurd hm (by simp [mayAdvance])
  · rw [if_pos (by simpa using hm)]
    exact .error

theorem Upholds.execAdvance (h : Upholds s₀ s) {r target reserved serial} : OutUpholds s₀ (execAdvance r target reserved serial s) :=
  .ok h.advanceCmd.afterReply

theorem Upholds.detectAon (h : Upholds s₀ s) {code arg} : Upholds s₀ (detectAon s code arg) := .ite h.countDet.record h.detect

/-- A trip burns one tamper fuse, up to 255, where the part is ENDED (R489, R507). -/
theorem Upholds.tripWipe (h : Upholds s₀ s) {cause code arg} : Upholds s₀ (tripWipe s cause code arg) := by
  unfold Machine.tripWipe
  have hw := h.wipeHeart (cause := cause)
  generalize Machine.wipeHeart s cause = u at hw
  dsimp only
  have hu : Upholds s₀ { u with fuses := { u.fuses with
      tamperCount := min 255 (u.fuses.tamperCount + 1)
      life := if decide (min 255 (u.fuses.tamperCount + 1) = 255) && decide (u.fuses.life ≠ .ended) then .ended else u.fuses.life } } := {
    canon := fun h0 => (canon_congr (s := u) rfl).mp (hw.canon h0)
    tamper := fun h0 => by
      obtain ⟨h1, h2⟩ := hw.tamper h0
      exact ⟨Nat.min_le_left .., by dsimp only; omega⟩
    rollback := hw.rollback
    ended := fun hl hn => ⟨by dsimp only; split <;> simp [(hw.ended hl hn).1], (hw.ended hl hn).2⟩
    queue := hw.queue }
  exact .ite hu.detectAon.detectAon.detectAon hu.detectAon.detectAon

theorem Upholds.execTamper (h : Upholds s₀ s) : OutUpholds s₀ (execTamper s) := .ok h.tripWipe

theorem Upholds.execVmonTrip (h : Upholds s₀ s) {sram} : OutUpholds s₀ (execVmonTrip sram s) := .ok h.tripWipe.enterFault

theorem Upholds.execCmonTrip (h : Upholds s₀ s) {mhz} : OutUpholds s₀ (execCmonTrip mhz s) := .ite (.ok h) (.ok h.tripWipe.enterFault)

theorem Upholds.execTmonTrip (h : Upholds s₀ s) {tj} : OutUpholds s₀ (execTmonTrip tj s) := .ite (.ok h) (.ok h.noteTj.tripWipe.enterFault)

theorem Upholds.tjWarn (h : Upholds s₀ s) {arg inj} : Upholds s₀ (tjWarn s arg inj) := h.detectAs

theorem Upholds.execTjWarning (h : Upholds s₀ s) {tj} : OutUpholds s₀ (execTjWarning tj s) :=
  .ite (.ok h.noteTj.tjWarn.setPower) (.ok h.noteTj)

theorem Upholds.execTjWarningRearm (h : Upholds s₀ s) : OutUpholds s₀ (execTjWarningRearm s) := .ok h.setPower

theorem Upholds.lockstepHit (h : Upholds s₀ s) {cycle inj} : Upholds s₀ (lockstepHit s cycle inj) := by
  unfold Machine.lockstepHit
  extract_lets w cut events counted
  have hcounted : Upholds s₀ counted := h.beginRestart.detectAs.writeCut.beside
  exact .ite hcounted (.ite hcounted.skipRestart.setPower.enterFault.drainQueue
    (.ite hcounted (.ite hcounted.revertTrial hcounted.setPower)))

theorem Upholds.execLockstep (h : Upholds s₀ s) {cycle} : OutUpholds s₀ (execLockstep cycle s) := .ite (.ok h.lockstepHit) (.ok h)

theorem Upholds.execCcRestart (h : Upholds s₀ s) : OutUpholds s₀ (execCcRestart s) := by
  unfold Machine.execCcRestart
  split
  · exact .ok h
  · exact .ite (.ok h) (.ok h.skipRestart.setPower.drainQueue.detect.resumePatrol)

theorem Upholds.saveCmd (h : Upholds s₀ s) {r} : Upholds s₀ (saveCmd s r) := h.writeCmd fun _ h => .ite .error (.ok h.beside)

theorem Upholds.execSave (h : Upholds s₀ s) {r} : OutUpholds s₀ (execSave r s) := .ok h.saveCmd

theorem Upholds.execSaveComplete (h : Upholds s₀ s) {good} : OutUpholds s₀ (execSaveComplete good s) := by
  unfold Machine.execSaveComplete
  dsimp only
  split
  · exact .ok h
  · exact .ite (.ok h.beside) (.ok h.beside.detect)

theorem Upholds.eraseCmd (h : Upholds s₀ s) {r} : Upholds s₀ (eraseCmd s r) := h.writeCmd fun _ h => .ite .error (.ok h.beside)

theorem Upholds.execEraseStore (h : Upholds s₀ s) {r} : OutUpholds s₀ (execEraseStore r s) := .ok h.eraseCmd

theorem Upholds.storeKeys (h : Upholds s₀ s) {keys} : Upholds s₀ (storeKeys s keys) := h.beside

theorem Upholds.closeLater (h : Upholds s₀ s) {p} : Upholds s₀ (closeLater s p) := h.foldl fun _ _ h => .ite h.later h

theorem Upholds.keyInstallCmd (h : Upholds s₀ s) {r set index reserved material} :
    Upholds s₀ (keyInstallCmd s r set index reserved material) := by
  unfold Machine.keyInstallCmd
  dsimp only
  refine h.writeCmd fun s h => .ite .error ?_
  split
  · exact .error
  · exact .ok h.storeKeys.closeLater

theorem Upholds.keyDeleteCmd (h : Upholds s₀ s) {r set index reserved material} :
    Upholds s₀ (keyDeleteCmd s r set index reserved material) :=
  h.writeCmd fun _ h => .ite .error (.ite .error (.ite .error (.ok h.storeKeys.closeLater)))

theorem Upholds.execKeyInstall (h : Upholds s₀ s) {r set index reserved material} :
    OutUpholds s₀ (execKeyInstall r set index reserved material s) :=
  .ok h.keyInstallCmd.afterReply

theorem Upholds.execKeyDelete (h : Upholds s₀ s) {r set index reserved material} :
    OutUpholds s₀ (execKeyDelete r set index reserved material s) :=
  .ok h.keyDeleteCmd.afterReply

end Sys2Proof.Machine
end

section
/-! Sessions, events, the debug port and injection uphold. -/
namespace Sys2Proof.Machine

variable {s₀ s t : State}

theorem Upholds.kmpDrop (h : Upholds s₀ s) {i} : Upholds s₀ (kmpDrop s i) := h.countStat

theorem Upholds.setQueue (h : Upholds s₀ s) {i q} : Upholds s₀ (Machine.setMgmt s fun m => setQueue m i q) := by
  cases i <;> exact h.beside

theorem Upholds.requestIn (h : Upholds s₀ s) {i r body} : Upholds s₀ (requestIn s i r body) := by
  unfold Machine.requestIn
  dsimp only
  split
  · exact h.heardHost.sendOn
  · exact .ite h.heardHost.sendOn (.ite h.heardHost.sendOn.countStat.detect h.heardHost.setQueue)

theorem Upholds.execRequest (h : Upholds s₀ s) {i r body} : OutUpholds s₀ (execRequest i r body s) :=
  .ite (.ok h) (.ite (.ok h.refuseUnbound) (.ite (.ok h.kmpDrop) (.ok h.requestIn)))

theorem Upholds.openSession (h : Upholds s₀ s) {k x} : Upholds s₀ (openSession s k x) := h.heardHost.setSession

theorem Upholds.pickSession (h : Upholds s₀ s) {y} (hy : pickSession s = some y) : Upholds s₀ y.2 := by
  unfold Machine.pickSession at hy
  dsimp only at hy
  split at hy
  · cases hy
  · exact Option.some.inj hy ▸ h.draw

theorem Upholds.helloIn (h : Upholds s₀ s) {i address port role keyIndex cn} : Upholds s₀ (helloIn s i address port role keyIndex cn) := by
  unfold Machine.helloIn
  dsimp only
  refine .ite h.sendTo ?_
  split
  · exact h.sendTo
  · next k t hk =>
    have ht : Upholds s₀ t := h.pickSession hk
    exact .ite h.sendTo (.ite ht.draw.openSession.sendOn ht.draw.heardHost.setSession.sendOn)

theorem Upholds.execHello (h : Upholds s₀ s) {i address port role keyIndex cn} :
    OutUpholds s₀ (execHello i address port role keyIndex cn s) :=
  .ite (.ok h) (.ite (.ok h.kmpDrop) (.ok h.helloIn))

theorem Upholds.authFail (h : Upholds s₀ s) {i inj} : Upholds s₀ (authFail s i inj) := .ite h.beside.detectAs.detectAs h.beside.detectAs

theorem Upholds.proveIn (h : Upholds s₀ s) {i k proof} : Upholds s₀ (proveIn s i k proof) :=
  .ite h.openSession.sendOn h.sendOn.endSession.authFail

theorem Upholds.execProve (h : Upholds s₀ s) {i sess proof} : OutUpholds s₀ (execProve i sess proof s) :=
  .ite (.ok h) (.ite (.ok h.kmpDrop) (.ok h.proveIn))

theorem Upholds.execProveTimeout (h : Upholds s₀ s) {sess} : OutUpholds s₀ (execProveTimeout sess s) :=
  .ite (.ok h.sendOn.endSession) (.ok h)

theorem Upholds.execLockoutEnd (h : Upholds s₀ s) {i} : OutUpholds s₀ (execLockoutEnd i s) := .ok h.beside

theorem Upholds.execBye (h : Upholds s₀ s) {i sess} : OutUpholds s₀ (execBye i sess s) :=
  .ite (.ok h) (.ite (.ok h.kmpDrop) (.ok h.endSession))

theorem Upholds.execSessionIdleTimeout (h : Upholds s₀ s) {sess} : OutUpholds s₀ (execSessionIdleTimeout sess s) :=
  .ite (.ok h.endSession) (.ok h)

theorem Upholds.closeSessionCmd (h : Upholds s₀ s) {r k} : Upholds s₀ (closeSessionCmd s r k) :=
  h.writeCmd fun _ h => .ite .error (.ok h.later)

theorem Upholds.execSessionsClose (h : Upholds s₀ s) {r k} : OutUpholds s₀ (execSessionsClose r k s) := .ok h.closeSessionCmd.afterReply

theorem Upholds.execRelayLapse (h : Upholds s₀ s) {target sess} : OutUpholds s₀ (execRelayLapse target sess s) := .ok h.beside

theorem Upholds.sendOnward (h : Upholds s₀ s) {target m} : Upholds s₀ (sendOnward s target m) := by
  unfold Machine.sendOnward
  dsimp only
  refine .ite ?_ h.sendMessage
  split
  · exact h
  · exact h.draw.setLink

theorem Upholds.relayOut (h : Upholds s₀ s) {i address port m} : Upholds s₀ (relayOut s i address port m) :=
  .ite h.sendTo (.ite h.sendTo h.beside.sendOnward)

theorem Upholds.relayBack (h : Upholds s₀ s) {src m} (ht : relayBack s src m = some t) : Upholds s₀ t := by
  unfold Machine.relayBack at ht
  dsimp only at ht
  split at ht
  · exact Option.some.inj ht ▸ h.beside.sendTo
  · exact Option.some.inj ht ▸ (Upholds.ite h.beside.beside h.beside).sendTo
  · cases ht

theorem Upholds.kmpHere (h : Upholds s₀ s) {i address port m} : Upholds s₀ (kmpHere s i address port m) := by
  unfold Machine.kmpHere
  dsimp only
  refine .ite (.ite h.draw.kmpDrop h.draw.helloIn) ?_
  split
  · exact .ite (.ite h.draw.sendTo (.ite h.draw.kmpDrop h.draw.requestIn))
      (.ite (.ite h.draw.kmpDrop h.draw.proveIn) (.ite h.draw.kmpDrop h.draw.endSession))
  · exact .ite h.draw.sendTo h.draw.kmpDrop

theorem Upholds.kmpIn (h : Upholds s₀ s) {i address port m} : Upholds s₀ (kmpIn s i address port m) := by
  unfold Machine.kmpIn
  dsimp only
  refine .ite h (.ite h.kmpDrop ?_)
  split
  · next t e =>
    split at e
    · obtain ⟨a, -, ha⟩ := Option.bind_eq_some_iff.mp e
      split at ha
      · exact h.relayBack ha
      · cases ha
    · cases e
  · exact .ite h.kmpDrop (.ite h.kmpHere (.ite (.ite h.sendOnward h.kmpDrop) h.relayOut))

theorem Upholds.linkSeen (h : Upholds s₀ s) : Upholds s₀ (linkSeen s) := .ite h h.draw.beside

theorem Upholds.execUdpDatagram (h : Upholds s₀ s) {srcAddr srcPort packet} : OutUpholds s₀ (execUdpDatagram srcAddr srcPort packet s) :=
  .ite (.ok h) (.ite (.ok (.ite h.linkSeen.sendTo h.linkSeen)) (.ite (.ok h.linkSeen)
    (.ite (.ok (.ite h.linkSeen.sendTo h.linkSeen)) (.ite (.ok h.linkSeen.kmpIn) (.ok h.linkSeen)))))

theorem Upholds.execPut (h : Upholds s₀ s) {message} : OutUpholds s₀ (execPut message s) :=
  .ite (.ite (.ok h.setPower.resetUncaused) (.ok h)) (.ite (.ok h) (.ite (.ok h.beside) (.ok h.beside)))

theorem Upholds.execGet (h : Upholds s₀ s) {complete} : OutUpholds s₀ (execGet complete s) := .ite (.ok h.beside) (.ok h)

theorem Upholds.execStatus (h : Upholds s₀ s) : OutUpholds s₀ (execStatus s) := .ok h.beside

theorem Upholds.takeArrived (h : Upholds s₀ s) : Upholds s₀ (takeArrived s) :=
  h.beside.foldl fun _ _ h => .ite h.noteRecord (.ite h.noteAnnounce (.ite h.noteReport (.ite h.noteDwell h.kmpIn)))

theorem Upholds.execLinkFrameReceive (h : Upholds s₀ s) {l f} : OutUpholds s₀ (execLinkFrameReceive l f s) := .ok h.receiveFrame.takeArrived

theorem Upholds.setMark (h : Upholds s₀ s) {loc v} : Upholds s₀ { s with mem := { s.mem with ecc := tset 0 s.mem.ecc loc v } } :=
  h.tables rfl fun _ ⟨e, r, g, p, i, l, x, m, k, c, a, b⟩ => ⟨e, r, g, p, i, l, x, m, k, c, tset_wf loc v a, b⟩

theorem Upholds.execEventRaise (h : Upholds s₀ s) {code unit arg} : OutUpholds s₀ (execEventRaise code unit arg s) :=
  .ite (.ok h) (.ite (.ite (.ok h.setMark.eccDetect) (.ok h)) (.ite (.ok h.countDet.record) (.ok h.detect)))

theorem Upholds.execEventRateLimitEnd (h : Upholds s₀ s) {code unit} : OutUpholds s₀ (execEventRateLimitEnd code unit s) := by
  unfold Machine.execEventRateLimitEnd
  dsimp only
  split
  · exact .ok h
  · exact .ite (.ok h) (.ite (.ok h.beside) (.ok h.beside.record))

theorem Upholds.execEventPush (h : Upholds s₀ s) {sess} : OutUpholds s₀ (execEventPush sess s) :=
  .ite (.ok h) (.ite (.ok h.setSession) (.ok h.setSession.sendOn))

theorem Upholds.passPage (h : Upholds s₀ s) {k} : Upholds s₀ (passPage s k) := h.setSession

theorem Upholds.execEventLogRead (h : Upholds s₀ s) {r} : OutUpholds s₀ (execEventLogRead r s) :=
  .ok (h.runRequest fun _ h => .ok h.passPage)

theorem Upholds.setDebug (h : Upholds s₀ s) {f} : Upholds s₀ (setDebug s f) := h.beside

theorem Upholds.selectIr (h : Upholds s₀ s) {code} : Upholds s₀ (selectIr s code) :=
  .ite (.ite h.setDebug h.setDebug.holdReset.resetUncaused) (.ite h.setDebug.holdReset h.setDebug)

theorem Upholds.tapReset (h : Upholds s₀ s) : Upholds s₀ (tapReset s) := h.selectIr

theorem Upholds.execExtest (h : Upholds s₀ s) {selected} : OutUpholds s₀ (execExtest selected s) := .ok (.ite h.selectIr h.tapReset)

theorem Upholds.execClamp (h : Upholds s₀ s) {selected} : OutUpholds s₀ (execClamp selected s) := .ok (.ite h.selectIr h.tapReset)

theorem Upholds.execIdcode (h : Upholds s₀ s) : OutUpholds s₀ (execIdcode s) := .ok h.selectIr.setDebug

theorem Upholds.execSamplePreload (h : Upholds s₀ s) : OutUpholds s₀ (execSamplePreload s) := .ok h.selectIr.draw.draw.setDebug

theorem Upholds.execBypass (h : Upholds s₀ s) {tdi} : OutUpholds s₀ (execBypass tdi s) := .ok h.selectIr.setDebug

theorem Upholds.execDbgChallenge (h : Upholds s₀ s) : OutUpholds s₀ (execDbgChallenge s) :=
  .ite (.ok h.selectIr.draw.setDebug) (.ok h.selectIr)

theorem Upholds.execDbgResponse (h : Upholds s₀ s) {sig} : OutUpholds s₀ (execDbgResponse sig s) := by
  unfold Machine.execDbgResponse
  dsimp only
  split
  · exact .ite (.ok h.selectIr.setDebug.detect) (.ok h.selectIr.setDebug)
  · exact .ok h.selectIr

theorem Upholds.execDbgNonceReissue (h : Upholds s₀ s) : OutUpholds s₀ (execDbgNonceReissue s) := .ite (.ok h.draw.setDebug) (.ok h)

theorem Upholds.setError (h : Upholds s₀ s) {e} : Upholds s₀ (setError s e) := h.setDebug

theorem Upholds.dropReads (h : Upholds s₀ s) : Upholds s₀ (dropReads s) := h.foldl fun _ _ h => .ite h.markBank h

theorem Upholds.dbgCmd (h : Upholds s₀ s) {range accepted effect} (hf : ∀ u, Upholds s₀ u → Upholds s₀ (effect u)) :
    OutUpholds s₀ (dbgCmd s range accepted effect) :=
  .ite (.ok h.selectIr.setError) (.ite (.ok h.selectIr.setError) (.ite (.ok h.selectIr.setError)
    (.ok (hf _ h.selectIr.setDebug.dropReads))))

theorem Upholds.execBreakEng (h : Upholds s₀ s) {unit addr _count} : OutUpholds s₀ (execBreakEng unit addr _count s) := by
  unfold Machine.execBreakEng
  exact h.dbgCmd fun _ h => h.modEng fun _ he => he.beside

theorem Upholds.execStep (h : Upholds s₀ s) {unit addr _count} : OutUpholds s₀ (execStep unit addr _count s) := by
  unfold Machine.execStep
  exact h.dbgCmd fun _ h => .ite (h.modEng fun _ he => he.beside) (.ite (h.modEng fun _ he => he.beside) h)

theorem Upholds.execResume (h : Upholds s₀ s) {unit addr _count} : OutUpholds s₀ (execResume unit addr _count s) := by
  unfold Machine.execResume
  exact h.dbgCmd fun _ h => h.modEng fun _ he => .ite he he

theorem Upholds.execSetBreak (h : Upholds s₀ s) {unit addr _count} : OutUpholds s₀ (execSetBreak unit addr _count s) := by
  unfold Machine.execSetBreak
  exact h.dbgCmd fun _ h => h.modEng fun _ he => he.beside

theorem Upholds.readyValues (h : Upholds s₀ s) {op unit addr l} : Upholds s₀ (readyValues s op unit addr l) :=
  .ite h.setDebug.setError h.setDebug

theorem Upholds.debugEcc (h : Upholds s₀ s) {l} : Upholds s₀ (debugEcc s l) := h.foldl fun _ _ h => h.eccRead

theorem Upholds.execReadData (h : Upholds s₀ s) {unit addr count} : OutUpholds s₀ (execReadData unit addr count s) := by
  unfold Machine.execReadData
  exact h.dbgCmd fun _ h => h.debugEcc.readyValues

theorem Upholds.execReadReg (h : Upholds s₀ s) {unit addr count} : OutUpholds s₀ (execReadReg unit addr count s) := by
  unfold Machine.execReadReg
  exact h.dbgCmd fun _ h => h.readyValues

theorem Upholds.execReadProg (h : Upholds s₀ s) {unit addr count} : OutUpholds s₀ (execReadProg unit addr count s) := by
  unfold Machine.execReadProg
  exact h.dbgCmd fun _ h => h.debugEcc.readyValues

theorem Upholds.execReadDls (h : Upholds s₀ s) {unit addr count} : OutUpholds s₀ (execReadDls unit addr count s) := by
  unfold Machine.execReadDls
  exact h.dbgCmd fun _ h => h.setDebug.queueShared

theorem Upholds.openWrite (h : Upholds s₀ s) {op unit addr count} : Upholds s₀ (openWrite s op unit addr count) := h.setDebug

theorem Upholds.execWriteData (h : Upholds s₀ s) {unit addr count} : OutUpholds s₀ (execWriteData unit addr count s) := by
  unfold Machine.execWriteData
  exact h.dbgCmd fun _ h => h.openWrite

theorem Upholds.execWriteReg (h : Upholds s₀ s) {unit addr count} : OutUpholds s₀ (execWriteReg unit addr count s) := by
  unfold Machine.execWriteReg
  exact h.dbgCmd fun _ h => h.openWrite

theorem Upholds.execWriteDls (h : Upholds s₀ s) {unit addr count} : OutUpholds s₀ (execWriteDls unit addr count s) := by
  unfold Machine.execWriteDls
  exact h.dbgCmd fun _ h => h.openWrite

theorem Upholds.nextTransfer (h : Upholds s₀ s) {x} : Upholds s₀ (nextTransfer s x) := h.setDebug

theorem CtxOk.writeRegValue {c : Ctx} (hc : CtxOk s₀ c) {code l} : CtxOk s₀ (writeRegValue c code l) :=
  .ite hc.wW (.ite hc.setAc (.ite hc.setProd (.ite hc.setTap (.ite hc hc))))

theorem Upholds.takeValue (h : Upholds s₀ s) {x data} : Upholds s₀ (takeValue s x data) := by
  unfold Machine.takeValue
  dsimp only
  split
  · exact .ite h.nextTransfer.storeWord h.nextTransfer.setError
  · exact .ite h.nextTransfer (.ite h.nextTransfer.setError (.ite h.nextTransfer.setError
      (h.nextTransfer.modEng fun _ he => he.setCtx he.ctx.writeRegValue)))
  · exact .ite h.setError h.nextTransfer.queueShared

theorem Upholds.execDbgData (h : Upholds s₀ s) {valid data} : OutUpholds s₀ (execDbgData valid data s) := by
  unfold Machine.execDbgData
  dsimp only
  split
  · exact .ok h.selectIr.setDebug
  · refine .ite (.ite (.ok h.selectIr.takeValue) (.ok h.selectIr)) ?_
    split
    · exact .ok h.selectIr.setDebug
    · exact .ok h.selectIr.setDebug

theorem Upholds.cancelInjections (h : Upholds s₀ s) : Upholds s₀ (cancelInjections s) := h.beside

theorem Upholds.enableInject (h : Upholds s₀ s) {on} : Upholds s₀ (enableInject s on) := .ite h.beside h.beside.cancelInjections

theorem Upholds.execInjectEnable (h : Upholds s₀ s) {r v} : OutUpholds s₀ (execInjectEnable r v s) :=
  .ok (h.writeCmd fun _ h => .ok h.enableInject)

theorem Upholds.execInjectLapse (h : Upholds s₀ s) : OutUpholds s₀ (execInjectLapse s) := .ite (.ok h.enableInject) (.ok h)

theorem Upholds.execCancelAll (h : Upholds s₀ s) {r v} : OutUpholds s₀ (execCancelAll r v s) :=
  .ok (h.writeCmd fun _ h => .ok (.ite h.cancelInjections h))

theorem Upholds.setInj (h : Upholds s₀ s) {code v} : Upholds s₀ (setInj s code v) := h.beside

theorem Upholds.injectBody (h : Upholds s₀ s) {code periodic reserved unit arg period count} :
    OkUpholds s₀ (injectBody s code periodic reserved unit arg period count) :=
  .ite .error (.ite .error (.ite .error (.ite .error (.ok h.setInj))))

theorem Upholds.injectCmd (h : Upholds s₀ s) {r code body} (hb : ∀ v, Upholds s₀ v → OkUpholds s₀ (body v)) :
    Upholds s₀ (injectCmd s r code body) := .ite (h.writeCmd hb) (h.runRequest fun _ h => .ok h)

theorem Upholds.execOneShot (h : Upholds s₀ s) {r code reserved unit arg period count} :
    OutUpholds s₀ (execOneShot r code reserved unit arg period count s) :=
  .ok (h.injectCmd fun _ h => h.injectBody)

theorem Upholds.execPeriodic (h : Upholds s₀ s) {r code reserved unit arg period count} :
    OutUpholds s₀ (execPeriodic r code reserved unit arg period count s) :=
  .ok (h.injectCmd fun _ h => h.injectBody)

theorem Upholds.cancelInjection (h : Upholds s₀ s) {code} : OkUpholds s₀ (cancelInjection s code) := .ite (.ok h.setInj) .error

theorem Upholds.execInjectCancel (h : Upholds s₀ s) {r code} : OutUpholds s₀ (execInjectCancel r code s) :=
  .ok (h.injectCmd fun _ h => h.cancelInjection)

theorem Upholds.freeNat (h : Upholds s₀ s) {n} : Upholds s₀ (freeNat s n).2 := h.draw

theorem Upholds.injectSide (h : Upholds s₀ s) {b} : Upholds s₀ (injectSide s b).2 := by
  unfold Machine.injectSide
  dsimp only
  split
  · exact h.freeNat (n := 2)
  · exact h

theorem Upholds.injectDir (h : Upholds s₀ s) {p} : Upholds s₀ (injectDir s p).2 := by
  unfold Machine.injectDir
  dsimp only
  split
  · exact h.freeNat
  · split
    · exact h
    · split
      · exact h.freeNat
      · exact h

theorem Upholds.repeatOut (h : Upholds s₀ s) {p} : Upholds s₀ (repeatOut s p) := by
  unfold Machine.repeatOut
  dsimp only
  split
  · exact h
  · exact h.setPort

theorem Upholds.injectUnderrun (h : Upholds s₀ s) {p dir} : Upholds s₀ (injectUnderrun s p dir) :=
  .ite h.repeatOut.portCount.detectAs.bufferOff (.ite h.portCount.detectAs.bufferOff h.underrunIn)

theorem Upholds.injectOverrun (h : Upholds s₀ s) {p dir} : Upholds s₀ (injectOverrun s p dir) := h.setPort.overrun

theorem Upholds.injectEcc (h : Upholds s₀ s) {kind} : Upholds s₀ (injectEcc s kind) := by
  have hs := h.freeNat (n := 2 ^ 29)
  exact .ite (hs.eccDetect.modEng fun _ he => he.beside) hs.eccDetect

theorem Upholds.injectFrameErr (h : Upholds s₀ s) {p} : Upholds s₀ (injectFrameErr s p) :=
  .ite h.setPort.clockLost (.ite ((Upholds.ite h.setPort.portCount h.setPort).detectAs.injectUnderrun)
    ((Upholds.ite h.setPort.portCount h.setPort).detectAs))

theorem Upholds.injectZc (h : Upholds s₀ s) {p} : Upholds s₀ (injectZc s p) := by
  unfold Machine.injectZc
  dsimp only
  split
  · exact h.zcOut
  · exact h.zcOut
  · exact h.freeNat.setPort.detectAs

theorem Upholds.injectSegLost (h : Upholds s₀ s) {l} : Upholds s₀ (injectSegLost s l) := by
  unfold Machine.injectSegLost
  exact (h.freeNat (n := 60)).linkCount.detectAs.foldl fun _ _ h => .ite h.setLink.linkCount h

theorem Upholds.injectLinkDown (h : Upholds s₀ s) {l} : Upholds s₀ (injectLinkDown s l) :=
  (h.foldl fun _ _ h => .ite h.pathOut h).linkDown.detectAs

theorem Upholds.fireGenuine (h : Upholds s₀ s) {code unit arg} : Upholds s₀ (fireGenuine s code unit arg) := by
  unfold Machine.fireGenuine
  dsimp only
  split
  · exact h.refStop
  · exact h.disqualify
  · exact h.disqualify
  · exact h.draw.mcpllOut
  · exact h.ecpllLost
  · exact h.freeNat.eclkTripped
  · exact h.closeGate.setClocks.detectAs
  · exact h.scpllLost
  · exact h.todError
  · exact h.freeNat.eccDetect
  · exact h.injectEcc
  · exact h.freeNat.clockLost
  · exact h.alignFaults
  · exact h.injectDir.injectUnderrun
  · exact h.injectDir.injectOverrun
  · exact h.injectFrameErr
  · exact h.freeNat.portCount.detectAs
  · exact h.freeNat.setPort.portCount.detectAs
  · exact h.injectZc
  · exact h.injectSide.slip
  · exact h.injectSide.unlockSide
  · exact h.freeNat.losePath
  · exact h.injectLinkDown
  · exact h.losePath
  · exact h.injectSegLost
  · exact h.freeNat.authFail
  · exact h.draw.lockstepHit
  · exact h.freeNat.slackOut
  · exact h.tjWarn
  · exact h.modEng fun _ he => he.beside

theorem Upholds.fireSimulated (h : Upholds s₀ s) {code unit arg} : Upholds s₀ (fireSimulated s code unit arg) :=
  .ite h.detectAs h.draw.detectAs

theorem Upholds.useFiring (h : Upholds s₀ s) {code i} : Upholds s₀ (useFiring s code i) := by
  unfold Machine.useFiring
  dsimp only
  split
  · exact h.setInj
  · exact h.setInj

theorem Upholds.execInjectionFire (h : Upholds s₀ s) {code} : OutUpholds s₀ (execInjectionFire code s) := by
  unfold Machine.execInjectionFire
  dsimp only
  split
  · exact .ok h
  · exact .ite (.ok h) (.ite (.ok h.useFiring) (.ite (.ok h.useFiring.beside)
      (.ite (.ok h.useFiring.beside.suppress) (.ite (.ok h.useFiring.beside.fireSimulated) (.ok h.useFiring.beside.fireGenuine)))))

end Sys2Proof.Machine
end

section
/-! The words that move and multiply, the base period, replacement and the elements uphold. -/
namespace Sys2Proof.Machine

variable {s₀ s t : State}

theorem Upholds.loseFrame (h : Upholds s₀ s) {l} : Upholds s₀ (loseFrame s l) := h.foldl fun _ _ h => h.linkCount.detect

theorem Upholds.linkStops (h : Upholds s₀ s) {l} : Upholds s₀ (linkStops s l) :=
  .ite (h.setLink.foldl fun _ _ h => .ite h.refStop h) h.setLink

theorem Upholds.periodCounts (h : Upholds s₀ s) : Upholds s₀ (periodCounts s) := by
  unfold Machine.periodCounts
  refine .eachPort (.eachBridge (Upholds.foldl h.beside fun _ _ h => .setLink ?_))
  exact .ite (.loseSlots (.ite h.linkStops.loseFrame h.linkStops)) h.linkStops

theorem Upholds.execBasePeriodBoundary (h : Upholds s₀ s) : OutUpholds s₀ (execBasePeriodBoundary s) := by
  unfold Machine.execBasePeriodBoundary
  dsimp only
  refine .ite (.ok h) (.ok (.wakePorts (.eachEng (Upholds.foldl (.dropTails (.bufferWatch (.mcpllTick (.rootSteers (.ite ?_
    (.hearClaims (.joinsNow ?_))))))) fun _ _ h => h.settlePortB) fun _ he => .ite he he))) <;>
  refine .periodCounts (.applyStaged (.ppsOut (.endGap (.ite (.endLeases (.applyWhere ?_)) (.eachBridge ?_))))) <;>
  exact Upholds.foldl (.allStamps (.ite (.detect h.beside) h.beside)) fun _ _ h => h.lostForeign

theorem Upholds.readIdentity (h : Upholds s₀ s) : Upholds s₀ (readIdentity s).2 := h.beside

theorem Upholds.sendRecord (h : Upholds s₀ s) {l r} : Upholds s₀ (sendRecord s l r) := h.setLink

theorem Upholds.execConfigRecordSend (h : Upholds s₀ s) : OutUpholds s₀ (execConfigRecordSend s) :=
  .ite (.ok h) (.ok (h.foldl fun _ _ h => h.readIdentity.sendRecord))

theorem Upholds.execReplaceOffer (h : Upholds s₀ s) {l compat rightPosition serialLow} :
    OutUpholds s₀ (execReplaceOffer l compat rightPosition serialLow s) :=
  .ite (.ok h) (.ite (.ite (.ok h.draw.setGrove) (.ok h.setGrove)) (.ite (.ok h) (.ite (.ok h.setGrove) (.ok h.detect))))

theorem Upholds.execConfirm (h : Upholds s₀ s) {r device} : OutUpholds s₀ (execConfirm r device s) := by
  unfold Machine.execConfirm
  dsimp only
  refine .ok (h.writeCmd fun s h => .ite .error ?_)
  split
  · exact .error
  · exact .ok h.readIdentity.sendRecord.setGrove

theorem Upholds.followLinks (h : Upholds s₀ s) : Upholds s₀ (followLinks s) :=
  h.foldl fun _ _ h => h.foldl fun _ _ h => .ite h.startPath (.ite h.sendPath h)

theorem Upholds.takeIdentity (h : Upholds s₀ s) {r grove device} : Upholds s₀ (takeIdentity s r grove device) := by
  unfold Machine.takeIdentity
  dsimp only
  refine .freshGrove (.setPatrol (.followLinks (.useMgmt (.enablePorts (.steer (.setClocks (.applyConfig ?_)))))))
  split
  · exact h.storeKeys
  · exact h

theorem Upholds.execReplaceTransferDone (h : Upholds s₀ s) {good grove device} :
    OutUpholds s₀ (execReplaceTransferDone good grove device s) :=
  .ite (.ok h) (.ite (.ok h.takeIdentity.setGrove) (.ok h.setGrove))

theorem Upholds.setPowerCfg (h : Upholds s₀ s) {f} : Upholds s₀ (setPowerCfg s f) := h.beside

theorem Upholds.mgmtWrite (h : Upholds s₀ s) {r c} : OkUpholds s₀ (mgmtWrite s r c) := .ite .error (.ok h.later)

theorem Upholds.deviceSet (h : Upholds s₀ s) {r obj el v} : OkUpholds s₀ (deviceSet s r obj el v) := by
  unfold Machine.deviceSet
  dsimp only
  split
  · exact .ok h.setPowerCfg
  · exact .ok h.setPowerCfg
  · exact .ok h.beside
  · exact .ok (.ite h.beside h)
  · exact h.mgmtWrite
  · exact h.mgmtWrite
  · exact h.mgmtWrite
  · exact h.mgmtWrite
  · exact h.mgmtWrite
  · exact h.mgmtWrite
  · exact .ok (.ite h.beside h)
  · exact .ok h.setPowerCfg
  · exact .ok h.setPower
  · exact .ok h.setPowerCfg
  · exact .ok h

theorem Upholds.setClockCfg (h : Upholds s₀ s) {f} : Upholds s₀ (setClockCfg s f) := h.beside

theorem Upholds.seekAgain (h : Upholds s₀ s) : Upholds s₀ (seekAgain s) := h.foldl fun _ _ h => .ite h.setRefMon h

theorem Upholds.moveOrigins (h : Upholds s₀ s) {old} : Upholds s₀ (moveOrigins s old) := h.foldl fun _ _ h => .ite h h.setRefMon

theorem Upholds.clockSet (h : Upholds s₀ s) {obj el v} : OkUpholds s₀ (clockSet s obj el v) := by
  unfold Machine.clockSet
  dsimp only
  split
  · exact .ite .error (.ok h.setClocks)
  · exact .ok (.ite h.setClocks h)
  · exact .ok h.setClockCfg
  · exact .ok h.setClockCfg
  · exact .ite (.ok h) (.ok h.setRefMon.setClockCfg)
  · exact .ok (.ite h.setClocks h)
  · exact .ok h.setClockCfg
  · exact .ok (.ite h h.setClockCfg.reacquireRef)
  · exact .ok (.ite h h.setClockCfg.seekAgain)
  · exact .ok h.setClockCfg
  · exact .ok (.ite h h.setClockCfg.moveOrigins.reacquireRef)
  · exact .ok h.setClockCfg
  · exact .ok (.ite h h.setClockCfg.reacquireRef)
  · exact .ok h.setClockCfg
  · exact .ok h.setClockCfg
  · exact .ok (.ite h h.setClockCfg.reacquireRef)
  · exact .ok h.setClockCfg
  · exact .ok (.ite h h.setClockCfg.reacquireRef)
  · exact .ok (.ite h h.setClockCfg.reacquireRef)
  · exact .ok h.setClockCfg
  · exact .ok h.setClockCfg
  · exact .ok h.setClocks
  · exact .ok h.setClockCfg
  · exact .ok (.ite h.setClocks h)
  · exact .ok h.setClockCfg
  · exact .ok h.setClockCfg
  · exact .ok h.setClockCfg
  · exact .ok h.setClockCfg
  · exact .ok h.setClockCfg
  · exact .ok h

theorem Upholds.clockFinish (h : Upholds s₀ s) {obj old} : OkUpholds s₀ (clockFinish s obj old) :=
  .ite (.ite .error (.ok h.steerFrom)) (.ok h)

theorem Upholds.engineSet (h : Upholds s₀ s) {n off el v} : OkUpholds s₀ (engineSet s n off el v) := by
  unfold Machine.engineSet
  dsimp only
  split
  · exact .ok h.beside
  · exact .ok h.beside
  · exact .ok (.ite (h.modEng fun _ he => he.beside) h)
  · exact .ok h

theorem Upholds.modPortCfg (h : Upholds s₀ s) {p f} : Upholds s₀ (modPortCfg s p f) := h.setPortCfg

theorem Upholds.clearPort (h : Upholds s₀ s) {p} : Upholds s₀ (clearPort s p) := h.setPort

theorem Upholds.captureSet (h : Upholds s₀ s) {p el v} : Upholds s₀ (captureSet s p el v) := h.modPortCfg.setPort

theorem Upholds.sapSet (h : Upholds s₀ s) {p off el v} : OkUpholds s₀ (sapSet s p off el v) := by
  unfold Machine.sapSet
  dsimp only
  split
  · exact .ok h.modPortCfg
  · exact .ok h.modPortCfg
  · exact .ok h.modPortCfg
  · exact .ok h.modPortCfg
  · exact .ok h.modPortCfg
  · exact .ok h.modPortCfg
  · exact .ok h.modPortCfg
  · exact .ok h.modPortCfg
  · exact .ok h.modPortCfg
  · exact .ok h.modPortCfg
  · exact .ok h.modPortCfg
  · exact .ok h.modPortCfg
  · exact .ok h.modPortCfg
  · exact .ok h.modPortCfg
  · exact .ok h.modPortCfg
  · exact .ok h.modPortCfg
  · exact .ok h.modPortCfg
  · exact .ok (.ite h.clearPort h)
  · exact .ok h.modPortCfg
  · exact .ok h.modPortCfg
  · exact .ok h.modPortCfg
  · exact .ok h.captureSet
  · exact .ok h

theorem Upholds.aesSet (h : Upholds s₀ s) {p off el v} : OkUpholds s₀ (aesSet s p off el v) := by
  unfold Machine.aesSet
  dsimp only
  split
  · exact .ok h.modPortCfg
  · exact .ok h.modPortCfg
  · exact .ok h.modPortCfg
  · exact .ok h.modPortCfg
  · exact .ok h.modPortCfg
  · exact .ok h.modPortCfg
  · exact .ok h.modPortCfg
  · exact .ok h.modPortCfg
  · exact .ok h.modPortCfg
  · exact .ok h.modPortCfg
  · exact .ok h.modPortCfg
  · exact .ok (.ite h.clearPort h)
  · exact .ok h.modPortCfg
  · exact .ok h.modPortCfg
  · exact .ok h.modPortCfg
  · exact .ok h.modPortCfg
  · exact .ok h.modPortCfg
  · exact .ok h.modPortCfg
  · exact .ok h.captureSet
  · exact .ok h

theorem Upholds.captureFinish (h : Upholds s₀ s) {p} : OkUpholds s₀ (captureFinish s p) := .ite .error (.ite .error (.ite .error (.ok h)))

theorem Upholds.bridgeSet (h : Upholds s₀ s) {b off el v} : OkUpholds s₀ (bridgeSet s b off el v) := by
  unfold Machine.bridgeSet
  dsimp only
  split
  · exact .ok h.setRbCfg
  · exact .ok h.setRbCfg
  · exact .ok h.setRbCfg
  · exact .ok h.setRbCfg
  · exact .ok h.setRbCfg
  · exact .ok h.setRbCfg
  · exact .ok h.setRbCfg
  · exact .ok h.setRbCfg
  · exact .ok (.ite h.setBridge h)
  · exact .ok (.ite h.setBridge h)
  · exact .ok h

theorem Upholds.linkPaths (h : Upholds s₀ s) {l c} : OkUpholds s₀ (linkPaths s l c) :=
  .ite .error (.ok (h.setLinkCfg.foldl fun _ _ h => .ite (.ite h.startPath h) (.ite h h.sendPath)))

theorem Upholds.linkSet (h : Upholds s₀ s) {l off el v} : OkUpholds s₀ (linkSet s l off el v) := by
  unfold Machine.linkSet
  dsimp only
  split
  · exact h.linkPaths
  · exact h.linkPaths
  · exact .ok h.setLinkCfg
  · exact .ok h.setLinkCfg
  · exact .ok h.setLinkCfg
  · exact .ok h.setLinkCfg
  · exact .ok (.ite h.setLink h)
  · exact .ok (.ite h.setLink h)
  · exact .ok (.ite h.setLink h)
  · exact .ok h

theorem Upholds.prioritySet (h : Upholds s₀ s) {v} : Upholds s₀ (prioritySet s v) := .ite h.beside.setGrove h.beside.setGrove

theorem Upholds.groveSet (h : Upholds s₀ s) {obj el v} : OkUpholds s₀ (groveSet s obj el v) := by
  unfold Machine.groveSet
  split
  · exact .ok h.prioritySet
  · exact .ok (.ite h.setGrove h)
  · exact .ok h

theorem Upholds.memSet (h : Upholds s₀ s) {r obj el v} : OkUpholds s₀ (memSet s r obj el v) := by
  unfold Machine.memSet
  dsimp only
  split
  · exact .ok (.ite h.beside h)
  · exact .ok h.beside
  · exact .ok (.ite h.setPatrol h)
  · exact .ok (.ite (h.foldl fun _ _ h => h.markCross) h)
  · exact .ite (.ok (.ite h.markBank h)) (.ite (.ok h.queueCross) (.ok h))

theorem Upholds.eventSet (h : Upholds s₀ s) {k obj el v} : OkUpholds s₀ (eventSet s k obj el v) := by
  unfold Machine.eventSet
  dsimp only
  split
  · exact .ok h.setSession
  · exact .ok (.ite h.beside h)
  · exact .ok h.setSession
  · exact .ok (.ite h.beside h)
  · exact .ok h.beside
  · exact .ite (.ok (.ite h.beside h)) (.ok h)

theorem Upholds.pageSet (h : Upholds s₀ s) {n p el v} : OkUpholds s₀ (pageSet s n p el v) := by
  unfold Machine.pageSet
  dsimp only
  refine .ite ?_ (.ite .error (.ite (.ok (h.modPage fun _ hq => hq.beside)) (.ok (h.modPage fun _ hq => hq.beside))))
  split
  · exact .error
  · exact .ok h.shadowWrite

theorem Upholds.setElem (h : Upholds s₀ s) {r obj el v} : OkUpholds s₀ (setElem s r obj el v) :=
  .ite h.deviceSet (.ite h.clockSet (.ite h.engineSet (.ite h.sapSet (.ite h.aesSet
    (.ite h.bridgeSet (.ite h.linkSet (.ite h.groveSet (.ite h.memSet (.ite h.eventSet (.ite h.pageSet (.ok h)))))))))))

theorem Upholds.finishWrite (h : Upholds s₀ s) {obj old} : OkUpholds s₀ (finishWrite s obj old) :=
  .ite h.clockFinish (.ite h.captureFinish (.ite h.captureFinish (.ok h)))

theorem Upholds.execRead (h : Upholds s₀ s) {r obj elem count} : OutUpholds s₀ (execRead r obj elem count s) := by
  unfold Machine.execRead
  extract_lets o el k settled gate reach read
  have hsettled : Upholds s₀ settled := .ite h.settlePortB h
  have hread : Upholds s₀ read := .ite (hsettled.foldl fun u i h => by
    split
    · exact h.eccRead
    · exact h) hsettled
  refine .ok (hread.runRequest fun u h => ?_)
  extract_lets sensed values drawn
  have hsensed : Upholds s₀ sensed := .ite h.senseTj h
  exact .ok (.ite hsensed.beside.passPage hsensed.beside)

theorem OutUpholds.runs {f : State → Outc} (hf : OutUpholds s₀ (f s)) : Upholds s₀ (runs f s) := by
  obtain ⟨t, ht, hu⟩ := hf
  unfold Machine.runs
  rw [ht]
  exact hu

theorem Upholds.inBlock {r f} (hf : Upholds s₀ (f s)) : OkUpholds s₀ (inBlock s r f) := by
  unfold Machine.inBlock
  dsimp only
  split
  · exact .error
  · exact .ite .error (.ok hf.setSession.beside)

/-- A command that is written to an element upholds. -/
def CmdUpholds (s₀ : State) (x : Option Cmd) : Prop := ∀ f, x = some (.ok f) → ∀ u, Upholds s₀ u → Upholds s₀ (f u)

theorem CmdUpholds.none : CmdUpholds s₀ none := fun _ e => by cases e
theorem CmdUpholds.bad : CmdUpholds s₀ bad := fun _ e => by cases e
theorem CmdUpholds.ite {p : Prop} [Decidable p] {a b : Option Cmd} (ha : CmdUpholds s₀ a) (hb : CmdUpholds s₀ b) :
    CmdUpholds s₀ (if p then a else b) := by
  split <;> assumption
theorem CmdUpholds.of {f : State → State} (hf : ∀ u, Upholds s₀ u → Upholds s₀ (f u)) : CmdUpholds s₀ (some (.ok f)) :=
  fun _ e => by cases e; exact hf
theorem CmdUpholds.cmd {f : State → Outc} (hf : ∀ u, Upholds s₀ u → OutUpholds s₀ (f u)) : CmdUpholds s₀ (cmd f) :=
  .of fun _ h => (hf _ h).runs

theorem sysCmd_upholds {r obj el b} : CmdUpholds s₀ (sysCmd r obj el b) := by
  unfold sysCmd
  dsimp only
  split
  · exact .of fun _ h => h.powerReq
  · exact .of fun _ h => h.resetCmd
  · exact .of fun _ h => .ite h.saveCmd h.eraseCmd
  · exact .of fun _ h => h.closeSessionCmd
  · exact .of fun _ h => .ite h.activateCmd (.ite h.confirmCmd h.discardCmd)
  · exact .cmd fun _ h => h.execBaseRateArm
  · exact .ite .none (.of fun _ h => h.beside.execResearch.runs)
  · exact .cmd fun _ h => h.execPatrolEnable
  · exact .ite (.cmd fun _ h => h.execRestartPass) (.cmd fun _ h => h.execPatrolAbort)
  · exact .cmd fun _ h => h.execCollClear
  · exact .cmd fun _ h => h.execCrossAtomic
  · exact .ite (.cmd fun _ h => h.execDlsLeaseCancel) (.cmd fun _ h => h.execDlsLease)
  · exact .cmd fun _ h => h.execInjectEnable
  · exact .cmd fun _ h => h.execCancelAll
  · exact .of fun _ h => h.advanceCmd
  · exact .ite (.of fun _ h => h.keyInstallCmd) (.ite (.of fun _ h => h.keyDeleteCmd) .bad)
  · exact .none

theorem engineCmd_upholds {r n off el b} : CmdUpholds s₀ (engineCmd r n off el b) := by
  unfold engineCmd
  split
  · split
    · exact .cmd fun _ h => h.execEnterSapling
    · exact .cmd fun _ h => h.execStart
    · exact .cmd fun _ h => h.execExitSapling
    · exact .cmd fun _ h => h.execRelease
    · exact .cmd fun _ h => h.execHsr
  · exact .cmd fun _ h => h.execClearStandby
  · exact .cmd fun _ h => h.execOvfClear
  · exact .none

theorem portReq_upholds {r p b} : CmdUpholds s₀ (portReq r p b) := by
  unfold portReq
  dsimp only
  split
  · exact .cmd fun _ h => h.execPortStart
  · exact .cmd fun _ h => h.execPortStop
  · exact .cmd fun _ h => h.execMute
  · exact .cmd fun _ h => h.execUnmute
  · exact .cmd fun _ h => h.execGain
  · exact .cmd fun _ h => h.execPortCancel
  · exact .bad

theorem portCmd_upholds {r p off el b} : CmdUpholds s₀ (portCmd r p off el b) :=
  .ite (.cmd fun _ h => h.execPortEnable) (.ite portReq_upholds .none)

theorem groveCmd_upholds {r obj el b} : CmdUpholds s₀ (groveCmd r obj el b) := by
  unfold groveCmd
  split
  · split
    · exact .cmd fun _ h => h.execHandover
    · exact .cmd fun _ h => h.execRoundTrip
    · exact .cmd fun _ h => h.execDrillCancel
    · exact .bad
  · exact .cmd fun _ h => h.execGroveIdWrite
  · exact .cmd fun _ h => h.execGroveIdWrite
  · exact .cmd fun _ h => h.execAdopt
  · exact .cmd fun _ h => h.execConfirm
  · exact .none

theorem streamElemCmd_upholds {r e el b} : CmdUpholds s₀ (streamElemCmd r e el b) := by
  unfold streamElemCmd
  split
  · exact .cmd fun _ h => h.execSourceDef
  · exact .cmd fun _ h => h.execSubscribe
  · split
    · exact .cmd fun _ h => h.execStreamStart
    · exact .cmd fun _ h => h.execStreamStop
    · exact .cmd fun _ h => h.execStreamCancel
    · exact .bad
  · exact .cmd fun _ h => h.execStreamRelease
  · exact .none

theorem routeElemCmd_upholds {r e el b} : CmdUpholds s₀ (routeElemCmd r e el b) :=
  .ite .none (.ite .bad (.ite (.cmd fun _ h => h.execRouteAdd) (.ite .bad
    (.ite (.cmd fun _ h => h.execRouteRemove) (.ite (.cmd fun _ h => h.execRouteCancel) .bad)))))

theorem injectElemCmd_upholds {r code b} : CmdUpholds s₀ (injectElemCmd r code b) := by
  unfold injectElemCmd
  dsimp only
  split
  · exact .cmd fun _ h => h.execInjectCancel
  · exact .cmd fun _ h => h.execOneShot
  · exact .cmd fun _ h => h.execPeriodic
  · exact .of fun _ h => h.injectCmd fun _ _ => .error

theorem graftElemCmd_upholds {r b} : CmdUpholds s₀ (graftElemCmd r b) := by
  unfold graftElemCmd
  dsimp only
  split
  · exact .cmd fun _ h => h.execGraftArm
  · exact .cmd fun _ h => h.execGraftCancel
  · exact .cmd fun _ h => h.execAbortFinish
  · exact .cmd fun _ h => h.execAbortRevert
  · exact .bad

theorem groupElemCmd_upholds {r g el b} : CmdUpholds s₀ (groupElemCmd r g el b) := by
  refine .ite (.ite graftElemCmd_upholds .none) ?_
  split
  · exact .cmd fun _ h => h.execAddPage
  · exact .cmd fun _ h => h.execRemovePage
  · exact .cmd fun _ h => h.execScope
  · exact .cmd fun _ h => h.execArm
  · exact .cmd fun _ h => h.execCancel
  · exact .cmd fun _ h => h.execGroupRelease
  · exact .cmd fun _ h => h.execAddMember
  · exact .none

theorem pageElemCmd_upholds {r e p el b} : CmdUpholds s₀ (pageElemCmd r e p el b) :=
  .ite (.ite (.cmd fun _ h => h.execGlideAbortFinish) (.cmd fun _ h => h.execGlideAbortRevert))
    (.ite (.cmd fun _ h => h.execPageLevel) .none)

theorem elemCmd_upholds {r obj el b} : CmdUpholds s₀ (elemCmd r obj el b) :=
  .ite engineCmd_upholds (.ite portCmd_upholds (.ite portCmd_upholds
    (.ite (.ite (.cmd fun _ h => h.execRbEnable) .none) (.ite (.ite (.cmd fun _ h => h.execRetrain) .none)
      (.ite groveCmd_upholds (.ite injectElemCmd_upholds (.ite groupElemCmd_upholds (.ite pageElemCmd_upholds
        (.ite streamElemCmd_upholds (.ite routeElemCmd_upholds sysCmd_upholds))))))))))

theorem Upholds.putElem (h : Upholds s₀ s) {r obj el b} : OkUpholds s₀ (putElem s r obj el b) := by
  unfold Machine.putElem
  split
  · exact .error
  · next f e => exact Upholds.inBlock (elemCmd_upholds f e s h)
  · exact h.setElem

theorem Upholds.putAll (h : Upholds s₀ s) {r obj el data l} : OkUpholds s₀ (putAll r obj el data l s) := by
  induction l generalizing s with
  | nil => exact .ok h
  | cons i l ih =>
    unfold Machine.putAll
    split
    · exact .error
    · next e => exact ih (h.putElem _ e)

theorem Upholds.oneEpoch {keep} (h : Upholds s₀ t) : Upholds s₀ (oneEpoch s t keep) := .ite (.ite h.beside h.beside) h

theorem Upholds.putBlock (h : Upholds s₀ s) {r obj el n data} : OkUpholds s₀ (putBlock s r obj el n data) := by
  unfold Machine.putBlock
  split
  · exact .error
  · next t ht =>
    split
    · exact .error
    · next u hu => exact .ok ((h.putAll t ht).finishWrite u hu).oneEpoch

theorem Upholds.execWrite (h : Upholds s₀ s) {r obj elem count data} : OutUpholds s₀ (execWrite r obj elem count data s) := by
  unfold Machine.execWrite
  dsimp only
  split
  · next f e =>
    refine .ok (.afterReply ?_)
    split at e
    · split at e
      · next he => exact Option.some.inj e ▸ elemCmd_upholds _ he s h
      · cases e
    · cases e
  · refine .ok (.afterReply (h.runRequest fun u hu => ?_))
    split
    · exact .error
    · next t e => exact .ok (hu.putBlock t e)

theorem Upholds.setTransfer (h : Upholds s₀ s) {k t} : Upholds s₀ (setTransfer s k t) := h.setSession

theorem Upholds.touchTransfer (h : Upholds s₀ s) {r obj el} : Upholds s₀ (touchTransfer s r obj el) := by
  unfold Machine.touchTransfer
  split
  · exact .ite h.setTransfer h
  · exact h

theorem Upholds.execDomainOpen (h : Upholds s₀ s) {r obj elem total digest} : OutUpholds s₀ (execDomainOpen r obj elem total digest s) :=
  .ok (h.runRequest fun _ h => .ite .error (.ite .error (.ok h.setTransfer)))

theorem Upholds.execDomainData (h : Upholds s₀ s) {r obj elem offset data} : OutUpholds s₀ (execDomainData r obj elem offset data s) := by
  unfold Machine.execDomainData
  dsimp only
  refine .ok (.touchTransfer (h.runRequest fun s h => ?_))
  split
  · exact .error
  · exact .ite .error (.ok h.setTransfer)

theorem Upholds.landDomain (h : Upholds s₀ s) {obj image} : OkUpholds s₀ (landDomain s obj image) := .ite h.beginFwWrite h.closeImage

theorem Upholds.execDomainClose (h : Upholds s₀ s) {r obj elem} : OutUpholds s₀ (execDomainClose r obj elem s) := by
  unfold Machine.execDomainClose
  dsimp only
  refine .ok (.ite (.setTransfer (h.noteRefusal.runRequest fun s h => ?_)) (.touchTransfer (h.noteRefusal.runRequest fun s h => ?_)))
  · split
    · exact .error
    · refine .ite .error (.ite .error ?_)
      split
      · exact .error
      · next s' e =>
        exact .ok ((h.landDomain s' e).setTransfer)
  · split
    · exact .error
    · refine .ite .error (.ite .error ?_)
      split
      · exact .error
      · next s' e =>
        exact .ok ((h.landDomain s' e).setTransfer)

theorem Upholds.execDomainRead (h : Upholds s₀ s) {r obj elem _offset _length} :
    OutUpholds s₀ (execDomainRead r obj elem _offset _length s) :=
  .ok (h.runRequest fun _ _ => .error)

theorem Upholds.execDomainIdleTimeout (h : Upholds s₀ s) {sess} : OutUpholds s₀ (execDomainIdleTimeout sess s) := .ok (.ite h.setTransfer h)

end Sys2Proof.Machine
end

section
/-! Every command and every step upholds. -/
namespace Sys2Proof.Machine

variable {s₀ s t : State}

/-- Every command upholds. The words named have a sequencing of their own; every other one has an effect. -/
theorem Upholds.exec (h : Upholds s₀ s) {i} : OutUpholds s₀ (exec i s) := by
  cases i with
  | endFrame => exact h.execEndFrame
  | halt => exact h.execHalt
  | rpt => exact h.execRpt
  | rptx => exact h.execRptx
  | blk => exact h.execBlk
  | immExt => exact h.execImmExt
  | call => exact h.execCall
  | ret => exact h.execRet
  | callm => exact h.execCallm
  | retm => exact h.execRetm
  | br => exact h.execBr
  | brc => exact h.execBrc
  | resultLand => exact h.execResultLand
  | frameBoundary => exact h.execFrameBoundary
  | frameEnd => exact h.execFrameEnd
  | scheduleLock => exact h.execScheduleLock
  | hostServiceInterrupt => exact h.execHostServiceInterrupt
  | debugBreakTaken => exact h.execDebugBreakTaken
  | basePeriodBoundary => exact h.execBasePeriodBoundary
  | routerWindow => exact h.execRouterWindow
  | baseRateArm => exact h.execBaseRateArm
  | refEdge => exact h.execRefEdge
  | refStopped => exact h.execRefStopped
  | refQualified => exact h.execRefQualified
  | mcpllLocked => exact h.execMcpllLocked
  | mcpllUnlock => exact h.execMcpllUnlock
  | todMessage => exact h.execTodMessage
  | syncIn => exact h.execSyncIn
  | ecpllLoss => exact h.execEcpllLoss
  | eclkTrip => exact h.execEclkTrip
  | ecpllFallback => exact h.execEcpllFallback
  | ecpllLock => exact h.execEcpllLock
  | eclkRestored => exact h.execEclkRestored
  | ecpllCeilingRecal => exact h.execEcpllCeilingRecal
  | ecpllBandStore => exact h.execEcpllBandStore
  | research => exact h.execResearch
  | eclkGapSubstitute => exact h.execEclkGapSubstitute
  | xoLost => exact h.execXoLost
  | scpllUnlock => exact h.execScpllUnlock
  | lkpllUnlock => exact h.execLkpllUnlock
  | enterSapling => exact h.execEnterSapling
  | start => exact h.execStart
  | exitSapling => exact h.execExitSapling
  | release => exact h.execRelease
  | hsr => exact h.execHsr
  | imageLoad => exact h.execImageLoad
  | loadComplete => exact h.execLoadComplete
  | clearStandby => exact h.execClearStandby
  | ovfClear => exact h.execOvfClear
  | routeAdd => exact h.execRouteAdd
  | routeRemove => exact h.execRouteRemove
  | routeCancel => exact h.execRouteCancel
  | dlsLease => exact h.execDlsLease
  | dlsLeaseCancel => exact h.execDlsLeaseCancel
  | zeroFillComplete => exact h.execZeroFillComplete
  | sharedSlotAccess => exact h.execSharedSlotAccess
  | portBAccess => exact h.execPortBAccess
  | crossAtomic _ _ _ _ _ sameCycle => exact h.execCrossAtomic (_sameCycle := sameCycle)
  | collClear => exact h.execCollClear
  | patrolRegionStart => exact h.execPatrolRegionStart
  | patrolRedirect => exact h.execPatrolRedirect
  | patrolTestDone => exact h.execPatrolTestDone
  | patrolRelease => exact h.execPatrolRelease
  | restartPass => exact h.execRestartPass
  | patrolAbort => exact h.execPatrolAbort
  | patrolEnable => exact h.execPatrolEnable
  | pageWrite => exact h.execPageWrite
  | pageLevel => exact h.execPageLevel
  | levellingComplete => exact h.execLevellingComplete
  | glideAbortFinish => exact h.execGlideAbortFinish
  | glideAbortRevert => exact h.execGlideAbortRevert
  | glideAbortEffect => exact h.execGlideAbortEffect
  | glideComplete => exact h.execGlideComplete
  | addPage => exact h.execAddPage
  | removePage => exact h.execRemovePage
  | scope => exact h.execScope
  | addMember => exact h.execAddMember
  | arm => exact h.execArm
  | cancel => exact h.execCancel
  | groupRelease => exact h.execGroupRelease
  | graftArm => exact h.execGraftArm
  | graftCancel _ _ _ group fade _ => exact h.execGraftCancel (_group := group) (_fade := fade)
  | abortFinish _ _ _ group fade _ => exact h.execAbortFinish (_group := group) (_fade := fade)
  | abortRevert _ _ _ group fade _ => exact h.execAbortRevert (_group := group) (_fade := fade)
  | graftAbortEffect => exact h.execGraftAbortEffect
  | fadeComplete => exact h.execFadeComplete
  | prepare _ msgId _ _ _ => exact h.execPrepare (_msgId := msgId)
  | prepAck => exact h.execPrepAck
  | ackDeadline => exact h.execAckDeadline
  | portEnable => exact h.execPortEnable
  | portInboundFrame => exact h.execPortInboundFrame
  | portOutboundFrame => exact h.execPortOutboundFrame
  | portQualified => exact h.execPortQualified
  | portAlign _ edgeIn edgeOut fill spread =>
    exact h.execPortAlign (_edgeIn := edgeIn) (_edgeOut := edgeOut) (_fill := fill) (_spread := spread)
  | groupAlignTimeout => exact h.execGroupAlignTimeout
  | alignRecheck _ ok => exact h.execAlignRecheck (_ok := ok)
  | portClockLost => exact h.execPortClockLost
  | aesRxLock => exact h.execAesRxLock
  | aesBlockCapture => exact h.execAesBlockCapture
  | aesTxUpdate => exact h.execAesTxUpdate
  | portStart => exact h.execPortStart
  | portStop => exact h.execPortStop
  | mute => exact h.execMute
  | unmute => exact h.execUnmute
  | gain => exact h.execGain
  | portCancel => exact h.execPortCancel
  | zeroCrossing => exact h.execZeroCrossing
  | zcTimeout => exact h.execZcTimeout
  | portRampEnd => exact h.execPortRampEnd
  | captureBindingApply => exact h.execCaptureBindingApply
  | rbEnable => exact h.execRbEnable
  | bridgeLocked _ _ ratio _ => exact h.execBridgeLocked (_ratio := ratio)
  | bridgeSlip => exact h.execBridgeSlip
  | bridgeUnlock => exact h.execBridgeUnlock
  | linkFrameSend => exact h.execLinkFrameSend
  | linkFrameReceive => exact h.execLinkFrameReceive
  | messageReassemblyTimeout => exact h.execMessageReassemblyTimeout
  | cdrLock => exact h.execCdrLock
  | blockLock => exact h.execBlockLock
  | adaptDone => exact h.execAdaptDone
  | frameLock => exact h.execFrameLock
  | measureDone => exact h.execMeasureDone
  | trainingTimeout => exact h.execTrainingTimeout
  | pathDown => exact h.execPathDown
  | delayFaultClear => exact h.execDelayFaultClear
  | retrain => exact h.execRetrain
  | linkRateChange => exact h.execLinkRateChange
  | linkJoin => exact h.execLinkJoin
  | joinReauth => exact h.execJoinReauth
  | groveIdWrite => exact h.execGroveIdWrite
  | rootLost => exact h.execRootLost
  | rootIncumbency => exact h.execRootIncumbency
  | handover _ _ dwell _ => exact h.execHandover (_dwell := dwell)
  | roundTrip => exact h.execRoundTrip
  | drillCancel _ _ dwell _ => exact h.execDrillCancel (_dwell := dwell)
  | drillDwellEnd => exact h.execDrillDwellEnd
  | drillNoTakeover => exact h.execDrillNoTakeover
  | linkStateRecord => exact h.execLinkStateRecord
  | epochAnnounce => exact h.execEpochAnnounce
  | epochAdvance => exact h.execEpochAdvance
  | adopt => exact h.execAdopt
  | adoptEffect => exact h.execAdoptEffect
  | timeStep => exact h.execTimeStep
  | sourceDef => exact h.execSourceDef
  | subscribe => exact h.execSubscribe
  | subscribeResult => exact h.execSubscribeResult
  | streamStart => exact h.execStreamStart
  | streamStop => exact h.execStreamStop
  | streamCancel => exact h.execStreamCancel
  | streamRelease => exact h.execStreamRelease
  | reroute => exact h.execReroute
  | playoutBankFree => exact h.execPlayoutBankFree
  | configRecordSend => exact h.execConfigRecordSend
  | replaceOffer => exact h.execReplaceOffer
  | confirm => exact h.execConfirm
  | replaceTransferDone => exact h.execReplaceTransferDone
  | request => exact h.execRequest
  | read => exact h.execRead
  | write => exact h.execWrite
  | domainOpen => exact h.execDomainOpen
  | domainData => exact h.execDomainData
  | domainClose => exact h.execDomainClose
  | domainRead _ _ _ offset length => exact h.execDomainRead (_offset := offset) (_length := length)
  | domainIdleTimeout => exact h.execDomainIdleTimeout
  | hello => exact h.execHello
  | prove => exact h.execProve
  | proveTimeout => exact h.execProveTimeout
  | lockoutEnd => exact h.execLockoutEnd
  | bye => exact h.execBye
  | sessionIdleTimeout => exact h.execSessionIdleTimeout
  | sessionsClose => exact h.execSessionsClose
  | relayLapse => exact h.execRelayLapse
  | udpDatagram => exact h.execUdpDatagram
  | put => exact h.execPut
  | get => exact h.execGet
  | status => exact h.execStatus
  | eventRaise => exact h.execEventRaise
  | eventRateLimitEnd => exact h.execEventRateLimitEnd
  | eventPush => exact h.execEventPush
  | eventLogRead => exact h.execEventLogRead
  | save => exact h.execSave
  | saveComplete => exact h.execSaveComplete
  | eraseStore => exact h.execEraseStore
  | keyInstall => exact h.execKeyInstall
  | keyDelete => exact h.execKeyDelete
  | quiet => exact h.execQuiet
  | run => exact h.execRun
  | dormant => exact h.execDormant
  | powerTransition => exact h.execPowerTransition
  | wakePin => exact h.execWakePin
  | wakeComplete => exact h.execWakeComplete
  | reset => exact h.execReset
  | por => exact h.execPor
  | brownout => exact h.execBrownout
  | resetN => exact h.execResetN
  | boot => exact h.execBoot
  | vcoreRaise => exact h.execVcoreRaise
  | vcoreLower => exact h.execVcoreLower
  | slackLimit => exact h.execSlackLimit
  | fwImageWrite => exact h.execFwImageWrite
  | fwWriteComplete => exact h.execFwWriteComplete
  | activate => exact h.execActivate
  | fwConfirm => exact h.execFwConfirm
  | discard => exact h.execDiscard
  | trialTimeout => exact h.execTrialTimeout
  | advance => exact h.execAdvance
  | tamper => exact h.execTamper
  | vmonTrip => exact h.execVmonTrip
  | cmonTrip => exact h.execCmonTrip
  | tmonTrip => exact h.execTmonTrip
  | tjWarning => exact h.execTjWarning
  | lockstep => exact h.execLockstep
  | ccRestart => exact h.execCcRestart
  | breakEng _ _ count => exact h.execBreakEng (_count := count)
  | step _ _ count => exact h.execStep (_count := count)
  | resume _ _ count => exact h.execResume (_count := count)
  | setBreak _ _ count => exact h.execSetBreak (_count := count)
  | readData => exact h.execReadData
  | writeData => exact h.execWriteData
  | readReg => exact h.execReadReg
  | writeReg => exact h.execWriteReg
  | readProg => exact h.execReadProg
  | readDls => exact h.execReadDls
  | writeDls => exact h.execWriteDls
  | dbgData => exact h.execDbgData
  | dbgChallenge => exact h.execDbgChallenge
  | dbgResponse => exact h.execDbgResponse
  | extest => exact h.execExtest
  | idcode => exact h.execIdcode
  | samplePreload => exact h.execSamplePreload
  | clamp => exact h.execClamp
  | bypass => exact h.execBypass
  | injectEnable => exact h.execInjectEnable
  | injectLapse => exact h.execInjectLapse
  | oneShot => exact h.execOneShot
  | periodic => exact h.execPeriodic
  | injectCancel => exact h.execInjectCancel
  | cancelAll => exact h.execCancelAll
  | injectionFire => exact h.execInjectionFire
  | scpllRelock => exact h.execScpllRelock
  | scpllRelockTimeout => exact h.execScpllRelockTimeout
  | lkpllRelock => exact h.execLkpllRelock
  | tjWarningRearm => exact h.execTjWarningRearm
  | trialDictionaryTimeout => exact h.execTrialDictionaryTimeout
  | dbgNonceReissue => exact h.execDbgNonceReissue
  | _ => exact .ok h.issueWord

theorem Upholds.dropHead (h : Upholds s₀ s) {i} : Upholds s₀ (dropHead s i) := by
  cases i <;> exact h.beside

theorem Upholds.refuseBody (h : Upholds s₀ s) {r body gate} : Upholds s₀ (refuseBody s r body gate) := by
  unfold Machine.refuseBody
  exact h.runRequest fun _ h => .ok h

theorem Upholds.runBody (h : Upholds s₀ s) {r body} : OutUpholds s₀ (runBody r body s) := by
  unfold Machine.runBody
  dsimp only
  split
  · exact .ite h.exec (.ok h.refuseBody)
  · exact h.exec
  · exact h.exec
  · exact h.exec
  · exact .ite h.exec (.ok h.refuseBody.touchTransfer)
  · exact h.exec

theorem Upholds.serve (h : Upholds s₀ s) {i r body} : OutUpholds s₀ (serve s i r body) := by
  unfold Machine.serve
  dsimp only
  refine .ite (.ok h.dropHead) ?_
  split
  · exact .ok h.dropHead.sendOn
  · split
    · exact .ok h.refuseBody
    · exact h.runBody

theorem Upholds.idle (h : Upholds s₀ s) : OutUpholds s₀ (idle s) := by
  unfold Machine.idle
  split
  · exact .ok h.beside.kmpIn
  · split
    · exact .ok h.timePasses
    · exact .ite (.ok h.timePasses) h.serve

/-- What is left after a step upholds of the state before it, but for the queue. -/
theorem step_upholds (ht : step s = .next t) : ∃ q, Upholds { s with pending := q } t := by
  unfold step at ht
  split at ht
  · obtain ⟨u, hu, h⟩ := (Upholds.refl s).idle
    exact ⟨s.pending, Host.Outcome.next.inj (hu.symm.trans ht) ▸ h⟩
  · next c rest _ =>
    obtain ⟨u, hu, h⟩ := (Upholds.refl { s with pending := rest }).exec (i := c)
    exact ⟨rest, Host.Outcome.next.inj (hu.symm.trans ht) ▸ h⟩

/-- Settles O60: every operation that a step is made of keeps each table that it writes canonical. -/
theorem canonKept : Obligations.CanonKept := fun _ _ hc ht =>
  let ⟨_, h⟩ := step_upholds ht
  h.canon hc

/-- Settles O59: fuses are written by a trip, CONFIRM and an advance of the life cycle, and nothing advances out of ENDED. -/
theorem fusesOnlyBurn : Obligations.FusesOnlyBurn := fun _ _ hs ht =>
  let ⟨_, h⟩ := step_upholds ht
  ⟨(h.tamper hs).1, (h.tamper hs).2, h.rollback, h.ended⟩

end Sys2Proof.Machine
end

section
/-! A slot of a delay line reads back what was written to it, and an atomic its new long. -/
namespace Sys2Proof.Machine

/-! ### Two words of a memory -/

/-- Two different words of a memory are written; every word then reads so. -/
theorem tget_tset_tset {m : Tbl Word} (hm : Tbl.wf 0 m = true) {a b : Nat} (hab : a ≠ b) (x y : Word) :
    tget 0 (tset 0 (tset 0 m a x) b y) a = x ∧ tget 0 (tset 0 (tset 0 m a x) b y) b = y ∧
      ∀ k, k ≠ a → k ≠ b → tget 0 (tset 0 (tset 0 m a x) b y) k = tget 0 m k := by
  refine ⟨?_, tget_tset_self y (tset_wf a x hm), fun k hka hkb => ?_⟩
  · rw [tget_tset_other 0 _ y hab, tget_tset_self x hm]
  · rw [tget_tset_other 0 _ y hkb, tget_tset_other 0 _ x hka]

/-! ### The bits of a sample -/

theorem getLsbD_bytes (a b : Byte) (i : Nat) : (a ++ b : Word).getLsbD i = if i < 8 then b.getLsbD i else a.getLsbD (i - 8) :=
  BitVec.getLsbD_append

theorem getLsbD_words (a b : Word) (i : Nat) : (a ++ b : Long).getLsbD i = if i < 16 then b.getLsbD i else a.getLsbD (i - 16) :=
  BitVec.getLsbD_append

theorem getLsbD_byte_word (a : Byte) (b : Word) (i : Nat) :
    (a ++ b : BitVec 24).getLsbD i = if i < 16 then b.getLsbD i else a.getLsbD (i - 16) :=
  BitVec.getLsbD_append

theorem getLsbD_sample (a : BitVec 24) (b : Byte) (i : Nat) :
    (a ++ b : Long).getLsbD i = if i < 8 then b.getLsbD i else a.getLsbD (i - 8) :=
  BitVec.getLsbD_append

theorem highByte_eq (x : Word) : x &&& 0xFF00 = x.extractLsb' 8 8 ++ 0#8 := by
  apply BitVec.eq_of_getLsbD_eq
  intro i hi
  rw [getLsbD_bytes]
  interval_cases i <;> simp

/-- Bits [31:8] of a sample, as two words; -/
theorem wordAndByte_eq (v : Long) : v.extractLsb' 16 16 ++ (v.extractLsb' 8 8 ++ 0#8) = v &&& 0xFFFFFF00 := by
  apply BitVec.eq_of_getLsbD_eq
  intro i hi
  rw [getLsbD_words, getLsbD_bytes]
  interval_cases i <;> simp

/-- and as an odd slot holds them. -/
theorem byteAndWord_eq (v : Long) : v.extractLsb' 24 8 ++ v.extractLsb' 8 16 ++ 0#8 = v &&& 0xFFFFFF00 := by
  apply BitVec.eq_of_getLsbD_eq
  intro i hi
  rw [getLsbD_sample, getLsbD_byte_word]
  interval_cases i <;> simp

/-! ### The forms of a slot -/

section
variable (m : Tbl Word) {d : Desc} {j : Nat} (v : Long)

theorem slotRead_wide (hd : d.packed3 = false) : slotRead m d j = tget 0 m (d.base + 2 * j) ++ tget 0 m (d.base + 2 * j + 1) := by
  simp [slotRead, hd]

theorem slotRead_even (hd : d.packed3 = true) (hj : j % 2 = 0) : slotRead m d j =
    tget 0 m (d.base + 3 * (j / 2)) ++ ((tget 0 m (d.base + 3 * (j / 2) + 1)).extractLsb' 8 8 ++ 0#8) := by
  rw [← highByte_eq]
  simp [slotRead, hd, hj]

theorem slotRead_odd (hd : d.packed3 = true) (hj : j % 2 = 1) : slotRead m d j =
    (tget 0 m (d.base + 3 * (j / 2) + 1)).extractLsb' 0 8 ++ tget 0 m (d.base + 3 * (j / 2) + 2) ++ 0#8 := by
  simp [slotRead, hd, hj]

theorem slotWrite_wide (hd : d.packed3 = false) : slotWrite m d j v =
    tset 0 (tset 0 m (d.base + 2 * j) (v.extractLsb' 16 16)) (d.base + 2 * j + 1) (v.extractLsb' 8 8 ++ 0#8) := by
  simp [slotWrite, hd]

theorem slotWrite_even (hd : d.packed3 = true) (hj : j % 2 = 0) : slotWrite m d j v =
    tset 0 (tset 0 m (d.base + 3 * (j / 2)) (v.extractLsb' 16 16)) (d.base + 3 * (j / 2) + 1)
      (v.extractLsb' 8 8 ++ (tget 0 m (d.base + 3 * (j / 2) + 1)).extractLsb' 0 8) := by
  simp [slotWrite, hd, hj]

theorem slotWrite_odd (hd : d.packed3 = true) (hj : j % 2 = 1) : slotWrite m d j v =
    tset 0 (tset 0 m (d.base + 3 * (j / 2) + 1) ((tget 0 m (d.base + 3 * (j / 2) + 1)).extractLsb' 8 8 ++ v.extractLsb' 24 8))
      (d.base + 3 * (j / 2) + 2) (v.extractLsb' 8 16) := by
  simp [slotWrite, hd, hj]

theorem slotWrite_wf (hm : Tbl.wf 0 m = true) : Tbl.wf 0 (slotWrite m d j v) = true := by
  unfold slotWrite
  dsimp only
  split
  · split <;> exact tset_wf _ _ (tset_wf _ _ hm)
  · exact tset_wf _ _ (tset_wf _ _ hm)

/-- A packed-3 slot returns bits [7:0] as 0 (R252). -/
theorem slotRead_low (hd : d.packed3 = true) : (slotRead m d j).extractLsb' 0 8 = 0 := by
  rcases Nat.mod_two_eq_zero_or_one j with hj | hj
  · rw [slotRead_even m hd hj]
    apply BitVec.eq_of_getLsbD_eq
    intro i hi
    have hi' : i < 16 := by omega
    rw [BitVec.getLsbD_extractLsb', getLsbD_words, getLsbD_bytes]
    simp [hi, hi']
  · rw [slotRead_odd m hd hj]
    exact BitVec.extractLsb'_append_eq_right

end

/-! ### What a slot and the other slots read after a write -/

section
variable {m : Tbl Word} (hm : Tbl.wf 0 m = true) {d : Desc} {j : Nat} (v : Long)
include hm

theorem slotRead_slotWrite_self : slotRead (slotWrite m d j v) d j = v &&& 0xFFFFFF00 := by
  cases hd : d.packed3
  · obtain ⟨h0, h1, -⟩ := tget_tset_tset hm (Nat.succ_ne_self (d.base + 2 * j)).symm (v.extractLsb' 16 16) (v.extractLsb' 8 8 ++ 0#8)
    rw [slotRead_wide _ hd, slotWrite_wide m v hd, h0, h1, wordAndByte_eq]
  · rcases Nat.mod_two_eq_zero_or_one j with hj | hj
    · obtain ⟨h0, h1, -⟩ := tget_tset_tset hm (Nat.succ_ne_self (d.base + 3 * (j / 2))).symm (v.extractLsb' 16 16)
        (v.extractLsb' 8 8 ++ (tget 0 m (d.base + 3 * (j / 2) + 1)).extractLsb' 0 8)
      rw [slotRead_even _ hd hj, slotWrite_even m v hd hj, h0, h1, BitVec.extractLsb'_append_eq_left, wordAndByte_eq]
    · obtain ⟨h1, h2, -⟩ := tget_tset_tset hm (Nat.succ_ne_self (d.base + 3 * (j / 2) + 1)).symm
        ((tget 0 m (d.base + 3 * (j / 2) + 1)).extractLsb' 8 8 ++ v.extractLsb' 24 8) (v.extractLsb' 8 16)
      rw [slotRead_odd _ hd hj, slotWrite_odd m v hd hj, h1, h2, BitVec.extractLsb'_append_eq_right, byteAndWord_eq]
/-- A write to an even slot leaves every word but its own, and the low byte of the word that it shares. -/
theorem slotWrite_even_keeps (hd : d.packed3 = true) (hj : j % 2 = 0) {k : Nat} (hk : k ≠ d.base + 3 * (j / 2)) :
    (k ≠ d.base + 3 * (j / 2) + 1 → tget 0 (slotWrite m d j v) k = tget 0 m k) ∧
      (tget 0 (slotWrite m d j v) k).extractLsb' 0 8 = (tget 0 m k).extractLsb' 0 8 := by
  obtain ⟨-, h1, ho⟩ := tget_tset_tset hm (Nat.succ_ne_self (d.base + 3 * (j / 2))).symm (v.extractLsb' 16 16)
    (v.extractLsb' 8 8 ++ (tget 0 m (d.base + 3 * (j / 2) + 1)).extractLsb' 0 8)
  rw [slotWrite_even m v hd hj]
  refine ⟨ho k hk, ?_⟩
  by_cases hk' : k = d.base + 3 * (j / 2) + 1
  · rw [hk', h1, BitVec.extractLsb'_append_eq_right]
  · rw [ho k hk hk']

/-- A write to an odd slot leaves every word but its own, and the high byte of the word that it shares. -/
theorem slotWrite_odd_keeps (hd : d.packed3 = true) (hj : j % 2 = 1) {k : Nat} (hk : k ≠ d.base + 3 * (j / 2) + 2) :
    (k ≠ d.base + 3 * (j / 2) + 1 → tget 0 (slotWrite m d j v) k = tget 0 m k) ∧
      (tget 0 (slotWrite m d j v) k).extractLsb' 8 8 = (tget 0 m k).extractLsb' 8 8 := by
  obtain ⟨h1, -, ho⟩ := tget_tset_tset hm (Nat.succ_ne_self (d.base + 3 * (j / 2) + 1)).symm
    ((tget 0 m (d.base + 3 * (j / 2) + 1)).extractLsb' 8 8 ++ v.extractLsb' 24 8) (v.extractLsb' 8 16)
  rw [slotWrite_odd m v hd hj]
  refine ⟨fun hk' => ho k hk' hk, ?_⟩
  by_cases hk' : k = d.base + 3 * (j / 2) + 1
  · rw [hk', h1, BitVec.extractLsb'_append_eq_left]
  · rw [ho k hk' hk]

theorem slotRead_slotWrite_other {i : Nat} (hi : i ≠ j) : slotRead (slotWrite m d j v) d i = slotRead m d i := by
  cases hd : d.packed3
  · obtain ⟨-, -, ho⟩ := tget_tset_tset hm (Nat.succ_ne_self (d.base + 2 * j)).symm (v.extractLsb' 16 16) (v.extractLsb' 8 8 ++ 0#8)
    rw [slotRead_wide _ hd, slotRead_wide _ hd, slotWrite_wide m v hd, ho _ (by omega) (by omega), ho _ (by omega) (by omega)]
  · rcases Nat.mod_two_eq_zero_or_one j with hj | hj <;> rcases Nat.mod_two_eq_zero_or_one i with hi' | hi'
    · rw [slotRead_even _ hd hi', slotRead_even _ hd hi', (slotWrite_even_keeps hm v hd hj (by omega)).1 (by omega),
        (slotWrite_even_keeps hm v hd hj (by omega)).1 (by omega)]
    · rw [slotRead_odd _ hd hi', slotRead_odd _ hd hi', (slotWrite_even_keeps hm v hd hj (by omega)).2,
        (slotWrite_even_keeps hm v hd hj (by omega)).1 (by omega)]
    · rw [slotRead_even _ hd hi', slotRead_even _ hd hi', (slotWrite_odd_keeps hm v hd hj (by omega)).2,
        (slotWrite_odd_keeps hm v hd hj (by omega)).1 (by omega)]
    · rw [slotRead_odd _ hd hi', slotRead_odd _ hd hi', (slotWrite_odd_keeps hm v hd hj (by omega)).1 (by omega),
        (slotWrite_odd_keeps hm v hd hj (by omega)).1 (by omega)]

end

/-! ### An atomic on the delay-line store -/

theorem Canon.banks {s : State} (h : Canon s) : Tbl.wf {} s.mem.banks = true := by
  obtain ⟨-, -, -, -, -, -, -, -, hb, -⟩ := h
  exact hb

theorem Canon.bank {s : State} (h : Canon s) (b : Nat) : Tbl.wf 0 (bank s b).mem = true := by
  obtain ⟨-, -, -, -, -, -, -, -, -, -, -, -, hb, -⟩ := h
  exact hb b

theorem applyAct_atomDls_mem {s : State} (hs : Canon s) {f : Flight} {swap : Bool} {b a t : Nat} {op : Long}
    (hf : f.act = .atomDls swap b a op t) (n : Nat) :
    let new := atomNew swap (tget 0 (bank s b).mem a ++ tget 0 (bank s b).mem (a + 1)) op
    (bank (applyAct s n f) b).mem = tset 0 (tset 0 (bank s b).mem a (new.extractLsb' 16 16)) (a + 1) (new.extractLsb' 0 16) := by
  unfold applyAct
  rw [hf]
  exact congrArg Bank.mem (bank_setBank_self b _ hs.banks)

/-- Settles O11: slots of a pair share one word, of which a write to either leaves the other's byte. -/
theorem delaySlotReadBack : Obligations.DelaySlotReadBack := by
  refine ⟨fun m d j v hm => ⟨fun hd => ?_, fun hd hj => ?_, fun hd hj => ?_, slotRead_slotWrite_self hm v,
    fun i => slotRead_slotWrite_other hm v, fun hd i => slotRead_low m hd, slotWrite_wf m v hm⟩, fun s n b a f op t swap hs hf => ?_⟩
  · rw [slotWrite_wide m v hd, if_neg (by simp [hd])]
    exact tget_tset_tset hm (Nat.succ_ne_self _).symm _ _
  · rw [slotWrite_even m v hd hj, if_pos hd]
    exact tget_tset_tset hm (Nat.succ_ne_self _).symm _ _
  · rw [slotWrite_odd m v hd hj, if_pos hd]
    exact tget_tset_tset hm (Nat.succ_ne_self _).symm _ _
  · dsimp only
    rw [applyAct_atomDls_mem hs hf]
    obtain ⟨h0, h1, ho⟩ := tget_tset_tset (hs.bank b) (Nat.succ_ne_self a).symm _ _
    exact ⟨by rw [h0, h1, BitVec.extractLsb'_append_extractLsb']; rfl, ho⟩

end Sys2Proof.Machine
end

section
/-! Leases of delay-line banks: the request becomes a pending action, a CANCEL takes it out, and a zero-fill completes (R249, R274). -/
namespace Sys2Proof.Machine

/-- A lease names a FREE bank and a release a leased one (R246). -/
theorem leaseMisfits_eq_false {kind : Byte} {k : Nat} (hk : kind = 0 ↔ k ≠ 0) : (decide (kind.toNat = 0) == decide (k = 0)) = false := by
  have hz : kind.toNat = 0 ↔ kind = 0 := BitVec.toNat_eq (y := 0).symm
  rw [beq_eq_false_iff_ne, ne_eq, decide_eq_decide, hz, hk]
  exact not_iff_self

section
variable {s : State} {r : Req} {b kind id flags : Byte} {t u : MT} (h : Served s r 0x1040 engineer)
include h

/-- R274: a lease or a release that every step passes is armed for its START. -/
theorem dlsLease_accepts {act : SchedAct}
    (hact : act = .lease b.toNat kind.toNat id.toNat (flags.getLsbD 0) (if u = MT.zero then none else some u))
    (hrange : leaseRange (taken s r) false b.toNat kind.toNat id.toNat flags.toNat t u = true) (htime : inTime (now s) t = true)
    (hkind : kind = 0 ↔ (bank (leasesBefore (taken s r) t) b.toNat).kind ≠ 0) (hfree : schedTaken s t act = false)
    (hfifth : kind = 1 → fifthBank (taken s r) t id.toNat act = false) (hroom : schedRoom s 1 = true) (hup : dormant s = false)
    (hneed : (bank (leasesBefore (taken s r) t) b.toNat).kind = 1 →
      ∀ i, bankIndex (eng (leasesBefore (taken s r) t) (bank (leasesBefore (taken s r) t) b.toNat).id) b.toNat = some i →
        bankNeeded (eng s (bank (leasesBefore (taken s r) t) b.toNat).id) i = false) :
    Accepts (.dlsLease r b kind id flags t u) s r (schedAdd (taken s r) t [act]) := by
  subst hact
  refine writeCmd_accepts rfl h rfl rfl ?_
  have hfour : (decide (kind.toNat = 1) && fifthBank (taken s r) t id.toNat
      (.lease b.toNat kind.toNat id.toNat (flags.getLsbD 0) (if u = MT.zero then none else some u))) = false := by
    by_cases h1 : kind.toNat = 1
    · rw [hfifth (BitVec.eq_of_toNat_eq h1), Bool.and_false]
    · rw [decide_eq_false h1, Bool.false_and]
  dsimp only
  simp only [hrange, taken_now, htime, leaseMisfits_eq_false hkind, taken_schedTaken, hfree, hfour, taken_schedRoom, hroom, taken_dormant, hup,
    Bool.not_true, Bool.or_false, Bool.false_or, Bool.false_eq_true, if_false]
  refine if_neg fun hheld => ?_
  rw [Bool.and_eq_true, decide_eq_true_eq] at hheld
  obtain ⟨hengine, hindex⟩ := hheld
  split at hindex
  · next i hi => exact Bool.false_ne_true ((hneed hengine i hi).symm.trans hindex)
  · exact Bool.false_ne_true hindex

/-- R71: CANCEL matches by bank and START alone. -/
theorem dlsLeaseCancel_accepts (hrange : leaseRange (taken s r) true b.toNat kind.toNat id.toNat flags.toNat t u = true)
    (htime : inTime (now s) t = true) (harmed : schedTaken s t (.lease b.toNat 0 0 false none) = true) :
    Accepts (.dlsLeaseCancel r b kind id flags t u) s r
      (schedDrop (taken s r) (fun x => decide (x.target = t) && sameItem x.act (.lease b.toNat 0 0 false none))) :=
  writeCmd_accepts rfl h rfl rfl (by
    simp only [hrange, taken_now, htime, taken_schedTaken, harmed, Bool.not_true, Bool.false_eq_true, if_false])

theorem dlsLeaseCancel_refuses (hrange : leaseRange (taken s r) true b.toNat kind.toNat id.toNat flags.toNat t u = true)
    (htime : inTime (now s) t = true) (hnone : schedTaken s t (.lease b.toNat 0 0 false none) = false) :
    Refuses (.dlsLeaseCancel r b kind id flags t u) s r eState :=
  writeCmd_refuses rfl h rfl rfl (by
    simp only [hrange, taken_now, htime, taken_schedTaken, hnone, Bool.not_true, Bool.not_false, Bool.false_eq_true, if_false, if_true])

end

/-- Settles O24, one answer at a time. -/
theorem leaseRequests : Obligations.LeaseRequests := fun _ _ _ _ _ _ _ _ =>
  ⟨fun h =>
    ⟨fun hrange htime hkind hfree hfifth hroom hup hneed => dlsLease_accepts h rfl hrange htime hkind hfree hfifth hroom hup hneed,
      fun hrange htime => ⟨dlsLeaseCancel_accepts h hrange htime, dlsLeaseCancel_refuses h hrange htime⟩⟩,
    fun _ => rfl⟩

end Sys2Proof.Machine
end

section
/-! The tables of banks and crossing blocks: what a write of what is there leaves, what a run of words reads as, and what a read of a
marked location leaves alone (R261). -/
namespace Sys2Proof.Machine

/-! ### Tables -/

section
variable {α : Type} [DecidableEq α] {d : α}

theorem tset_cons_of_lt {j k : Nat} (h : j < k) (u v : α) (m : Tbl α) : tset d ((j, u) :: m) k v = (j, u) :: tset d m k v := by
  have h1 : j ≠ k := Nat.ne_of_lt h
  have h2 : ¬ k < j := Nat.not_lt.mpr (Nat.le_of_lt h)
  simp only [tset, tdel, tput, h1, h2, if_false]
  split <;> rfl

/-- A write of what is there changes nothing. -/
theorem tset_tget {m : Tbl α} (hm : Tbl.wf d m = true) (k : Nat) : tset d m k (tget d m k) = m := by
  suffices h : ∀ a, Tbl.wfFrom d a m = true → tset d m k (tget d m k) = m from h 0 hm
  clear hm
  induction m with
  | nil => exact fun _ _ => if_pos rfl
  | cons p m ih =>
    obtain ⟨j, u⟩ := p
    intro a hw
    have hw' := hw
    simp only [Tbl.wfFrom, Bool.and_eq_true, decide_eq_true_eq] at hw'
    obtain ⟨⟨-, hu⟩, htail⟩ := hw'
    rcases Nat.lt_trichotomy k j with h | h | h
    · have hd : tget d ((j, u) :: m) k = d := tget_of_lt (Nat.lt_of_lt_of_le h (Nat.le_refl j))
        (by simp only [Tbl.wfFrom, Bool.and_eq_true, decide_eq_true_eq]; exact ⟨⟨Nat.le_refl j, hu⟩, htail⟩)
      rw [hd]
      simp [tset, tdel, h, Nat.ne_of_gt h]
    · subst h
      simp [tset, tget, tput, hu]
    · rw [tset_cons_of_lt h, tget, if_neg (Nat.ne_of_lt h), ih _ htail]

/-- A run of values reads back, and every other key as before. -/
theorem tget_tsetRun (l : List α) {m : Tbl α} (hm : Tbl.wf d m = true) (a k : Nat) :
    tget d (tsetRun d m a l) k = if a ≤ k ∧ k < a + l.length then l.getD (k - a) d else tget d m k := by
  induction l generalizing m a with
  | nil => exact (if_neg (by simp)).symm
  | cons v l ih =>
    rw [tsetRun, ih (tset_wf a v hm), tget_tset a k v hm, List.length_cons]
    rcases Nat.lt_trichotomy k a with h | h | h
    · rw [if_neg (by omega), if_neg (by omega), if_neg (by omega)]
    · rw [if_neg (by omega), if_pos h, if_pos (by omega), h, Nat.sub_self]; rfl
    · obtain ⟨i, rfl⟩ : ∃ i, k = a + 1 + i := ⟨k - (a + 1), by omega⟩
      have hi : a + 1 + i - a = i + 1 := by omega
      rw [Nat.add_sub_cancel_left, hi, List.getD_cons_succ, if_neg (show ¬ a + 1 + i = a by omega)]
      exact if_congr (by omega) rfl rfl

end

theorem satInc_ne (x : Long) : (satInc x).1 ≠ 0 := by
  unfold satInc
  split
  · decide
  · next h =>
    intro h0
    have h0' := congrArg BitVec.toNat h0
    rw [BitVec.toNat_add] at h0'
    have e1 : (1 : Long).toNat = 1 := rfl
    have e0 : (0 : Long).toNat = 0 := rfl
    omega

/-! ### Banks and crossing blocks -/

theorem Canon.cross {s : State} (h : Canon s) : Tbl.wf {} s.mem.cross = true := by
  obtain ⟨-, -, -, -, -, -, -, -, -, hx, -⟩ := h
  exact hx

theorem setBank_bank {s : State} (h : Tbl.wf {} s.mem.banks = true) (n : Nat) : setBank s n (bank s n) = s := by
  unfold setBank bank
  rw [tset_tget h]

theorem setCross_cross {s : State} (h : Tbl.wf {} s.mem.cross = true) (n : Nat) : setCross s n (cross s n) = s := by
  unfold setCross cross
  rw [tset_tget h]

/-! ### Marks -/

@[simp] theorem clearRows_banks (s : State) (b : Nat) (l : List Nat) : (clearRows s b l).mem.banks = s.mem.banks := by
  unfold clearRows
  exact foldl_keeps (·.mem.banks) (f := fun s w => clearMark s (dlsLoc (b * 0x80000 + w))) (fun _ _ => rfl) _ s

theorem eccRead_keeps {β : Type} {f : State → β} (hf : ∀ s bad loc, f (eccDetect s bad loc) = f s) (s : State) (l : Nat) :
    f (eccRead s l) = f s := by
  unfold eccRead
  split
  · rfl
  · exact hf ..
  · exact hf ..

section
variable (s : State) (l : Nat)

@[simp] theorem eccDetect_banks (bad : Bool) : (eccDetect s bad l).mem.banks = s.mem.banks := by unfold eccDetect; cases bad <;> simp
@[simp] theorem eccDetect_flash (bad : Bool) : (eccDetect s bad l).flash = s.flash := by unfold eccDetect; cases bad <;> simp

@[simp] theorem eccRead_banks : (eccRead s l).mem.banks = s.mem.banks := eccRead_keeps (f := (·.mem.banks)) (by simp) s l
@[simp] theorem eccRead_cross (k : Nat) : cross (eccRead s l) k = cross s k := by unfold cross; rw [cross_eccRead]

end

end Sys2Proof.Machine
end

section
/-! The shared slot of a bank: what waits, what is served, and what either leaves (R243 to R245, R261). -/
namespace Sys2Proof.Machine

/-! ### The requests that wait -/

section
variable {s : State} (hs : Tbl.wf {} s.mem.banks = true) (n : Nat)
include hs

theorem queueShared_nil : queueShared s n [] = s := by
  have h : queueShared s n [] = setBank s n (bank s n) := by simp [queueShared]
  rw [h, setBank_bank hs]

theorem bank_queueShared (l : List SharedReq) : bank (queueShared s n l) n = { bank s n with queue := (bank s n).queue ++ l } :=
  bank_setBank_self n _ hs

end

/-- The bank once every requester other than the one served has counted its wait (R245). -/
def waitersCounted (l : List SharedReq) (b : Bank) (ks : List Nat) : Bank :=
  ks.foldl (fun b k => if l.any (fun x => decide (x.who = k)) then waitCount b k else b) b

theorem waitersCounted_keeps (l : List SharedReq) (b : Bank) (ks : List Nat) :
    (waitersCounted l b ks).mem = b.mem ∧ (waitersCounted l b ks).kind = b.kind ∧ (waitersCounted l b ks).queue = b.queue := by
  induction ks generalizing b with
  | nil => exact ⟨rfl, rfl, rfl⟩
  | cons k ks ih =>
    unfold waitersCounted at ih ⊢
    rw [List.foldl_cons]
    split
    · exact ih (waitCount b k)
    · exact ih b

theorem waitCount_waits (b : Bank) (k i : Nat) :
    tget 0 (waitCount b k).waits i = if i = k then (satInc (tget 0 b.waits k)).1 else tget 0 b.waits i := by
  show tget 0 (tset 0 b.waits k (satInc (tget 0 b.waits k)).1) i = _
  by_cases h : i = k
  · rw [if_pos h, h, tget_tset_of_ne _ _ (satInc_ne _)]
  · rw [if_neg h, tget_tset_other _ _ _ h]

theorem waitersCounted_waits (l : List SharedReq) {ks : List Nat} (hks : ks.Nodup) (b : Bank) (i : Nat) :
    tget 0 (waitersCounted l b ks).waits i =
      if i ∈ ks ∧ l.any (fun x => decide (x.who = i)) = true then (satInc (tget 0 b.waits i)).1 else tget 0 b.waits i := by
  induction ks generalizing b with
  | nil => exact (if_neg fun h => nomatch h.1).symm
  | cons k ks ih =>
    obtain ⟨hk, hks⟩ := List.nodup_cons.mp hks
    have hb : tget 0 (if l.any (fun x => decide (x.who = k)) then waitCount b k else b).waits i =
        if i = k ∧ l.any (fun x => decide (x.who = i)) = true then (satInc (tget 0 b.waits i)).1 else tget 0 b.waits i := by
      split
      · rw [waitCount_waits]; grind
      · grind
    show tget 0 (waitersCounted l (if l.any (fun x => decide (x.who = k)) then waitCount b k else b) ks).waits i = _
    rw [ih hks, hb]
    by_cases hi : i = k
    · subst hi; simp [hk]
    · simp [hi]

/-! ### What is served -/

/-- The slot of bank `n` has served `q` in a state `s`, returning `out`; patrol alone may ask again at once (R264). -/
structure SlotServed (s : State) (n : Nat) (q : SharedReq) (out : Option (List Word)) (t : State) : Prop where
  out : tget none t.mem.sharedOut q.who = out
  bank : ∃ l, bank t n = { bank s n with queue := (Machine.bank s n).queue ++ l } ∧ (q.who ≠ 5 → l = [])
  others : ∀ m, m ≠ n → Machine.bank t m = Machine.bank s m

theorem slotServed_served {s : State} (hs : Tbl.wf {} s.mem.banks = true) (n : Nat) (q : SharedReq) (out : Option (List Word)) :
    SlotServed s n q out (slotServed s n q out) := by
  have hout : tget none (tput s.mem.sharedOut q.who out) q.who = out := tget_tput_self ..
  have hbank : ∃ l, Machine.bank s n = { Machine.bank s n with queue := (Machine.bank s n).queue ++ l } ∧ (q.who ≠ 5 → l = []) :=
    ⟨[], by simp, fun _ => rfl⟩
  unfold slotServed
  dsimp only
  split
  · exact ⟨hout, hbank, fun _ _ => rfl⟩
  · split
    · next h5 =>
      split
      · exact ⟨hout, ⟨_, bank_queueShared hs n _, fun h => absurd h5 h⟩, fun m hm => bank_setBank_ne _ _ hm⟩
      · exact ⟨hout, hbank, fun _ _ => rfl⟩
    · exact ⟨hout, hbank, fun _ _ => rfl⟩

theorem bank_congr {s u : State} (h : u.mem.banks = s.mem.banks) (n : Nat) : bank u n = bank s n := by
  unfold bank
  rw [h]

theorem setBank_banks_congr {s u : State} (h : u.mem.banks = s.mem.banks) (n : Nat) (v : Bank) :
    (setBank u n v).mem.banks = (setBank s n v).mem.banks := by
  unfold setBank
  rw [h]

/-- What a slot has served says nothing of the state before it but its banks. -/
theorem SlotServed.of_banks {s u t : State} {n : Nat} {q : SharedReq} {out : Option (List Word)} (h : SlotServed u n q out t)
    (hb : u.mem.banks = s.mem.banks) : SlotServed s n q out t := by
  have hbank := bank_congr hb
  exact ⟨h.out, hbank n ▸ h.bank, fun m hm => (h.others m hm).trans (hbank m)⟩

section
variable {s : State} (hs : Tbl.wf {} s.mem.banks = true) (n : Nat) (q : SharedReq)
include hs

/-- A read returns the words of its row, or none where the row is uncorrectable (R261). -/
theorem serveRead_served : SlotServed s n q (if rowBad s (n * 0x80000 + q.addr) then none
      else some ((List.range q.words).map fun i => tget 0 (bank s n).mem (q.addr + i))) (serveRead s n q) := by
  unfold serveRead
  extract_lets bad u
  have hu : u.mem.banks = s.mem.banks := by
    show (if q.who = 5 then s else eccRead s _).mem.banks = s.mem.banks
    split <;> simp
  rw [bank_congr hu n]
  exact (slotServed_served (hu ▸ hs) n q _).of_banks hu

/-- A write to a FREE bank. -/
theorem serveWrite_free (ws : List Word) (hk : (bank s n).kind = 0) :
    SlotServed (setBank s n { bank s n with mem := tsetRun 0 (bank s n).mem q.addr ws }) n q (some []) (serveWrite s n q ws) := by
  unfold serveWrite
  rw [if_pos hk]
  dsimp only
  have hu : (clearRows s n ((List.range ws.length).map (q.addr + ·))).mem.banks = s.mem.banks := clearRows_banks ..
  generalize clearRows s n ((List.range ws.length).map (q.addr + ·)) = u at hu
  rw [bank_congr hu n]
  exact (slotServed_served (tset_wf n _ (hu ▸ hs)) n q _).of_banks (setBank_banks_congr hu n _)

/-- A write to a leased bank reaches nothing (R243). -/
theorem serveWrite_leased (ws : List Word) (hk : (bank s n).kind ≠ 0) : SlotServed s n q none (serveWrite s n q ws) := by
  unfold serveWrite
  rw [if_neg hk]
  exact slotServed_served hs n q none

end

/-! ### The slot's access -/

/-- The state in which the slot serves its oldest request: that no longer waits, and the others have counted. -/
def slotTurn (s : State) (n : Nat) (l : List SharedReq) : State :=
  setBank s n (waitersCounted l { bank s n with queue := l } (List.range 7))

theorem bank_slotTurn {s : State} (hs : Tbl.wf {} s.mem.banks = true) (n : Nat) (l : List SharedReq) :
    bank (slotTurn s n l) n = waitersCounted l { bank s n with queue := l } (List.range 7) :=
  bank_setBank_self n _ hs

/-- The requests that have arrived since the last slot, as they wait (R244). -/
def arrivedRequests (x : SharedSlot) : List SharedReq := (x.arrivals.foldl (fun l y => insertArrival y l) []).map sharedReq

section
variable {s u : State} {x : SharedSlot} (hu : queueShared s x.bank.val (arrivedRequests x) = u)
include hu

theorem sharedSlot_idle (hq : (bank u x.bank.val).queue = []) : exec (.sharedSlotAccess x) s = .next u := by
  subst hu
  show execSharedSlotAccess x s = _
  unfold execSharedSlotAccess
  unfold arrivedRequests at hq ⊢
  dsimp only
  rw [hq]
  rfl

/-- The oldest request is served. -/
theorem sharedSlot_serves {q : SharedReq} {l : List SharedReq} (hq : (bank u x.bank.val).queue = q :: l) :
    exec (.sharedSlotAccess x) s =
      .next (q.write.elim (serveRead (slotTurn u x.bank.val l) x.bank.val q) (serveWrite (slotTurn u x.bank.val l) x.bank.val q)) := by
  subst hu
  show execSharedSlotAccess x s = _
  unfold execSharedSlotAccess
  unfold arrivedRequests at hq ⊢
  dsimp only
  rw [hq]
  dsimp only
  cases hw : q.write <;> rfl

end

/-- What a turn of the slot of bank `n` leaves, where `q` was served, `l` still waits, and the bank's memory is then `m`. -/
structure SlotEffect (s : State) (n : Nat) (q : SharedReq) (l : List SharedReq) (m : Tbl Word) (t : State) : Prop where
  queue : q.who ≠ 5 → (bank t n).queue = l
  waits : ∀ k < 7, tget 0 (bank t n).waits k =
    if l.any (fun y => decide (y.who = k)) then (satInc (tget 0 (bank s n).waits k)).1 else tget 0 (bank s n).waits k
  others : ∀ j, j ≠ n → bank t j = bank s j
  kind : (bank t n).kind = (bank s n).kind
  mem : (bank t n).mem = m

section
variable {s t : State} (hs : Tbl.wf {} s.mem.banks = true) {n : Nat} {q : SharedReq} {l : List SharedReq} {out : Option (List Word)}
include hs

theorem SlotServed.effect {m : Tbl Word}
    (h : SlotServed (setBank (slotTurn s n l) n { Machine.bank (slotTurn s n l) n with mem := m }) n q out t) : SlotEffect s n q l m t := by
  obtain ⟨-, ⟨l', hbank, hnone⟩, hothers⟩ := h
  obtain ⟨-, hkind, hqueue⟩ := waitersCounted_keeps l { Machine.bank s n with queue := l } (List.range 7)
  rw [bank_setBank_self n _ (tset_wf n _ hs), bank_slotTurn hs] at hbank
  refine ⟨fun h5 => ?_, fun k hk => ?_, fun j hj => ?_, ?_, ?_⟩
  · rw [hbank, hnone h5]
    exact (List.append_nil _).trans hqueue
  · rw [hbank]
    refine (waitersCounted_waits l List.nodup_range _ k).trans ?_
    simp only [List.mem_range, hk, true_and]
  · rw [hothers j hj, bank_setBank_ne _ _ hj]
    exact bank_setBank_ne _ _ hj
  · rw [hbank]
    exact hkind
  · rw [hbank]

theorem SlotServed.effect_mem (h : SlotServed (slotTurn s n l) n q out t) : SlotEffect s n q l (Machine.bank s n).mem t := by
  obtain ⟨hmem, -, -⟩ := waitersCounted_keeps l { Machine.bank s n with queue := l } (List.range 7)
  refine SlotServed.effect hs (out := out) ?_
  rw [← hmem, ← bank_slotTurn hs, setBank_bank (tset_wf n _ hs)]
  exact h

end

section
variable {s u : State} (hs : Tbl.wf {} u.mem.banks = true) {x : SharedSlot} (hu : queueShared s x.bank.val (arrivedRequests x) = u)
  {q : SharedReq} {l : List SharedReq} (hq : (bank u x.bank.val).queue = q :: l)
include hs hu hq

theorem sharedSlot_read (hw : q.write = none) : ∃ t, exec (.sharedSlotAccess x) s = .next t ∧
    SlotEffect u x.bank.val q l (bank u x.bank.val).mem t ∧ tget none t.mem.sharedOut q.who =
      if rowBad u (x.bank.val * 0x80000 + q.addr) then none
      else some ((List.range q.words).map fun i => tget 0 (bank u x.bank.val).mem (q.addr + i)) := by
  obtain ⟨hmem, -, -⟩ := waitersCounted_keeps l { bank u x.bank.val with queue := l } (List.range 7)
  have h := serveRead_served (s := slotTurn u x.bank.val l) (tset_wf _ _ hs) x.bank.val q
  refine ⟨_, (sharedSlot_serves hu hq).trans (by rw [hw]; rfl), h.effect_mem hs, h.out.trans ?_⟩
  rw [bank_slotTurn hs, hmem]
  rfl

theorem sharedSlot_write_leased {ws : List Word} (hw : q.write = some ws) (hk : (bank u x.bank.val).kind ≠ 0) :
    ∃ t, exec (.sharedSlotAccess x) s = .next t ∧ SlotEffect u x.bank.val q l (bank u x.bank.val).mem t ∧
      tget none t.mem.sharedOut q.who = none := by
  obtain ⟨-, hkind, -⟩ := waitersCounted_keeps l { bank u x.bank.val with queue := l } (List.range 7)
  have hk' : (bank (slotTurn u x.bank.val l) x.bank.val).kind ≠ 0 := by rwa [bank_slotTurn hs, hkind]
  have h := serveWrite_leased (s := slotTurn u x.bank.val l) (tset_wf _ _ hs) x.bank.val q ws hk'
  exact ⟨_, (sharedSlot_serves hu hq).trans (by rw [hw]; rfl), h.effect_mem hs, h.out⟩

theorem sharedSlot_write_free {ws : List Word} (hw : q.write = some ws) (hk : (bank u x.bank.val).kind = 0) :
    ∃ t, exec (.sharedSlotAccess x) s = .next t ∧
      SlotEffect u x.bank.val q l (tsetRun 0 (bank u x.bank.val).mem q.addr ws) t ∧ tget none t.mem.sharedOut q.who = some [] := by
  obtain ⟨hmem, hkind, -⟩ := waitersCounted_keeps l { bank u x.bank.val with queue := l } (List.range 7)
  have hk' : (bank (slotTurn u x.bank.val l) x.bank.val).kind = 0 := by rwa [bank_slotTurn hs, hkind]
  have h := serveWrite_free (s := slotTurn u x.bank.val l) (tset_wf _ _ hs) x.bank.val q ws hk'
  refine ⟨_, (sharedSlot_serves hu hq).trans (by rw [hw]; rfl), SlotServed.effect hs (out := some []) ?_, h.out⟩
  have hm : (bank (slotTurn u x.bank.val l) x.bank.val).mem = (bank u x.bank.val).mem := by rw [bank_slotTurn hs, hmem]
  rwa [← hm]

/-- Whatever it serves, the queue moves on. -/
theorem sharedSlot_queue : ∃ t, exec (.sharedSlotAccess x) s = .next t ∧ (q.who ≠ 5 → (bank t x.bank.val).queue = l) := by
  cases hw : q.write with
  | none =>
    obtain ⟨t, ht, he, -⟩ := sharedSlot_read hs hu hq hw
    exact ⟨t, ht, he.queue⟩
  | some ws =>
    by_cases hk : (bank u x.bank.val).kind = 0
    · obtain ⟨t, ht, he, -⟩ := sharedSlot_write_free hs hu hq hw hk
      exact ⟨t, ht, he.queue⟩
    · obtain ⟨t, ht, he, -⟩ := sharedSlot_write_leased hs hu hq hw hk
      exact ⟨t, ht, he.queue⟩

end

/-- Of two arrivals the one of the earlier cycle waits first, and of one cycle that of the lower requester (R244). -/
theorem arrivedRequests_pair {x : SharedSlot} {a c : SlotRequest} (hx : x.arrivals = [a, c]) : arrivedRequests x =
    if c.cycle.val < a.cycle.val ∨ (c.cycle = a.cycle ∧ c.who.val < a.who.val) then [sharedReq c, sharedReq a]
    else [sharedReq a, sharedReq c] := by
  unfold arrivedRequests
  rw [hx]
  simp only [List.foldl_cons, List.foldl_nil, insertArrival, Bool.or_eq_true, Bool.and_eq_true, decide_eq_true_eq]
  split <;> rfl

/-- Settles O25: a turn's effect is that of the one request that it serves. -/
theorem sharedAccesses : Obligations.SharedAccesses := by
  intro s x q l hs
  have hb := hs.banks
  have hnone (ha : x.arrivals = []) : queueShared s x.bank.val (arrivedRequests x) = s := by
    unfold arrivedRequests
    rw [ha]
    exact queueShared_nil hb _
  refine ⟨fun hq ha => sharedSlot_idle (hnone ha) hq, fun a c ha hq => ?_, fun hq ha => ?_⟩
  · have hq' : (bank (queueShared s x.bank.val (arrivedRequests x)) x.bank.val).queue = q :: arrivedRequests x := by
      rw [bank_queueShared hb, hq]; rfl
    rw [← arrivedRequests_pair ha]
    exact sharedSlot_queue (tset_wf _ _ hb) rfl hq'
  · cases hw : q.write with
    | none =>
      obtain ⟨t, ht, he, hout⟩ := sharedSlot_read hb (hnone ha) hq hw
      exact ⟨t, ht, he.queue, he.waits, he.others, he.kind, fun _ => ⟨he.mem, hout⟩, fun ws h => nomatch h⟩
    | some ws =>
      by_cases hk : (bank s x.bank.val).kind = 0
      · obtain ⟨t, ht, he, hout⟩ := sharedSlot_write_free hb (hnone ha) hq hw hk
        refine ⟨t, ht, he.queue, he.waits, he.others, he.kind, fun h => (nomatch h), fun _ h => ?_⟩
        obtain rfl := Option.some.inj h
        exact ⟨fun h0 => absurd hk h0, fun _ => ⟨hout, fun k => he.mem ▸ tget_tsetRun ws (hs.bank _) q.addr k⟩⟩
      · obtain ⟨t, ht, he, hout⟩ := sharedSlot_write_leased hb (hnone ha) hq hw hk
        exact ⟨t, ht, he.queue, he.waits, he.others, he.kind, fun h => (nomatch h),
          fun _ _ => ⟨fun _ => ⟨he.mem, hout⟩, fun h0 => absurd h0 hk⟩⟩

end Sys2Proof.Machine
end

section
/-! Port B of a crossing block: turns, accesses, collisions, and the atomics of the control core (R256 to R260, R274). -/
namespace Sys2Proof.Machine

/-! ### What an access leaves of its block and of the machine -/

/-- `t` differs from `s` in memories and events alone. -/
def OnlyMem (s t : State) : Prop := { t with mem := s.mem, events := s.events } = s

theorem OnlyMem.trans {s t u : State} (h : OnlyMem s t) (h' : OnlyMem t u) : OnlyMem s u := by
  unfold OnlyMem at h h'
  conv_lhs at h => rw [← h']
  exact h

theorem OnlyMem.served {s t : State} (h : OnlyMem s t) {r : Req} {o l : Nat} (hs : Served s r o l) : Served t r o l := by
  rw [← h] at hs
  exact hs

section
variable (s : State) (b : Nat)

theorem setCross_onlyMem (v : Cross) : OnlyMem s (setCross s b v) := rfl

theorem eccRead_onlyMem (l : Nat) : OnlyMem s (eccRead s l) := by
  unfold eccRead
  have hdetect (bad : Bool) : OnlyMem s (eccDetect s bad l) := by
    unfold OnlyMem eccDetect
    cases bad <;> simp
  split
  · rfl
  · exact hdetect false
  · exact hdetect true

theorem collide_onlyMem (w : Nat) : OnlyMem s (collide s b w) := by
  unfold collide
  dsimp only
  split
  · rfl
  · unfold OnlyMem
    simp

/-- What an access of port B can do: a read, a write, nothing, or a collision (R257). -/
theorem portBAct_cases (a : PortB) (same : Bool) :
    (∃ v, portBAct s b a same = eccRead (setCross s b { cross s b with readB := v }) (locOf 4 b a.word)) ∨
      (∃ v, portBAct s b a same = portBWrite s b a.word v) ∨ portBAct s b a same = s ∨ portBAct s b a same = collide s b a.word := by
  unfold portBAct
  dsimp only
  split
  · exact .inl ⟨_, rfl⟩
  · split
    · exact .inr (.inl ⟨_, rfl⟩)
    · split
      · exact .inr (.inl ⟨_, rfl⟩)
      · split
        · exact .inr (.inl ⟨_, rfl⟩)
        · split
          · exact .inr (.inr (.inl rfl))
          · exact .inr (.inr (.inr rfl))

theorem portBAct_onlyMem (a : PortB) (same : Bool) : OnlyMem s (portBAct s b a same) := by
  obtain ⟨v, h⟩ | ⟨v, h⟩ | h | h := portBAct_cases s b a same <;> rw [h]
  · exact (setCross_onlyMem s b _).trans (eccRead_onlyMem _ _)
  · rfl
  · rfl
  · exact collide_onlyMem ..

theorem portBStep_onlyMem (same : Bool) : OnlyMem s (portBStep s b same) := by
  unfold portBStep
  dsimp only
  split
  · rfl
  · exact (setCross_onlyMem s b _).trans (portBAct_onlyMem ..)

theorem settlePortB_onlyMem : OnlyMem s (settlePortB s b) := by
  unfold settlePortB
  generalize List.range _ = l
  induction l generalizing s with
  | nil => rfl
  | cons x l ih => exact (portBStep_onlyMem s b false).trans (ih _)

end

section
variable {s : State} (hs : Tbl.wf {} s.mem.cross = true) (b : Nat)
include hs

theorem collide_cross (w : Nat) : ∃ flag count ovf, cross (collide s b w) b = { cross s b with flag := flag, count := count, ovf := ovf } := by
  unfold collide
  dsimp only
  split
  · exact ⟨_, _, _, cross_setCross_self _ _ hs⟩
  · rw [detect_cross]
    exact ⟨_, _, _, cross_setCross_self _ _ hs⟩

/-- An access changes what its block holds, not what waits there or whose turn it is. -/
theorem portBAct_cross (a : PortB) (same : Bool) : ∃ mem flag count ovf readB, cross (portBAct s b a same) b =
    { cross s b with mem := mem, flag := flag, count := count, ovf := ovf, readB := readB } := by
  obtain ⟨v, h⟩ | ⟨v, h⟩ | h | h := portBAct_cases s b a same <;> rw [h]
  · rw [eccRead_cross, cross_setCross_self _ _ hs]
    exact ⟨_, _, _, _, _, rfl⟩
  · exact ⟨_, _, _, _, _, cross_setCross_self _ _ hs⟩
  · exact ⟨_, _, _, _, _, rfl⟩
  · obtain ⟨flag, count, ovf, hc⟩ := collide_cross hs b a.word
    exact ⟨_, flag, count, ovf, _, hc⟩

end

/-! ### Turns -/

/-- Block `b` once access `a` is taken from its side: the control core's where `cc`. -/
def portBTurn (s : State) (b : Nat) (a : PortB) (cc : Bool) : State :=
  setCross s b { cross s b with
    waitCc := if cc then (cross s b).waitCc.drop 1 else (cross s b).waitCc
    waitLink := if cc then (cross s b).waitLink else (cross s b).waitLink.drop 1
    lastCc := cc, lastTag := a.tag }

section
variable {s : State} {b : Nat} {same : Bool}

theorem portBStep_none (h : nextPortB (cross s b) = none) : portBStep s b same = s := by
  unfold portBStep
  dsimp only
  rw [h]

theorem portBStep_some {a : PortB} {cc : Bool} (h : nextPortB (cross s b) = some (a, cc)) :
    portBStep s b same = portBAct (portBTurn s b a cc) b a same := by
  unfold portBStep
  dsimp only
  rw [h]
  rfl

/-- What a turn leaves waiting. -/
theorem portBStep_turn (hs : Tbl.wf {} s.mem.cross = true) {a : PortB} {cc : Bool} (h : nextPortB (cross s b) = some (a, cc)) :
    (cross (portBStep s b same) b).waitCc = (if cc then (cross s b).waitCc.drop 1 else (cross s b).waitCc) ∧
      (cross (portBStep s b same) b).waitLink = (if cc then (cross s b).waitLink else (cross s b).waitLink.drop 1) ∧
      (cross (portBStep s b same) b).lastCc = cc := by
  obtain ⟨mem, flag, count, ovf, readB, hc⟩ := portBAct_cross (s := portBTurn s b a cc) (tset_wf b _ hs) b a same
  have hturn := cross_setCross_self b { cross s b with
    waitCc := if cc then (cross s b).waitCc.drop 1 else (cross s b).waitCc
    waitLink := if cc then (cross s b).waitLink else (cross s b).waitLink.drop 1
    lastCc := cc, lastTag := a.tag } hs
  rw [portBStep_some h, hc]
  unfold portBTurn
  rw [hturn]
  exact ⟨rfl, rfl, rfl⟩

end

theorem nextPortB_idle {c : Cross} (hcc : c.waitCc = []) (hlink : c.waitLink = []) : nextPortB c = none := by
  unfold nextPortB
  rw [hcc, hlink]

/-- The sides take turns over requests of one word each (R256). -/
theorem nextPortB_pair {c : Cross} {a b : PortB} (hcc : c.waitCc = [a]) (hlink : c.waitLink = [b]) (ha : a.tag = none) (hb : b.tag = none) :
    nextPortB c = some (if c.lastCc then b else a, !c.lastCc) := by
  unfold nextPortB
  rw [hcc, hlink]
  cases c.lastCc <;> simp [ha, hb]

/-! ### An access that nothing waits before -/

/-- Block `n` once an access of one side, of no longer request, has had its turn. -/
def portBAlone (s : State) (n : Nat) (link : Bool) : State := setCross s n { cross s n with lastCc := !link, lastTag := none }

section
variable {s : State} (hs : Tbl.wf {} s.mem.cross = true) {n : Nat}
include hs

theorem cross_portBAlone (link : Bool) : cross (portBAlone s n link) n = { cross s n with lastCc := !link, lastTag := none } :=
  cross_setCross_self n _ hs

/-- An access that arrives alone is carried out at once. -/
theorem portBStep_arrived (hcc : (cross s n).waitCc = []) (hlink : (cross s n).waitLink = []) (link : Bool) (a : PortB) (ha : a.tag = none)
    (same : Bool) :
    portBStep (setCross s n { cross s n with
        waitCc := if link then (cross s n).waitCc else (cross s n).waitCc ++ [a]
        waitLink := if link then (cross s n).waitLink ++ [a] else (cross s n).waitLink }) n same =
      portBAct (portBAlone s n link) n a same := by
  have hself := cross_setCross_self n { cross s n with
        waitCc := if link then (cross s n).waitCc else (cross s n).waitCc ++ [a]
        waitLink := if link then (cross s n).waitLink ++ [a] else (cross s n).waitLink } hs
  rw [hcc, hlink] at hself ⊢
  rw [portBStep_some (a := a) (cc := !link) (by rw [hself]; cases link <;> rfl)]
  unfold portBTurn portBAlone
  rw [hself, setCross_setCross _ (by cases link <;> (intro h; simp at h)), ha]
  cases link <;> simp [hcc, hlink]

end

/-- The access of port A that portAMeets one of port B. -/
def portAMeets (s : State) (n : Nat) (word : Nat) (same : Bool) : Option PortA := if same then portAOf (cross s n) word else none

section
variable {s : State} {b : Nat} {a : PortB} {same : Bool}

theorem portBAct_read (hw : a.write = none) : portBAct s b a same = eccRead (setCross s b { cross s b with
    readB := (portAMeets s b a.word same).elim (tget 0 (cross s b).mem a.word) PortA.before }) (locOf 4 b a.word) := by
  unfold portBAct portAMeets
  dsimp only
  rw [hw]
  dsimp only
  cases h : (if same then portAOf (cross s b) a.word else none) <;> rfl

variable {v : Word} (hw : a.write = some v)
include hw

theorem portBAct_write_alone (h : portAMeets s b a.word same = none) : portBAct s b a same = portBWrite s b a.word v := by
  unfold portAMeets at h
  unfold portBAct
  dsimp only
  rw [hw, h]

variable {x : PortA} (h : portAMeets s b a.word same = some x)
include h

theorem portBAct_write_read (hx : x.wrote = none) : portBAct s b a same = portBWrite s b a.word v := by
  unfold portAMeets at h
  unfold portBAct
  dsimp only
  rw [hw, h]
  dsimp only
  rw [hx]

theorem portBAct_write_write {y : Word} (hx : x.wrote = some y) :
    portBAct s b a same = if x.atomic then portBWrite s b a.word v else if y = v then s else collide s b a.word := by
  unfold portAMeets at h
  unfold portBAct
  dsimp only
  rw [hw, h]
  dsimp only
  rw [hx]

end

section
variable {s : State} (hs : Tbl.wf {} s.mem.cross = true) {n : Fin 32} {word : Fin 1024} {same : Bool}
include hs

/-- Where nothing arrives, what waits goes on. -/
theorem portBAccess_none (link : Bool) : exec (.portBAccess n link word .none same) s = .next (portBStep s n same) := by
  show ok (portBStep (setCross s n { cross s n with
    waitCc := if link then (cross s n).waitCc else (cross s n).waitCc ++ []
    waitLink := if link then (cross s n).waitLink ++ [] else (cross s n).waitLink }) n same) = _
  simp only [List.append_nil, ite_self]
  rw [setCross_cross hs]
  rfl

theorem portAMeets_portBAlone (link : Bool) (w : Nat) : portAMeets (portBAlone s n link) n w same = portAMeets s n w same := by
  unfold portAMeets
  rw [cross_portBAlone hs]
  rfl

variable (hcc : (cross s n).waitCc = []) (hlink : (cross s n).waitLink = [])
include hcc hlink

theorem portBAccess_read (link : Bool) : exec (.portBAccess n link word .read same) s = .next (eccRead
    (setCross (portBAlone s n link) n { cross (portBAlone s n link) n with
      readB := (portAMeets s n word same).elim (tget 0 (cross s n).mem word) PortA.before }) (locOf 4 n word)) := by
  refine congrArg Host.Outcome.next ((portBStep_arrived hs hcc hlink link ⟨word.val, none, none⟩ rfl same).trans ?_)
  have hmem : (cross (portBAlone s n link) n).mem = (cross s n).mem := by rw [cross_portBAlone hs]
  rw [portBAct_read rfl, portAMeets_portBAlone hs, hmem]

theorem portBAccess_write (link : Bool) (v : Word) : exec (.portBAccess n link word (.write v) same) s =
    .next (portBAct (portBAlone s n link) n ⟨word.val, some v, none⟩ same) :=
  congrArg Host.Outcome.next (portBStep_arrived hs hcc hlink link ⟨word.val, some v, none⟩ rfl same)

end

/-! ### The control core's atomics -/

/-- What an atomic on the long at word `w` of block `k` writes and leaves in port B and the session. -/
def crossAtomicDone (s : State) (r : Req) (k w : Nat) (old new : Long) : State :=
  let written := portBWrite (portBWrite (taken s r) k w (new.extractLsb' 16 16)) k (w + 1) (new.extractLsb' 0 16)
  let took := setCross written k { cross written k with lastCc := true, lastTag := none, readB := old.extractLsb' 0 16 }
  setSession took r.sess { session took r.sess with oldAtomic := old }

/-- An atomic on an intact long of the crossing RAM acts after what waits for port B. -/
theorem crossAtomic_accepts {s : State} {r : Req} (h : Served s r 0x1005 engineer) {addr : Word} (haddr : addr.toNat < 0x8000)
    (heven : addr.toNat % 1024 % 2 = 0) (swap : Bool) (v : Long) (same : Bool) {k w : Nat} (hk : addr.toNat / 1024 % 32 = k)
    (hw : addr.toNat % 1024 = w) {u : State} (hu : settlePortB s k = u)
    (h0 : eccMark u (locOf 4 k w) = 0) (h1 : eccMark u (locOf 4 k (w + 1)) = 0) {old : Long}
    (hold : tget 0 (cross u k).mem w ++ tget 0 (cross u k).mem (w + 1) = old) :
    Accepts (.crossAtomic r addr (if swap then 1 else 0) 0 v same) s r (crossAtomicDone u r k w old (if swap then v else old + v)) := by
  subst hk hw
  have hserved : Served u r 0x1005 engineer := (hu ▸ settlePortB_onlyMem s _).served h
  show execCrossAtomic r addr (if swap then 1 else 0) 0 v same s = _
  unfold execCrossAtomic
  dsimp only
  rw [hu]
  have hread : [addr.toNat % 1024, addr.toNat % 1024 + 1].foldl (fun s w => eccRead s (locOf 4 (addr.toNat / 1024 % 32) w)) u = u := by
    simp only [List.foldl_cons, List.foldl_nil]
    rw [eccRead_unmarked h0, eccRead_unmarked h1]
  rw [hread, ite_self]
  have hbad : [addr.toNat % 1024, addr.toNat % 1024 + 1].any (fun w => decide (eccMark u (locOf 4 (addr.toNat / 1024 % 32) w) = 2)) = false := by
    simp [h0, h1]
  rw [hbad]
  refine congrArg Host.Outcome.next (writeCmd_ok hserved rfl rfl rfl ?_ ?_)
  · cases swap <;> simp [haddr, heven]
  · rw [taken_cross, hold]
    cases swap <;> rfl

/-- Settles O26, one access at a time. -/
theorem crossingPorts : Obligations.CrossingPorts := by
  intro s n hs
  have hx := hs.cross
  refine ⟨fun link word v same hcc hlink => ?_, fun a b word same hcc hlink ha hb => ?_, fun r mask h => writeCmd_accepts rfl h rfl rfl rfl,
    ?_, ?_, fun r addr swap v same h haddr heven h0 h1 => crossAtomic_accepts h haddr heven swap v same rfl rfl rfl h0 h1 rfl⟩
  · refine ⟨?_, portBAccess_read hx hcc hlink link, fun hn => ?_, fun a ha => ?_⟩
    · rw [portBAccess_none hx, portBStep_none (nextPortB_idle hcc hlink), setCross_cross hx]
    · rw [portBAccess_write hx hcc hlink, portBAct_write_alone rfl ((portAMeets_portBAlone hx link word).trans hn)]
      rfl
    · rw [portBAccess_write hx hcc hlink]
      have hmeets := (portAMeets_portBAlone hx link word).trans ha
      refine ⟨fun hr => ?_, fun y hy => ?_⟩
      · rw [portBAct_write_read rfl hmeets hr]
        rfl
      · rw [portBAct_write_write rfl hmeets hy]
        refine ⟨fun hat => ?_, fun hat hv => ?_, fun hat hv => ?_⟩
        · rw [if_pos hat]; rfl
        · rw [hat, if_neg Bool.false_ne_true, if_pos hv]; rfl
        · rw [hat, if_neg Bool.false_ne_true, if_neg hv]; rfl
  · have hturn := portBStep_turn (same := same) hx (nextPortB_pair hcc hlink ha hb)
    obtain ⟨hwcc, hwlink, hlast⟩ := hturn
    refine ⟨_, portBAccess_none hx true, hlast, hwcc.trans ?_, hwlink.trans ?_⟩
    · rw [hcc]; cases (cross s n).lastCc <;> rfl
    · rw [hlink]; cases (cross s n).lastCc <;> rfl
  · obtain ⟨-, hw, -⟩ := settlePortB_waits s n hx
    exact congrArg Prod.fst hw
  · obtain ⟨-, hw, -⟩ := settlePortB_waits s n hx
    exact congrArg Prod.snd hw

end Sys2Proof.Machine
end

section
/-! The patrol of a region: copy, redirect, test, restore and release, and its commands (R263 to R269, R275). -/
namespace Sys2Proof.Machine

/-! ### The shared steps -/

@[simp] theorem setPatrol_patrol (s : State) (p : Patrol) : (setPatrol s p).mem.patrol = p := rfl

theorem patrolStep_patrol (s : State) (p : Patrol) (k : Nat) :
    (patrolStep s p k).mem.patrol = { p with left := stepAccesses p.region k } := by
  unfold patrolStep
  dsimp only
  split <;> rfl

theorem patrolStep_flash (s : State) (p : Patrol) (k : Nat) : (patrolStep s p k).flash = s.flash := by
  unfold patrolStep
  dsimp only
  split <;> rfl

theorem patrolStep_events (s : State) (p : Patrol) (k : Nat) : (patrolStep s p k).events = s.events := by
  unfold patrolStep
  dsimp only
  split <;> rfl

/-- Which regions are skipped is in flash. -/
theorem nextRegion_congr {s u : State} (h : u.flash = s.flash) (r : Nat) : nextRegion u r = nextRegion s r := by
  have hgo (f r : Nat) : nextRegion.go u f r = nextRegion.go s f r := by
    induction f generalizing r with
    | zero => rfl
    | succ f ih => unfold nextRegion.go; rw [h, ih]
  unfold nextRegion
  rw [h, hgo]

theorem sparesUsed_congr {s u : State} (h : u.flash = s.flash) (k : Nat) : sparesUsed u k = sparesUsed s k := by
  unfold sparesUsed
  rw [h]

/-! ### The March test -/

theorem cellAfter_sound {d : CellDefect} (hlow : d.low = 0) (hhigh : d.high = 0) (v : BitVec 72) : cellAfter d v = v := by
  rw [cellAfter, hlow, hhigh, BitVec.ofNat_eq_ofNat, BitVec.or_zero, BitVec.not_zero, BitVec.and_allOnes]

/-- Cells that hold all zeros and all ones are sound. -/
theorem cellAfter_ends (d : CellDefect) : (cellAfter d 0 = 0 ∧ cellAfter d (~~~0) = ~~~0) ↔ d.low = 0 ∧ d.high = 0 := by
  have hzero : cellAfter d 0 = d.high := by simp [cellAfter]
  rw [hzero]
  constructor
  · rintro ⟨hhigh, hones⟩
    rw [cellAfter, hhigh, BitVec.ofNat_eq_ofNat, BitVec.or_zero, BitVec.not_zero, BitVec.allOnes_and, ← BitVec.not_zero] at hones
    exact ⟨BitVec.not_inj.mp hones, hhigh⟩
  · rintro ⟨hlow, hhigh⟩
    exact ⟨hhigh, cellAfter_sound hlow hhigh _⟩

/-- A unit passes on both backgrounds where none of its cells is stuck; the first background finds every stuck one. -/
theorem marchUnit_both (d : CellDefect) : (marchUnit d (background false) && marchUnit d (background true)) = true ↔ d.low = 0 ∧ d.high = 0 := by
  rw [Bool.and_eq_true]
  constructor
  · rintro ⟨hfirst, -⟩
    simp only [marchUnit, List.all_cons, Bool.and_eq_true, decide_eq_true_eq] at hfirst
    obtain ⟨hzero, hones, -⟩ := hfirst
    exact (cellAfter_ends d).mp ⟨hzero, hones⟩
  · rintro ⟨hlow, hhigh⟩
    simp [marchUnit, cellAfter_sound hlow hhigh]

theorem marchPasses_iff (k : Nat) (defects : List CellDefect) :
    marchPasses k defects = true ↔ ∀ d ∈ defects, d.unit < unitsOf k → d.low = 0 ∧ d.high = 0 := by
  unfold marchPasses
  rw [List.all_eq_true]
  refine forall₂_congr fun d _ => ?_
  rw [Bool.or_eq_true, marchUnit_both, decide_eq_true_eq, ← Nat.not_lt, ← imp_iff_not_or]

/-! ### The stages of a region -/

section
variable {s : State} {k : Nat}

/-- The words of region `r` are read for the copy, and the correctable ones corrected (R261, R264). -/
def regionRead (s : State) (r : Nat) : State :=
  (marksIn s r).foldl (fun s l => if eccMark s l = 1 then clearMark (eccRead s l) l else eccRead s l) s

theorem regionRead_keeps {β : Type} {f : State → β} (hread : ∀ s bad loc, f (eccDetect s bad loc) = f s)
    (hclear : ∀ s l, f (clearMark s l) = f s) (s : State) (r : Nat) : f (regionRead s r) = f s := by
  refine foldl_keeps f (fun s l => ?_) (marksIn s r) s
  split
  · rw [hclear, eccRead_keeps hread]
  · exact eccRead_keeps hread s l

theorem patrolRegionStart_copies (hk : nextRegion s s.mem.patrol.region = some k) (hidle : s.mem.patrol.state = .idle)
    (hon : s.cfg.patrolOn = true) (hup : dormant s = false) (hcc : s.power.ccDown = none) (hboot : s.power.dev ≠ .booting)
    (hfill : regionFilling s k = false) : ∃ t, exec .patrolRegionStart s = .next t ∧
      t.mem.patrol = { s.mem.patrol with
        state := .copy, region := k, redirected := false, left := stepAccesses k 1
        cutoff := if (nextRegion s (k + 1)).isNone then some (now s) else none } := by
  have hflash : (regionRead s k).flash = s.flash := regionRead_keeps (f := State.flash) (by simp) (fun _ _ => rfl) s k
  have hclocks : (regionRead s k).clocks = s.clocks := regionRead_keeps (f := State.clocks) (by simp [eccDetect]) (fun _ _ => rfl) s k
  have hnow : now (regionRead s k) = now s := by unfold now; rw [hclocks]
  have hexec : exec .patrolRegionStart s = .next (patrolStep (regionRead s k) { s.mem.patrol with
      state := .copy, region := k, redirected := false
      cutoff := if (nextRegion (regionRead s k) (k + 1)).isNone then some (now (regionRead s k)) else none } 1) := by
    show execPatrolRegionStart s = _
    unfold execPatrolRegionStart
    dsimp only
    rw [hk]
    dsimp only
    rw [if_neg (by simp [hidle, hon, hup, hcc, hboot, hfill])]
    rfl
  rw [nextRegion_congr hflash, hnow] at hexec
  exact ⟨_, hexec, patrolStep_patrol ..⟩

/-- The copy is complete: every access goes to the buffer. -/
theorem patrolRedirect_tests (hstate : s.mem.patrol.state = .copy) (hleft : s.mem.patrol.left = 0) :
    ∃ t, exec .patrolRedirect s = .next t ∧ t.mem.patrol = { s.mem.patrol with
      state := .test, redirected := true, left := stepAccesses s.mem.patrol.region 20 } :=
  ⟨_, if_pos (by simp [hstate, hleft]), patrolStep_patrol s { s.mem.patrol with state := .test, redirected := true } 20⟩

theorem patrolTestDone_restores (defects : List CellDefect) (hstate : s.mem.patrol.state = .test) (hleft : s.mem.patrol.left = 0) :
    ∃ t, exec (.patrolTestDone defects) s = .next t ∧
      t.mem.patrol = { s.mem.patrol with
        state := .restore, left := stepAccesses s.mem.patrol.region 1, cells := marchedCells s.mem.patrol.region defects } ∧
      (marchPasses s.mem.patrol.region defects = true → t.flash = s.flash ∧ t.events = s.events) ∧
      (marchPasses s.mem.patrol.region defects = false → sparesUsed s (repairBank s.mem.patrol.region) < 8 →
        t.flash.repair = { s.flash.repair with
          remaps := tset 0 s.flash.repair.remaps s.mem.patrol.region (sparesUsed s (repairBank s.mem.patrol.region) + 1)
          remapCount := (satInc s.flash.repair.remapCount).1 }) ∧
      (marchPasses s.mem.patrol.region defects = false → 8 ≤ sparesUsed s (repairBank s.mem.patrol.region) →
        t.flash.repair = { s.flash.repair with
          skipped := s.flash.repair.skipped ++ [s.mem.patrol.region], unrepaired := (satInc s.flash.repair.unrepaired).1 }) := by
  have hpatrol := patrolStep_patrol s { s.mem.patrol with state := .restore, cells := marchedCells s.mem.patrol.region defects } 1
  have hflash := patrolStep_flash s { s.mem.patrol with state := .restore, cells := marchedCells s.mem.patrol.region defects } 1
  have hevents := patrolStep_events s { s.mem.patrol with state := .restore, cells := marchedCells s.mem.patrol.region defects } 1
  have hexec : exec (.patrolTestDone defects) s = execPatrolTestDone defects s := rfl
  rw [hexec]
  unfold execPatrolTestDone
  dsimp only
  rw [if_neg (by simp [hstate, hleft])]
  generalize patrolStep s _ 1 = u at hpatrol hflash hevents ⊢
  rw [sparesUsed_congr hflash]
  by_cases hpass : marchPasses s.mem.patrol.region defects = true
  · rw [if_pos hpass]
    refine ⟨u, rfl, hpatrol, fun _ => ⟨hflash, hevents⟩, fun h => ?_, fun h => ?_⟩ <;> exact (Bool.false_ne_true (h.symm.trans hpass)).elim
  · rw [if_neg hpass]
    by_cases hspare : sparesUsed s (repairBank s.mem.patrol.region) < 8
    · rw [if_pos hspare]
      refine ⟨_, rfl, ?_, fun h => absurd h hpass, fun _ _ => ?_, fun _ h => absurd hspare (Nat.not_lt.mpr h)⟩
      · rw [detect_mem]; exact hpatrol
      · rw [detect_flash, hflash]
    · rw [if_neg hspare]
      refine ⟨_, rfl, ?_, fun h => absurd h hpass, fun _ h => absurd h hspare, fun _ _ => ?_⟩
      · rw [detect_mem]; exact hpatrol
      · rw [detect_flash, hflash]

end

/-! ### The end of a pass -/

theorem endPass_patrol (s : State) (result : Nat) : (endPass s result).mem.patrol = { s.mem.patrol with
    region := 0, passes := if result = 1 then (satInc s.mem.patrol.passes).1 else s.mem.patrol.passes
    passOvf := s.mem.patrol.passOvf || (decide (result = 1) && (satInc s.mem.patrol.passes).2)
    lastEnd := now s, lastResult := result, cutoff := none, abortReq := false, restartReq := false } := by
  unfold endPass
  dsimp only
  rw [detect_mem]
  by_cases h : result = 1
  · simp [h, setPatrol]
  · simp [h, setPatrol]

/-- The region is released, and patrol goes on with the next. -/
def regionReleased (s : State) : State :=
  setPatrol s { s.mem.patrol with
    state := if s.mem.patrol.pauseReq then .paused else .idle, redirected := false, pauseReq := false
    region := s.mem.patrol.region + 1, left := 0, cells := [] }

section
variable {s : State} (hstate : s.mem.patrol.state = .restore) (hleft : s.mem.patrol.left = 0)
include hstate hleft

theorem patrolRelease_exec : exec .patrolRelease s = .next (
    if s.mem.patrol.abortReq || s.mem.patrol.restartReq then endPass (regionReleased s) 2
    else if (nextRegion s (s.mem.patrol.region + 1)).isNone then endPass (regionReleased s) 1 else regionReleased s) := by
  show execPatrolRelease s = _
  unfold execPatrolRelease
  dsimp only
  rw [if_neg (by simp [hstate, hleft])]
  unfold releaseRegion
  dsimp only
  rw [if_pos hleft, Bool.false_or, ← nextRegion_congr (u := regionReleased s) (s := s) rfl]
  rfl

theorem patrolRelease_releases : ∃ t, exec .patrolRelease s = .next t ∧
    t.mem.patrol.state = (if s.mem.patrol.pauseReq then .paused else .idle) ∧ t.mem.patrol.redirected = false ∧ t.mem.patrol.cells = [] ∧
    (∀ k, s.mem.patrol.abortReq = false → s.mem.patrol.restartReq = false → nextRegion s (s.mem.patrol.region + 1) = some k →
      t.mem.patrol.region = s.mem.patrol.region + 1 ∧ t.events = s.events) ∧
    (s.mem.patrol.abortReq = true ∨ s.mem.patrol.restartReq = true →
      t.mem.patrol.region = 0 ∧ t.mem.patrol.lastResult = 2 ∧ t.mem.patrol.lastEnd = now s) ∧
    (s.mem.patrol.abortReq = false → s.mem.patrol.restartReq = false → nextRegion s (s.mem.patrol.region + 1) = none →
      t.mem.patrol.region = 0 ∧ t.mem.patrol.lastResult = 1 ∧ t.mem.patrol.passes = (satInc s.mem.patrol.passes).1) := by
  refine ⟨_, patrolRelease_exec hstate hleft, ?_⟩
  by_cases hasked : s.mem.patrol.abortReq = true ∨ s.mem.patrol.restartReq = true
  · rw [if_pos (by simpa using hasked), endPass_patrol]
    exact ⟨rfl, rfl, rfl, fun _ h1 h2 => absurd hasked (by simp [h1, h2]), fun _ => ⟨rfl, rfl, rfl⟩,
      fun h1 h2 => absurd hasked (by simp [h1, h2])⟩
  · rw [if_neg (by simpa using hasked)]
    cases hnext : nextRegion s (s.mem.patrol.region + 1) with
    | none =>
      rw [Option.isNone_none, if_pos rfl, endPass_patrol]
      exact ⟨rfl, rfl, rfl, fun _ _ _ h => (nomatch h), fun h => absurd h hasked, fun _ _ _ => ⟨rfl, rfl, rfl⟩⟩
    | some j =>
      rw [if_neg (by simp)]
      exact ⟨rfl, rfl, rfl, fun _ _ _ _ => ⟨rfl, rfl⟩, fun h => absurd h hasked, fun _ _ h => (nomatch h)⟩

end

/-! ### Commands -/

section
variable {s : State} {r : Req} (h : Served s r 0x1001 engineer)
include h

theorem restartPass_accepts : Accepts (.restartPass r) s r
    (if patrolBusy s.mem.patrol then setPatrol (taken s r) { s.mem.patrol with restartReq := true } else endPass (taken s r) 2) :=
  writeCmd_accepts rfl h rfl rfl (by rw [taken_mem])

theorem patrolAbort_late (hc : s.mem.patrol.cutoff ≠ none) : Refuses (.patrolAbort r) s r eLate :=
  writeCmd_refuses rfl h rfl rfl (by rw [taken_mem]; exact if_pos (Option.isSome_iff_ne_none.mpr hc))

theorem patrolAbort_accepts (hc : s.mem.patrol.cutoff = none) : Accepts (.patrolAbort r) s r
    (if patrolBusy s.mem.patrol then setPatrol (taken s r) { s.mem.patrol with abortReq := true } else endPass (taken s r) 2) :=
  writeCmd_accepts rfl h rfl rfl (by dsimp only; rw [taken_mem]; exact if_neg (by simp [hc]))

theorem patrolEnable_on : ∃ t, Accepts (.patrolEnable r 1) s r t ∧ t.cfg.patrolOn = true ∧
    t.mem.patrol.state = if s.mem.patrol.state = .paused then .idle else s.mem.patrol.state :=
  ⟨_, writeCmd_accepts rfl h rfl rfl rfl, by simp, rfl⟩

theorem patrolEnable_off : ∃ t, Accepts (.patrolEnable r 0) s r t ∧ t.cfg.patrolOn = false ∧
    t.mem.patrol.state = (if s.mem.patrol.state = .idle then .paused else s.mem.patrol.state) ∧
    (patrolBusy s.mem.patrol = true → t.mem.patrol.pauseReq = true) := by
  refine ⟨_, writeCmd_accepts rfl h rfl rfl rfl, by simp, ?_, fun hbusy => ?_⟩
  · cases hp : s.mem.patrol.state <;> simp [hp]
  · unfold patrolBusy at hbusy
    cases hp : s.mem.patrol.state <;> simp [hp] at hbusy ⊢

end

/-- Settles O27, stage by stage. -/
theorem patrolSequence : Obligations.PatrolSequence := fun s k =>
  ⟨patrolRegionStart_copies, patrolRedirect_tests, marchPasses_iff k, patrolTestDone_restores, fun hstate hleft =>
      let ⟨t, ht, hs, hr, hc, hnext, hasked, hlast⟩ := patrolRelease_releases hstate hleft
      ⟨t, ht, hs, hr, hc, hnext k, hasked, hlast⟩,
    fun r h => ⟨fun hb => by simpa only [hb, if_true] using restartPass_accepts h,
      fun hb => by simpa only [hb, Bool.false_eq_true, if_false] using restartPass_accepts h, patrolAbort_late h,
      fun hc hb => by simpa only [hb, if_true] using patrolAbort_accepts h hc,
      fun hc hb => by simpa only [hb, Bool.false_eq_true, if_false] using patrolAbort_accepts h hc, patrolEnable_on h, patrolEnable_off h⟩⟩

end Sys2Proof.Machine
end
